-- ==== Sys2Proof/Word.lean ====
section
/-! DEFINITION. The word types of the Zorelo Z6 and their plainest arithmetic (R6, R7, R10, R102). -/
namespace Sys2Proof

abbrev Byte := BitVec 8
/-- One 16-bit parcel of a code line (R82). -/
abbrev Parcel := BitVec 16
/-- A 64-bit word: a data value, a system register, a flag word. -/
abbrev Word := BitVec 64
/-- The body of a general register (R40). -/
abbrev Body := BitVec 128

/-- Register numbers of the encodings: g0-g15 or a vector source field, v0-v7, k0-k3, t0-t31 (R90). -/
abbrev GIx := Fin 16
abbrev VIx := Fin 8
abbrev KIx := Fin 4
abbrev TIx := Fin 32

/-- x[hi:lo] of a natural number read as bits (R10). -/
def bits (x hi lo : Nat) : Nat := x / 2 ^ lo % 2 ^ (hi + 1 - lo)

/-- Bit n of a natural number read as bits. -/
def bit (x n : Nat) : Bool := x / 2 ^ n % 2 == 1

def boolNat (b : Bool) : Nat := if b then 1 else 0

/-- The two's complement value of the low w bits of x (the exact integer behind Sext, R102). -/
def sgn (w x : Nat) : Int :=
  let y := x % 2 ^ w
  if 2 * y < 2 ^ w then (y : Int) else (y : Int) - (2 ^ w : Nat)

/-- An integer narrowed to w bits, modulo 2^w. -/
def wrapInt (w : Nat) (i : Int) : Nat := (i % ((2 ^ w : Nat) : Int)).toNat

/-- Ceiling division. -/
def ceilDiv (a b : Nat) : Nat := (a + b - 1) / b

/-- The little-endian value of a list of bytes (R6). -/
def leNat : List Byte → Nat
  | [] => 0
  | b :: bs => b.toNat + 256 * leNat bs

/-- The n low bytes of a value, lowest address first (R6). -/
def natLe : Nat → Nat → List Byte
  | 0, _ => []
  | n + 1, x => BitVec.ofNat 8 x :: natLe n (x / 256)

end Sys2Proof
end

