-- ==== Sys2Proof/Syntax.lean ====
section
/-! DEFINITION. The instructions and steps of the Z6 as data: one constructor of Instr per row of the opcode table.
The first 169 constructors are Vekar instructions (R93); the others are the whole steps of the device's other
agents and of the outside world, which have no encoding. -/
namespace Sys2Proof

/-- Condition codes (Table 4.3). -/
inductive Cond where
  | eq | ne | lt | ge | ltu | geu
  deriving DecidableEq, Repr

/-- Float condition codes (Table 4.3, R138). -/
inductive FCond where
  | eq | ne | lt | ge
  deriving DecidableEq, Repr

/-- Element types (Table 4.4). -/
inductive ElemTy where
  | f32 | i32 | bf16 | f16 | i8 | n8 | n32 | i64 | e4m3 | e5m2 | e3m2 | e2m3 | e2m1 | mxint8
  deriving DecidableEq, Repr

/-- Rounding-mode field of an instruction (Table 3.4). -/
inductive Rm where
  | rne | rz | rup | rdn | sr | dyn
  deriving DecidableEq, Repr

/-- Atomic types (Table 4.5). -/
inductive AtomTy where
  | i32 | i64 | n32 | f32 | bf16x2
  deriving DecidableEq, Repr

/-- Element width of LDVS, STVS (R164). -/
inductive EltW where
  | w | h | b
  deriving DecidableEq, Repr

/-- Matrix element types (Table 11.2). -/
inductive MTy where
  | e4m3 | e5m2 | e3m2 | e2m3 | e2m1 | bf16 | i8
  deriving DecidableEq, Repr

/-- Sparsity N of N:8 (R262). -/
inductive SpN where
  | one | two | four
  deriving DecidableEq, Repr

/-- CAPGET selectors (Table 5.8). -/
inductive CapSel where
  | cursor | base | length | perm | w | upper
  deriving DecidableEq, Repr

/-- System registers (Table 8.2). -/
inductive SysReg where
  | status | mode | rmode | seed | tvec | epc | ecause | eval | ecap | bpc
  | tileid | thrid | ctxid | pkgid | nports | cycle | retired | injstall | throttle | matwt
  deriving DecidableEq, Repr

/-- Scope of TLBINV (R203). -/
inductive InvScope where
  | page | range | context
  deriving DecidableEq, Repr

/-- The places where requests are performed (R213): a tile's memory unit, one of the 128 memory ports of the HBM
stacks (stack * 8 + port, R344), or the MMIO block reached through an I/O die. -/
inductive Home where
  | tile (t : Nat)
  | port (p : Nat)
  | io (d : Nat)
  deriving DecidableEq, Repr

/-- Who writes an MMIO register (R323, R341, R342): the host through BAR0, or a device thread of a context. -/
inductive Writer where
  | host
  | device (ctx : Nat)
  deriving DecidableEq, Repr

/-- A containment rectangle: a CRECT, or a cluster that lies in none (R394). -/
inductive RectId where
  | crect (r : Fin 64)
  | cluster (c : Nat)
  deriving DecidableEq, Repr

/-- Causes of a fence (Table 22.5). -/
inductive FenceCause where
  | controlState | controlLogic | meshLink | command
  deriving DecidableEq, Repr

/-- Wear units (Table 22.3): the kind, and the number of the unit among its kind. -/
structure WearUnit where
  kind : Fin 4
  unit : Nat
  deriving DecidableEq, Repr

/-- INJECT's kinds with their locations (R403, R422). -/
inductive Injection where
  | sramSingle (tile off : Nat)
  | sramUncorrectable (tile off : Nat)
  | hbmSingle (ppa : Nat)
  | hbmUncorrectable (ppa : Nat)
  | linkCrc (tile : Nat) (dir : Fin 4)
  | checker (tile : Nat) (again : Bool)
  | residue (cluster : Nat) (again : Bool)
  deriving DecidableEq, Repr

/-- One host access through BAR2 (R370, R372): a write carries its bytes. -/
inductive HostAccess where
  | read (len : Nat)
  | write (data : List Byte)
  deriving DecidableEq, Repr

/-- What the boot steps of Table 23.1 find: facts about the part that come from outside the manual. -/
structure BootReport where
  firmware : List Byte        -- the Evodon firmware with its signature block (step 1)
  spareMap : List Byte        -- the spare map as Evodon reads it from its store, its check value last (step 2)
  trainingImage : List Byte   -- the training image of Evodon's store (step 4)
  failedDies : List Nat       -- dies whose links fail (step 3)
  badDies : List Nat          -- dies whose stacks cannot be written (step 5)
  fusedDies : List Nat        -- dies that have been fused off, with an entry in the map (R406)
  spareLanePorts : List Nat   -- Atwald ports a lane of which fails in training (step 6)
  downPorts : List Nat        -- Atwald ports more than one lane of which fails (step 6)
  downLinks : List Nat := []  -- host links whose training fails (step 6)
  deriving DecidableEq, Repr

/-- Flit operations (Table 20.3). -/
inductive Op where
  | load | loadv | loadcap | store | storev | storecap | put | putv | atomic | atomicr
  | ldc | stp | feset | scrub | poison | arm | disarm | withdraw | granule | streamend
  | push | tdec | tcancel | wake | tlbinv
  | resp | respv | ack | nak | signal | fire | notreg | removed
  | reserved
  deriving DecidableEq, Repr

/-- The remote atomic functions (Table 7.2, R170, R171). -/
inductive AtomFn where
  | add | min | max | and | or | xor | swap | cas
  deriving DecidableEq, Repr

/-- NAK reasons (Table 1.5, R397), numbered as the REASON field of Table 13.3. -/
inductive Reason where
  | none | slot | window | qfull | absent | fenced | cap | guard | link
  deriving DecidableEq, Repr

/-- The operands a flit carries, by operation. The manual lays out the auxiliary operand (Table 1.6, Table 10.7);
the other operands travel in the data bytes in an order it does not give (log 9), so they are fields here. -/
structure Flit where
  op : Op
  ctx : Nat := 0                 -- CTXID
  ga : Nat := 0                  -- GA: space and address of the target
  tag : Nat := 0                 -- source's tag
  fidx : Nat := 0
  flast : Nat := 0
  src : Home := .tile 0          -- SX, SY: the tile, or the agent behind the brim port of that router
  exit : Nat := 0                -- 0 tile, 1 north, 2 east, 3 south, 4 west
  dx : Nat := 0
  dy : Nat := 0
  age : Nat := 0
  crcBad : Bool := false         -- the CRC-16 of the 64 bytes does not match
  dpkg : Option Nat := Option.none    -- target package of a flit bound off the package (R26)
  data : List Byte := []         -- bytes 16-47: up to 32 data bytes
  size : Nat := 0                -- bytes accessed
  bmask : Nat := 0               -- written bytes of a 64-byte or granule access
  psn : List Nat := []           -- PSN: mark of each data word, 0 clean, class + 1 poisoned
  tags : Nat := 0                -- capability tags of the 16-byte pairs
  flag : Nat := 0                -- FLAG: global address of the flag word, 0 none
  fn : AtomFn := .add
  aty : AtomTy := .i64
  opnd : Nat := 0                -- operand y; threshold of ARM; increment of SIGNAL
  opndMark : Nat := 0            -- mark of that operand
  cmp : Nat := 0                 -- compare value z of RCAS; EQ condition of ARM (1)
  cmpMark : Nat := 0
  cls : Nat := 0                 -- CLASS of SIGNAL, NAK, STREAMEND, FIRE
  origin : Nat := 0              -- ORIGIN
  reason : Reason := .none       -- NAK
  ans : Op := .reserved          -- ACK, NAK: the operation answered
  sigref : Bool := false         -- NAK: the operation stands and its signal was refused (R420)
  thr : Nat := 0                 -- issuing thread, or target thread of a wake
  sup : Bool := false            -- issued in supervisor mode (Table 8.5)
  once : Bool := false           -- ARM of a poll: one evaluation only (R178)
  found : Bool := false          -- answer of a poll: satisfied or poisoned
  idx : Nat := 0                 -- monitor index of an arm; element of an LDVS or lane of a VGATH; ring of a push
  wpoff : Nat := 0               -- GRANULE, STREAMEND
  wpen : Bool := false
  ct : Bool := false
  lastg : Bool := false
  gidx : Nat := 0
  nb : Nat := 0                  -- stream bytes carried by a granule
  count : Nat := 0               -- ACK: operations acknowledged
  tries : Nat := 0               -- refusals that this flit has met, as its sender counts them (R38)
  scope : Nat := 0               -- TLBINV
  len : Nat := 0                 -- TLBINV range
  key : Nat := 0                 -- HBM: key slot of the leaf (R354)
  guarded : Bool := false        -- HBM: leaf G (R307)
  home : Home := .tile 0         -- plane A: the home of the target, as exit, dx and dy place it
  deriving DecidableEq, Repr

inductive Instr where
  -- scalar integer (R105-R111)
  | nop
  | add (d a b : GIx) | sub (d a b : GIx) | and (d a b : GIx) | or (d a b : GIx) | xor (d a b : GIx)
  | andn (d a b : GIx) | shl (d a b : GIx) | shr (d a b : GIx) | sra (d a b : GIx)
  | min (d a b : GIx) | max (d a b : GIx) | minu (d a b : GIx) | maxu (d a b : GIx)
  | mov (d a : GIx)
  | mul (d a b : GIx) | mulh (d a b : GIx) | mulhu (d a b : GIx)
  | div (d a b : GIx) | divu (d a b : GIx) | rem (d a b : GIx) | remu (d a b : GIx)
  | clz (d a : GIx) | ctz (d a : GIx) | popc (d a : GIx)
  | sext (d a : GIx) (wm1 : Fin 64) | zext (d a : GIx) (wm1 : Fin 64)
  | shli (d a : GIx) (n : Fin 64) | shri (d a : GIx) (n : Fin 64) | srai (d a : GIx) (n : Fin 64)
  | bfx (d a : GIx) (wm1 pos : Fin 64) | bfi (d a : GIx) (wm1 pos : Fin 64)
  | addi (d a : GIx) (imm : BitVec 20) | andi (d a : GIx) (imm : BitVec 20)
  | ori (d a : GIx) (imm : BitVec 20) | xori (d a : GIx) (imm : BitVec 20)
  | movi (d : GIx) (x : BitVec 48) | moviShifted (d : GIx) (x : BitVec 48)
  -- compare-skip (R112)
  | cmp (k : Fin 4) (c : Cond) (a b : GIx)
  | cmpi (k : Fin 4) (c : Cond) (a : GIx) (imm : BitVec 20)
  | tstb (k : Fin 4) (ne : Bool) (a : GIx) (n : Fin 64)
  | tstg (k : Fin 4) (ne : Bool) (a : GIx) (t : Fin 4)
  -- jumps (R116, R117)
  | j (s : BitVec 15) (h : Fin 32) | jl (s : BitVec 15) (h : Fin 32)
  | jr (a : GIx) | jlr (a : GIx)
  -- capabilities (R121)
  | capget (d a : GIx) (sel : CapSel)
  | capset (d a b : GIx) | capadd (d a b : GIx) | capbnd (d a b : GIx) | capprm (d a b : GIx)
  | capclr (d a : GIx)
  | capwv (d a b c : GIx)
  | capchk (d a b : GIx) (perm : BitVec 10)
  -- memory (R162-R168); m is the M form of IMM20: PI in bit 19, OFF below (R91)
  | ld (z : Bool) (sz : Fin 4) (d a : GIx) (m : BitVec 20)
  | st (sz : Fin 4) (d a : GIx) (m : BitVec 20)
  | ldv (d : VIx) (a : GIx) (k : KIx) (m : BitVec 20)
  | stv (d : VIx) (a : GIx) (k : KIx) (m : BitVec 20)
  | ldvs (ew : EltW) (d : VIx) (a b : GIx) (k : KIx) (m : BitVec 20)
  | stvs (ew : EltW) (d : VIx) (a b : GIx) (k : KIx) (m : BitVec 20)
  | vgath (d : VIx) (a : GIx) (b : VIx) (k : KIx) (off : BitVec 19)
  | vscat (d : VIx) (a : GIx) (b : VIx) (k : KIx) (off : BitVec 19)
  | ldcap (d a : GIx) (m : BitVec 20) | stcap (d a : GIx) (m : BitVec 20)
  | putf (sz : Fin 4) (d a c : GIx) (m : BitVec 20)
  | putvf (d : VIx) (a : GIx) (k : KIx) (c : GIx) (m : BitVec 20)
  -- atomics (R170, R171)
  | radd (ty : AtomTy) (a b c : GIx) (off : BitVec 16) | rmin (ty : AtomTy) (a b c : GIx) (off : BitVec 16)
  | rmax (ty : AtomTy) (a b c : GIx) (off : BitVec 16) | rand (ty : AtomTy) (a b c : GIx) (off : BitVec 16)
  | ror (ty : AtomTy) (a b c : GIx) (off : BitVec 16) | rxor (ty : AtomTy) (a b c : GIx) (off : BitVec 16)
  | rfadd (ty : AtomTy) (d a b : GIx) (off : BitVec 16)
  | rcas (ty : AtomTy) (d a b c : GIx) (off : BitVec 16)
  | rswap (ty : AtomTy) (d a b : GIx) (off : BitVec 16)
  -- synchronising class and flags (R169, R173-R176)
  | ldc (d a : GIx) (off : BitVec 19) | stp (d a : GIx) (off : BitVec 19)
  | feset (full : Bool) (a : GIx) (off : BitVec 19)
  | fsig (a b : GIx) (off : BitVec 19)
  | fwait (d a : GIx) (en eq : BitVec 4)
  -- tasks, chunks, barriers (R280-R294)
  | wfw
  | tspawn (a b : GIx) (clusterRing : Bool)
  | tdec (a : GIx) | tcancel (d a : GIx)
  | gcset (n : Fin 8) (a b c : GIx) | gchunk (n : Fin 8) (d : GIx)
  | bar (a : GIx) (id : Fin 32)
  | pbara (id : Fin 64) | pbarw (d : GIx) (id : Fin 64) | pbar (d : GIx) (id : Fin 64)
  -- poison and log (R308-R311)
  | scrub (a : GIx) (off : BitVec 19) | poison (a : GIx) (off : BitVec 19)
  | flogrd (d : GIx) (e : Fin 8) (w : Fin 4) | flogclr (mask : BitVec 8)
  -- scalar float (R132-R138)
  | fadd (rm : Rm) (d a b : GIx) | fsub (rm : Rm) (d a b : GIx) | fmul (rm : Rm) (d a b : GIx)
  | ffma (rm : Rm) (d a b c : GIx) | fdiv (rm : Rm) (d a b : GIx) | fsqrt (rm : Rm) (d a : GIx)
  | fmin (d a b : GIx) | fmax (d a b : GIx)
  | fabs (d a : GIx) | fneg (d a : GIx)
  | fcvt (src dst : ElemTy) (rm : Rm) (d a : GIx)
  | fclass (d a : GIx)
  | fcmp (k : Fin 4) (c : FCond) (a b : GIx)
  -- vector (R143-R153)
  | vadd (ty : ElemTy) (rm : Rm) (k : KIx) (d : VIx) (a b : GIx)
  | vsub (ty : ElemTy) (rm : Rm) (k : KIx) (d : VIx) (a b : GIx)
  | vmul (ty : ElemTy) (rm : Rm) (k : KIx) (d : VIx) (a b : GIx)
  | vfma (ty : ElemTy) (rm : Rm) (k : KIx) (d : VIx) (a b c : GIx)
  | vmin (ty : ElemTy) (k : KIx) (d : VIx) (a b : GIx) | vmax (ty : ElemTy) (k : KIx) (d : VIx) (a b : GIx)
  | vabs (ty : ElemTy) (k : KIx) (d : VIx) (a : GIx) | vneg (ty : ElemTy) (k : KIx) (d : VIx) (a : GIx)
  | vrcp (ty : ElemTy) (rm : Rm) (k : KIx) (d : VIx) (a : GIx)
  | vrsq (ty : ElemTy) (rm : Rm) (k : KIx) (d : VIx) (a : GIx)
  | vexp2 (ty : ElemTy) (rm : Rm) (k : KIx) (d : VIx) (a : GIx)
  | vlog2 (ty : ElemTy) (rm : Rm) (k : KIx) (d : VIx) (a : GIx)
  | vcvt (src dst : ElemTy) (rm : Rm) (k : KIx) (p : Fin 4) (d : VIx) (a : GIx)
  | vcvtMx (src dst : ElemTy) (rm : Rm) (p : Fin 4) (d : VIx) (a b : GIx)
  | vdot (ty : ElemTy) (rm : Rm) (k : KIx) (d : VIx) (a b c : GIx)
  | vsum (ty : ElemTy) (rm : Rm) (k : KIx) (d : VIx) (a : GIx)
  | vrmax (ty : ElemTy) (k : KIx) (d : VIx) (a : GIx)
  | viadd (ty : ElemTy) (k : KIx) (d : VIx) (a b : GIx) | visub (ty : ElemTy) (k : KIx) (d : VIx) (a b : GIx)
  | vimul (ty : ElemTy) (k : KIx) (d : VIx) (a b : GIx) | vand (ty : ElemTy) (k : KIx) (d : VIx) (a b : GIx)
  | vor (ty : ElemTy) (k : KIx) (d : VIx) (a b : GIx) | vxor (ty : ElemTy) (k : KIx) (d : VIx) (a b : GIx)
  | vshl (ty : ElemTy) (k : KIx) (d : VIx) (a b : GIx) | vshr (ty : ElemTy) (k : KIx) (d : VIx) (a b : GIx)
  | vsra (ty : ElemTy) (k : KIx) (d : VIx) (a b : GIx)
  | vcmp (c : Cond) (ty : ElemTy) (s : Fin 4) (k : KIx) (d : KIx) (a b : GIx)
  | vsel (k : KIx) (d : VIx) (a b : GIx)
  | vperm (ty : ElemTy) (k : KIx) (d : VIx) (a b : GIx)
  | vmovg (ty : ElemTy) (e : Fin 64) (d a : GIx)
  | vmovl (ty : ElemTy) (e : Fin 64) (d : VIx) (a : GIx)
  | vbcast (ty : ElemTy) (e : Fin 64) (k : KIx) (d : VIx) (a : GIx)
  | kand (d a b : KIx) | kor (d a b : KIx) | knot (d a : KIx) | kpop (d : GIx) (a : KIx)
  -- copy and matrix commands (R249, R271-R274)
  | copy (d dst src shp wf wn sf : GIx) | copyp (d dst src shp wf wn sf : GIx)
  | copym (d dst src shp wf wn sf : GIx) (mask : BitVec 8)
  | copytTo (d src shp wf wn sf : GIx) (t : TIx) | copytFrom (d dst shp wf wn sf : GIx) (t : TIx)
  | copys (d a : GIx) | copyk (d a : GIx)
  | mma (ty : MTy) (t : TIx) (a b wf wn sf : GIx) (k : Fin 16)
  | mmas (ty : MTy) (n : SpN) (t : TIx) (a b md wf wn sf : GIx) (k : Fin 16)
  | tcfg (t : TIx) (a : GIx)
  | tzero (t : TIx) (wf wn sf : GIx)
  | tcvt (dty : ElemTy) (rm : Rm) (t : TIx) (dst wf wn sf : GIx)
  | tsclRow (t : TIx) (s b wf wn sf : GIx) | tsclCol (t : TIx) (s b wf wn sf : GIx)
  -- system (R188, R193-R203)
  | eret | yield | halt | pdrain
  | rdcnt (d : GIx)
  | trap (code : BitVec 8)
  | sysrd (d : GIx) (r : SysReg) | syswr (r : SysReg) (a : GIx)
  | wake (a : GIx)
  | ctxst (a b : GIx) | ctxld (a b : GIx)
  | tlbinv (a b : GIx) (scope : InvScope)
  -- steps of the tile's own agents and of the fabric
  | fetchRefill (tile thr : Nat)
  | routerCycle (tile : Nat) | throttleExpiry (tile : Nat)
  -- requests performed at a home (Table 20.3, plane A)
  | load (h : Home) | loadv (h : Home) | loadcap (h : Home)
  | store (h : Home) | storev (h : Home) | storecap (h : Home)
  | put (h : Home) | putv (h : Home) | atomic (h : Home) | atomicr (h : Home)
  | ldcRequest (h : Home) | stpRequest (h : Home) | fesetRequest (h : Home)
  | scrubRequest (h : Home) | poisonRequest (h : Home)
  | arm (h : Home) | disarm (h : Home) | withdraw (h : Home)
  | granule (h : Home) | streamend (h : Home)
  | push (h : Home) | tdecRequest (h : Home) | tcancelRequest (h : Home) | wakeRequest (h : Home)
  | tlbinvRequest (cluster : Nat) | tlbinvPortComplete (cluster : Nat)
  -- answers, signals and wakes (plane B)
  | resp (tile : Nat) | respv (tile : Nat) | ack (h : Home) | nak (h : Home)
  | nakRetry (tile n : Nat)
  | signal (h : Home) | fire (tile : Nat) | notreg (tile : Nat) | removed (tile : Nat)
  | armResend (tile thr : Nat) | fwaitTimeout (tile thr : Nat)
  -- copy and matrix engines
  | copyActivate (tile entry : Nat) | copyGranuleSend (tile entry : Nat)
  | matrixGrant (cluster : Nat) | matrixExecute (cluster : Nat) | matrixComplete (cluster : Nat)
  | tcfgClosed (cluster : Nat) (t : TIx) | tcfgClearDone (cluster : Nat) (t : TIx)
  -- queue bank, crown
  | dispatch (cluster : Nat) | dispenserScoreWindow (tile : Nat) | recordPromotion (cluster : Nat)
  | cuffSpill (cluster : Nat) | cuffRefill (cluster : Nat)
  | crownRootArrival (tile : Nat) (b : Fin 64) | crownRelease (b : Fin 64)
  -- translation
  | pageWalk (cluster : Nat) | supqRetry
  -- launch sequencer
  | contextCreate (c : Fin 64) (v : Word) | contextDestroy (c : Fin 64) (v : Word)
  | ringMap (slot : Fin 64) (v : Word) | ringUnmap (slot : Fin 64) (v : Word) | subnotify (slot : Fin 64) (v : Word)
  | ringConsume (slot : Fin 64)
  | launchConditionsMet (id : Nat) | launchPlacement | launchLoad (id : Nat) | launchCompletion (id : Nat)
  | kill (v : Word) (who : Writer)
  | crownBind (b : Fin 64) (v : Word) (who : Writer) | crownUnbind (b : Fin 64) (v : Word) (who : Writer)
  | preemptHaltRequest (id : Nat) | preemptSettle (tile : Nat) | regionSave (id : Nat) | launchRestore
  -- host, links, Ethernet
  | hostBar2Access (link : Fin 4) (off : Nat) (acc : HostAccess)
  | ioDieOutbound (die : Nat)
  | atwaldFrame (port : Fin 64) (seq ackseq : Nat) (crcOk : Bool) (slots : List (Nat × Nat × Nat × Flit))
  | atwaldLaneFailure (port : Fin 64)
  | enctlWrite (p : Fin 8) (v : Word) | entxtail (p : Fin 8) (v : Word) | enrxtail (p : Fin 8) (v : Word)
  | ethTransmit (p : Fin 8) | ethReceive (p : Fin 8) (frame : List Byte) (fcs : BitVec 32)
  -- service life
  | sramPatrolScrub (tile bank : Nat) | hbmPatrolScrub (stack channel : Nat)
  | wearLeak (u : WearUnit)
  | fenceNotice (r : RectId) (cause : FenceCause)
  | crectWrite (r : Fin 64) (v : Word) | crectUnfence (r : Fin 64)
  | repairDone (u : WearUnit) (ok : Bool)
  -- Evodon's mailbox commands (Tables 22.7 and 23.5); seq is MBCMD.SEQ
  | quote (seq : BitVec 16) (form ctx : Byte) (nonce : List Byte)
  | keyload (seq : BitVec 16) (slot : Nat) (dataKey tweakKey : Nat)
  | keyerase (seq : BitVec 16) (slot : Nat)
  | keyenroll (seq : BitVec 16) (slot : Nat) (key : List Byte) (signer : Nat) (sig : List Byte)
  | ckpt (seq : BitVec 16) (base len : Nat)
  | restore (seq : BitVec 16) (base : Nat)
  | pwrlim (seq : BitVec 16) (watts : Nat)
  | fence (seq : BitVec 16) (r : RectId)
  | remap (seq : BitVec 16) (die col : Nat)
  | hbmppr (seq : BitVec 16) (stack channel row : Nat)
  | offline (seq : BitVec 16) (die : Nat) (force : Bool)
  | online (seq : BitVec 16) (die : Nat)
  | inject (seq : BitVec 16) (inj : Injection)
  | readwear (seq : BitVec 16) (u : WearUnit)
  -- training, registers, power, boot
  | trctlWrite (stack channel : Nat) (v : Word)
  | trpassTest (stack channel : Nat) (passed : Word)
  | registerWrite (addr : Nat) (v : Word) (who : Writer)
  | powerMeasurement (watts : Nat)
  | dieTemperature (die : Nat) (celsius : Nat)
  | powerOnReset (b : BootReport)
  | checkpointWriteDone (micros : Nat)
  deriving DecidableEq, Repr

end Sys2Proof
end

