-- ==== Sys2Proof/WellFormed.lean ====
section
/-! DEFINITION. The conditions an instruction must meet beyond the types of its fields: those for which the
manual calls the encoding illegal (R89-R94, R142, R275 and the instructions' entries). -/
namespace Sys2Proof

/-- Element width in bits inside a v register (R139). I64 has no vector form. -/
def ElemTy.width : ElemTy → Nat
  | .f32 | .i32 | .n32 => 32
  | .bf16 | .f16 => 16
  | .i64 => 64
  | .i8 | .n8 | .e4m3 | .e5m2 | .e3m2 | .e2m3 | .e2m1 | .mxint8 => 8

/-- "F" of Table 6.5. -/
def ElemTy.isF : ElemTy → Bool
  | .f32 | .bf16 | .f16 => true
  | _ => false

/-- "I" of Table 6.5. -/
def ElemTy.isI : ElemTy → Bool
  | .i8 | .n8 | .i32 | .n32 => true
  | _ => false

/-- Integer types of Table 4.4. -/
def ElemTy.isInt (t : ElemTy) : Bool := t.isI || t == .i64

/-- The element formats of R70: E4M3 to MXINT8. -/
def ElemTy.isElement : ElemTy → Bool
  | .e4m3 | .e5m2 | .e3m2 | .e2m3 | .e2m1 | .mxint8 => true
  | _ => false

/-- Elements of a type in a v register. -/
def ElemTy.count (t : ElemTy) : Nat := 512 / t.width

/-- Types allowed with each posted atomic (Table 4.5). -/
def AtomTy.postedOk (f : AtomFn) : AtomTy → Bool
  | .i32 | .i64 => true
  | .n32 => f == .min || f == .max
  | .f32 => f == .add || f == .min || f == .max
  | .bf16x2 => f == .add

/-- WF = 0 leaves WN zero (R93). -/
def waitOk (wf wn : GIx) : Bool := wf != 0 || wn == 0

/-- Well-formedness: true exactly where an instruction has an encoding that is not illegal. The events have no
encoding and are well-formed whatever their arguments. -/
def Instr.wf : Instr → Bool
  | .bfx _ _ wm1 pos | .bfi _ _ wm1 pos => pos.val + wm1.val + 1 ≤ 64
  | .cmp k _ _ _ | .cmpi k _ _ _ | .tstb k _ _ _ | .tstg k _ _ _ | .fcmp k _ _ _ => k != 0
  | .j _ h | .jl _ h => h != 0
  | .ld z sz _ _ _ => !(z && sz == 3)
  | .radd ty .. => ty.postedOk .add
  | .rmin ty .. => ty.postedOk .min
  | .rmax ty .. => ty.postedOk .max
  | .rand ty .. => ty.postedOk .and
  | .ror ty .. => ty.postedOk .or
  | .rxor ty .. => ty.postedOk .xor
  | .rfadd ty .. => ty == .i32 || ty == .i64 || ty == .f32
  | .rcas ty .. | .rswap ty .. => ty == .i32 || ty == .i64
  | .fwait _ _ en _ => en != 0
  | .fcvt src dst .. => !(src.isInt && dst.isInt)
  | .vadd ty .. | .vsub ty .. | .vmul ty .. | .vfma ty .. | .vmin ty .. | .vmax ty .. | .vabs ty ..
  | .vneg ty .. | .vrcp ty .. | .vrsq ty .. | .vexp2 ty .. | .vlog2 ty .. | .vsum ty .. | .vrmax ty .. => ty.isF
  | .vcvt src dst _ _ p _ _ =>
    src != .i64 && dst != .i64 && p.val < Nat.max src.width dst.width / Nat.min src.width dst.width
  | .vcvtMx src dst _ p _ _ b =>
    (src.isF && dst.isElement && p == 0 && (src == .f32 || b == 0)) ||
    (src.isElement && dst.isF && b == 0 && (p == 0 || (dst == .f32 && p == 1)))
  | .vdot ty rm .. => ty.isF || ((ty == .i8 || ty == .n8) && rm == .rne)
  | .viadd ty .. | .visub ty .. | .vimul ty .. | .vand ty .. | .vor ty .. | .vxor ty .. | .vshl ty ..
  | .vshr ty .. => ty.isI
  | .vsra ty .. => ty == .i8 || ty == .i32
  | .vcmp c ty s .. =>
    (ty.isI || (ty.isF && (c == .eq || c == .ne || c == .lt || c == .ge))) && s.val < 32 / ty.width
  | .vperm ty .. => ty.isF || ty.isI
  | .vmovg ty e _ _ => (ty.isF || ty.isI) && e.val < ty.count
  | .vmovl ty e _ _ => (ty.isF || ty.isI) && e.val < ty.count
  | .vbcast ty e _ _ _ => (ty.isF || ty.isI) && e.val < ty.count
  | .copy _ _ _ _ wf wn _ | .copyp _ _ _ _ wf wn _ => waitOk wf wn
  | .copym _ _ _ _ wf wn _ mask => waitOk wf wn && mask != 0
  | .copytTo _ _ _ wf wn _ _ | .copytFrom _ _ _ wf wn _ _ => waitOk wf wn
  | .mma _ _ _ _ wf wn _ _ | .mmas _ _ _ _ _ _ wf wn _ _ => waitOk wf wn
  | .tzero _ wf wn _ => waitOk wf wn
  | .tcvt dty _ _ _ wf wn _ => waitOk wf wn && dty != .n32 && dty != .i64
  | .tsclRow _ _ _ wf wn _ | .tsclCol _ _ _ wf wn _ => waitOk wf wn
  | .tlbinv a _ scope => scope != .context || a == 0
  | _ => true

end Sys2Proof
end

