-- ==== Sys2Proof/Decode.lean ====
section
/-! DEFINITION. Heads, tails and code lines (R82-R94): the decoder, total on any words, and after it the encoder.
A head is a number below 2^16; a tail is the value its LEN parcels hold, lowest parcel in [15:0] (R84). -/
namespace Sys2Proof

/-! ## Field codes (Tables 3.4, 4.3-4.5, 5.8, 8.2, 11.2) -/

def Cond.code : Cond → Nat
  | .eq => 0 | .ne => 1 | .lt => 2 | .ge => 3 | .ltu => 4 | .geu => 5

def Cond.ofCode (n : Nat) : Option Cond :=
  match n with
  | 0 => some .eq | 1 => some .ne | 2 => some .lt | 3 => some .ge | 4 => some .ltu | 5 => some .geu
  | _ => none

def FCond.code : FCond → Nat
  | .eq => 0 | .ne => 1 | .lt => 2 | .ge => 3

def FCond.ofCode (n : Nat) : Option FCond :=
  match n with
  | 0 => some .eq | 1 => some .ne | 2 => some .lt | 3 => some .ge
  | _ => none

def ElemTy.code : ElemTy → Nat
  | .f32 => 0 | .i32 => 1 | .bf16 => 2 | .f16 => 3 | .i8 => 4 | .n8 => 5 | .n32 => 6 | .i64 => 7
  | .e4m3 => 8 | .e5m2 => 9 | .e3m2 => 10 | .e2m3 => 11 | .e2m1 => 12 | .mxint8 => 13

def ElemTy.ofCode (n : Nat) : Option ElemTy :=
  match n with
  | 0 => some .f32 | 1 => some .i32 | 2 => some .bf16 | 3 => some .f16 | 4 => some .i8 | 5 => some .n8
  | 6 => some .n32 | 7 => some .i64 | 8 => some .e4m3 | 9 => some .e5m2 | 10 => some .e3m2
  | 11 => some .e2m3 | 12 => some .e2m1 | 13 => some .mxint8
  | _ => none

def Rm.code : Rm → Nat
  | .rne => 0 | .rz => 1 | .rup => 2 | .rdn => 3 | .sr => 4 | .dyn => 7

def Rm.ofCode (n : Nat) : Option Rm :=
  match n with
  | 0 => some .rne | 1 => some .rz | 2 => some .rup | 3 => some .rdn | 4 => some .sr | 7 => some .dyn
  | _ => none

def AtomTy.code : AtomTy → Nat
  | .i32 => 0 | .i64 => 1 | .n32 => 2 | .f32 => 3 | .bf16x2 => 4

def AtomTy.ofCode (n : Nat) : Option AtomTy :=
  match n with
  | 0 => some .i32 | 1 => some .i64 | 2 => some .n32 | 3 => some .f32 | 4 => some .bf16x2
  | _ => none

def MTy.code : MTy → Nat
  | .e4m3 => 0 | .e5m2 => 1 | .e3m2 => 2 | .e2m3 => 3 | .e2m1 => 4 | .bf16 => 5 | .i8 => 6

def MTy.ofCode (n : Nat) : Option MTy :=
  match n with
  | 0 => some .e4m3 | 1 => some .e5m2 | 2 => some .e3m2 | 3 => some .e2m3 | 4 => some .e2m1
  | 5 => some .bf16 | 6 => some .i8
  | _ => none

def SpN.code : SpN → Nat
  | .one => 0 | .two => 1 | .four => 2

def SpN.ofCode (n : Nat) : Option SpN :=
  match n with
  | 0 => some .one | 1 => some .two | 2 => some .four
  | _ => none

/-- N of N:8. -/
def SpN.num : SpN → Nat
  | .one => 1 | .two => 2 | .four => 4

def EltW.code : EltW → Nat
  | .w => 0 | .h => 1 | .b => 2

def EltW.ofCode (n : Nat) : Option EltW :=
  match n with
  | 0 => some .w | 1 => some .h | 2 => some .b
  | _ => none

def CapSel.code : CapSel → Nat
  | .cursor => 0 | .base => 1 | .length => 2 | .perm => 3 | .w => 4 | .upper => 5

def CapSel.ofCode (n : Nat) : Option CapSel :=
  match n with
  | 0 => some .cursor | 1 => some .base | 2 => some .length | 3 => some .perm | 4 => some .w
  | 5 => some .upper
  | _ => none

def InvScope.code : InvScope → Nat
  | .page => 0 | .range => 1 | .context => 2

def InvScope.ofCode (n : Nat) : Option InvScope :=
  match n with
  | 0 => some .page | 1 => some .range | 2 => some .context
  | _ => none

def SysReg.code : SysReg → Nat
  | .status => 0x000 | .mode => 0x001 | .rmode => 0x002 | .seed => 0x003
  | .tvec => 0x008 | .epc => 0x009 | .ecause => 0x00A | .eval => 0x00B | .ecap => 0x00C | .bpc => 0x00D
  | .tileid => 0x010 | .thrid => 0x011 | .ctxid => 0x012 | .pkgid => 0x013 | .nports => 0x014
  | .cycle => 0x018 | .retired => 0x019 | .injstall => 0x01A | .throttle => 0x01B | .matwt => 0x020

def SysReg.ofCode (n : Nat) : Option SysReg :=
  match n with
  | 0x000 => some .status | 0x001 => some .mode | 0x002 => some .rmode | 0x003 => some .seed
  | 0x008 => some .tvec | 0x009 => some .epc | 0x00A => some .ecause | 0x00B => some .eval
  | 0x00C => some .ecap | 0x00D => some .bpc
  | 0x010 => some .tileid | 0x011 => some .thrid | 0x012 => some .ctxid | 0x013 => some .pkgid
  | 0x014 => some .nports
  | 0x018 => some .cycle | 0x019 => some .retired | 0x01A => some .injstall | 0x01B => some .throttle
  | 0x020 => some .matwt
  | _ => none

/-! ## Words (Tables 4.1, 4.2) -/

def headMaj (head : Nat) : Nat := head / 512 % 128
def headLen (head : Nat) : Nat := head / 128 % 4
def headD (head : Nat) : Nat := head / 8 % 16
def headF3 (head : Nat) : Nat := head % 8

def mkHead (maj len d f3 : Nat) : Nat := maj * 512 + len * 128 + d * 8 + f3

/-- Tail S: A, B, F8. -/
def tailS (a b f8 : Nat) : Nat := a * 4096 + b * 256 + f8

/-- Tail L: A, B, C, IMM20. -/
def tailL (a b c imm : Nat) : Nat := a * 268435456 + b * 16777216 + c * 1048576 + imm

/-- IMM20 of the vector format V (R93). -/
def immV (km ty rm ty2 fn : Nat) : Nat := km * 262144 + ty * 16384 + rm * 2048 + ty2 * 128 + fn

def fieldSA (t : Nat) : Nat := t / 4096 % 16
def fieldSB (t : Nat) : Nat := t / 256 % 16
def fieldS8 (t : Nat) : Nat := t % 256
def fieldLA (t : Nat) : Nat := t / 268435456 % 16
def fieldLB (t : Nat) : Nat := t / 16777216 % 16
def fieldLC (t : Nat) : Nat := t / 1048576 % 16
def fieldL20 (t : Nat) : Nat := t % 1048576

abbrev gReg (n : Nat) : GIx := Fin.ofNat 16 n
abbrev vReg (n : Nat) : VIx := Fin.ofNat 8 n
abbrev kReg (n : Nat) : KIx := Fin.ofNat 4 n

/-- An instruction where a condition on its words holds. -/
def need (c : Bool) (i : Instr) : Option Instr := if c then some i else none

/-- A decoded instruction stands only if it is well-formed. -/
def checked (i : Instr) : Option Instr := need i.wf i

/-- Tail length in parcels of each assigned major (R89, Tables 4.6-4.9); none for an unassigned one. -/
def majLen (maj : Nat) : Option Nat :=
  match maj with
  | 0x00 | 0x2C | 0x70 => some 0
  | 0x01 | 0x02 | 0x03 | 0x04 | 0x08 | 0x0A | 0x0B | 0x0D | 0x0E | 0x2F | 0x42 | 0x49 | 0x61 | 0x71
  | 0x73 => some 1
  | 0x05 | 0x06 | 0x09 | 0x0C | 0x0F | 0x20 | 0x21 | 0x22 | 0x23 | 0x24 | 0x25 | 0x26 | 0x27 | 0x28 | 0x29
  | 0x2A | 0x2B | 0x2D | 0x2E | 0x30 | 0x40 | 0x41 | 0x44 | 0x45 | 0x46 | 0x47 | 0x48 | 0x66 | 0x72 | 0x74
  | 0x75 => some 2
  | 0x07 | 0x60 | 0x64 | 0x65 | 0x67 | 0x68 => some 3
  | _ => none

/-! ## The decoder, major by major -/

def decode01 (d f3 a b f8 : Nat) : Option Instr :=
  if f8 ≠ 0 then none else
  match f3 with
  | 0 => some (.add (gReg d) (gReg a) (gReg b))
  | 1 => some (.sub (gReg d) (gReg a) (gReg b))
  | 2 => some (.and (gReg d) (gReg a) (gReg b))
  | 3 => some (.or (gReg d) (gReg a) (gReg b))
  | 4 => some (.xor (gReg d) (gReg a) (gReg b))
  | 5 => some (.andn (gReg d) (gReg a) (gReg b))
  | 6 => some (.shl (gReg d) (gReg a) (gReg b))
  | 7 => some (.shr (gReg d) (gReg a) (gReg b))
  | _ => none

def decode02 (d f3 a b f8 : Nat) : Option Instr :=
  if f8 ≠ 0 then none else
  match f3 with
  | 0 => some (.sra (gReg d) (gReg a) (gReg b))
  | 1 => some (.min (gReg d) (gReg a) (gReg b))
  | 2 => some (.max (gReg d) (gReg a) (gReg b))
  | 3 => some (.minu (gReg d) (gReg a) (gReg b))
  | 4 => some (.maxu (gReg d) (gReg a) (gReg b))
  | 5 => need (b == 0) (.mov (gReg d) (gReg a))
  | _ => none

def decode03 (d f3 a b f8 : Nat) : Option Instr :=
  if f8 ≠ 0 then none else
  match f3 with
  | 0 => some (.mul (gReg d) (gReg a) (gReg b))
  | 1 => some (.mulh (gReg d) (gReg a) (gReg b))
  | 2 => some (.mulhu (gReg d) (gReg a) (gReg b))
  | 3 => some (.div (gReg d) (gReg a) (gReg b))
  | 4 => some (.divu (gReg d) (gReg a) (gReg b))
  | 5 => some (.rem (gReg d) (gReg a) (gReg b))
  | 6 => some (.remu (gReg d) (gReg a) (gReg b))
  | _ => none

def decode04 (d f3 a b f8 : Nat) : Option Instr :=
  if b ≠ 0 then none else
  match f3 with
  | 0 => need (f8 == 0) (.clz (gReg d) (gReg a))
  | 1 => need (f8 == 0) (.ctz (gReg d) (gReg a))
  | 2 => need (f8 == 0) (.popc (gReg d) (gReg a))
  | 3 => need (f8 < 64) (.sext (gReg d) (gReg a) (Fin.ofNat 64 f8))
  | 4 => need (f8 < 64) (.zext (gReg d) (gReg a) (Fin.ofNat 64 f8))
  | 5 => need (f8 < 64) (.shli (gReg d) (gReg a) (Fin.ofNat 64 f8))
  | 6 => need (f8 < 64) (.shri (gReg d) (gReg a) (Fin.ofNat 64 f8))
  | 7 => need (f8 < 64) (.srai (gReg d) (gReg a) (Fin.ofNat 64 f8))
  | _ => none

def decode05 (d f3 a b c imm : Nat) : Option Instr :=
  if b ≠ 0 ∨ c ≠ 0 ∨ imm ≥ 4096 then none else
  match f3 with
  | 0 => checked (.bfx (gReg d) (gReg a) (Fin.ofNat 64 (imm / 64)) (Fin.ofNat 64 (imm % 64)))
  | 1 => checked (.bfi (gReg d) (gReg a) (Fin.ofNat 64 (imm / 64)) (Fin.ofNat 64 (imm % 64)))
  | _ => none

def decode06 (d f3 a b c imm : Nat) : Option Instr :=
  if b ≠ 0 ∨ c ≠ 0 then none else
  match f3 with
  | 0 => some (.addi (gReg d) (gReg a) (BitVec.ofNat 20 imm))
  | 1 => some (.andi (gReg d) (gReg a) (BitVec.ofNat 20 imm))
  | 2 => some (.ori (gReg d) (gReg a) (BitVec.ofNat 20 imm))
  | 3 => some (.xori (gReg d) (gReg a) (BitVec.ofNat 20 imm))
  | _ => none

def decode07 (d f3 x : Nat) : Option Instr :=
  match f3 with
  | 0 => some (.movi (gReg d) (BitVec.ofNat 48 x))
  | 1 => some (.moviShifted (gReg d) (BitVec.ofNat 48 x))
  | _ => none

def decode08 (d f3 a b f8 : Nat) : Option Instr :=
  if f8 ≠ 0 ∨ d ≥ 4 then none else
  match Cond.ofCode f3 with
  | some c => checked (.cmp (Fin.ofNat 4 d) c (gReg a) (gReg b))
  | none => none

def decode09 (d f3 a b c imm : Nat) : Option Instr :=
  if b ≠ 0 ∨ c ≠ 0 ∨ d ≥ 4 then none else
  match Cond.ofCode f3 with
  | some cc => checked (.cmpi (Fin.ofNat 4 d) cc (gReg a) (BitVec.ofNat 20 imm))
  | none => none

def decode0A (d f3 a b f8 : Nat) : Option Instr :=
  if b ≠ 0 ∨ d ≥ 4 ∨ f8 ≥ 64 then none else
  match f3 with
  | 0 => checked (.tstb (Fin.ofNat 4 d) false (gReg a) (Fin.ofNat 64 f8))
  | 1 => checked (.tstb (Fin.ofNat 4 d) true (gReg a) (Fin.ofNat 64 f8))
  | _ => none

def decode0B (d f3 a b f8 : Nat) : Option Instr :=
  if b ≠ 0 ∨ d ≥ 4 ∨ f8 ≥ 4 then none else
  match f3 with
  | 0 => checked (.tstg (Fin.ofNat 4 d) false (gReg a) (Fin.ofNat 4 f8))
  | 1 => checked (.tstg (Fin.ofNat 4 d) true (gReg a) (Fin.ofNat 4 f8))
  | _ => none

def decode0C (d f3 a b c imm : Nat) : Option Instr :=
  if d ≠ 0 ∨ a ≠ 0 ∨ b ≠ 0 ∨ c ≠ 0 then none else
  match f3 with
  | 0 => checked (.j (BitVec.ofNat 15 (imm / 32)) (Fin.ofNat 32 (imm % 32)))
  | 1 => checked (.jl (BitVec.ofNat 15 (imm / 32)) (Fin.ofNat 32 (imm % 32)))
  | _ => none

def decode0D (d f3 a b f8 : Nat) : Option Instr :=
  if d ≠ 0 ∨ b ≠ 0 ∨ f8 ≠ 0 then none else
  match f3 with
  | 0 => some (.jr (gReg a))
  | 1 => some (.jlr (gReg a))
  | _ => none

def decode0E (d f3 a b f8 : Nat) : Option Instr :=
  match f3 with
  | 0 =>
    match CapSel.ofCode f8 with
    | some sel => need (b == 0) (.capget (gReg d) (gReg a) sel)
    | none => none
  | 1 => need (f8 == 0) (.capset (gReg d) (gReg a) (gReg b))
  | 2 => need (f8 == 0) (.capadd (gReg d) (gReg a) (gReg b))
  | 3 => need (f8 == 0) (.capbnd (gReg d) (gReg a) (gReg b))
  | 4 => need (f8 == 0) (.capprm (gReg d) (gReg a) (gReg b))
  | 5 => need (f8 == 0 && b == 0) (.capclr (gReg d) (gReg a))
  | _ => none

def decode0F (d f3 a b c imm : Nat) : Option Instr :=
  match f3 with
  | 0 => need (imm == 0) (.capwv (gReg d) (gReg a) (gReg b) (gReg c))
  | 1 => need (c == 0 && imm < 1024) (.capchk (gReg d) (gReg a) (gReg b) (BitVec.ofNat 10 imm))
  | _ => none

def decode20 (d f3 a b c imm : Nat) : Option Instr :=
  if b ≠ 0 ∨ c ≠ 0 then none else
  checked (.ld (f3 / 4 == 1) (Fin.ofNat 4 (f3 % 4)) (gReg d) (gReg a) (BitVec.ofNat 20 imm))

def decode21 (d f3 a b c imm : Nat) : Option Instr :=
  if b ≠ 0 ∨ c ≠ 0 ∨ f3 ≥ 4 then none else
  some (.st (Fin.ofNat 4 f3) (gReg d) (gReg a) (BitVec.ofNat 20 imm))

def decode22 (d f3 a b c imm : Nat) : Option Instr :=
  if b ≠ 0 ∨ c ≥ 4 ∨ d ≥ 8 then none else
  match f3 with
  | 0 => some (.ldv (vReg d) (gReg a) (kReg c) (BitVec.ofNat 20 imm))
  | 1 => some (.stv (vReg d) (gReg a) (kReg c) (BitVec.ofNat 20 imm))
  | _ => none

def decode23 (d f3 a b c imm : Nat) : Option Instr :=
  if c ≥ 4 ∨ d ≥ 8 then none else
  match EltW.ofCode (f3 / 2) with
  | some ew =>
    if f3 % 2 = 0 then some (.ldvs ew (vReg d) (gReg a) (gReg b) (kReg c) (BitVec.ofNat 20 imm))
    else some (.stvs ew (vReg d) (gReg a) (gReg b) (kReg c) (BitVec.ofNat 20 imm))
  | none => none

def decode24 (d f3 a b c imm : Nat) : Option Instr :=
  if c ≥ 4 ∨ d ≥ 8 ∨ b ≥ 8 ∨ imm ≥ 524288 then none else
  match f3 with
  | 0 => some (.vgath (vReg d) (gReg a) (vReg b) (kReg c) (BitVec.ofNat 19 imm))
  | 1 => some (.vscat (vReg d) (gReg a) (vReg b) (kReg c) (BitVec.ofNat 19 imm))
  | _ => none

def decode25 (d f3 a b c imm : Nat) : Option Instr :=
  if b ≠ 0 ∨ c ≠ 0 then none else
  match f3 with
  | 0 => some (.ldcap (gReg d) (gReg a) (BitVec.ofNat 20 imm))
  | 1 => some (.stcap (gReg d) (gReg a) (BitVec.ofNat 20 imm))
  | _ => none

def decode26 (d f3 a b c imm : Nat) : Option Instr :=
  if b ≠ 0 ∨ f3 ≥ 4 then none else
  some (.putf (Fin.ofNat 4 f3) (gReg d) (gReg a) (gReg c) (BitVec.ofNat 20 imm))

def decode27 (d f3 a b c imm : Nat) : Option Instr :=
  if f3 ≠ 0 ∨ d ≥ 8 ∨ b ≥ 4 then none else
  some (.putvf (vReg d) (gReg a) (kReg b) (gReg c) (BitVec.ofNat 20 imm))

def decode28 (d f3 a b c imm : Nat) : Option Instr :=
  if d ≠ 0 then none else
  match AtomTy.ofCode (imm / 65536) with
  | some ty =>
    match f3 with
    | 0 => checked (.radd ty (gReg a) (gReg b) (gReg c) (BitVec.ofNat 16 imm))
    | 1 => checked (.rmin ty (gReg a) (gReg b) (gReg c) (BitVec.ofNat 16 imm))
    | 2 => checked (.rmax ty (gReg a) (gReg b) (gReg c) (BitVec.ofNat 16 imm))
    | 3 => checked (.rand ty (gReg a) (gReg b) (gReg c) (BitVec.ofNat 16 imm))
    | 4 => checked (.ror ty (gReg a) (gReg b) (gReg c) (BitVec.ofNat 16 imm))
    | 5 => checked (.rxor ty (gReg a) (gReg b) (gReg c) (BitVec.ofNat 16 imm))
    | _ => none
  | none => none

def decode29 (d f3 a b c imm : Nat) : Option Instr :=
  match AtomTy.ofCode (imm / 65536) with
  | some ty =>
    match f3 with
    | 0 => if c = 0 then checked (.rfadd ty (gReg d) (gReg a) (gReg b) (BitVec.ofNat 16 imm)) else none
    | 1 => checked (.rcas ty (gReg d) (gReg a) (gReg b) (gReg c) (BitVec.ofNat 16 imm))
    | 2 => if c = 0 then checked (.rswap ty (gReg d) (gReg a) (gReg b) (BitVec.ofNat 16 imm)) else none
    | _ => none
  | none => none

def decode2A (d f3 a b c imm : Nat) : Option Instr :=
  if b ≠ 0 ∨ c ≠ 0 ∨ imm ≥ 524288 then none else
  match f3 with
  | 0 => some (.ldc (gReg d) (gReg a) (BitVec.ofNat 19 imm))
  | 1 => some (.stp (gReg d) (gReg a) (BitVec.ofNat 19 imm))
  | 2 => need (d < 2) (.feset (d == 1) (gReg a) (BitVec.ofNat 19 imm))
  | _ => none

def decode2B (d f3 a b c imm : Nat) : Option Instr :=
  if c ≠ 0 then none else
  match f3 with
  | 0 => need (d == 0 && imm < 524288) (.fsig (gReg a) (gReg b) (BitVec.ofNat 19 imm))
  | 1 =>
    if b ≠ 0 ∨ imm ≥ 256 then none else
    checked (.fwait (gReg d) (gReg a) (BitVec.ofNat 4 imm) (BitVec.ofNat 4 (imm / 16)))
  | _ => none

def decode2D (d f3 a b c imm : Nat) : Option Instr :=
  if c ≠ 0 then none else
  match f3 with
  | 0 => need (d == 0 && imm < 2) (.tspawn (gReg a) (gReg b) (imm == 1))
  | 1 => need (d == 0 && b == 0 && imm == 0) (.tdec (gReg a))
  | 2 => need (b == 0 && imm == 0) (.tcancel (gReg d) (gReg a))
  | _ => none

def decode2E (d f3 a b c imm : Nat) : Option Instr :=
  if imm ≥ 8 then none else
  match f3 with
  | 0 => need (d == 0) (.gcset (Fin.ofNat 8 imm) (gReg a) (gReg b) (gReg c))
  | 1 => need (a == 0 && b == 0 && c == 0) (.gchunk (Fin.ofNat 8 imm) (gReg d))
  | _ => none

def decode2F (d f3 a b f8 : Nat) : Option Instr :=
  if b ≠ 0 then none else
  match f3 with
  | 0 => need (d == 0 && f8 < 32) (.bar (gReg a) (Fin.ofNat 32 f8))
  | 1 => need (d == 0 && a == 0 && f8 < 64) (.pbara (Fin.ofNat 64 f8))
  | 2 => need (a == 0 && f8 < 64) (.pbarw (gReg d) (Fin.ofNat 64 f8))
  | 3 => need (a == 0 && f8 < 64) (.pbar (gReg d) (Fin.ofNat 64 f8))
  | _ => none

def decode30 (d f3 a b c imm : Nat) : Option Instr :=
  if b ≠ 0 ∨ c ≠ 0 then none else
  match f3 with
  | 0 => need (d == 0 && imm < 524288) (.scrub (gReg a) (BitVec.ofNat 19 imm))
  | 1 => need (d == 0 && imm < 524288) (.poison (gReg a) (BitVec.ofNat 19 imm))
  | 2 => need (a == 0 && imm < 32) (.flogrd (gReg d) (Fin.ofNat 8 imm) (Fin.ofNat 4 (imm / 8)))
  | 3 => need (d == 0 && a == 0 && imm < 256) (.flogclr (BitVec.ofNat 8 imm))
  | _ => none

def decode40 (d f3 a b c imm : Nat) : Option Instr :=
  if imm ≥ 8 then none else
  match Rm.ofCode imm with
  | some rm =>
    match f3 with
    | 0 => need (c == 0) (.fadd rm (gReg d) (gReg a) (gReg b))
    | 1 => need (c == 0) (.fsub rm (gReg d) (gReg a) (gReg b))
    | 2 => need (c == 0) (.fmul rm (gReg d) (gReg a) (gReg b))
    | 3 => some (.ffma rm (gReg d) (gReg a) (gReg b) (gReg c))
    | 4 => need (c == 0) (.fdiv rm (gReg d) (gReg a) (gReg b))
    | 5 => need (c == 0 && b == 0) (.fsqrt rm (gReg d) (gReg a))
    | 6 => need (c == 0 && imm == 0) (.fmin (gReg d) (gReg a) (gReg b))
    | 7 => need (c == 0 && imm == 0) (.fmax (gReg d) (gReg a) (gReg b))
    | _ => none
  | none => none

def decode41 (d f3 a b c imm : Nat) : Option Instr :=
  if b ≠ 0 ∨ c ≠ 0 then none else
  match f3 with
  | 0 => need (imm == 0) (.fabs (gReg d) (gReg a))
  | 1 => need (imm == 0) (.fneg (gReg d) (gReg a))
  | 2 =>
    if imm ≥ 4096 ∨ imm / 8 % 2 ≠ 0 then none else
    match ElemTy.ofCode (imm / 16 % 16), ElemTy.ofCode (imm / 256), Rm.ofCode (imm % 8) with
    | some src, some dst, some rm => checked (.fcvt src dst rm (gReg d) (gReg a))
    | _, _, _ => none
  | 3 => need (imm == 0) (.fclass (gReg d) (gReg a))
  | _ => none

def decode42 (d f3 a b f8 : Nat) : Option Instr :=
  if f8 ≠ 0 ∨ d ≥ 4 then none else
  match FCond.ofCode f3 with
  | some c => checked (.fcmp (Fin.ofNat 4 d) c (gReg a) (gReg b))
  | none => none

/-- The fields of IMM20 in the vector format V (R93). -/
structure VFields where
  km : KIx
  ty : ElemTy
  rm : Rm
  ty2 : Nat
  fn : Nat
  deriving DecidableEq, Repr

def vFields (imm : Nat) : Option VFields :=
  match ElemTy.ofCode (imm / 16384 % 16), Rm.ofCode (imm / 2048 % 8) with
  | some ty, some rm =>
    some { km := kReg (imm / 262144), ty := ty, rm := rm, ty2 := imm / 128 % 16, fn := imm % 128 }
  | _, _ => none

def decode44 (d f3 a b c imm : Nat) : Option Instr :=
  match vFields imm with
  | none => none
  | some v =>
  if d ≥ 8 ∨ v.ty2 ≠ 0 ∨ v.fn ≠ 0 then none else
  match f3 with
  | 0 => if c = 0 then checked (.vadd v.ty v.rm v.km (vReg d) (gReg a) (gReg b)) else none
  | 1 => if c = 0 then checked (.vsub v.ty v.rm v.km (vReg d) (gReg a) (gReg b)) else none
  | 2 => if c = 0 then checked (.vmul v.ty v.rm v.km (vReg d) (gReg a) (gReg b)) else none
  | 3 => checked (.vfma v.ty v.rm v.km (vReg d) (gReg a) (gReg b) (gReg c))
  | 4 => if c = 0 ∧ v.rm = .rne then checked (.vmin v.ty v.km (vReg d) (gReg a) (gReg b)) else none
  | 5 => if c = 0 ∧ v.rm = .rne then checked (.vmax v.ty v.km (vReg d) (gReg a) (gReg b)) else none
  | 6 => if b = 0 ∧ c = 0 ∧ v.rm = .rne then checked (.vabs v.ty v.km (vReg d) (gReg a)) else none
  | 7 => if b = 0 ∧ c = 0 ∧ v.rm = .rne then checked (.vneg v.ty v.km (vReg d) (gReg a)) else none
  | _ => none

/-- VCVT of either form: FN[3] is the .MX bit, FN[1:0] the part (Table 6.5). -/
def decodeVcvt (d a b c : Nat) (v : VFields) : Option Instr :=
  if c ≠ 0 then none else
  match ElemTy.ofCode v.ty2 with
  | none => none
  | some dst =>
    if v.fn < 4 then
      if b = 0 then checked (.vcvt v.ty dst v.rm v.km (Fin.ofNat 4 v.fn) (vReg d) (gReg a)) else none
    else if 8 ≤ v.fn ∧ v.fn < 12 ∧ v.km = 0 then
      checked (.vcvtMx v.ty dst v.rm (Fin.ofNat 4 v.fn) (vReg d) (gReg a) (gReg b))
    else none

/-- TY2 of VDOT (Table 6.5): F32 for a float TY, I32 for I8 and N8. -/
def vdotTy2 (ty : ElemTy) : Nat := if ty.isF then 0 else 1

def decode45 (d f3 a b c imm : Nat) : Option Instr :=
  match vFields imm with
  | none => none
  | some v =>
  if d ≥ 8 then none else
  match f3 with
  | 4 => decodeVcvt d a b c v
  | 5 => if v.fn = 0 ∧ v.ty2 = vdotTy2 v.ty
         then checked (.vdot v.ty v.rm v.km (vReg d) (gReg a) (gReg b) (gReg c)) else none
  | _ =>
    if v.ty2 ≠ 0 ∨ v.fn ≠ 0 ∨ b ≠ 0 ∨ c ≠ 0 then none else
    match f3 with
    | 0 => checked (.vrcp v.ty v.rm v.km (vReg d) (gReg a))
    | 1 => checked (.vrsq v.ty v.rm v.km (vReg d) (gReg a))
    | 2 => checked (.vexp2 v.ty v.rm v.km (vReg d) (gReg a))
    | 3 => checked (.vlog2 v.ty v.rm v.km (vReg d) (gReg a))
    | 6 => checked (.vsum v.ty v.rm v.km (vReg d) (gReg a))
    | 7 => if v.rm = .rne then checked (.vrmax v.ty v.km (vReg d) (gReg a)) else none
    | _ => none

def decode46 (d f3 a b c imm : Nat) : Option Instr :=
  match vFields imm with
  | none => none
  | some v =>
  if d ≥ 8 ∨ v.ty2 ≠ 0 ∨ v.fn ≠ 0 ∨ c ≠ 0 ∨ v.rm ≠ .rne then none else
  match f3 with
  | 0 => checked (.viadd v.ty v.km (vReg d) (gReg a) (gReg b))
  | 1 => checked (.visub v.ty v.km (vReg d) (gReg a) (gReg b))
  | 2 => checked (.vimul v.ty v.km (vReg d) (gReg a) (gReg b))
  | 3 => checked (.vand v.ty v.km (vReg d) (gReg a) (gReg b))
  | 4 => checked (.vor v.ty v.km (vReg d) (gReg a) (gReg b))
  | 5 => checked (.vxor v.ty v.km (vReg d) (gReg a) (gReg b))
  | 6 => checked (.vshl v.ty v.km (vReg d) (gReg a) (gReg b))
  | 7 => checked (.vshr v.ty v.km (vReg d) (gReg a) (gReg b))
  | _ => none

def decode47 (d f3 a b c imm : Nat) : Option Instr :=
  match vFields imm with
  | none => none
  | some v =>
  if d ≥ 8 ∨ v.ty2 ≠ 0 ∨ v.fn ≠ 0 ∨ c ≠ 0 ∨ v.rm ≠ .rne ∨ f3 ≠ 0 then none else
  checked (.vsra v.ty v.km (vReg d) (gReg a) (gReg b))

def decode48 (d f3 a b c imm : Nat) : Option Instr :=
  match vFields imm with
  | none => none
  | some v =>
  if v.ty2 ≠ 0 ∨ c ≠ 0 ∨ v.rm ≠ .rne then none else
  match f3 with
  | 0 =>
    if d ≥ 4 ∨ v.fn ≥ 32 then none else
    match Cond.ofCode (v.fn % 8) with
    | some cc => checked (.vcmp cc v.ty (Fin.ofNat 4 (v.fn / 8)) v.km (kReg d) (gReg a) (gReg b))
    | none => none
  | 1 => if d < 8 ∧ v.fn = 0 ∧ v.ty = .f32 then some (.vsel v.km (vReg d) (gReg a) (gReg b)) else none
  | 2 => if d < 8 ∧ v.fn = 0 then checked (.vperm v.ty v.km (vReg d) (gReg a) (gReg b)) else none
  | 3 =>
    if v.km = 0 ∧ b = 0 ∧ v.fn < 64 then checked (.vmovg v.ty (Fin.ofNat 64 v.fn) (gReg d) (gReg a)) else none
  | 4 =>
    if v.km = 0 ∧ b = 0 ∧ v.fn < 64 ∧ d < 8
    then checked (.vmovl v.ty (Fin.ofNat 64 v.fn) (vReg d) (gReg a)) else none
  | 5 =>
    if b = 0 ∧ v.fn < 64 ∧ d < 8
    then checked (.vbcast v.ty (Fin.ofNat 64 v.fn) v.km (vReg d) (gReg a)) else none
  | _ => none

def decode49 (d f3 a b f8 : Nat) : Option Instr :=
  if f8 ≠ 0 ∨ a ≥ 4 ∨ b ≥ 4 then none else
  match f3 with
  | 0 => need (d < 4) (.kand (kReg d) (kReg a) (kReg b))
  | 1 => need (d < 4) (.kor (kReg d) (kReg a) (kReg b))
  | 2 => need (d < 4 && b == 0) (.knot (kReg d) (kReg a))
  | 3 => need (b == 0) (.kpop (gReg d) (kReg a))
  | _ => none

/-- Four-bit fields of an X tail, by their low bit. -/
def fieldX (x lo : Nat) : Nat := x / 2 ^ lo % 16

def decode60 (d f3 x : Nat) : Option Instr :=
  let src := fieldX x 44
  let dst := fieldX x 40
  let shp := gReg (fieldX x 36)
  let wf := gReg (fieldX x 32)
  let wn := gReg (fieldX x 28)
  let sf := gReg (fieldX x 24)
  let low := x % 16777216
  match f3 with
  | 0 => if low = 0 then checked (.copy (gReg d) (gReg dst) (gReg src) shp wf wn sf) else none
  | 1 => if low = 0 then checked (.copyp (gReg d) (gReg dst) (gReg src) shp wf wn sf) else none
  | 2 =>
    if low % 65536 = 0
    then checked (.copym (gReg d) (gReg dst) (gReg src) shp wf wn sf (BitVec.ofNat 8 (low / 65536))) else none
  | 3 =>
    if low < 32 then
      if dst = 0 then checked (.copytTo (gReg d) (gReg src) shp wf wn sf (Fin.ofNat 32 low)) else none
    else if low < 64 then
      if src = 0 then checked (.copytFrom (gReg d) (gReg dst) shp wf wn sf (Fin.ofNat 32 (low - 32))) else none
    else none
  | _ => none

def decode61 (d f3 a b f8 : Nat) : Option Instr :=
  if b ≠ 0 ∨ f8 ≠ 0 then none else
  match f3 with
  | 0 => some (.copys (gReg d) (gReg a))
  | 1 => some (.copyk (gReg d) (gReg a))
  | _ => none

def decode64 (d f3 x : Nat) : Option Instr :=
  if d ≠ 0 ∨ x % 524288 ≠ 0 then none else
  match MTy.ofCode f3 with
  | some ty =>
    checked (.mma ty (Fin.ofNat 32 (x / 2 ^ 43)) (gReg (fieldX x 39)) (gReg (fieldX x 35)) (gReg (fieldX x 31))
      (gReg (fieldX x 27)) (gReg (fieldX x 23)) (gReg (fieldX x 19)))
  | none => none

def decode65 (d f3 x : Nat) : Option Instr :=
  if d ≠ 0 ∨ x % 8192 ≠ 0 then none else
  match MTy.ofCode f3, SpN.ofCode (x / 131072 % 4) with
  | some ty, some n =>
    checked (.mmas ty n (Fin.ofNat 32 (x / 2 ^ 43)) (gReg (fieldX x 39)) (gReg (fieldX x 35))
      (gReg (fieldX x 13)) (gReg (fieldX x 31)) (gReg (fieldX x 27)) (gReg (fieldX x 23)) (gReg (fieldX x 19)))
  | _, _ => none

def decode66 (d f3 a b c imm : Nat) : Option Instr :=
  if d ≠ 0 ∨ imm ≥ 32 then none else
  match f3 with
  | 0 => need (b == 0 && c == 0) (.tcfg (Fin.ofNat 32 imm) (gReg a))
  | 1 => checked (.tzero (Fin.ofNat 32 imm) (gReg a) (gReg b) (gReg c))
  | _ => none

def decode67 (d f3 x : Nat) : Option Instr :=
  if d ≠ 0 ∨ f3 ≠ 0 ∨ x % 1048576 ≠ 0 then none else
  match ElemTy.ofCode (fieldX x 23), Rm.ofCode (x / 1048576 % 8) with
  | some dty, some rm =>
    checked (.tcvt dty rm (Fin.ofNat 32 (x / 2 ^ 43)) (gReg (fieldX x 39)) (gReg (fieldX x 35))
      (gReg (fieldX x 31)) (gReg (fieldX x 27)))
  | _, _ => none

def decode68 (d f3 x : Nat) : Option Instr :=
  if d ≠ 0 ∨ f3 ≠ 0 ∨ x % 4194304 ≠ 0 then none else
  let t := Fin.ofNat 32 (x / 2 ^ 43)
  if x / 4194304 % 2 = 0 then
    checked (.tsclRow t (gReg (fieldX x 39)) (gReg (fieldX x 35)) (gReg (fieldX x 31)) (gReg (fieldX x 27))
      (gReg (fieldX x 23)))
  else
    checked (.tsclCol t (gReg (fieldX x 39)) (gReg (fieldX x 35)) (gReg (fieldX x 31)) (gReg (fieldX x 27))
      (gReg (fieldX x 23)))

def decode70 (d f3 : Nat) : Option Instr :=
  match f3 with
  | 0 => need (d == 0) .eret
  | 1 => need (d == 0) .yield
  | 2 => need (d == 0) .halt
  | 3 => need (d == 0) .pdrain
  | 4 => some (.rdcnt (gReg d))
  | _ => none

def decode72 (d f3 a b c imm : Nat) : Option Instr :=
  if b ≠ 0 ∨ c ≠ 0 then none else
  match SysReg.ofCode imm with
  | some r =>
    match f3 with
    | 0 => need (a == 0) (.sysrd (gReg d) r)
    | 1 => need (d == 0) (.syswr r (gReg a))
    | _ => none
  | none => none

def decode74 (d f3 a b c imm : Nat) : Option Instr :=
  if d ≠ 0 ∨ c ≠ 0 ∨ imm ≠ 0 then none else
  match f3 with
  | 0 => some (.ctxst (gReg a) (gReg b))
  | 1 => some (.ctxld (gReg a) (gReg b))
  | _ => none

def decode75 (d f3 a b c imm : Nat) : Option Instr :=
  if d ≠ 0 ∨ f3 ≠ 0 ∨ c ≠ 0 then none else
  match InvScope.ofCode imm with
  | some sc => checked (.tlbinv (gReg a) (gReg b) sc)
  | none => none

def decodeNone (maj d f3 : Nat) : Option Instr :=
  match maj with
  | 0x00 => need (d == 0 && f3 == 0) .nop
  | 0x2C => need (d == 0 && f3 == 0) .wfw
  | 0x70 => decode70 d f3
  | _ => none

def decodeS (maj d f3 tail : Nat) : Option Instr :=
  let a := fieldSA tail
  let b := fieldSB tail
  let f8 := fieldS8 tail
  match maj with
  | 0x01 => decode01 d f3 a b f8
  | 0x02 => decode02 d f3 a b f8
  | 0x03 => decode03 d f3 a b f8
  | 0x04 => decode04 d f3 a b f8
  | 0x08 => decode08 d f3 a b f8
  | 0x0A => decode0A d f3 a b f8
  | 0x0B => decode0B d f3 a b f8
  | 0x0D => decode0D d f3 a b f8
  | 0x0E => decode0E d f3 a b f8
  | 0x2F => decode2F d f3 a b f8
  | 0x42 => decode42 d f3 a b f8
  | 0x49 => decode49 d f3 a b f8
  | 0x61 => decode61 d f3 a b f8
  | 0x71 => need (d == 0 && f3 == 0 && a == 0 && b == 0) (.trap (BitVec.ofNat 8 f8))
  | 0x73 => need (d == 0 && f3 == 0 && b == 0 && f8 == 0) (.wake (gReg a))
  | _ => none

def decodeL (maj d f3 tail : Nat) : Option Instr :=
  let a := fieldLA tail
  let b := fieldLB tail
  let c := fieldLC tail
  let imm := fieldL20 tail
  match maj with
  | 0x05 => decode05 d f3 a b c imm
  | 0x06 => decode06 d f3 a b c imm
  | 0x09 => decode09 d f3 a b c imm
  | 0x0C => decode0C d f3 a b c imm
  | 0x0F => decode0F d f3 a b c imm
  | 0x20 => decode20 d f3 a b c imm
  | 0x21 => decode21 d f3 a b c imm
  | 0x22 => decode22 d f3 a b c imm
  | 0x23 => decode23 d f3 a b c imm
  | 0x24 => decode24 d f3 a b c imm
  | 0x25 => decode25 d f3 a b c imm
  | 0x26 => decode26 d f3 a b c imm
  | 0x27 => decode27 d f3 a b c imm
  | 0x28 => decode28 d f3 a b c imm
  | 0x29 => decode29 d f3 a b c imm
  | 0x2A => decode2A d f3 a b c imm
  | 0x2B => decode2B d f3 a b c imm
  | 0x2D => decode2D d f3 a b c imm
  | 0x2E => decode2E d f3 a b c imm
  | 0x30 => decode30 d f3 a b c imm
  | 0x40 => decode40 d f3 a b c imm
  | 0x41 => decode41 d f3 a b c imm
  | 0x44 => decode44 d f3 a b c imm
  | 0x45 => decode45 d f3 a b c imm
  | 0x46 => decode46 d f3 a b c imm
  | 0x47 => decode47 d f3 a b c imm
  | 0x48 => decode48 d f3 a b c imm
  | 0x66 => decode66 d f3 a b c imm
  | 0x72 => decode72 d f3 a b c imm
  | 0x74 => decode74 d f3 a b c imm
  | 0x75 => decode75 d f3 a b c imm
  | _ => none

def decodeX (maj d f3 tail : Nat) : Option Instr :=
  match maj with
  | 0x07 => decode07 d f3 tail
  | 0x60 => decode60 d f3 tail
  | 0x64 => decode64 d f3 tail
  | 0x65 => decode65 d f3 tail
  | 0x67 => decode67 d f3 tail
  | 0x68 => decode68 d f3 tail
  | _ => none

/-- The instruction of a head and its tail value; none where R94 makes it illegal. Words wider than their
format, which no code line holds, are refused. -/
def decode (head tail : Nat) : Option Instr :=
  if head ≥ 65536 ∨ tail ≥ 2 ^ (16 * headLen head) ∨ majLen (headMaj head) ≠ some (headLen head) then none else
  match headLen head with
  | 0 => decodeNone (headMaj head) (headD head) (headF3 head)
  | 1 => decodeS (headMaj head) (headD head) (headF3 head) tail
  | 2 => decodeL (headMaj head) (headD head) (headF3 head) tail
  | _ => decodeX (headMaj head) (headD head) (headF3 head) tail

/-- Head and tail of a word of nbits numbered as the opcode table numbers it: the head in the highest 16 bits, the tail
below it (log 4). -/
def wordParts (nbits w : Nat) : Nat × Nat := (w / 2 ^ (nbits - 16), w % 2 ^ (nbits - 16))

/-- The decoder on such a word. -/
def decodeTableWord (nbits w : Nat) : Option Instr :=
  match nbits with
  | 16 | 32 | 48 | 64 => decode (wordParts nbits w).1 (wordParts nbits w).2
  | _ => none

/-! ## Code lines (R82, R84, R85) -/

/-- Number of heads in a line's header parcel. -/
def lineHeads (l : List Parcel) : Nat := (l.getD 0 0).toNat % 32

/-- Head i of a line. -/
def lineHead (l : List Parcel) (i : Nat) : Nat := (l.getD i 0).toNat

/-- T(i): the tail parcels of heads 1 to i - 1 (R84). -/
def tailSum (l : List Parcel) : Nat → Nat
  | 0 => 0
  | 1 => 0
  | i + 2 => tailSum l (i + 1) + headLen (lineHead l (i + 1))

/-- The value of n parcels from parcel p, the lowest in [15:0]. -/
def parcels (l : List Parcel) (p : Nat) : Nat → Nat
  | 0 => 0
  | n + 1 => (l.getD p 0).toNat + 65536 * parcels l (p + 1) n

/-- The tail value of head i (R84). -/
def lineTail (l : List Parcel) (i : Nat) : Nat :=
  let n := headLen (lineHead l i)
  parcels l (32 - tailSum l i - n) n

/-- R85. -/
def lineMalformed (l : List Parcel) : Bool :=
  let h := lineHeads l
  let t := tailSum l (h + 1)
  h == 0 || (l.getD 0 0).toNat / 32 != 0 || h + t > 31 ||
    (List.range (31 - h - t)).any (fun k => l.getD (h + 1 + k) 0 != 0)

/-- The 32 parcels of 64 bytes. -/
def lineOfBytes (bs : List Byte) : List Parcel :=
  (List.range 32).map fun p =>
    BitVec.ofNat 16 ((bs.getD (2 * p) 0).toNat + 256 * (bs.getD (2 * p + 1) 0).toNat)

/-- The 64 bytes of 32 parcels. -/
def bytesOfLine (l : List Parcel) : List Byte :=
  (List.range 64).map fun k =>
    BitVec.ofNat 8 ((l.getD (k / 2) 0).toNat / 256 ^ (k % 2))

/-- The successor of a PC in a line of h heads (R86). -/
def succPc (pc : Word) (h : Nat) : Word :=
  if pc.toNat / 2 % 32 < h then pc + 2
  else BitVec.ofNat 64 ((pc.toNat / 64 + 1) * 64 + 2)

/-! ## The encoder, from the same tables -/

def encS (maj d f3 a b f8 : Nat) : Option (Nat × Nat) := some (mkHead maj 1 d f3, tailS a b f8)
def encL (maj d f3 a b c imm : Nat) : Option (Nat × Nat) := some (mkHead maj 2 d f3, tailL a b c imm)
def encX (maj d f3 x : Nat) : Option (Nat × Nat) := some (mkHead maj 3 d f3, x)
def enc0 (maj d f3 : Nat) : Option (Nat × Nat) := some (mkHead maj 0 d f3, 0)

/-- The X tail of a copy command (Table 4.9). -/
def copyTail (src dst shp wf wn sf low : Nat) : Nat :=
  src * 2 ^ 44 + dst * 2 ^ 40 + shp * 2 ^ 36 + wf * 2 ^ 32 + wn * 2 ^ 28 + sf * 2 ^ 24 + low

/-- The X tail of MMA and MMAS. -/
def mmaTail (t a b wf wn sf k low : Nat) : Nat :=
  t * 2 ^ 43 + a * 2 ^ 39 + b * 2 ^ 35 + wf * 2 ^ 31 + wn * 2 ^ 27 + sf * 2 ^ 23 + k * 2 ^ 19 + low

/-- The head and the tail value of an instruction; none for the rows that have no encoding. -/
def encode : Instr → Option (Nat × Nat)
  | .nop => enc0 0x00 0 0
  | .add d a b => encS 0x01 d 0 a b 0
  | .sub d a b => encS 0x01 d 1 a b 0
  | .and d a b => encS 0x01 d 2 a b 0
  | .or d a b => encS 0x01 d 3 a b 0
  | .xor d a b => encS 0x01 d 4 a b 0
  | .andn d a b => encS 0x01 d 5 a b 0
  | .shl d a b => encS 0x01 d 6 a b 0
  | .shr d a b => encS 0x01 d 7 a b 0
  | .sra d a b => encS 0x02 d 0 a b 0
  | .min d a b => encS 0x02 d 1 a b 0
  | .max d a b => encS 0x02 d 2 a b 0
  | .minu d a b => encS 0x02 d 3 a b 0
  | .maxu d a b => encS 0x02 d 4 a b 0
  | .mov d a => encS 0x02 d 5 a 0 0
  | .mul d a b => encS 0x03 d 0 a b 0
  | .mulh d a b => encS 0x03 d 1 a b 0
  | .mulhu d a b => encS 0x03 d 2 a b 0
  | .div d a b => encS 0x03 d 3 a b 0
  | .divu d a b => encS 0x03 d 4 a b 0
  | .rem d a b => encS 0x03 d 5 a b 0
  | .remu d a b => encS 0x03 d 6 a b 0
  | .clz d a => encS 0x04 d 0 a 0 0
  | .ctz d a => encS 0x04 d 1 a 0 0
  | .popc d a => encS 0x04 d 2 a 0 0
  | .sext d a w => encS 0x04 d 3 a 0 w
  | .zext d a w => encS 0x04 d 4 a 0 w
  | .shli d a n => encS 0x04 d 5 a 0 n
  | .shri d a n => encS 0x04 d 6 a 0 n
  | .srai d a n => encS 0x04 d 7 a 0 n
  | .bfx d a w p => encL 0x05 d 0 a 0 0 (w * 64 + p)
  | .bfi d a w p => encL 0x05 d 1 a 0 0 (w * 64 + p)
  | .addi d a i => encL 0x06 d 0 a 0 0 i.toNat
  | .andi d a i => encL 0x06 d 1 a 0 0 i.toNat
  | .ori d a i => encL 0x06 d 2 a 0 0 i.toNat
  | .xori d a i => encL 0x06 d 3 a 0 0 i.toNat
  | .movi d x => encX 0x07 d 0 x.toNat
  | .moviShifted d x => encX 0x07 d 1 x.toNat
  | .cmp k c a b => encS 0x08 k c.code a b 0
  | .cmpi k c a i => encL 0x09 k c.code a 0 0 i.toNat
  | .tstb k ne a n => encS 0x0A k (boolNat ne) a 0 n
  | .tstg k ne a t => encS 0x0B k (boolNat ne) a 0 t
  | .j s h => encL 0x0C 0 0 0 0 0 (s.toNat * 32 + h)
  | .jl s h => encL 0x0C 0 1 0 0 0 (s.toNat * 32 + h)
  | .jr a => encS 0x0D 0 0 a 0 0
  | .jlr a => encS 0x0D 0 1 a 0 0
  | .capget d a sel => encS 0x0E d 0 a 0 sel.code
  | .capset d a b => encS 0x0E d 1 a b 0
  | .capadd d a b => encS 0x0E d 2 a b 0
  | .capbnd d a b => encS 0x0E d 3 a b 0
  | .capprm d a b => encS 0x0E d 4 a b 0
  | .capclr d a => encS 0x0E d 5 a 0 0
  | .capwv d a b c => encL 0x0F d 0 a b c 0
  | .capchk d a b p => encL 0x0F d 1 a b 0 p.toNat
  | .ld z sz d a m => encL 0x20 d (boolNat z * 4 + sz) a 0 0 m.toNat
  | .st sz d a m => encL 0x21 d sz a 0 0 m.toNat
  | .ldv d a k m => encL 0x22 d 0 a 0 k m.toNat
  | .stv d a k m => encL 0x22 d 1 a 0 k m.toNat
  | .ldvs ew d a b k m => encL 0x23 d (ew.code * 2) a b k m.toNat
  | .stvs ew d a b k m => encL 0x23 d (ew.code * 2 + 1) a b k m.toNat
  | .vgath d a b k o => encL 0x24 d 0 a b k o.toNat
  | .vscat d a b k o => encL 0x24 d 1 a b k o.toNat
  | .ldcap d a m => encL 0x25 d 0 a 0 0 m.toNat
  | .stcap d a m => encL 0x25 d 1 a 0 0 m.toNat
  | .putf sz d a c m => encL 0x26 d sz a 0 c m.toNat
  | .putvf d a k c m => encL 0x27 d 0 a k c m.toNat
  | .radd ty a b c o => encL 0x28 0 0 a b c (ty.code * 65536 + o.toNat)
  | .rmin ty a b c o => encL 0x28 0 1 a b c (ty.code * 65536 + o.toNat)
  | .rmax ty a b c o => encL 0x28 0 2 a b c (ty.code * 65536 + o.toNat)
  | .rand ty a b c o => encL 0x28 0 3 a b c (ty.code * 65536 + o.toNat)
  | .ror ty a b c o => encL 0x28 0 4 a b c (ty.code * 65536 + o.toNat)
  | .rxor ty a b c o => encL 0x28 0 5 a b c (ty.code * 65536 + o.toNat)
  | .rfadd ty d a b o => encL 0x29 d 0 a b 0 (ty.code * 65536 + o.toNat)
  | .rcas ty d a b c o => encL 0x29 d 1 a b c (ty.code * 65536 + o.toNat)
  | .rswap ty d a b o => encL 0x29 d 2 a b 0 (ty.code * 65536 + o.toNat)
  | .ldc d a o => encL 0x2A d 0 a 0 0 o.toNat
  | .stp d a o => encL 0x2A d 1 a 0 0 o.toNat
  | .feset s a o => encL 0x2A (boolNat s) 2 a 0 0 o.toNat
  | .fsig a b o => encL 0x2B 0 0 a b 0 o.toNat
  | .fwait d a en eq => encL 0x2B d 1 a 0 0 (eq.toNat * 16 + en.toNat)
  | .wfw => enc0 0x2C 0 0
  | .tspawn a b r => encL 0x2D 0 0 a b 0 (boolNat r)
  | .tdec a => encL 0x2D 0 1 a 0 0 0
  | .tcancel d a => encL 0x2D d 2 a 0 0 0
  | .gcset n a b c => encL 0x2E 0 0 a b c n
  | .gchunk n d => encL 0x2E d 1 0 0 0 n
  | .bar a id => encS 0x2F 0 0 a 0 id
  | .pbara id => encS 0x2F 0 1 0 0 id
  | .pbarw d id => encS 0x2F d 2 0 0 id
  | .pbar d id => encS 0x2F d 3 0 0 id
  | .scrub a o => encL 0x30 0 0 a 0 0 o.toNat
  | .poison a o => encL 0x30 0 1 a 0 0 o.toNat
  | .flogrd d e w => encL 0x30 d 2 0 0 0 (w * 8 + e)
  | .flogclr m => encL 0x30 0 3 0 0 0 m.toNat
  | .fadd rm d a b => encL 0x40 d 0 a b 0 rm.code
  | .fsub rm d a b => encL 0x40 d 1 a b 0 rm.code
  | .fmul rm d a b => encL 0x40 d 2 a b 0 rm.code
  | .ffma rm d a b c => encL 0x40 d 3 a b c rm.code
  | .fdiv rm d a b => encL 0x40 d 4 a b 0 rm.code
  | .fsqrt rm d a => encL 0x40 d 5 a 0 0 rm.code
  | .fmin d a b => encL 0x40 d 6 a b 0 0
  | .fmax d a b => encL 0x40 d 7 a b 0 0
  | .fabs d a => encL 0x41 d 0 a 0 0 0
  | .fneg d a => encL 0x41 d 1 a 0 0 0
  | .fcvt src dst rm d a => encL 0x41 d 2 a 0 0 (dst.code * 256 + src.code * 16 + rm.code)
  | .fclass d a => encL 0x41 d 3 a 0 0 0
  | .fcmp k c a b => encS 0x42 k c.code a b 0
  | .vadd ty rm k d a b => encL 0x44 d 0 a b 0 (immV k ty.code rm.code 0 0)
  | .vsub ty rm k d a b => encL 0x44 d 1 a b 0 (immV k ty.code rm.code 0 0)
  | .vmul ty rm k d a b => encL 0x44 d 2 a b 0 (immV k ty.code rm.code 0 0)
  | .vfma ty rm k d a b c => encL 0x44 d 3 a b c (immV k ty.code rm.code 0 0)
  | .vmin ty k d a b => encL 0x44 d 4 a b 0 (immV k ty.code 0 0 0)
  | .vmax ty k d a b => encL 0x44 d 5 a b 0 (immV k ty.code 0 0 0)
  | .vabs ty k d a => encL 0x44 d 6 a 0 0 (immV k ty.code 0 0 0)
  | .vneg ty k d a => encL 0x44 d 7 a 0 0 (immV k ty.code 0 0 0)
  | .vrcp ty rm k d a => encL 0x45 d 0 a 0 0 (immV k ty.code rm.code 0 0)
  | .vrsq ty rm k d a => encL 0x45 d 1 a 0 0 (immV k ty.code rm.code 0 0)
  | .vexp2 ty rm k d a => encL 0x45 d 2 a 0 0 (immV k ty.code rm.code 0 0)
  | .vlog2 ty rm k d a => encL 0x45 d 3 a 0 0 (immV k ty.code rm.code 0 0)
  | .vcvt src dst rm k p d a => encL 0x45 d 4 a 0 0 (immV k src.code rm.code dst.code p)
  | .vcvtMx src dst rm p d a b => encL 0x45 d 4 a b 0 (immV 0 src.code rm.code dst.code (8 + p))
  | .vdot ty rm k d a b c => encL 0x45 d 5 a b c (immV k ty.code rm.code (vdotTy2 ty) 0)
  | .vsum ty rm k d a => encL 0x45 d 6 a 0 0 (immV k ty.code rm.code 0 0)
  | .vrmax ty k d a => encL 0x45 d 7 a 0 0 (immV k ty.code 0 0 0)
  | .viadd ty k d a b => encL 0x46 d 0 a b 0 (immV k ty.code 0 0 0)
  | .visub ty k d a b => encL 0x46 d 1 a b 0 (immV k ty.code 0 0 0)
  | .vimul ty k d a b => encL 0x46 d 2 a b 0 (immV k ty.code 0 0 0)
  | .vand ty k d a b => encL 0x46 d 3 a b 0 (immV k ty.code 0 0 0)
  | .vor ty k d a b => encL 0x46 d 4 a b 0 (immV k ty.code 0 0 0)
  | .vxor ty k d a b => encL 0x46 d 5 a b 0 (immV k ty.code 0 0 0)
  | .vshl ty k d a b => encL 0x46 d 6 a b 0 (immV k ty.code 0 0 0)
  | .vshr ty k d a b => encL 0x46 d 7 a b 0 (immV k ty.code 0 0 0)
  | .vsra ty k d a b => encL 0x47 d 0 a b 0 (immV k ty.code 0 0 0)
  | .vcmp c ty s k d a b => encL 0x48 d 0 a b 0 (immV k ty.code 0 0 (s * 8 + c.code))
  | .vsel k d a b => encL 0x48 d 1 a b 0 (immV k 0 0 0 0)
  | .vperm ty k d a b => encL 0x48 d 2 a b 0 (immV k ty.code 0 0 0)
  | .vmovg ty e d a => encL 0x48 d 3 a 0 0 (immV 0 ty.code 0 0 e)
  | .vmovl ty e d a => encL 0x48 d 4 a 0 0 (immV 0 ty.code 0 0 e)
  | .vbcast ty e k d a => encL 0x48 d 5 a 0 0 (immV k ty.code 0 0 e)
  | .kand d a b => encS 0x49 d 0 a b 0
  | .kor d a b => encS 0x49 d 1 a b 0
  | .knot d a => encS 0x49 d 2 a 0 0
  | .kpop d a => encS 0x49 d 3 a 0 0
  | .copy d dst src shp wf wn sf => encX 0x60 d 0 (copyTail src dst shp wf wn sf 0)
  | .copyp d dst src shp wf wn sf => encX 0x60 d 1 (copyTail src dst shp wf wn sf 0)
  | .copym d dst src shp wf wn sf m => encX 0x60 d 2 (copyTail src dst shp wf wn sf (m.toNat * 65536))
  | .copytTo d src shp wf wn sf t => encX 0x60 d 3 (copyTail src 0 shp wf wn sf t)
  | .copytFrom d dst shp wf wn sf t => encX 0x60 d 3 (copyTail 0 dst shp wf wn sf (32 + t))
  | .copys d a => encS 0x61 d 0 a 0 0
  | .copyk d a => encS 0x61 d 1 a 0 0
  | .mma ty t a b wf wn sf k => encX 0x64 0 ty.code (mmaTail t a b wf wn sf k 0)
  | .mmas ty n t a b md wf wn sf k =>
    encX 0x65 0 ty.code (mmaTail t a b wf wn sf k (n.code * 131072 + md * 8192))
  | .tcfg t a => encL 0x66 0 0 a 0 0 t
  | .tzero t wf wn sf => encL 0x66 0 1 wf wn sf t
  | .tcvt dty rm t dst wf wn sf => encX 0x67 0 0 (mmaTail t dst wf wn sf dty.code 0 (rm.code * 1048576))
  | .tsclRow t s b wf wn sf => encX 0x68 0 0 (mmaTail t s b wf wn sf 0 0)
  | .tsclCol t s b wf wn sf => encX 0x68 0 0 (mmaTail t s b wf wn sf 0 4194304)
  | .eret => enc0 0x70 0 0
  | .yield => enc0 0x70 0 1
  | .halt => enc0 0x70 0 2
  | .pdrain => enc0 0x70 0 3
  | .rdcnt d => enc0 0x70 d 4
  | .trap c => encS 0x71 0 0 0 0 c.toNat
  | .sysrd d r => encL 0x72 d 0 0 0 0 r.code
  | .syswr r a => encL 0x72 0 1 a 0 0 r.code
  | .wake a => encS 0x73 0 0 a 0 0
  | .ctxst a b => encL 0x74 0 0 a b 0 0
  | .ctxld a b => encL 0x74 0 1 a b 0 0
  | .tlbinv a b sc => encL 0x75 0 0 a b 0 sc.code
  | _ => none

/-- One instruction as the only head of a line: the line's 32 parcels (R82, R84). -/
def lineOf (head tail : Nat) : List Parcel :=
  (List.range 32).map fun p =>
    if p = 0 then 1
    else if p = 1 then BitVec.ofNat 16 head
    else if p < 32 - headLen head then 0
    else BitVec.ofNat 16 (tail / 65536 ^ (p + headLen head - 32))

end Sys2Proof
end

