-- ==== Sys2Proof/Config.lean ====
section
/-! DEFINITION. What an implementation fixes and the manual leaves open: constants, and the free values,
which are opaque so that nothing can evaluate them or prove a value of them (log 5). -/
namespace Sys2Proof.Config

/-- A value the manual leaves open at a point where the machine goes on: the n-th value drawn (log 5). -/
opaque freeValue : Nat → Word

/-- The origin of the poison that a body no instruction could produce loads as, by the address it is loaded from
(R59 names the class and no origin; log 70). -/
opaque imageOrigin : Nat → Word

/-- A word of a save image in a part that the manual names and does not lay out, by the number of the save and the word's
(R360, log 16). -/
opaque imageWord : (draw word : Nat) → Word

/-- Field i of a mailbox command's arguments, by the command's code and the argument area, whose layout the manual does not give
(R411, log 19). -/
opaque mailField : (code : Nat) → (args : List (Nat × Byte)) → (i : Nat) → Nat

/-- The bytes of a checkpoint's header after its magic, whose places the manual does not give (Table 23.9, log 57). -/
opaque tierHeader : (part : Word) → (pkg images : Nat) → (chain digest : List Byte) → (i : Nat) → Byte

/-- The bytes of a spare map's entries (kind, unit, spare), whose layout the manual does not give (R406, log 57). -/
opaque mapBytes : List (Nat × Nat × Nat) → List Byte

/-- Whether a padded Falcon-1024 signature verifies over a digest under a key (R407, R408; log 13). -/
opaque falconVerify : (key digest signature : List Byte) → Bool

/-- The signature of the device key over a digest (R410, log 13). -/
opaque deviceSign : List Byte → List Byte

/-- The part identifier fixed at manufacture and the public half of the device key (R410, log 13). -/
opaque partId : Word
opaque devicePublicKey : List Byte
/-- Nolken's root public key of verification slot 0, and its certificate signature (R408, R410). -/
opaque rootKey : List Byte
opaque certificateSignature : List Byte

/-- The keys generated on the device at boot number n for key slot 0 (R355, R405 step 5; log 13). -/
opaque bootDataKey : Nat → Nat
opaque bootTweakKey : Nat → Nat

/-- Spare rows for post-package repair in an HBM channel, and spare rows of an SRAM bank, numbers the manual does not give
(R399, log 5). -/
opaque hbmSpareRows : Nat
opaque sramSpareRows : Nat
/-- Spare MAC columns of a matrix engine: one in 32 of a number of columns the manual does not give (Table 22.6, log 5). -/
opaque macSpareColumns : Nat

/-- The hash of SPKG, source tile and TAG that picks a port, which the manual names and does not give (R377, log 18). -/
opaque portHash : (spkg source tag : Nat) → Nat

/-- The scratchpad bank that holds the row of an offset. R16 gives sixteen banks of 64-byte rows and
not the mapping; row-interleaved is this model's choice. DESIGN CHOICE (log 6). -/
def bankOf (off : Nat) : Nat := off / 64 % 16

/-- Package number of the modelled package. DESIGN CHOICE (log 7). -/
def packageNumber : Nat := 0

end Sys2Proof.Config
end

