-- ==== Sys2Proof/Machine/State.lean ====
section
/-! DEFINITION. The state of one Z6 package: everything the manual gives it (INVENTORY.md, State), as plain data.
Collections are lists keyed by number and hold only entries that differ from their default (Machine/Ops.lean). -/
namespace Sys2Proof.Machine

/-- A collection keyed by number: strictly rising keys, no entry equal to the default. -/
abbrev SMap (α : Type) := List (Nat × α)

/-- Bytes by address, in the same canonical form; an unlisted address reads 0 (R5, R405 step 5). -/
abbrev Memory := List Host.Cell

/-- Tag of a general register (Table 2.1); tag 11 is never produced. -/
inductive Tag where
  | data | cap | poison
  deriving DecidableEq, Repr

/-- A general register: tag and 128-bit body (R40). -/
structure GReg where
  tag : Tag := .data
  body : Body := 0
  deriving DecidableEq, Repr

/-- A vector register: 512 bits and a 16-bit poison mask (R44). -/
structure VReg where
  val : BitVec 512 := 0
  pmask : BitVec 16 := 0
  deriving DecidableEq, Repr

/-- STATUS.STATE (Table 8.3). -/
inductive RunState where
  | rotation | wfw | yield | reissue | halted
  deriving DecidableEq, Repr

/-- One armed or own-tile monitor of an FWAIT (R176-R178). -/
structure WaitMon where
  idx : Nat
  flag : Nat               -- global address of the flag word
  threshold : Nat
  eq : Bool
  own : Bool
  armed : Bool := false    -- an entry may stand in the home's monitor table
  answered : Bool := false -- poll: the answer has come back, not met
  resendAt : Option Nat := none  -- not registered: cycle of the next arm (R178)
  found : Option (Nat × Nat) := none   -- poll: mark (0 satisfied) and origin of the answer
  tag : Nat := 0           -- tag of its arm
  deriving DecidableEq, Repr

/-- What a thread out of rotation waits for. -/
inductive Wait where
  | none
  /-- a blocking instruction with remote requests: the elements still to be answered (R157) -/
  | resp (i : Instr) (left : List Nat)
  /-- the same LDC or STP after its withdrawal has been sent (R358) -/
  | withdrawn (i : Instr) (left : List Nat)
  /-- own-tile LDC or STP until the word's FE changes (R173) -/
  | fe (wordAddr : Nat)
  | fwait (d : Nat) (mons : List WaitMon) (start : Nat) (timeout : Option Nat)
  /-- a remote LDC or STP answered not registered: re-arms at this cycle (R178) -/
  | rearm (i : Instr) (atCycle : Nat) (flit : Flit)
  /-- a translation walk at the cluster's port (R159) -/
  | walk
  /-- a page fault, until WAKE (R350) -/
  | fault
  | copyQueue | matrixQueue | spawnFull | retryFull
  | closing (t : Nat)
  | bar (id : Nat)
  | crown (i : Instr) (id : Nat)
  | pdrain
  /-- CTXST or CTXLD until its target has stopped (R202) -/
  | ctx (i : Instr) (target : Nat)
  | tcfg (t : Nat)
  | tlbinv
  deriving DecidableEq, Repr

/-- What the checker finds wrong with an execution (R21-R23): a control value, the address or destination, the store data,
the result, and the lanes of a vector result or vector store data. -/
structure Faulty where
  ctl : Bool := false
  addr : Bool := false
  data : Bool := false
  result : Bool := false
  lanes : BitVec 16 := 0
  deriving DecidableEq, Repr

/-- Every value that the checker compares (R422). -/
def Faulty.all : Faulty := { ctl := true, addr := true, data := true, result := true, lanes := 0xFFFF }

/-- What of a first or second checker mismatch is outstanding, on a thread whose instruction executes again or on a tile
whose next instruction is hit: the second execution passes, or fails (R23, R422). -/
inductive Recheck where
  | no | passes | fails (f : Faulty)
  deriving DecidableEq, Repr

/-- One hardware thread (R40-R60, R189-R192). -/
structure Thread where
  g : SMap GReg := []
  v : SMap VReg := []
  k : SMap (BitVec 16) := []
  pc : Word := 0
  /-- body [127:64] of the code capability, whose cursor is the PC (R115); none: unset -/
  code : Option Word := none
  mode : Bool := false           -- MODE.REPLAY as the thread reads it (R189, R191, R202; log 89)
  priv : Bool := false
  ppriv : Bool := false
  exl : Bool := false
  be : Bool := false
  wakep : Bool := false
  bskip : Bool := false
  run : RunState := .halted
  wait : Wait := .none
  rm : BitVec 3 := 0
  ftz : Bool := false
  ovf : Bool := false
  seed : Word := 0
  tvec : Word := 0
  epc : Word := 0
  walkBit : Bool := false        -- ECAUSE.WALK
  cause : BitVec 8 := 0          -- ECAUSE.CAUSE
  eval : Word := 0
  ecap : GReg := {}
  bpc : Word := 0
  retired : Word := 0
  skip : Nat := 0                -- annulments left of a skip walk (R114)
  owed : Nat := 0                -- replay slots that a halt ran ahead of, still to be left idle (R356, R365)
  fbuf : List (Nat × List Parcel) := []   -- fetch buffer: line offset and its 32 parcels (R14)
  wanted : List Nat := []        -- lines requested by the fetch unit
  recheck : Recheck := .no
  limbo : Option (Nat × Wait) := none   -- a wait at a barrier that a halt ended, its arrival standing: PC offset, wait (R295)
  badBase : Option GIx := none   -- base register of a load sent whose checked result failed (R23)
  retryBanks : List Nat := []    -- retry priority (R17)
  /-- pass buffer: elements served in earlier passes or answered by a home, with value and mark: 0 clean,
  class + 1 poisoned (R19, R157) -/
  served : List (Nat × Nat × Nat) := []
  /-- walks for its access that gave no leaf: page (VA div 2^16), mark (0 refused for good, class + 1) and origin
  (R348) -/
  walkEnds : List (Nat × Nat × Nat) := []
  afp : Bool := false            -- async fault pending (R303)
  crownDone : SMap Nat := []     -- episodes arrived, by crown barrier (R293)
  readyAt : Nat := 0             -- first cycle of the tile at which it may issue (R12)
  wfwSince : Nat := 0            -- order in which it entered STATE 1 (R286)
  halt187 : Bool := false        -- halted under R187, counted by the DONE status (R332)
  deriving DecidableEq, Repr

/-- A shape record as read at issue (Tables 10.1, 10.2). -/
structure Shape where
  ext : List Nat := []
  sstride : List Int := []
  dstride : List Int := []
  wpoff : Nat := 0
  ct : Bool := false
  wpen : Bool := false
  lw : Bool := false
  layout : Nat := 0
  perm : List Nat := []
  ndim : Nat := 0
  es : Nat := 1
  reservedBits : Bool := false   -- a reserved field is nonzero
  deriving DecidableEq, Repr

inductive CopyKind where
  | copy | copyp | copym | tileTo | tileFrom
  deriving DecidableEq, Repr

/-- States of a copy command (R229, Table 10.4). -/
inductive CopyState where
  | queued | waiting | active | parked | ended | endedPoisoned | cancelled
  deriving DecidableEq, Repr

/-- A copy command in its queue entry (R228, R247). -/
structure CopyCmd where
  kind : CopyKind := .copy
  seq : Nat := 0
  thr : Nat := 0
  pc : Word := 0
  head : Nat := 0
  user : Bool := true            -- mode at issue (R349)
  src : GReg := {}
  dst : GReg := {}
  shape : Shape := {}
  wf : Nat := 0                  -- flag addresses, 0 none
  wn : Nat := 0
  sf : Nat := 0
  mask : Nat := 0
  armed : Bool := false          -- a remote wait flag has been armed (R229)
  resendAt : Option Nat := none  -- not registered: cycle of the next arm (R178)
  met : Option (Nat × Nat) := none   -- its answer: mark (0 satisfied) and origin
  desc : Nat := 0                -- descriptor number and word of COPYT
  descWord : Word := 0
  state : CopyState := .queued
  chan : Bool := false           -- holds a channel
  age : Nat := 0                 -- order of acceptance
  next : Nat := 0                -- granules sent, in canonical order
  flying : List Nat := []        -- granules sent and not yet answered
  resend : List Nat := []        -- granules sent before a halt and not acknowledged (R247)
  missed : List Nat := []        -- granules refused for good
  tries : SMap Nat := []         -- refusals met, by granule
  ends : List Nat := []          -- tiles whose end message is not yet answered
  ending : Bool := false         -- the end messages have been sent (R245)
  stopCls : Nat := 0             -- class that stops the command, 0 none (R244)
  stopAddr : Nat := 0            -- what it met, as the log holds it
  stopOrigin : Nat := 0
  stopReason : Reason := .none
  cls : Nat := 0                 -- first class met in a source word (R243)
  clsOrigin : Nat := 0
  bytes : Nat := 0               -- stream bytes acknowledged
  tdata : List (Byte × Nat) := []    -- COPYT: bytes and unit classes held for or from the tile store
  tdone : Bool := false          -- COPYT: the tile-store access has been made
  tgrant : Bool := false         -- COPYT: the tile-store access has been granted
  deriving DecidableEq, Repr

inductive MatKind where
  | mma (ty : MTy) (k : Nat)
  | mmas (ty : MTy) (n : Nat) (k : Nat)
  | tzero
  | tcvt (dty : ElemTy)
  | tscl (col : Bool)
  | copyTo (entry : Nat)
  | copyFrom (entry : Nat)
  deriving DecidableEq, Repr

/-- A matrix command with the state it took at issue (R256). -/
structure MatCmd where
  kind : MatKind := .tzero
  thr : Nat := 0
  pc : Word := 0
  head : Nat := 0
  t : Nat := 0
  desc : Word := 0
  a : GReg := {}
  b : GReg := {}
  m : GReg := {}
  wf : Nat := 0
  wn : Nat := 0
  sf : Nat := 0
  rm : Nat := 0
  ovf : Bool := false
  seed : Word := 0
  n : Word := 0                  -- RETIRED at issue (R75)
  cancelled : Bool := false      -- COPYT cancelled by COPYK (R253)
  armed : Bool := false          -- a remote wait flag has been armed (R258)
  resendAt : Option Nat := none  -- not registered: cycle of the next arm (R178)
  met : Option (Nat × Nat) := none   -- its answer: mark (0 satisfied) and origin
  deriving DecidableEq, Repr

/-- Bytes gathered from scratchpad, with the mark of each byte whose word was poisoned, and their home (R261). -/
structure Snap where
  bytes : List Byte := []
  marks : SMap Nat := []         -- by byte offset: class + 1
  home : Nat := 0
  deriving DecidableEq, Repr

/-- A unit of the tile store that a command writes: address, value, mark (0 clean) and written bytes. -/
structure UnitWrite where
  addr : Nat
  val : BitVec 32
  mark : Nat := 0
  bmask : Nat := 15
  deriving DecidableEq, Repr

/-- A staging slot of the matrix engine (R261). -/
structure Staging where
  tile : Nat                     -- tile of the command's queue, 0-7
  cmd : MatCmd
  flag : Nat := 0                -- mark of a poisoned wait flag (R258)
  flagOrigin : Nat := 0
  opA : Snap := {}
  opB : Snap := {}
  opM : Snap := {}
  executed : Bool := false
  writes : List UnitWrite := []
  spad : List (Nat × Flit) := [] -- TCVT: flat addresses and granules
  out : Nat := 0                 -- mark of the first poisoned element written, and its origin
  outOrigin : Nat := 0
  bad : Bool := false            -- a stored error in the slot: its execution fails twice (R388)
  deriving DecidableEq, Repr

/-- A copy-stream window at a destination tile (R37). -/
structure Window where
  src : Home
  tag : Nat
  done : Nat := 0                -- granules of the longest complete prefix
  got : List Nat := []           -- granules received beyond it
  total : Option Nat := none     -- stream length in bytes, from the granule marked LASTG
  wpoff : Nat := 0
  wpen : Bool := false
  lastPtr : Nat := 0             -- bytes at the last pointer write
  deriving DecidableEq, Repr

/-- A reassembly slot: the flits of one message (R36). -/
structure Slot where
  flits : List Flit
  deriving DecidableEq, Repr

/-- An entry of the async fault log (Table 13.3). -/
structure LogEntry where
  rd : Bool := false
  h : Bool
  thr : Nat
  origin : Nat
  reason : Reason
  head : Nat
  cls : Nat
  addr : Word
  opnd : Word
  pc : Word
  deriving DecidableEq, Repr

/-- A task record as the memory unit builds it (Table 12.1, R276). -/
structure TaskRec where
  ctrlMark : Nat := 0            -- mark of the CTRL word: 0 clean, class + 1 poisoned
  prio : Nat := 0
  entry : Nat := 0
  taskid : Word := 0
  tpsn : Bool := false
  slots : List (Nat × Word) := []   -- ATAG (0 data, 1 capability half, 2 poison) and word, slots 1-6
  builder : Nat := 0             -- tile that built it, the origin of its poison
  deriving DecidableEq, Repr

/-- A region as it was saved, in tiles, and the displacement of its restore (R363). -/
structure Move where
  pkg : Nat
  x0 : Nat
  y0 : Nat
  w : Nat
  h : Nat
  dx : Int
  dy : Int
  deriving DecidableEq, Repr

/-- A record in the queue bank or the cuff with its stamp (R282). ring 0-7: a tile ring; 8: the cluster ring. -/
structure BankRec where
  r : TaskRec
  ring : Nat
  level : Nat
  stamp : Nat                    -- cluster counter at its push
  ups : Nat := 0                 -- times that its waiting has moved it since (R283)
  block : Option Nat             -- address of its pending block
  order : Nat                    -- order of entry into its ring and level
  pushed : Nat                   -- order of its push
  void : Bool := false           -- voided in the cuff by TCANCEL
  unc : List Nat := []           -- words of the record with a stored error in the bank, uncorrectable and not (R284, R388)
  one : List Nat := []
  move : Option Move := none     -- a record in the cuff: the displacement of the restores since its spill (R363)
  deriving DecidableEq, Repr

/-- A spawned record held until its push is acknowledged or abandoned (R280). -/
structure Spawned where
  r : TaskRec
  thr : Nat
  tag : Nat
  deriving DecidableEq, Repr

/-- A core barrier (R292). -/
structure Barrier where
  count : Nat := 0
  arrived : List Nat := []
  deriving DecidableEq, Repr

/-- What an outstanding operation of a tile is (R157, R178, R201, R298, R302, R420). -/
inductive PostKind where
  | posted (thr : Nat)           -- a posted operation of a thread
  | signal (thr : Nat) (drains : Bool)  -- a signal sent by the tile; drains: PDRAIN of the thread awaits it
  | request (thr : Nat)          -- a blocking request; the element is the flit's idx
  | arm (watcher : Nat)          -- an arm request not answered
  deriving DecidableEq, Repr

/-- An operation sent and not yet ended: its message whole, its issuer's PC, head and operand (Table 13.3), and how
often each of its flits, by its index, has been refused and sent again (R38). -/
structure Posted where
  tag : Nat
  kind : PostKind
  flit : Flit
  addr : Nat                     -- global address of the target, as the log holds it
  pc : Word
  head : Nat
  opnd : Word
  tries : SMap Nat := []
  deriving DecidableEq, Repr

/-- A flagged operation whose home awaits the acknowledgement of its signal (R201, R420). -/
structure SigWait where
  home : Home
  tag : Nat
  req : Flit
  sig : Flit
  tries : Nat := 0
  deriving DecidableEq, Repr

/-- A flit held for a retry (R38): attempts made and the cycle at which it is sent again. -/
structure Retry where
  flit : Flit
  k : Nat
  due : Nat
  deriving DecidableEq, Repr

/-- Phases of a halt (R356-R358). -/
inductive HaltPhase where
  | running | halting | settled
  deriving DecidableEq, Repr

/-- A standing request of an agent for a row of a scratchpad (R16): its place in Table 1.2, the requester within it, the row
and its bank, whether the bank has granted it, the tile cycles at which it was first and last made. -/
structure BankWait where
  order : Nat
  id : Nat
  row : Nat
  bank : Nat
  granted : Bool := false
  since : Nat
  last : Nat
  deriving DecidableEq, Repr

/-- One logical tile. -/
structure Tile where
  region : Option Nat := none    -- launch that holds it
  ctx : Nat := 0
  replay : Bool := false
  imageSize : Nat := 0           -- CODESZ: bounds of the image code capability (R339)
  threads : SMap Thread := []
  rot : Nat := 7
  cycle : Nat := 0               -- CYCLE before it wraps: the register reads it modulo 2^64 (R192)
  injstall : Word := 0
  throttleCnt : Word := 0
  matwt : BitVec 4 := 1
  taken : List Nat := []         -- banks granted in this cycle (R16)
  late : List Nat := []          -- banks granted in the cycle just ended, for the last orders of Table 1.2
  written : List Nat := []       -- rows written by the thread in M in this cycle (R20)
  reserved : List Nat := []      -- rows reserved from agents in this cycle (R20)
  waits : List BankWait := []    -- standing requests of agents (R16)
  passedA : Bool := false        -- a flit has left the ejection queue in this cycle (R35), by plane
  passedB : Bool := false
  mending : List Nat := []       -- banks that copy a row to its spare (R399)
  copyq : SMap CopyCmd := []     -- entries taken at least once; the others have never been used
  copySeq : Nat := 0
  copyAge : Nat := 0
  matq : List MatCmd := []
  windows : List Window := []
  slots : List Slot := []
  ejA : List Flit := []
  ejB : List Flit := []
  injA : List Flit := []         -- flits that the four sources of R28 hold, oldest first, by plane
  injB : List Flit := []
  queueA : List Flit := []       -- the injection queues (R28)
  queueB : List Flit := []
  turnA : Nat := 0               -- source whose turn it is to fill the queue
  turnB : Nat := 0
  monitors : List Flit := []     -- the arm requests registered (R178)
  withdrawn : List Flit := []    -- withdrawals whose request is neither registered nor performed here (R358)
  flog : List LogEntry := []
  spilled : Nat := 0             -- entries spilled unread (R303)
  lateLog : List LogEntry := []  -- entries of operations that ended while the region was halted (R306)
  spawn : List Spawned := []
  barriers : SMap Barrier := []
  crownCnt : SMap Nat := []      -- arrivals counted for the next tile arrival, by barrier (R293)
  crownHeld : SMap Nat := []     -- tile arrivals held for the next episode
  posted : List Posted := []
  retries : List Retry := []
  wfwNext : Nat := 0
  halt : HaltPhase := .running
  fenced : Bool := false
  wiped : Bool := false          -- reset with its rectangle, and not placed since (R300)
  mismatch : Recheck := .no      -- a checker mismatch to come at the next instruction, with its second execution (R422)
  scoreBase : Nat := 0           -- INJSTALL + THROTTLE at the start of the score window (R286)
  score : Nat := 0
  scoreEnd : Nat := 0            -- cycle at which the last score window ended
  deriving DecidableEq, Repr

/-- A router: flits on its input links per plane, as direction of arrival, cycles left on the link and the flit
(R27, R30); the throttle counter (R32); flits offered by the brim side (R28); resend stores and link faults (R31). -/
structure Router where
  inA : List (Nat × Nat × Flit) := []
  inB : List (Nat × Nat × Flit) := []
  throttle : Nat := 0
  brimA : List Flit := []
  brimB : List Flit := []
  sentA : List (Nat × Flit) := []   -- per output port, the last flits sent (two each)
  sentB : List (Nat × Flit) := []
  resend : List (Nat × Bool × Flit) := []   -- port, plane B?, flit to be sent again first
  crcNext : List Nat := []       -- output links, each as often as flits are to be corrupted on it (INJECT kind 4, log 65)
  crcSeen : SMap Nat := []       -- input link (port + 4 on plane B): router cycle of its last CRC failure, plus one
  lost : List Nat := []          -- output links lost and not repaired (port + 4 on plane B)
  cycles : Nat := 0
  deriving DecidableEq, Repr

/-- An iteration counter (R291). -/
structure ChunkCtr where
  next : Nat := 0
  endv : Nat := 0
  p : Nat := 0
  minc : Nat := 0
  cls : Nat := 0
  origin : Nat := 0
  deriving DecidableEq, Repr

/-- A translation-buffer entry (R347): context, level of the leaf, virtual page, leaf entry. -/
structure TlbEntry where
  ctx : Nat
  level : Nat
  page : Nat
  leaf : Word
  deriving DecidableEq, Repr

/-- Agents that make HBM accesses through a cluster memory port (Table 18.5). -/
inductive WalkAgent where
  | thread (tile thr : Nat)
  | copy (tile entry : Nat)
  | cuff
  deriving DecidableEq, Repr

/-- A page walk asked of a cluster memory port (R347). -/
structure WalkReq where
  agent : WalkAgent
  ctx : Nat
  va : Nat
  write : Bool
  read : Bool
  user : Bool
  deriving DecidableEq, Repr

/-- A TLBINV that a port has performed, with the accesses it waits for (R353 step 3): operations of its tiles by tile
and tag, and granules by tile, entry and number. -/
structure TlbWork where
  flit : Flit
  ops : List (Nat × Nat)
  granules : List (Nat × Nat × Nat)
  deriving DecidableEq, Repr

/-- The cuff of a cluster (R284, R331): base, size, indices, held entries' stamps, each with its displacement to apply
(R363), and their sum since placement. -/
structure Cuff where
  base : Nat
  log2 : Nat
  entries : List BankRec := []   -- oldest first; their records are read back from HBM
  head : Nat := 0                -- index of the oldest entry's place
  dx : Int := 0
  dy : Int := 0
  stopped : Bool := false
  deriving DecidableEq, Repr

/-- What a second execution of a matrix product finds after a mismatch: every element passes, every one fails, or those
named by their place in row-major order fail (R268, R422). -/
inductive Residue where
  | passes
  | all
  | only (elems : List Nat)
  deriving DecidableEq, Repr

/-- One cluster: descriptors, matrix engine, tile store, queue bank, counters, memory port. -/
structure Cluster where
  desc : SMap Word := []
  closing : SMap Nat := []       -- descriptor: tile * 8 + thread of its TCFG, plus one (R269)
  newWord : SMap Word := []      -- word to be written when it closes
  clearing : List Nat := []      -- descriptors whose clear has begun
  store : SMap (BitVec 32) := [] -- tile-store units, row * 512 + unit (R254)
  storePsn : List Nat := []      -- poisoned units (R255)
  storeUnc : List Nat := []      -- stored errors by 8 bytes (unit div 2), uncorrectable and not (R255, R388)
  storeOne : List Nat := []
  arbP : Nat := 7
  arbR : Nat := 0
  staging : List Staging := []   -- granted commands in engine order
  bank : List BankRec := []
  bankOrder : Nat := 0
  cuff : Option Cuff := none
  chunks : SMap ChunkCtr := []
  mending : List Nat := []       -- banks that copy a row to its spare (R399): 0 the tile store's, 1 the queue bank
  chunkTaken : List Nat := []    -- iteration counters accessed in this cycle of the cluster counter (R291)
  chunkClaims : SMap (Nat × Nat) := []  -- retry priority on a counter: tile, and the cycle to which it holds
  dispPtr : Nat := 7
  counter : Nat := 0
  tlb : List TlbEntry := []
  walks : List WalkReq := []
  parked : List WalkReq := []    -- engine accesses parked on a fault (Table 18.5)
  tlbWork : List TlbWork := []   -- TLBINV received, not yet signalled (R353)
  residue : Option Residue := none  -- a mismatch of the next matrix product (R268, R422)
  deriving DecidableEq, Repr

/-- Compute dies (R1, R2, R401, R406). -/
inductive DieState where
  | present | absent | fusedOff | offline
  deriving DecidableEq, Repr

/-- The keys of a key slot, named by a number that each pair of keys has (R354, R355). -/
structure KeyRec where
  load : Nat
  dataKey : Nat
  tweakKey : Nat
  deriving DecidableEq, Repr

/-- A context: CTXDESC and the descriptor copied from HBM (R324). -/
structure Ctx where
  valid : Bool := false
  addr : Nat := 0
  ptroot : Nat := 0
  key : Nat := 0
  flogring : Nat := 0
  supq : Nat := 0
  savedir : Nat := 0
  maxprio : Nat := 0
  signed : Bool := false
  chain : List Byte := []        -- measurement chain; empty stands for 64 zero bytes (R409)
  firmware : Bool := false       -- firmware context 0 (R413)
  deriving DecidableEq, Repr

/-- A submission slot (R328, R329). -/
structure SubSlot where
  ctx : Nat := 0
  daddr : Nat := 0
  mapBit : Bool := false
  mapped : Bool := false
  busy : Bool := false
  err : Bool := false
  rbase : Nat := 0
  sbase : Nat := 0
  log2 : Nat := 0
  head : Nat := 0
  tail : Nat := 0
  rctx : Nat := 0                -- context and descriptor of the ring that is mapped
  rdaddr : Nat := 0
  latched : Option Nat := none   -- TAIL of a notify that met the unmapping (R329)
  deriving DecidableEq, Repr

/-- A crown barrier (R293, R294, R342). -/
structure Crown where
  bound : Bool := false
  t : Nat := 1
  ctx : Nat := 0
  w : Nat := 1
  h : Nat := 1
  x0 : Nat := 0
  y0 : Nat := 0
  arrived : List Nat := []       -- tiles whose arrival of this episode is at the root
  flying : List Nat := []        -- tiles whose arrival is on its way
  releasing : Bool := false
  episode : Nat := 0
  poison : Nat := 0              -- origin word + 1 of a fence's poison, 0 clean
  regions : List Nat := []       -- launches over whose regions it is bound
  saved : List Nat := []         -- those of them that are saved (R342)
  deriving DecidableEq, Repr

/-- Launch status codes (Table 17.7). -/
inductive Status where
  | queued | running | done | killed | saved | nodie | nofit | recForm | flagpoison | shape
  | imageForm | imageRead | imageSig | relocRange | recRead
  deriving DecidableEq, Repr

inductive LaunchPhase where
  | waiting | queued | placed | running | halting | settled | saved | ended
  deriving DecidableEq, Repr

/-- The VOF header as read at acceptance (Table 4.12). -/
structure Vof where
  entry : Nat := 0
  tentry : Nat := 0
  codesz : Nat := 0
  datasz : Nat := 0
  nreloc : Nat := 0
  region : Nat := 0
  reloff : Nat := 0
  sigoff : Nat := 0
  deriving DecidableEq, Repr

/-- An accepted launch (R330-R341). -/
structure Launch where
  id : Nat
  ctx : Nat
  status : Option (Nat × Nat)    -- virtual address of the status word, with its context; none: reported to Evodon
  record : List Word              -- the launch record as accepted and adjusted (R334)
  vof : Vof := {}
  head : List Word := []         -- the image's header as read at acceptance
  cuffs : List (Nat × Nat) := []
  prio : Nat := 0
  phase : LaunchPhase := .waiting
  metConds : List Nat := []      -- start conditions already observed (R335)
  order : Nat := 0               -- place in the queue among equal priorities: lower first
  started : Nat := 0             -- order of start (R337)
  cx : Nat := 0                  -- origin in clusters
  cy : Nat := 0
  fenceHit : Bool := false       -- a cluster of it has been fenced (R396 step 6)
  saves : Nat := 0
  dirEntry : Nat := 0
  area : Nat := 0                -- virtual address of the save area
  deriving DecidableEq, Repr

/-- The parts of a save image that the manual names but does not lay out (R360, log 16): tiles and clusters as
they stood, row-major. The parts it lays out are written to HBM and read back from there. -/
structure RegionImage where
  id : Nat
  cx : Nat
  cy : Nat
  tiles : List (Nat × Tile)
  clusters : List (Nat × Cluster)
  deriving DecidableEq, Repr

/-- A fault record of Table 18.6 with its context and sender. -/
structure FaultRec where
  ctx : Nat
  tile : Nat
  words : List Word
  deriving DecidableEq, Repr

/-- A TLBINV broadcast that has not been signalled by every port (R203). -/
structure Inval where
  tag : Nat
  ctx : Nat
  flag : Nat
  tile : Nat
  left : List Nat
  deriving DecidableEq, Repr

/-- A channel training block (Table 23.6). -/
structure Training where
  train : Bool := false
  dir : Bool := false
  pass : Word := 0
  res0 : Word := 0
  res1 : Word := 0
  rep : SMap Word := []
  lane : SMap Word := []
  deriving DecidableEq, Repr

/-- A proxy entry (R380): its operation's source as the peer names it; for a copy stream, the granules still to be
answered and whether its last granule is still to come; parts of a two-flit answer sent back so far. -/
structure Proxy where
  spkg : Nat
  ctx : Nat
  src : Home
  tag : Nat
  stream : Bool := false
  left : List Nat := []
  more : Bool := false
  parts : Nat := 0
  deriving DecidableEq, Repr

/-- An I/O die: routing, admission and proxy tables, flits held for another package, requests to its registers. -/
structure IoDie where
  route : SMap Word := []
  admitTab : SMap Word := []        -- entry e, word w at 4e + w
  proxies : SMap Proxy := []     -- keyed by proxy tag
  out : List (Flit × Nat × Nat) := []  -- flit, SPKG, HOPS
  monitors : List Flit := []     -- the arm requests registered on launch flags (R178)
  inq : List Flit := []          -- plane A flits for the MMIO block
  inqB : List Flit := []         -- plane B flits for it
  deriving DecidableEq, Repr

/-- An Atwald port (R375, R376). -/
structure Port where
  down : Bool := false
  spareUsed : Bool := false
  seq : Nat := 0                 -- next sequence number to send
  rseq : Nat := 0                -- next sequence number expected
  replayAsked : Bool := false
  outbox : List (Nat × Nat × Nat × Nat × Flit) := []   -- frames sent and not yet acknowledged: SEQ, SPKG, DPKG, HOPS, flit
  deriving DecidableEq, Repr

/-- An Ethernet port (Table 20.6). -/
structure Eth where
  en : Bool := false
  ctx : Nat := 0
  txBase : Nat := 0
  txLog2 : Nat := 0
  rxBase : Nat := 0
  rxLog2 : Nat := 0
  txTail : Nat := 0
  rxTail : Nat := 0
  txHead : Nat := 0
  rxHead : Nat := 0
  drops : Word := 0
  sent : List (List Byte) := []  -- frames that left, newest first
  deriving DecidableEq, Repr

/-- A containment rectangle register (Table 22.5). -/
structure Rect where
  v : Bool := false
  fen : Bool := false
  cause : Nat := 0
  w : Nat := 1
  h : Nat := 1
  x0 : Nat := 0
  y0 : Nat := 0
  deriving DecidableEq, Repr

/-- WEARCFG (Table 22.4). -/
structure WearCfg where
  mark : Nat := 0x0040
  leak : Nat := 0x1000_0000
  deriving DecidableEq, Repr

/-- A wear counter with its latch: an event has been recorded and the counter has not fallen to MARK div 2 (R393). -/
structure Wear where
  count : Nat := 0
  latched : Bool := false
  deriving DecidableEq, Repr

/-- A spare put to use: kind (Table 22.6, 0-3 as wear kinds, 6 column; 4: a die that is fused off), the unit that it replaces, and
which of that unit's spares it is (R399, R406). -/
structure Spare where
  kind : Nat
  unit : Nat
  index : Nat := 0
  deriving DecidableEq, Repr

/-- The boot between steps 3 and 5 (R413): what it has found, the channels (stack * 32 + channel) whose training has not begun,
the launches that train a channel, and the channels that have failed. -/
structure Boot where
  report : BootReport
  left : List Nat
  active : List (Nat × Nat) := []   -- launch id, channel
  failed : List Nat := []
  deriving DecidableEq, Repr

/-- Evodon: mailbox, events, configuration, keys, measurements, power (R388-R419). -/
structure Evodon where
  cmdSeq : BitVec 16 := 0
  cmdCode : Byte := 0
  seq : BitVec 16 := 0
  result : Byte := 0
  ready : Bool := false
  err : Bool := false
  busy : Bool := false
  response : List Byte := []
  args : SMap Byte := []         -- the argument area, by its offset in BAR4 (R411)
  events : SMap (List Word) := []   -- the ring's records, by place (R411)
  evHead : Nat := 0
  cycles : Nat := 0              -- cycles of the agents outside the tiles (R404 word 2, R38)
  wearCfg : SMap WearCfg := []
  scrubEn : Bool := true
  hstep : Nat := 0x00_0400
  sstep : Nat := 0x00_4000
  wear : SMap Wear := []         -- keyed by kind + 4 * unit; from unit 2^20 on, those of the columns that no map names (R392, R400)
  spares : List Spare := []      -- spares in force
  spareMap : List Spare := []    -- the entries of the spare map, oldest first, units as they were numbered then (R406)
  ppr : SMap Nat := []           -- spare rows that post-package repairs have taken, by channel (R399, R406)
  worn : List (Nat × Nat × Nat) := []   -- wear events whose repair has not begun: kind, unit, address (R399)
  autos : List (Nat × Nat) := []        -- automatic repairs in progress: kind, unit
  columns : SMap Nat := []       -- die: physical column remapped out, plus one (R400)
  verifyKeys : SMap (List Byte) := []   -- slots 1-15; slot 0 always holds the root key (R408)
  trainingImage : List Byte := []   -- the image that Evodon's store holds (R413)
  boot : Option Boot := none     -- the boot in progress
  inReset : Bool := false        -- the firmware has not verified: the device stays in reset (R405 step 1)
  linksDown : List Nat := []     -- host links that training has left down (R405 step 6)
  linkErrors : List Nat := []    -- host links of which an access is to meet an error (R388)
  configs : List (List Byte) := []  -- configuration blobs accepted (R407, R409)
  chain : List Byte := []        -- empty stands for 64 zero bytes
  boots : Nat := 0
  limit : Nat := 3600
  duty : Nat := 16               -- matrix duty in sixteenths
  temps : SMap Nat := []         -- die: temperature last crossed, in degrees
  veryHot : Bool := false        -- a die reached 115: nothing is placed (R419)
  repairing : List Nat := []     -- dies, stacks or rectangles with a command in progress (R402)
  remapPending : Option (Nat × Nat) := none       -- REMAP in progress: die, column
  offlinePending : Option (Nat × Bool) := none    -- OFFLINE in progress: die, FORCE
  onlinePending : Option Nat := none              -- ONLINE in progress: die
  restorePending : Option Nat := none             -- RESTORE accepted, until regions may be placed (R419): tier base
  deriving DecidableEq, Repr

/-- A region in a checkpoint: its launch, its image in the layout of R360 as the words that are not zero, by number, and the parts
that the layout names and does not lay out (log 16). -/
structure SavedRegion where
  launch : Launch
  words : SMap Nat
  image : RegionImage
  deriving DecidableEq, Repr

/-- A checkpoint as it lies in the CXL tier (Table 23.9): the fields of its header; the stacks' bytes before encryption, with the key
load of each burst and the keys of the loads, from which the ciphertext follows; the poison marks; the regions, in launch-id order. -/
structure Checkpoint where
  base : Nat
  magic : Nat := 0x544B_5043
  images : Nat := 0              -- number of region images
  part : Word
  pkg : Nat
  chain : List Byte
  digest : List Byte
  hbm : Memory
  hbmPsn : List Nat
  keyOf : SMap Nat
  keyUsed : List KeyRec
  regions : List SavedRegion
  deriving DecidableEq, Repr

/-- A completed host access through BAR2 or a host register read: link, data and EP (R372). -/
structure HostReply where
  link : Nat
  data : List Byte
  ep : Bool
  deriving DecidableEq, Repr

/-- A host access that waits at its link (R373, R414): through BAR2, or to a register or the mailbox (log 19). -/
structure HostWait where
  link : Nat
  bar2 : Bool
  addr : Nat
  acc : HostAccess
  deriving DecidableEq, Repr

/-- An error that the hardware makes by itself, of the rows of Table 22.1 (R388). -/
inductive HwError where
  /-- a stored error in the word at a flat address: correctable, or not -/
  | word (a : Nat) (single : Bool)
  /-- the parity of a scratchpad pair's tag -/
  | pairTag (a : Nat)
  /-- a stored error in 8 bytes of a tile store, by unit -/
  | store (cluster unit : Nat) (single : Bool)
  /-- a stored error in a word of a record of a queue bank -/
  | bank (cluster i word : Nat) (single : Bool)
  /-- a stored error in a staging slot -/
  | staging (cluster i : Nat)
  /-- the checker finds an instruction's next execution wrong, and what it finds of the one after it -/
  | checker (tile : Nat) (second : Option Faulty)
  /-- the same for a matrix product -/
  | residue (cluster : Nat) (second : Residue)
  /-- a flit on a mesh link -/
  | link (tile dir : Nat)
  /-- control state of a cluster, or the control logic of a second execution (R395) -/
  | control (cluster : Nat) (cause : FenceCause)
  /-- a flit in an I/O die's buffers -/
  | ioBuffer (die : Nat) (planeB : Bool) (i : Nat)
  /-- an access of a host link -/
  | hostLink (link : Fin 4)
  /-- a unit fails for good: an SRAM row, by its address, a MAC column, a die crossing's wire, a DQ lane (R399) -/
  | hard (kind unit at_ : Nat)
  deriving DecidableEq, Repr

/-- One turn of the package: a core's cycle, or a step of another agent. -/
inductive Turn where
  | core (tile : Nat)
  | event (i : Instr)
  /-- a fence notice: the event FENCE_NOTICE of this rectangle -/
  | fence (r : RectId) (cause : FenceCause)
  /-- OFFLINE goes on, once its regions are gone -/
  | offline (seq : BitVec 16) (die : Nat) (force : Bool)
  /-- ONLINE goes on, once no TLBINV is outstanding -/
  | online (seq : BitVec 16) (die : Nat)
  /-- an error of the hardware -/
  | error (e : HwError)
  /-- the unmapping of a slot's ring ends -/
  | unmapped (slot : Fin 64)
  /-- a host access of a link to a register, or to the mailbox (R370, R373, R411) -/
  | hostReg (link : Fin 4) (addr : Nat) (acc : HostAccess)
  /-- a waiting host access is tried again -/
  | hostRetry (i : Nat)
  /-- Evodon's next act of the boot (R413) -/
  | boot
  /-- a configuration blob is offered to Evodon (R407) -/
  | configBlob (blob : List Byte)
  /-- the automatic repair of a worn unit begins (R399) -/
  | repair (kind unit : Nat)
  /-- an automatic repair ends with OK -/
  | repaired (kind unit : Nat)
  /-- an accepted RESTORE goes on -/
  | restoring
  /-- ETH_TRANSMIT of a port -/
  | ethTx (p : Fin 8)
  /-- a cycle of the agents outside the tiles -/
  | clock
  /-- a command that a write of MBCMD has started: its code, SEQ and argument area (R411) -/
  | command (code : Nat) (seq : BitVec 16) (args : SMap Byte)
  /-- an event from outside that has met a channel in training is tried again (R414) -/
  | again (i : Nat)
  deriving DecidableEq, Repr

/-- The package. -/
structure State where
  /-- turns that come next, oldest first; when empty the default schedule chooses (log 2) -/
  agenda : List Turn := []
  /-- number of free values drawn (log 5) -/
  free : Nat := 0
  /-- tile and thread whose instruction is being executed -/
  curTile : Nat := 0
  curThr : Nat := 0
  /-- the default schedule (log 2): core turns it has given, and turns of every kind -/
  rr : Nat := 0
  beat : Nat := 0
  powered : Bool := true
  pkg : Nat := Config.packageNumber
  dies : List DieState := [.present, .present, .present, .present]
  mem : Memory := []
  /-- word numbers (address div 8) that are full, and that are poisoned -/
  full : List Nat := []
  psn : List Nat := []
  /-- pair numbers (address div 16) whose tag is set -/
  tagged : List Nat := []
  /-- words with a stored error not yet found by a read (R207, R403) -/
  errUnc : List Nat := []
  errOne : List Nat := []
  /-- scratchpad pairs (address div 16) whose tag parity fails (R207) -/
  errTag : List Nat := []
  /-- HBM bursts (PPA div 64) stored under a key other than the boot key: number of the load (R354) -/
  keyOf : SMap Nat := []
  keys : SMap KeyRec := []
  keyLoads : Nat := 0
  /-- the keys loaded since power-on, each under its number (R354, R355) -/
  keyUsed : List KeyRec := []
  /-- the turn has met an access to a channel in training, which waits at its controller (R414) -/
  stalled : Bool := false
  /-- several writes of one cycle are being performed: the FWAIT monitors decided so far, as tile, thread, monitor and class
  (R177) -/
  batch : Option (List (Nat × Nat × WaitMon × Option Nat)) := none
  tiles : SMap Tile := []
  clusters : SMap Cluster := []
  routers : SMap Router := []
  /-- requests waiting at each memory port, plane A and plane B, and messages being reassembled there -/
  ports : SMap (List Flit) := []
  portsB : SMap (List Flit) := []
  portSlots : SMap (List Slot) := []
  sigWaits : List SigWait := []
  /-- refused flits of the memory ports and I/O dies, held for their retries (R38) -/
  agentRetries : List (Home × Retry) := []
  /-- tags given to requests, signals and proxies so far (log 9) -/
  tags : Nat := 0
  lflags : SMap Word := []
  ctxs : SMap Ctx := []
  subs : SMap SubSlot := []
  crowns : SMap Crown := []
  launches : List Launch := []
  launchIds : Nat := 0
  orders : Nat := 0x1_0000_0000
  /-- places for launches that re-enter the queue first (R337): counts down -/
  firsts : Nat := 0xFFFF_FFFF
  images : List RegionImage := []
  held : List FaultRec := []
  invals : List Inval := []
  training : SMap Training := []
  hostctx : SMap Word := []
  io : SMap IoDie := []
  atwald : SMap Port := []
  eth : SMap Eth := []
  rects : SMap Rect := []
  loneFences : List Nat := []
  scrubPos : SMap Nat := []
  evo : Evodon := {}
  ckpt : Option (BitVec 16 × Nat) := none
  tier : List Checkpoint := []
  replies : List HostReply := []
  /-- events from outside that have met a channel in training and wait, oldest first (R414) -/
  deferred : List Turn := []
  /-- host accesses that wait, oldest first -/
  hostWaits : List HostWait := []
  /-- launch status codes reported to Evodon for firmware context 0: launch id, CODE, INDEX (R413) -/
  fwStatus : List (Nat × Nat × Nat) := []
  deriving DecidableEq, Repr

/-- Why the machine takes no step. -/
inductive Fault where
  /-- raised by step alone: the module has powered off at 125 degrees (R419), and the next turn is not power-on
  reset. Safe: no further behaviour is claimed. -/
  | poweredOff
  deriving DecidableEq, Repr

/-- Why an instruction has no meaning here. -/
inductive Refusal where
  /-- raised by an arm of exec whose instruction has no meaning yet; no arm does. Safe. -/
  | notModelled (mnemonic : String)
  deriving DecidableEq, Repr

/-- The package right after power-on reset, before Evodon boots it (R405): every register at its reset value,
no region placed, memory with nothing listed. Values the manual does not give: log 7 and log 11. -/
def State.reset : State := {}

end Sys2Proof.Machine
end

