-- ==== Sys2Proof/Machine/Ops.lean ====
section
/-! DEFINITION. The named operations over the state: keyed collections, memory bytes and word metadata, tiles,
threads and registers; retiring; taking an exception and returning from one (R186-R188). -/
namespace Sys2Proof.Machine

/-! ## Keyed collections -/

/-- The entry at key k, or the default. -/
def mget {α : Type} (d : α) : SMap α → Nat → α
  | [], _ => d
  | (j, v) :: m, k => if j = k then v else mget d m k

/-- The entry at key k, if one is listed. -/
def mfind {α : Type} : SMap α → Nat → Option α
  | [], _ => none
  | (j, v) :: m, k => if j = k then some v else mfind m k

/-- Without key k. -/
def mdel {α : Type} : SMap α → Nat → SMap α
  | [], _ => []
  | (j, v) :: m, k => if j = k then mdel m k else (j, v) :: mdel m k

/-- With an entry put in its place among rising keys. -/
def mins {α : Type} : SMap α → Nat → α → SMap α
  | [], k, v => [(k, v)]
  | (j, w) :: m, k, v => if k < j then (k, v) :: (j, w) :: m else (j, w) :: mins m k v

/-- Listing v at k, whatever v is. -/
def mput {α : Type} (m : SMap α) (k : Nat) (v : α) : SMap α := mins (mdel m k) k v

/-- v at k; a default is not listed. -/
def mset {α : Type} [DecidableEq α] (d : α) (m : SMap α) (k : Nat) (v : α) : SMap α :=
  if v = d then mdel m k else mput m k v

/-- Sets of numbers, as rising lists. -/
def nins : List Nat → Nat → List Nat
  | [], k => [k]
  | j :: l, k => if k < j then k :: j :: l else j :: nins l k

def ndel (l : List Nat) (k : Nat) : List Nat := l.filter (fun j => j != k)

def nset (l : List Nat) (k : Nat) (b : Bool) : List Nat := if b then nins (ndel l k) k else ndel l k

/-- The first element that satisfies p, and the list without it. -/
def takeFirst {α : Type} (p : α → Bool) : List α → Option (α × List α)
  | [] => none
  | x :: xs =>
    if p x then some (x, xs)
    else match takeFirst p xs with
      | some (y, ys) => some (y, x :: ys)
      | none => none

/-- The list with f applied to its first element that satisfies p. -/
def updFirst {α : Type} (p : α → Bool) (f : α → α) : List α → List α
  | [] => []
  | x :: xs => if p x then f x :: xs else x :: updFirst p f xs

/-! ## Places -/

/-- Flat address of a scratchpad byte: HBM takes the addresses below 2^44 by PPA (R343). -/
def spadBase : Nat := 2 ^ 44

def spad (tile off : Nat) : Nat := spadBase + tile * 2 ^ 19 + off

/-- The tile whose scratchpad holds a flat address. -/
def spadTile (a : Nat) : Nat := (a - spadBase) / 2 ^ 19

def isSpad (a : Nat) : Bool := spadBase ≤ a

def tileX (t : Nat) : Nat := t % 64
def tileY (t : Nat) : Nat := t / 64

/-- Cluster of a tile, row-major on 16 columns. -/
def clusterOf (t : Nat) : Nat := tileY t / 2 * 16 + tileX t / 4

/-- Number of a tile within its cluster (R250). -/
def inCluster (t : Nat) : Nat := tileY t % 2 * 4 + tileX t % 4

/-- Tile k of a cluster (R250). -/
def clusterTile (c k : Nat) : Nat := (c / 16 * 2 + k / 4) * 64 + (c % 16 * 4 + k % 4)

/-- Die of a cluster (R336). -/
def dieOf (c : Nat) : Nat := c / 16 / 16 * 2 + c % 16 / 8

/-- Global address of a scratchpad byte of the own package (R50). -/
def gaSpad (tile off : Nat) : Nat := 2 ^ 63 + tileY tile * 2 ^ 38 + tileX tile * 2 ^ 32 + off

/-- Fields of a global address (Table 2.6). -/
def gaLocal (a : Nat) : Bool := bit a 63
def gaPkg (a : Nat) : Nat := bits a 62 46
def gaSpace (a : Nat) : Nat := bits a 45 44
def gaTile (a : Nat) : Nat := bits a 43 32
def gaOff (a : Nat) : Nat := bits a 18 0
def gaAddr (a : Nat) : Nat := bits a 43 0

/-- Origin codes of Table 9.2. -/
def originTile (t : Nat) : Nat := t
def originStack (s : Nat) : Nat := 0x1000 + s
def originIo (d : Nat) : Nat := 0x2000 + d
def originPort (p : Nat) : Nat := 0x3000 + p

def originOf : Home → Nat
  | .tile t => originTile t
  | .port p => originStack (p / 8)
  | .io d => originIo d

/-! ## Bytes and word metadata -/

def State.byte (s : State) (a : Nat) : Byte := mget 0 s.mem a

def State.setByte (s : State) (a : Nat) (b : Byte) : State := { s with mem := mset 0 s.mem a b }

def State.bytes (s : State) (a : Nat) : Nat → List Byte
  | 0 => []
  | n + 1 => s.byte a :: State.bytes s (a + 1) n

def State.setBytes (s : State) (a : Nat) : List Byte → State
  | [] => s
  | b :: bs => State.setBytes (s.setByte a b) (a + 1) bs

/-- The n bytes at a as a little-endian number (R6). -/
def State.val (s : State) (a n : Nat) : Nat := leNat (s.bytes a n)

def State.setVal (s : State) (a n v : Nat) : State := s.setBytes a (natLe n v)

/-- Full/empty, poison and tag of the word or pair that holds a byte (R205). -/
def State.fe (s : State) (a : Nat) : Bool := s.full.contains (a / 8)
def State.poisoned (s : State) (a : Nat) : Bool := s.psn.contains (a / 8)
def State.tagAt (s : State) (a : Nat) : Bool := s.tagged.contains (a / 16)

def State.setFe (s : State) (a : Nat) (b : Bool) : State := { s with full := nset s.full (a / 8) b }
def State.setPoisoned (s : State) (a : Nat) (b : Bool) : State := { s with psn := nset s.psn (a / 8) b }
/-- A tag written comes with fresh parity. -/
def State.setTagAt (s : State) (a : Nat) (b : Bool) : State :=
  { s with tagged := nset s.tagged (a / 16) b, errTag := ndel s.errTag (a / 16) }

/-- The next free value (log 5). -/
def State.draw (s : State) : Word × State := (Config.freeValue s.free, { s with free := s.free + 1 })

/-! ## Tiles, clusters, threads -/

def State.tile (s : State) (t : Nat) : Tile := mget {} s.tiles t
def State.setTile (s : State) (t : Nat) (x : Tile) : State := { s with tiles := mset {} s.tiles t x }
def State.updTile (s : State) (t : Nat) (f : Tile → Tile) : State := s.setTile t (f (s.tile t))

def State.cluster (s : State) (c : Nat) : Cluster := mget {} s.clusters c
def State.setCluster (s : State) (c : Nat) (x : Cluster) : State := { s with clusters := mset {} s.clusters c x }
def State.updCluster (s : State) (c : Nat) (f : Cluster → Cluster) : State := s.setCluster c (f (s.cluster c))

def State.router (s : State) (t : Nat) : Router := mget {} s.routers t
def State.setRouter (s : State) (t : Nat) (x : Router) : State := { s with routers := mset {} s.routers t x }

def Tile.thread (tl : Tile) (h : Nat) : Thread := mget {} tl.threads h
def Tile.setThread (tl : Tile) (h : Nat) (x : Thread) : Tile := { tl with threads := mset {} tl.threads h x }

def State.thr (s : State) (t h : Nat) : Thread := (s.tile t).thread h
def State.setThr (s : State) (t h : Nat) (x : Thread) : State := s.setTile t ((s.tile t).setThread h x)
def State.updThr (s : State) (t h : Nat) (f : Thread → Thread) : State := s.setThr t h (f (s.thr t h))

/-- The thread whose instruction is being executed. -/
def State.cur (s : State) : Thread := s.thr s.curTile s.curThr
def State.setCur (s : State) (x : Thread) : State := s.setThr s.curTile s.curThr x
/-- Its tile. -/
def State.curT (s : State) : Tile := s.tile s.curTile

def State.ctxOf (s : State) (c : Nat) : Ctx := mget {} s.ctxs c
def State.setCtx (s : State) (c : Nat) (x : Ctx) : State := { s with ctxs := mset {} s.ctxs c x }
def State.ioDie (s : State) (d : Nat) : IoDie := mget {} s.io d
def State.setIo (s : State) (d : Nat) (x : IoDie) : State := { s with io := mset {} s.io d x }

/-! ## Registers (R40-R46) -/

/-- gN as an instruction reads it: g0 is data zero (R41). -/
def Thread.rd (t : Thread) (r : GIx) : GReg := if r = 0 then {} else mget {} t.g r

/-- gN := v; a write to g0 is discarded (R41). -/
def Thread.wr (t : Thread) (r : GIx) (v : GReg) : Thread :=
  if r = 0 then t else { t with g := mset {} t.g r v }

/-- kN; k0 always reads 0xFFFF (R46). -/
def Thread.rk (t : Thread) (k : KIx) : BitVec 16 := if k = 0 then 0xFFFF else mget 0 t.k k

/-- kN := x; a write to k0 is discarded (R46). -/
def Thread.wk (t : Thread) (k : KIx) (x : BitVec 16) : Thread :=
  if k = 0 then t else { t with k := mset 0 t.k k x }

def Thread.rv (t : Thread) (v : VIx) : VReg := mget {} t.v v
def Thread.wv (t : Thread) (v : VIx) (x : VReg) : Thread := { t with v := mset {} t.v v x }

/-- Data (Table 2.1). -/
def dataReg (w : Word) : GReg := { tag := .data, body := w.setWidth 128 }

/-- A capability from its cursor and body [127:64]. -/
def capReg (upper cursor : Word) : GReg := { tag := .cap, body := upper ++ cursor }

/-- PoisonVal(c, o) of Table 4.15. -/
def poisonVal (cls origin : Nat) : GReg :=
  { tag := .poison, body := BitVec.ofNat 64 origin ++ BitVec.ofNat 64 (cls % 256) }

/-- Body [63:0]: the value of data, the cursor of a capability (R42). -/
def GReg.low (r : GReg) : Word := r.body.setWidth 64
/-- Body [127:64]. -/
def GReg.upper (r : GReg) : Word := r.body.extractLsb' 64 64
def GReg.isPoison (r : GReg) : Bool := r.tag == .poison
def GReg.isCap (r : GReg) : Bool := r.tag == .cap
/-- Class(x) of Table 4.15. -/
def GReg.cls (r : GReg) : Nat := if r.isPoison then r.body.toNat % 256 else 0

/-- Poison with a class raised at this tile: the tile id in [75:64] (R40). -/
def tilePoison (cls tile : Nat) : GReg := poisonVal cls tile

/-- The first poisoned register of a list (R104, R131). -/
def firstPoison : List GReg → Option GReg
  | [] => none
  | r :: rs => if r.isPoison then some r else firstPoison rs

/-! ## The program counter and retiring -/

/-- Scratchpad offset of the line of a PC. -/
def pcLine (pc : Word) : Nat := pc.toNat % 2 ^ 19 / 64 * 64

/-- The line of a PC in the fetch buffer. -/
def Thread.line (t : Thread) (pc : Word) : Option (List Parcel) := t.fbuf.lookup (pcLine pc)

/-- Heads in the buffered line of the thread's PC (0 where the line is not in the buffer). -/
def Thread.heads (t : Thread) : Nat :=
  match t.line t.pc with
  | some l => lineHeads l
  | none => 0

/-- The sequential successor of the thread's PC (R86). -/
def Thread.succ (t : Thread) : Word := succPc t.pc t.heads

/-- RETIRED increases by one (R192); what an access kept from earlier turns is done with. -/
def Thread.count (t : Thread) : Thread :=
  { t with retired := t.retired + 1, served := [], retryBanks := [], walkEnds := [] }

/-- Retire, with the sequential successor as the next PC. -/
def Thread.retire (t : Thread) : Thread := { t.count with pc := t.succ }

/-- The instruction retires and leaves its thread as t says. -/
def State.done (s : State) (t : Thread) : Host.Outcome State Fault Refusal := .next (s.setCur t.retire)

/-- The instruction retires having written gD. -/
def State.doneG (s : State) (d : GIx) (v : GReg) : Host.Outcome State Fault Refusal := s.done (s.cur.wr d v)

/-! ## Exceptions (R183-R188) -/

/-- Body [127:64] of the image code capability (R339): BASE 0, LEN CODESZ, PERM EX and LD. -/
def imageCode (size : Nat) : Word := BitVec.ofNat 64 (0x021 * 2 ^ 53 + size * 2 ^ 14)

/-- The code capability in force as a register: tag 00 while unset (R202). -/
def Thread.codeReg (t : Thread) : GReg :=
  match t.code with
  | some u => capReg u t.pc
  | none => {}

/-- Cause codes of Table 8.1. -/
def causeIllegal : Nat := 0x01
def causeLine : Nat := 0x02
def causePriv : Nat := 0x03
def causeNotCap : Nat := 0x04
def causePerm : Nat := 0x05
def causeBounds : Nat := 0x06
def causeAlign : Nat := 0x07
def causePoison : Nat := 0x08
def causeTrans : Nat := 0x09
def causeShape : Nat := 0x0A
def causeTile : Nat := 0x0B
def causeTrap : Nat := 0x0C
def causeBreak : Nat := 0x0D
def causeAsync : Nat := 0x0E

/-- A fault record of Table 18.6. -/
def faultWords (tile thr : Nat) (wr : Bool) (cause level reason kind va loc entry : Nat) : List Word :=
  [BitVec.ofNat 64 (tile * 2 ^ 52 + thr * 2 ^ 49 + boolNat wr * 2 ^ 48 + cause * 2 ^ 32 + level * 2 ^ 16 +
     reason * 2 ^ 8 + kind),
   BitVec.ofNat 64 va, BitVec.ofNat 64 loc, BitVec.ofNat 64 entry, 0, 0, 0, 0]

/-- A record given to its sender, which offers it to the supervisor queue of the context (R350, R351). -/
def State.sendRecord (s : State) (ctx tile : Nat) (words : List Word) : State :=
  { s with held := s.held ++ [{ ctx := ctx, tile := tile, words := words }] }

/-- What every trap does to the thread besides entering a handler or halting: nothing of the instruction stays. -/
def Thread.abandon (t : Thread) : Thread :=
  { t with served := [], retryBanks := [], walkEnds := [], skip := 0, recheck := .no, badBase := none }

/-- The thread as the trap entry of R186 leaves it. -/
def Thread.enter (t : Thread) (imageSize cause value : Nat) (epc : Word) (walk : Bool) : Thread :=
  { t.abandon with
    epc := epc, ecap := t.codeReg, cause := BitVec.ofNat 8 cause, walkBit := walk, eval := BitVec.ofNat 64 value,
    ppriv := t.priv, priv := true, exl := true, code := some (imageCode imageSize), pc := t.tvec,
    fbuf := [], wanted := [] }

/-- Taking a trap on thread h of tile t (R186): the handler is entered, or with EXL set or TVEC zero the thread
halts and a fault record of KIND 5 is sent (R187). The record and the halted thread name the instruction's own PC, also where a
TRAP, which retires first, halts (DEDUCED, log 45). -/
def State.trapOn (s : State) (t h : Nat) (cause value : Nat) (epc : Word) (walk : Bool) : State :=
  let th := s.thr t h
  if th.exl || th.tvec == 0 then
    (s.setThr t h { th.abandon with run := .halted, wait := .none, halt187 := true }).sendRecord (s.tile t).ctx t
      (faultWords t h false cause 0 0 5 value th.pc.toNat 0)
  else s.setThr t h (th.enter (s.tile t).imageSize cause value epc walk)

/-- The instruction traps: it commits nothing and is not retired (R183). -/
def State.trap (s : State) (cause value : Nat) : Host.Outcome State Fault Refusal :=
  .next (s.trapOn s.curTile s.curThr cause value s.cur.pc false)

/-- A trap at the PC a skip walk has reached: EVAL holds the annulments not yet made (R114, R184). -/
def State.trapWalk (s : State) (cause : Nat) : Host.Outcome State Fault Refusal :=
  .next (s.trapOn s.curTile s.curThr cause s.cur.skip s.cur.pc true)

/-- The thread as ERET leaves it (R188); the code capability becomes ECAP with cursor EPC. -/
def Thread.eret (t : Thread) : Thread :=
  { t.count with
    code := some t.ecap.upper, pc := t.epc, priv := t.ppriv, exl := false, fbuf := [], wanted := [] }

/-- A supervisor-only instruction: in user mode it traps "privileged in user mode" with the head and tail in EVAL
(R94, R182). -/
def State.headTail (s : State) : Nat :=
  match s.cur.line s.cur.pc with
  | some l =>
    let i := s.cur.pc.toNat / 2 % 32
    lineHead l i + 65536 * lineTail l i
  | none => 0

def State.privileged (s : State) (act : Host.Outcome State Fault Refusal) : Host.Outcome State Fault Refusal :=
  if s.cur.priv then act else s.trap causePriv s.headTail

/-- EVAL of an async-fault halt (R303). -/
def asyncEval (tl : Tile) : Nat :=
  let unread := tl.flog.filter (fun e => !e.rd)
  let cls := match unread with
    | e :: _ => e.cls
    | [] => 0
  cls % 256 + 256 * Nat.min 8 (unread.length + tl.spilled)

/-- A synchronising instruction: with an async fault pending it traps before any part of it is performed, and the
trap clears the bit (R303). -/
def State.synchronising (s : State) (act : Host.Outcome State Fault Refusal) : Host.Outcome State Fault Refusal :=
  if s.cur.afp then (s.setCur { s.cur with afp := false }).trap causeAsync (asyncEval s.curT) else act

/-- Head of the instruction being executed, for log entries (Table 13.3). -/
def State.curHead (s : State) : Nat := s.headTail % 65536

/-- The instruction gives up its slot with nothing performed and is issued again (R17, R23). -/
def State.forfeit (s : State) (banks : List Nat) : Host.Outcome State Fault Refusal :=
  .next (s.setCur { s.cur with retryBanks := banks })

/-- The thread leaves rotation, to re-issue at its PC (STATE 3, R190). -/
def State.park (s : State) (w : Wait) : Host.Outcome State Fault Refusal :=
  .next (s.setCur { s.cur with run := .reissue, wait := w })

/-- A parked thread returns to rotation. -/
def State.resume (s : State) (t h : Nat) : State :=
  s.updThr t h fun th => { th with run := .rotation, wait := .none }

end Sys2Proof.Machine
end

