-- ==== Sys2Proof/Machine/Flags.lean ====
section
/-! DEFINITION. Flag words and conditions: the count, class and origin of a flag (Table 9.1), the signal of R167,
write-pointer writes (R211), monitor conditions (R177) and the condition codes of Table 4.3. -/
namespace Sys2Proof.Machine

def flagCount (w : Nat) : Nat := bits w 39 0
def flagCls (w : Nat) : Nat := bits w 47 40
def flagOrigin (w : Nat) : Nat := bits w 63 48

/-- A flag word from its fields. -/
def mkFlag (count cls origin : Nat) : Nat := count % 2 ^ 40 + cls % 256 * 2 ^ 40 + origin % 2 ^ 16 * 2 ^ 48

/-- The word a signal of n with class c and an origin leaves (R167): the first class is kept, a class adds
nothing. -/
def signalled (w n c origin : Nat) : Nat :=
  if c ≠ 0 then
    if flagCls w = 0 then mkFlag (flagCount w) c origin else w
  else mkFlag (flagCount w + n) (flagCls w) (flagOrigin w)

/-- The word a write-pointer write of b leaves (R211). -/
def pointed (w b : Nat) : Nat := mkFlag b (flagCls w) (flagOrigin w)

/-- A monitor's condition on a count (R176). -/
def meets (eq : Bool) (count threshold : Nat) : Bool := if eq then count == threshold else threshold ≤ count

/-- Class that makes a flag poisoned (R177): that of the flag or, failing that, of its word. -/
def flagPoison (w : Nat) (poisonedWord : Bool) : Nat := if poisonedWord then w % 256 else flagCls w

/-- Integer conditions of Table 4.3 on 64-bit values. -/
def condHolds (c : Cond) (a b : Word) : Bool :=
  match c with
  | .eq => a == b
  | .ne => a != b
  | .lt => a.slt b
  | .ge => !(a.slt b)
  | .ltu => a.ult b
  | .geu => !(a.ult b)

end Sys2Proof.Machine
end

