-- ==== Sys2Proof/Machine/Aes.lean ====
section
/-! DEFINITION. AES-256 in the XTS mode of IEEE 1619, under which HBM is stored (R354). The manual names the standard and does
not give it (PRESUMED, log 13). -/
namespace Sys2Proof.Machine

/-! ## The field of 256 elements -/

/-- Twice an element, modulo x^8 + x^4 + x^3 + x + 1. -/
def xtime (a : Nat) : Nat := if a < 128 then 2 * a else 2 * a % 256 ^^^ 0x1B

/-- The product of two elements. -/
def gfMul (a b : Nat) : Nat :=
  ((List.range 8).foldl (fun (r : Nat × Nat) i => (if bit b i then r.1 ^^^ r.2 else r.1, xtime r.2)) (0, a)).1

/-- The inverse of an element, 0 for 0: its power 254, which is 2 + 4 + ... + 128. -/
def gfInv (a : Nat) : Nat :=
  ((List.range 7).foldl (fun (r : Nat × Nat) _ => let q := gfMul r.2 r.2; (gfMul r.1 q, q)) (1, a)).1

/-- Eight bits rotated left by k. -/
def rotl8 (b k : Nat) : Nat := b * 2 ^ k % 256 + b / 2 ^ (8 - k)

/-- The substitution of a byte, and its inverse. -/
def subByte (a : Nat) : Nat :=
  let b := gfInv a
  b ^^^ rotl8 b 1 ^^^ rotl8 b 2 ^^^ rotl8 b 3 ^^^ rotl8 b 4 ^^^ 0x63

def unsubByte (a : Nat) : Nat := gfInv (rotl8 a 1 ^^^ rotl8 a 3 ^^^ rotl8 a 6 ^^^ 0x05)

/-! ## The cipher: blocks of 16 bytes, byte r of column c at 4 c + r -/

def xorBytes (a b : List Nat) : List Nat := (a.zip b).map fun x => x.1 ^^^ x.2

/-- Word i of the key schedule of a 32-byte key, from the words before it. -/
def nextKeyWord (ws : List (List Nat)) (i : Nat) : List Nat :=
  let t := ws.getD (i - 1) []
  let t :=
    if i % 8 = 0 then xorBytes ((t.drop 1 ++ t.take 1).map subByte) [2 ^ (i / 8 - 1), 0, 0, 0]
    else if i % 8 = 4 then t.map subByte
    else t
  xorBytes (ws.getD (i - 8) []) t

/-- The 15 round keys of a 32-byte key. -/
def roundKeys (key : List Nat) : List (List Nat) :=
  let first := (List.range 8).map fun i => (key.drop (4 * i)).take 4
  let ws := (List.range 52).foldl (fun ws i => ws ++ [nextKeyWord ws (i + 8)]) first
  (List.range 15).map fun r => ((ws.drop (4 * r)).take 4).flatten

/-- Rows rotated by their number, to the left, or back. -/
def shiftRows (b : List Nat) : List Nat := (List.range 16).map fun i => b.getD ((i / 4 + i % 4) % 4 * 4 + i % 4) 0
def unshiftRows (b : List Nat) : List Nat := (List.range 16).map fun i => b.getD ((i / 4 + 4 - i % 4) % 4 * 4 + i % 4) 0

/-- Columns multiplied by the circulant matrix whose first row is m. -/
def mixColumns (m b : List Nat) : List Nat :=
  (List.range 16).map fun i => (List.range 4).foldl (fun r k => r ^^^ gfMul (b.getD (i / 4 * 4 + k) 0) (m.getD ((k + 4 - i % 4) % 4) 0)) 0

def aesEncrypt (keys : List (List Nat)) (b : List Nat) : List Nat :=
  let rk := fun r => keys.getD r []
  let b := (List.range 13).foldl (fun b r => xorBytes (mixColumns [2, 3, 1, 1] (shiftRows (b.map subByte))) (rk (r + 1))) (xorBytes b (rk 0))
  xorBytes (shiftRows (b.map subByte)) (rk 14)

def aesDecrypt (keys : List (List Nat)) (b : List Nat) : List Nat :=
  let rk := fun r => keys.getD r []
  let b := (List.range 13).foldl (fun b r => mixColumns [14, 11, 13, 9] (xorBytes ((unshiftRows b).map unsubByte) (rk (13 - r)))) (xorBytes b (rk 14))
  xorBytes ((unshiftRows b).map unsubByte) (rk 0)

/-! ## XTS -/

/-- The bytes of a number, lowest first. -/
def bytesLe (n x : Nat) : List Nat := (List.range n).map fun i => x / 256 ^ i % 256

/-- The tweak of the next block. -/
def nextTweak (t : Nat) : Nat := if t < 2 ^ 127 then 2 * t else 2 * t % 2 ^ 128 ^^^ 0x87

/-- Blocks of 16 bytes through a cipher, each under its tweak. -/
def xtsBlocks (f : List Nat → List Nat) : Nat → Nat → List Nat → List Nat
  | 0, _, _ => []
  | n + 1, t, b =>
    xorBytes (f (xorBytes (b.take 16) (bytesLe 16 t))) (bytesLe 16 t) ++ xtsBlocks f n (nextTweak t) (b.drop 16)

/-- Whole blocks of 16 bytes under a data key, a tweak key and the number of their unit. -/
def xts (f : List (List Nat) → List Nat → List Nat) (dataKey tweakKey tweak : Nat) (l : List Byte) : List Byte :=
  let t := (aesEncrypt (roundKeys (bytesLe 32 tweakKey)) (bytesLe 16 tweak)).foldr (fun b n => b + 256 * n) 0
  (xtsBlocks (f (roundKeys (bytesLe 32 dataKey))) (l.length / 16) t (l.map fun b => b.toNat)).map fun b => BitVec.ofNat 8 b

def xtsEncrypt : (dataKey tweakKey tweak : Nat) → List Byte → List Byte := xts aesEncrypt
def xtsDecrypt : (dataKey tweakKey tweak : Nat) → List Byte → List Byte := xts aesDecrypt

end Sys2Proof.Machine
end

