-- ==== Sys2Proof/Machine/Hbm.lean ====
section
/-! DEFINITION. Events and wear counters (R392, R393, R404); errors found by reads (R207); HBM under its keys (R354,
R355); page tables, the walk and its checks (R345-R349); words read and written by the device's own agents. -/
namespace Sys2Proof.Machine

/-! ## Evodon's events and wear -/

/-- Key of a wear unit. -/
def wearKey (kind unit : Nat) : Nat := kind + 4 * unit

/-- Evodon writes an event record, with the wear counter of a unit that has one; record i stands at place i mod 1,024 (R404,
R411). -/
def State.event (s : State) (ty kind cls unit count addr : Nat) : State :=
  let e := s.evo
  let count := if kind < 4 then (mget {} e.wear (wearKey kind unit)).count else count
  let words := [BitVec.ofNat 64 (ty + kind * 2 ^ 8 + cls * 2 ^ 16 + unit % 2 ^ 24 * 2 ^ 24 + count % 2 ^ 16 * 2 ^ 48),
    BitVec.ofNat 64 addr, BitVec.ofNat 64 e.cycles, 0]
  { s with evo := { e with events := mput e.events (e.evHead % 1024) words, evHead := e.evHead + 1 } }

/-- One event counted against a wear unit; a counter that rises to its mark records a predictive failure once, and the unit
awaits its repair (R392, R393, R399). at_: the address of a word that has been corrected. -/
def State.charge (s : State) (kind unit : Nat) (at_ : Nat := 0) : State :=
  let e := s.evo
  let w := mget {} e.wear (wearKey kind unit)
  let mark := (mget {} e.wearCfg kind).mark
  let n := Nat.min 65535 (w.count + 1)
  let hit := mark != 0 && n == mark && w.count < n && !w.latched
  let s := { s with evo := { e with wear := mset {} e.wear (wearKey kind unit) { count := n, latched := w.latched || hit },
                                      worn := if hit then e.worn ++ [(kind, unit, at_)] else e.worn } }
  if hit then s.event 2 kind 0 unit n 0 else s

/-- Wear unit of a scratchpad bank or an HBM channel (Table 22.3): tile * 16 + bank; stack * 32 + channel. -/
def wearUnitOf (a : Nat) : Nat × Nat :=
  if isSpad a then (0, spadTile a * 16 + Config.bankOf (a % 2 ^ 19))
  else (1, a / 2 ^ 36 % 16 * 32 + a / 2 ^ 6 % 8 * 4 + a / 2 ^ 9 % 4)

/-- Wear units of a cluster's tile store and of its queue bank (log 6). -/
def storeUnit (c : Nat) : Nat := 65536 + c
def bankUnit (c : Nat) : Nat := 66048 + c

/-! ## Spares and repairs (R399, R402, R406) -/

/-- A service command or a repair on a die or a channel is in progress: its number in Evodon's list. -/
def dieItem (d : Nat) : Nat := d
def channelItem (c : Nat) : Nat := 1024 + c

def State.repairing (s : State) (i : Nat) : Bool := s.evo.repairing.contains i
def State.setRepairing (s : State) (i : Nat) (b : Bool) : State :=
  { s with evo := { s.evo with repairing := nset s.evo.repairing i b } }

/-- An automatic repair of a unit is in progress (its duration is open: log 91). -/
def State.auto (s : State) (kind unit : Nat) : Bool := s.evo.autos.contains (kind, unit)
def State.setAuto (s : State) (kind unit : Nat) (b : Bool) : State :=
  let l := s.evo.autos.filter fun x => x != (kind, unit)
  { s with evo := { s.evo with autos := if b then l ++ [(kind, unit)] else l } }

/-- What a spare belongs to: an SRAM bank, a link, an Atwald port, an engine, a die (Table 22.6, log 6). -/
def spareGroup (x : Spare) : Nat × Nat :=
  if x.kind = 6 then (6, x.unit / 9)
  else if x.kind = 2 ∧ 16384 ≤ x.unit then (2, x.unit / 4 * 4)
  else (x.kind, x.unit)

/-- Spares of a group (Table 22.6). -/
def spareCount (g : Nat × Nat) : Nat :=
  match g.1 with
  | 0 => Config.sramSpareRows
  | 2 => if g.2 < 16384 then 4 else 1
  | 3 => Config.macSpareColumns
  | 4 | 6 => 1
  | _ => 0

/-- Spare i of a unit's group is in use. -/
def State.spareUsed (s : State) (kind unit i : Nat) : Bool :=
  s.evo.spares.any fun y => spareGroup y == spareGroup { kind := kind, unit := unit } && y.index == i

/-- The first spare of a unit's group that is not in use. -/
def State.freeSpare (s : State) (kind unit : Nat) : Option Nat :=
  (List.range (spareCount (spareGroup { kind := kind, unit := unit }))).find? fun i => !s.spareUsed kind unit i

/-- A spare for a unit is left. -/
def State.spareLeft (s : State) (kind unit : Nat) : Bool := (s.freeSpare kind unit).isSome

/-! ## Channels in training or repair (R399, R414) -/

/-- Accesses to a channel wait at its controller. -/
def State.channelWaits (s : State) (c : Nat) : Bool := (mget {} s.training c).train || s.repairing (channelItem c)

/-- The turn's access to the word at a meets such a channel: it waits, and the turn with it (log 90). -/
def State.meet (s : State) (a : Nat) : State :=
  if !isSpad a && s.channelWaits (wearUnitOf a).2 then { s with stalled := true } else s

/-- A turn of an agent outside the memory ports: it is taken once no access of it meets such a channel. -/
def State.orWait (s : State) (act : State → Host.Outcome State Fault Refusal) : Host.Outcome State Fault Refusal :=
  match act { s with stalled := false } with
  | .next s' => .next (if s'.stalled then { s with stalled := true } else s')
  | o => o

/-- Accesses to the n bytes from a on. -/
def State.meetRange (s : State) (a n : Nat) : State :=
  (List.range (n / 64 + 2)).foldl (fun s i =>
    let b := a / 64 * 64 + 64 * i
    if b < a + n then s.meet b else s) s

/-! ## Errors found by a read (R207) -/

/-- A word made poisoned with a class, in the form of R206. -/
def State.markPoison (s : State) (a cls : Nat) : State :=
  (s.setVal (a / 8 * 8) 8 (cls % 256)).setPoisoned a true

/-- Every word of a burst marked. -/
def State.markBurst (s : State) (a cls : Nat) : Nat → State
  | 0 => s
  | n + 1 => State.markBurst (s.markPoison (a + 8 * n) cls) a cls n

/-- The words that one SEC-DED check covers: a scratchpad word, an HBM burst (R388). -/
def checkedWith (a w : Nat) : Bool := if isSpad a then w == a / 8 else w / 8 == a / 64

/-- A read of the word at a finds its stored error: uncorrectable in scratchpad gives class 0x01, in HBM the whole burst
class 0x02; a single bit is corrected and counted; a pair whose tag parity fails loses its tag, and both words become poisoned
with class 0x01. -/
def State.detect (s : State) (a : Nat) : State :=
  if s.errTag.contains (a / 16) then
    let b := a / 16 * 16
    { ((s.markPoison b 1).markPoison (b + 8) 1).setTagAt a false with
        errUnc := s.errUnc.filter (fun w => w / 2 != a / 16), errOne := s.errOne.filter (fun w => w / 2 != a / 16) }
  else if s.errUnc.contains (a / 8) then
    if isSpad a then { s.markPoison a 1 with errUnc := ndel s.errUnc (a / 8) }
    else
      let b := a / 64 * 64
      { s.markBurst b 2 8 with errUnc := s.errUnc.filter (fun w => w / 8 != a / 64) }
  else if s.errOne.any (checkedWith a) then
    State.charge { s with errOne := s.errOne.filter fun w => !checkedWith a w } (wearUnitOf a).1 (wearUnitOf a).2 a
  else s

/-- The same for the n words from the word of a on. -/
def State.detectWords (s : State) (a : Nat) : Nat → State
  | 0 => s
  | n + 1 => State.detectWords (s.detect a) (a + 8) n

/-- A write of the whole word leaves no stored error behind. -/
def State.forgetErr (s : State) (a : Nat) : State :=
  { s with errUnc := ndel s.errUnc (a / 8), errOne := ndel s.errOne (a / 8) }

/-! ## HBM under keys -/

/-- The number of the load that a key slot holds; a slot that is empty stands for a load never made. -/
def State.slotLoad (s : State) (slot : Nat) : Nat :=
  match mfind s.keys slot with
  | some k => k.load
  | none => if slot = 0 then 0 else s.keyLoads + 1

/-- The keys of a load. -/
def State.keysOf (s : State) (n : Nat) : KeyRec :=
  (s.keyUsed.find? fun k => k.load == n).getD { load := n, dataKey := 0, tweakKey := 0 }

/-- A burst as its stack holds it: the ciphertext under the keys it was written with, the tweak its PPA [39:6] (R354). -/
def State.cipher (s : State) (a : Nat) : List Byte :=
  let k := s.keysOf (mget 0 s.keyOf (a / 64))
  xtsEncrypt k.dataKey k.tweakKey (a / 64) (s.bytes (a / 64 * 64) 64)

/-- A byte as an access under a key load reads it (R354, R355): under the keys of its burst the byte written, under others what
decrypting the burst with them gives. -/
def State.keyedByte (s : State) (key a : Nat) : Byte :=
  if isSpad a then s.byte a
  else if mget 0 s.keyOf (a / 64) = key ∨ s.poisoned a then s.byte a
  else (xtsDecrypt (s.keysOf key).dataKey (s.keysOf key).tweakKey (a / 64) (s.cipher a)).getD (a % 64) 0

def State.keyedBytes (s : State) (key a : Nat) : Nat → List Byte
  | 0 => []
  | n + 1 => s.keyedByte key a :: State.keyedBytes s key (a + 1) n

/-- A write under a key re-encrypts the whole burst: bytes it does not write keep the bits that key reads. -/
def State.rekey (s : State) (key a : Nat) : State :=
  if isSpad a then s
  else if mget 0 s.keyOf (a / 64) = key then s
  else
    let b := a / 64 * 64
    { s.setBytes b (s.keyedBytes key b 64) with keyOf := mset 0 s.keyOf (a / 64) key }

/-! ## Dies and stacks (R1, R2, R343, R344) -/

/-- Die whose edge a stack stands at. -/
def dieOfStack (st : Nat) : Nat := st % 8 / 4 * 2 + st / 8

def State.die (s : State) (d : Nat) : DieState := s.dies.getD d .absent

def State.diePresent (s : State) (d : Nat) : Bool := s.die d == .present

/-- Memory port of a PPA: stack * 8 + PPA[8:6]. -/
def portOf (ppa : Nat) : Nat := ppa / 2 ^ 36 % 16 * 8 + ppa / 64 % 8

/-! ## Page tables (R345-R349) -/

/-- How a walk or a leaf check ends (Table 18.3). -/
inductive Xlate where
  | ok (ppa slot : Nat) (guarded : Bool)
  | refused
  | fault (level reason entry : Nat)
  | ends (cls origin : Nat)
  deriving DecidableEq, Repr

/-- What an access needs of its leaf (Table 18.4). -/
structure Need where
  write : Bool
  read : Bool
  user : Bool
  deriving DecidableEq, Repr

def pageBits : Nat → Nat
  | 2 => 30
  | 1 => 21
  | _ => 16

def levelIndex (level va : Nat) : Nat :=
  match level with
  | 3 => bits va 43 39
  | 2 => bits va 38 30
  | 1 => bits va 29 21
  | _ => bits va 20 16

/-- Bytes of a table of a level (Table 18.1). -/
def tableBytes (level : Nat) : Nat := if level = 3 ∨ level = 0 then 256 else 4096

/-- Rows 4 to 9 of Table 18.3 for a leaf. -/
def State.leafCheck (s : State) (ctx va : Nat) (need : Need) (level entry : Nat) (w : Nat) : Xlate :=
  let stack := bits w 39 36
  let die := s.die (dieOfStack stack)
  let slot := if bits w 56 44 = 0 then (s.ctxOf ctx).key else bits w 56 44
  if die = .absent ∨ die = .fusedOff then .ends 0x05 (originStack stack)
  else if (mfind s.keys slot).isNone then .fault level 4 entry
  else if need.user && !bit w 61 then .fault level 3 entry
  else if (need.write && !bit w 60) || (need.read && !bit w 59) then .fault level 2 entry
  else if bit w 57 then .ends 0x0A (originStack stack)
  else if die = .offline then .ends 0x05 (originStack stack)
  else
    let k := 2 ^ pageBits level
    .ok (bits w 39 16 * 2 ^ 16 / k * k + va % k) slot (bit w 58)

/-- Row 3 of Table 18.3: reserved bits, a leaf where none may stand, misalignment. -/
def entryMalformed (level w : Nat) : Bool :=
  if bit w 62 then
    level == 3 || bits w 43 40 != 0 || bits w 15 0 != 0 || bits w 39 16 * 2 ^ 16 % 2 ^ pageBits level % 2 ^ 36 != 0
  else level == 0 || bits w 61 40 != 0 || bits w 39 0 % tableBytes (level - 1) != 0

/-- A walk read of one table entry under key slot 0. -/
def State.entryRead (s : State) (a : Nat) : (Nat × Option Nat) × State :=
  let s := (s.meet a).detect a
  ((leNat (s.keyedBytes (s.slotLoad 0) a 8), if s.poisoned a then some ((s.byte a).toNat) else none), s)

/-- The walk from a level down; on success also the level and the leaf. fuel: levels left. -/
def State.walkFrom (s : State) (ctx va : Nat) (need : Need) (table : Nat) : Nat → Nat → (Xlate × Option (Nat × Nat)) × State
  | 0, _ => ((.refused, none), s)
  | fuel + 1, level =>
    let a := table + 8 * levelIndex level va
    let die := s.die (dieOfStack (a / 2 ^ 36))
    if 2 ^ 40 ≤ table then ((.fault level 5 a, none), s)
    else if die = .absent ∨ die = .fusedOff then ((.ends 0x05 (originStack (a / 2 ^ 36)), none), s)
    else if die = .offline then ((.ends 0x0A (originStack (a / 2 ^ 36)), none), s)
    else
      let r := s.entryRead a
      match r.1.2 with
      | some c => ((.ends c (originStack (a / 2 ^ 36)), none), r.2)
      | none =>
        let w := r.1.1
        if !bit w 63 then ((if bit w 62 then .refused else .fault level 1 a, none), r.2)
        else if entryMalformed level w then ((.fault level 5 a, none), r.2)
        else if bit w 62 then ((r.2.leafCheck ctx va need level a w, some (level, w)), r.2)
        else State.walkFrom r.2 ctx va need (bits w 39 8 * 256) fuel (level - 1)

/-- The whole walk of an address of a context. A context that is not valid, and firmware context 0, have no tables:
the access is refused for good (R413). -/
def State.walk (s : State) (ctx va : Nat) (need : Need) : (Xlate × Option (Nat × Nat)) × State :=
  let c := s.ctxOf ctx
  if !c.valid || c.firmware then ((.refused, none), s)
  else if c.ptroot % 256 ≠ 0 then ((.fault 3 5 c.ptroot, none), s)
  else s.walkFrom ctx va need c.ptroot 4 3

/-! ## The translation buffer of a cluster (R347) -/

/-- Entries of a context that match an address. -/
def Cluster.hits (cl : Cluster) (ctx va : Nat) : List TlbEntry :=
  cl.tlb.filter fun e => e.ctx == ctx && e.page == va / 2 ^ pageBits e.level

/-- A translation from the buffer; none: a walk is needed. Where several entries match, a free value picks one; an
entry whose leaf does not allow the access is not used, and the access walks (log 15). -/
def State.tlbLookup (s : State) (c ctx va : Nat) (need : Need) : Option (Nat × Nat × Bool) × State :=
  let hs := (s.cluster c).hits ctx va
  let pick := if hs.length ≤ 1 then (hs.head?, s)
    else let w := s.draw; (hs[w.1.toNat % hs.length]?, w.2)
  match pick.1 with
  | none => (none, pick.2)
  | some e =>
    match s.leafCheck ctx va need e.level 0 e.leaf.toNat with
    | .ok ppa slot g => (some (ppa, slot, g), pick.2)
    | _ => (none, pick.2)

/-- The i-th element removed. -/
def dropAt {α : Type} : List α → Nat → List α
  | [], _ => []
  | _ :: xs, 0 => xs
  | x :: xs, i + 1 => x :: dropAt xs i

/-- A leaf enters the buffer; in a full one a free value picks the entry it replaces (log 15). -/
def State.tlbFill (s : State) (c ctx va level leaf : Nat) : State :=
  let cl := s.cluster c
  let e : TlbEntry := { ctx := ctx, level := level, page := va / 2 ^ pageBits level, leaf := BitVec.ofNat 64 leaf }
  let rest := cl.tlb.filter fun x => !(x.ctx == e.ctx && x.level == e.level && x.page == e.page)
  if rest.length < 2048 then s.setCluster c { cl with tlb := rest ++ [e] }
  else
    let w := s.draw
    w.2.setCluster c { cl with tlb := dropAt rest (w.1.toNat % rest.length) ++ [e] }

/-! ## Accesses of the device's own agents (supervisor accesses, R349) -/

/-- A word read by an agent: its value; the class it was read poisoned with or the access ended with; or a
translation that faulted or was refused (0 for both in a status word). -/
inductive VWord where
  | ok (w : Nat)
  | cls (c : Nat)
  | noXlate (fault : Option (Nat × Nat × Nat))     -- level, reason, entry of a fault; none: refused for good
  deriving DecidableEq, Repr

/-- The 8-byte word at a virtual address of a context. -/
def State.vread (s : State) (ctx va : Nat) (user : Bool := false) : VWord × State :=
  let r := s.walk ctx va { write := false, read := true, user := user }
  match r.1.1 with
  | .ok ppa slot _ =>
    let s := (r.2.meet ppa).detect ppa
    if s.poisoned ppa then (.cls (s.byte (ppa / 8 * 8)).toNat, s)
    else (.ok (leNat (s.keyedBytes (s.slotLoad slot) (ppa / 8 * 8) 8)), s)
  | .ends c _ => (.cls c, r.2)
  | .refused => (.noXlate none, r.2)
  | .fault l re e => (.noXlate (some (l, re, e)), r.2)

/-- n words from a virtual address; stops at the first that cannot be read. -/
def State.vreads (s : State) (ctx va : Nat) : Nat → List Nat → Except VWord (List Nat) × State
  | 0, acc => (.ok acc.reverse, s)
  | n + 1, acc =>
    let r := s.vread ctx va
    match r.1 with
    | .ok w => State.vreads r.2 ctx (va + 8) n (w :: acc)
    | e => (.error e, r.2)

/-- A clean word written at a flat address under a key: a poisoned word stays poisoned (R161). -/
def State.putWord (s : State) (key a w : Nat) : State :=
  let s := if isSpad a then s.forgetErr a else (s.meet a).detect a
  let s := s.rekey key a
  let s := s.setTagAt a false
  if s.poisoned a then s else s.setVal (a / 8 * 8) 8 w

/-- Words written by an agent from a virtual address on; false where a translation fails, the words before it
written. -/
def State.vwrites (s : State) (ctx va : Nat) : List Nat → Bool × State
  | [] => (true, s)
  | w :: ws =>
    let r := s.walk ctx va { write := true, read := false, user := false }
    match r.1.1 with
    | .ok ppa slot _ => State.vwrites (r.2.putWord (r.2.slotLoad slot) ppa w) ctx (va + 8) ws
    | _ => (false, r.2)

end Sys2Proof.Machine
end

