-- ==== Sys2Proof/Machine/Fabric.lean ====
section
/-! DEFINITION. Sending: planes, routes and answers (R25, R26, R37, R344, R377), the operations a tile has outstanding
(R158, R201), the asynchronous fault log with its spill (R301-R305, R325), and the end of a wait on flags (R177,
R178). -/
namespace Sys2Proof.Machine

/-- Codes 0x21-0x3F travel on plane B (R374); a WAKE, 0x18, on plane A, though R397 speaks of it on plane B (DEDUCED, log 93). -/
def planeB : Op → Bool
  | .resp | .respv | .ack | .nak | .signal | .fire | .notreg | .removed => true
  | _ => false

/-! ## Places on the mesh -/

/-- Column and row of the router at which an agent's flits enter. -/
def homeCol : Home → Nat
  | .tile t => tileX t
  | .port p => if p < 64 then 0 else 63
  | .io _ => 0

def homeRow : Home → Nat
  | .tile t => tileY t
  | .port p => p % 64
  | .io d => if d = 0 then 0 else 63

/-- EXIT, DX and DY of a flit sent from a column towards a home of this package (R344, R377). -/
def place (col : Nat) (dst : Home) (f : Flit) : Flit :=
  match dst with
  | .tile t => { f with home := dst, exit := 0, dx := tileX t, dy := tileY t }
  | .port p => { f with home := dst, exit := if p < 64 then 4 else 2, dx := if p < 64 then 0 else 63, dy := p % 64 }
  | .io d => { f with home := dst, exit := if d = 0 then 1 else 3, dx := col, dy := if d = 0 then 0 else 63 }

/-- The home that a global address reaches from a row, and the package of an address off this one (R50, R377). MMIO
is reached through I/O die 0 (log 10). -/
def homeOf (pkg row ga : Nat) : Home × Option Nat :=
  if gaLocal ga || gaPkg ga == pkg then
    (if gaSpace ga = 0 then .tile (gaTile ga) else .io 0, none)
  else (.io (if row < 32 then 0 else 1), some (gaPkg ga))

/-- A global address that any package reads alike: its package is named (R26, R50). -/
def absGa (pkg ga : Nat) : Nat := if gaLocal ga then ga % 2 ^ 46 + pkg * 2 ^ 46 else ga

/-- The flits of one message: 32 data bytes each (R24). -/
def flitsOf (f : Flit) : List Flit :=
  (List.range (f.flast + 1)).map fun i =>
    { f with fidx := i, data := (f.data.drop (32 * i)).take 32, psn := (f.psn.drop (4 * i)).take 4 }

/-- A flit is held for injection on its plane: by its source at a tile, which fills the tile's injection queue in its turn,
or by the brim side of its router. The two brim sides of a corner router share one first-in first-out list on each plane:
the manual speaks of one brim input and leaves the order of two open (R28, R29; DESIGN CHOICE, log 74). -/
def State.inject (s : State) (src : Home) (f : Flit) : State :=
  match src with
  | .tile t => s.updTile t fun x => if planeB f.op then { x with injB := x.injB ++ [f] } else { x with injA := x.injA ++ [f] }
  | _ =>
    let r := homeRow src * 64 + (match src with | .io _ => f.dx | h => homeCol h)
    let x := s.router r
    s.setRouter r (if planeB f.op then { x with brimB := x.brimB ++ [f] } else { x with brimA := x.brimA ++ [f] })

/-- All flits of a message sent towards a home of this package. -/
def State.sendHome (s : State) (src dst : Home) (f : Flit) : State :=
  (flitsOf (place (homeCol src) dst f)).foldl (fun s g => s.inject src g) s

/-- A message sent towards a global address (its package in DPKG where it lies off this one, R26). -/
def State.sendGa (s : State) (src : Home) (ga : Nat) (f : Flit) : State :=
  let h := homeOf s.pkg (homeRow src) ga
  s.sendHome src h.1 { f with ga := ga % 2 ^ 46, src := src, dpkg := h.2 }

/-- An answer from a home to the source of a flit. -/
def State.answer (s : State) (at_ : Home) (f r : Flit) : State :=
  s.sendHome at_ f.src { r with ctx := f.ctx, ga := f.ga, tag := f.tag, thr := f.thr, idx := f.idx, gidx := f.gidx,
                                ans := f.op, src := at_ }

/-- An acknowledgement; this model's homes answer each operation on its own (R158, log 9). -/
def State.ackTo (s : State) (at_ : Home) (f : Flit) : State := s.answer at_ f { op := .ack, count := 1 }

/-- The class that a refusal gives (Table 1.5, R397). -/
def reasonClass : Reason → Nat
  | .qfull => 0x09 | .absent => 0x0B | .fenced => 0x05 | .cap => 0x06 | .guard => 0x0E | .link => 0x03 | _ => 0

/-- A refusal with a class, whose origin is the refusing home, or for a lost link the issuing tile (R421). It returns what it
refuses, so that the source may send it again (log 9); `part`: only this flit of its message is refused. -/
def State.nakWith (s : State) (at_ : Home) (f : Flit) (why : Reason) (cls : Nat) (part : Bool := false) : State :=
  s.answer at_ f { f with op := .nak, flast := 0, reason := why, cls := cls,
                          origin := if why = .link then originOf f.src else originOf at_,
                          sigref := false, crcBad := false, age := 0, dpkg := none, count := if part then f.fidx + 1 else 0 }

def State.nakTo (s : State) (at_ : Home) (f : Flit) (why : Reason) : State := s.nakWith at_ f why (reasonClass why)

/-- A fresh tag. -/
def State.newTag (s : State) : Nat × State := (s.tags + 1, { s with tags := s.tags + 1 })

/-! ## The asynchronous fault log -/

def reasonCode : Reason → Nat
  | .none => 0 | .slot => 1 | .window => 2 | .qfull => 3 | .absent => 4 | .fenced => 5 | .cap => 6 | .guard => 7 | .link => 8

def reasonOf (n : Nat) : Reason :=
  match n with
  | 1 => .slot | 2 => .window | 3 => .qfull | 4 => .absent | 5 => .fenced | 6 => .cap | 7 => .guard | 8 => .link | _ => .none

/-- The four words of Table 13.3. -/
def logWords (e : LogEntry) : List Nat :=
  [2 ^ 63 + boolNat e.rd * 2 ^ 62 + boolNat e.h * 2 ^ 61 + e.thr % 8 * 2 ^ 56 + e.origin % 2 ^ 16 * 2 ^ 40 +
     reasonCode e.reason * 2 ^ 32 + e.head % 2 ^ 16 * 2 ^ 16 + e.cls % 256,
   e.addr.toNat, e.opnd.toNat, e.pc.toNat]

/-- An entry spilled to the context's ring (R305, R325): full or unusable rings drop the record and count it. -/
def State.spill (s : State) (t : Nat) (e : LogEntry) : State :=
  let c := (s.tile t).ctx
  let ring := (s.ctxOf c).flogring
  if ring = 0 then s
  else
    let r := s.vreads c ring 5 []
    match r.1 with
    | .error (.noXlate (some (l, _, _))) => r.2.sendRecord c t (faultWords t 0 true 0 l 0 4 ring 0 0)
    | .ok [base, lg, wr, rd, loss] =>
      let n := 2 ^ (lg % 32)
      let at_ := base + 64 * (wr % n)
      let lost (s : State) : State := (s.vwrites c (ring + 0x20) [(loss + 1) % 2 ^ 64]).2
      if lg % 32 < 6 ∨ 20 < lg % 32 ∨ (wr + 2 ^ 64 - rd) % 2 ^ 64 = n then lost r.2
      else
        let x := r.2.walk c at_ { write := true, read := false, user := false }
        match x.1.1 with
        | .ok _ _ _ =>
          let w := x.2.vwrites c at_ (logWords e ++ [t + s.pkg * 2 ^ 12, 0, 0, 0])
          (w.2.vwrites c (ring + 0x10) [(wr + 1) % 2 ^ 64]).2
        | .fault l _ _ => lost (x.2.sendRecord c t (faultWords t 0 true 0 l 0 4 at_ 0 0))
        | _ => lost x.2
    | _ => r.2

/-- An entry enters a tile's log (R301-R303): a full log first spills entry 0. -/
def State.logNow (s : State) (t : Nat) (e : LogEntry) : State :=
  let x := s.tile t
  let s := match x.flog with
    | o :: rest =>
      if x.flog.length < 8 then s
      else (s.setTile t { x with flog := rest, spilled := x.spilled + boolNat (!o.rd) }).spill t o
    | [] => s
  let s := s.updTile t fun x => { x with flog := x.flog ++ [e] }
  if e.h then s.updThr t e.thr fun th => { th with afp := true } else s

/-- An entry made at a tile; one of an operation that ends while the region is halted is logged at restore (R306, log 37). -/
def State.logFault (s : State) (t : Nat) (e : LogEntry) : State :=
  if (s.tile t).halt = .settled then s.updTile t fun x => { x with lateLog := x.lateLog ++ [e] } else s.logNow t e

/-- The entries that waited for a restore are logged, in the order of their endings. -/
def State.logLate (s : State) (t : Nat) : State :=
  let l := (s.tile t).lateLog
  l.foldl (fun s e => s.logNow t e) (s.updTile t fun x => { x with lateLog := [] })

/-- The entry that four words hold. -/
def LogEntry.ofWords (w0 w1 w2 w3 : Nat) : Option LogEntry :=
  if bit w0 63 then
    some { rd := bit w0 62, h := bit w0 61, thr := bits w0 58 56, origin := bits w0 55 40, reason := reasonOf (bits w0 39 32),
           head := bits w0 31 16, cls := bits w0 7 0, addr := BitVec.ofNat 64 w1, opnd := BitVec.ofNat 64 w2, pc := BitVec.ofNat 64 w3 }
  else none

/-! ## Outstanding operations of a tile -/

/-- An operation is sent and stays outstanding until it ends. With `hbm`, the flit goes to the memory port of the
translated address (R344). -/
def State.post (s : State) (t : Nat) (kind : PostKind) (pc : Word) (head : Nat) (opnd : Word) (ga : Nat)
    (hbm : Option (Nat × Nat × Bool)) (f : Flit) : State :=
  let n := s.newTag
  let h := homeOf s.pkg (tileY t) ga
  let f := { f with tag := n.1, ctx := (s.tile t).ctx, src := .tile t, ga := ga % 2 ^ 46, dpkg := h.2 }
  let f := match hbm with
    | some (ppa, slot, g) => { place (tileX t) (.port (portOf ppa)) f with ga := ppa, key := slot, guarded := g }
    | none => place (tileX t) h.1 f
  let s := n.2.updTile t fun x =>
    { x with posted := x.posted ++ [{ tag := n.1, kind := kind, flit := f, addr := ga, pc := pc, head := head, opnd := opnd }] }
  (flitsOf f).foldl (fun s g => s.inject (.tile t) g) s

/-- Flits for which a tile keeps a place in its retry list: those of its posted operations and signals, granules and end
messages sent and not answered, the signals of its homes, and the refused responses that it holds. Blocking requests and
arms need none: a halt leaves them to issue afresh (R358 step 6; DEDUCED, log 78). -/
def State.retryLoad (s : State) (t : Nat) : Nat :=
  let x := s.tile t
  let ops := x.posted.map fun p => match p.kind with
    | .posted _ | .signal _ _ => p.flit.flast + 1
    | _ => 0
  let streams := x.copyq.map fun y => y.2.flying.length + y.2.ends.length
  let held := x.retries.filter fun r => r.flit.op == .respv
  let homes := s.sigWaits.filter fun w => w.home == .tile t
  ops.foldl (· + ·) 0 + streams.foldl (· + ·) 0 + held.length + homes.length

/-- A tile has room for n more. -/
def State.retryRoom (s : State) (t n : Nat) : Bool := decide (s.retryLoad t + n ≤ 256)

/-- Posted operations of a thread that PDRAIN awaits (R201). -/
def drains (h : Nat) (p : Posted) : Bool :=
  match p.kind with
  | .posted k => k == h
  | .signal k d => k == h && d
  | _ => false

/-- A thread that waits retires at its PC and returns to rotation. -/
def State.wakeRetired (s : State) (t h : Nat) (f : Thread → Thread) : State :=
  s.updThr t h fun th => { (f th).retire with run := .rotation, wait := .none }

/-- PDRAIN retires when the last operation that it awaits has ended (R201). -/
def State.drainCheck (s : State) (t h : Nat) : State :=
  if (s.thr t h).wait == .pdrain && !(s.tile t).posted.any (drains h) then s.wakeRetired t h id else s

/-- The operation with a tag has ended: it is no longer outstanding. -/
def State.endPosted (s : State) (t tag : Nat) : State :=
  let s := s.updTile t fun x => { x with posted := x.posted.filter fun p => p.tag != tag }
  (List.range 8).foldl (fun s h => s.drainCheck t h) s

/-- A signal sent by a tile towards a flag (R167); `drains`: PDRAIN of the thread awaits it. -/
def State.sendSignal (s : State) (t thr : Nat) (drains : Bool) (pc : Word) (head flag n cls origin : Nat) : State :=
  s.post t (.signal thr drains) pc head (BitVec.ofNat 64 cls) flag none
    { op := .signal, opnd := n, cls := cls, origin := origin, thr := thr }

/-! ## The end of an FWAIT (R177, R178) -/

/-- An FWAIT ends: its arms are disarmed, gD is written and it retires. -/
def State.fwaitEnd (s : State) (t h : Nat) (v : GReg) : State :=
  match (s.thr t h).wait with
  | .fwait d mons _ _ =>
    let s := (mons.filter fun m => m.armed).foldl (fun s m =>
      s.sendGa (.tile t) m.flag { op := .disarm, ctx := (s.tile t).ctx, tag := m.tag, thr := h, idx := m.idx }) s
    let s := s.updTile t fun x => { x with
      posted := x.posted.filter (fun p => p.kind != .arm h),
      retries := x.retries.filter (fun r => !(r.flit.op == .arm && r.flit.thr == h)) }
    s.wakeRetired t h fun th => th.wr (Fin.ofNat 16 d) v
  | _ => s

/-- Result of a monitor: its number, or poison with the flag's address (R177). -/
def monResult (m : WaitMon) (cls : Option Nat) : GReg :=
  match cls with
  | some c => poisonVal c m.flag
  | none => dataReg (BitVec.ofNat 64 m.idx)

/-- What a poll has found once every answer is in: the lowest monitor found satisfied or poisoned, else data 4. -/
def pollResult (mons : List WaitMon) : GReg :=
  match mons.find? fun m => m.found.isSome with
  | some m => monResult m (match m.found with | some (0, _) => none | some (c, _) => some (c - 1) | none => none)
  | none => dataReg 4

/-! ## Messages of several flits (R36) -/

/-- Two flits belong to one message. -/
def sameMessage (f g : Flit) : Bool := f.src == g.src && f.tag == g.tag && f.op == g.op

end Sys2Proof.Machine
end

