-- ==== Sys2Proof/Machine/FlitWords.lean ====
section
/-! DEFINITION. A flit as the 64 bytes of R24: its header (Table 1.4) with the CRC-16, its data and its auxiliary operand (Tables
1.6 and 10.7), as the retry lists of a save image hold it (R360). -/
namespace Sys2Proof

open Machine

/-- Codes of Table 20.3. -/
def Op.code : Op → Nat
  | .load => 0x01 | .loadv => 0x02 | .loadcap => 0x03 | .store => 0x04 | .storev => 0x05 | .storecap => 0x06 | .put => 0x07
  | .putv => 0x08 | .atomic => 0x09 | .atomicr => 0x0A | .ldc => 0x0B | .stp => 0x0C | .feset => 0x0D | .scrub => 0x0E
  | .poison => 0x0F | .arm => 0x10 | .disarm => 0x11 | .withdraw => 0x12 | .granule => 0x13 | .streamend => 0x14 | .push => 0x15
  | .tdec => 0x16 | .tcancel => 0x17 | .wake => 0x18 | .tlbinv => 0x19 | .resp => 0x21 | .respv => 0x22 | .ack => 0x23
  | .nak => 0x24 | .signal => 0x25 | .fire => 0x26 | .notreg => 0x27 | .removed => 0x28 | .reserved => 0

/-- Poison bits of the data words of this flit, word 0 lowest. -/
def Flit.psnBits (f : Flit) : Nat := ((List.range 4).map fun i => boolNat (f.psn.getD i 0 != 0) * 2 ^ i).foldl (· + ·) 0

/-- The auxiliary operand (Tables 1.6 and 10.7). -/
def Flit.aux (f : Flit) : Nat :=
  let psn := f.psnBits * 2 ^ 64
  let own := match f.op with
    | .put | .putv | .atomic => psn + f.flag % 2 ^ 64
    | .atomicr => psn + f.cmp % 2 ^ 64
    | .store | .storev | .stp | .respv => psn
    | .storecap | .resp => psn + f.tags % 4 * 2 ^ 68
    | .signal => f.opnd % 2 ^ 40 + f.cls % 2 ^ 8 * 2 ^ 40 + f.origin % 2 ^ 16 * 2 ^ 48
    | .nak => reasonCode f.reason + f.cls % 2 ^ 8 * 2 ^ 8
    | .granule =>
      f.gidx % 2 ^ 35 + boolNat f.lastg * 2 ^ 35 + boolNat f.wpen * 2 ^ 36 + f.wpoff % 2 ^ 19 * 2 ^ 37 + f.psnBits * 2 ^ 56 +
        f.tags % 4 * 2 ^ 60 + boolNat f.ct * 2 ^ 62 + f.bmask % 2 ^ 32 * 2 ^ 64 + (f.nb - 1) % 2 ^ 5 * 2 ^ 96
    | .streamend => f.cls % 2 ^ 8 + f.wpoff % 2 ^ 19 * 2 ^ 8 + boolNat f.wpen * 2 ^ 27
    | _ => 0
  own + f.dpkg.getD 0 * 2 ^ 111

/-- Operations whose data bytes are data words; what the others carry there the manual does not lay out (log 9). -/
def Op.carriesWords : Op → Bool
  | .store | .storev | .storecap | .put | .putv | .stp | .resp | .respv | .granule => true
  | _ => false

/-- A data word: a poisoned one in the form of R206. -/
def Flit.dataWord (f : Flit) (i : Nat) : Nat :=
  let m := f.psn.getD i 0
  if m = 0 then leNat ((f.data.drop (8 * i)).take 8) else m - 1

/-- The header without its CRC (Table 1.4). -/
def Flit.header (f : Flit) (age : Nat) : Nat :=
  age % 2 ^ 12 + f.dx % 64 * 2 ^ 13 + f.dy % 64 * 2 ^ 19 + f.exit % 8 * 2 ^ 25 + homeCol f.src % 64 * 2 ^ 28 + homeRow f.src % 64 * 2 ^ 34 +
    f.flast % 4 * 2 ^ 40 + f.fidx % 4 * 2 ^ 42 + f.tag % 2 ^ 8 * 2 ^ 44 + f.op.code * 2 ^ 52 + f.ctx % 64 * 2 ^ 58 + f.ga % 2 ^ 46 * 2 ^ 64

/-- One bit, then one byte, most significant bit first, into the CRC-16 of Table 1.4. -/
def crc16Bit (c : Nat) (b : Bool) : Nat :=
  let d := c * 2 % 2 ^ 16
  if bit c 15 != b then d ^^^ 0x1021 else d

def crc16Byte (c x : Nat) : Nat := (List.range 8).foldl (fun c i => crc16Bit c (bit x (7 - i))) c

/-- The CRC-16 of the 64 bytes of a number, in increasing byte order. -/
def crc16 (x : Nat) : Nat := (List.range 64).foldl (fun c i => crc16Byte c (x / 256 ^ i % 256)) 0xFFFF

/-- The eight words of a flit with a value in its AGE field; `open_`: its data words where their layout is open. -/
def Flit.words (f : Flit) (age : Nat) (open_ : Nat → Nat) : List Nat :=
  let data := fun (i : Nat) => if f.op.carriesWords then f.dataWord i else open_ i % 2 ^ 64
  let rest := ((List.range 4).map fun i => data i * 2 ^ (128 + 64 * i)).foldl (· + ·) 0 + f.aux * 2 ^ 384
  let x := f.header age + crc16 (f.header 0 + rest) * 2 ^ 112 + rest
  (List.range 8).map fun i => x / 2 ^ (64 * i) % 2 ^ 64

end Sys2Proof
end

