-- ==== Sys2Proof/Machine/Caps.lean ====
section
/-! DEFINITION. Capabilities (R49-R59): encodings, cursor moves, the checks of a dereference with the woven mapping
of R10, derivation, and the bodies no instruction could produce. A capability is a register with tag 01. -/
namespace Sys2Proof.Machine

inductive CapKind where
  | tile | hbm | mmio | woven | bad
  deriving DecidableEq, Repr

/-- Kind of a capability (R49, R51): W, then the space of the cursor. -/
def GReg.kind (r : GReg) : CapKind :=
  if bit r.upper.toNat 63 then .woven
  else match gaSpace r.low.toNat with
    | 0 => .tile
    | 1 => .hbm
    | 2 => .mmio
    | _ => .bad

/-- PERM, body [126:117] (Table 2.5). -/
def GReg.perm (r : GReg) : Nat := bits r.upper.toNat 62 53

def permLD : Nat := 1
def permST : Nat := 2
def permAT : Nat := 4
def permFL : Nat := 8
def permFE : Nat := 16
def permEX : Nat := 32
def permCS : Nat := 64
def permCD : Nat := 128
def permMT : Nat := 256
def permGR : Nat := 512

/-- PERM holds every right of a mask. -/
def GReg.grants (r : GReg) (need : Nat) : Bool := r.perm &&& need == need

/-- Table 2.7, scratchpad: BASE and LEN. -/
def tileBase (u : Nat) : Nat := bits u 52 34
def tileLen (u : Nat) : Nat := bits u 33 14
/-- Table 2.7, HBM and MMIO: HBASE, EXP, MANT. -/
def hBase (u : Nat) : Nat := bits u 52 15
def hExp (u : Nat) : Nat := bits u 14 11
def hMant (u : Nat) : Nat := bits u 10 0
/-- Table 2.8. -/
def wW (u : Nat) : Nat := bits u 43 38 + 1
def wH (u : Nat) : Nat := bits u 37 32 + 1
def wG (u : Nat) : Nat := bits u 31 28 + 5
def wBase (u : Nat) : Nat := bits u 27 14
def wExt (u : Nat) : Nat := bits u 13 0
/-- R56: the woven cursor. -/
def wY0 (c : Nat) : Nat := bits c 63 58
def wX0 (c : Nat) : Nat := bits c 57 52
def wL (c : Nat) : Nat := bits c 39 0

/-- Base and length in bytes (R51, R52; the window for a woven capability). -/
def GReg.bounds (r : GReg) : Nat × Nat :=
  let u := r.upper.toNat
  match r.kind with
  | .tile => (tileBase u, tileLen u)
  | .woven => (32 * wBase u, 32 * (wExt u + 1))
  | _ => (hBase u * 64, hMant u * 2 ^ (2 * hExp u + 6))

/-- Width of the movable field of the cursor (R54). -/
def CapKind.movable : CapKind → Nat
  | .tile => 19
  | .woven => 40
  | _ => 44

/-- Width of the part of a plain cursor to which an offset is added: below a tile's number, or the 44-bit address. A tile cursor
at the end of bounds that reach 0x8_0000 has bit 19 set (R55, log 32). -/
def CapKind.offsetWidth : CapKind → Nat
  | .tile => 32
  | _ => 44

/-- A capability with a new cursor: a change outside the movable field clears the tag (R54). -/
def GReg.withCursor (r : GReg) (c : Word) : GReg :=
  if c.toNat / 2 ^ r.kind.movable = r.low.toNat / 2 ^ r.kind.movable then capReg r.upper c else dataReg c

/-- The part of a cursor that moves. -/
def GReg.offset (r : GReg) : Nat := r.low.toNat % 2 ^ r.kind.movable

/-! ## Dereference -/

/-- What the bounds and granule tests of an access say (R55, R57). -/
inductive Reach where
  | ok (ga : Nat)          -- global address of the first byte
  | bounds
  | crosses                -- woven: a granule boundary is crossed
  deriving DecidableEq, Repr

/-- An address whose package is the own one is treated as LOCAL (R50). -/
def localise (pkg : Nat) (a : Nat) : Nat :=
  if gaLocal a then 2 ^ 63 + a % 2 ^ 46
  else if gaPkg a = pkg then 2 ^ 63 + a % 2 ^ 46
  else a

/-- The bytes [cursor + off, + size) of a capability, size > 0. -/
def GReg.reach (r : GReg) (pkg : Nat) (off : Int) (size : Nat) : Reach :=
  let u := r.upper.toNat
  let c := r.low.toNat
  match r.kind with
  | .woven =>
    let l := (wL c : Int) + off
    let n := wW u * wH u
    let g := wG u
    let lo := l.toNat
    let hi := lo + size - 1
    let blk := lo / 2 ^ g
    let blkHi := hi / 2 ^ g
    let base := 32 * wBase u
    let first := base + blk / n * 2 ^ g + lo % 2 ^ g
    let last := base + blkHi / n * 2 ^ g + hi % 2 ^ g
    let edge := if blk < blkHi then base + (blkHi - 1) / n * 2 ^ g + 2 ^ g - 1 else last
    if l < 0 ∨ hi ≥ 2 ^ 40 ∨ wX0 c + wW u > 64 ∨ wY0 c + wH u > 64 then .bounds
    else if Nat.max last edge ≥ base + 32 * (wExt u + 1) then .bounds
    else if blk ≠ blkHi then .crosses
    else
      let i := blk % n
      .ok (gaSpad ((wY0 c + i / wW u) * 64 + (wX0 c + i % wW u)) first)
  | k =>
    let w := 2 ^ k.offsetWidth
    let o := ((c % w : Nat) : Int) + off
    let b := r.bounds
    if o < b.1 ∨ o + size > b.1 + b.2 then .bounds
    else .ok (localise pkg (c / w * w + o.toNat))

/-- cursor + off modulo 2^64: EVAL of a failed dereference (Table 8.1, log 21). -/
def GReg.eva (r : GReg) (off : Int) : Nat := wrapInt 64 ((r.low.toNat : Int) + off)

/-! ## Lengths and derivation -/

/-- The smallest EXP that R52 allows for a length, from e on. -/
def expFor (len : Nat) : Nat → Nat → Nat
  | 0, e => e
  | fuel + 1, e => if len / 2 ^ (2 * e + 6) ≤ 2047 then e else expFor len fuel (e + 1)

/-- The upper half of an HBM or MMIO capability whose length is rounded down (R52, R53). -/
def plainUpper (perm base len : Nat) : Word :=
  let e := expFor len 15 0
  BitVec.ofNat 64 (perm * 2 ^ 53 + base / 64 % 2 ^ 38 * 2 ^ 15 + e * 2 ^ 11 + len / 2 ^ (2 * e + 6))

/-- The upper half of a plain tile capability (Table 2.7). -/
def tileUpper (perm base len : Nat) : Word := BitVec.ofNat 64 (perm * 2 ^ 53 + base * 2 ^ 34 + len * 2 ^ 14)

/-- The upper half of a woven capability (Table 2.8). -/
def wovenUpper (perm w h g base ext : Nat) : Word :=
  BitVec.ofNat 64 (2 ^ 63 + perm * 2 ^ 53 + (w - 1) * 2 ^ 38 + (h - 1) * 2 ^ 32 + (g - 5) * 2 ^ 28 + base * 2 ^ 14 + ext)

/-- PERM replaced. -/
def GReg.withPerm (r : GReg) (perm : Nat) : GReg :=
  let u := r.upper.toNat
  capReg (BitVec.ofNat 64 (u / 2 ^ 63 * 2 ^ 63 + perm * 2 ^ 53 + u % 2 ^ 53)) r.low

/-- A plain tile capability that names tile t of the own package. -/
def GReg.namesTile (r : GReg) (pkg t : Nat) : Bool :=
  r.kind == .tile && (gaLocal r.low.toNat || gaPkg r.low.toNat == pkg) && gaTile r.low.toNat == t

/-- A body no instruction could produce, loaded with tag 01: the cases that R59 lists (log 33). Bit 19 of a tile cursor is
no reserved bit where the cursor stands at the end of bounds that reach 0x8_0000, as g14 starts (log 32). -/
def capUnproducible (r : GReg) : Bool :=
  let u := r.upper.toNat
  let c := r.low.toNat
  match r.kind with
  | .bad => true
  | .woven =>
    bits u 52 44 != 0 || bits c 51 40 != 0 || wX0 c + wW u > 64 || wY0 c + wH u > 64
  | .tile => bits u 13 0 != 0 || bits c 31 20 != 0 || (bit c 19 && r.bounds.1 + r.bounds.2 != 2 ^ 19)
  | _ => (hMant u == 0 && hExp u != 0) || (hExp u != 0 && hMant u < 512)

end Sys2Proof.Machine
end

