-- ==== Sys2Proof/Machine/Arbiter.lean ====
section
/-! DEFINITION. Which thread a core issues (R11, R12, R119, R356, R364), what its fetch unit wants (R14), and the
arbitration of the scratchpad banks (R16-R20). -/
namespace Sys2Proof.Machine

/-! ## Threads that may issue -/

/-- The line of a PC lies wholly within the bounds of a code capability that names the tile (R115, R119). EX is not looked
at again at a fetch (log 73). -/
def lineAllowed (code : Option Word) (pkg tile : Nat) (pc : Word) : Bool :=
  match code with
  | none => false
  | some u =>
    let c := capReg u pc
    c.namesTile pkg tile && pc.toNat / 2 ^ 19 % 2 ^ 13 == 0 && tileBase u.toNat ≤ pcLine pc &&
      pcLine pc + 64 ≤ tileBase u.toNat + tileLen u.toNat

/-- The thread's line lies within its code capability (R119). -/
def Thread.fetchable (th : Thread) (pkg t : Nat) : Bool := lineAllowed th.code pkg t th.pc

/-- Nothing of an instruction or a skip walk is in progress. -/
def Thread.atBoundary (th : Thread) : Bool := th.skip == 0 && th.served.isEmpty

/-- Ready, but for the cycle: in rotation, with its line at hand, or with a line that it may not fetch. -/
def Thread.hasLine (th : Thread) (pkg t : Nat) : Bool :=
  th.run == .rotation && ((th.line th.pc).isSome || !th.fetchable pkg t)

/-- Thread h of a tile is being stopped by another thread's CTXST or CTXLD. -/
def Tile.stopping (x : Tile) (h : Nat) : Bool :=
  (List.range 8).any fun k => match (x.thread k).wait with
    | .ctx _ target => target == h
    | _ => false

/-- A thread that is being stopped goes no further than the boundary it reaches. -/
def Tile.held (x : Tile) (h : Nat) : Bool := (x.thread h).atBoundary && (x.halt != .running || x.stopping h)

/-- Ready in this cycle (R12). -/
def Tile.ready (x : Tile) (pkg t h : Nat) : Bool :=
  let th := x.thread h
  th.hasLine pkg t && decide (th.readyAt ≤ x.cycle) && !x.held h

/-- The first ready thread after the rotation pointer. -/
def Tile.choose (x : Tile) (pkg t : Nat) : Option Nat :=
  ((List.range 8).map fun i => (x.rot + 1 + i) % 8).find? (x.ready pkg t)

/-- The walk over annulled instructions goes on while the lines are in the buffer and sound; it leaves in skip what
it could not pass (R15, R114). -/
def Thread.walkSkips (pkg tile : Nat) : Nat → Thread → Thread
  | 0, t => t
  | n + 1, t =>
    if t.skip = 0 then t
    else match t.line t.pc with
      | none => t
      | some l =>
        if !lineAllowed t.code pkg tile t.pc || lineMalformed l then t
        else Thread.walkSkips pkg tile n { t with pc := t.succ, skip := t.skip - 1 }

/-- Skip walks of threads in rotation go on over the lines that have come (R15). -/
def Tile.walkAll (x : Tile) (pkg t : Nat) : Tile :=
  (List.range 8).foldl (fun x h =>
    let th := x.thread h
    if th.run = .rotation ∧ th.skip ≠ 0 then x.setThread h (th.walkSkips pkg t 3) else x) x

/-- Lines that a thread wants: those requested, and its PC's where a thread in rotation lacks it (R14). The line of the PC is
asked for also where it lies outside the code capability, of which R119 bars only a prefetch (DESIGN CHOICE, log 98). -/
def Thread.wants (th : Thread) : List Nat :=
  if th.run = .rotation ∧ (th.line th.pc).isNone = true ∧ th.wanted.contains (pcLine th.pc) = false then pcLine th.pc :: th.wanted
  else th.wanted

/-! ## Banks: the orders of Table 1.2 -/

def orderFabric : Nat := 3
def orderCluster : Nat := 4
def orderCopy : Nat := 5
def orderScrub : Nat := 8

/-- Offsets of the scratchpad rows that the memory unit needs to perform a request (R16). -/
def rowsAt (f : Flit) : List Nat :=
  match f.op with
  | .load | .loadv | .loadcap | .store | .storev | .storecap | .put | .putv | .atomic | .atomicr | .ldc | .stp | .feset
  | .scrub | .poison | .arm => [gaOff f.ga]
  | .granule => gaOff f.ga :: (if f.wpen then [f.wpoff] else [])
  | .streamend => if f.wpen then [f.wpoff] else []
  | .tdec | .tcancel => [gaOff f.ga, gaOff f.ga + 64]
  | _ => []

/-- Rows, and banks, that some offsets lie in, each once. -/
def rowSet (offs : List Nat) : List Nat := offs.foldl (fun l o => nset l (o / 64) true) []
def banksOf (offs : List Nat) : List Nat := offs.foldl (fun l o => nset l (Config.bankOf o) true) []

/-- A request stands: it has been made in this cycle or the last. -/
def Tile.fresh (x : Tile) (w : BankWait) : Bool := decide (x.cycle ≤ w.last + 1)

/-- Order 2: it has waited 16 cycles, outside replay mode (R16, R18). -/
def Tile.aged (x : Tile) (w : BankWait) : Bool := !x.replay && decide (w.since + 16 ≤ x.cycle)

/-- One request comes before another: by order, then by age, then by place in the order. -/
def Tile.before (x : Tile) (a b : BankWait) : Bool :=
  let k := fun (w : BankWait) => if x.aged w then 2 else w.order
  decide (k a < k b ∨ (k a = k b ∧ (a.since < b.since ∨ (a.since = b.since ∧ (a.order < b.order ∨ (a.order = b.order ∧ a.id < b.id))))))

/-- A thread-side request goes ahead of every agent at a bank: outside replay mode the thread that issues next in this cycle
holds retry priority there; in replay mode and in a halt a refill is wanted from it (R17, R18, R356). -/
def Tile.claims (x : Tile) (pkg t b : Nat) : Bool :=
  (match ({ x with cycle := x.cycle + 1 }.walkAll pkg t).choose pkg t with
    | some h => (x.thread h).retryBanks.contains b
    | none => false) ||
  ((x.replay || x.halt != .running) && x.threads.any fun y => y.2.wants.any fun l => Config.bankOf l == b)

/-- The fabric interface has in this cycle a flit at the head of an ejection queue that needs a bank (R35). -/
def Tile.fabricAsks (x : Tile) (b : Nat) : Bool :=
  (!x.passedA && x.ejA.head?.any fun f => (rowsAt f).any fun o => Config.bankOf o == b) ||
  (!x.passedB && x.ejB.head?.any fun f => f.op == .signal && Config.bankOf (gaOff f.ga) == b)

/-- The request that an agent makes for a row in this cycle: as it stands, or new. -/
def Tile.request (x : Tile) (order id row : Nat) : BankWait :=
  match x.waits.find? fun w => w.order == order && w.id == id && w.row == row && x.fresh w with
  | some w => { w with last := x.cycle }
  | none => { order := order, id := id, row := row, bank := Config.bankOf (64 * row), since := x.cycle, last := x.cycle }

/-- A request of the scrubber takes what all others have left of the cycle just ended, unless it has waited 16 cycles. -/
def Tile.leftover (x : Tile) (w : BankWait) : Bool := w.order == orderScrub && !x.aged w

/-- A bank grants an agent's request in this cycle (Table 1.2, R20). -/
def Tile.grants (x : Tile) (pkg t : Nat) (me : BankWait) : Bool :=
  !(if x.leftover me then x.late else x.taken).contains me.bank && !x.mending.contains me.bank && !x.reserved.contains me.row &&
    !x.claims pkg t me.bank && (me.order == orderFabric || x.aged me || !x.fabricAsks me.bank) &&
    !(x.waits.any fun w => w.bank == me.bank && !w.granted && x.fresh w && !(w.order == me.order && w.id == me.id) && x.before w me)

/-- Banks granted in this cycle. -/
def Tile.take (x : Tile) (offs : List Nat) : Tile := { x with taken := (banksOf offs).foldl (fun l b => nset l b true) x.taken }

/-- The bank of a granted request is taken. -/
def Tile.takeFor (x : Tile) (w : BankWait) : Tile :=
  if x.leftover w then { x with late := nset x.late w.bank true } else { x with taken := nset x.taken w.bank true }

/-- An agent's requests are granted as far as their banks go: one row of a bank in a cycle. -/
def Tile.grantAll (x : Tile) (pkg t : Nat) : List BankWait → List BankWait × Tile
  | [] => ([], x)
  | w :: ws =>
    if w.granted || !x.grants pkg t w then
      let r := Tile.grantAll x pkg t ws
      (w :: r.1, r.2)
    else
      let r := Tile.grantAll (x.takeFor w) pkg t ws
      ({ w with granted := true } :: r.1, r.2)

/-- An agent asks for the rows of some offsets; the tile remembers which it has. A tile without a cycle of its own arbitrates
nothing. -/
def Tile.claimRows (x : Tile) (pkg t order id : Nat) (offs : List Nat) : Tile :=
  if x.region.isNone || x.fenced then x
  else
    let others := x.waits.filter fun w => !(w.order == order && w.id == id)
    let r := x.grantAll pkg t ((rowSet offs).map (x.request order id))
    { r.2 with waits := others ++ r.1 }

/-- It has all that it has asked for. -/
def Tile.holds (x : Tile) (order id : Nat) : Bool := x.waits.all fun w => !(w.order == order && w.id == id) || w.granted

/-- It is served. -/
def Tile.served (x : Tile) (order id : Nat) : Tile := { x with waits := x.waits.filter fun w => !(w.order == order && w.id == id) }

/-- Requests at the banks of several tiles, each with its order and requester, all of them served together once every row has
been granted (DESIGN CHOICE, log 77). -/
def State.askEach (s : State) (l : List (Nat × Nat × Nat × List Nat)) : Bool × State :=
  let s' := l.foldl (fun s p => s.updTile p.2.2.1 fun x => x.claimRows s.pkg p.2.2.1 p.1 p.2.1 p.2.2.2) s
  if l.all fun p => (s'.tile p.2.2.1).holds p.1 p.2.1 then
    (true, l.foldl (fun s p => s.updTile p.2.2.1 fun x => x.served p.1 p.2.1) s')
  else (false, s')

/-- The rows of one tile: whether the agent has them now. -/
def State.ask (s : State) (t order id : Nat) (offs : List Nat) : Bool × State := s.askEach [(order, id, t, offs)]

/-- The rows of several tiles for one requester. -/
def State.askAll (s : State) (order id : Nat) (l : List (Nat × List Nat)) : Bool × State :=
  s.askEach (l.map fun p => (order, id, p.1, p.2))

/-- A standing request of an agent that goes ahead of a thread-side access without retry priority at a bank. -/
def Tile.standing (x : Tile) (b : Nat) : Bool :=
  x.waits.any fun w => w.bank == b && !w.granted && x.fresh w && (decide (w.order ≤ orderCopy) || x.aged w)

/-- Banks that refuse the current thread in this cycle: those that copy a row to a spare (R399), and those granted or due to
an agent and not held by retry priority (R17). In replay mode threads win over agents (R18). -/
def State.refusing (s : State) (offs : List Nat) : List Nat :=
  (offs.map Config.bankOf).filter fun b => s.curT.mending.contains b ||
    (!s.curT.replay && (s.curT.taken.contains b || s.curT.standing b) && !s.cur.retryBanks.contains b)

/-- A refill comes after every other request but the scrubber's: its bank must have been left over in the cycle just ended;
in replay mode it goes ahead of the agents (R16, R18). -/
def Tile.refillRefused (x : Tile) (line : Nat) : Bool :=
  x.mending.contains (Config.bankOf line) || (if x.replay then x.taken else x.late).contains (Config.bankOf line)

/-- A refill is granted. -/
def Tile.refillTake (x : Tile) (line : Nat) : Tile :=
  let b := Config.bankOf line
  if x.replay then { x with taken := nset x.taken b true } else { x with late := nset x.late b true }

/-- A cycle of the banks begins: outside replay mode with the agents, in replay mode with the thread side. -/
def Tile.nextCycle (x : Tile) : Tile :=
  { x with taken := [], late := x.taken, reserved := x.written, written := [], passedA := false, passedB := false,
           waits := x.waits.filter x.fresh }

end Sys2Proof.Machine
end

