-- ==== Sys2Proof/Machine/Move.lean ====
section
/-! DEFINITION. Rebasing (R363): what the displacement of a restore does to addresses, capabilities, threads and records. -/
namespace Sys2Proof.Machine

/-- Displacement of a restore added to a tile address (R363). -/
def moveGa (dx dy : Int) (ga : Nat) : Nat :=
  let x := wrapInt 6 ((bits ga 37 32 : Nat) + dx)
  let y := wrapInt 6 ((bits ga 43 38 : Nat) + dy)
  ga / 2 ^ 44 * 2 ^ 44 + y * 2 ^ 38 + x * 2 ^ 32 + ga % 2 ^ 32

def Move.inside (m : Move) (x y : Nat) : Bool :=
  decide (m.x0 ≤ x) && decide (x < m.x0 + m.w) && decide (m.y0 ≤ y) && decide (y < m.y0 + m.h)

/-- A scratchpad address of this package names a tile of the region. -/
def Move.names (m : Move) (a : Nat) : Bool :=
  (gaLocal a || gaPkg a == m.pkg) && gaSpace a == 0 && m.inside (bits a 37 32) (bits a 43 38)

/-- An address moved. -/
def Move.addr (m : Move) (a : Nat) : Nat := if m.names a then moveGa m.dx m.dy a else a

/-- The low half of a capability's body moved. -/
def Move.capLow (m : Move) (upper low : Word) : Word :=
  let r := capReg upper low
  let c := low.toNat
  match r.kind with
  | .tile => BitVec.ofNat 64 (m.addr c)
  | .woven =>
    let u := upper.toNat
    if m.inside (wX0 c) (wY0 c) && m.inside (wX0 c + wW u - 1) (wY0 c + wH u - 1) then
      BitVec.ofNat 64 (wrapInt 6 ((wY0 c : Nat) + m.dy) * 2 ^ 58 + wrapInt 6 ((wX0 c : Nat) + m.dx) * 2 ^ 52 + c % 2 ^ 52)
    else low
  | _ => low

def Move.reg (m : Move) (r : GReg) : GReg := if r.isCap then capReg r.upper (m.capLow r.upper r.low) else r

def Move.thread (m : Move) (t : Thread) : Thread :=
  let a := fun (w : Word) => BitVec.ofNat 64 (m.addr w.toNat)
  { t with g := t.g.map (fun x => (x.1, m.reg x.2)), ecap := m.reg t.ecap, pc := a t.pc, epc := a t.epc, bpc := a t.bpc,
           tvec := if t.tvec = 0 then 0 else a t.tvec }

/-- The capability pairs among a record's slots. -/
def Move.slots (m : Move) : List (Nat × Word) → List (Nat × Word)
  | x :: y :: r => (if x.1 = 1 ∧ y.1 = 1 then (1, m.capLow y.2 x.2) else x) :: y :: Move.slots m r
  | l => l

def Move.record (m : Move) (b : BankRec) : BankRec :=
  { b with r := { b.r with slots := m.slots b.r.slots }, block := b.block.map m.addr }

/-- Two displacements of one entry, the later after the earlier: the region is the one in whose coordinates it still stands. -/
def Move.after (old : Option Move) (m : Move) : Option Move :=
  match old with
  | some o => some { o with dx := o.dx + m.dx, dy := o.dy + m.dy }
  | none => some m

/-- A record moved by the displacement that it still has to take. -/
def BankRec.moved (b : BankRec) : BankRec :=
  match b.move with
  | some m => { m.record b with move := none }
  | none => b

end Sys2Proof.Machine
end

