-- ==== Sys2Proof/Machine/Fp.lean ====
section
/-! DEFINITION. Number formats and rounding (R61-R81, R133, R134): values are exact until they are rounded. -/
namespace Sys2Proof.Machine

/-! ## Formats (Tables 3.2, 3.3) -/

/-- A floating format: width, fraction bits, bias, magnitude codes of the largest finite number, of infinity (if it
has one), of the canonical NaN (if it has one) and of the first NaN code (2^(width-1) where there is none). -/
structure Fmt where
  width : Nat
  mb : Nat
  bias : Nat
  maxc : Nat
  infc : Option Nat
  nanc : Option Nat
  nanFrom : Nat
  deriving DecidableEq, Repr

def fmtF32 : Fmt := ⟨32, 23, 127, 0x7F7F_FFFF, some 0x7F80_0000, some 0x7FC0_0000, 0x7F80_0001⟩
def fmtF16 : Fmt := ⟨16, 10, 15, 0x7BFF, some 0x7C00, some 0x7E00, 0x7C01⟩
def fmtBF16 : Fmt := ⟨16, 7, 127, 0x7F7F, some 0x7F80, some 0x7FC0, 0x7F81⟩
def fmtE4M3 : Fmt := ⟨8, 3, 7, 0x7E, none, some 0x7F, 0x7F⟩
def fmtE5M2 : Fmt := ⟨8, 2, 15, 0x7B, some 0x7C, some 0x7E, 0x7D⟩
def fmtE3M2 : Fmt := ⟨6, 2, 3, 0x1F, none, none, 0x20⟩
def fmtE2M3 : Fmt := ⟨6, 3, 1, 0x1F, none, none, 0x20⟩
def fmtE2M1 : Fmt := ⟨4, 1, 1, 0x7, none, none, 0x8⟩

/-- The format of a floating element type; F32 stands where the type is not floating. -/
def fmtOf : ElemTy → Fmt
  | .bf16 => fmtBF16 | .f16 => fmtF16 | .e4m3 => fmtE4M3 | .e5m2 => fmtE5M2
  | .e3m2 => fmtE3M2 | .e2m3 => fmtE2M3 | .e2m1 => fmtE2M1
  | _ => fmtF32

/-- An exact value: NaN, infinity, signed zero, or m * 2^e with m not zero. -/
inductive FVal where
  | nan
  | inf (neg : Bool)
  | zero (neg : Bool)
  | fin (m e : Int)
  deriving DecidableEq, Repr

def FVal.isNan : FVal → Bool
  | .nan => true
  | _ => false

/-- m * 2^e, with the sign given where m is zero. -/
def FVal.mk (neg : Bool) (m e : Int) : FVal := if m = 0 then .zero neg else .fin m e

def FVal.neg : FVal → FVal
  | .nan => .nan
  | .inf s => .inf (!s)
  | .zero s => .zero (!s)
  | .fin m e => .fin (-m) e

def FVal.isNeg : FVal → Bool
  | .nan => false
  | .inf s => s
  | .zero s => s
  | .fin m _ => m < 0

/-- Sign bit and magnitude of a code. -/
def Fmt.sign (f : Fmt) (c : Nat) : Bool := bit c (f.width - 1)
def Fmt.mag (f : Fmt) (c : Nat) : Nat := c % 2 ^ (f.width - 1)
def Fmt.isNanCode (f : Fmt) (c : Nat) : Bool := f.nanFrom ≤ f.mag c
def Fmt.isSubnormal (f : Fmt) (c : Nat) : Bool := f.mag c != 0 && f.mag c < 2 ^ f.mb
/-- The canonical NaN; +0 in a format without one (R64, R70). -/
def Fmt.nan (f : Fmt) : Nat := f.nanc.getD 0

/-- The value of a code (R63). -/
def Fmt.read (f : Fmt) (c : Nat) : FVal :=
  let s := f.sign c
  let m := f.mag c
  if f.nanFrom ≤ m then .nan
  else if f.infc = some m then .inf s
  else
    let e := m / 2 ^ f.mb
    let frac := m % 2 ^ f.mb
    let sig : Int := if e = 0 then frac else frac + 2 ^ f.mb
    let ex : Int := ((if e = 0 then 1 else e : Nat) : Int) - f.bias - f.mb
    FVal.mk s (if s then -sig else sig) ex

/-- A subnormal code read as a zero of its sign when flushing (R74). -/
def Fmt.flushIn (f : Fmt) (ftz : Bool) (c : Nat) : Nat :=
  if ftz && f.isSubnormal c then boolNat (f.sign c) * 2 ^ (f.width - 1) else c

/-! ## Rounding a magnitude -/

/-- Whether the neighbour farther from zero is taken: k units and r / den of one discarded (Table 3.4, R77). -/
def roundsAway (mode : Rm) (neg : Bool) (q k r den : Nat) : Bool :=
  match mode with
  | .rne | .dyn => den < 2 * r || (2 * r == den && k % 2 == 1)
  | .rz => false
  | .rup => !neg && 0 < r
  | .rdn => neg && 0 < r
  | .sr => 2 ^ 32 ≤ r * 2 ^ 32 / den + q

/-- floor(log2 (n / d)), for positive n and d. -/
def log2Rat (n d : Nat) : Int :=
  let e : Int := (Nat.log2 n : Int) - Nat.log2 d
  let below := if 0 ≤ e then n < d * 2 ^ e.toNat else n * 2 ^ (-e).toNat < d
  if below then e - 1 else e

/-- n / d in units of 2^u, rounded to a whole number of them. -/
def roundUnits (mode : Rm) (neg : Bool) (q n d : Nat) (u : Int) : Nat :=
  let a := if 0 ≤ u then n else n * 2 ^ (-u).toNat
  let b := if 0 ≤ u then d * 2 ^ u.toNat else d
  let k := a / b
  if roundsAway mode neg q k (a % b) b then k + 1 else k

/-- The magnitude code of n / d rounded to the format's precision, subnormals included; above maxc it has
overflowed (R68 steps 4 and 5). -/
def Fmt.roundMag (f : Fmt) (mode : Rm) (neg : Bool) (q n d : Nat) : Nat :=
  let emin : Int := 1 - f.bias
  let e := max (log2Rat n d) emin
  roundUnits mode neg q n d (e - f.mb) + (e - emin).toNat * 2 ^ f.mb

/-- Rounded with unbounded exponent range, the magnitude lies below the smallest normal (R74). -/
def Fmt.flushes (f : Fmt) (mode : Rm) (neg : Bool) (q n d : Nat) : Bool :=
  let emin : Int := 1 - f.bias
  let e := log2Rat n d
  e < emin && !(e + 1 == emin && roundUnits mode neg q n d (e - f.mb) == 2 ^ (f.mb + 1))

/-- n / d exceeds the largest finite magnitude. -/
def Fmt.beyond (f : Fmt) (n d : Nat) : Bool :=
  match f.read f.maxc with
  | .fin m e =>
    if 0 ≤ e then d * (m.toNat * 2 ^ e.toNat) < n else d * m.toNat < n * 2 ^ (-e).toNat
  | _ => false

/-! ## Round (R68-R70) -/

/-- What rounding depends on besides the value: mode, RMODE.OVF, flushing, and the draw of SR (R75). -/
structure RCtx where
  mode : Rm
  ovf : Bool := false
  ftz : Bool := false
  q : Nat := 0
  deriving DecidableEq, Repr

/-- An exact real to be rounded: as FVal, with a quotient n / d of positive numbers for the magnitude. -/
inductive Exact where
  | nan
  | inf (neg : Bool)
  | zero (neg : Bool)
  | mag (neg : Bool) (n d : Nat)
  deriving DecidableEq, Repr

def FVal.exact : FVal → Exact
  | .nan => .nan
  | .inf s => .inf s
  | .zero s => .zero s
  | .fin m e => if 0 ≤ e then .mag (m < 0) (m.natAbs * 2 ^ e.toNat) 1 else .mag (m < 0) m.natAbs (2 ^ (-e).toNat)

/-- A magnitude code with a sign. -/
def Fmt.signed (f : Fmt) (neg : Bool) (m : Nat) : Nat := m + boolNat neg * 2 ^ (f.width - 1)

/-- The element formats whose overflow follows Table 3.6: those narrower than 16 bits. -/
def Fmt.isElement (f : Fmt) : Bool := f.width < 16

/-- Overflow (Tables 3.5 and 3.6). -/
def Fmt.overflow (f : Fmt) (r : RCtx) (neg : Bool) : Nat :=
  let big := f.signed neg f.maxc
  if f.isElement then
    match r.ovf, f.nanc with
    | true, some c => c
    | _, _ => big
  else
    let inf := f.signed neg (f.infc.getD f.maxc)
    match r.mode with
    | .rz => big
    | .rup => if neg then big else inf
    | .rdn => if neg then inf else big
    | _ => inf

/-- An infinite value (R69, Table 3.6). -/
def Fmt.infinite (f : Fmt) (r : RCtx) (neg : Bool) : Nat :=
  if f.isElement then
    match r.ovf, f.infc, f.nanc with
    | true, some c, _ => f.signed neg c
    | true, none, some c => c
    | _, _, _ => f.signed neg f.maxc
  else f.signed neg (f.infc.getD f.maxc)

/-- Round(x, fmt, mode) of R68, with the element-format rules of R70 and the flush of R74. -/
def Fmt.round (f : Fmt) (r : RCtx) (x : Exact) : Nat :=
  match x with
  | .nan => f.nan
  | .inf s => f.infinite r s
  | .zero s => f.signed s 0
  | .mag s n d =>
    let mode := if r.mode = .sr ∧ f.beyond n d then .rne else r.mode
    if r.ftz && !f.isElement && f.flushes mode s r.q n d then f.signed s 0
    else
      let c := f.roundMag mode s r.q n d
      if f.maxc < c then f.overflow r s else f.signed s c

/-! ## Sums, products, quotients (Table 6.2, R68, R78) -/

/-- The sign of an exact zero sum (R68). -/
def zeroSign (mode : Rm) (terms : List FVal) : Bool :=
  if terms.all (fun t => t == .zero true) then true
  else if terms.all (fun t => t == .zero false) then false
  else mode == .rdn

/-- Exact sum of two finite dyadics. -/
def addDy (a b : Int × Int) : Int × Int :=
  let e := min a.2 b.2
  (a.1 * 2 ^ (a.2 - e).toNat + b.1 * 2 ^ (b.2 - e).toNat, e)

def FVal.dy : FVal → Int × Int
  | .fin m e => (m, e)
  | _ => (0, 0)

/-- The exact sum of terms, with the special cases of Table 6.2 and the zero of R68. -/
def fsum (mode : Rm) (terms : List FVal) : FVal :=
  let pos := terms.any (fun t => t == .inf false)
  let neg := terms.any (fun t => t == .inf true)
  if terms.any FVal.isNan || (pos && neg) then .nan
  else if pos then .inf false
  else if neg then .inf true
  else
    let d := terms.foldl (fun acc t => match t with
      | .fin m e => if acc.1 = 0 then (m, e) else addDy acc (m, e)
      | _ => acc) (0, 0)
    if d.1 = 0 then .zero (zeroSign mode terms) else .fin d.1 d.2

def fmulVal : FVal → FVal → FVal
  | .nan, _ => .nan
  | _, .nan => .nan
  | .inf _, .zero _ => .nan
  | .zero _, .inf _ => .nan
  | .inf s, y => .inf (s != y.isNeg)
  | x, .inf s => .inf (s != x.isNeg)
  | .zero s, y => .zero (s != y.isNeg)
  | x, .zero s => .zero (s != x.isNeg)
  | .fin m e, .fin m' e' => .fin (m * m') (e + e')

def fdivVal (x y : FVal) : Exact :=
  let s := x.isNeg != y.isNeg
  match x, y with
  | .nan, _ => .nan
  | _, .nan => .nan
  | .inf _, .inf _ => .nan
  | .inf _, _ => .inf s
  | _, .inf _ => .zero s
  | .zero _, .zero _ => .nan
  | .zero _, _ => .zero s
  | _, .zero _ => .inf s
  | .fin m e, .fin m' e' =>
    let u := e - e'
    if 0 ≤ u then .mag s (m.natAbs * 2 ^ u.toNat) m'.natAbs else .mag s m.natAbs (m'.natAbs * 2 ^ (-u).toNat)

/-! ## Roots, exponential, logarithm: the exact value rounded once (R78, R144; log 14) -/

/-- floor(sqrt n) from its bits i-1 .. 0, r the root so far. -/
def sqrtBits (n : Nat) : Nat → Nat → Nat
  | 0, r => r
  | i + 1, r =>
    let c := r + 2 ^ i
    sqrtBits n i (if c * c ≤ n then c else r)

def isqrt (n : Nat) : Nat := sqrtBits n (Nat.log2 n / 2 + 1) 0

/-- sqrt(n / d) with p bits below the unit of its leading bit, and a last bit that is set where the root is not
exact: it rounds as the root itself does. -/
def sqrtRat (p n d : Nat) : Nat × Nat :=
  let e := log2Rat n d
  let k := (((p : Int) * 2 - e) / 2).toNat
  let s := isqrt (n * 4 ^ k / d)
  let exact := s * s * d == n * 4 ^ k
  (2 * s + boolNat (!exact), 2 ^ (k + 1))

/-- Both ends of an interval round alike, so the value between them does too. -/
def Fmt.between (f : Fmt) (r : RCtx) (neg : Bool) (lo hi : Nat × Nat) : Option Nat :=
  let a := f.round r (.mag neg lo.1 lo.2)
  if a = f.round r (.mag neg hi.1 hi.2) then some a else none

/-- The first precision of a list that decides the rounding; the lower end of the last one otherwise. -/
def Fmt.ziv (f : Fmt) (r : RCtx) (neg : Bool) (bounds : Nat → (Nat × Nat) × (Nat × Nat)) : List Nat → Nat
  | [] => f.round r (.mag neg (bounds 512).1.1 (bounds 512).1.2)
  | p :: ps =>
    let b := bounds p
    match f.between r neg b.1 b.2 with
    | some c => c
    | none => f.ziv r neg bounds ps

def zivPrecisions : List Nat := [96, 192, 384]

/-- Bounds in units of 2^-p of 2^g, for g = 0.b1 b2 ... the first i bits of x / 2^n read from the top: each factor
2^(2^-k) is the k-th square root of 2, kept with p bits. -/
def exp2Bits (p x n : Nat) : Nat → Nat → Nat → Nat → Nat × Nat
  | 0, _, lo, hi => (lo, hi)
  | i + 1, c, lo, hi =>
    -- c: floor of 2^(2^-(k-1)) * 2^p; its square root is the factor of the next bit
    let c' := isqrt (c * 2 ^ p)
    if bit x (n - 1) then
      exp2Bits p (x * 2) n i c' (lo * c' / 2 ^ p) (ceilDiv (hi * (c' + 2)) (2 ^ p))
    else exp2Bits p (x * 2) n i c' lo hi

/-- Bounds of 2^(x / 2^n), x < 2^n, with p bits: the bits below 2^-p add less than one unit. -/
def exp2Bounds (x n p : Nat) : (Nat × Nat) × (Nat × Nat) :=
  let used := Nat.min n p
  let b := exp2Bits p (x % 2 ^ n) n used (2 * 2 ^ p) (2 ^ p) (2 ^ p)
  ((b.1 * 2 + 1, 2 * 2 ^ p), (b.2 * 2 + 5, 2 * 2 ^ p))

/-- 2^v rounded to the format. -/
def Fmt.exp2 (f : Fmt) (r : RCtx) : FVal → Nat
  | .nan => f.nan
  | .inf neg => if neg then f.signed false 0 else f.infinite r false
  | .zero _ => f.round r (.mag false 1 1)
  | .fin m e =>
    if 0 ≤ e then
      -- a whole number: exact; magnitudes beyond 2^14 decide overflow or underflow already
      let v := max (-16384) (min 16384 (m * 2 ^ (Nat.min e.toNat 20)))
      if 0 ≤ v then f.round r (.mag false (2 ^ v.toNat) 1) else f.round r (.mag false 1 (2 ^ (-v).toNat))
    else
      let n := (-e).toNat
      let whole := max (-16384) (min 16384 (m / 2 ^ n))
      let frac := (m % 2 ^ n).toNat
      let up := 2 ^ whole.toNat
      let down := 2 ^ (-whole).toNat
      if frac = 0 then f.round r (.mag false up down)
      else
        f.ziv r false (fun p =>
          let b := exp2Bounds frac n p
          ((b.1.1 * up, b.1.2 * down), (b.2.1 * up, b.2.2 * down))) zivPrecisions

/-- log2 of y / 2^p for y in [2^p, 2^(p+1)), by squaring: i more bits, acc the bits so far and k their number. The
bounds lo and hi of y widen as they are truncated; the loop ends where they no longer decide a bit. -/
def log2Bits (p : Nat) : Nat → Nat → Nat → Nat → Nat → Nat × Nat
  | 0, _, _, acc, k => (acc, k)
  | i + 1, lo, hi, acc, k =>
    let l := lo * lo / 2 ^ p
    let h := ceilDiv (hi * hi) (2 ^ p)
    if 2 * 2 ^ p ≤ l then log2Bits p i (l / 2) (ceilDiv h 2) (2 * acc + 1) (k + 1)
    else if h < 2 * 2 ^ p then log2Bits p i l h (2 * acc) (k + 1)
    else (acc, k)

/-- log2 v rounded to the format. -/
def Fmt.log2 (f : Fmt) (r : RCtx) : FVal → Nat
  | .nan => f.nan
  | .inf neg => if neg then f.nan else f.infinite r false
  | .zero _ => f.infinite r true
  | .fin m e =>
    if m < 0 then f.nan
    else
      let top := Nat.log2 m.natAbs
      let ex : Int := e + top
      if m.natAbs = 2 ^ top then
        f.round r (if ex = 0 then .zero false else .mag (ex < 0) ex.natAbs 1)
      else
        let neg : Bool := ex < 0
        f.ziv r neg (fun p =>
          let w := 2 * p
          let y := m.natAbs * 2 ^ w / 2 ^ top
          let exact := y * 2 ^ top == m.natAbs * 2 ^ w
          let b := log2Bits w p y (y + boolNat (!exact)) 0 0
          -- the logarithm lies strictly between ex + acc / 2^k and ex + (acc + 1) / 2^k
          let lo := ex * 2 ^ b.2 + b.1
          -- quarters of a unit stand for the open interval where every breakpoint of the rounding is a whole unit
          let inner := if p ≤ b.2 then 1 else 0
          let a := 4 * lo + inner
          let c := 4 * (lo + 1) - inner
          let den := 2 ^ (b.2 + 2)
          if neg then ((c.natAbs, den), (a.natAbs, den)) else ((a.natAbs, den), (c.natAbs, den))) zivPrecisions

def Fmt.sqrt (f : Fmt) (r : RCtx) : FVal → Nat
  | .nan => f.nan
  | .inf neg => if neg then f.nan else f.infinite r false
  | .zero s => f.signed s 0
  | .fin m e =>
    if m < 0 then f.nan
    else
      let q := if 0 ≤ e then sqrtRat 80 (m.natAbs * 2 ^ e.toNat) 1 else sqrtRat 80 m.natAbs (2 ^ (-e).toNat)
      f.round r (.mag false q.1 q.2)

def Fmt.rsqrt (f : Fmt) (r : RCtx) : FVal → Nat
  | .nan => f.nan
  | .inf neg => if neg then f.nan else f.signed false 0
  | .zero s => f.infinite r s
  | .fin m e =>
    if m < 0 then f.nan
    else
      let q := if 0 ≤ e then sqrtRat 80 1 (m.natAbs * 2 ^ e.toNat) else sqrtRat 80 (2 ^ (-e).toNat) m.natAbs
      f.round r (.mag false q.1 q.2)

def Fmt.recip (f : Fmt) (r : RCtx) (x : FVal) : Nat := f.round r (fdivVal (.fin 1 0) x)

/-! ## Order of codes: R134, Table 4.3 -/

/-- A code as a signed number in the order of the values; both zeros are 0. -/
def Fmt.key (f : Fmt) (c : Nat) : Int := if f.sign c then -(f.mag c : Int) else f.mag c

/-- Minimum and maximum of R134. -/
def Fmt.minMax (f : Fmt) (wantMax : Bool) (x y : Nat) : Nat :=
  if f.isNanCode x && f.isNanCode y then f.nan
  else if f.isNanCode x then y
  else if f.isNanCode y then x
  else if f.mag x = 0 ∧ f.mag y = 0 then
    f.signed (if wantMax then f.sign x && f.sign y else f.sign x || f.sign y) 0
  else if wantMax then (if f.key x < f.key y then y else x)
  else (if f.key y < f.key x then y else x)

/-- The float column of Table 4.3. -/
def Fmt.cmp (f : Fmt) (c : FCond) (x y : Nat) : Bool :=
  let ordered := !f.isNanCode x && !f.isNanCode y
  match c with
  | .eq => ordered && f.key x == f.key y
  | .ne => !(ordered && f.key x == f.key y)
  | .lt => ordered && f.key x < f.key y
  | .ge => ordered && f.key y ≤ f.key x

/-- Sign changes and copies: a NaN becomes the canonical NaN (R64). -/
def Fmt.canonNan (f : Fmt) (c : Nat) : Nat := if f.isNanCode c then f.nan else c
def Fmt.absCode (f : Fmt) (c : Nat) : Nat := if f.isNanCode c then f.nan else f.mag c
def Fmt.negCode (f : Fmt) (c : Nat) : Nat := if f.isNanCode c then f.nan else f.signed (!f.sign c) (f.mag c)

/-! ## Conversions (R62, R65, R70-R73) -/

/-- Least and greatest integer of an integer type (Table 3.1). -/
def intRange : ElemTy → Int × Int
  | .i8 => (-128, 127)
  | .n8 => (0, 255)
  | .i32 => (-2147483648, 2147483647)
  | .n32 => (0, 4294967295)
  | _ => (-9223372036854775808, 9223372036854775807)

def clampTo (t : ElemTy) (x : Int) : Int := max (intRange t).1 (min (intRange t).2 x)

/-- Bits a value of the type occupies outside a v register: 6 for FP6, 4 for FP4 (Table 6.4). -/
def tyBits : ElemTy → Nat
  | .f32 | .i32 | .n32 => 32
  | .bf16 | .f16 => 16
  | .i64 => 64
  | .e3m2 | .e2m3 => 6
  | .e2m1 => 4
  | .i8 | .n8 | .e4m3 | .e5m2 | .mxint8 => 8

def tySigned : ElemTy → Bool
  | .i8 | .i32 | .i64 => true
  | _ => false

/-- The integer a code of an integer type stands for. -/
def intOf (t : ElemTy) (c : Nat) : Int :=
  if tySigned t then sgn (tyBits t) c else ((c % 2 ^ tyBits t : Nat) : Int)

/-- The value of a code of any type: integers, MXINT8 (i * 2^-6) and floating formats. -/
def readVal (t : ElemTy) (c : Nat) : FVal :=
  if t.isInt then FVal.mk false (intOf t c) 0
  else if t = .mxint8 then FVal.mk false (sgn 8 c) (-6)
  else (fmtOf t).read (c % 2 ^ tyBits t)

/-- An exact value rounded to a whole number of units 2^u, with its sign. -/
def roundInt (r : RCtx) (neg : Bool) (n d : Nat) (u : Int) : Int :=
  let k : Int := roundUnits r.mode neg r.q n d u
  if neg then -k else k

/-- To an integer type (R73). -/
def toInt (t : ElemTy) (r : RCtx) : Exact → Int
  | .nan => 0
  | .inf neg => if neg then (intRange t).1 else (intRange t).2
  | .zero _ => 0
  | .mag neg n d => clampTo t (roundInt r neg n d 0)

/-- To MXINT8 (R65, R70): the limit is 127 * 2^-6. -/
def toMxint8 (r : RCtx) : Exact → Int
  | .nan => 0
  | .inf neg => if neg then -127 else 127
  | .zero _ => 0
  | .mag neg n d => max (-127) (min 127 (roundInt r neg n d (-6)))

/-- The code of a value in a type, in the type's own bits. -/
def writeVal (t : ElemTy) (r : RCtx) (x : Exact) : Nat :=
  if t.isInt then wrapInt (tyBits t) (toInt t r x)
  else if t = .mxint8 then wrapInt 8 (toMxint8 r x)
  else (fmtOf t).round r x

/-- One conversion (R137, R145): between integers it saturates (R62); a float kept in its type is unchanged, a NaN
becoming canonical (log 68); otherwise the value is rounded. -/
def convert (src dst : ElemTy) (r : RCtx) (c : Nat) : Nat :=
  if src.isInt && dst.isInt then wrapInt (tyBits dst) (clampTo dst (intOf src c))
  else
    let c := if src.isF then (fmtOf src).flushIn r.ftz c else c
    if src = dst ∧ src ≠ .mxint8 then (fmtOf src).canonNan (c % 2 ^ tyBits src)
    else writeVal dst r (readVal src c).exact

/-! ## Microscaling (R65, R71) -/

/-- The value of an element code times 2^(x - 127) for scale code x; NaN when x = 0xFF. -/
def scaled (v : FVal) (x : Nat) : FVal :=
  if x = 0xFF then .nan
  else match v with
    | .fin m e => .fin m (e + x - 127)
    | v => v

/-- emax of R71. -/
def emaxOf : ElemTy → Int
  | .e4m3 => 8 | .e5m2 => 15 | .e3m2 => 4 | .e2m3 => 2 | .e2m1 => 2
  | _ => 0

/-- floor(log2 |v|) of a finite value. -/
def FVal.exponent : FVal → Int
  | .fin m e => (Nat.log2 m.natAbs : Int) + e
  | _ => 0

/-- The scale code that R71 chooses for the values of a block. -/
def blockScale (dst : ElemTy) (vs : List FVal) : Nat :=
  if vs.any FVal.isNan then 0xFF
  else if vs.any (fun v => v == .inf false || v == .inf true) then 0xFE
  else
    let es := vs.filterMap fun v => match v with
      | .fin m e => some (FVal.exponent (.fin m e))
      | _ => none
    match es with
    | [] => 0x7F
    | e :: rest => (max 0 (min 254 (rest.foldl max e - emaxOf dst + 127))).toNat

/-- The element codes of a block under its scale code; r gives the rounding context of each element (R71). -/
def blockCodes (dst : ElemTy) (x : Nat) (r : Nat → RCtx) (vs : List FVal) : List Nat :=
  vs.zipIdx.map fun p =>
    if x = 0xFF then 0
    else
      let v := match p.1 with
        | .fin m e => FVal.fin m (e - x + 127)
        | v => v
      writeVal dst (r p.2) v.exact

/-! ## Stochastic draws (Table 3.7) -/

/-- The 32-bit draw q. -/
def srDraw (seed n : Word) (e : Nat) : Nat :=
  let z : Word := seed ^^^ (n * 0x9E3779B97F4A7C15) ^^^ (BitVec.ofNat 64 e * 0xD1B54A32D192ED03)
  let z := (z ^^^ (z >>> 30)) * 0xBF58476D1CE4E5B9
  let z := (z ^^^ (z >>> 27)) * 0x94D049BB133111EB
  let z := z ^^^ (z >>> 31)
  z.toNat / 2 ^ 32

/-- RMODE.RM as a mode: SYSWR stores no reserved code (R67). -/
def rmOfBits (b : BitVec 3) : Rm :=
  match Rm.ofCode b.toNat with
  | some .dyn => .rne
  | some m => m
  | none => .rne

/-- The rounding of an instruction of a thread, at index e (R75, R76, R141); flushing where its rule allows it. -/
def Thread.rctx (t : Thread) (rm : Rm) (ftz : Bool) (e : Nat) : RCtx :=
  let mode := if rm = .dyn then rmOfBits t.rm else rm
  { mode := mode, ovf := t.ovf, ftz := ftz && t.ftz, q := if mode = .sr then srDraw t.seed t.retired e else 0 }

end Sys2Proof.Machine
end

