-- ==== Sys2Proof/Machine/Perform.lean ====
section
/-! DEFINITION. Accesses performed at a word's home: reads, writes, atomics, full/empty, SCRUB (R160, R161, R166,
R170-R175, R206, R207, R308), flag signals (R167) and what every write does to those who wait on the word (R174,
R178, R210). A mark is 0 for clean data and class + 1 for poison. A key is the number of a key load (0 in
scratchpad). -/
namespace Sys2Proof.Machine

def GReg.mark (r : GReg) : Nat := if r.isPoison then r.cls + 1 else 0

/-- Mark of the word that holds a byte. -/
def State.mark (s : State) (a : Nat) : Nat := if s.poisoned a then (s.byte (a / 8 * 8)).toNat + 1 else 0

/-- A mark whose class no word holds but its access ended with: the poison then names the target address (R172, R299), while
that of a poisoned word names the word (R40, R160). -/
def atTarget (mark : Nat) : Nat := if mark = 0 then 0 else (mark - 1) % 256 + 257

/-- A value that an access at an address gives a register: data, or poison with its origin (log 30). -/
def markedReg (v mark ga : Nat) : GReg :=
  if mark = 0 then dataReg (BitVec.ofNat 64 v)
  else poisonVal ((mark - 1) % 256) (if 256 < mark then ga else ga / 8 * 8)

/-! ## Writes of one word -/

/-- Before a write: the word's stored error is met, the burst is re-encrypted and the pair loses its tag (R58, R161,
R391). -/
def State.prewrite (s : State) (key a : Nat) (whole : Bool) : State :=
  ((if whole && isSpad a then s.forgetErr a else s.detect a).rekey key a).setTagAt a false

/-- n bytes written within one word: poison sets or replaces the class, a poisoned word stays as it is (R161). -/
def State.put (s : State) (key a n v mark : Nat) : State :=
  let s := s.prewrite key a (n == 8)
  if mark ≠ 0 then s.markPoison a (mark - 1) else if s.poisoned a then s else s.setVal a n v

/-- Bytes written where a mask allows it. -/
def State.setMasked (s : State) (a mask : Nat) : List Byte → State
  | [] => s
  | b :: bs => State.setMasked (if bit mask 0 then s.setByte a b else s) (a + 1) (mask / 2) bs

/-- The same for the bytes of one word that a mask names. -/
def State.putMasked (s : State) (key a : Nat) (bytes : List Byte) (mask mark : Nat) : State :=
  if mask % 256 = 0 then s
  else
    let s := s.prewrite key a (mask % 256 == 255)
    if mark ≠ 0 then s.markPoison a (mark - 1) else if s.poisoned a then s else s.setMasked a mask (bytes.take 8)

/-- n words written under byte masks, with a mark for each word. -/
def State.putWords (s : State) (key a : Nat) (bytes : List Byte) (mask : Nat) (marks : List Nat) : Nat → State
  | 0 => s
  | n + 1 => State.putWords (s.putMasked key a bytes mask (marks.headD 0)) key (a + 8) (bytes.drop 8) (mask / 256)
      (marks.drop 1) n

/-- The tag of a pair set where a granule carries it and neither word is poisoned (R243). -/
def State.carryTag (s : State) (a : Nat) (tag : Bool) : State :=
  if tag && !s.poisoned a && !s.poisoned (a + 8) then s.setTagAt a true else s

/-- A granule of 32 bytes written under its byte mask (R243). -/
def State.putGranule (s : State) (key a : Nat) (f : Flit) : State :=
  let s := s.putWords key a f.data f.bmask f.psn 4
  if f.ct then (s.carryTag a (bit f.tags 0)).carryTag (a + 16) (bit f.tags 1) else s

/-! ## Flags as their waiters see them (R177) -/

/-- Count of a flag word in scratchpad, and the mark of the flag or, failing that, of its word. -/
def State.flagAt (s : State) (a : Nat) : Nat × Nat :=
  let w := s.val (a / 8 * 8) 8
  if s.poisoned a then (flagCount w, w % 256 + 1)
  else (flagCount w, if flagCls w = 0 then 0 else flagCls w + 1)

/-- Origin of a poisoned flag as a waiter takes it (R421): the flag's, or its home's when its word is poisoned. -/
def State.flagFrom (s : State) (a : Nat) : Nat :=
  if s.poisoned a then originTile (spadTile a) else flagOrigin (s.val (a / 8 * 8) 8)

/-- A condition on a count and a mark is decided: poisoned, or met. -/
def decided (cm : Nat × Nat) (eq : Bool) (threshold : Nat) : Bool := cm.2 != 0 || meets eq cm.1 threshold

/-! ## Waiters of a word -/

/-- The monitor whose answer reaches its thread in this cycle: a FIRE at the head of the plane B queue (R35, R177). -/
def Tile.answering (x : Tile) (mons : List WaitMon) : Option WaitMon :=
  match x.ejB with
  | f :: _ => if f.op == .fire && !x.passedB then mons.find? fun m => m.armed && m.tag == f.tag else none
  | [] => none

/-- A decided own-tile monitor ends its thread's FWAIT, clean or with a class, unless the answer for a lower one reaches the
thread in the same cycle (R177). -/
def State.wakeBy (s : State) (t h : Nat) (m : WaitMon) (cls : Option Nat) : State :=
  match (s.thr t h).wait with
  | .fwait _ mons _ _ =>
    match (s.tile t).answering mons with
    | some l => if l.idx < m.idx then s else s.fwaitEnd t h (monResult m cls)
    | none => s.fwaitEnd t h (monResult m cls)
  | _ => s

/-- The own-tile monitors of a thread on a word: the lowest that is decided ends its FWAIT, or is kept until the writes of its
cycle have all been made (R177). A poll evaluates them only at W. -/
def State.wakeOwn (s : State) (t a h : Nat) : State :=
  match (s.thr t h).wait with
  | .fwait _ mons _ timeout =>
    if timeout == some 0 || (s.tile t).halt != .running then s
    else
      let cm := s.flagAt a
      match mons.find? fun m => m.own && m.flag == gaSpad t (a % 2 ^ 19 / 8 * 8) && decided cm m.eq m.threshold with
      | some m =>
        let cls := if cm.2 = 0 then none else some (cm.2 - 1)
        match s.batch with
        | none => s.wakeBy t h m cls
        | some l => { s with batch := some (l ++ [(t, h, m, cls)]) }
      | none => s
  | _ => s

/-- From here on the monitors that a cycle's accesses decide are kept. -/
def State.collect (s : State) : State := { s with batch := some [] }

/-- Of the monitors kept the lowest of each thread ends its FWAIT (R177). -/
def State.wakeAll (s : State) : State :=
  let l := s.batch.getD []
  (l.filter fun x => !l.any fun y => y.1 == x.1 && y.2.1 == x.2.1 && decide (y.2.2.1.idx < x.2.2.1.idx)).foldl
    (fun s x => s.wakeBy x.1 x.2.1 x.2.2.1 x.2.2.2) { s with batch := none }

/-- Accesses of one cycle performed together. -/
def State.together (s : State) (act : State → State) : State :=
  if s.batch.isSome then act s else (act s.collect).wakeAll

/-- Answer of a home to an arm that is decided. -/
def fireFlit (cm : Nat × Nat) (origin : Nat) : Flit :=
  { op := .fire, found := true, opndMark := cm.2, cls := cm.2 - 1, origin := origin }

/-- An arm registered at a tile fires when its condition is decided, and frees its entry (R178). -/
def State.fireArms (s : State) (t a : Nat) : State :=
  let cm := s.flagAt a
  let hit := fun (f : Flit) => f.op == .arm && f.ga % 2 ^ 19 / 8 == a % 2 ^ 19 / 8 && decided cm (f.cmp == 1) f.opnd
  let x := s.tile t
  let s' := s.setTile t { x with monitors := x.monitors.filter fun f => !hit f }
  (x.monitors.filter hit).foldl (fun s f => s.answer (.tile t) f (fireFlit cm (s.flagFrom a))) s'

/-- What a wait flag in a tile's own scratchpad shows an engine once it is decided: mark (0 met) and origin. A stored
error in the word is left for the read that finds it (R207). -/
def State.engineFlag (s : State) (t flag wn : Nat) : Option (Nat × Nat) :=
  let a := spad t (gaOff flag)
  if s.errUnc.contains (a / 8) || s.errTag.contains (a / 16) then none
  else if decided (s.flagAt a) false wn then some ((s.flagAt a).2, s.flagFrom a) else none

/-- An engine's wait flag lies in its own tile. -/
def ownFlag (pkg t flag : Nat) : Bool := flag != 0 && homeOf pkg (tileY t) flag == (.tile t, none)

/-- A copy command that waits on its own tile's flag has its condition decided (R229). -/
def CopyCmd.watch (c : CopyCmd) (s : State) (t : Nat) : CopyCmd :=
  if c.state == .waiting && c.met.isNone && ownFlag s.pkg t c.wf then { c with met := s.engineFlag t c.wf c.wn } else c

/-- The same for a matrix command at the head of its tile's queue (R258). -/
def MatCmd.watch (m : MatCmd) (s : State) (t : Nat) : MatCmd :=
  if m.met.isNone && ownFlag s.pkg t m.wf then { m with met := s.engineFlag t m.wf m.wn } else m

/-- The head of a tile's matrix queue looks at its flag. -/
def State.watchHead (s : State) (t : Nat) : State :=
  match (s.tile t).matq with
  | m :: r => s.updTile t fun y => { y with matq := m.watch s t :: r }
  | [] => s

/-- The engines of a running tile look at a word that has been written, as FWAIT monitors do (R210, R229, R258). -/
def State.watchEngines (s : State) (t a : Nat) : State :=
  if (s.tile t).halt != .running then s
  else
    let here := fun (flag : Nat) => flag != 0 && gaOff flag / 8 == a % 2 ^ 19 / 8
    let s := if (s.tile t).copyq.any fun x => here x.2.wf then
        s.updTile t fun y => { y with copyq := y.copyq.map fun x => if here x.2.wf then (x.1, x.2.watch s t) else x }
      else s
    match (s.tile t).matq with
    | m :: _ => if here m.wf then s.watchHead t else s
    | [] => s

/-- Every write performed at a word re-evaluates its monitor entries and own-tile watches (R210). -/
def State.touch (s : State) (a : Nat) : State :=
  if isSpad a then
    let t := spadTile a
    ((List.range 8).foldl (fun s h => s.wakeOwn t a h) (s.fireArms t a)).watchEngines t a
  else s

/-- The other word of the pair of a. -/
def pairedWord (a : Nat) : Nat := a / 16 * 16 + (8 - a / 8 % 2 * 8)

/-- A read meets the word's stored error, or its pair's; a word rewritten poisoned counts as a write (R207, R210). -/
def State.look (s : State) (a : Nat) : State :=
  let s' := s.detect a
  let s1 := if s'.poisoned a == s.poisoned a then s' else s'.touch a
  if !isSpad a || s'.poisoned (pairedWord a) == s.poisoned (pairedWord a) then s1 else s1.touch (pairedWord a)

def State.lookWords (s : State) (a : Nat) : Nat → State
  | 0 => s
  | n + 1 => State.lookWords (s.look a) (a + 8) n

/-- n bytes within one word as a read gives them: value and mark (R160). -/
def State.readAt (s : State) (key a n : Nat) : Nat × Nat := (leNat (s.keyedBytes key a n), s.mark a)

/-- The waiters of the pair's other word, where a write to the word at a found its tag parity wrong and rewrote both poisoned
(R207, R210): s is the state before the write. -/
def State.touchPair (s' s : State) (a : Nat) : State :=
  if s.errTag.contains (a / 16) && s'.poisoned (pairedWord a) != s.poisoned (pairedWord a) then s'.touch (pairedWord a) else s'

/-- A write of one element, with its waiters. -/
def State.store (s : State) (key a n v mark : Nat) : State := ((s.put key a n v mark).touch a).touchPair s a

/-- The waiters of n words. -/
def State.touchWords (s : State) (a : Nat) : Nat → State
  | 0 => s
  | n + 1 => State.touchWords (s.touch a) (a + 8) n

/-! ## Full and empty (R173, R174) -/

/-- Own-tile threads that wait on a word's FE are woken and re-issue. -/
def State.wakeFe (s : State) (t a h : Nat) : State :=
  if (s.thr t h).wait == .fe (a / 8 * 8) then s.resume t h else s

/-- The oldest registered remote request that the word's FE satisfies is performed in the same step; its change may
satisfy the next. -/
def State.feStep (s : State) (t a : Nat) : Nat → State
  | 0 => s
  | n + 1 =>
    let full := s.fe a
    match takeFirst (fun f : Flit => f.ga % 2 ^ 19 / 8 == a % 2 ^ 19 / 8 && f.op == (if full then .ldc else .stp))
        (s.tile t).monitors with
    | none => s
    | some (f, rest) =>
      let s := s.updTile t fun x => { x with monitors := rest }
      let w := a / 8 * 8
      if full then
        let s := s.look w
        let r := s.readAt 0 w 8
        State.feStep (((s.setFe w false).answer (.tile t) f { op := .fire, data := natLe 8 r.1, psn := [r.2] }).touch w) t a n
      else
        State.feStep ((((s.put 0 w 8 f.opnd f.opndMark).setFe w true).answer (.tile t) f { op := .fire }).touch w) t a n

/-- FE of a scratchpad word takes a value; a change hands the word to its waiters (R174). -/
def State.feTo (s : State) (a : Nat) (b : Bool) : State :=
  if s.fe a = b then s
  else
    let t := spadTile a
    let s := (s.setFe a b).feStep t a 65
    (List.range 8).foldl (fun s h => s.wakeFe t (a % 2 ^ 19) h) s

/-! ## Capability pairs (R166) -/

/-- The pair at a: value and mark of each word, and the tag. -/
def State.readCap (s : State) (key a : Nat) : ((Nat × Nat) × (Nat × Nat)) × Bool :=
  let lo := s.readAt key a 8
  let hi := s.readAt key (a + 8) 8
  ((lo, hi), lo.2 == 0 && hi.2 == 0 && s.tagAt a)

/-- A register as LDCAP reads the pair at an address, from the value and mark of each word and the tag: poison names the
poisoned word, the low one of two (DESIGN CHOICE, log 105). -/
def capOf (lo hi : Nat × Nat) (tag : Bool) (ga : Nat) : GReg :=
  if lo.2 ≠ 0 then markedReg 0 lo.2 ga
  else if hi.2 ≠ 0 then markedReg 0 hi.2 (ga + 8)
  else if tag then capReg (BitVec.ofNat 64 hi.1) (BitVec.ofNat 64 lo.1)
  else dataReg (BitVec.ofNat 64 lo.1)

/-- A pair written by a capability store; `tagged`: the register held a capability and the home keeps its tag. -/
def State.storeCap (s : State) (key a lo hi mark : Nat) (tagged : Bool) : State :=
  let s := (s.put key a 8 lo mark).put key (a + 8) 8 hi mark
  let s := if tagged && isSpad a && !s.poisoned a && !s.poisoned (a + 8) then s.setTagAt a true else s
  s.touchWords a 2

/-! ## Atomics (R170-R172) -/

def atomWidth : AtomTy → Nat
  | .i64 => 8
  | _ => 4

/-- RNE with subnormals kept (Table 7.2). -/
def atomRnd : RCtx := { mode := .rne }

/-- Table 7.2; x, y and z at the type's width. -/
def atomNew (fn : AtomFn) (ty : AtomTy) (x y z : Nat) : Nat :=
  let w := 8 * atomWidth ty
  let fadd (f : Fmt) (x y : Nat) : Nat := f.round atomRnd (fsum .rne [f.read x, f.read y]).exact
  let pick (wantMax : Bool) : Nat :=
    match ty with
    | .f32 => fmtF32.minMax wantMax x y
    | .n32 => if wantMax then Nat.max x y else Nat.min x y
    | _ => if (sgn w x < sgn w y) == wantMax then y else x
  match fn with
  | .add =>
    match ty with
    | .f32 => fadd fmtF32 x y
    | .bf16x2 => fadd fmtBF16 (x % 2 ^ 16) (y % 2 ^ 16) + fadd fmtBF16 (x / 2 ^ 16) (y / 2 ^ 16) * 2 ^ 16
    | _ => (x + y) % 2 ^ w
  | .min => pick false
  | .max => pick true
  | .and => x &&& y
  | .or => x ||| y
  | .xor => x ^^^ y
  | .swap => y
  | .cas => if x = z then y else x

/-- What an atomic gives back: the old value with the mark that gD takes, the mark its flag is signalled with, and
whether that class was carried from the issuer (R421). -/
structure AtomAnswer where
  old : Nat
  mark : Nat
  sig : Nat
  carried : Bool
  deriving DecidableEq, Repr

/-- The cases of R172, in order; y and z carry marks. -/
def State.atomic (s : State) (key a : Nat) (fn : AtomFn) (ty : AtomTy) (y ym z zm : Nat) : AtomAnswer × State :=
  let s := s.look a
  let n := atomWidth ty
  let x := s.readAt key a n
  let y := y % 2 ^ (8 * n)
  let z := z % 2 ^ (8 * n)
  if x.2 ≠ 0 then
    if ym ≠ 0 ∧ fn ≠ .cas then (⟨x.1, x.2, ym, true⟩, s.store key a n 0 ym)
    else (⟨x.1, x.2, x.2, false⟩, s)
  else if fn = .cas ∧ zm ≠ 0 then (⟨x.1, atTarget zm, 0, false⟩, s)
  else if fn = .cas ∧ ym = 0 ∧ x.1 ≠ z then (⟨x.1, 0, 0, false⟩, s)
  else if ym ≠ 0 then (⟨x.1, 0, ym, true⟩, s.store key a n 0 ym)
  else (⟨x.1, 0, 0, false⟩, s.store key a n (atomNew fn ty x.1 y z) 0)

/-- The old value as gD receives it (R171). -/
def atomOld (ty : AtomTy) (x : Nat) : Nat :=
  match ty with
  | .i32 => wrapInt 64 (sgn 32 x)
  | .i64 => x % 2 ^ 64
  | _ => x % 2 ^ 32

/-! ## SCRUB (R308) -/

/-- One word cleaned. -/
def State.clean (s : State) (a : Nat) : State :=
  (((s.forgetErr a).setPoisoned a false).setTagAt a false).setVal a 8 0

def State.cleanWords (s : State) (a : Nat) : Nat → State
  | 0 => s
  | n + 1 => State.cleanWords (s.clean a) (a + 8) n

def State.fillWords (s : State) (a : Nat) : Nat → State
  | 0 => s
  | n + 1 => State.fillWords ((s.touch a).feTo a true) (a + 8) n

/-- 64 bytes cleaned in one step; in scratchpad every word becomes full. -/
def State.scrub (s : State) (key a : Nat) : State :=
  let s := s.cleanWords a 8
  if isSpad a then s.fillWords a 8 else { s with keyOf := mset 0 s.keyOf (a / 64) key }

/-! ## Signals (R167) -/

/-- A signal performed at a flag word in scratchpad; a poisoned word discards it. -/
def State.signalAt (s : State) (a n cls origin : Nat) : State :=
  let a := a / 8 * 8
  let s := s.look a
  let s := if s.poisoned a then s
    else (s.setTagAt a false).setVal a 8 (signalled (s.val a 8) n cls origin)
  s.touch a

/-- The launch flag of an MMIO address (Table 17.1). -/
def launchFlag (ga : Nat) : Option Nat :=
  let a := gaAddr ga
  if 0x0100_0000 ≤ a ∧ a < 0x0100_2000 ∧ a % 8 = 0 then some ((a - 0x0100_0000) / 8) else none

def State.lflag (s : State) (f : Nat) : Nat := (mget 0 s.lflags f).toNat

def State.lflagAt (s : State) (f : Nat) : Nat × Nat :=
  let w := s.lflag f
  (flagCount w, if flagCls w = 0 then 0 else flagCls w + 1)

/-- Arms registered on a launch flag fire when decided. -/
def State.fireLaunch (s : State) (f : Nat) : State :=
  let cm := s.lflagAt f
  let x := s.ioDie 0
  let hit := fun (g : Flit) => launchFlag g.ga == some f && decided cm (g.cmp == 1) g.opnd
  let s' := s.setIo 0 { x with monitors := x.monitors.filter fun g => !hit g }
  (x.monitors.filter hit).foldl (fun s g => s.answer (.io 0) g (fireFlit cm (flagOrigin (s.lflag f)))) s'

/-- A launch flag takes a word; its waiters are evaluated. -/
def State.setLflag (s : State) (f w : Nat) : State :=
  { s with lflags := mset 0 s.lflags f (BitVec.ofNat 64 w) }.fireLaunch f

def State.signalLaunch (s : State) (f n cls origin : Nat) : State :=
  s.setLflag f (signalled (s.lflag f) n cls origin)

/-- A write-pointer write (R211, R241): the count, and a class as a signal would set it; discarded at a poisoned
word. -/
def State.pointerAt (s : State) (a b cls origin : Nat) : State :=
  let s := s.look a
  let s := if s.poisoned a then s
    else
      let w := pointed (s.val a 8) b
      (s.setTagAt a false).setVal a 8 (if cls = 0 then w else signalled w 0 cls origin)
  s.touch a

end Sys2Proof.Machine
end

