-- ==== Sys2Proof/Machine/Bank.lean ====
section
/-! DEFINITION. Task records, pending blocks, the queue bank and the cuff (R276-R279, R282-R284), as they are performed
at the owner; cancelling (R290) and delivery (R286-R288). -/
namespace Sys2Proof.Machine

/-! ## Records (R276) -/

/-- Slot tag and word of one word of a pair. -/
def slotOf (tagged : Bool) (w mark : Nat) : Nat × Word :=
  if tagged then (1, BitVec.ofNat 64 w) else if mark ≠ 0 then (2, BitVec.ofNat 64 (mark - 1)) else (0, BitVec.ofNat 64 w)

/-- The six slots of a record at a flat address. -/
def State.readSlots (s : State) (a : Nat) : Nat → List (Nat × Word)
  | 0 => []
  | n + 1 =>
    let lo := s.readAt 0 a 8
    let hi := s.readAt 0 (a + 8) 8
    let tagged := s.tagAt a && lo.2 == 0 && hi.2 == 0
    slotOf tagged lo.1 lo.2 :: slotOf tagged hi.1 hi.2 :: State.readSlots s (a + 16) n

/-- The record that the memory unit of a tile builds from 64 bytes of its scratchpad. -/
def State.readRec (s : State) (t a : Nat) : TaskRec × State :=
  let s := s.lookWords a 8
  let c := s.readAt 0 a 8
  let id := s.readAt 0 (a + 8) 8
  ({ ctrlMark := c.2, prio := bits c.1 20 19, entry := bits c.1 18 0,
     taskid := BitVec.ofNat 64 (if id.2 = 0 then id.1 else id.2 - 1), tpsn := id.2 != 0,
     slots := s.readSlots (a + 16) 3, builder := t }, s)

def atagOf : List (Nat × Word) → Nat
  | [] => 0
  | x :: xs => x.1 % 4 + 4 * atagOf xs

/-- The eight words of a record (Table 12.1); a poisoned CTRL word holds its class. -/
def recWords (r : TaskRec) : List Nat :=
  (if r.ctrlMark ≠ 0 then r.ctrlMark - 1
   else boolNat r.tpsn * 2 ^ 36 + atagOf r.slots * 2 ^ 24 + r.prio * 2 ^ 19 + r.entry) ::
  r.taskid.toNat :: r.slots.map fun x => x.2.toNat

/-- The slots of a record read from its words, with the tags of its CTRL word; a word read poisoned is a poisoned
slot. -/
def slotsFrom (atag : Nat) : List (Nat × Nat) → List (Nat × Word)
  | [] => []
  | (w, m) :: ws =>
    (if m ≠ 0 then (2, BitVec.ofNat 64 (m - 1)) else (atag % 4, BitVec.ofNat 64 w)) :: slotsFrom (atag / 4) ws

/-- A capability half whose other half is poisoned is data. -/
def pairUp : List (Nat × Word) → List (Nat × Word)
  | x :: y :: r =>
    (if x.1 = 1 ∧ y.1 ≠ 1 then (0, x.2) else x) :: (if y.1 = 1 ∧ x.1 ≠ 1 then (0, y.2) else y) :: pairUp r
  | l => l

/-- The record whose words, with marks, are given. -/
def recOf (builder : Nat) (ws : List (Nat × Nat)) : TaskRec :=
  let c := ws.headD (0, 0)
  let id := ws.getD 1 (0, 0)
  { ctrlMark := c.2, prio := bits c.1 20 19, entry := bits c.1 18 0,
    taskid := BitVec.ofNat 64 (if id.2 = 0 then id.1 else id.2 - 1), tpsn := id.2 != 0 || (c.2 == 0 && bit c.1 36),
    slots := pairUp (slotsFrom (bits c.1 35 24) ((ws.drop 2).take 6)), builder := builder }

/-- Capability halves become data when a record crosses to another package. -/
def TaskRec.untag (r : TaskRec) : TaskRec := { r with slots := r.slots.map fun x => (if x.1 = 1 then 0 else x.1, x.2) }

/-! ## The cuff (R284) -/

/-- Virtual address of an entry of the cuff. -/
def Cuff.place (k : Cuff) (i : Nat) : Nat := k.base + 128 * ((k.head + i) % 2 ^ k.log2)

/-- The stamp of R282 as the entry holds it after the record, with the mark of a poisoned CTRL word: the entry's own words
stay clean, so that a later record of the place is read as it is written (R161; log 17). -/
def stampWords (b : BankRec) : List Nat :=
  [b.ring + 16 * b.level, b.stamp, (match b.block with | some a => a | none => 0), b.r.ctrlMark, 0, 0, 0, 0]

/-! ## Stored errors of the bank (R284, R388) -/

/-- A record as a read of the bank's words gives it: a word with an uncorrectable error is poisoned with class 0x01. -/
def BankRec.read (b : BankRec) : BankRec :=
  if b.unc.isEmpty then { b with one := [] }
  else
    let ws := (recWords b.r).zipIdx.map fun x =>
      if b.unc.contains x.2 then (x.1, 2) else (x.1, if x.2 = 0 then b.r.ctrlMark else 0)
    { b with r := recOf b.r.builder ws, unc := [], one := [] }

/-- A read of a record's words in a cluster's bank: corrected errors are counted, the record named by its order. -/
def State.readBank (s : State) (c : Nat) (b : BankRec) : BankRec × State :=
  (b.read, b.one.foldl (fun s w => if b.unc.contains w then s else s.charge 0 (bankUnit c) b.order) s)

/-- The scrubber's read of a record of the bank. -/
def State.lookBankRow (s : State) (c row : Nat) : State :=
  match (s.cluster c).bank[row]? with
  | none => s
  | some b =>
    let r := s.readBank c b
    r.2.updCluster c fun x => { x with bank := x.bank.map fun y => if y.order = b.order then r.1 else y }

def State.clusterCtx (s : State) (c : Nat) : Nat := (s.tile (clusterTile c 0)).ctx

/-- A record written to the cuff; false where it has no room or its next page cannot be written. -/
def State.cuffWrite (s : State) (c : Nat) (b : BankRec) : Bool × State :=
  match (s.cluster c).cuff with
  | none => (false, s)
  | some k =>
    if 2 ^ k.log2 ≤ k.entries.length then (false, s)
    else
      let va := k.place k.entries.length
      let ctx := s.clusterCtx c
      let w := s.vwrites ctx va (recWords b.r ++ stampWords b)
      if !w.1 then (false, w.2)
      else
        (true, w.2.updCluster c fun x => { x with cuff := some { k with entries := k.entries ++ [b] } })

/-- An access to the queue bank waits while the bank copies a row to its spare (R399). -/
def State.unlessMending (s : State) (c : Nat) (act : Host.Outcome State Fault Refusal) : Host.Outcome State Fault Refusal :=
  if (s.cluster c).mending.contains 1 then .next s else act

/-! ## Pushes (R279) -/

/-- A record offered to the queue bank of a cluster: it enters the bank, else the cuff, else is refused. -/
def State.push (s : State) (c ring : Nat) (r : TaskRec) (block : Option Nat) : Bool × State :=
  let x := s.cluster c
  let b : BankRec := { r := r, ring := ring, level := if r.ctrlMark = 0 then r.prio else 0, stamp := x.counter,
                       block := block, order := x.bankOrder, pushed := x.bankOrder }
  if x.bank.length < 1024 then (true, s.setCluster c { x with bank := x.bank ++ [b], bankOrder := x.bankOrder + 1 })
  else (s.setCluster c { x with bankOrder := x.bankOrder + 1 }).cuffWrite c b

/-! ## Pending blocks (R277, R278): a is the flat address of the block -/

/-- The block's record is pushed, with its CTRL word poisoned where a mark is given; STATE tells the outcome. -/
def State.pushBlock (s : State) (a ctrlMark : Nat) : Bool × State :=
  let t := spadTile a
  let r := s.readRec t (a + 64)
  let r' := if ctrlMark = 0 then r.1 else { r.1 with ctrlMark := ctrlMark }
  let p := r.2.push (clusterOf t) (inCluster t) r' (some (gaSpad t (a % 2 ^ 19)))
  (p.1, p.2.store 0 a 8 (if p.1 then 2 else 1) 0)

/-- A TDEC performed at the owner; false where the push it makes is refused. A retry is a re-drive. -/
def State.tdec (s : State) (a : Nat) (redrive : Bool) : Bool × State :=
  let s := (s.look a).look (a + 56)
  let st := s.readAt 0 a 8
  let n := s.readAt 0 (a + 56) 8
  let less (s : State) : State := s.store 0 (a + 56) 8 ((n.1 + 2 ^ 64 - 1) % 2 ^ 64) 0
  if redrive then
    if st.2 ≠ 0 then (if n.2 = 0 then s.pushBlock a st.2 else (true, s))
    else if st.1 = 1 then s.pushBlock a 0
    else (true, s)
  else if st.2 ≠ 0 then
    if n.2 = 0 then
      let s := less s
      if n.1 = 1 then s.pushBlock a st.2 else (true, s)
    else (true, s)
  else if st.1 = 1 then s.pushBlock a 0
  else if n.2 ≠ 0 then (if st.1 = 0 then s.pushBlock a n.2 else (true, s))
  else
    let s := less s
    if n.1 = 1 ∧ st.1 = 0 then s.pushBlock a 0 else (true, s)

/-- A TCANCEL performed at the owner: status and mark (Table 12.4). -/
def State.tcancel (s : State) (a : Nat) : (Nat × Nat) × State :=
  let s := s.look a
  let st := s.readAt 0 a 8
  let t := spadTile a
  let ga := gaSpad t (a % 2 ^ 19)
  if st.2 ≠ 0 then ((0, st.2), s)
  else if st.1 = 0 then ((0, 0), s.store 0 a 8 4 0)
  else if st.1 = 1 ∨ st.1 = 2 then
    let s := s.updCluster (clusterOf t) fun x => { x with
      bank := x.bank.filter (fun b => b.block != some ga),
      cuff := match x.cuff with
        | some k => some { k with entries := k.entries.map fun b => if b.moved.block = some ga then { b with void := true } else b }
        | none => none }
    ((1, 0), s.store 0 a 8 4 0)
  else if st.1 = 3 then ((2, 0), s)
  else ((3, 0), s)

/-! ## Promotion, spill and refill (R283, R284) -/

/-- A record that has waited 65,536 cc at its level moves to the tail of the next; the oldest such is taken. -/
def promotable (counter : Nat) (b : BankRec) : Bool := b.level < 3 && b.stamp + 65536 * (b.ups + 1) ≤ counter

def State.promote (s : State) (c : Nat) : State :=
  s.updCluster c fun x =>
    if x.bank.any (promotable x.counter) then
      { x with bankOrder := x.bankOrder + 1,
               bank := updFirst (promotable x.counter)
                 (fun b => { b with level := b.level + 1, ups := b.ups + 1, order := x.bankOrder }) x.bank }
    else x

/-- The most recently pushed record of a bank. -/
def newest (l : List BankRec) : Option BankRec :=
  l.foldl (fun o b => match o with | some p => if p.pushed < b.pushed then some b else o | none => some b) none

/-- A cuff engine stopped by an unmapped page tells the supervisor (R284, R350). -/
def State.stopCuff (s : State) (c va : Nat) (write : Bool) (level reason entry : Nat) : State :=
  let ctx := s.clusterCtx c
  let s := s.updCluster c fun x => { x with
    cuff := match x.cuff with | some k => some { k with stopped := true } | none => none,
    parked := x.parked ++ [{ agent := .cuff, ctx := ctx, va := va, write := write, read := !write, user := false }] }
  s.sendRecord ctx (clusterTile c 0) (faultWords (clusterTile c 0) 0 write 0 level reason 3 va c entry)

/-- Whether the cuff's next page can be accessed; if not, the engine stops. -/
def State.cuffPage (s : State) (c va : Nat) (write : Bool) : Bool × State :=
  let r := s.walk (s.clusterCtx c) va { write := write, read := !write, user := false }
  match r.1.1 with
  | .ok _ _ _ => (true, r.2)
  | .fault l re e => (false, r.2.stopCuff c va write l re e)
  | _ => (false, r.2.updCluster c fun x => { x with
      cuff := match x.cuff with | some k => some { k with stopped := true } | none => none })

/-- One move from the bank to the cuff, while the bank holds more than 896 records. -/
def State.spillMove (s : State) (c : Nat) : State :=
  let x := s.cluster c
  match x.cuff, newest x.bank with
  | some k, some b =>
    if k.stopped || x.bank.length ≤ 896 || 2 ^ k.log2 ≤ k.entries.length then s
    else
      let p := s.cuffPage c (k.place k.entries.length) true
      if !p.1 then p.2
      else
        let r := p.2.readBank c b
        let s := r.2.setCluster c { r.2.cluster c with bank := x.bank.filter fun y => y.pushed != b.pushed }
        (s.cuffWrite c r.1).2
  | _, _ => s

/-- A thread of a tile waits in WFW. -/
def State.waits (s : State) (t : Nat) : Bool :=
  (s.tile t).halt == .running && (List.range 8).any fun h => (s.thr t h).run == .wfw

/-- Tiles of a cluster, by their number in it, that hold a waiting thread. -/
def State.waiting (s : State) (c : Nat) : List Nat := (List.range 8).filter fun k => s.waits (clusterTile c k)

/-- A waiting tile finds no record it can be served from. -/
def State.starved (s : State) (c : Nat) : Bool :=
  (s.waiting c).any fun k => !(s.cluster c).bank.any fun b => b.ring == k || b.ring == 8

/-- n words of an entry as the refill reads them from HBM, each with its mark (R207, R284). -/
def State.entryWords (s : State) (key a : Nat) : Nat → List (Nat × Nat) × State
  | 0 => ([], s)
  | n + 1 =>
    let s := s.detect a
    let r := State.entryWords s key (a + 8) n
    (s.readAt key a 8 :: r.1, r.2)

/-- The entry that the refill takes: its record as HBM now holds it, word by word, moved by the displacement it still has to
take (R363). -/
def State.refillRec (s : State) (c va : Nat) (b : BankRec) : BankRec × State :=
  let x := s.walk (s.clusterCtx c) va { write := false, read := true, user := false }
  match x.1.1 with
  | .ok ppa slot _ =>
    let r := x.2.entryWords (x.2.slotLoad slot) ppa 8
    let rec_ := recOf b.r.builder r.1
    ({ b with r := { rec_ with ctrlMark := if rec_.ctrlMark = 0 then b.r.ctrlMark else rec_.ctrlMark } }.moved, r.2)
  | _ => ({ b with r := recOf b.r.builder ((List.range 8).map fun _ => (2, 3)) }.moved, x.2)

/-- One move from the cuff to the tail of the record's ring, at the level its waiting has brought it to. -/
def State.refillMove (s : State) (c : Nat) : State :=
  let x := s.cluster c
  match x.cuff with
  | none => s
  | some k =>
    match k.entries with
    | [] => s
    | b :: rest =>
      if k.stopped || !(x.bank.length < 512 || (s.starved c && x.bank.length < 1024)) then s
      else
        let k' := { k with entries := rest, head := (k.head + 1) % 2 ^ k.log2 }
        if b.void then s.setCluster c { x with cuff := some k' }
        else
          let p := s.cuffPage c (k.place 0) false
          if !p.1 then p.2
          else
            let r := p.2.refillRec c (k.place 0) b
            let y := r.2.cluster c
            let ups := (y.counter - r.1.stamp) / 65536
            let r' := { r.1 with level := Nat.min 3 (r.1.level + (ups - r.1.ups)), ups := ups, order := y.bankOrder }
            r.2.setCluster c { y with cuff := some k', bank := y.bank ++ [r'], bankOrder := y.bankOrder + 1 }

/-! ## The dispenser (R286-R288) -/

/-- The oldest record of a ring and level. -/
def oldest (l : List BankRec) : Option BankRec :=
  l.foldl (fun o b => match o with | some p => if b.order < p.order then some b else o | none => some b) none

/-- Tiles of a cluster in the order after the dispenser pointer. -/
def after (p : Nat) : List Nat := (List.range 8).map fun i => (p + 1 + i) % 8

/-- The lowest-scored tile, ties to the first. -/
def lowestScore (score : Nat → Nat) : List Nat → Option Nat
  | [] => none
  | k :: ks =>
    match lowestScore score ks with
    | none => some k
    | some j => if score k ≤ score j then some k else some j

/-- The choice of R286: tile and record. -/
def State.choose (s : State) (c : Nat) : Option (Nat × BankRec) :=
  let x := s.cluster c
  let w := s.waiting c
  let levels := ([3, 2, 1, 0] : List Nat)
  match levels.find? fun l => x.bank.any fun b => b.level == l && (b.ring == 8 || w.contains b.ring) with
  | none => none
  | some l =>
    let ks := (after x.dispPtr).filter w.contains
    match ks.find? fun k => x.bank.any fun b => b.level == l && b.ring == k with
    | some k => (oldest (x.bank.filter fun b => b.level == l && b.ring == k)).map fun b => (k, b)
    | none =>
      match lowestScore (fun k => (s.tile (clusterTile c k)).score) ks, oldest (x.bank.filter fun b => b.level == l && b.ring == 8) with
      | some k, some b => some (k, b)
      | _, _ => none

/-- The thread of a tile that entered STATE 1 earliest. -/
def State.earliest (s : State) (t : Nat) : Option Nat :=
  ((List.range 8).filter fun h => (s.thr t h).run == .wfw).foldl (fun o h =>
    match o with | some p => if (s.thr t h).wfwSince < (s.thr t p).wfwSince then some h else o | none => some h) none

/-- The start of register gj from a slot. -/
def slotReg (builder : Nat) (slots : List (Nat × Word)) (j : Nat) : GReg :=
  let x := slots.getD (j - 1) (0, 0)
  let hi := slots.getD j (0, 0)
  if x.1 = 2 then poisonVal x.2.toNat builder
  else if x.1 = 1 then (if j % 2 = 1 then capReg hi.2 x.2 else {})
  else dataReg x.2

/-- The thread as a delivery leaves it (R287). -/
def Thread.deliver (th : Thread) (t imageSize : Nat) (r : TaskRec) : Thread :=
  let wr := fun (th : Thread) (j : Nat) (v : GReg) => th.wr (Fin.ofNat 16 j) v
  let th := { th with run := .rotation, wait := .none }
  if r.ctrlMark ≠ 0 then
    let p := poisonVal (r.ctrlMark - 1) r.builder
    { [1, 2, 3, 4, 5, 6, 12].foldl (fun th j => wr th j p) th with fbuf := [], wanted := [pcLine th.pc] }
  else
    let th := [1, 2, 3, 4, 5, 6].foldl (fun th j => wr th j (slotReg r.builder r.slots j)) th
    let th := wr th 12 (if r.tpsn then poisonVal r.taskid.toNat r.builder else dataReg r.taskid)
    let pc := BitVec.ofNat 64 (gaSpad t r.entry)
    { th with code := some (imageCode imageSize), pc := pc, fbuf := [], wanted := [pcLine pc] }

/-- One dispatch: the record leaves the bank and its thread starts; a block it came from becomes DISPATCHED. -/
def State.dispatchOne (s : State) (c : Nat) : State :=
  match s.choose c with
  | none => s
  | some (k, b) =>
    let t := clusterTile c k
    match s.earliest t with
    | none => s
    | some h =>
      let got := s.readBank c b
      let b := got.1
      let s := got.2.updCluster c fun x => { x with dispPtr := k, bank := x.bank.filter fun y => y.order != b.order }
      let s := match b.block with
        | some ga => s.store 0 (spad (gaTile ga) (gaOff ga)) 8 3 0
        | none => s
      s.updThr t h fun th => th.deliver t (s.tile t).imageSize b.r

end Sys2Proof.Machine
end

