-- ==== Sys2Proof/Machine/Operands.lean ====
section
/-! DEFINITION. Operand forms: general registers as data (R42, R104), the offset forms of IMM20 (R91), vector
registers by element and lane, scalar broadcasts (R44, R45, R139), masks, and the scalar float operand (R131). -/
namespace Sys2Proof.Machine

/-! ## Offsets -/

/-- OFF of the M form: a signed 19-bit value (R91). -/
def memOff (m : BitVec 20) : Int := sgn 19 m.toNat
/-- PI of the M form. -/
def memPi (m : BitVec 20) : Bool := bit m.toNat 19
def off19 (m : BitVec 19) : Int := sgn 19 m.toNat
def off16 (m : BitVec 16) : Int := sgn 16 m.toNat
/-- Sext(IMM20, 20). -/
def imm20 (m : BitVec 20) : Word := m.signExtend 64

/-! ## Integer operands (R104) -/

/-- A result computed from one register: a poisoned operand passes through. -/
def State.int1 (s : State) (d a : GIx) (f : Word → Word) : Host.Outcome State Fault Refusal :=
  let x := s.cur.rd a
  if x.isPoison then s.doneG d x else s.doneG d (dataReg (f x.low))

/-- A result computed from two registers: the first poisoned operand passes through. -/
def State.int2 (s : State) (d a b : GIx) (f : Word → Word → Word) : Host.Outcome State Fault Refusal :=
  let x := s.cur.rd a
  let y := s.cur.rd b
  match firstPoison [x, y] with
  | some p => s.doneG d p
  | none => s.doneG d (dataReg (f x.low y.low))

/-! ## Vector registers -/

/-- Element e of width w. -/
def VReg.elt (v : VReg) (w e : Nat) : Nat := v.val.toNat / 2 ^ (w * e) % 2 ^ w
/-- Poison mask bit j. -/
def VReg.bad (v : VReg) (j : Nat) : Bool := bit v.pmask.toNat j
/-- Class of a poisoned lane: its bits [7:0] (R44). -/
def VReg.cls (v : VReg) (j : Nat) : Nat := v.elt 32 j % 256
/-- A lane: its 32 bits and its poison bit. -/
def VReg.lane (v : VReg) (j : Nat) : Nat × Bool := (v.elt 32 j, v.bad j)

/-- A poisoned lane of class c. -/
def poisonLane (c : Nat) : Nat × Bool := (c % 256, true)

def lanesVal : List (Nat × Bool) → Nat
  | [] => 0
  | l :: ls => l.1 % 2 ^ 32 + 2 ^ 32 * lanesVal ls

def lanesMask : List (Nat × Bool) → Nat
  | [] => 0
  | l :: ls => boolNat l.2 + 2 * lanesMask ls

/-- The register with the sixteen lanes that f gives. -/
def mkVReg (f : Nat → Nat × Bool) : VReg :=
  let ls := (List.range 16).map f
  { val := BitVec.ofNat 512 (lanesVal ls), pmask := BitVec.ofNat 16 (lanesMask ls) }

/-- Elements packed from the lowest up, w bits each. -/
def packElts (w : Nat) : List Nat → Nat
  | [] => 0
  | x :: xs => x % 2 ^ w + 2 ^ w * packElts w xs

/-- Lane j of a register whose elements of width w are given by f. -/
def laneOf (w : Nat) (f : Nat → Nat) (j : Nat) : Nat :=
  packElts w ((List.range (32 / w)).map fun i => f (j * (32 / w) + i))

/-- Lane of element e of width w. -/
def laneIdx (w e : Nat) : Nat := e * w / 32

/-- A vector source field at element width w: a v register, or a general register broadcast (R45). -/
def Thread.vsrc (t : Thread) (w : Nat) (a : GIx) : VReg :=
  if a.val < 8 then t.rv (vReg a.val)
  else
    let r := t.rd a
    if r.isPoison then mkVReg fun _ => poisonLane r.cls
    else mkVReg fun j => (laneOf w (fun _ => r.low.toNat) j, false)

/-- Lane j is active under a mask register (R139). -/
def Thread.active (t : Thread) (k : KIx) (j : Nat) : Bool := bit (t.rk k).toNat j

/-- Class of the first source, in order, whose lane j is poisoned. -/
def firstBadLane (srcs : List VReg) (j : Nat) : Option Nat :=
  match srcs with
  | [] => none
  | v :: vs => if v.bad j then some (v.cls j) else firstBadLane vs j

/-- The destination of an instruction whose lane j takes its operands from lane j of each source (R139, R140). -/
def Thread.lanewise (t : Thread) (k : KIx) (d : VIx) (srcs : List VReg) (f : Nat → Nat) : VReg :=
  mkVReg fun j =>
    if t.active k j then
      match firstBadLane srcs j with
      | some c => poisonLane c
      | none => (f j, false)
    else (t.rv d).lane j

/-- The instruction retires having written vD. -/
def State.doneV (s : State) (d : VIx) (v : VReg) : Host.Outcome State Fault Refusal := s.done (s.cur.wv d v)

/-! ## Scalar float operands (R131) -/

/-- The F32 code of an operand: body [31:0]. -/
def GReg.f32 (r : GReg) : Nat := r.low.toNat % 2 ^ 32

def State.fp1 (s : State) (d a : GIx) (f : Nat → Nat) : Host.Outcome State Fault Refusal :=
  let x := s.cur.rd a
  if x.isPoison then s.doneG d x else s.doneG d (dataReg (BitVec.ofNat 64 (f x.f32)))

def State.fp2 (s : State) (d a b : GIx) (f : Nat → Nat → Nat) : Host.Outcome State Fault Refusal :=
  let x := s.cur.rd a
  let y := s.cur.rd b
  match firstPoison [x, y] with
  | some p => s.doneG d p
  | none => s.doneG d (dataReg (BitVec.ofNat 64 (f x.f32 y.f32)))

end Sys2Proof.Machine
end

