-- ==== Sys2Proof/Machine/Access.lean ====
section
/-! DEFINITION. The issue of memory accesses (R16-R20, R155-R159): operands and their checks, passes over the banks,
translation, requests and posted operations, and one function that performs an operation at its home, for the own
tile and for every other home alike. -/
namespace Sys2Proof.Machine

/-! ## Operands and checks (R155, R156) -/

/-- The spaces a row of Table 7.1 lists. -/
structure Spaces where
  scratch : Bool := true
  hbm : Bool := false
  mmio : Bool := false
  lflag : Bool := false
  deriving DecidableEq, Repr

def onlyScratch : Spaces := {}
def scratchHbm : Spaces := { hbm := true }
def loadStore : Spaces := { hbm := true, mmio := true }
def flagSpaces : Spaces := { lflag := true }

/-- One access of an operand: its number, its place relative to the cursor, its size, and how far it lies beyond the
place whose alignment is required. -/
structure Elem where
  idx : Nat := 0
  off : Int := 0
  size : Nat
  back : Nat := 0
  deriving DecidableEq, Repr

/-- A capability operand. -/
structure Opnd where
  reg : GReg
  field : Nat
  need : Nat
  sp : Spaces
  elems : List Elem
  align : Nat
  deriving DecidableEq, Repr

/-- Address of its first access (Table 8.1). -/
def Opnd.first (o : Opnd) : Nat :=
  match o.elems with
  | e :: _ => o.reg.eva e.off
  | [] => o.reg.low.toNat

/-- The capability's space is one that the row lists (R155, R181, R381). -/
def Opnd.spaceOk (o : Opnd) (pkg : Nat) : Bool :=
  match o.reg.kind with
  | .tile | .woven => o.sp.scratch
  | .hbm => o.sp.hbm
  | .mmio =>
    let a := gaAddr o.first
    let sizes := o.elems.all fun e => e.size == 4 || e.size == 8
    (gaLocal o.reg.low.toNat || gaPkg o.reg.low.toNat == pkg) &&
      ((o.sp.mmio && sizes) || (o.sp.lflag && 0x0100_0000 ≤ a && a < 0x0100_2000))
  | .bad => false

/-- Step 1 of R156. -/
def tagFault : List Opnd → Option (Nat × Nat)
  | [] => none
  | o :: os =>
    if o.reg.isPoison then some (causePoison, o.reg.cls)
    else if !o.reg.isCap then some (causeNotCap, o.field)
    else tagFault os

/-- Targets of an operand's accesses: their global addresses, or the step-6 failure. -/
def Opnd.targets (o : Opnd) (pkg : Nat) : List Elem → Except (Nat × Nat) (List (Elem × Nat × Bool))
  | [] => .ok []
  | e :: es =>
    match o.reg.reach pkg e.off e.size with
    | .bounds => .error (causeBounds, o.reg.eva e.off)
    | .crosses =>
      match Opnd.targets o pkg es with
      | .ok r => .ok ((e, 0, true) :: r)
      | .error x => .error x
    | .ok ga =>
      match Opnd.targets o pkg es with
      | .ok r => .ok ((e, ga, ga % 2 ^ 44 % o.align != e.back % o.align) :: r)
      | .error x => .error x

/-- Steps 6 and 7 over all operands: targets of each, as access and global address. -/
def targetsAll (pkg : Nat) : List Opnd → Except (Nat × Nat) (List (List (Elem × Nat × Bool)))
  | [] => .ok []
  | o :: os =>
    match o.targets pkg o.elems with
    | .error x => .error x
    | .ok r =>
      match targetsAll pkg os with
      | .ok rs => .ok (r :: rs)
      | .error x => .error x

/-- The first misaligned access (R155, R57). -/
def misaligned : List Opnd → List (List (Elem × Nat × Bool)) → Option Nat
  | o :: os, r :: rs =>
    match r.find? fun x => x.2.2 with
    | some x => some (o.reg.eva x.1.off)
    | none => misaligned os rs
  | _, _ => none

/-- The checks of R156 in order: targets of each operand, or cause and EVAL. `poison` is the class of a poisoned
offset, stride, timeout or threshold. -/
def State.checks (s : State) (ops : List Opnd) (poison : Option Nat) : Except (Nat × Nat) (List (List (Elem × Nat))) :=
  match tagFault ops with
  | some x => .error x
  | none =>
    match poison with
    | some c => .error (causePoison, c)
    | none =>
      match ops.find? fun o => !o.reg.grants o.need with
      | some o => .error (causePerm, o.first)
      | none =>
        if !s.cur.priv && ops.any (fun o => o.reg.kind == .mmio) then .error (causePriv, s.headTail)
        else
          match ops.find? fun o => !o.spaceOk s.pkg with
          | some o => .error (causePerm, o.first)
          | none =>
            match targetsAll s.pkg ops with
            | .error x => .error x
            | .ok rs =>
              match misaligned ops rs with
              | some a => .error (causeAlign, a)
              | none => .ok (rs.map fun r => r.map fun x => (x.1, x.2.1 - x.1.back))

/-! ## Performing an operation at its home -/

/-- What performing gives: words read with their marks, the tag of a pair, the mark its flag is signalled with, and
whether that class was carried from the issuer (R421). -/
structure Done where
  words : List (Nat × Nat) := []
  tag : Bool := false
  sig : Nat := 0
  carried : Bool := true
  deriving DecidableEq, Repr

/-- Waiters of the words of a 64-byte row that a mask names. -/
def State.touchMasked (s : State) (a mask : Nat) : Nat → State
  | 0 => s
  | n + 1 => State.touchMasked (if mask % 256 = 0 then s else s.touch a) (a + 8) (mask / 256) n

/-- The same for the words rewritten beside them (R207, R210): s is the state before the write. -/
def State.touchPairs (s' s : State) (a mask : Nat) : Nat → State
  | 0 => s'
  | n + 1 => State.touchPairs (if mask % 256 = 0 then s' else s'.touchPair s a) s (a + 8) (mask / 256) n

/-- The mark of the first poisoned word. -/
def firstMark (ms : List Nat) : Nat := (ms.find? fun m => m != 0).getD 0

/-- One operation performed at a flat address under a key, in one step (R214). -/
def State.performFlit (s : State) (key a : Nat) (f : Flit) : Done × State :=
  match f.op with
  | .load => let s := s.look a; ({ words := [s.readAt key a f.size] }, s)
  | .loadv => let s := s.together fun s => s.lookWords a 8; ({ words := (List.range 8).map fun i => s.readAt key (a + 8 * i) 8 }, s)
  | .loadcap =>
    let s := s.together fun s => s.lookWords a 2
    let p := s.readCap key a
    ({ words := [p.1.1, p.1.2], tag := p.2 }, s)
  | .store | .put => ({ sig := firstMark f.psn }, s.store key a f.size (leNat f.data) (firstMark f.psn))
  | .storev | .putv =>
    ({ sig := firstMark f.psn }, s.together fun s => ((s.putWords key a f.data f.bmask f.psn 8).touchMasked a f.bmask 8).touchPairs s a f.bmask 8)
  | .storecap =>
    ({}, s.together fun s => s.storeCap key a (leNat (f.data.take 8)) (leNat ((f.data.drop 8).take 8)) (firstMark f.psn) (f.tags == 1))
  | .atomic | .atomicr =>
    let r := s.atomic key a f.fn f.aty f.opnd f.opndMark f.cmp f.cmpMark
    ({ words := [(r.1.old, r.1.mark)], sig := r.1.sig, carried := r.1.carried }, r.2)
  | .ldc => let s := s.look a; ({ words := [s.readAt key a 8] }, s.feTo a false)
  | .stp => ({}, ((s.put key a 8 f.opnd f.opndMark).feTo a true).touch a)
  | .feset => ({}, s.feTo a (f.opnd == 1))
  | .scrub => ({}, s.together fun s => s.scrub key a)
  | .poison => ({}, s.store key a 8 0 9)
  | .granule => ({}, s.together fun s => ((s.putGranule key a f).touchMasked a f.bmask 4).touchPairs s a f.bmask 4)
  | .tcancel => let r := s.tcancel a; ({ words := [r.1] }, r.2)
  | _ => ({}, s)

/-- A write that carries poison, as a guarded page tests it (R307). -/
def carriesPoison (f : Flit) : Bool :=
  match f.op with
  | .poison => true
  | _ => firstMark f.psn != 0 || f.opndMark != 0

/-! ## Signals of own-tile operations -/

/-- The flag of an operation performed at the issuing tile is signalled after the write: at once on this tile, by a
signal elsewhere that PDRAIN awaits (R157, R168, R201). -/
def State.flagOwn (s : State) (ga n : Nat) (d : Done) : State :=
  let t := s.curTile
  let cls := d.sig - 1
  let org := originTile t
  if homeOf s.pkg (tileY t) ga = (.tile t, none) then s.signalAt (spad t (gaOff ga)) n cls org
  else s.sendSignal t s.curThr true s.cur.pc s.curHead ga n cls org

/-- A posted operation of a thread ends unperformed (R298, R302): it is logged and its flag takes the class. -/
def State.lostPosted (s : State) (t thr : Nat) (pc : Word) (head : Nat) (opnd : Word) (addr cls : Nat) (why : Reason)
    (origin flag : Nat) : State :=
  let s := s.logFault t { h := true, thr := thr, origin := origin, reason := why, head := head, cls := cls,
                          addr := BitVec.ofNat 64 addr, opnd := opnd, pc := pc }
  let flag := if flag = 0 then 0 else localise s.pkg flag
  if flag = 0 then s
  else if homeOf s.pkg (tileY t) flag = (.tile t, none) then s.signalAt (spad t (gaOff flag)) 0 cls origin
  else s.sendSignal t thr false pc head flag 0 cls origin

/-! ## Passes (R19) -/

/-- The accesses one pass serves: those in the row first needed of each bank. -/
def passOf (todo : List (Elem × Nat)) : List (Elem × Nat) :=
  todo.filter fun x =>
    match todo.find? fun y => Config.bankOf (gaOff y.2) == Config.bankOf (gaOff x.2) with
    | some y => gaOff y.2 / 64 == gaOff x.2 / 64
    | none => true

/-- The target is this tile's own. -/
def State.ownGa (s : State) (ga : Nat) : Bool := homeOf s.pkg (tileY s.curTile) ga == (.tile s.curTile, none)

/-- The target is HBM of this package, translated here (R159). -/
def State.hbmGa (s : State) (ga : Nat) : Bool := gaSpace ga == 1 && (gaLocal ga || gaPkg ga == s.pkg)

/-- Value and mark an element was served with. -/
def Thread.got (t : Thread) (e : Nat) : Nat × Nat := (t.served.lookup e).getD (0, 0)

/-! ## Translation at issue (R159, R347-R350) -/

/-- How an access to HBM leaves the translation: translated, or ended with a mark and an origin. -/
inductive Hx where
  | ok (ppa slot : Nat) (guarded : Bool)
  | ended (mark origin : Nat)
  deriving DecidableEq, Repr

inductive Xs where
  | ok (l : List (Elem × Nat × Hx))
  | miss (va : Nat)
  | refused (va : Nat)
  deriving DecidableEq, Repr

/-- The accesses translated in order; the first that misses or is refused for good decides. -/
def State.xlates (s : State) (need : Need) (acc : List (Elem × Nat × Hx)) : List (Elem × Nat) → Xs × State
  | [] => (.ok acc.reverse, s)
  | (e, ga) :: r =>
    let va := gaAddr ga
    match s.cur.walkEnds.lookup (va / 2 ^ 16) with
    | some (0, _) => (.refused va, s)
    | some (m, o) => State.xlates s need ((e, ga, .ended m o) :: acc) r
    | none =>
      let x := s.tlbLookup (clusterOf s.curTile) s.curT.ctx va need
      match x.1 with
      | some (ppa, slot, g) => State.xlates x.2 need ((e, ga, .ok ppa slot g) :: acc) r
      | none => (.miss va, x.2)

/-- A miss parks the thread until the walk ends, with nothing performed. -/
def State.askWalk (s : State) (va : Nat) (need : Need) : Host.Outcome State Fault Refusal :=
  let c := clusterOf s.curTile
  let w : WalkReq := { agent := .thread s.curTile s.curThr, ctx := s.curT.ctx, va := va, write := need.write,
                       read := need.read, user := need.user }
  (s.updCluster c fun x => { x with walks := x.walks ++ [w] }).park .walk

/-! ## Blocking accesses (R157) -/

/-- Entries of the pass buffer for an access that gave k words, from the number of its access on. -/
def entries (e : Nat) (d : Done) : List (Nat × Nat × Nat) :=
  (List.range d.words.length).map (fun i => (e + i, d.words.getD i (0, 0))) ++ (if d.tag then [(e + 2, 1, 0)] else [])

/-- Entries for an access that ended with a mark: each of the k words it would have given. -/
def deadEntries (e k mark : Nat) : List (Nat × Nat × Nat) := (List.range k).map fun i => (e + i, 0, atTarget mark)

/-- Own-tile accesses performed in their order. -/
def State.performOwn (s : State) (ask : Nat → Flit) : List (Elem × Nat) → List (Nat × Nat × Nat) × State
  | [] => ([], s)
  | (e, ga) :: r =>
    let x := s.performFlit 0 (spad s.curTile (gaOff ga)) (ask e.idx)
    let y := State.performOwn x.2 ask r
    (entries e.idx x.1 ++ y.1, y.2)

/-- The requests of a blocking instruction are sent and its thread parks. -/
def State.request (s : State) (i : Instr) (ask : Nat → Flit) (opnd : Word)
    (rs : List (Elem × Nat × Option (Nat × Nat × Bool))) : Host.Outcome State Fault Refusal :=
  let t := s.curTile
  let s := rs.foldl (fun s r =>
    s.post t (.request s.curThr) s.cur.pc s.curHead opnd r.2.1 r.2.2
      { ask r.1.idx with idx := r.1.idx, thr := s.curThr, sup := s.cur.priv }) s
  s.park (.resp i (rs.map fun r => r.1.idx))

/-- A blocking access: own-tile accesses in passes, then requests for the others; `fin` writes the destination from
what has been served and retires. k: words each access gives. -/
def State.blocking (s : State) (i : Instr) (o : Opnd) (poison : Option Nat) (need : Bool × Bool) (k : Nat)
    (opnd : Word) (ask : Nat → Flit) (fin : Thread → Thread) : Host.Outcome State Fault Refusal :=
  match s.checks [o] poison with
  | .error (c, v) => s.trap c v
  | .ok rs =>
    let tg := rs.headD []
    if tg.any fun x => s.hbmGa x.2 then
      let need : Need := { write := need.1, read := need.2, user := !s.cur.priv }
      let x := s.xlates need [] tg
      match x.1 with
      | .miss va => x.2.askWalk va need
      | .refused va => x.2.trap causeTrans va
      | .ok l =>
        let dead := l.flatMap fun y => match y.2.2 with | .ended m _ => deadEntries y.1.idx k m | _ => []
        let live := l.filterMap fun y => match y.2.2 with | .ok p sl g => some (y.1, y.2.1, some (p, sl, g)) | _ => none
        let s := x.2.setCur { x.2.cur with served := x.2.cur.served ++ dead }
        if live.isEmpty then .next (s.setCur (fin s.cur)) else s.request i ask opnd live
    else
      let todo := tg.filter fun x => s.ownGa x.2 && (s.cur.served.lookup x.1.idx).isNone
      let bad := s.refusing (todo.map fun x => gaOff x.2)
      if bad ≠ [] then s.forfeit (s.cur.retryBanks ++ bad)
      else
        let now := passOf todo
        let p := if now.length ≤ 1 ∨ s.batch.isSome = true then s.performOwn ask now else (let p := s.collect.performOwn ask now; (p.1, p.2.wakeAll))
        let s := p.2.setCur { p.2.cur with served := p.2.cur.served ++ p.1 }
        if now.length < todo.length then
          s.forfeit ((todo.filter fun x => !now.contains x).map fun x => Config.bankOf (gaOff x.2))
        else
          let far := tg.filter fun x => !s.ownGa x.2
          if far.isEmpty then .next (s.setCur (fin s.cur))
          else s.request i ask opnd (far.map fun x => (x.1, x.2, none))

/-! ## Posted operations (R157, R158) -/

/-- Own-tile accesses of a posted instruction performed in their order, each signalling the flag it names. -/
def State.performStores (s : State) (msg : Nat → Flit) (flag : Option Nat) : List (Elem × Nat) → State
  | [] => s
  | (e, ga) :: r =>
    let x := s.performFlit 0 (spad s.curTile (gaOff ga)) (msg e.idx)
    State.performStores (match flag with | some f => x.2.flagOwn f 1 x.1 | none => x.2) msg flag r

/-- The remote accesses of a posted instruction sent; those that translation ended are lost. -/
def State.sendStores (s : State) (msg : Nat → Flit) (flag : Option Nat) (opnd : Word) :
    List (Elem × Nat × Option Hx) → State
  | [] => s
  | (e, ga, x) :: r =>
    let t := s.curTile
    let fl := match flag with | some f => absGa s.pkg f | none => 0
    let f := { msg e.idx with idx := e.idx, flag := fl, thr := s.curThr, sup := s.cur.priv }
    let s := match x with
      | some (.ended m o) => s.lostPosted t s.curThr s.cur.pc s.curHead opnd ga (m - 1) .none o fl
      | some (.ok p sl g) => s.post t (.posted s.curThr) s.cur.pc s.curHead opnd ga (some (p, sl, g)) f
      | none => s.post t (.posted s.curThr) s.cur.pc s.curHead opnd ga none f
    State.sendStores s msg flag opnd r

/-- A posted operation, with its flag operand if it names one; `fin` makes its register writes and retires. -/
def State.posted (s : State) (o : Opnd) (fo : Option Opnd) (poison : Option Nat) (opnd : Word) (msg : Nat → Flit)
    (fin : Thread → Thread) : Host.Outcome State Fault Refusal :=
  match s.checks (o :: fo.toList) poison with
  | .error (c, v) => s.trap c v
  | .ok rs =>
    let tg := rs.headD []
    let flag := match rs with
      | [_, (_, ga) :: _] => some ga
      | _ => none
    let out := (tg.filter fun x => !s.ownGa x.2).map fun x => (msg x.1.idx).flast + 1
    let signals := match flag with
      | some f => if s.ownGa f then 0 else (tg.filter fun x => s.ownGa x.2).length
      | none => 0
    let n := out.foldl (· + ·) signals
    if n ≠ 0 ∧ s.retryRoom s.curTile n = false then s.park .retryFull
    else if tg.any fun x => s.hbmGa x.2 then
      let need : Need := { write := true, read := false, user := !s.cur.priv }
      let x := s.xlates need [] tg
      match x.1 with
      | .miss va => x.2.askWalk va need
      | .refused va => x.2.trap causeTrans va
      | .ok l =>
        let s := x.2.sendStores msg flag opnd (l.map fun y => (y.1, y.2.1, some y.2.2))
        .next (s.setCur (fin s.cur))
    else
      let todo := tg.filter fun x => s.ownGa x.2 && (s.cur.served.lookup x.1.idx).isNone
      let bad := s.refusing (todo.map fun x => gaOff x.2)
      if bad ≠ [] then s.forfeit (s.cur.retryBanks ++ bad)
      else
        let now := passOf todo
        let s := if now.length ≤ 1 then s.performStores msg flag now else s.together fun s => s.performStores msg flag now
        if now.length < todo.length then
          (s.setCur { s.cur with served := s.cur.served ++ now.map fun x => (x.1.idx, 0, 0) }).forfeit
            ((todo.filter fun x => !now.contains x).map fun x => Config.bankOf (gaOff x.2))
        else
          let s := s.sendStores msg flag opnd ((tg.filter fun x => !s.ownGa x.2).map fun x => (x.1, x.2, none))
          -- no lane is active: nothing is written, and the flag is signalled (log 23)
          let s := match tg, flag with
            | [], some f => s.flagOwn f 1 {}
            | _, _ => s
          .next (s.setCur (fin s.cur))

end Sys2Proof.Machine
end

