-- ==== Sys2Proof/Machine/Memory.lean ====
section
/-! DEFINITION. Loads, stores, puts, atomics and the synchronising class, majors 0x20-0x2A (R162-R175): each
instruction's operand, the operation it asks for, and what it leaves in its thread's registers. -/
namespace Sys2Proof.Machine

/-! ## Shared pieces -/

/-- An address operand with one access. -/
def addrOpnd (th : Thread) (a : GIx) (need : Nat) (sp : Spaces) (size : Nat) (off : Int) : Opnd :=
  { reg := th.rd a, field := a.val, need := need, sp := sp, elems := [{ off := off, size := size }], align := size }

/-- Offset of the access in the M form (R91). -/
def mOff (m : BitVec 20) : Int := if memPi m then 0 else memOff m

/-- Post-increment of the address register (R91, R54). -/
def Thread.postInc (th : Thread) (a : GIx) (m : BitVec 20) : Thread :=
  if memPi m then
    let r := th.rd a
    th.wr a (r.withCursor (BitVec.ofNat 64 (r.eva (memOff m))))
  else th

/-- A flag operand; g0 names none (R155, R168). -/
def flagOpnd (th : Thread) (c : GIx) : Option Opnd :=
  if c = 0 then none else some (addrOpnd th c permFL flagSpaces 8 0)

/-- Global address of an operand's access, the origin of the poison it yields (R160, R162). -/
def Opnd.ga (o : Opnd) (pkg : Nat) : Nat :=
  match o.elems with
  | e :: _ => match o.reg.reach pkg e.off e.size with | .ok ga => ga | _ => 0
  | [] => 0

/-- n bytes of a value as flit data. -/
def dataOf (n v : Nat) : List Byte := natLe n v

/-! ## LD, ST (R162) -/

def ldOpnd (th : Thread) (sz : Fin 4) (a : GIx) (m : BitVec 20) : Opnd :=
  addrOpnd th a permLD loadStore (2 ^ sz.val) (mOff m)

/-- The loaded value, extended. -/
def ldValue (z : Bool) (sz : Fin 4) (v : Nat) : Nat :=
  if z then v % 2 ^ (8 * 2 ^ sz.val) else wrapInt 64 (sgn (8 * 2 ^ sz.val) v)

def ldFin (pkg : Nat) (z : Bool) (sz : Fin 4) (d a : GIx) (m : BitVec 20) (th : Thread) : Thread :=
  let r := th.got 0
  ((th.postInc a m).wr d (markedReg (ldValue z sz r.1) r.2 ((ldOpnd th sz a m).ga pkg))).retire

def execLd (z : Bool) (sz : Fin 4) (d a : GIx) (m : BitVec 20) (s : State) : Host.Outcome State Fault Refusal :=
  s.blocking (.ld z sz d a m) (ldOpnd s.cur sz a m) none (false, true) 1 0
    (fun _ => { op := .load, size := 2 ^ sz.val }) (ldFin s.pkg z sz d a m)

def execSt (sz : Fin 4) (d a : GIx) (m : BitVec 20) (s : State) : Host.Outcome State Fault Refusal :=
  let v := (s.cur.postInc a m).rd d
  s.posted (addrOpnd s.cur a permST loadStore (2 ^ sz.val) (mOff m)) none none v.low
    (fun _ => { op := .store, size := 2 ^ sz.val, data := dataOf (2 ^ sz.val) v.low.toNat, psn := [v.mark] })
    fun th => (th.postInc a m).retire

/-! ## LDV, STV (R163) -/

/-- Lanes a mask makes active. -/
def Thread.lanes (th : Thread) (k : KIx) : List Nat := (List.range 16).filter fun j => th.active k j

/-- The 64-byte access: its active lanes are checked. -/
def rowOpnd (th : Thread) (a : GIx) (k : KIx) (m : BitVec 20) (need : Nat) : Opnd :=
  let ls := th.lanes k
  { reg := th.rd a, field := a.val, need := need, sp := scratchHbm, align := 64,
    elems := match ls with
      | [] => []
      | lo :: _ => [{ off := mOff m + 4 * lo, size := 4 * (ls.getLastD lo + 1 - lo), back := 4 * lo }] }

def ldvFin (d : VIx) (a : GIx) (k : KIx) (m : BitVec 20) (th : Thread) : Thread :=
  let v := mkVReg fun j =>
    if th.active k j then
      let r := th.got (j / 2)
      if r.2 = 0 then (r.1 / 2 ^ (32 * (j % 2)) % 2 ^ 32, false) else poisonLane (r.2 - 1)
    else (th.rv d).lane j
  ((th.postInc a m).wv d v).retire

def execLdv (d : VIx) (a : GIx) (k : KIx) (m : BitVec 20) (s : State) : Host.Outcome State Fault Refusal :=
  s.blocking (.ldv d a k m) (rowOpnd s.cur a k m permLD) none (false, true) 8 0
    (fun _ => { op := .loadv, size := 64 }) (ldvFin d a k m)

/-- The bytes of the active lanes, four bits of byte mask each. -/
def laneMask (ls : List Nat) : Nat := ls.foldl (fun n j => n + 15 * 2 ^ (4 * j)) 0

/-- Mark of an element of a vector register. -/
def VReg.markOf (v : VReg) (j : Nat) : Nat := if v.bad j then v.cls j + 1 else 0

/-- A 64-byte write of a vector register: each word takes the class of its lowest poisoned active lane (log 24). -/
def rowFlit (op : Op) (th : Thread) (d : VIx) (k : KIx) : Flit :=
  let v := th.rv d
  let act := fun j => if th.active k j then v.markOf j else 0
  { op := op, size := 64, data := dataOf 64 v.val.toNat, bmask := laneMask (th.lanes k), flast := 1,
    psn := (List.range 8).map fun i => if act (2 * i) = 0 then act (2 * i + 1) else act (2 * i) }

def execStv (d : VIx) (a : GIx) (k : KIx) (m : BitVec 20) (s : State) : Host.Outcome State Fault Refusal :=
  s.posted (rowOpnd s.cur a k m permST) none none 0 (fun _ => rowFlit .storev s.cur d k) fun th => (th.postInc a m).retire

/-! ## LDVS, STVS, VGATH, VSCAT (R164, R165) -/

def eltBits : EltW → Nat
  | .w => 32 | .h => 16 | .b => 8

/-- The active elements of width w, each at its own offset. -/
def eltsOf (th : Thread) (k : KIx) (w : Nat) (off : Nat → Int) : List Elem :=
  ((List.range (512 / w)).filter fun e => th.active k (laneIdx w e)).map fun e => { idx := e, off := off e, size := w / 8 }

def strideOpnd (th : Thread) (ew : EltW) (a b : GIx) (k : KIx) (m : BitVec 20) (need : Nat) : Opnd :=
  let w := eltBits ew
  { reg := th.rd a, field := a.val, need := need, sp := scratchHbm, align := w / 8,
    elems := eltsOf th k w fun e => mOff m + e * (th.rd b).low.toInt }

/-- Class of a poisoned stride. -/
def stridePoison (th : Thread) (b : GIx) : Option Nat := if (th.rd b).isPoison then some (th.rd b).cls else none

/-- vD with the elements of its active lanes loaded; a lane is poisoned if an element it receives is, with the class of the lowest
poisoned one (DESIGN CHOICE, log 103). -/
def Thread.loadElts (th : Thread) (w : Nat) (d : VIx) (k : KIx) : Thread :=
  th.wv d (mkVReg fun j =>
    if th.active k j then
      let es := (List.range (32 / w)).map fun i => j * (32 / w) + i
      let m := firstMark (es.map fun e => (th.got e).2)
      if m = 0 then (packElts w (es.map fun e => (th.got e).1), false) else poisonLane (m - 1)
    else (th.rv d).lane j)

def ldvsFin (ew : EltW) (d : VIx) (a : GIx) (k : KIx) (m : BitVec 20) (th : Thread) : Thread :=
  ((th.loadElts (eltBits ew) d k).postInc a m).retire

def execLdvs (ew : EltW) (d : VIx) (a b : GIx) (k : KIx) (m : BitVec 20) (s : State) : Host.Outcome State Fault Refusal :=
  s.blocking (.ldvs ew d a b k m) (strideOpnd s.cur ew a b k m permLD) (stridePoison s.cur b) (false, true) 1 0
    (fun _ => { op := .load, size := eltBits ew / 8 }) (ldvsFin ew d a k m)

/-- A store of one element of a vector register. -/
def eltFlit (v : VReg) (w e : Nat) : Flit :=
  { op := .store, size := w / 8, data := dataOf (w / 8) (v.elt w e), psn := [v.markOf (laneIdx w e)] }

def execStvs (ew : EltW) (d : VIx) (a b : GIx) (k : KIx) (m : BitVec 20) (s : State) : Host.Outcome State Fault Refusal :=
  s.posted (strideOpnd s.cur ew a b k m permST) none (stridePoison s.cur b) 0 (eltFlit (s.cur.rv d) (eltBits ew))
    fun th => (th.postInc a m).retire

def gatherOpnd (th : Thread) (a : GIx) (b : VIx) (k : KIx) (off : BitVec 19) (need : Nat) : Opnd :=
  { reg := th.rd a, field := a.val, need := need, sp := scratchHbm, align := 4,
    elems := eltsOf th k 32 fun e => off19 off + sgn 32 ((th.rv b).elt 32 e) }

/-- Class of the lowest poisoned active offset lane. -/
def offsetPoison (th : Thread) (b : VIx) (k : KIx) : Option Nat :=
  ((th.lanes k).find? fun j => (th.rv b).bad j).map (th.rv b).cls

def vgathFin (d : VIx) (k : KIx) (th : Thread) : Thread := (th.loadElts 32 d k).retire

def execVgath (d : VIx) (a : GIx) (b : VIx) (k : KIx) (off : BitVec 19) (s : State) : Host.Outcome State Fault Refusal :=
  s.blocking (.vgath d a b k off) (gatherOpnd s.cur a b k off permLD) (offsetPoison s.cur b k) (false, true) 1 0
    (fun _ => { op := .load, size := 4 }) (vgathFin d k)

def execVscat (d : VIx) (a : GIx) (b : VIx) (k : KIx) (off : BitVec 19) (s : State) : Host.Outcome State Fault Refusal :=
  s.posted (gatherOpnd s.cur a b k off permST) none (offsetPoison s.cur b k) 0 (eltFlit (s.cur.rv d) 32) Thread.retire

/-! ## LDCAP, STCAP (R166) -/

def ldcapOpnd (th : Thread) (a : GIx) (m : BitVec 20) : Opnd := addrOpnd th a permLD scratchHbm 16 (mOff m)

def ldcapFin (pkg : Nat) (d a : GIx) (m : BitVec 20) (th : Thread) : Thread :=
  ((th.postInc a m).wr d (capOf (th.got 0) (th.got 1) ((th.got 2).1 == 1) ((ldcapOpnd th a m).ga pkg))).retire

def execLdcap (d a : GIx) (m : BitVec 20) (s : State) : Host.Outcome State Fault Refusal :=
  s.blocking (.ldcap d a m) (ldcapOpnd s.cur a m) none (false, true) 2 0
    (fun _ => { op := .loadcap, size := 16 }) (ldcapFin s.pkg d a m)

/-- A capability register as flit data; the tag travels within the package only. -/
def capFlit (r : GReg) : Flit :=
  { op := .storecap, size := 16, flast := 1, data := dataOf 16 (if r.isPoison then 0 else r.body.toNat),
    tags := boolNat r.isCap, psn := [r.mark, r.mark] }

def execStcap (d a : GIx) (m : BitVec 20) (s : State) : Host.Outcome State Fault Refusal :=
  let v := (s.cur.postInc a m).rd d
  s.posted (addrOpnd s.cur a permST scratchHbm 16 (mOff m)) none none v.low (fun _ => capFlit v)
    fun th => (th.postInc a m).retire

/-! ## PUTF, PUTVF (R168) -/

def execPutf (sz : Fin 4) (d a c : GIx) (m : BitVec 20) (s : State) : Host.Outcome State Fault Refusal :=
  let v := (s.cur.postInc a m).rd d
  s.posted (addrOpnd s.cur a permST scratchHbm (2 ^ sz.val) (mOff m)) (flagOpnd s.cur c) none v.low
    (fun _ => { op := .put, size := 2 ^ sz.val, data := dataOf (2 ^ sz.val) v.low.toNat, psn := [v.mark] })
    fun th => (th.postInc a m).retire

def execPutvf (d : VIx) (a : GIx) (k : KIx) (c : GIx) (m : BitVec 20) (s : State) : Host.Outcome State Fault Refusal :=
  s.posted (rowOpnd s.cur a k m permST) (flagOpnd s.cur c) none 0 (fun _ => rowFlit .putv s.cur d k)
    fun th => (th.postInc a m).retire

/-! ## Posted atomics (R170) -/

def State.postedAtomic (s : State) (fn : AtomFn) (ty : AtomTy) (a b c : GIx) (off : BitVec 16) :
    Host.Outcome State Fault Refusal :=
  let y := s.cur.rd b
  s.posted (addrOpnd s.cur a permAT scratchHbm (atomWidth ty) (off16 off)) (flagOpnd s.cur c) none y.low
    (fun _ => { op := .atomic, size := atomWidth ty, fn := fn, aty := ty, opnd := y.low.toNat, opndMark := y.mark })
    Thread.retire

def execRadd (ty : AtomTy) (a b c : GIx) (off : BitVec 16) (s : State) : Host.Outcome State Fault Refusal :=
  s.postedAtomic .add ty a b c off
def execRmin (ty : AtomTy) (a b c : GIx) (off : BitVec 16) (s : State) : Host.Outcome State Fault Refusal :=
  s.postedAtomic .min ty a b c off
def execRmax (ty : AtomTy) (a b c : GIx) (off : BitVec 16) (s : State) : Host.Outcome State Fault Refusal :=
  s.postedAtomic .max ty a b c off
def execRand (ty : AtomTy) (a b c : GIx) (off : BitVec 16) (s : State) : Host.Outcome State Fault Refusal :=
  s.postedAtomic .and ty a b c off
def execRor (ty : AtomTy) (a b c : GIx) (off : BitVec 16) (s : State) : Host.Outcome State Fault Refusal :=
  s.postedAtomic .or ty a b c off
def execRxor (ty : AtomTy) (a b c : GIx) (off : BitVec 16) (s : State) : Host.Outcome State Fault Refusal :=
  s.postedAtomic .xor ty a b c off

/-! ## Returning atomics (R171) -/

def atomOpnd (th : Thread) (ty : AtomTy) (a : GIx) (off : BitVec 16) : Opnd :=
  addrOpnd th a (permLD + permST + permAT) scratchHbm (atomWidth ty) (off16 off)

def atomFin (pkg : Nat) (ty : AtomTy) (d a : GIx) (off : BitVec 16) (th : Thread) : Thread :=
  let r := th.got 0
  (th.wr d (markedReg (atomOld ty r.1) r.2 ((atomOpnd th ty a off).ga pkg))).retire

def State.returning (s : State) (i : Instr) (fn : AtomFn) (ty : AtomTy) (d a b : GIx) (z : GReg) (off : BitVec 16) :
    Host.Outcome State Fault Refusal :=
  let y := s.cur.rd b
  s.synchronising (s.blocking i (atomOpnd s.cur ty a off) none (true, true) 1 y.low
    (fun _ => { op := .atomicr, size := atomWidth ty, fn := fn, aty := ty, opnd := y.low.toNat, opndMark := y.mark,
                cmp := z.low.toNat, cmpMark := z.mark })
    (atomFin s.pkg ty d a off))

def execRfadd (ty : AtomTy) (d a b : GIx) (off : BitVec 16) (s : State) : Host.Outcome State Fault Refusal :=
  s.returning (.rfadd ty d a b off) .add ty d a b {} off
def execRcas (ty : AtomTy) (d a b c : GIx) (off : BitVec 16) (s : State) : Host.Outcome State Fault Refusal :=
  s.returning (.rcas ty d a b c off) .cas ty d a b (s.cur.rd c) off
def execRswap (ty : AtomTy) (d a b : GIx) (off : BitVec 16) (s : State) : Host.Outcome State Fault Refusal :=
  s.returning (.rswap ty d a b off) .swap ty d a b {} off

/-! ## LDC, STP, FESET (R173-R175) -/

def feOpnd (th : Thread) (a : GIx) (off : BitVec 19) : Opnd := addrOpnd th a permFE onlyScratch 8 (off19 off)

def ldcFin (pkg : Nat) (d a : GIx) (off : BitVec 19) (th : Thread) : Thread :=
  let r := th.got 0
  (th.wr d (markedReg r.1 r.2 ((feOpnd th a off).ga pkg))).retire

/-- An own-tile LDC or STP whose condition does not hold waits for the word's FE to change. The test of FE is no read of the word: it
looks for no stored error (DESIGN CHOICE, log 104). -/
def State.feAccess (s : State) (i : Instr) (a : GIx) (off : BitVec 19) (wantFull : Bool) (opnd : Word) (ask : Flit)
    (fin : Thread → Thread) : Host.Outcome State Fault Refusal :=
  s.synchronising (
    let o := feOpnd s.cur a off
    match s.checks [o] none with
    | .ok [[(_, ga)]] =>
      if s.ownGa ga && s.fe (spad s.curTile (gaOff ga)) != wantFull then s.park (.fe (gaOff ga / 8 * 8))
      else s.blocking i o none (false, false) 1 opnd (fun _ => ask) fin
    | _ => s.blocking i o none (false, false) 1 opnd (fun _ => ask) fin)

def execLdc (d a : GIx) (off : BitVec 19) (s : State) : Host.Outcome State Fault Refusal :=
  s.feAccess (.ldc d a off) a off true 0 { op := .ldc, size := 8 } (ldcFin s.pkg d a off)

def execStp (d a : GIx) (off : BitVec 19) (s : State) : Host.Outcome State Fault Refusal :=
  let v := s.cur.rd d
  s.feAccess (.stp d a off) a off false v.low { op := .stp, size := 8, opnd := v.low.toNat, opndMark := v.mark }
    Thread.retire

def execFeset (full : Bool) (a : GIx) (off : BitVec 19) (s : State) : Host.Outcome State Fault Refusal :=
  s.posted (feOpnd s.cur a off) none none 0 (fun _ => { op := .feset, size := 8, opnd := boolNat full }) Thread.retire

/-! ## FSIG (R169) -/

def execFsig (a b : GIx) (off : BitVec 19) (s : State) : Host.Outcome State Fault Refusal :=
  let v := s.cur.rd b
  match s.checks [addrOpnd s.cur a permFL flagSpaces 8 (off19 off)] none with
  | .error (c, e) => s.trap c e
  | .ok rs =>
    match rs with
    | [[(_, ga)]] =>
      let bad := if s.ownGa ga then s.refusing [gaOff ga] else []
      if bad ≠ [] then s.forfeit (s.cur.retryBanks ++ bad)
      else if !s.ownGa ga && !s.retryRoom s.curTile 1 then s.park .retryFull
      else
        let s := s.flagOwn ga (v.low.toNat % 2 ^ 40) { sig := v.mark }
        .next (s.setCur s.cur.retire)
    | _ => .next s

/-! ## FWAIT (R176-R178) -/

def fwaitFlag (j : Nat) : GIx := Fin.ofNat 16 (2 * j + 4)
def fwaitThreshold (j : Nat) : GIx := Fin.ofNat 16 (2 * j + 5)

/-- Enabled monitors in index order. -/
def enabled (en : BitVec 4) : List Nat := (List.range 4).filter fun j => en.getLsbD j

/-- The own-tile monitors at W, in index order: the first decided gives the result. -/
def State.decideOwn (s : State) : List WaitMon → Option GReg
  | [] => none
  | m :: ms =>
    let cm := s.flagAt (spad s.curTile (gaOff m.flag))
    if m.own && decided cm m.eq m.threshold then some (monResult m (if cm.2 = 0 then none else some (cm.2 - 1)))
    else s.decideOwn ms

/-- One monitor's arm is sent (R178). -/
def State.sendArm (s : State) (t h : Nat) (poll : Bool) (m : WaitMon) : WaitMon × State :=
  let s := s.post t (.arm h) (s.thr t h).pc 0 0 m.flag none
    { op := .arm, thr := h, idx := m.idx, opnd := m.threshold, cmp := boolNat m.eq, once := poll }
  ({ m with armed := true, tag := s.tags }, s)

/-- Every remote monitor sends its arm. -/
def State.sendArms (s : State) (t h : Nat) (poll : Bool) : List WaitMon → List WaitMon × State
  | [] => ([], s)
  | m :: ms =>
    let x := if m.own then (m, s) else s.sendArm t h poll m
    let y := State.sendArms x.2 t h poll ms
    (x.1 :: y.1, y.2)

/-- FWAIT (R156, R177): operands, thresholds and timeout checked, then the monitors are set. Of a poisoned timeout and poisoned
thresholds the timeout comes first, then the thresholds in the order of their monitors (DESIGN CHOICE, log 97). -/
def execFwait (d a : GIx) (en eq : BitVec 4) (s : State) : Host.Outcome State Fault Refusal :=
  s.synchronising (
    let th := s.cur
    let js := enabled en
    let ops := js.map fun j => addrOpnd th (fwaitFlag j) permFL flagSpaces 8 0
    let datas := (if a = 0 then [] else [th.rd a]) ++ js.map fun j => th.rd (fwaitThreshold j)
    match s.checks ops ((firstPoison datas).map GReg.cls) with
    | .error (c, v) => s.trap c v
    | .ok rs =>
      let mons : List WaitMon := (js.zip rs).filterMap fun x =>
        match x.2 with
        | (_, ga) :: _ => some { idx := x.1, flag := ga, threshold := (th.rd (fwaitThreshold x.1)).low.toNat,
                                 eq := eq.getLsbD x.1, own := s.ownGa ga }
        | [] => none
      let timeout := if a = 0 then none else some (th.rd a).low.toNat
      let poll := timeout == some 0
      let s := (mons.filter fun m => m.own).foldl (fun s m => s.look (spad s.curTile (gaOff m.flag))) s
      match s.decideOwn mons with
      | some v =>
        -- decided at W: the arms sent with it are disarmed at once
        let x := s.sendArms s.curTile s.curThr poll mons
        .next ((x.2.setCur { x.2.cur with wait := .fwait d.val x.1 0 timeout }).fwaitEnd s.curTile s.curThr v)
      | none =>
        if poll && mons.all (fun m => m.own) then s.doneG d (dataReg 4)
        else
          let x := s.sendArms s.curTile s.curThr poll mons
          -- the timeout counts from W, seven cc after issue; CYCLE already counts the cycle of issue
          x.2.park (.fwait d.val x.1 (x.2.curT.cycle + 6) timeout))

end Sys2Proof.Machine
end

