-- ==== Sys2Proof/Machine/Poison.lean ====
section
/-! DEFINITION. SCRUB, POISON and the asynchronous fault log as a program sees it, major 0x30 (R308-R311). -/
namespace Sys2Proof.Machine

def execScrub (a : GIx) (off : BitVec 19) (s : State) : Host.Outcome State Fault Refusal :=
  s.blocking (.scrub a off) (addrOpnd s.cur a (permST + permFE) scratchHbm 64 (off19 off)) none (true, true) 0 0
    (fun _ => { op := .scrub, size := 64 }) Thread.retire

def execPoison (a : GIx) (off : BitVec 19) (s : State) : Host.Outcome State Fault Refusal :=
  s.posted (addrOpnd s.cur a permST scratchHbm 8 (off19 off)) none none 0 (fun _ => { op := .poison, size := 8 })
    Thread.retire

/-- The log with entry e marked read. -/
def markRead (l : List LogEntry) (e : Nat) : List LogEntry :=
  l.zipIdx.map fun x => if x.2 = e then { x.1 with rd := true } else x.1

def execFlogrd (d : GIx) (e : Fin 8) (w : Fin 4) (s : State) : Host.Outcome State Fault Refusal :=
  match s.curT.flog[e.val]? with
  | none => s.doneG d (dataReg 0)
  | some x =>
    let v := (logWords x).getD w.val 0
    let s := if w = 0 then s.updTile s.curTile fun y => { y with flog := markRead y.flog e.val } else s
    s.doneG d (dataReg (BitVec.ofNat 64 v))

/-- The log without the entries that a mask names. -/
def keepLog (l : List LogEntry) (mask : Nat) : List LogEntry :=
  (l.zipIdx.filter fun x => !bit mask x.2).map fun x => x.1

def execFlogclr (mask : BitVec 8) (s : State) : Host.Outcome State Fault Refusal :=
  let s := if mask = 0 then s
    else s.updTile s.curTile fun y =>
      let l := keepLog y.flog mask.toNat
      { y with flog := l, spilled := if l = [] then 0 else y.spilled }
  s.done s.cur

end Sys2Proof.Machine
end

