-- ==== Sys2Proof/Machine/Copy.lean ====
section
/-! DEFINITION. The copy engine (R228-R253): shape records and their faults, issue, COPYS and COPYK, channels, granules
and the endings of a command; the engine's own steps COPY_ACTIVATE and COPY_GRANULE_SEND. -/
namespace Sys2Proof.Machine

/-! ## Shape records (R230, R231) -/

/-- The fields of Tables 10.1 and 10.2 in the 64 bytes of a record. -/
def Shape.ofNat (x : Nat) : Shape :=
  let c := x % 2 ^ 64
  { ext := (List.range 5).map fun i => bits x (64 + 16 * i + 15) (64 + 16 * i)
    sstride := (List.range 5).map fun i => sgn 32 (bits x (160 + 32 * i + 31) (160 + 32 * i))
    dstride := (List.range 5).map fun i => sgn 32 (bits x (320 + 32 * i + 31) (320 + 32 * i))
    wpoff := bits x 498 480
    ct := bit c 28, wpen := bit c 27, lw := bit c 26, layout := bits c 25 24
    perm := (List.range 5).map fun j => bits c (9 + 3 * j + 2) (9 + 3 * j)
    ndim := bits c 8 6, es := bits c 5 0 + 1
    reservedBits := bits c 63 29 != 0 || bits x 159 144 != 0 || bits x 511 499 != 0 }

def Shape.p (h : Shape) (j : Nat) : Nat := h.perm.getD j 0
def Shape.e (h : Shape) (i : Nat) : Nat := h.ext.getD i 1
def Shape.ss (h : Shape) (i : Nat) : Int := h.sstride.getD i 0
def Shape.ds (h : Shape) (j : Nat) : Int := h.dstride.getD j 0
/-- ED(j), the extent of destination dimension j. -/
def Shape.ed (h : Shape) (j : Nat) : Nat := h.e (h.p j)

/-- Stream bytes. -/
def Shape.nb (h : Shape) : Nat := h.es * h.ed 0 * h.ed 1 * h.ed 2 * h.ed 3 * h.ed 4

/-- Destination indices d0 to d4 of the n-th element of the stream (R231, R238). -/
def Shape.dims (h : Shape) (n : Nat) : List Nat :=
  let q := n / 16
  if h.layout = 1 then [q / (h.ed 1 / 16), q % (h.ed 1 / 16) * 16 + n % 16, 0, 0, 0]
  else if h.layout = 2 then [q % h.ed 0, q / h.ed 0 * 16 + n % 16, 0, 0, 0]
  else
    let a := n / h.ed 0
    let b := a / h.ed 1
    let c := b / h.ed 2
    [n % h.ed 0, a % h.ed 1, b % h.ed 2, c % h.ed 3, c / h.ed 3]

/-- Source address of an element relative to the cursor. -/
def Shape.srcOf (h : Shape) (d : List Nat) : Int :=
  ((List.range 5).map fun j => (d.getD j 0 : Int) * h.ss (h.p j)).foldl (· + ·) 0

/-- Destination address of the n-th element relative to the cursor. -/
def Shape.dstOf (h : Shape) (n : Nat) : Int :=
  if h.layout = 0 then ((List.range 5).map fun j => ((h.dims n).getD j 0 : Int) * h.ds j).foldl (· + ·) 0
  else (n * h.es : Nat)

/-! ## Contradictory records (R232-R237) -/

/-- Rows, columns and element size of a descriptor word (Tables 2.3, 2.4). -/
def descSet (w : Word) : Bool := bit w.toNat 63
def descRows (w : Word) : Nat := bits w.toNat 25 16 + 1
def descCols (w : Word) : Nat := bits w.toNat 35 26 + 1
def descType (w : Word) : Nat := bits w.toNat 39 36
def descSize (w : Word) : Nat := if descType w ≤ 1 then 4 else 2
def descRow (w : Word) : Nat := bits w.toNat 9 0
def descCol (w : Word) : Nat := bits w.toNat 14 10

/-- What the checks know of a command's two sides; none on the tile-store side of COPYT. -/
structure CopySides where
  kind : CopyKind
  src : Option CapKind
  dst : Option CapKind
  own : Bool                     -- a scratchpad destination lies on the issuing package
  desc : Word
  deriving DecidableEq, Repr

/-- PERM is the identity. -/
def Shape.straight (h : Shape) : Bool := h.perm == [0, 1, 2, 3, 4]

/-- R232. The conditions of COPYT that speak of its descriptor are put to a set one; an unset one traps in the last step of
R249. -/
def Shape.badForm (h : Shape) (c : CopySides) : Bool :=
  let dims := List.range h.ndim
  let unused := (List.range 5).filter fun j => h.ndim ≤ j
  let toStore := c.kind == .tileTo
  let fromStore := c.kind == .tileFrom
  let spad := fun k => k == some CapKind.tile || k == some CapKind.woven
  h.ndim == 0 || decide (5 < h.ndim) ||
  dims.any (fun j => decide (h.ndim ≤ h.p j)) || dims.any (fun j => dims.any fun i => i != j && h.p i == h.p j) ||
  unused.any (fun j => h.p j != j) ||
  (!h.straight && (c.kind == .copy || c.kind == .copym)) ||
  unused.any (fun j => h.e j != 1 || h.ss j != 0 || h.ds j != 0) ||
  h.layout == 3 ||
  (h.layout == 0 && !([1, 2, 4, 8, 16, 32, 64].contains h.es)) ||
  (h.layout != 0 && (h.ndim != 2 || h.dstride.any (· != 0) || h.ed 1 % 16 != 0)) ||
  decide (2 ^ 40 ≤ h.nb) ||
  (h.wpen && (c.dst == some .hbm || toStore)) ||
  (h.ct && (h.es % 16 != 0 || h.layout != 0 || c.src != some .tile || !spad c.dst || !c.own)) ||
  h.reservedBits ||
  ((toStore || fromStore) && (h.layout != 0 || h.ct || (descSet c.desc && h.es != descSize c.desc))) ||
  (toStore && ([2, 3, 4].any (fun j => h.ed j != 1) || h.dstride.any (· != 0) ||
    (descSet c.desc && (h.ed 0 != descCols c.desc || h.ed 1 != descRows c.desc)))) ||
  (fromStore && ([2, 3, 4].any (fun j => h.e j != 1) || h.sstride.any (· != 0) ||
    (descSet c.desc && (h.e 0 != descCols c.desc || h.e 1 != descRows c.desc))))

/-- R233: src and dst are the cursors' movable parts. -/
def Shape.badAlign (h : Shape) (c : CopySides) (src dst : Nat) : Bool :=
  let off := fun (n : Nat) (x : Int) => x % (n : Int) != 0
  let reads := c.src.isSome
  let writes := c.dst.isSome
  (h.ct && ((reads && src % 16 != 0) || (writes && dst % 16 != 0) || (h.sstride ++ h.dstride).any (off 16))) ||
  (h.layout == 0 && reads && (src % h.es != 0 || h.sstride.any (off h.es))) ||
  (h.layout == 0 && writes && decide (h.es < 32) &&
    (h.ds 0 != (h.es : Int) || h.ed 0 * h.es % 32 != 0 || dst % 32 != 0 || (h.dstride.drop 1).any (off 32))) ||
  (h.layout == 0 && writes && decide (32 ≤ h.es) && (dst % 32 != 0 || h.dstride.any (off 32))) ||
  (h.layout != 0 && writes && dst % 32 != 0)

/-- Destination strides with their dimensions, in increasing magnitude, ties by lower dimension. -/
def insStride (x : Nat × Nat) : List (Nat × Nat) → List (Nat × Nat)
  | [] => [x]
  | y :: ys => if x.1 < y.1 then x :: y :: ys else y :: insStride x ys

/-- The loop of R234 over magnitudes and extents. -/
def spanOverlaps (span : Nat) : List (Nat × Nat) → Bool
  | [] => false
  | (d, j) :: r => decide (d < span) || spanOverlaps (span + d * (j - 1)) r

def Shape.overlaps (h : Shape) : Bool :=
  let dims := (List.range 5).filter fun j => decide (1 < h.ed j)
  spanOverlaps h.es (dims.foldl (fun l j => insStride ((h.ds j).natAbs, h.ed j) l) [])

/-- The footprint [lo, hi) of R237 relative to a cursor. -/
def footprint (es : Nat) (xs : List (Nat × Int)) : Int × Int :=
  (xs.foldl (fun n x => n + min 0 (((x.1 : Int) - 1) * x.2)) 0,
   xs.foldl (fun n x => n + max 0 (((x.1 : Int) - 1) * x.2)) 0 + es)

def Shape.srcFoot (h : Shape) : Int × Int := footprint h.es ((List.range 5).map fun i => (h.e i, h.ss i))

def Shape.dstFoot (h : Shape) : Int × Int :=
  if h.layout = 0 then footprint h.es ((List.range 5).map fun j => (h.ed j, h.ds j)) else (0, h.nb)

/-- A footprint lies wholly within its capability's bounds, or its window. -/
def footInside (r : GReg) (pkg : Nat) (f : Int × Int) : Bool := r.reach pkg f.1 (f.2 - f.1).toNat != .bounds

/-- Local offsets [lo, hi) that a destination footprint reaches. -/
def localRange (r : GReg) (f : Int × Int) : Nat × Nat :=
  let lo := ((r.offset : Int) + f.1).toNat
  let hi := ((r.offset : Int) + f.2).toNat
  if r.kind = .woven then
    let u := r.upper.toNat
    let n := wW u * wH u
    let g := 2 ^ wG u
    let b0 := lo / g
    let b1 := (hi - 1) / g
    let start := if b0 < b1 ∧ (b0 + 1) / n = b0 / n then 0 else lo % g
    let stop := if b0 < b1 ∧ (b1 - 1) / n = b1 / n then g else (hi - 1) % g + 1
    (32 * wBase u + b0 / n * g + start, 32 * wBase u + b1 / n * g + stop)
  else (lo, hi)

/-- The shape fault of a record: EVAL of "invalid shape record" (Table 8.1). A record that moves nothing is held to
R232 alone (R236). -/
def Shape.fault (h : Shape) (c : CopySides) (src dst : GReg) : Option Nat :=
  if h.badForm c then some 3
  else if h.nb = 0 then none
  else if h.badAlign c src.offset dst.offset then some 2
  else if c.dst.isSome then
    let l := localRange dst h.dstFoot
    if (h.layout == 0 && !h.lw && h.overlaps) || (h.wpen && decide (h.wpoff < l.2) && decide (l.1 < h.wpoff + 8)) then some 1
    else none
  else none

/-- Step 5 of R249: EVAL of the operand whose footprint, or whose pointer word, is out of bounds. -/
def Shape.boundsFault (h : Shape) (c : CopySides) (pkg : Nat) (src dst : GReg) : Option Nat :=
  if h.nb ≠ 0 ∧ c.src.isSome = true ∧ footInside src pkg h.srcFoot = false then some (src.eva h.srcFoot.1)
  else if h.nb ≠ 0 ∧ c.dst.isSome = true ∧ footInside dst pkg h.dstFoot = false then some (dst.eva h.dstFoot.1)
  else if h.wpen ∧ (h.wpoff < dst.bounds.1 ∨ dst.bounds.1 + dst.bounds.2 < h.wpoff + 8) then some dst.low.toNat
  else none

/-! ## Issue (R228, R248, R249) -/

/-- The operands of a copy command as registers; the tile-store side of COPYT has none. -/
structure CopyArgs where
  kind : CopyKind
  src : Option GIx
  dst : Option GIx
  shp : GIx
  wf : GIx
  wn : GIx
  sf : GIx
  mask : Nat
  desc : Nat
  deriving DecidableEq, Repr

/-- Step 1 of R249: the operands in field order, with whether each must be a capability. -/
def copyTags : List (GReg × Nat × Bool) → Option (Nat × Nat)
  | [] => none
  | (r, f, cap) :: xs =>
    if r.isPoison then some (causePoison, r.cls)
    else if cap && !r.isCap then some (causeNotCap, f)
    else copyTags xs

def capArg (th : Thread) (o : Option GIx) : List (GReg × Nat × Bool) :=
  match o with
  | some r => [(th.rd r, r.val, true)]
  | none => []

/-- A flag field; g0 names none. -/
def flagField (r : GIx) : Option GIx := if r = 0 then none else some r

/-- Table 10.3: the operand's right and place. -/
def copySrcOk (pkg t : Nat) (r : GReg) : Bool :=
  r.grants permCS && (r.namesTile pkg t || (r.kind == .hbm && (gaLocal r.low.toNat || gaPkg r.low.toNat == pkg)))

def copyDstOk (kind : CopyKind) (pkg t : Nat) (r : GReg) : Bool :=
  let own := gaLocal r.low.toNat || gaPkg r.low.toNat == pkg
  r.grants permCD &&
    match kind with
    | .copym => r.kind == .tile && own && clusterOf (gaTile r.low.toNat) == clusterOf t
    | _ => r.kind == .tile || r.kind == .woven || (r.kind == .hbm && own)

/-- Step 2 of R249: the first operand without its right or outside its spaces. -/
def copyRights (kind : CopyKind) (pkg t : Nat) (src dst : Option GReg) (shp : GReg) (flags : List Opnd) : Option Nat :=
  match src with
  | some r => if copySrcOk pkg t r then go2 else some r.low.toNat
  | none => go2
where
  go2 : Option Nat :=
    match dst with
    | some r => if copyDstOk kind pkg t r then go3 else some r.low.toNat
    | none => go3
  go3 : Option Nat :=
    if !(shp.grants permLD && shp.namesTile pkg t) then some shp.low.toNat
    else (flags.find? fun o => !(o.reg.grants o.need && o.spaceOk pkg)).map fun o => o.reg.low.toNat

/-- Class of the first poisoned word among n. -/
def State.wordsMark (s : State) (a : Nat) : Nat → Nat
  | 0 => 0
  | n + 1 => if s.mark a ≠ 0 then s.mark a else State.wordsMark s (a + 8) n

/-- The lowest entry that no live command holds (R228). -/
def freeEntry (q : SMap CopyCmd) : Option Nat :=
  (List.range 32).find? fun e =>
    match mfind q e with
    | some c => c.state == .ended || c.state == .endedPoisoned || c.state == .cancelled
    | none => true

/-- A command id (R228). -/
def CopyCmd.cmdId (c : CopyCmd) (entry : Nat) : Nat := entry + c.seq * 32

/-- Kind of a command's side. -/
def sideKind (r : Option GReg) : Option CapKind := r.map GReg.kind

/-- Commands of a tile's matrix queue: waiting, or granted and not complete (R256). -/
def State.matCount (s : State) (t : Nat) : Nat :=
  (s.tile t).matq.length + ((s.cluster (clusterOf t)).staging.filter fun x => x.tile == inCluster t).length

/-- The flag words that the flag operands name, as the checks have them (R57): WF's and SF's, 0 where g0 names none. -/
def flagTargets (rs : List (List (Elem × Nat × Bool))) (wf sf : Bool) : Nat × Nat :=
  let at_ := fun (r : List (List (Elem × Nat × Bool))) => match r with | ((_, ga, _) :: _) :: _ => ga | _ => 0
  (if wf then at_ rs else 0, if sf then at_ (if wf then rs.drop 1 else rs) else 0)

/-- The issue of a copy command: checks in the order of R249, then a queue entry, with a place in the matrix queue for
COPYT (R251). A COPYT that names a closing descriptor parks where R257 has it, before anything is read (R269). The shape record's and the flags' bounds and alignment are checked before the record is read (log 26). -/
def State.issueCopy (s : State) (d : GIx) (x : CopyArgs) : Host.Outcome State Fault Refusal :=
  let th := s.cur
  let t := s.curTile
  let src := x.src.map th.rd
  let dst := x.dst.map th.rd
  let shp := th.rd x.shp
  let tags := copyTags (capArg th x.src ++ capArg th x.dst ++ [(shp, x.shp.val, true)] ++ capArg th (flagField x.wf) ++
    [(th.rd x.wn, x.wn.val, false)] ++ capArg th (flagField x.sf))
  let flags := (flagOpnd th x.wf).toList ++ (flagOpnd th x.sf).toList
  let isT := x.kind == .tileTo || x.kind == .tileFrom
  match tags with
  | some (c, v) => s.trap c v
  | none =>
    match copyRights x.kind s.pkg t src dst shp flags with
    | some v => s.trap causePerm v
    | none =>
      if !th.priv && flags.any (fun o => o.reg.kind == .mmio) then s.trap causePriv s.headTail
      else if isT && (s.cluster (clusterOf t)).closing.any (fun k => k.1 == x.desc) then s.park (.closing x.desc)
      else
        let ops := addrOpnd th x.shp permLD onlyScratch 64 0 :: flags
        match targetsAll s.pkg ops with
        | .error (c, v) => s.trap c v
        | .ok rs =>
          match misaligned ops rs with
          | some v => s.trap causeAlign v
          | none =>
            let a := spad t (gaOff shp.low.toNat)
            let bad := s.refusing [gaOff shp.low.toNat]
            if bad ≠ [] then s.forfeit (s.cur.retryBanks ++ bad)
            else
              let s := s.lookWords a 8
              let h := Shape.ofNat (s.val a 64)
              let word := mget 0 (s.cluster (clusterOf t)).desc x.desc
              let own := match dst with
                | some r => r.kind == .woven || gaLocal r.low.toNat || gaPkg r.low.toNat == s.pkg
                | none => true
              let sides : CopySides := { kind := x.kind, src := sideKind src, dst := sideKind dst, own := own,
                                         desc := if isT then word else 0 }
              let sr := src.getD {}
              let dr := dst.getD {}
              if s.wordsMark a 8 ≠ 0 then s.trap causePoison (s.wordsMark a 8 - 1)
              else
                match h.fault sides sr dr, h.boundsFault sides s.pkg sr dr with
                | some v, _ => s.trap causeShape v
                | none, some v => s.trap causeBounds v
                | none, none =>
                  if isT && !descSet word then s.trap causeTile x.desc
                  else if isT && decide (16 ≤ s.matCount t) then s.park .matrixQueue
                  else
                    match freeEntry s.curT.copyq with
                    | none => s.park .copyQueue
                    | some e =>
                      let ws := flagTargets (rs.drop 1) (x.wf != 0) (x.sf != 0)
                      let c : CopyCmd :=
                        { kind := x.kind, seq := s.curT.copySeq, thr := s.curThr, pc := th.pc, head := s.curHead,
                          user := !th.priv, src := sr, dst := dr, shape := h, wf := ws.1, wn := (th.rd x.wn).low.toNat,
                          sf := ws.2, mask := x.mask, desc := x.desc, descWord := word, age := s.curT.copyAge }
                      let s := s.updTile t fun y => { y with
                        copyq := mput y.copyq e c, copySeq := (y.copySeq + 1) % 2048, copyAge := y.copyAge + 1,
                        matq := if isT then y.matq ++ [{ kind := if x.kind == .tileTo then .copyTo e else .copyFrom e,
                                                         thr := s.curThr, pc := th.pc, head := c.head, t := x.desc, desc := word }]
                                else y.matq }
                      s.doneG d (dataReg (BitVec.ofNat 64 (c.cmdId e)))

def execCopy (d dst src shp wf wn sf : GIx) (s : State) : Host.Outcome State Fault Refusal :=
  s.issueCopy d { kind := .copy, src := some src, dst := some dst, shp := shp, wf := wf, wn := wn, sf := sf, mask := 0, desc := 0 }

def execCopyp (d dst src shp wf wn sf : GIx) (s : State) : Host.Outcome State Fault Refusal :=
  s.issueCopy d { kind := .copyp, src := some src, dst := some dst, shp := shp, wf := wf, wn := wn, sf := sf, mask := 0, desc := 0 }

def execCopym (d dst src shp wf wn sf : GIx) (mask : BitVec 8) (s : State) : Host.Outcome State Fault Refusal :=
  s.issueCopy d { kind := .copym, src := some src, dst := some dst, shp := shp, wf := wf, wn := wn, sf := sf,
                  mask := mask.toNat, desc := 0 }

def execCopytTo (d src shp wf wn sf : GIx) (t : TIx) (s : State) : Host.Outcome State Fault Refusal :=
  s.issueCopy d { kind := .tileTo, src := some src, dst := none, shp := shp, wf := wf, wn := wn, sf := sf, mask := 0, desc := t.val }

def execCopytFrom (d dst shp wf wn sf : GIx) (t : TIx) (s : State) : Host.Outcome State Fault Refusal :=
  s.issueCopy d { kind := .tileFrom, src := none, dst := some dst, shp := shp, wf := wf, wn := wn, sf := sf, mask := 0, desc := t.val }

/-! ## A command's state -/

def State.copyCmd (s : State) (t e : Nat) : CopyCmd := mget {} (s.tile t).copyq e
def State.setCopy (s : State) (t e : Nat) (c : CopyCmd) : State := s.updTile t fun y => { y with copyq := mput y.copyq e c }
def State.updCopy (s : State) (t e : Nat) (f : CopyCmd → CopyCmd) : State := s.setCopy t e (f (s.copyCmd t e))

def CopyCmd.live (c : CopyCmd) : Bool := c.state == .queued || c.state == .waiting || c.state == .active || c.state == .parked

/-- Granules of the whole stream. -/
def CopyCmd.granules (c : CopyCmd) : Nat := ceilDiv c.shape.nb 32

/-- Threads parked for a queue entry re-issue. -/
def State.wakeQueue (s : State) (t : Nat) : State :=
  (List.range 8).foldl (fun s h =>
    if (s.thr t h).wait == .copyQueue || (s.thr t h).wait == .matrixQueue then s.resume t h else s) s

/-- The registered or unanswered arm of a watcher is disarmed (R178). -/
def State.disarm (s : State) (t w : Nat) : State :=
  let x := s.tile t
  let s := (x.posted.filter fun p => p.kind == .arm w).foldl (fun s p =>
    s.sendGa (.tile t) p.addr { op := .disarm, ctx := x.ctx, tag := p.tag, thr := w }) s
  s.updTile t fun y => { y with
    posted := y.posted.filter (fun p => p.kind != .arm w),
    retries := y.retries.filter (fun r => !(r.flit.op == .arm && r.flit.thr == w)) }

/-- Watcher of a copy entry (8 to 39). -/
def copyWatcher (e : Nat) : Nat := 8 + e

/-- The signal flag of an engine command: by 1, or with a class, from the issuing tile (R242, R258). -/
def State.signalSf (s : State) (t thr : Nat) (pc : Word) (head flag cls origin : Nat) : State :=
  if flag = 0 then s
  else if homeOf s.pkg (tileY t) flag = (.tile t, none) then s.signalAt (spad t (gaOff flag)) 1 cls origin
  else s.sendSignal t thr false pc head flag 1 cls origin

/-- The log entry of a copy command (Table 13.4): H only when SF is g0. -/
def State.logCopy (s : State) (t e : Nat) (c : CopyCmd) (cls addr origin : Nat) (why : Reason) : State :=
  s.logFault t { h := c.sf == 0, thr := c.thr, origin := origin, reason := why, head := c.head, cls := cls,
                 addr := BitVec.ofNat 64 addr, opnd := BitVec.ofNat 64 (c.cmdId e), pc := c.pc }

/-- A COPYT that ends before its tile-store access leaves its matrix entry to complete with none (R253, log 27). -/
def State.cancelMatrix (s : State) (t e : Nat) : State :=
  let drop := fun (m : MatCmd) => if m.kind == .copyTo e || m.kind == .copyFrom e then { m with cancelled := true } else m
  (s.updTile t fun y => { y with matq := y.matq.map drop }).updCluster (clusterOf t) fun x => { x with
    staging := x.staging.map fun g => if g.tile == inCluster t then { g with cmd := drop g.cmd } else g }

/-- The command has ended: its entry and channel are free and its flag is signalled. -/
def State.endCopy (s : State) (t e : Nat) (st : CopyState) (cls origin : Nat) : State :=
  let c := s.copyCmd t e
  let s := s.disarm t (copyWatcher e)
  let s := s.setCopy t e { c with state := st, chan := false, cls := cls, tdata := [], flying := [], resend := [], tries := [] }
  let s := if st = .ended then s else s.cancelMatrix t e
  (s.signalSf t c.thr c.pc c.head c.sf cls origin).wakeQueue t

/-! ## Destinations -/

/-- Global address of a destination index, a woven one mapped to its tile (R231). -/
def CopyCmd.dstGa (c : CopyCmd) (pkg : Nat) (rel : Int) : Nat :=
  match c.dst.reach pkg rel 1 with
  | .ok ga => ga
  | _ => 0

/-- Destination of granule n, relative to the cursor. -/
def CopyCmd.granuleRel (c : CopyCmd) (n : Nat) : Int := c.shape.dstOf (32 * n / c.shape.es) + (32 * n % c.shape.es : Nat)

/-- Global address of granule n. -/
def CopyCmd.granuleGa (c : CopyCmd) (pkg n : Nat) : Nat := c.dstGa pkg (c.granuleRel n)

/-- Tile or stack range that a granule goes to, as the part of its address that names the place. -/
def placeOf (ga : Nat) : Nat := if gaSpace ga = 0 then ga / 2 ^ 32 else ga / 2 ^ 44

/-- Granules of the command that go to the place of granule n. -/
def CopyCmd.stream (c : CopyCmd) (pkg n : Nat) : List Nat :=
  if c.dst.kind = .woven then
    (List.range c.granules).filter fun k => placeOf (c.granuleGa pkg k) == placeOf (c.granuleGa pkg n)
  else List.range c.granules

/-- Stream bytes of granule n. -/
def CopyCmd.granuleBytes (c : CopyCmd) (n : Nat) : Nat := Nat.min 32 (c.shape.nb - 32 * n)

/-- Index of granule n in its stream, and whether it is the stream's last. -/
def CopyCmd.indexOf (c : CopyCmd) (pkg n : Nat) : Nat × Bool :=
  if c.dst.kind = .woven then
    let l := c.stream pkg n
    ((l.filter fun k => decide (k < n)).length, l.getLast? == some n)
  else (n, n + 1 == c.granules)

/-- TAG of a stream (R240). -/
def CopyCmd.streamTag (c : CopyCmd) (e : Nat) : Nat := e + c.seq % 8 * 32

/-! ## Reading the source -/

/-- One stream byte as read: value, mark, tag of its pair, address and origin of its word. -/
structure SrcByte where
  val : Byte
  mark : Nat := 0
  tag : Bool := false
  addr : Nat := 0
  origin : Nat := 0
  deriving DecidableEq, Repr

/-- Source address of stream byte b, relative to the cursor. -/
def CopyCmd.srcRel (c : CopyCmd) (b : Nat) : Int := c.shape.srcOf (c.shape.dims (b / c.shape.es)) + (b % c.shape.es : Nat)

/-- Place in the tile-store data of stream byte b of COPYT.FROM (R251). -/
def CopyCmd.storeIdx (c : CopyCmd) (b : Nat) : Nat :=
  let d := c.shape.dims (b / c.shape.es)
  let i := ((List.range 5).map fun j => d.getD j 0 * (if c.shape.p j = 0 then 1 else if c.shape.p j = 1 then descCols c.descWord else 0)).foldl (· + ·) 0
  i * c.shape.es + b % c.shape.es

/-- Bytes of a stream read from the issuing tile. -/
def State.readTileSrc (s : State) (t : Nat) (c : CopyCmd) : List Nat → List SrcByte × State
  | [] => ([], s)
  | b :: bs =>
    let off := wrapInt 19 ((c.src.offset : Int) + c.srcRel b)
    let a := spad t off
    let s := s.look a
    let r := State.readTileSrc s t c bs
    ({ val := s.byte a, mark := s.mark a, tag := s.tagAt a, addr := gaSpad t (off / 8 * 8), origin := originTile t } :: r.1, r.2)

/-- How an engine's HBM access leaves the translation buffer. -/
inductive EngineX where
  | ok (pages : List (Nat × Nat × Nat × Bool))   -- page, PPA of the page's start, key slot, guarded
  | miss (va : Nat)
  deriving DecidableEq, Repr

/-- The pages of a list of addresses translated through the tile's cluster port. -/
def State.enginePages (s : State) (t : Nat) (need : Need) (acc : List (Nat × Nat × Nat × Bool)) : List Nat → EngineX × State
  | [] => (.ok acc, s)
  | va :: r =>
    if acc.any fun x => x.1 == va / 2 ^ 16 then State.enginePages s t need acc r
    else
      let x := s.tlbLookup (clusterOf t) (s.tile t).ctx va need
      match x.1 with
      | some (ppa, slot, g) => State.enginePages x.2 t need ((va / 2 ^ 16, ppa - va % 2 ^ 16, slot, g) :: acc) r
      | none => (.miss va, x.2)

/-- The engine asks its port for a walk, once. -/
def State.engineWalk (s : State) (t e va : Nat) (need : Need) : State :=
  let w : WalkReq := { agent := .copy t e, ctx := (s.tile t).ctx, va := va, write := need.write, read := need.read, user := need.user }
  s.updCluster (clusterOf t) fun x => if x.walks.contains w then x else { x with walks := x.walks ++ [w] }

/-- Bytes of a stream read from HBM through translated pages. -/
def State.readHbmSrc (s : State) (c : CopyCmd) (pages : List (Nat × Nat × Nat × Bool)) : List Nat → List SrcByte × State
  | [] => ([], s)
  | b :: bs =>
    let va := wrapInt 44 ((c.src.offset : Int) + c.srcRel b)
    match pages.lookup (va / 2 ^ 16) with
    | some (ppa0, slot, _) =>
      let a := ppa0 + va % 2 ^ 16
      let s := s.detect a
      let r := State.readHbmSrc s c pages bs
      ({ val := s.keyedByte (s.slotLoad slot) a, mark := s.mark a, addr := 2 ^ 63 + 2 ^ 44 + va / 8 * 8, origin := originStack (a / 2 ^ 36) } :: r.1, r.2)
    | none => State.readHbmSrc s c pages bs

/-! ## Sending a granule (R240, R243) -/

/-- Marks of the four words of a granule: the first poisoned source byte of each. -/
def granuleMarks (bs : List SrcByte) : List Nat :=
  (List.range 4).map fun w => firstMark (((bs.drop (8 * w)).take 8).map fun x => x.mark)

/-- Tags of the two pairs: every byte from a tagged pair. -/
def granuleTags (bs : List SrcByte) : Nat :=
  let q := fun i => boolNat (((bs.drop (16 * i)).take 16).length == 16 && ((bs.drop (16 * i)).take 16).all fun x => x.tag)
  q 0 + 2 * q 1

/-- The flit of granule n. -/
def CopyCmd.flit (c : CopyCmd) (pkg t e n : Nat) (bs : List SrcByte) : Flit :=
  let g := c.indexOf pkg n
  { op := .granule, tag := c.streamTag e, src := .tile t, data := bs.map fun x => x.val, size := 32,
    bmask := 2 ^ bs.length - 1, psn := granuleMarks bs, tags := if c.shape.ct then granuleTags bs else 0, ct := c.shape.ct,
    wpoff := c.shape.wpoff, wpen := c.shape.wpen, gidx := g.1, lastg := g.2, nb := bs.length, idx := n, sup := !c.user,
    thr := c.thr }

/-- The first poisoned source word is logged and kept for the signal (R243, Table 13.4). -/
def State.meetPoison (s : State) (t e : Nat) (bs : List SrcByte) : State :=
  let c := s.copyCmd t e
  match bs.find? fun x => x.mark != 0 with
  | some x =>
    if c.cls ≠ 0 ∨ x.mark = 1 then s
    else (s.setCopy t e { c with cls := x.mark - 1, clsOrigin := x.origin }).logCopy t e c (x.mark - 1) x.addr x.origin .none
  | none => s

/-- A granule performed on a tile of the issuing cluster by the engine or the cluster network, with its pointer
(R241, R250). A WPOFF that is no multiple of 8 names the word that holds its byte (DESIGN CHOICE, log 94). -/
def State.localGranule (s : State) (tt off : Nat) (f : Flit) : State :=
  let s := (s.performFlit 0 (spad tt off) f).2
  if f.wpen && (f.lastg || (f.gidx + 1) % 8 == 0) then s.pointerAt (spad tt (f.wpoff / 8 * 8)) (32 * f.gidx + f.nb) 0 0 else s

/-- Tiles that COPYM delivers to. -/
def maskTiles (t mask : Nat) : List Nat := ((List.range 8).filter fun k => bit mask k).map (clusterTile (clusterOf t))

/-- Whether every granule of a command has been sent and has ended. -/
def CopyCmd.drained (c : CopyCmd) : Bool := decide (c.granules ≤ c.next) && c.resend.isEmpty && c.flying.isEmpty

/-- A granule has been acknowledged by its destinations: BYTES sums over them (R252). -/
def CopyCmd.ackGranule (c : CopyCmd) (n : Nat) : CopyCmd :=
  { c with flying := ndel c.flying n, tries := mdel c.tries n,
           bytes := c.bytes + c.granuleBytes n * (if c.kind = .copym then ((List.range 8).filter fun k => bit c.mask k).length else 1) }

/-- Granule n leaves the engine with the bytes read. -/
def State.sendGranule (s : State) (t e n : Nat) (bs : List SrcByte) (hbm : Option (Nat × Nat × Bool)) : State :=
  let c := s.copyCmd t e
  let ga := c.granuleGa s.pkg n
  let f := { c.flit s.pkg t e n bs with ctx := (s.tile t).ctx }
  if c.kind = .copym then
    (maskTiles t c.mask).foldl (fun s tt => s.localGranule tt (gaOff ga) f) (s.setCopy t e (c.ackGranule n))
  else if homeOf s.pkg (tileY t) ga = (.tile t, none) then (s.setCopy t e (c.ackGranule n)).localGranule t (gaOff ga) f
  else
    let s := s.setCopy t e { c with flying := nins (ndel c.flying n) n }
    match hbm with
    | some (ppa, slot, g) =>
      (s.sendHome (.tile t) (.port (portOf ppa)) { f with ga := ppa, key := slot, guarded := g })
    | none => s.sendGa (.tile t) ga f

/-! ## Endings (R236, R242, R244, R245) -/

/-- Destination tiles of the command's end messages, with the bytes of the prefix each has acknowledged. -/
def CopyCmd.endTiles (c : CopyCmd) (pkg t : Nat) : List (Nat × Nat) :=
  let dead := c.missed
  let pre := fun (l : List Nat) =>
    let ok := l.takeWhile fun k => decide (k < c.next) && !dead.contains k
    (ok.map c.granuleBytes).foldl (· + ·) 0
  if c.kind = .tileTo ∨ c.dst.kind = .hbm then []
  else if c.kind = .copym then (maskTiles t c.mask).map fun tt => (gaSpad tt 0, pre (List.range c.granules))
  else if c.dst.kind = .woven then
    let u := c.dst.upper.toNat
    let cur := c.dst.low.toNat
    let rect := (List.range (wH u)).flatMap fun j => (List.range (wW u)).map fun i => gaSpad ((wY0 cur + j) * 64 + wX0 cur + i) 0
    let mine := fun (g : Nat) => (List.range c.granules).filter fun k => placeOf (c.granuleGa pkg k) == placeOf g
    if c.granules = 0 then (if c.shape.wpen then rect.map fun g => (g, 0) else [])
    else ((rect.map fun g => (g, mine g)).filter fun x => !x.2.isEmpty).map fun x => (x.1, pre x.2)
  else if c.granules = 0 ∧ c.shape.wpen = false then []
  else [(c.dst.low.toNat / 2 ^ 32 * 2 ^ 32, pre (List.range c.granules))]

/-- The command ends once its end messages are answered. -/
def State.copyEnded (s : State) (t e : Nat) : State :=
  let c := s.copyCmd t e
  if !c.ends.isEmpty then s
  else if c.stopCls = 0 then s.endCopy t e .ended c.cls c.clsOrigin
  else (s.endCopy t e .endedPoisoned c.stopCls c.stopOrigin).logCopy t e c c.stopCls c.stopAddr c.stopOrigin c.stopReason

/-- The end messages go out; tiles of the issuing cluster reached by the engine itself are written at once. -/
def State.sendEnds (s : State) (t e : Nat) : State :=
  let c := s.copyCmd t e
  let own := fun (g : Nat) => c.kind == .copym || homeOf s.pkg (tileY t) g == (.tile t, none)
  let tiles := c.endTiles s.pkg t
  let far := tiles.filter fun x => !own x.1
  let s := s.setCopy t e { c with ending := true, ends := far.map fun x => gaTile x.1 }
  let s := (tiles.filter fun x => own x.1).foldl (fun s x =>
    if c.shape.wpen then s.pointerAt (spad (gaTile x.1) (c.shape.wpoff / 8 * 8)) x.2 c.stopCls c.stopOrigin else s) s
  let s := far.foldl (fun s x =>
    s.sendGa (.tile t) x.1 { op := .streamend, ctx := (s.tile t).ctx, tag := c.streamTag e, wpoff := c.shape.wpoff,
                             wpen := c.shape.wpen, cls := c.stopCls, origin := c.stopOrigin, nb := x.2, sup := !c.user }) s
  s.copyEnded t e

/-- What follows once a command has nothing in flight: a stopped one sends its end messages, one that has sent
everything ends; COPYT towards the tile store ends with its tile-store write. -/
def State.copyCheck (s : State) (t e : Nat) : State :=
  let c := s.copyCmd t e
  if !c.live || c.ending then s
  else if c.stopCls ≠ 0 then (if c.flying.isEmpty then s.sendEnds t e else s)
  else if c.state == .active && c.drained && c.kind != .tileTo then s.endCopy t e .ended c.cls c.clsOrigin
  else s

/-- A class stops a command (R244); granules that wait for a retry are not sent again, and a COPYT whose tile-store access has
not been granted leaves its matrix entry to complete at once (R253). -/
def State.stopCopy (s : State) (t e cls addr origin : Nat) (why : Reason) : State :=
  let c := s.copyCmd t e
  if !c.live || c.stopCls ≠ 0 then s
  else
    let mine := fun (r : Retry) => r.flit.op == .granule && r.flit.tag == c.streamTag e
    let held := ((s.tile t).retries.filter mine).map fun r => r.flit.idx
    let s := s.updTile t fun y => { y with retries := y.retries.filter fun r => !mine r }
    let s := s.updCluster (clusterOf t) fun x => { x with
      walks := x.walks.filter (fun w => w.agent != .copy t e), parked := x.parked.filter (fun w => w.agent != .copy t e) }
    let s := s.setCopy t e { c with state := .active, stopCls := cls, stopAddr := addr, stopOrigin := origin, stopReason := why,
                                    flying := c.flying.filter (fun n => !held.contains n), missed := c.missed ++ held }
    (if c.tgrant then s else s.cancelMatrix t e).copyCheck t e

/-! ## The engine's steps -/

/-- Channels in use. -/
def channels (q : SMap CopyCmd) : Nat := (q.filter fun x => x.2.chan).length

/-- The oldest queued command. -/
def isOldest (q : SMap CopyCmd) (c : CopyCmd) : Bool :=
  q.all fun x => !(x.2.state == .queued && !x.2.chan && decide (x.2.age < c.age))

/-- What a command's wait flag shows: mark (0 met) and origin, once decided. -/
def State.copyMet (s : State) (t : Nat) (c : CopyCmd) : Option (Nat × Nat) :=
  if c.wf = 0 then some (0, 0)
  else if c.met.isSome then c.met
  else if ownFlag s.pkg t c.wf then s.engineFlag t c.wf c.wn
  else none

/-- The arm of an engine's remote wait flag (R178). -/
def State.armEngine (s : State) (t w thr : Nat) (pc : Word) (head flag wn : Nat) : State :=
  s.post t (.arm w) pc head 0 flag none { op := .arm, thr := w, opnd := wn, idx := thr }

/-- A command with a channel and its flag decided becomes active, or ends poisoned (R229); one that moves nothing
ends (R236). -/
def State.activate (s : State) (t e : Nat) : State :=
  let c := s.copyCmd t e
  match s.copyMet t c with
  | some (0, _) =>
    let s := s.setCopy t e { c with state := .active }
    if c.shape.nb = 0 then s.sendEnds t e else s
  | some (m, o) => (s.endCopy t e .endedPoisoned (m - 1) o).logCopy t e c (m - 1) c.wf o .none
  | none => s

/-- COPY_ACTIVATE: the oldest queued command takes a free channel and waits on its flag; a waiting command whose flag
is met becomes active (R229). -/
def execCopyActivate (tile entry : Nat) (s : State) : Host.Outcome State Fault Refusal :=
  match mfind (s.tile tile).copyq entry with
  | none => .next s
  | some c =>
    let q := (s.tile tile).copyq
    if (s.tile tile).halt != .running then .next s
    else if c.state == .queued && !c.chan && decide (channels q < 4) && isOldest q c then
      let s := s.setCopy tile entry { c with chan := true, state := .waiting }
      let far := c.wf ≠ 0 ∧ homeOf s.pkg (tileY tile) c.wf ≠ (.tile tile, none)
      let s := if far then
          (s.updCopy tile entry fun c => { c with armed := true }).armEngine tile (copyWatcher entry) c.thr c.pc c.head c.wf c.wn
        else if c.wf ≠ 0 then s.look (spad tile (gaOff c.wf)) else s
      .next (s.activate tile entry)
    else if c.state == .waiting then
      let own := ownFlag s.pkg tile c.wf
      .next ((if own then s.look (spad tile (gaOff c.wf)) else s).activate tile entry)
    else .next s

/-- The granule that a command sends next. -/
def CopyCmd.nextGranule (c : CopyCmd) : Option Nat :=
  match c.resend with
  | n :: _ => some n
  | [] => if c.next < c.granules then some c.next else none

/-- A command may send a granule now. -/
def CopyCmd.ready (c : CopyCmd) : Bool :=
  c.state == .active && c.stopCls == 0 && (!c.shape.lw || c.flying.isEmpty) && (c.kind != .tileFrom || c.tdone) &&
    c.nextGranule.isSome

/-- Granule n is on its way. -/
def CopyCmd.advance (c : CopyCmd) (n : Nat) : CopyCmd :=
  if c.resend.contains n then { c with resend := c.resend.drop 1 } else { c with next := n + 1 }

/-- The bytes of granule n are in the engine: they go to their destination, or into the staging slot of COPYT, for which
BYTES counts them as they are read (R252; DESIGN CHOICE, log 95). -/
def State.takeGranule (s : State) (t e n : Nat) (bs : List SrcByte) : State :=
  let s := s.meetPoison t e bs
  let c := s.copyCmd t e
  if c.kind = .tileTo then
    s.setCopy t e { c.advance n with tdata := c.tdata ++ bs.map (fun x => (x.val, x.mark)), bytes := c.bytes + c.granuleBytes n }
  else if c.dst.kind = .hbm then
    let va := gaAddr (c.granuleGa s.pkg n)
    let need : Need := { write := true, read := false, user := c.user }
    let x := s.enginePages t need [] [va]
    match x.1 with
    | .miss va => x.2.engineWalk t e va need
    | .ok pages =>
      match pages.lookup (va / 2 ^ 16) with
      | some (p, slot, g) => ((x.2.setCopy t e (c.advance n)).sendGranule t e n bs (some (p + va % 2 ^ 16, slot, g))).copyCheck t e
      | none => x.2
  else ((s.setCopy t e (c.advance n)).sendGranule t e n bs none).copyCheck t e

/-- Offsets of the engine's own tile that granule n reads and writes: one request of its channel (log 77). -/
def CopyCmd.ownRows (c : CopyCmd) (pkg t n : Nat) : List Nat :=
  let reads := if c.kind = .tileFrom ∨ c.src.kind = .hbm then []
    else (List.range (c.granuleBytes n)).map fun i => wrapInt 19 ((c.src.offset : Int) + c.srcRel (32 * n + i))
  let ga := c.granuleGa pkg n
  let writes := if c.kind = .tileTo then []
    else if c.kind = .copym then (if (maskTiles t c.mask).contains t then [gaOff ga] else [])
    else if homeOf pkg (tileY t) ga = (.tile t, none) then [gaOff ga] else []
  reads ++ writes

/-- Granule n of a channel asks the banks that it needs: the engine's own, and through the cluster network those of the
other tiles that COPYM writes (R16, R229, R250). -/
def State.askGranule (s : State) (t e n : Nat) : Bool × State :=
  let c := s.copyCmd t e
  let far := if c.kind = .copym then (maskTiles t c.mask).filter (· != t) else []
  s.askEach ((orderCopy, e, t, c.ownRows s.pkg t n) ::
    far.map fun k => (orderCluster, 64 + 32 * t + e, k, [gaOff (c.granuleGa s.pkg n)]))

/-- Granule n leaves the tile as a flit, for which the tile keeps room in its retry list (R358 step 6). -/
def CopyCmd.leaves (c : CopyCmd) (pkg t n : Nat) : Bool :=
  c.kind != .tileTo && c.kind != .copym && homeOf pkg (tileY t) (c.granuleGa pkg n) != (.tile t, none)

/-- COPY_GRANULE_SEND: a channel that its banks grant reads the bytes of its next granule and sends it (R229, R240). Poison
met in the tile store, which has no global address, is logged with ADDR 0 (DESIGN CHOICE, log 96). -/
def execCopyGranuleSend (tile entry : Nat) (s : State) : Host.Outcome State Fault Refusal :=
  let c := s.copyCmd tile entry
  if (s.tile tile).halt != .running || !c.ready || (s.cluster (clusterOf tile)).walks.any (fun w => w.agent == .copy tile entry) then .next s
  else
    match c.nextGranule with
    | none => .next s
    | some n =>
      if c.leaves s.pkg tile n && !s.retryRoom tile 1 then .next s
      else
      let asked := s.askGranule tile entry n
      let s := asked.2
      if !asked.1 then .next s
      else
      let bs := (List.range (c.granuleBytes n)).map fun i => 32 * n + i
      if c.kind = .tileFrom then
        let r := bs.map fun b =>
          let x := c.tdata.getD (c.storeIdx b) (0, 0)
          ({ val := x.1, mark := x.2, origin := originTile tile } : SrcByte)
        .next (s.takeGranule tile entry n r)
      else if c.src.kind = .hbm then
        let need : Need := { write := false, read := true, user := c.user }
        let x := s.enginePages tile need [] (bs.map fun b => wrapInt 44 ((c.src.offset : Int) + c.srcRel b))
        match x.1 with
        | .miss va => .next (x.2.engineWalk tile entry va need)
        | .ok pages =>
          let r := x.2.readHbmSrc c pages bs
          .next (r.2.takeGranule tile entry n r.1)
      else
        let r := s.readTileSrc tile c bs
        .next (r.2.takeGranule tile entry n r.1)

/-! ## COPYS, COPYK (R252, R253) -/

/-- The entry and command that an id names. -/
def Tile.command (x : Tile) (v : Nat) : Option (Nat × CopyCmd) :=
  match mfind x.copyq (v % 32) with
  | some c => if c.seq = v / 32 then some (v % 32, c) else none
  | none => none

/-- STATE of Table 10.4. -/
def CopyState.code : CopyState → Nat
  | .queued => 0 | .waiting => 1 | .active => 2 | .parked => 3 | .ended => 4 | .endedPoisoned => 5 | .cancelled => 6

/-- Table 10.4. -/
def copysValue (x : Tile) (v : Nat) : Nat :=
  match x.command v with
  | some (_, c) => CopyState.code c.state + (if c.live then 0 else c.cls % 256) * 2 ^ 8 + c.bytes % 2 ^ 40 * 2 ^ 16
  | none => 7

def execCopys (d a : GIx) (s : State) : Host.Outcome State Fault Refusal :=
  let x := s.cur.rd a
  if x.isPoison then s.trap causePoison x.cls
  else s.doneG d (dataReg (BitVec.ofNat 64 (copysValue s.curT x.low.toNat)))

/-- COPYK at W: its status and effect. The log entry of a command that it stops has ADDR 0 (DESIGN CHOICE, log 96). -/
def State.kill (s : State) (t v : Nat) : Nat × State :=
  match (s.tile t).command v with
  | none => (3, s)
  | some (e, c) =>
    if !c.live || c.tgrant || c.stopCls ≠ 0 then (2, s)
    else if c.state == .queued || c.state == .waiting then (0, s.endCopy t e .cancelled 8 (originTile t))
    else if c.nextGranule.isNone && c.kind != .tileTo then (2, s)
    else (1, s.stopCopy t e 8 0 (originTile t) .none)

def execCopyk (d a : GIx) (s : State) : Host.Outcome State Fault Refusal :=
  let x := s.cur.rd a
  if x.isPoison then s.trap causePoison x.cls
  else
    let r := s.kill s.curTile x.low.toNat
    r.2.doneG d (dataReg (BitVec.ofNat 64 r.1))

end Sys2Proof.Machine
end

