-- ==== Sys2Proof/Machine/Matrix.lean ====
section
/-! DEFINITION. The cluster matrix engine and its tile store (R254-R275): issue of matrix commands, TCFG, the arbiter,
gather, the arithmetic of R80 and R265, conversion and scaling, and completion. -/
namespace Sys2Proof.Machine

/-! ## The tile store (R254, R255) -/

/-- Bits and mark of a unit. -/
def Cluster.unit (cl : Cluster) (u : Nat) : Nat × Nat :=
  let v := (mget 0 cl.store u).toNat
  (v, if cl.storePsn.contains u then v % 256 + 1 else 0)

/-- Unit and low bit of element (i, j) of a descriptor. -/
def descUnit (w : Word) (i j : Nat) : Nat × Nat :=
  let b := 64 * descCol w + j * descSize w
  ((descRow w + i) * 512 + b / 4, b % 4 * 8)

/-- Code and mark of an element. -/
def Cluster.elem (cl : Cluster) (w : Word) (i j : Nat) : Nat × Nat :=
  let u := descUnit w i j
  let x := cl.unit u.1
  (x.1 / 2 ^ u.2 % 2 ^ (8 * descSize w), x.2)

/-- Bytes of a unit replaced where a mask allows it. -/
def mergeUnit (old new mask : Nat) : Nat :=
  leNat ((List.range 4).map fun i => BitVec.ofNat 8 ((if bit mask i then new else old) / 256 ^ i))

/-- A write of a unit: a whole one sets or clears its poison bit; a part of one leaves a poisoned unit poisoned. -/
def Cluster.putUnit (cl : Cluster) (x : UnitWrite) : Cluster :=
  let u := cl.unit x.addr
  let set := fun (v : Nat) (p : Bool) =>
    { cl with store := mset 0 cl.store x.addr (BitVec.ofNat 32 v), storePsn := nset cl.storePsn x.addr p }
  if x.bmask = 15 then (if x.mark = 0 then set x.val.toNat false else set ((x.mark - 1) % 256) true)
  else if u.2 ≠ 0 then cl
  else if x.mark ≠ 0 then set ((x.mark - 1) % 256) true
  else set (mergeUnit u.1 x.val.toNat x.bmask) false

/-- Reads of some units meet the stored errors of their 8 bytes: both units become poisoned with class 0x01, or the error is
corrected and counted under its 8 bytes (R255, R392). -/
def State.lookStore (s : State) (c : Nat) (units : List Nat) : State :=
  let cl := s.cluster c
  let hit := fun (w : Nat) => units.any fun u => u / 2 == w
  let bad := cl.storeUnc.filter hit
  let one := cl.storeOne.filter fun w => hit w && !bad.contains w
  if bad.isEmpty && one.isEmpty then s
  else
    let cl := bad.foldl (fun cl w => (cl.putUnit { addr := 2 * w, val := 0, mark := 2 }).putUnit { addr := 2 * w + 1, val := 0, mark := 2 }) cl
    let s := s.setCluster c { cl with storeUnc := cl.storeUnc.filter (fun w => !hit w), storeOne := cl.storeOne.filter fun w => !hit w }
    one.foldl (fun s w => s.charge 0 (storeUnit c) w) s

/-- Units written: 8 bytes of which only a part is written are read first, and fresh check bits go with what is written. -/
def State.putUnits (s : State) (c : Nat) (l : List UnitWrite) : State :=
  let whole := (l.filter fun x => x.bmask == 15).map fun x => x.addr
  let part := (l.filter fun x => !(whole.contains (x.addr / 2 * 2) && whole.contains (x.addr / 2 * 2 + 1))).map fun x => x.addr
  let s := if (s.cluster c).storeUnc.isEmpty && (s.cluster c).storeOne.isEmpty then s else s.lookStore c part
  let cl := l.foldl Cluster.putUnit (s.cluster c)
  let kept := fun (w : Nat) => !(l.any fun x => x.addr / 2 == w)
  s.setCluster c { cl with storeUnc := cl.storeUnc.filter kept, storeOne := cl.storeOne.filter kept }

/-- A descriptor's rectangle as units, row by row, out to the end of a unit. -/
def descUnits (w : Word) : List Nat :=
  (List.range (descRows w)).flatMap fun i =>
    (List.range (ceilDiv (descCols w * descSize w) 4)).map fun u => (descRow w + i) * 512 + descCol w * 16 + u

/-- Whole units with zero, poison bits clear. -/
def clearUnits (w : Word) : List UnitWrite := (descUnits w).map fun u => { addr := u, val := 0 }

/-! ## Issue (R256, R257) -/

/-- A capability operand of a matrix command: register, bytes of its footprint, alignment. -/
structure MatOpnd where
  field : GIx
  bytes : Nat
  align : Nat
  deriving DecidableEq, Repr

/-- Step 2 of R257 for an operand. -/
def matOk (pkg t : Nat) (r : GReg) : Bool :=
  r.grants permMT && r.kind == .tile && (gaLocal r.low.toNat || gaPkg r.low.toNat == pkg) &&
    clusterOf (gaTile r.low.toNat) == clusterOf t

/-- The checks of R257 over operands in the order of their tail fields, flags included; `tileOk` judges the
descriptor's word. Then a queue entry, with the state taken at issue. -/
def State.issueMatrix (s : State) (t : TIx) (pre : List MatOpnd) (wf wn sf : GIx) (post : List MatOpnd)
    (tileOk : Word → Bool) (sizes : Word → List MatOpnd → List MatOpnd) (mk : MatCmd → MatCmd) :
    Host.Outcome State Fault Refusal :=
  let th := s.cur
  let c := clusterOf s.curTile
  let cl := s.cluster c
  let fieldOf := fun (o : MatOpnd) => (th.rd o.field, o.field.val, true)
  let tags := pre.map fieldOf ++ capArg th (flagField wf) ++ [(th.rd wn, wn.val, false)] ++ capArg th (flagField sf) ++
    post.map fieldOf
  let flags := (flagOpnd th wf).toList ++ (flagOpnd th sf).toList
  match copyTags tags with
  | some (k, v) => s.trap k v
  | none =>
    match (pre ++ post).find? (fun o => !matOk s.pkg s.curTile (th.rd o.field)),
        flags.find? (fun o => !(o.reg.grants o.need && o.spaceOk s.pkg)) with
    | some o, _ => s.trap causePerm (th.rd o.field).low.toNat
    | none, some o => s.trap causePerm o.reg.low.toNat
    | none, none =>
      if !th.priv && flags.any (fun o => o.reg.kind == .mmio) then s.trap causePriv s.headTail
      else if cl.closing.any fun k => k.1 == t.val then s.park (.closing t.val)
      else
        let w := mget 0 cl.desc t.val
        if !descSet w || !tileOk w then s.trap causeTile t.val
        else
          let all := sizes w (pre ++ post)
          let ops : List Opnd := all.map (fun o =>
            { reg := th.rd o.field, field := o.field.val, need := permMT, sp := onlyScratch,
              elems := [{ size := o.bytes }], align := o.align }) ++ flags
          match targetsAll s.pkg ops with
          | .error (k, v) => s.trap k v
          | .ok rs =>
            match misaligned ops rs with
            | some v => s.trap causeAlign v
            | none =>
              if 16 ≤ s.matCount s.curTile then s.park .matrixQueue
              else
                let ws := flagTargets (rs.drop all.length) (wf != 0) (sf != 0)
                let m := mk { thr := s.curThr, pc := th.pc, head := s.curHead, t := t.val, desc := w, wf := ws.1,
                              wn := (th.rd wn).low.toNat, sf := ws.2, ovf := th.ovf, seed := th.seed, n := th.retired }
                let s := (s.updTile s.curTile fun y => { y with matq := y.matq ++ [m] }).watchHead s.curTile
                s.done s.cur

/-- Element type of a matrix type. -/
def mtyElem : MTy → ElemTy
  | .e4m3 => .e4m3 | .e5m2 => .e5m2 | .e3m2 => .e3m2 | .e2m3 => .e2m3 | .e2m1 => .e2m1 | .bf16 => .bf16 | .i8 => .i8

/-- Types with a scale section (Table 11.2). -/
def mtyScaled (ty : MTy) : Bool := ty != .bf16 && ty != .i8

/-- Bytes of a dense block of 32 (Table 11.2), and of N:8 values (R262). -/
def denseBlock (ty : MTy) : Nat := 32 * tyBits (mtyElem ty) / 8
def sparseBlock (ty : MTy) (n : Nat) : Nat := 4 * n * tyBits (mtyElem ty) / 8

/-- K of the field. -/
def kOf (k : Fin 16) : Nat := k.val + 1

def mmaTile (ty : MTy) (w : Word) : Bool :=
  let sizes := ([16, 32, 64, 128] : List Nat)
  descType w == (if ty == .i8 then 1 else 0) && sizes.contains (descRows w) && sizes.contains (descCols w)

/-- Footprints of A and B (R263), for KB blocks and B blocks of sB bytes. -/
def mmaSizes (ty : MTy) (kb sB : Nat) (w : Word) (l : List MatOpnd) : List MatOpnd :=
  let s := boolNat (mtyScaled ty)
  match l with
  | a :: b :: r =>
    { a with bytes := kb * descRows w * (denseBlock ty + s) } :: { b with bytes := kb * descCols w * (sB + s) } ::
      r.map fun o => { o with bytes := 4 * kb * descCols w }
  | l => l

def execMma (ty : MTy) (t : TIx) (a b wf wn sf : GIx) (k : Fin 16) (s : State) : Host.Outcome State Fault Refusal :=
  s.issueMatrix t [⟨a, 0, 32⟩, ⟨b, 0, 32⟩] wf wn sf [] (mmaTile ty) (mmaSizes ty (kOf k) (denseBlock ty))
    fun m => { m with kind := .mma ty (kOf k), a := s.cur.rd a, b := s.cur.rd b }

def spN : SpN → Nat
  | .one => 1 | .two => 2 | .four => 4

def execMmas (ty : MTy) (n : SpN) (t : TIx) (a b md wf wn sf : GIx) (k : Fin 16) (s : State) :
    Host.Outcome State Fault Refusal :=
  s.issueMatrix t [⟨a, 0, 32⟩, ⟨b, 0, 32⟩] wf wn sf [⟨md, 0, 32⟩] (mmaTile ty)
    (mmaSizes ty (kOf k) (sparseBlock ty (spN n)))
    fun m => { m with kind := .mmas ty (spN n) (kOf k), a := s.cur.rd a, b := s.cur.rd b, m := s.cur.rd md }

def execTzero (t : TIx) (wf wn sf : GIx) (s : State) : Host.Outcome State Fault Refusal :=
  s.issueMatrix t [] wf wn sf [] (fun _ => true) (fun _ l => l) fun m => { m with kind := .tzero }

/-- Microscaling destination types of TCVT. -/
def tcvtBlocked : ElemTy → Bool
  | .e4m3 | .e5m2 | .e3m2 | .e2m3 | .e2m1 | .mxint8 => true
  | _ => false

/-- Bytes of a block of 32 elements. -/
def blockBytes (ty : ElemTy) : Nat := 32 * tyBits ty / 8

/-- Bytes that TCVT writes. -/
def tcvtBytes (dty : ElemTy) (w : Word) : Nat :=
  let n := descRows w * descCols w
  if tcvtBlocked dty then n / 32 * (blockBytes dty + 1) else n * (tyBits dty / 8)

def execTcvt (dty : ElemTy) (rm : Rm) (t : TIx) (dst wf wn sf : GIx) (s : State) : Host.Outcome State Fault Refusal :=
  s.issueMatrix t [⟨dst, 0, 32⟩] wf wn sf [] (fun w => !tcvtBlocked dty || descCols w % 32 == 0)
    (fun w l => l.map fun o => { o with bytes := tcvtBytes dty w })
    fun m => { m with kind := .tcvt dty, a := s.cur.rd dst, rm := ((s.cur.rctx rm false 0).mode).code }

/-- TSCL: scale operand, and bias operand where one is named. -/
def State.issueTscl (s : State) (col : Bool) (t : TIx) (sc b wf wn sf : GIx) : Host.Outcome State Fault Refusal :=
  s.issueMatrix t (⟨sc, 0, 4⟩ :: if b = 0 then [] else [⟨b, 0, 4⟩]) wf wn sf [] (fun w => descType w == 0)
    (fun w l => l.map fun o => { o with bytes := 4 * (if col then descCols w else descRows w) })
    fun m => { m with kind := .tscl col, a := s.cur.rd sc, b := if b = 0 then {} else s.cur.rd b }

def execTsclRow (t : TIx) (sc b wf wn sf : GIx) (s : State) : Host.Outcome State Fault Refusal := s.issueTscl false t sc b wf wn sf
def execTsclCol (t : TIx) (sc b wf wn sf : GIx) (s : State) : Host.Outcome State Fault Refusal := s.issueTscl true t sc b wf wn sf

/-! ## TCFG (R269) -/

/-- A word that TCFG accepts (R47). -/
def descValid (w : Word) : Bool :=
  let x := w.toNat
  if descSet w then
    bits x 62 40 == 0 && !bit x 15 && decide (descType w ≤ 3) && decide (descRow w + descRows w ≤ 1024) &&
      decide (64 * descCol w + descCols w * descSize w ≤ 2048)
  else x == 0

def execTcfg (t : TIx) (a : GIx) (s : State) : Host.Outcome State Fault Refusal :=
  let x := s.cur.rd a
  let c := clusterOf s.curTile
  let cl := s.cluster c
  if x.isPoison then s.trap causePoison x.cls
  else if !descValid x.low then s.trap causeTile t.val
  else if cl.closing.any fun k => k.1 == t.val then s.park (.closing t.val)
  else if mget 0 cl.desc t.val = x.low then s.done s.cur
  else
    let who := inCluster s.curTile * 8 + s.curThr + 1
    (s.setCluster c { cl with closing := mput cl.closing t.val who, newWord := mput cl.newWord t.val x.low }).park (.tcfg t.val)

/-- A command that took a copy of descriptor t's word. -/
def namesDesc (t : Nat) (m : MatCmd) : Bool := m.t == t

/-- Whether a command of the cluster still holds a copy of a descriptor's word. -/
def State.descHeld (s : State) (c t : Nat) : Bool :=
  (List.range 8).any (fun k => (s.tile (clusterTile c k)).matq.any (namesDesc t)) ||
    (s.cluster c).staging.any fun x => namesDesc t x.cmd

/-- The closing of a descriptor ends: its TCFG retires, and threads that waited for it re-issue. -/
def State.endClosing (s : State) (c t : Nat) : State :=
  let cl := s.cluster c
  let who := mget 0 cl.closing t
  let s := s.setCluster c { cl with closing := mdel cl.closing t, newWord := mdel cl.newWord t, clearing := ndel cl.clearing t }
  let k := clusterTile c ((who - 1) / 8)
  let h := (who - 1) % 8
  let s := if who ≠ 0 ∧ (s.thr k h).wait = .tcfg t then s.wakeRetired k h (fun th => th) else s
  (List.range 8).foldl (fun s i => (List.range 8).foldl (fun s h =>
    if (s.thr (clusterTile c i) h).wait == .closing t then s.resume (clusterTile c i) h else s) s) s

/-- TCFG_CLOSED: no command holds the old word; the new one is written and its clear begins (R269). -/
def execTcfgClosed (cluster : Nat) (t : TIx) (s : State) : Host.Outcome State Fault Refusal :=
  let cl := s.cluster cluster
  match mfind cl.newWord t.val with
  | none => .next s
  | some w =>
    if cl.clearing.contains t.val || s.descHeld cluster t.val then .next s
    else
      let s := s.setCluster cluster { cl with desc := mset 0 cl.desc t.val w,
                                              clearing := if descSet w then nins cl.clearing t.val else cl.clearing }
      .next (if descSet w then s else s.endClosing cluster t.val)

/-- TCFG_CLEAR_DONE: every command granted before the clear has completed, and the rectangle is cleared. -/
def execTcfgClearDone (cluster : Nat) (t : TIx) (s : State) : Host.Outcome State Fault Refusal :=
  let cl := s.cluster cluster
  if !cl.clearing.contains t.val || !cl.staging.isEmpty || cl.mending.contains 0 then .next s
  else
    .next ((s.putUnits cluster (clearUnits (mget 0 cl.desc t.val))).endClosing cluster t.val)

/-! ## Gather (R261) -/

/-- Bytes of a tile's scratchpad with the mark of each. -/
def State.snap (s : State) (t off len : Nat) : Snap × State :=
  let a := spad t off
  let s := s.lookWords (a / 8 * 8) ((off % 8 + len + 7) / 8)
  let marks := (List.range len).filterMap fun i => if s.mark (a + i) = 0 then none else some (i, s.mark (a + i))
  ({ bytes := s.bytes a len, marks := marks, home := t }, s)

/-- Rows that hold len bytes from an offset. -/
def rowsFrom (off len : Nat) : List Nat := (List.range ((off % 64 + len + 63) / 64)).map fun i => off + 64 * i

/-- The rows of a gather, by tile; operands of one tile make one request (log 77). -/
def gatherRows (l : List (GReg × Nat)) : List (Nat × List Nat) :=
  l.foldl (fun acc x => if !x.1.isCap || x.2 = 0 then acc
    else
      let t := gaTile x.1.low.toNat
      let r := rowsFrom (gaOff x.1.low.toNat) x.2
      match acc.lookup t with
      | some q => (t, q ++ r) :: acc.filter fun p => p.1 != t
      | none => (t, r) :: acc) []

/-- The operand of a register, len bytes from its cursor; none for an operand not named. -/
def State.snapReg (s : State) (r : GReg) (len : Nat) : Snap × State :=
  if r.isCap then s.snap (gaTile r.low.toNat) (gaOff r.low.toNat) len else ({}, s)

/-- Lengths of the operands that a command gathers. -/
def matLens (m : MatCmd) : Nat × Nat × Nat :=
  let rows := descRows m.desc
  let cols := descCols m.desc
  match m.kind with
  | .mma ty k => (k * rows * (denseBlock ty + boolNat (mtyScaled ty)), k * cols * (denseBlock ty + boolNat (mtyScaled ty)), 0)
  | .mmas ty n k => (k * rows * (denseBlock ty + boolNat (mtyScaled ty)), k * cols * (sparseBlock ty n + boolNat (mtyScaled ty)), 4 * k * cols)
  | .tscl col => (4 * (if col then cols else rows), 4 * (if col then cols else rows), 0)
  | _ => (0, 0, 0)

/-- A granted command with its operands gathered. -/
def State.gather (s : State) (k : Nat) (m : MatCmd) (flag : Nat × Nat) : Staging × State :=
  if flag.1 ≠ 0 ∨ m.cancelled = true then ({ tile := k, cmd := m, flag := flag.1, flagOrigin := flag.2 }, s)
  else
    let n := matLens m
    let a := s.snapReg m.a n.1
    let b := a.2.snapReg m.b n.2.1
    let x := b.2.snapReg m.m n.2.2
    ({ tile := k, cmd := m, opA := a.1, opB := b.1, opM := x.1 }, x.2)

/-! ## The arbiter (R258, R259) -/

/-- What the head of a tile's queue waits for: its mark and origin once its flag is decided. COPYT is eligible once
its copy command is active (log 27). -/
def State.headMet (s : State) (t : Nat) (m : MatCmd) : Option (Nat × Nat) :=
  match m.kind with
  | .copyTo e | .copyFrom e =>
    let c := s.copyCmd t e
    if c.state == .active && c.stopCls == 0 then some (0, 0) else none
  | _ =>
    if m.wf = 0 then some (0, 0)
    else if m.met.isSome then m.met
    else if ownFlag s.pkg t m.wf then s.engineFlag t m.wf m.wn
    else none

/-- A cancelled head completes at once; a head with a remote flag sends its arm, one with an own-tile flag reads it. -/
def State.prepareHead (s : State) (t : Nat) : Nat → State
  | 0 => s
  | n + 1 =>
    match (s.tile t).matq with
    | [] => s
    | m :: r =>
      if (s.tile t).halt != .running then s
      else if m.cancelled then State.prepareHead (((s.updTile t fun y => { y with matq := r }).watchHead t).wakeQueue t) t n
      else
        let isCopy := match m.kind with | .copyTo _ | .copyFrom _ => true | _ => false
        if m.armed || isCopy || m.wf = 0 then s
        else if ownFlag s.pkg t m.wf then (s.look (spad t (gaOff m.wf))).watchHead t
        else
          (s.updTile t fun y => { y with matq := { m with armed := true } :: r }).armEngine t 40 m.thr m.pc m.head m.wf m.wn

/-- Tile k of a cluster has an eligible head. -/
def State.eligible (s : State) (c k : Nat) : Bool :=
  let t := clusterTile c k
  match (s.tile t).matq with
  | m :: _ => (s.tile t).halt == .running && (s.headMet t m).isSome
  | [] => false

/-- The tile that R259 grants, with p and r after the grant. -/
def State.arbitrate (s : State) (c : Nat) : Option (Nat × Nat × Nat) :=
  let cl := s.cluster c
  if 0 < cl.arbR ∧ s.eligible c cl.arbP = true then some (cl.arbP, cl.arbP, cl.arbR - 1)
  else
    match (after cl.arbP).find? (s.eligible c) with
    | some k => some (k, k, (s.tile (clusterTile c k)).matwt.toNat - 1)
    | none => none

/-- MATRIX_GRANT: with a free staging slot and an eligible head, the arbiter grants it and its gather is made. A clear
of TCFG goes before the next grant (R269). -/
def execMatrixGrant (cluster : Nat) (s : State) : Host.Outcome State Fault Refusal :=
  let s := (List.range 8).foldl (fun s k => s.prepareHead (clusterTile cluster k) 17) s
  let cl := s.cluster cluster
  if 2 ≤ cl.staging.length || !cl.clearing.isEmpty then .next s
  else
    match s.arbitrate cluster with
    | none => .next s
    | some (k, p, r) =>
      let t := clusterTile cluster k
      match (s.tile t).matq with
      | [] => .next s
      | m :: rest =>
        let met := (s.headMet t m).getD (0, 0)
        let n := matLens m
        let rows := if met.1 ≠ 0 ∨ m.cancelled = true then [] else gatherRows [(m.a, n.1), (m.b, n.2.1), (m.m, n.2.2)]
        let asked := s.askAll orderCluster 0 rows
        let s := asked.2
        if !asked.1 then .next s
        else
        let s := (s.updTile t fun y => { y with matq := rest }).watchHead t
        let g := s.gather k m met
        let s := g.2.updCluster cluster fun x => { x with arbP := p, arbR := r, staging := x.staging ++ [g.1] }
        .next (match m.kind with
          | .copyTo e | .copyFrom e => s.updCopy t e fun c => { c with tgrant := true }
          | _ => s)

/-! ## Arithmetic (R263-R266) -/

/-- Value and mark of a span of a snapshot. -/
def Snap.span (x : Snap) (off len : Nat) : Nat × Nat :=
  (leNat ((x.bytes.drop off).take len), firstMark ((List.range len).map fun i => mget 0 x.marks (off + i)))

/-- Code e of a packed block, w bits each (R66). -/
def codeAt (w block e : Nat) : Nat := block / 2 ^ (w * e) % 2 ^ w

/-- Number of set bits of x below position j. -/
def rankBelow (x j : Nat) : Nat := ((List.range j).filter fun i => bit x i).length

/-- Place in the values block of position e of a sparse block; none: absent (R264). -/
def sparsePlace (n meta_ e : Nat) : Option Nat :=
  let q := e / 8
  let byte := meta_ / 256 ^ q % 256
  let r := rankBelow byte (e % 8)
  if bit byte (e % 8) && decide (r < n) then some (n * q + r) else none

/-- The exact sum of the products of positions lo to lo + len - 1 of a block (R80, R81). -/
def blockSum (ty : MTy) (n : Option Nat) (a b md lo len : Nat) : FVal :=
  let e := mtyElem ty
  let w := tyBits e
  let prods := (List.range len).filterMap fun i =>
    let k := lo + i
    match n with
    | none => some (fmulVal (readVal e (codeAt w a k)) (readVal e (codeAt w b k)))
    | some n => (sparsePlace n md k).map fun p => fmulVal (readVal e (codeAt w a k)) (readVal e (codeAt w b p))
  if prods.isEmpty then .zero false else fsum .rne prods

/-- c := Round(c + V, F32, RNE). -/
def accStep (c : Nat) (v : FVal) : Nat := fmtF32.round { mode := .rne } (fsum .rne [fmtF32.read c, v]).exact

/-- Scaled by the codes of two blocks (R80). -/
def scaled2 (v : FVal) (xa xb : Nat) : FVal := scaled (scaled v xa) xb

/-- The integer sum of a block for .I8. -/
def blockSumI (n : Option Nat) (a b md : Nat) : Int :=
  ((List.range 32).map fun k =>
    match n with
    | none => sgn 8 (codeAt 8 a k) * sgn 8 (codeAt 8 b k)
    | some n => match sparsePlace n md k with
      | some p => sgn 8 (codeAt 8 a k) * sgn 8 (codeAt 8 b p)
      | none => 0).foldl (· + ·) 0

/-- Place of B's blocks (R263). -/
def qOf (kbs j kb : Nat) : Nat := (j / 16 * kbs + kb) * 16 + j % 16

/-- The parts of block kb for element (i, j): A, A scale, B, B scale, metadata, each with its mark. -/
def mmaParts (ty : MTy) (n : Option Nat) (kbs rows cols : Nat) (x : Staging) (i j kb : Nat) : List (Nat × Nat) :=
  let sb := denseBlock ty
  let sB := match n with | some n => sparseBlock ty n | none => sb
  let q := qOf kbs j kb
  let sc := mtyScaled ty
  [x.opA.span ((kb * rows + i) * sb) sb,
   if sc then x.opA.span (kbs * rows * sb + kb * rows + i) 1 else (127, 0),
   x.opB.span (q * sB) sB,
   if sc then x.opB.span (kbs * cols * sB + q) 1 else (127, 0),
   if n.isSome then x.opM.span (4 * q) 4 else (0, 0)]

/-- One block's step on the accumulator. -/
def mmaStep (ty : MTy) (n : Option Nat) (p : List (Nat × Nat)) (c : Nat) : Nat :=
  let g := fun k => (p.getD k (0, 0)).1
  match ty with
  | .i8 => wrapInt 32 ((c : Int) + blockSumI n (g 0) (g 2) (g 4))
  | .bf16 => accStep (accStep c (blockSum ty n (g 0) (g 2) (g 4) 0 16)) (blockSum ty n (g 0) (g 2) (g 4) 16 16)
  | _ => accStep c (scaled2 (blockSum ty n (g 0) (g 2) (g 4) 0 32) (g 1) (g 3))

/-- An output element over blocks kb, kb + 1, ...: its bits, and the first mark met with whether it was met in A. -/
def mmaBlocks (ty : MTy) (n : Option Nat) (kbs rows cols : Nat) (x : Staging) (i j : Nat) :
    Nat → Nat → Nat → Option (Nat × Nat) → Nat × Option (Nat × Nat)
  | 0, _, c, bad => (c, bad)
  | m + 1, kb, c, bad =>
    let p := mmaParts ty n kbs rows cols x i j kb
    let mk := fun k => (p.getD k (0, 0)).2
    let here :=
      if mk 0 ≠ 0 then some (mk 0, x.opA.home) else if mk 1 ≠ 0 then some (mk 1, x.opA.home)
      else if mk 2 ≠ 0 then some (mk 2, x.opB.home) else if mk 3 ≠ 0 then some (mk 3, x.opB.home)
      else if mk 4 ≠ 0 then some (mk 4, x.opM.home) else none
    mmaBlocks ty n kbs rows cols x i j m (kb + 1) (mmaStep ty n p c) (match bad with | some b => some b | none => here)

/-- What a command writes: units, scratchpad granules, and the mark and origin of the first poisoned element. -/
structure MatOut where
  writes : List UnitWrite := []
  spad : List (Nat × Flit) := []
  out : Nat := 0
  origin : Nat := 0
  deriving DecidableEq, Repr

/-- Units written from elements in row-major order, each with its mark and origin. -/
def outOf (l : List (UnitWrite × Nat)) : MatOut :=
  match l.find? fun x => x.1.mark != 0 with
  | some x => { writes := l.map fun y => y.1, out := x.1.mark, origin := x.2 }
  | none => { writes := l.map fun y => y.1 }

/-- Elements (i, j) in row-major order. -/
def places (w : Word) : List (Nat × Nat) :=
  (List.range (descRows w)).flatMap fun i => (List.range (descCols w)).map fun j => (i, j)

/-- MMA and MMAS over the gathered bytes (R265, R266); `fails`: the elements, in row-major order, whose second execution
mismatched too. -/
def mmaOut (cl : Cluster) (t : Nat) (x : Staging) (ty : MTy) (n : Option Nat) (kbs : Nat) (fails : Nat → Bool) : MatOut :=
  let w := x.cmd.desc
  outOf ((places w).map fun p =>
    let c := cl.elem w p.1 p.2
    let r := mmaBlocks ty n kbs (descRows w) (descCols w) x p.1 p.2 kbs 0 c.1 none
    let mk : Nat × Nat := if c.2 ≠ 0 then (c.2, t) else match r.2 with
      | some b => b
      | none => if fails (p.1 * descCols w + p.2) then (8, t) else (0, 0)
    ({ addr := (descUnit w p.1 p.2).1, val := BitVec.ofNat 32 r.1, mark := mk.1 }, mk.2))

/-- TSCL (R274). -/
def tsclOut (cl : Cluster) (t : Nat) (x : Staging) (col : Bool) : MatOut :=
  let w := x.cmd.desc
  outOf ((places w).map fun p =>
    let c := cl.elem w p.1 p.2
    let v := if col then p.2 else p.1
    let sc := x.opA.span (4 * v) 4
    let bi := if x.cmd.b.isCap then x.opB.span (4 * v) 4 else (0, 0)
    let prod := fmulVal (fmtF32.read c.1) (fmtF32.read sc.1)
    let val := if x.cmd.b.isCap then fsum .rne [prod, fmtF32.read bi.1] else prod
    let mk : Nat × Nat := if c.2 ≠ 0 then (c.2, t) else if sc.2 ≠ 0 then (sc.2, x.opA.home) else (bi.2, x.opB.home)
    ({ addr := (descUnit w p.1 p.2).1, val := BitVec.ofNat 32 (fmtF32.round { mode := .rne } val.exact), mark := mk.1 }, mk.2))

/-- The source type of a descriptor. -/
def descElem (w : Word) : ElemTy :=
  match descType w with
  | 0 => .f32 | 1 => .i32 | 2 => .bf16 | _ => .f16

/-- Rounding of a command at an index (R76). -/
def MatCmd.rctx (m : MatCmd) (e : Nat) : RCtx :=
  let mode := (Rm.ofCode m.rm).getD .rne
  { mode := mode, ovf := m.ovf, q := if mode = .sr then srDraw m.seed m.n e else 0 }

/-- Bytes with their marks that TCVT writes, in the order of its destination (R273). -/
def tcvtBytesOf (cl : Cluster) (m : MatCmd) (dty : ElemTy) : List (Byte × Nat) :=
  let w := m.desc
  let src := descElem w
  let cols := descCols w
  if tcvtBlocked dty then
    let blocks := (List.range (descRows w * cols / 32)).map fun q =>
      let i := q / (cols / 32)
      let j0 := q % (cols / 32) * 32
      let es := (List.range 32).map fun k => cl.elem w i (j0 + k)
      let mk := firstMark (es.map fun e => e.2)
      let vs := es.map fun e => readVal src e.1
      let x := blockScale dty vs
      let codes := blockCodes dty x (fun k => m.rctx (i * cols + j0 + k)) vs
      (natLe (blockBytes dty) (packElts (tyBits dty) codes), x, mk)
    blocks.flatMap (fun b => b.1.map fun y => (y, b.2.2)) ++ blocks.map fun b => (BitVec.ofNat 8 b.2.1, b.2.2)
  else
    (places w).flatMap fun p =>
      let e := cl.elem w p.1 p.2
      (natLe (tyBits dty / 8) (convert src dty (m.rctx (p.1 * cols + p.2)) e.1)).map fun y => (y, e.2)

/-- A run of bytes as granules from a flat address aligned to 32. -/
def granulesOf (a : Nat) (bs : List (Byte × Nat)) : List (Nat × Flit) :=
  (List.range (ceilDiv bs.length 32)).map fun g =>
    let part := (bs.drop (32 * g)).take 32
    (a + 32 * g, { op := .granule, data := part.map fun x => x.1, bmask := 2 ^ part.length - 1,
                   psn := (List.range 4).map fun q => firstMark (((part.drop (8 * q)).take 8).map fun x => x.2) })

/-- TCVT (R273): the class of its signal is that of the first poisoned element. -/
def tcvtOut (cl : Cluster) (t : Nat) (m : MatCmd) (dty : ElemTy) : MatOut :=
  let first := firstMark ((places m.desc).map fun p => (cl.elem m.desc p.1 p.2).2)
  { spad := granulesOf (spad (gaTile m.a.low.toNat) (gaOff m.a.low.toNat)) (tcvtBytesOf cl m dty), out := first, origin := t }

/-- Raw elements written by COPYT.TO: the stream's bytes unit by unit (R251, R255). -/
def storeWrites (w : Word) (data : List (Byte × Nat)) : List UnitWrite :=
  let sz := descSize w
  if sz = 4 then
    (places w).zipIdx.map fun p =>
      let b := (data.drop (4 * p.2)).take 4
      { addr := (descUnit w p.1.1 p.1.2).1, val := BitVec.ofNat 32 (leNat (b.map fun x => x.1)), mark := firstMark (b.map fun x => x.2) }
  else
    (List.range (descRows w)).flatMap fun i => (List.range (ceilDiv (descCols w) 2)).map fun u =>
      let b := (data.drop (2 * (i * descCols w + 2 * u))).take (Nat.min 4 (2 * (descCols w - 2 * u)))
      { addr := (descUnit w i (2 * u)).1, val := BitVec.ofNat 32 (leNat (b.map fun x => x.1)), mark := firstMark (b.map fun x => x.2),
        bmask := 2 ^ b.length - 1 }

/-- Raw elements read by COPYT.FROM, with the mark of each byte's unit. -/
def storeBytes (cl : Cluster) (w : Word) : List (Byte × Nat) :=
  (places w).flatMap fun p =>
    let e := cl.elem w p.1 p.2
    (natLe (descSize w) e.1).map fun y => (y, e.2)

/-- What a granted command writes, all of its reads made now. -/
def matOut (cl : Cluster) (t : Nat) (x : Staging) (copyData : List (Byte × Nat)) (fails : Nat → Bool) : MatOut :=
  match x.cmd.kind with
  | .mma ty k => mmaOut cl t x ty none k fails
  | .mmas ty n k => mmaOut cl t x ty (some n) k fails
  | .tzero => { writes := clearUnits x.cmd.desc }
  | .tcvt dty => tcvtOut cl t x.cmd dty
  | .tscl col => tsclOut cl t x col
  | .copyTo _ => { writes := storeWrites x.cmd.desc copyData }
  | .copyFrom _ => {}

/-- What a command writes from a staging slot that fails its check where no product is recomputed: every unit and granule
poisoned with class 0x07 (R388). -/
def MatOut.spoiled (o : MatOut) (bad : Bool) (t : Nat) : MatOut :=
  if !bad then o
  else
    { writes := o.writes.map fun w => if w.mark = 0 then { w with mark := 8 } else w,
      spad := o.spad.map fun g => (g.1, { g.2 with psn := g.2.psn.map fun m => if m = 0 then 8 else m }),
      out := if o.out = 0 then 8 else o.out, origin := if o.out = 0 then t else o.origin }

/-- Gathering of COPYT.TO has ended: every granule of its copy command has been read. -/
def State.gathered (s : State) (t : Nat) (m : MatCmd) : Bool :=
  match m.kind with
  | .copyTo e =>
    let c := s.copyCmd t e
    m.cancelled || (decide (c.granules ≤ c.next) && c.state == .active)
  | _ => true

def isProduct (m : MatCmd) : Bool :=
  match m.kind with
  | .mma _ _ | .mmas _ _ _ => true
  | _ => false

/-- Element i mismatches in the second execution as well. -/
def Residue.fails (r : Residue) (i : Nat) : Bool :=
  match r with
  | .passes => false
  | .all => true
  | .only l => l.contains i

/-- MATRIX_EXECUTE: the oldest granted command executes; a residue mismatch makes it execute twice, and the elements that
mismatch again are written poisoned with class 0x07 (R260, R268, R422). -/
def execMatrixExecute (cluster : Nat) (s : State) : Host.Outcome State Fault Refusal :=
  match (s.cluster cluster).staging with
  | [] => .next s
  | x :: rest =>
    let t := clusterTile cluster x.tile
    if x.executed || !s.gathered t x.cmd || (s.cluster cluster).mending.contains 0 then .next s
    else if x.flag ≠ 0 ∨ x.cmd.cancelled = true then
      .next (s.updCluster cluster fun cl => { cl with staging := { x with executed := true, out := x.flag, outOrigin := x.flagOrigin } :: rest })
    else
      let hit := if isProduct x.cmd then (s.cluster cluster).residue else none
      let s := if hit.isSome then s.updCluster cluster fun cl => { cl with residue := none } else s
      let s := if hit.isSome || x.bad then s.charge 3 cluster else s
      let fails := fun (i : Nat) => x.bad || (match hit with | some r => r.fails i | none => false)
      let caught := x.bad || (hit.isSome && (List.range (descRows x.cmd.desc * descCols x.cmd.desc)).any fails)
      let s := s.lookStore cluster (match x.cmd.kind with | .tzero | .copyTo _ => [] | _ => descUnits x.cmd.desc)
      let s := if caught then s.event 1 3 7 cluster (mget {} s.evo.wear (wearKey 3 cluster)).count 0 else s
      let cl := s.cluster cluster
      let data := match x.cmd.kind with
        | .copyTo e => (s.copyCmd t e).tdata
        | _ => []
      let o := (matOut cl t x data fails).spoiled (x.bad && !isProduct x.cmd) t
      let s := match x.cmd.kind with
        | .copyFrom e => s.updCopy t e fun c => { c with tdata := (storeBytes cl x.cmd.desc).map (fun (b : Byte × Nat) => if x.bad && b.2 == 0 then (b.1, 8) else b), tdone := true }
        | _ => s
      .next (s.updCluster cluster fun cl =>
        { cl with staging := { x with executed := true, writes := o.writes, spad := o.spad, out := o.out, outOrigin := o.origin } :: rest })

/-- MATRIX_COMPLETE: the executed command's writes are performed, its flag is signalled, its slot and queue entry are
freed (R258, R260). -/
def execMatrixComplete (cluster : Nat) (s : State) : Host.Outcome State Fault Refusal :=
  match (s.cluster cluster).staging with
  | [] => .next s
  | x :: rest =>
    let asked := s.askAll orderCluster 1 (gatherRows [(x.cmd.a, if x.spad.isEmpty then 0 else (x.spad.map fun w => w.2.data.length).foldl (· + ·) 0)])
    if !x.executed || (s.cluster cluster).mending.contains 0 then .next s
    else if !asked.1 then .next asked.2
    else
      let s := asked.2
      let t := clusterTile cluster x.tile
      let s := (s.putUnits cluster x.writes).updCluster cluster fun cl => { cl with staging := rest }
      let s := x.spad.foldl (fun s w => (s.performFlit 0 w.1 w.2).2) s
      let s := match x.cmd.kind with
        | .copyTo e =>
          if x.cmd.cancelled then s
          else
            let c := s.copyCmd t e
            s.endCopy t e .ended c.cls c.clsOrigin
        | .copyFrom _ => s
        | _ => s.signalSf t x.cmd.thr x.cmd.pc x.cmd.head x.cmd.sf (x.out - 1) x.outOrigin
      .next (s.wakeQueue t)

end Sys2Proof.Machine
end

