-- ==== Sys2Proof/Machine/System.lean ====
section
/-! DEFINITION. System instructions, majors 0x70-0x75 (R182-R203): ERET, YIELD, HALT, PDRAIN, RDCNT, TRAP, system
registers, WAKE, thread images with the stopping of their target (R179, R202), and TLBINV. -/
namespace Sys2Proof.Machine

/-! ## Control (R188, R195-R201) -/

/-- ERET (R188): ECAP becomes the code capability with EPC as the PC. Whether it has EX, or names this tile, is not looked at
here (DEDUCED, log 73). -/
def execEret (s : State) : Host.Outcome State Fault Refusal :=
  s.privileged (
    if !s.cur.ecap.isCap then s.trap causeNotCap 0
    else .next (s.setCur s.cur.eret))

def execYield (s : State) : Host.Outcome State Fault Refusal :=
  if s.cur.wakep then s.done { s.cur with wakep := false }
  else .next (s.setCur { s.cur.retire with run := .yield, wait := .none })

def execHalt (s : State) : Host.Outcome State Fault Refusal :=
  .next (s.setCur { s.cur.retire with run := .halted, wait := .none })

def execPdrain (s : State) : Host.Outcome State Fault Refusal :=
  s.privileged (if s.curT.posted.any (drains s.curThr) then s.park .pdrain else s.done s.cur)

/-- CYCLE at stage X1, four cc after issue (R192); the cycle of issue is already counted. -/
def Tile.cycleAtX1 (x : Tile) : Word := BitVec.ofNat 64 (x.cycle + 3)

def execRdcnt (d : GIx) (s : State) : Host.Outcome State Fault Refusal :=
  s.doneG d (dataReg (if s.curT.replay then s.cur.retired else s.curT.cycleAtX1))

/-- TRAP retires and then traps; EPC is its successor (R186, R195). Where it halts its thread, the PC of the thread and of the record
is the TRAP's own (R187; DEDUCED, log 45). -/
def execTrap (code : BitVec 8) (s : State) : Host.Outcome State Fault Refusal :=
  let succ := s.cur.succ
  let s := s.setCur s.cur.count
  .next (s.trapOn s.curTile s.curThr causeTrap code.toNat succ false)

/-! ## System registers (R189-R193) -/

def RunState.code : RunState → Nat
  | .rotation => 0 | .wfw => 1 | .yield => 2 | .reissue => 3 | .halted => 4

/-- STATUS with a STATE (Table 8.3). -/
def Thread.status (t : Thread) (st : Nat) : Word :=
  BitVec.ofNat 64 (st * 2 ^ 8 + boolNat t.bskip * 2 ^ 5 + boolNat t.wakep * 2 ^ 4 + boolNat t.be * 2 ^ 3 + boolNat t.exl * 2 ^ 2 +
    boolNat t.ppriv * 2 + boolNat t.priv)

/-- RMODE and ECAUSE (Table 8.4). -/
def Thread.rmode (t : Thread) : Word := BitVec.ofNat 64 (boolNat t.ovf * 16 + boolNat t.ftz * 8 + t.rm.toNat)
def Thread.ecause (t : Thread) : Word := BitVec.ofNat 64 (boolNat t.walkBit * 256 + t.cause.toNat)

/-- Clusters on present dies: the cluster memory ports present (R203). -/
def State.presentPorts (s : State) : List Nat := (List.range 512).filter fun c => s.diePresent (dieOf c)

/-- A system register as SYSRD gives it. -/
def State.sysRead (s : State) (r : SysReg) : GReg :=
  let t := s.cur
  let x := s.curT
  match r with
  | .status => dataReg (t.status 0)
  | .mode => dataReg (BitVec.ofNat 64 (boolNat t.mode))
  | .rmode => dataReg t.rmode
  | .seed => dataReg t.seed
  | .tvec => dataReg t.tvec
  | .epc => dataReg t.epc
  | .ecause => dataReg t.ecause
  | .eval => dataReg t.eval
  | .ecap => t.ecap
  | .bpc => dataReg t.bpc
  | .tileid => dataReg (BitVec.ofNat 64 s.curTile)
  | .thrid => dataReg (BitVec.ofNat 64 s.curThr)
  | .ctxid => dataReg (BitVec.ofNat 64 x.ctx)
  | .pkgid => dataReg (BitVec.ofNat 64 s.pkg)
  | .nports => dataReg (BitVec.ofNat 64 s.presentPorts.length)
  | .cycle => dataReg x.cycleAtX1
  | .retired => dataReg t.retired
  | .injstall => dataReg x.injstall
  | .throttle => dataReg x.throttleCnt
  | .matwt => dataReg (x.matwt.setWidth 64)

/-- Registers hidden from user mode (Table 8.2). -/
def userHidden : SysReg → Bool
  | .tvec | .epc | .ecause | .eval | .ecap | .bpc => true
  | _ => false

def userWritable : SysReg → Bool
  | .rmode | .seed => true
  | _ => false

def execSysrd (d : GIx) (r : SysReg) (s : State) : Host.Outcome State Fault Refusal :=
  if !s.cur.priv && userHidden r then s.trap causePriv s.headTail else s.doneG d (s.sysRead r)

/-- RMODE.RM as stored: a reserved code or DYN stores 000 (R67). -/
def rmStored (v : Nat) : BitVec 3 := if v % 8 < 5 then BitVec.ofNat 3 v else 0

def Thread.setStatus (t : Thread) (v : Nat) : Thread :=
  { t with bskip := bit v 5, wakep := bit v 4, be := bit v 3, exl := bit v 2, ppriv := bit v 1 }

def Thread.setRmode (t : Thread) (v : Nat) : Thread := { t with ovf := bit v 4, ftz := bit v 3, rm := rmStored v }

def Thread.setEcause (t : Thread) (v : Nat) : Thread := { t with walkBit := bit v 8, cause := BitVec.ofNat 8 v }

/-- A thread's own register written; read-only ones are unchanged. -/
def Thread.sysWrite (t : Thread) (r : SysReg) (x : GReg) : Thread :=
  let v := x.low
  match r with
  | .status => t.setStatus v.toNat
  | .rmode => t.setRmode v.toNat
  | .seed => { t with seed := v }
  | .tvec => { t with tvec := v }
  | .epc => { t with epc := v }
  | .ecause => t.setEcause v.toNat
  | .eval => { t with eval := v }
  | .ecap => { t with ecap := x }
  | .bpc => { t with bpc := v }
  | _ => t

def execSyswr (r : SysReg) (a : GIx) (s : State) : Host.Outcome State Fault Refusal :=
  let x := s.cur.rd a
  if !s.cur.priv && !userWritable r then s.trap causePriv s.headTail
  else if x.isPoison then s.trap causePoison x.cls
  else
    match r with
    | .retired => .next (s.setCur { s.cur.retire with retired := x.low })
    | .matwt =>
      let w : BitVec 4 := BitVec.ofNat 4 x.low.toNat
      let s := s.updTile s.curTile fun y => { y with matwt := if w = 0 then 1 else w }
      s.done s.cur
    | _ => s.done (s.cur.sysWrite r x)

/-! ## WAKE (R198) -/

/-- The effect of a wake on a thread (Table 8.5). -/
def State.wakeThread (s : State) (t h : Nat) (sup : Bool) : State :=
  let th := s.thr t h
  match th.run with
  | .halted => s
  | .yield => s.resume t h
  | _ =>
    if sup && th.wait == .fault then s.setThr t h { th with run := .rotation, wait := .none, walkEnds := [] }
    else s.setThr t h { th with wakep := true }

def execWake (a : GIx) (s : State) : Host.Outcome State Fault Refusal :=
  let x := s.cur.rd a
  let v := x.low.toNat
  if x.isPoison then s.trap causePoison x.cls
  else if gaSpace v ≠ 0 ∨ bits v 18 3 ≠ 0 then s.trap causePerm v
  else
    let ga := localise s.pkg v
    if s.ownGa ga then
      let s := s.setCur s.cur.retire
      .next (s.wakeThread s.curTile (v % 8) s.cur.priv)
    else if !s.retryRoom s.curTile 1 then s.park .retryFull
    else
      let s := s.post s.curTile (.posted s.curThr) s.cur.pc s.curHead x.low ga none
        { op := .wake, thr := v % 8, sup := s.cur.priv }
      s.done s.cur

/-! ## Stopping a thread (R179, R358) -/

/-- A thread is at an instruction boundary with nothing of it outstanding. -/
def Thread.settled (t : Thread) : Bool :=
  match t.run with
  | .halted | .wfw | .yield => true
  | .rotation => t.skip == 0 && t.served.isEmpty
  | .reissue => t.wait == .none

/-- A closing descriptor whose clear has not begun stays as it was. -/
def State.dropClosing (s : State) (t h d : Nat) : State :=
  let c := clusterOf t
  let cl := s.cluster c
  if mget 0 cl.closing d = inCluster t * 8 + h + 1 ∧ ¬ cl.clearing.contains d then s.endClosing c d else s

/-- A wait whose thread has arrived at a barrier. -/
def Wait.arrived : Wait → Bool
  | .bar _ | .crown (.pbar _ _) _ => true
  | _ => false

/-- A wait is given up and its instruction left to re-issue; an arrival that the wait followed is remembered (R295). -/
def Thread.unwait (th : Thread) : Thread :=
  { th with wait := .none, limbo := if th.wait.arrived then some (th.pc.toNat % 2 ^ 19, th.wait) else th.limbo }

/-- A stopped thread gives up a wait in which nothing has been performed, and is left to re-issue; a registered LDC or
STP is withdrawn; a request already sent is awaited. -/
def State.settle (s : State) (t h : Nat) : State :=
  let th := s.thr t h
  let free := fun (s : State) => s.updThr t h fun th => { th.unwait with walkEnds := [] }
  match th.wait with
  | .none | .withdrawn _ _ => s
  | .resp i left =>
    let mine := (s.tile t).posted.filter fun p => p.kind == .request h && (p.flit.op == .ldc || p.flit.op == .stp)
    if mine.isEmpty then s
    else
      let s := s.updThr t h fun th => { th with wait := .withdrawn i left }
      mine.foldl (fun s p =>
        s.sendGa (.tile t) p.addr { op := .withdraw, ctx := (s.tile t).ctx, tag := p.tag, thr := h, idx := p.flit.idx }) s
  | .fwait _ mons _ _ =>
    let s := (mons.filter fun m => m.armed).foldl (fun s m =>
      s.sendGa (.tile t) m.flag { op := .disarm, ctx := (s.tile t).ctx, tag := m.tag, thr := h, idx := m.idx }) s
    free (s.updTile t fun x => { x with
      posted := x.posted.filter (fun p => p.kind != .arm h),
      retries := x.retries.filter (fun r => !(r.flit.op == .arm && r.flit.thr == h)) })
  | .walk =>
    free (s.updCluster (clusterOf t) fun x => { x with walks := x.walks.filter fun w => w.agent != .thread t h })
  | .rearm _ _ f => free (s.updTile t fun x => { x with posted := x.posted.filter fun p => p.tag != f.tag })
  | .tcfg d => if (s.cluster (clusterOf t)).clearing.contains d then s else (free s).dropClosing t h d
  | _ => free s

/-! ## Thread images (Table 8.6) -/

def tagCode (r : GReg) : Nat :=
  match r.tag with
  | .data => 0 | .cap => 1 | .poison => 2

/-- Words 0 to n - 1 of a value. -/
def wordsOf (n x : Nat) : List Nat := (List.range n).map fun i => x / 2 ^ (64 * i) % 2 ^ 64

def sumUp (f : Nat → Nat) : List Nat → Nat
  | [] => 0
  | x :: xs => f x + sumUp f xs

/-- The 112 words of a thread's image, with the STATE recorded. -/
def Thread.image (t : Thread) (st : Nat) : List Nat :=
  let g := fun (j : Nat) => mget ({} : GReg) t.g j
  let vs := (List.range 8).map fun i => t.rv (Fin.ofNat 8 i)
  ((List.range 15).flatMap fun i => wordsOf 2 (g (i + 1)).body.toNat) ++
  [sumUp (fun j => tagCode (g j) * 4 ^ j) ((List.range 15).map fun i => i + 1) + tagCode t.ecap * 2 ^ 32 + boolNat t.code.isSome * 2 ^ 34,
   (mget 0 t.k 1).toNat + (mget 0 t.k 2).toNat * 2 ^ 16 + (mget 0 t.k 3).toNat * 2 ^ 32] ++
  (vs.flatMap fun v => wordsOf 8 v.val.toNat) ++
  wordsOf 2 (packElts 16 (vs.map fun v => v.pmask.toNat)) ++
  [t.pc.toNat, (t.code.getD 0).toNat] ++ wordsOf 2 t.ecap.body.toNat ++
  [(t.status st).toNat, boolNat t.mode, t.rmode.toNat, t.seed.toNat, t.epc.toNat, t.ecause.toNat, t.eval.toNat, t.tvec.toNat,
   t.retired.toNat, t.bpc.toNat]

/-- Words written at rising addresses. -/
def State.storeWords (s : State) (a : Nat) : List Nat → State
  | [] => s
  | w :: ws => State.storeWords (s.store 0 a 8 w 0) (a + 8) ws

/-- Words read with their marks. -/
def State.loadWords (s : State) (a : Nat) : Nat → List (Nat × Nat)
  | 0 => []
  | n + 1 => s.readAt 0 a 8 :: State.loadWords s (a + 8) n

/-- A body with its tag code that no instruction could produce (R59, Table 2.1). -/
def unproducible (tag : Nat) (body : Body) : Bool :=
  match tag with
  | 0 => body.extractLsb' 64 64 != 0
  | 1 => capUnproducible { tag := .cap, body := body }
  | 2 => body.extractLsb' 8 56 != 0
  | _ => true

/-- A register loaded from two words and a tag (R59, R160, R202); ga: address of the first word. An unproducible body
loads as class 0x06 with an origin that the manual leaves open (log 70). -/
def loadReg (tag ga : Nat) (lo hi : Nat × Nat) : GReg :=
  let body : Body := BitVec.ofNat 128 (lo.1 + hi.1 * 2 ^ 64)
  if lo.2 ≠ 0 then poisonVal (lo.2 - 1) ga
  else if hi.2 ≠ 0 then poisonVal (hi.2 - 1) (ga + 8)
  else if unproducible tag body then poisonVal 0x06 (Config.imageOrigin ga).toNat
  else { tag := if tag = 0 then .data else if tag = 1 then .cap else .poison, body := body }

/-- A code capability that a running thread may be loaded with (R202). -/
def codeLoadable (tag pkg t : Nat) (upper pc : Word) : Bool :=
  let r := capReg upper pc
  tag == 1 && !capUnproducible r && r.namesTile pkg t && r.grants permEX

/-- A vector register loaded from eight words: a poisoned word poisons its two lanes. A lane that the image's poison mask marks
keeps its bits, above the class in [7:0] too, as the image has them (DESIGN CHOICE, log 102). -/
def loadVReg (ws : List (Nat × Nat)) (mask : Nat) : VReg :=
  mkVReg fun j =>
    let w := ws.getD (j / 2) (0, 0)
    if w.2 ≠ 0 then poisonLane (w.2 - 1) else (w.1 / 2 ^ (32 * (j % 2)) % 2 ^ 32, bit mask j)

/-- The thread that an image makes of a target on tile t (R202); base: global address of the image. A reserved code or DYN
in its RMODE.RM loads as 000, as SYSWR stores it (R67; the manual does not say so of an image: DEDUCED, log 71). -/
def Thread.load (old : Thread) (pkg t base : Nat) (ws : List (Nat × Nat)) : Thread :=
  let w := fun i => ws.getD i (0, 0)
  let v := fun i => (w i).1
  let tags := v 30
  let g : SMap GReg := (List.range 15).foldl (fun g i =>
    mset {} g (i + 1) (loadReg (bits tags (2 * i + 3) (2 * i + 2)) (base + 16 * i) (w (2 * i)) (w (2 * i + 1)))) []
  let masks := v 96 + v 97 * 2 ^ 64
  let vs : SMap VReg := (List.range 8).foldl (fun m i =>
    mset {} m i (loadVReg ((ws.drop (32 + 8 * i)).take 8) (masks / 2 ^ (16 * i)))) []
  let control := [30, 31, 96, 97, 98, 99, 102, 103, 104, 105, 106, 107, 108, 109, 110, 111]
  let bad := control.any fun i => (w i).2 != 0
  let st := bits (v 102) 10 8
  let ctag := bits tags 35 34
  let upper : Word := BitVec.ofNat 64 (v 99)
  let pc : Word := BitVec.ofNat 64 (v 98)
  let run : RunState :=
    if bad then .halted
    else if st = 1 then .wfw
    else if st = 0 ∨ st = 2 ∨ st = 3 then
      (if !codeLoadable ctag pkg t upper pc then .halted else if st = 2 then .yield else .rotation)
    else .halted
  let th : Thread := { old.abandon with
    g := g, v := vs, k := mset 0 (mset 0 (mset 0 [] 1 (BitVec.ofNat 16 (v 31))) 2 (BitVec.ofNat 16 (v 31 / 2 ^ 16))) 3 (BitVec.ofNat 16 (v 31 / 2 ^ 32)),
    pc := pc, code := if ctag = 1 then some upper else none, ecap := loadReg (bits tags 33 32) (base + 0x320) (w 100) (w 101),
    priv := bit (v 102) 0, mode := bit (v 103) 0, seed := BitVec.ofNat 64 (v 105), epc := BitVec.ofNat 64 (v 106), eval := BitVec.ofNat 64 (v 108),
    tvec := BitVec.ofNat 64 (v 109), retired := BitVec.ofNat 64 (v 110), bpc := BitVec.ofNat 64 (v 111),
    run := run, wait := .none, limbo := none, fbuf := [], wanted := [], halt187 := false }
  ((th.setStatus (v 102)).setRmode (v 104)).setEcause (v 107)

/-! ## CTXST, CTXLD (R202) -/

def imageOpnd (th : Thread) (pkg t : Nat) (a : GIx) (need : Nat) : Opnd :=
  { addrOpnd th a need { scratch := (th.rd a).namesTile pkg t } 896 0 with align := 128 }

/-- The image is written or read once the target has stopped: it is then halted, or as the image says. -/
def State.moveImage (s : State) (t issuer : Nat) (i : Instr) (target off : Nat) : State :=
  let x := s.thr t target
  match i with
  | .ctxst _ _ =>
    let s := s.setThr t target { x.abandon with run := .halted, wait := .none }
    s.storeWords (spad t off) (x.image (RunState.code x.run))
  | _ =>
    let s := s.lookWords (spad t off) 112
    let n := (s.tile t).wfwNext
    let th := x.load s.pkg t (gaSpad t off) (s.loadWords (spad t off) 112)
    let th := if th.run = .wfw then { th with wfwSince := n } else th
    let s := s.updTile t fun y => { y with wfwNext := n + 1 }
    if issuer = target then s else s.setThr t target th

/-- A waiting CTXST or CTXLD acts and retires once its target has stopped. -/
def State.ctxCheck (s : State) (t h : Nat) : State :=
  match (s.thr t h).wait with
  | .ctx i target =>
    let s := s.settle t target
    if !(s.thr t target).settled then s
    else
      let a : GIx := match i with | .ctxst a _ => a | .ctxld a _ => a | _ => 0
      (s.moveImage t h i target (gaOff ((s.thr t h).rd a).low.toNat)).wakeRetired t h fun th => th
  | _ => s

def State.threadImage (s : State) (i : Instr) (a b : GIx) (need : Nat) : Host.Outcome State Fault Refusal :=
  s.privileged (
    let o := imageOpnd s.cur s.pkg s.curTile a need
    let y := s.cur.rd b
    match s.checks [o] (if y.isPoison then some y.cls else none) with
    | .error (c, v) => s.trap c v
    | .ok _ =>
      let target := y.low.toNat
      if 8 ≤ target ∨ target = s.curThr then s.trap causePerm o.first
      else
        let s := s.setCur { s.cur with run := .reissue, wait := .ctx i target }
        .next (s.ctxCheck s.curTile s.curThr))

def execCtxst (a b : GIx) (s : State) : Host.Outcome State Fault Refusal := s.threadImage (.ctxst a b) a b permST
def execCtxld (a b : GIx) (s : State) : Host.Outcome State Fault Refusal := s.threadImage (.ctxld a b) a b permLD

/-! ## TLBINV (R203) -/

/-- The range that a scope selects. -/
def invRange (scope : InvScope) (r : GReg) : Nat × Nat :=
  match scope with
  | .page => (gaAddr r.low.toNat, 1)
  | .range => r.bounds
  | .context => (0, 2 ^ 44)

def invCode : InvScope → Nat
  | .page => 0 | .range => 1 | .context => 2

/-- TLBINV: while OFFLINE or ONLINE changes the set of ports it parks with nothing performed. -/
def execTlbinv (a b : GIx) (scope : InvScope) (s : State) : Host.Outcome State Fault Refusal :=
  s.privileged (
    let x := s.cur.rd a
    let capA := scope != .context
    let flags := (flagOpnd s.cur b).toList
    match copyTags ((if capA then [(x, a.val, true)] else []) ++ capArg s.cur (flagField b)) with
    | some (c, v) => s.trap c v
    | none =>
      if capA && x.kind != .hbm then s.trap causePerm x.low.toNat
      else
        match s.checks flags none with
        | .error (c, v) => s.trap c v
        | .ok rs =>
          if s.evo.offlinePending.isSome || s.evo.onlinePending.isSome then s.park .tlbinv
          else
          let flag := match rs with
            | [(_, ga) :: _] => ga
            | _ => 0
          let n := s.newTag
          let t := s.curTile
          let r := invRange scope x
          let s : State := { n.2 with invals := n.2.invals ++ [{ tag := n.1, ctx := s.curT.ctx, flag := flag, tile := t, left := s.presentPorts }] }
          let f : Flit := { op := .tlbinv, ctx := s.curT.ctx, ga := r.1, len := r.2, scope := invCode scope, flag := flag,
                            tag := n.1, src := .tile t, thr := s.curThr, size := s.curHead, opnd := s.cur.pc.toNat }
          let s := s.presentPorts.foldl (fun s c => s.sendHome (.tile t) (.tile (clusterTile c 0)) f) s
          s.done s.cur)

end Sys2Proof.Machine
end

