-- ==== Sys2Proof/Machine/Tasks.lean ====
section
/-! DEFINITION. Tasks, chunks and barriers, majors 0x2C-0x2F (R276-R294): WFW, TSPAWN, TDEC, TCANCEL, GCSET, GCHUNK,
BAR, and the crown's PBARA, PBARW and PBAR. -/
namespace Sys2Proof.Machine

/-! ## WFW (R285) -/

def execWfw (s : State) : Host.Outcome State Fault Refusal :=
  s.synchronising (
    let n := s.curT.wfwNext
    let s := s.updTile s.curTile fun x => { x with wfwNext := n + 1 }
    .next (s.setCur { s.cur.retire with run := .wfw, wait := .none, wfwSince := n, fbuf := [], wanted := [] }))

/-! ## Refused pushes (R38, R279) -/

/-- Cycles before the k-th retry (R38). -/
def retryDelay (k : Nat) : Nat := 32 * 2 ^ Nat.min (k - 1) 7

/-- A refused operation is held and sent again later (R38). -/
def State.holdRetry (s : State) (t k : Nat) (f : Flit) : State :=
  s.updTile t fun x => { x with retries := x.retries ++ [{ flit := { f with tries := k }, k := k, due := x.cycle + retryDelay k }] }

/-- The same at any agent: a memory port and an I/O die count their own cycles. -/
def State.holdRetryAt (s : State) (h : Home) (k : Nat) (f : Flit) : State :=
  match h with
  | .tile t => s.holdRetry t k f
  | h => { s with agentRetries := s.agentRetries ++ [(h, { flit := { f with tries := k }, k := k, due := s.evo.cycles + retryDelay k })] }

/-- An own-tile push or TDEC that the bank refused stays outstanding as if refused by NAK (R279). -/
def State.postRefused (s : State) (head : Nat) (opnd : Word) (ga : Nat) (f : Flit) : State :=
  let t := s.curTile
  let n := s.newTag
  let f := { place (tileX t) (.tile t) f with tag := n.1, ctx := (s.tile t).ctx, src := .tile t, ga := ga % 2 ^ 46, thr := s.curThr }
  (n.2.updTile t fun x => { x with
    posted := x.posted ++ [{ tag := n.1, kind := .posted s.curThr, flit := f, addr := ga, pc := s.cur.pc, head := head,
                             opnd := opnd, tries := (List.range (f.flast + 1)).map fun i => (i, 1) }] }).holdRetry t 1 f

/-! ## TSPAWN (R280) -/

/-- A push message: the record as it leaves its builder. -/
def pushFlit (r : TaskRec) (clusterRing : Bool) : Flit :=
  { op := .push, size := 64, flast := 1, data := (recWords r).flatMap (natLe 8),
    psn := [r.ctrlMark, 0, 0, 0, 0, 0, 0, 0], idx := boolNat clusterRing, origin := r.builder }

/-- Ring of a cluster that a push names. -/
def pushRing (t idx : Nat) : Nat := if idx = 1 then 8 else inCluster t

/-- The own-tile record operand: a plain tile capability naming the tile. -/
def spawnOpnd (th : Thread) (pkg t : Nat) (a : GIx) : Opnd :=
  addrOpnd th a permLD { scratch := (th.rd a).namesTile pkg t } 64 0

/-- The target of gB: the own tile for g0, else its value; none where SPACE or the offset is not zero. -/
def spawnTarget (pkg t : Nat) (b : GIx) (v : Word) : Option Nat :=
  if b = 0 then some (gaSpad t 0)
  else
    let g := localise pkg v.toNat
    if gaSpace v.toNat = 0 ∧ v.toNat % 2 ^ 32 = 0 then some g else none

/-- The queue bank of the issuing tile's cluster copies a row to its spare: the access is tried again (R399). -/
def State.bankBusy (s : State) : Bool := (s.cluster (clusterOf s.curTile)).mending.contains 1

def execTspawn (a b : GIx) (clusterRing : Bool) (s : State) : Host.Outcome State Fault Refusal :=
  let t := s.curTile
  let o := spawnOpnd s.cur s.pkg t a
  let vb := s.cur.rd b
  let target := spawnTarget s.pkg t b vb.low
  match s.checks [o] (if vb.isPoison then some vb.cls else none) with
  | .error (c, v) =>
    if (c == causeBounds || c == causeAlign) && target.isNone then s.trap causePerm vb.low.toNat else s.trap c v
  | .ok rs =>
    match target, rs with
    | some tg, [[(_, ga)]] =>
      let bad := s.refusing [gaOff ga]
      if s.ownGa tg && s.bankBusy then s.forfeit s.cur.retryBanks
      else if bad ≠ [] then s.forfeit (s.cur.retryBanks ++ bad)
      else if 8 ≤ s.curT.spawn.length then s.park .spawnFull
      else if !s.ownGa tg && !s.retryRoom t 2 then s.park .retryFull
      else
        let r := s.readRec t (spad t (gaOff ga))
        let head := s.curHead
        if s.ownGa tg then
          let p := r.2.push (clusterOf t) (pushRing t (boolNat clusterRing)) r.1 none
          if p.1 then .next (p.2.setCur p.2.cur.retire)
          else if !s.retryRoom t 2 then s.park .retryFull
          else
            let s := p.2.postRefused head r.1.taskid tg (pushFlit r.1 clusterRing)
            let s := s.updTile t fun x => { x with spawn := x.spawn ++ [{ r := r.1, thr := s.curThr, tag := s.tags }] }
            .next (s.setCur s.cur.retire)
        else
          let x := if gaLocal tg || gaPkg tg == s.pkg then r.1 else r.1.untag
          let s := r.2.post t (.posted s.curThr) s.cur.pc head r.1.taskid tg none
            { pushFlit x clusterRing with thr := s.curThr }
          let s := s.updTile t fun y => { y with spawn := y.spawn ++ [{ r := r.1, thr := s.curThr, tag := s.tags }] }
          .next (s.setCur s.cur.retire)
    | none, _ => s.trap causePerm vb.low.toNat
    | _, _ => .next s

/-! ## TDEC, TCANCEL (R281, R290) -/

/-- The pending block operand. -/
def blockOpnd (th : Thread) (a : GIx) : Opnd := addrOpnd th a permAT onlyScratch 128 0

def execTdec (a : GIx) (s : State) : Host.Outcome State Fault Refusal :=
  match s.checks [blockOpnd s.cur a] none with
  | .error (c, v) => s.trap c v
  | .ok rs =>
    match rs with
    | [[(_, ga)]] =>
      let bad := if s.ownGa ga then s.refusing [gaOff ga, gaOff ga + 64] else []
      if s.ownGa ga && s.bankBusy then s.forfeit s.cur.retryBanks
      else if bad ≠ [] then s.forfeit (s.cur.retryBanks ++ bad)
      else if !s.ownGa ga && !s.retryRoom s.curTile 1 then s.park .retryFull
      else
        let head := s.curHead
        if s.ownGa ga then
          let p := s.tdec (spad s.curTile (gaOff ga)) false
          if !p.1 && !s.retryRoom s.curTile 1 then s.park .retryFull
          else
            let s := if p.1 then p.2 else p.2.postRefused head 0 ga { op := .tdec, size := 128, once := true }
            .next (s.setCur s.cur.retire)
        else
          let s := s.post s.curTile (.posted s.curThr) s.cur.pc head 0 ga none { op := .tdec, size := 128, thr := s.curThr }
          .next (s.setCur s.cur.retire)
    | _ => .next s

/-- gD receives the status, or poison naming the block (Table 12.4). -/
def tcancelFin (pkg : Nat) (d a : GIx) (th : Thread) : Thread :=
  let r := th.got 0
  (th.wr d (markedReg r.1 r.2 ((blockOpnd th a).ga pkg))).retire

def execTcancel (d a : GIx) (s : State) : Host.Outcome State Fault Refusal :=
  if s.bankBusy && s.ownGa (s.cur.rd a).low.toNat then s.forfeit s.cur.retryBanks
  else s.blocking (.tcancel d a) (blockOpnd s.cur a) none (false, false) 1 0 (fun _ => { op := .tcancel, size := 128 })
    (tcancelFin s.pkg d a)

/-! ## Guided chunks (R291) -/

/-- Whether this tile may access a counter in this cycle: one access per cc, and another tile's retry priority goes
first. The claim of a tile that does not come back lapses (log 25). -/
def Cluster.chunkFree (cl : Cluster) (n t : Nat) : Bool :=
  !cl.chunkTaken.contains n &&
    match mfind cl.chunkClaims n with
    | some (u, till) => u == t || decide (till < cl.counter)
    | none => true

/-- A lost access leaves retry priority behind where no other tile holds it. -/
def Cluster.claimChunk (cl : Cluster) (n t : Nat) : Cluster :=
  match mfind cl.chunkClaims n with
  | some (u, till) => if u ≠ t ∧ cl.counter ≤ till then cl else { cl with chunkClaims := mput cl.chunkClaims n (t, cl.counter + 64) }
  | none => { cl with chunkClaims := mput cl.chunkClaims n (t, cl.counter + 64) }

def Cluster.takeChunk (cl : Cluster) (n t : Nat) : Cluster :=
  { cl with chunkTaken := nset cl.chunkTaken n true,
            chunkClaims := match mfind cl.chunkClaims n with
              | some (u, _) => if u = t then mdel cl.chunkClaims n else cl.chunkClaims
              | none => cl.chunkClaims }

/-- An access to counter n of the issuing tile's cluster, or the slot forfeited. -/
def State.withChunk (s : State) (n : Nat) (act : ChunkCtr → State → Host.Outcome State Fault Refusal) :
    Host.Outcome State Fault Refusal :=
  let c := clusterOf s.curTile
  if !(s.cluster c).chunkFree n s.curTile then
    (s.updCluster c fun x => x.claimChunk n s.curTile).forfeit []
  else act (mget {} (s.cluster c).chunks n) (s.updCluster c fun x => x.takeChunk n s.curTile)

def State.setChunk (s : State) (n : Nat) (k : ChunkCtr) : State :=
  s.updCluster (clusterOf s.curTile) fun x => { x with chunks := mset {} x.chunks n k }

/-- The counter as GCSET leaves it. -/
def ChunkCtr.load (k : ChunkCtr) (t : Nat) (a b c : GReg) : ChunkCtr :=
  match firstPoison [a, b, c] with
  | some p => { k with cls := p.cls, origin := t }
  | none => { next := bits a.low.toNat 39 0, endv := bits b.low.toNat 39 0, p := bits c.low.toNat 15 0,
              minc := bits c.low.toNat 39 16, cls := 0, origin := 0 }

/-- Count of the next chunk. -/
def ChunkCtr.chunk (k : ChunkCtr) : Nat :=
  let p := if k.p = 0 then 1 else k.p
  let m := if k.minc = 0 then 1 else k.minc
  let left := k.endv - k.next
  Nat.min (Nat.min left (Nat.max m (ceilDiv left p))) (2 ^ 24 - 1)

def execGcset (n : Fin 8) (a b c : GIx) (s : State) : Host.Outcome State Fault Refusal :=
  s.withChunk n fun k s =>
    .next ((s.setChunk n (k.load s.curTile (s.cur.rd a) (s.cur.rd b) (s.cur.rd c))).setCur s.cur.retire)

def execGchunk (n : Fin 8) (d : GIx) (s : State) : Host.Outcome State Fault Refusal :=
  s.withChunk n fun k s =>
    if k.cls ≠ 0 then s.doneG d (poisonVal k.cls k.origin)
    else
      let v := k.next * 2 ^ 24 + k.chunk
      (s.setChunk n { k with next := (k.next + k.chunk) % 2 ^ 40 }).doneG d (dataReg (BitVec.ofNat 64 v))

/-! ## Core barriers (R292) -/

/-- The participant count of a value. -/
def barCount (v : Word) : Nat := if 1 ≤ v.toNat ∧ v.toNat ≤ 8 then v.toNat else 8

/-- Parked participants of a barrier retire. -/
def State.releaseBar (s : State) (t id : Nat) : List Nat → State
  | [] => s
  | h :: hs => State.releaseBar (if (s.thr t h).wait == .bar id then s.wakeRetired t h (fun th => th) else s) t id hs

/-- The instruction at the PC had arrived in this wait before a halt, and its barrier has been released since (R295). -/
def Thread.released (th : Thread) (w : Wait) : Bool := th.limbo == some (th.pc.toNat % 2 ^ 19, w)

/-- The current thread parks, an earlier wait of it forgotten. -/
def State.waitAt (s : State) (w : Wait) : Host.Outcome State Fault Refusal := (s.setCur { s.cur with limbo := none }).park w

def execBar (a : GIx) (id : Fin 32) (s : State) : Host.Outcome State Fault Refusal :=
  s.synchronising (
    let x := s.cur.rd a
    if x.isPoison then s.trap causePoison x.cls
    else
      let t := s.curTile
      let b := mget {} s.curT.barriers id.val
      if b.arrived.contains s.curThr then s.waitAt (.bar id)
      else if s.cur.released (.bar id) then s.done { s.cur with limbo := none }
      else
        let b' : Barrier := { count := if b.arrived = [] then barCount x.low else b.count, arrived := nins b.arrived s.curThr }
        if b'.arrived.length = b'.count then
          let s := s.updTile t fun y => { y with barriers := mset {} y.barriers id.val {} }
          let s := s.setCur s.cur.retire
          .next (s.releaseBar t id b.arrived)
        else (s.updTile t fun y => { y with barriers := mset {} y.barriers id.val b' }).park (.bar id))

/-! ## The crown (R293, R294) -/

def State.crown (s : State) (b : Nat) : Crown := mget {} s.crowns b
def State.setCrown (s : State) (b : Nat) (c : Crown) : State := { s with crowns := mset {} s.crowns b c }

/-- A region that a barrier is bound over is saved: it makes no release (R342). -/
def Crown.frozen (c : Crown) : Bool := !c.saved.isEmpty

/-- Tile t lies in the set S of a barrier. -/
def Crown.holds (c : Crown) (t : Nat) : Bool :=
  decide (c.x0 ≤ tileX t) && decide (tileX t < c.x0 + c.w) && decide (c.y0 ≤ tileY t) && decide (tileY t < c.y0 + c.h)

/-- The issuing tile may use the barrier. -/
def State.crownOk (s : State) (b : Nat) : Bool :=
  (s.crown b).bound && (s.crown b).ctx == s.curT.ctx && (s.crown b).holds s.curTile

/-- A thread's arrival of an episode not yet released. -/
def State.crownPending (s : State) (t h b : Nat) : Bool := decide ((s.crown b).episode < mget 0 (s.thr t h).crownDone b)

/-- The arrival of the current thread; the T-th sends the tile's arrival, or holds it while an earlier one of the
tile awaits its release. -/
def State.arrive (s : State) (b : Nat) : State :=
  let t := s.curTile
  let c := s.crown b
  let x := s.curT
  let ahead := c.arrived.contains t || c.flying.contains t
  let held := mget 0 x.crownHeld b
  let ep := c.episode + boolNat ahead + held
  let n := mget 0 x.crownCnt b + 1
  let s := s.setCur { s.cur with crownDone := mset 0 s.cur.crownDone b (ep + 1) }
  if n < c.t then s.updTile t fun y => { y with crownCnt := mset 0 y.crownCnt b n }
  else
    let s := s.updTile t fun y => { y with crownCnt := mset 0 y.crownCnt b 0,
                                           crownHeld := mset 0 y.crownHeld b (held + boolNat ahead) }
    if ahead then s else s.setCrown b { c with flying := nins c.flying t }

/-- PoisonVal(0x05, origin) of a poisoned barrier. -/
def Crown.poisonReg (c : Crown) : GReg := poisonVal 0x05 (c.poison - 1)

def execPbara (id : Fin 64) (s : State) : Host.Outcome State Fault Refusal :=
  let b := id.val
  if !s.crownOk b then s.trap causePerm b
  else if (s.crown b).poison ≠ 0 then s.done s.cur
  else if s.crownPending s.curTile s.curThr b then s.park (.crown (.pbara id) b)
  else
    let s := s.arrive b
    s.done s.cur

def execPbarw (d : GIx) (id : Fin 64) (s : State) : Host.Outcome State Fault Refusal :=
  s.synchronising (
    let b := id.val
    if !s.crownOk b then s.trap causePerm b
    else if (s.crown b).poison ≠ 0 then s.doneG d (s.crown b).poisonReg
    else if s.crownPending s.curTile s.curThr b then s.park (.crown (.pbarw d id) b)
    else s.doneG d (dataReg 0))

def execPbar (d : GIx) (id : Fin 64) (s : State) : Host.Outcome State Fault Refusal :=
  s.synchronising (
    let b := id.val
    if !s.crownOk b then s.trap causePerm b
    else if (s.crown b).poison ≠ 0 then s.doneG d (s.crown b).poisonReg
    else if s.crownPending s.curTile s.curThr b then s.waitAt (.crown (.pbar d id) b)
    else if s.cur.released (.crown (.pbar d id) b) then (s.setCur { s.cur with limbo := none }).doneG d (dataReg 0)
    else (s.arrive b).park (.crown (.pbar d id) b))

/-- A thread that waits on a crown barrier ends its wait with a value; a PBARA re-issues. -/
def State.crownWake (s : State) (t h b : Nat) (v : GReg) : State :=
  match (s.thr t h).wait with
  | .crown (.pbar d _) k => if k = b then s.wakeRetired t h fun th => th.wr d v else s
  | .crown (.pbarw d _) k => if k = b then s.wakeRetired t h fun th => th.wr d v else s
  | .crown _ k => if k = b then s.resume t h else s
  | _ => s

/-- Tiles of the set S. -/
def Crown.tiles (c : Crown) : List Nat := (List.range c.h).flatMap fun j => (List.range c.w).map fun i => (c.y0 + j) * 64 + c.x0 + i

/-- Every waiter of a barrier on the tiles for which p holds ends its wait with a value. -/
def State.crownRelease (s : State) (b : Nat) (p : State → Nat → Nat → Bool) (v : GReg) : State :=
  (s.crown b).tiles.foldl (fun s t => (List.range 8).foldl (fun s h => if p s t h then s.crownWake t h b v else s) s) s

/-- A tile's arrival reaches the root; the last of the set starts the release. -/
def execCrownRootArrival (tile : Nat) (b : Fin 64) (s : State) : Host.Outcome State Fault Refusal :=
  let c := s.crown b
  if !c.flying.contains tile then .next s
  else
    let c := { c with flying := ndel c.flying tile, arrived := nins (ndel c.arrived tile) tile }
    .next (s.setCrown b { c with releasing := c.tiles.all c.arrived.contains })

/-- The release reaches every tile of the set; arrivals held for the next episode are sent. -/
def execCrownRelease (b : Fin 64) (s : State) : Host.Outcome State Fault Refusal :=
  let c := s.crown b
  if !c.releasing || c.frozen || !c.bound then .next s
  else
    let s := s.setCrown b { c with episode := c.episode + 1, arrived := [], releasing := false }
    let s := s.crownRelease b (fun s t h => !s.crownPending t h b) (dataReg 0)
    .next (c.tiles.foldl (fun s t =>
      let n := mget 0 (s.tile t).crownHeld b
      if n = 0 then s
      else
        let s := s.updTile t fun x => { x with crownHeld := mset 0 x.crownHeld b (n - 1) }
        s.setCrown b { s.crown b with flying := nins (s.crown b).flying t }) s)

end Sys2Proof.Machine
end

