-- ==== Sys2Proof/Machine/Answers.lean ====
section
/-! DEFINITION. How the operations that a tile or a home awaits come to an end: blocking accesses (R157, R299), posted
operations and signals (R158, R298, R420), arms (R177, R178), granules and end messages (R243-R245), and the retries
of Table 1.5 (R38). -/
namespace Sys2Proof.Machine

/-! ## Blocking accesses -/

/-- What a blocking instruction writes and how it retires, once its pass buffer is complete. -/
def finishOf (pkg : Nat) (i : Instr) : Thread → Thread :=
  match i with
  | .ld z sz d a m => ldFin pkg z sz d a m
  | .ldv d a k m => ldvFin d a k m
  | .ldvs ew d a _ k m => ldvsFin ew d a k m
  | .vgath d _ _ k _ => vgathFin d k
  | .ldcap d a m => ldcapFin pkg d a m
  | .rfadd ty d a _ off => atomFin pkg ty d a off
  | .rcas ty d a _ _ off => atomFin pkg ty d a off
  | .rswap ty d a _ off => atomFin pkg ty d a off
  | .ldc d a off => ldcFin pkg d a off
  | .tcancel d a => tcancelFin pkg d a
  | _ => Thread.retire

/-- The base register of a load whose second checker mismatch was in its post-increment is committed poisoned (R23). -/
def Thread.settleBase (t : Nat) (base : Option GIx) (th : Thread) : Thread :=
  match base with
  | some r => { th.wr r (tilePoison 7 t) with badBase := none }
  | none => th

/-- Waiting CTXST and CTXLD of a tile look again at their targets. -/
def State.ctxChecks (s : State) (t : Nat) : State := (List.range 8).foldl (fun s h => s.ctxCheck t h) s

/-- An element of a blocking instruction has ended, with entries for the pass buffer; the last one finishes it. -/
def State.elementDone (s : State) (t h e : Nat) (es : List (Nat × Nat × Nat)) : State :=
  let th := s.thr t h
  let th' := { th with served := th.served ++ es }
  let go := fun (i : Instr) (left : List Nat) (w : List Nat → Wait) =>
    if left.isEmpty then (s.setThr t h { (finishOf s.pkg i th').settleBase t th.badBase with run := .rotation, wait := .none }).ctxChecks t
    else s.setThr t h { th' with wait := w left }
  match th.wait with
  | .resp i left => go i (left.filter (· != e)) (Wait.resp i)
  | .withdrawn i left => go i (left.filter (· != e)) (Wait.withdrawn i)
  | .rearm i _ _ => go i [] (Wait.resp i)
  | _ => s

/-- Words that a request's answer gives. -/
def opWords : Op → Nat
  | .loadv => 8
  | .loadcap => 2
  | .stp | .scrub => 0
  | _ => 1

/-! ## Ends of operations -/

/-- Threads that wait for room in the retry list (R358 step 6). -/
def State.wakeRetry (s : State) (t : Nat) : State :=
  if s.retryRoom t 1 then
    (List.range 8).foldl (fun s h => if (s.thr t h).wait == .retryFull then s.resume t h else s) s
  else s

/-- Threads that wait for a spawn entry (R280). -/
def State.wakeSpawn (s : State) (t : Nat) : State :=
  if (s.tile t).spawn.length < 8 then
    (List.range 8).foldl (fun s h => if (s.thr t h).wait == .spawnFull then s.resume t h else s) s
  else s

/-- An operation has ended: its spawned record and its retries go with it. -/
def State.closePosted (s : State) (t tag : Nat) : State :=
  let s := s.updTile t fun x => { x with
    spawn := x.spawn.filter (fun r => r.tag != tag),
    retries := x.retries.filter (fun r => !(r.flit.tag == tag && r.flit.op != .granule && r.flit.op != .streamend && r.flit.op != .respv)) }
  ((s.endPosted t tag).wakeSpawn t).wakeRetry t

/-- A refused signal is logged (R420). -/
def State.logSignal (s : State) (t thr : Nat) (pc : Word) (head flag cls : Nat) (why : Reason) (origin : Nat) : State :=
  s.logFault t { h := true, thr := thr, origin := origin, reason := why, head := head, cls := cls,
                 addr := BitVec.ofNat 64 flag, opnd := BitVec.ofNat 64 cls, pc := pc }

/-- An arm is answered: decided with a mark (0 satisfied), or, for a poll, found undecided. -/
def State.armAnswer (s : State) (t w tag mark origin : Nat) (found : Bool) : State :=
  if w < 8 then
    match (s.thr t w).wait with
    | .fwait d mons start timeout =>
      match mons.find? fun m => m.tag == tag && m.armed with
      | none => s
      | some m =>
        let mons := mons.map fun (x : WaitMon) => if x.tag == tag then
          { x with armed := false, answered := true, found := if found then some (mark, origin) else none } else x
        let s := s.updThr t w fun th => { th with wait := .fwait d mons start timeout }
        if timeout == some 0 then
          (if mons.all fun x => x.own || x.answered then s.fwaitEnd t w (pollResult mons) else s)
        else s.fwaitEnd t w (monResult m (if mark = 0 then none else some (mark - 1)))
    | _ => s
  else if w < 40 then
    if (s.copyCmd t (w - 8)).live then s.updCopy t (w - 8) fun c => { c with met := some (mark, origin) } else s
  else s.updTile t fun x => { x with matq := match x.matq with
    | m :: r => { m with met := some (mark, origin) } :: r
    | [] => [] }

/-- An operation of a tile ends unperformed with a class (R298, R299, R420; an arm decides its monitor). -/
def State.refuse (s : State) (t : Nat) (p : Posted) (cls : Nat) (why : Reason) (origin : Nat) : State :=
  let s := s.closePosted t p.tag
  match p.kind with
  | .posted h => s.lostPosted t h p.pc p.head p.opnd p.addr cls why origin p.flit.flag
  | .signal h _ => s.logSignal t h p.pc p.head p.addr cls why origin
  | .request h =>
    let s := if p.flit.op == .stp then
        s.logFault t { h := true, thr := h, origin := origin, reason := why, head := p.head, cls := cls,
                       addr := BitVec.ofNat 64 p.addr, opnd := p.opnd, pc := p.pc }
      else s
    s.elementDone t h p.flit.idx (deadEntries p.flit.idx (opWords p.flit.op) (cls + 1))
  | .arm w => s.armAnswer t w p.tag (cls + 1) origin true

/-- The operation that a tag names. -/
def State.postedTag (s : State) (t tag : Nat) : Option Posted := (s.tile t).posted.find? fun p => p.tag == tag

/-! ## Retries (R38, Table 1.5) -/

/-- Refusals that lead to a retry: how many retries there may be; none: without limit. -/
def retryLimit : Reason → Option (Option Nat)
  | .slot | .window => some none
  | .qfull => some (some 4096)
  | .absent => some (some 65536)
  | _ => none

/-- The refusal that is the n-th of its flit leads to a retry. -/
def retries (why : Reason) (n : Nat) : Bool :=
  match retryLimit why with
  | none => false
  | some none => true
  | some (some m) => decide (n ≤ m)

/-- The part of a message that a NAK refuses, to be sent again. A push refused for want of room makes a TDEC a
re-drive (R279). -/
def nakFlits (f nak : Flit) : List Flit :=
  let f := if f.op == .tdec && nak.reason == .qfull then { f with once := true } else f
  if nak.count ≠ 0 then (flitsOf f).filter fun g => g.fidx + 1 == nak.count else flitsOf f

/-- A blocking request of which nothing has been performed and all of which waits for its retry is left to re-issue
(R179). -/
def State.dropHeld (s : State) (t h : Nat) : State :=
  let th := s.thr t h
  match th.wait with
  | .resp _ _ =>
    let mine := (s.tile t).posted.filter fun p => p.kind == .request h
    if th.served.isEmpty && mine.all (fun p => (s.tile t).retries.any fun r => r.flit.tag == p.tag) then
      (mine.foldl (fun s p => s.closePosted t p.tag) s).updThr t h fun th => { th with wait := .none, walkEnds := [] }
    else s
  | _ => s

/-- Indices of the flits that a NAK refuses. -/
def nakParts (f nak : Flit) : List Nat := if nak.count ≠ 0 then [nak.count - 1] else List.range (f.flast + 1)

/-- Refusals that the flits a NAK returns have met with it, as their source counts them (R38). -/
def Posted.refusals (p : Posted) (nak : Flit) : Nat := ((nakParts p.flit nak).map (mget 0 p.tries)).foldl Nat.max 0 + 1

/-- A refused operation of a tile: held for a retry, or ended with the refusal's class. The source counts the refusals of each
flit of a message. -/
def State.refused (s : State) (t : Nat) (p : Posted) (nak : Flit) : State :=
  let n := p.refusals nak
  let parked : Option Nat := match p.kind with
    | .request h => (match (s.thr t h).wait with
      | .withdrawn _ _ => some h
      | _ => none)
    | _ => none
  if !retries nak.reason n then s.refuse t p nak.cls nak.reason nak.origin
  else
    match parked with
    | some h =>
      -- nothing has been performed, and its thread is being stopped: it re-issues (R179)
      let s := s.closePosted t p.tag
      ((s.updThr t h fun th => { th with wait := .none })).ctxChecks t
    | none =>
      let f := if p.flit.op == .tdec && nak.reason == .qfull then { p.flit with once := true } else p.flit
      let s := s.updTile t fun x => { x with posted := x.posted.map fun q => if q.tag == p.tag then { q with tries := (nakParts p.flit nak).foldl (fun m i => mput m i n) q.tries, flit := f } else q }
      let s := (nakFlits p.flit nak).foldl (fun s g => s.holdRetry t n g) s
      match p.kind with
      | .request h => if (s.tile t).halt = .running then s else (s.dropHeld t h).ctxChecks t
      | _ => s

/-! ## Granules and end messages (R243-R245) -/

/-- Key of the refusals of a command's end message to a tile among those of its granules. -/
def endTries (tile : Nat) : Nat := 2 ^ 40 + tile

/-- The flit that a NAK returns, on its way again: to the home that refused it, or off the package to the one named. -/
def resendOf (t : Nat) (nak : Flit) (off : Home × Option Nat) : Flit :=
  let f : Flit := { nak with op := nak.ans, src := .tile t, ans := .reserved, reason := .none, count := 0, cls := 0, origin := 0,
                             dpkg := off.2 }
  place (tileX t) (if off.2.isSome then off.1 else nak.src) f

/-- Where the granules of a command go: the agent, and the package if it is another. -/
def CopyCmd.towards (c : CopyCmd) (pkg t : Nat) : Home × Option Nat := homeOf pkg (tileY t) (c.granuleGa pkg 0)

def State.granuleRefused (s : State) (t : Nat) (nak : Flit) : State :=
  let e := nak.tag % 32
  let c := s.copyCmd t e
  let n := nak.idx
  if !c.live || c.streamTag e != nak.tag || !c.flying.contains n then s
  else
    let k := mget 0 c.tries n + 1
    if retries nak.reason k && c.stopCls == 0 then
      let dest := c.towards s.pkg t
      let nak : Flit := if dest.2.isSome then { nak with ga := c.granuleGa s.pkg n % 2 ^ 46 } else nak
      (s.setCopy t e { c with tries := mput c.tries n k }).holdRetry t k (resendOf t nak dest)
    else
      let s := s.setCopy t e { c with flying := ndel c.flying n, missed := c.missed ++ [n] }
      let cls := if nak.cls = 0 then 8 else nak.cls
      ((s.stopCopy t e cls (c.granuleGa s.pkg n) nak.origin nak.reason).copyCheck t e).wakeRetry t

def State.granuleAcked (s : State) (t : Nat) (f : Flit) : State :=
  let e := f.tag % 32
  let c := s.copyCmd t e
  if !c.live || c.streamTag e != f.tag || !c.flying.contains f.idx then s
  else ((s.setCopy t e (c.ackGranule f.idx)).copyCheck t e).wakeRetry t

/-- An end message is answered, or ended unperformed. -/
def State.endAnswered (s : State) (t tag ga : Nat) : State :=
  let e := tag % 32
  let c := s.copyCmd t e
  if !c.live || !c.ending || c.streamTag e != tag || !c.ends.contains (gaTile ga) then s
  else ((s.setCopy t e { c with ends := c.ends.erase (gaTile ga) }).copyEnded t e).wakeRetry t

def State.endRefused (s : State) (t : Nat) (nak : Flit) : State :=
  let e := nak.tag % 32
  let c := s.copyCmd t e
  let k := mget 0 c.tries (endTries (gaTile nak.ga)) + 1
  if !c.live || c.streamTag e != nak.tag then s
  else if retries nak.reason k then
    (s.setCopy t e { c with tries := mput c.tries (endTries (gaTile nak.ga)) k }).holdRetry t k
      { resendOf t nak (c.towards s.pkg t) with cls := c.stopCls, origin := c.stopOrigin }
  else s.endAnswered t nak.tag nak.ga

/-! ## Signals that a home sends for another's operation (R158, R167, R201, R420) -/

/-- The issuing tile of a request that a home performs: of a proxied one, the tile that its proxy entry records (R421). -/
def State.issuerOf (s : State) (f : Flit) : Nat :=
  match f.src with
  | .io d => match mfind (s.ioDie d).proxies f.tag with
    | some p => originOf p.src
    | none => originOf f.src
  | h => originOf h

/-- Performed operation: its flag is signalled and it is acknowledged, once the signal has been performed. -/
def State.flagHome (s : State) (h : Home) (f : Flit) (d : Done) : State :=
  if f.flag = 0 then s.ackTo h f
  else
    let ga := localise s.pkg f.flag
    let org := if d.carried then s.issuerOf f else originOf h
    if homeOf s.pkg (homeRow h) ga = (h, none) then (s.signalAt (spad (gaTile ga) (gaOff ga)) 1 (d.sig - 1) org).ackTo h f
    else
      let n := s.newTag
      let g : Flit := { op := .signal, ctx := f.ctx, tag := n.1, opnd := 1, cls := d.sig - 1, origin := org, src := h, ga := ga % 2 ^ 46 }
      let s : State := { n.2 with sigWaits := n.2.sigWaits ++ [{ home := h, tag := n.1, req := f, sig := { g with flag := ga } }] }
      s.sendGa h ga g

/-- A signal of 1 that an agent at a place sends for a request (an operation `reserved`: for nobody's): performed at once
at its own tile or in the launch-flag block, by a SIGNAL elsewhere. A launch flag of another context refuses it (R323). -/
def State.agentSignal (s : State) (h : Home) (req : Flit) (ctx ga cls org : Nat) : State :=
  let ga := localise s.pkg ga
  match homeOf s.pkg (homeRow h) ga with
  | (.io _, none) =>
    match launchFlag ga with
    | some f =>
      if f / 16 = ctx then s.signalLaunch f 1 cls org
      else if req.op == .reserved then s
      else s.answer h req { req with op := .nak, flast := 0, sigref := true, reason := .cap, cls := reasonClass .cap,
                                     origin := originIo 0, dpkg := none }
    | none => s
  | hm =>
    if hm = (h, none) then s.signalAt (spad (gaTile ga) (gaOff ga)) 1 cls org
    else
      let n := s.newTag
      let g : Flit := { op := .signal, ctx := ctx, tag := n.1, opnd := 1, cls := cls, origin := org, src := h, ga := ga % 2 ^ 46 }
      let s : State := { n.2 with sigWaits := n.2.sigWaits ++ [{ home := h, tag := n.1, req := req, sig := { g with flag := ga } }] }
      s.sendGa h ga g

/-- The wait that an answer at a home names. -/
def State.sigWait (s : State) (h : Home) (tag : Nat) : Option SigWait :=
  s.sigWaits.find? fun w => w.home == h && w.tag == tag

def State.dropSigWait (s : State) (w : SigWait) : State :=
  let s : State := { s with sigWaits := s.sigWaits.filter fun x => !(x.home == w.home && x.tag == w.tag) }
  match w.home with
  | .tile t => s.wakeRetry t
  | _ => s

/-- The signal has been performed at its flag: the operation is acknowledged. -/
def State.sigDone (s : State) (w : SigWait) : State :=
  let s := s.dropSigWait w
  if w.req.op == .tlbinv || w.req.op == .reserved then s else s.ackTo w.home w.req

/-- The signal ends refused: its operation's source is told in place of the acknowledgement. -/
def State.sigEnds (s : State) (w : SigWait) (cls : Nat) (why : Reason) (origin : Nat) : State :=
  if w.req.op == .reserved then s.dropSigWait w
  else (s.dropSigWait w).answer w.home w.req
    { w.req with op := .nak, flast := 0, sigref := true, reason := why, cls := cls, origin := origin, dpkg := none }

/-- The signal is refused: its sender holds it for its retry. -/
def State.sigRefused (s : State) (w : SigWait) (nak : Flit) : State :=
  let k := w.tries + 1
  if !retries nak.reason k then s.sigEnds w nak.cls nak.reason nak.origin
  else
    let s : State := { s with sigWaits := s.sigWaits.map fun x =>
      if x.home == w.home && x.tag == w.tag then { x with tries := k } else x }
    let hm := homeOf s.pkg (homeRow w.home) w.sig.flag
    s.holdRetryAt w.home k (place (homeCol w.home) hm.1 { w.sig with flag := 0, dpkg := hm.2 })

end Sys2Proof.Machine
end

