-- ==== Sys2Proof/Machine/Region.lean ====
section
/-! DEFINITION. Launches and their regions: the fields of a launch record (Tables 17.5, 17.6), status words and done flags
(R332, R333), reset and release of tiles and clusters (R5, R300, R340, R341), crown bindings (R294, R342) and fences
(R394-R396). -/
namespace Sys2Proof.Machine

/-! ## Launch records (R330) -/

/-- Word i of the launch record. -/
def Launch.field (l : Launch) (i : Nat) : Nat := (l.record.getD i 0).toNat
def Launch.w (l : Launch) : Nat := bits (l.field 3) 3 0 + 1
def Launch.h (l : Launch) : Nat := bits (l.field 3) 8 4 + 1
def Launch.dieMask (l : Launch) : Nat := bits (l.field 3) 12 9
def Launch.replayMode (l : Launch) : Bool := bit (l.field 3) 16
def Launch.allThreads (l : Launch) : Bool := bit (l.field 3) 17
def Launch.doneEn (l : Launch) : Bool := bit (l.field 3) 18
def Launch.doneFlag (l : Launch) : Nat := bits (l.field 3) 28 19

/-- Clusters of a rectangle in cluster coordinates, row-major. -/
def rectClusters (cx cy w h : Nat) : List Nat :=
  (List.range h).flatMap fun j => (List.range w).map fun i => (cy + j) * 16 + cx + i

def Launch.clusters (l : Launch) : List Nat := rectClusters l.cx l.cy l.w l.h

def clusterTiles (c : Nat) : List Nat := (List.range 8).map (clusterTile c)

/-- Tiles of a region, cluster by cluster. -/
def Launch.tiles (l : Launch) : List Nat := l.clusters.flatMap clusterTiles

/-- Phases in which a launch holds its clusters. -/
def LaunchPhase.holds : LaunchPhase → Bool
  | .placed | .running | .halting | .settled => true
  | _ => false

def State.launch (s : State) (id : Nat) : Option Launch := s.launches.find? fun l => l.id == id

def State.updLaunch (s : State) (id : Nat) (f : Launch → Launch) : State :=
  { s with launches := s.launches.map fun l => if l.id = id then f l else l }

/-- The launch that holds a cluster. -/
def State.holder (s : State) (c : Nat) : Option Launch := s.launches.find? fun l => LaunchPhase.holds l.phase && l.clusters.contains c

/-! ## Status words and done flags (R332, R333) -/

/-- Codes of Table 17.7. -/
def Status.code : Status → Nat
  | .queued => 0x01 | .running => 0x02 | .done => 0x03 | .killed => 0x04 | .saved => 0x05
  | .nodie => 0x10 | .nofit => 0x11 | .recForm => 0x12 | .flagpoison => 0x13 | .shape => 0x14
  | .imageForm => 0x15 | .imageRead => 0x16 | .imageSig => 0x17 | .relocRange => 0x18 | .recRead => 0x19

/-- A status word written for a record, or reported to Evodon for firmware context 0 (R413). A write that does not
translate is lost. -/
def State.writeStatus (s : State) (dest : Option (Nat × Nat)) (id : Nat) (st : Status) (idx : Nat) : State :=
  match dest with
  | some (va, ctx) => (s.vwrites ctx va [Status.code st + idx % 2 ^ 32 * 2 ^ 8 + id % 2 ^ 24 * 2 ^ 40]).2
  | none => { s with fwStatus := (id, Status.code st, idx) :: s.fwStatus }

/-- The save area of a launch is free again (R359). -/
def State.freeArea (s : State) (l : Launch) : State :=
  if l.dirEntry = 0 then s
  else
    let va := (s.ctxOf l.ctx).savedir + 16 * (l.dirEntry - 1)
    let r := s.vread l.ctx va
    match r.1 with
    | .ok w => (r.2.vwrites l.ctx va [w / 2 * 2]).2
    | _ => r.2

/-- A launch ends: its status word, then its done flag, by 1 at DONE and with a class otherwise. Its image is
discarded. -/
def State.endLaunch (s : State) (l : Launch) (st : Status) (idx cls : Nat) : State :=
  let s := s.writeStatus l.status l.id st idx
  let s := if l.doneEn then
      (if st = .done then s.signalLaunch l.doneFlag 1 0 0 else s.signalLaunch l.doneFlag 0 cls (originIo 0))
    else s
  let s := s.freeArea l
  { s with launches := s.launches.filter (fun x => x.id != l.id), images := s.images.filter (fun x => x.id != l.id) }

/-! ## Reset and release (R5, R300) -/

/-- Numbers outside [lo, hi). -/
def dropRange (lo hi : Nat) (l : List Nat) : List Nat := l.filter fun x => !(decide (lo ≤ x) && decide (x < hi))

/-- A tile's scratchpad: zero data, FE empty, poison and tags clear (R5). -/
def State.eraseSpad (s : State) (t : Nat) : State :=
  let a := spad t 0
  let b := spad (t + 1) 0
  { s with mem := s.mem.filter (fun c => !(decide (a ≤ c.1) && decide (c.1 < b))),
           full := dropRange (a / 8) (b / 8) s.full, psn := dropRange (a / 8) (b / 8) s.psn,
           tagged := dropRange (a / 16) (b / 16) s.tagged,
           errUnc := dropRange (a / 8) (b / 8) s.errUnc, errOne := dropRange (a / 8) (b / 8) s.errOne,
           errTag := dropRange (a / 16) (b / 16) s.errTag }

/-- The registered waiters of a tile are woken with class 0x0D (R300). -/
def State.wakeMonitors (s : State) (t : Nat) : State :=
  let x := s.tile t
  x.monitors.foldl (fun s f =>
      s.answer (.tile t) f { op := .fire, found := true, opndMark := 0x0E, cls := 0x0D, origin := originTile t })
    (s.setTile t { x with monitors := [] })

/-- The tile with nothing of its kernel state. What stands in its ejection queues stays, to be answered; `sending`:
so does what it is about to send. -/
def Tile.bare (x : Tile) (sending : Bool) : Tile :=
  { fenced := x.fenced, wiped := x.wiped, mismatch := x.mismatch, mending := x.mending, ejA := x.ejA, ejB := x.ejB,
    injA := if sending then x.injA else [], injB := if sending then x.injB else [] }

/-- A tile is reset: its waiters are woken, then nothing is left of its kernel state. -/
def State.resetTile (s : State) (t : Nat) : State :=
  let x := s.tile t
  let s := s.setTile t { x with injB := [] }
  let s := (s.wakeMonitors t).eraseSpad t
  let s := s.setTile t { x.bare false with wiped := true, injB := (s.tile t).injB }
  { s with sigWaits := s.sigWaits.filter fun w => w.home != .tile t }

/-- A tile is released clean. -/
def State.clearTile (s : State) (t : Nat) : State := (s.eraseSpad t).updTile t fun x => x.bare true

/-- A cluster's kernel state is cleared: its port keeps its translation buffer and what it owes to TLBINV. -/
def State.clearCluster (s : State) (c : Nat) : State :=
  s.updCluster c fun x => { counter := x.counter, tlb := x.tlb, tlbWork := x.tlbWork, residue := x.residue, mending := x.mending }

/-! ## Crown bindings (R342) -/

/-- Barrier b as its tiles keep it is forgotten. -/
def Tile.forgetCrown (x : Tile) (b : Nat) : Tile :=
  { x with crownCnt := mdel x.crownCnt b, crownHeld := mdel x.crownHeld b,
           threads := x.threads.map fun y => (y.1, { y.2 with crownDone := mdel y.2.crownDone b }) }

/-- A barrier that is bound no longer; its register keeps the other fields last written (R8, Table 17.9). -/
def Crown.unbound (c : Crown) : Crown := { t := c.t, ctx := c.ctx, w := c.w, h := c.h, x0 := c.x0, y0 := c.y0 }

/-- The waiters of a barrier are released with PoisonVal(0x0D, IO0), and its binding, poison and episodes are gone. -/
def State.unbindCrown (s : State) (b : Nat) : State :=
  let c := s.crown b
  if !c.bound then s
  else
    let s := s.crownRelease b (fun _ _ _ => true) (poisonVal 0x0D (originIo 0))
    let s := c.tiles.foldl (fun s t => s.updTile t fun x => x.forgetCrown b) s
    let s : State := { s with images := s.images.map fun im => { im with tiles := im.tiles.map fun y => (y.1, y.2.forgetCrown b) } }
    s.setCrown b c.unbound

/-- A tile belongs to the set S of a barrier now: where a region of the barrier is saved, only the tiles of its other regions
do (log 83). -/
def State.inCrown (s : State) (c : Crown) (t : Nat) : Bool :=
  c.holds t && (!c.frozen || (match (s.tile t).region with | some id => c.regions.contains id && !c.saved.contains id | none => false))

/-- Barriers whose set meets a set of tiles, with the lowest of these tiles. -/
def State.crownsOver (s : State) (ts : List Nat) : List (Nat × Nat) :=
  (s.crowns.filter fun x => x.2.bound && ts.any (s.inCrown x.2)).map fun x =>
    (x.1, (ts.filter (s.inCrown x.2)).foldl Nat.min 4095)

/-- Barriers bound over the region of a launch: those whose rectangle meets it, wherever it is placed (log 83). -/
def State.crownsOf (s : State) (id : Nat) : List Nat :=
  (s.crowns.filter fun x => x.2.bound && x.2.regions.contains id).map fun x => x.1

/-- A region's clusters are released clean (R5); `ending`: at the end of its launch, which unbinds the barriers over
it. -/
def State.releaseRegion (s : State) (l : Launch) (ending : Bool) : State :=
  let s := if ending then (s.crownsOf l.id).foldl (fun s b => s.unbindCrown b) s else s
  let s := l.tiles.foldl (fun s t => s.clearTile t) s
  l.clusters.foldl (fun s c => s.clearCluster c) s

/-- A region is reset as a fenced rectangle is, and released (R341). -/
def State.killRegion (s : State) (l : Launch) : State :=
  let s := l.tiles.foldl (fun s t => s.resetTile t) s
  s.releaseRegion l true

/-- A launch is ended as KILL ends it: not started, resident or saved (R341). -/
def State.killLaunch (s : State) (l : Launch) : State :=
  let s := if LaunchPhase.holds l.phase then s.killRegion l
    else if l.phase = .saved then (s.crownsOf l.id).foldl (fun s b => s.unbindCrown b) s
    else s
  s.endLaunch l .killed 0 8

/-! ## Fences (R394-R396) -/

def Rect.clusters (r : Rect) : List Nat := rectClusters r.x0 r.y0 r.w r.h

def State.rect (s : State) (r : Nat) : Rect := mget {} s.rects r

/-- The valid rectangle that holds a cluster. -/
def State.rectOf (s : State) (c : Nat) : RectId :=
  match (List.range 64).find? fun r => (s.rect r).v && (s.rect r).clusters.contains c with
  | some r => .crect (Fin.ofNat 64 r)
  | none => .cluster c

def FenceCause.code : FenceCause → Nat
  | .controlState => 1 | .controlLogic => 2 | .meshLink => 3 | .command => 4

/-- Flag of a signal that waits at a home: the tile it is on, if it is one of this package. -/
def State.flagTile (s : State) (ga : Nat) : Option Nat :=
  match homeOf s.pkg 0 ga with
  | (.tile t, none) => some t
  | _ => none

/-- A tile outside a fence ends what it awaits from the tiles inside (R396 step 5); `kept`: waiters that step 2 has
woken. -/
def State.endAwaited (s : State) (inside : Nat → Bool) (kept : List (Home × Nat)) (t : Nat) : State :=
  let hit := fun (h : Home) => match h with | .tile u => inside u | _ => false
  let ps := (s.tile t).posted.filter fun p => p.flit.dpkg.isNone && hit p.flit.home && !kept.contains (.tile t, p.tag)
  let s := ps.foldl (fun s p => s.refuse t p 5 .fenced (match p.flit.home with | .tile u => originTile u | _ => 0)) s
  (s.tile t).copyq.foldl (fun s y =>
    let c := y.2
    let e := y.1
    let gone := fun (n : Nat) =>
      let ga := c.granuleGa s.pkg n
      match s.flagTile ga with | some u => gaSpace ga == 0 && inside u | none => false
    if !c.live then s
    else
      let dead := if c.dst.kind = .hbm then [] else c.flying.filter gone
      let s := match dead with
        | [] => s
        | n :: _ =>
          let s := s.setCopy t e { c with flying := c.flying.filter (fun k => !dead.contains k), missed := c.missed ++ dead }
          (s.stopCopy t e 5 (c.granuleGa s.pkg n) (originTile (gaTile (c.granuleGa s.pkg n))) .fenced).copyCheck t e
      if c.ending && c.ends.any inside then
        (s.updCopy t e fun c => { c with ends := c.ends.filter fun u => !inside u }).copyEnded t e
      else s) s

/-- Crown barriers with tiles among the fenced ones, each with the lowest, are poisoned and their waiters released (R294). -/
def State.poisonCrowns (s : State) (ts : List Nat) (hit : List (Nat × Nat)) : State :=
  hit.foldl (fun s b =>
    let c := s.crown b.1
    if c.poison ≠ 0 then s
    else
      let c := { c with poison := b.2 + 1 }
      (s.setCrown b.1 c).crownRelease b.1 (fun _ t _ => !ts.contains t) c.poisonReg) s

/-- A fence of clusters: the steps of R396. -/
def State.fenceClusters (s : State) (cs : List Nat) : State :=
  let ts := cs.flatMap clusterTiles
  let inside := fun (t : Nat) => ts.contains t
  let kept := ts.flatMap fun t => (s.tile t).monitors.map fun f => (f.src, f.tag)
  let crowns := s.crownsOver ts
  let s := ts.foldl (fun s t => (s.resetTile t).updTile t fun x => { x with fenced := true }) s
  let s := cs.foldl (fun s c => s.clearCluster c) s
  let s := s.poisonCrowns ts crowns
  let outside := (s.tiles.map fun x => x.1).filter fun t => !inside t
  let s := outside.foldl (fun s t => s.endAwaited inside kept t) s
  let s := (s.sigWaits.filter fun w => match s.flagTile w.sig.flag with | some u => inside u | none => false).foldl
    (fun s w => s.sigEnds w 5 .fenced (originTile (gaTile w.sig.flag))) s
  { s with launches := s.launches.map fun l =>
      if LaunchPhase.holds l.phase && l.clusters.any cs.contains then { l with fenceHit := true } else l }

/-- Clusters of a rectangle that a fence names. -/
def State.fenceRange (s : State) (r : RectId) : List Nat :=
  match r with
  | .crect r => (s.rect r.val).clusters
  | .cluster c => [c]

/-- A fence takes effect, with its event (R404). -/
def State.fenceRect (s : State) (r : RectId) (cause : FenceCause) : State :=
  let cs := s.fenceRange r
  match r with
  | .crect i =>
    let x := s.rect i.val
    let s : State := { s with rects := mset {} s.rects i.val { x with fen := true, cause := FenceCause.code cause } }
    (s.event 3 5 0 i.val 0 0).fenceClusters cs
  | .cluster c =>
    let s : State := { s with loneFences := nset s.loneFences c true }
    (s.event 3 5 0 (64 + c) 0 0).fenceClusters cs

end Sys2Proof.Machine
end

