-- ==== Sys2Proof/Machine/Shake.lean ====
section
/-! DEFINITION. SHAKE256 with 64 bytes of output (R406-R410, R417). The manual names the function and does not give it
(PRESUMED, log 13). -/
namespace Sys2Proof.Machine

/-- A 64-bit lane rotated left by k. -/
def rotl64 (x k : Nat) : Nat := x * 2 ^ k % 2 ^ 64 ||| x / 2 ^ (64 - k)

/-- Rotations of the lanes, lane (x, y) at x + 5 y. -/
def laneShifts : List Nat :=
  [0, 1, 62, 28, 27, 36, 44, 6, 55, 20, 3, 10, 43, 25, 39, 41, 45, 15, 21, 8, 18, 2, 61, 56, 14]

/-- The constant of each round. -/
def roundWords : List Nat :=
  [0x0000000000000001, 0x0000000000008082, 0x800000000000808A, 0x8000000080008000, 0x000000000000808B, 0x0000000080000001,
   0x8000000080008081, 0x8000000000008009, 0x000000000000008A, 0x0000000000000088, 0x0000000080008009, 0x000000008000000A,
   0x000000008000808B, 0x800000000000008B, 0x8000000000008089, 0x8000000000008003, 0x8000000000008002, 0x8000000000000080,
   0x000000000000800A, 0x800000008000000A, 0x8000000080008081, 0x8000000000008080, 0x0000000080000001, 0x8000000080008008]

/-- One round of the permutation on 25 lanes. -/
def keccakRound (a : List Nat) (word : Nat) : List Nat :=
  let l := fun (b : List Nat) (x y : Nat) => b.getD (x % 5 + 5 * (y % 5)) 0
  let c := (List.range 5).map fun x => (List.range 5).foldl (fun r y => r ^^^ l a x y) 0
  let a := (List.range 25).map fun i => a.getD i 0 ^^^ c.getD ((i + 4) % 5) 0 ^^^ rotl64 (c.getD ((i % 5 + 1) % 5) 0) 1
  let b := (List.range 25).map fun i =>
    let j := (i % 5 + 3 * (i / 5)) % 5 + 5 * (i % 5)
    rotl64 (a.getD j 0) (laneShifts.getD j 0)
  (List.range 25).map fun i =>
    let x := i % 5
    let y := i / 5
    l b x y ^^^ ((2 ^ 64 - 1 - l b (x + 1) y) &&& l b (x + 2) y) ^^^ (if i = 0 then word else 0)

def keccak (a : List Nat) : List Nat := roundWords.foldl keccakRound a

/-- Blocks of 136 bytes absorbed. -/
def absorb : Nat → List Nat → List Byte → List Nat
  | 0, a, _ => a
  | n + 1, a, m =>
    absorb n (keccak ((List.range 25).map fun i => if i < 17 then a.getD i 0 ^^^ leNat ((m.drop (8 * i)).take 8) else a.getD i 0)) (m.drop 136)

/-- SHAKE256 of a list of bytes: 64 bytes. -/
def shake256 (m : List Byte) : List Byte :=
  let k := 135 - m.length % 136
  let pad : List Byte := if k = 0 then [0x9F] else 0x1F :: (List.replicate (k - 1) 0 ++ [0x80])
  ((absorb (m.length / 136 + 1) (List.replicate 25 0) (m ++ pad)).take 8).flatMap fun w =>
    (List.range 8).map fun i => BitVec.ofNat 8 (w / 256 ^ i)

end Sys2Proof.Machine
end

