-- ==== Sys2Proof/Machine/Sequencer.lean ====
section
/-! DEFINITION. The launch sequencer (R323-R342): contexts, submission rings, acceptance, start conditions, placement and
the choice of regions to pre-empt, loading and starting, completion, KILL and the binding of crown barriers. -/
namespace Sys2Proof.Machine

/-! ## Contexts (R324) -/

/-- A descriptor as the sequencer copies it (Table 17.2). -/
def Ctx.ofWords (addr : Nat) (w : List Nat) : Ctx :=
  let f := fun i => w.getD i 0
  { valid := true, addr := addr, ptroot := f 0, key := bits (f 1) 12 0, flogring := f 2, supq := f 3, savedir := f 4,
    maxprio := bits (f 5) 2 0, signed := bit (f 5) 3 }

/-- n words read by PPA under key slot 0 (R354). -/
def State.ppaWords (s : State) (a : Nat) : Nat → List Nat
  | 0 => []
  | n + 1 => leNat (s.keyedBytes (s.slotLoad 0) a 8) :: State.ppaWords s (a + 8) n

/-- The descriptor at a PPA can be read: its stack is there, and no word of it is poisoned (R2, R343). -/
def State.descReadable (s : State) (a : Nat) : Bool :=
  decide (a < 2 ^ 40) && s.diePresent (dieOfStack (a / 2 ^ 36)) && !((List.range 8).any fun i => s.poisoned (a + 8 * i))

/-- CONTEXT_CREATE: a CTXDESC write with VALID = 1; a valid entry ignores it. A descriptor that cannot be read makes no
context: the write is ignored (DESIGN CHOICE, log 82). -/
def execContextCreate (c : Fin 64) (v : Word) (s : State) : Host.Outcome State Fault Refusal := s.orWait fun s =>
  let a := bits v.toNat 43 6 * 64
  let s := if (s.ctxOf c).valid || !bit v.toNat 63 then s else (s.meet a).detectWords a 8
  if (s.ctxOf c).valid || !bit v.toNat 63 || !s.descReadable a then .next s
  else
    let s := s.setCtx c (Ctx.ofWords a (s.ppaWords a 8))
    .next ((List.range 16).foldl (fun s i => s.setLflag (16 * c.val + i) 0) s)

/-- A context holds no launch and no mapped ring. -/
def State.ctxIdle (s : State) (c : Nat) : Bool :=
  !(s.launches.any fun l => l.ctx == c) && !(s.subs.any fun x => x.2.mapped && x.2.rctx == c)

/-- CONTEXT_DESTROY: a CTXDESC write with VALID = 0; its translations go with the context (R353). The firmware context is
Evodon's (R413). -/
def execContextDestroy (c : Fin 64) (v : Word) (s : State) : Host.Outcome State Fault Refusal :=
  if bit v.toNat 63 || !s.ctxIdle c || (s.ctxOf c).firmware then .next s
  else
    let s := s.setCtx c { addr := bits v.toNat 43 6 * 64 }
    .next { s with clusters := s.clusters.map fun x => (x.1, { x.2 with tlb := x.2.tlb.filter fun e => e.ctx != c.val }) }

/-! ## Submission rings (R327-R329) -/

def State.sub (s : State) (i : Nat) : SubSlot := mget {} s.subs i
def State.setSub (s : State) (i : Nat) (x : SubSlot) : State := { s with subs := mset {} s.subs i x }

/-- A write that is ignored sets ERR. -/
def State.subErr (s : State) (i : Nat) : State := s.setSub i { s.sub i with err := true }

/-- The notify rule: T becomes the tail of a slot when it is in range. -/
def SubSlot.notify (x : SubSlot) (t : Nat) : Option SubSlot :=
  if (t + 2 ^ 32 - x.head) % 2 ^ 32 ≤ 2 ^ x.log2 then some { x with tail := t } else none

/-- A slot as a descriptor maps it; none where the write is ignored. -/
def SubSlot.ofDesc (x : SubSlot) (ctx daddr : Nat) (w : List Nat) : Option SubSlot :=
  let f := fun i => w.getD i 0
  let log2 := bits (f 2) 4 0
  if log2 < 6 ∨ 16 < log2 ∨ bits (f 2) 13 8 ≠ ctx ∨ bits (f 2) 7 5 ≠ 0 ∨ bits (f 2) 62 14 ≠ 0 ∨
      f 4 ≠ 0 ∨ f 5 ≠ 0 ∨ f 6 ≠ 0 ∨ f 7 ≠ 0 then none
  else
    let head := f 3 % 2 ^ 32
    let tail := f 3 / 2 ^ 32
    let y : SubSlot := { x with ctx := ctx, daddr := daddr, mapBit := true, mapped := true, rbase := f 0, sbase := f 1, log2 := log2,
                                rctx := ctx, rdaddr := daddr, latched := none,
                                head := head, tail := tail }
    if bit (f 2) 63 then
      -- a latched notify out of range is ignored; nothing is then left to consume
      (match y.notify tail with | some z => some z | none => some { y with tail := head, err := true })
    else some y

/-- RING_MAP: a SUBDESC write with MAP = 1. -/
def execRingMap (slot : Fin 64) (v : Word) (s : State) : Host.Outcome State Fault Refusal := s.orWait fun s =>
  let ctx := bits v.toNat 49 44
  let daddr := bits v.toNat 43 6 * 64
  if (s.sub slot).mapped || !(s.ctxOf ctx).valid || !bit v.toNat 0 then .next (s.subErr slot)
  else
    let r := s.vreads ctx daddr 8 []
    match r.1 with
    | .ok w =>
      match (r.2.sub slot).ofDesc ctx daddr w with
      | some x => .next (r.2.setSub slot x)
      | none => .next (r.2.subErr slot)
    | .error _ => .next (r.2.subErr slot)

/-- RING_UNMAP: a SUBDESC write with MAP = 0 begins the unmapping, for which BUSY stands; its fields are written (R8). -/
def execRingUnmap (slot : Fin 64) (v : Word) (s : State) : Host.Outcome State Fault Refusal :=
  let x := s.sub slot
  if !x.mapped || x.busy || bit v.toNat 0 then .next (s.subErr slot)
  else .next (s.setSub slot { x with ctx := bits v.toNat 49 44, daddr := bits v.toNat 43 6 * 64, mapBit := false, busy := true })

/-- The end of an unmapping: HEAD, TAIL and RCTL go back to the descriptor, with PEND and its TAIL where a notify was
latched, and MAPPED clears (R329). -/
def State.ringUnmapped (s : State) (slot : Nat) : Host.Outcome State Fault Refusal := s.orWait fun s =>
  let x := s.sub slot
  if !x.busy then .next s
  else
    let tail := x.latched.getD x.tail
    let r := s.vwrites x.rctx (x.rdaddr + 0x10)
      [x.log2 + x.rctx * 2 ^ 8 + boolNat x.latched.isSome * 2 ^ 63, x.head + tail * 2 ^ 32]
    .next (r.2.setSub slot { x with mapped := false, busy := false, latched := none })

/-- SUBNOTIFY; during an unmapping it is latched (R329). -/
def execSubnotify (slot : Fin 64) (v : Word) (s : State) : Host.Outcome State Fault Refusal :=
  let x := s.sub slot
  if x.busy then .next (s.setSub slot { x with latched := some (v.toNat % 2 ^ 32) })
  else
    match (if x.mapped then x.notify (v.toNat % 2 ^ 32) else none) with
    | some y => .next (s.setSub slot y)
    | none => .next (s.subErr slot)

/-! ## Acceptance (R334) -/

/-- Offset of the first bad field of a record of a context. -/
def badField (ctx : Nat) (w : List Nat) : Option Nat :=
  let f := fun i => w.getD i 0
  let ctrl := f 3
  if f 0 / 2 ^ 44 ≠ 0 ∨ f 0 % 64 ≠ 0 then some 0x00
  else if f 1 / 2 ^ 54 ≠ 0 then some 0x08
  else if f 2 / 2 ^ 44 ≠ 0 then some 0x10
  else if ctrl / 2 ^ 29 ≠ 0 ∨ (bit ctrl 18 = true ∧ bits ctrl 28 19 / 16 ≠ ctx) then some 0x18
  else if f 4 / 2 ^ 44 ≠ 0 then some 0x20
  else if bits (f 5) 15 14 ≠ 0 ∨ bits (f 5) 31 30 ≠ 0 ∨ f 5 / 2 ^ 40 ≠ 0 ∨ (bits (f 5) 29 16 = 0 ∧ bits (f 5) 13 0 ≠ 0) then some 0x28
  else none

/-- INDEX of a read that failed: its class, or 0 for a translation. -/
def VWord.index : VWord → Nat
  | .cls c => c
  | _ => 0

/-- The cuff table of n clusters. -/
def State.readCuffs (s : State) (ctx base : Nat) : Nat → Nat → List (Nat × Nat) → Except VWord (List (Nat × Nat)) × State
  | 0, _, acc => (.ok acc.reverse, s)
  | n + 1, c, acc =>
    let r := s.vreads ctx (base + 16 * c) 2 []
    match r.1 with
    | .ok [b, l] => State.readCuffs r.2 ctx base n (c + 1) ((b, l) :: acc)
    | .ok _ => (.ok acc.reverse, r.2)
    | .error e => (.error e, r.2)

def cuffBad (e : Nat × Nat) : Bool := e.1 % 128 != 0 || decide (2 ^ 44 ≤ e.1) || decide (e.2 % 32 < 10) || decide (24 < e.2 % 32)

/-- The VOF header of R98, or none where it fails R99. -/
def Vof.ofWords (w : List Nat) : Option Vof :=
  let f := fun i => w.getD i 0
  let v : Vof := { entry := f 1, tentry := f 2, codesz := f 3 % 2 ^ 32, datasz := f 3 / 2 ^ 32, nreloc := f 4 % 2 ^ 32,
                   region := f 4 / 2 ^ 32, reloff := f 5, sigoff := f 7 }
  let headOk := fun (e : Nat) => e % 2 == 0 && bits e 5 1 != 0 && decide (e < v.codesz)
  if f 0 = 0x3146_4F56 + 2 ^ 32 ∧ f 6 = 0 ∧ v.codesz % 64 = 0 ∧ v.codesz + v.datasz ≤ 0x8_0000 ∧
      headOk v.entry = true ∧ (v.tentry = 0 ∨ headOk v.tentry = true) then some v
  else none

/-- The stacks and the window fit (R338, R339). -/
def tileFits (v : Vof) (allt : Bool) (tile : Nat) : Bool :=
  decide (v.codesz + v.datasz + (if allt then 8 else 1) * 256 * bits tile 39 32 ≤ 0x8_0000) &&
    decide (32 * (bits tile 13 0 + bits tile 29 16) ≤ 0x8_0000)

/-- A cluster lies on a present die that a mask names. -/
def State.onDies (s : State) (mask c : Nat) : Bool := s.diePresent (dieOf c) && bit mask (dieOf c)

/-- The first origin of R336 whose clusters all satisfy p. -/
def placeAt (w h : Nat) (p : Nat → Bool) : Option (Nat × Nat) :=
  ((List.range (33 - h)).flatMap fun cy => (List.range (17 - w)).map fun cx => (cx, cy)).find?
    fun o => (rectClusters o.1 o.2 w h).all p

/-- ARG and ARGLEN rounded inward (R53), EX cleared; what lies beyond the last address is not granted, and an argument of
which nothing is left has length 0. -/
def adjustArg (w1 w2 : Nat) : Nat × Nat :=
  let perm := bits w1 53 44
  let perm := if bit perm 5 then perm - 32 else perm
  let arg := bits w1 43 0
  let base := ceilDiv arg 64 * 64
  let len := Nat.min (arg + w2) (2 ^ 44) - base
  let n := 2 ^ (2 * expFor len 15 0 + 6)
  if len / n = 0 then (arg + perm * 2 ^ 44, 0) else (base + perm * 2 ^ 44, len / n * n)

/-- Checks 4 to 8 of R334: the header and the prefix of decisions, as the launch or a status with its INDEX. -/
def State.acceptImage (s : State) (l : Launch) (header : Except VWord (List Nat)) : Except (Status × Nat) Launch :=
  match header with
  | .error e => .error (.imageRead, e.index)
  | .ok hw =>
    match Vof.ofWords hw with
    | none => .error (.imageForm, 0)
    | some v =>
      if !tileFits v l.allThreads (l.field 5) then .error (.recForm, 0x28)
      else if !((List.range 4).any fun d => bit l.dieMask d && s.diePresent d) then .error (.nodie, 0)
      else if (placeAt l.w l.h (s.onDies l.dieMask)).isNone then .error (.nofit, 0)
      else .ok { l with vof := v, head := hw.map (BitVec.ofNat 64) }

/-- The words of an image held by Evodon. -/
def storedWords (img : List Byte) (n : Nat) : List Nat := (List.range n).map fun i => leNat ((img.drop (8 * i)).take 8)

/-- Acceptance of a record of a context: its launch is queued, or its code is written. `img`: the image of a record that
comes through the firmware port (R413). -/
def State.accept (s : State) (ctx : Nat) (status : Option (Nat × Nat)) (w : List Nat) (img : Option (List Byte)) : State :=
  let c := s.ctxOf ctx
  let arg := adjustArg (w.getD 1 0) (w.getD 2 0)
  let ctrl := w.getD 3 0
  let prio := Nat.min (bits ctrl 15 13) c.maxprio
  let words := ((w.set 1 arg.1).set 2 arg.2).set 3 (ctrl / 2 ^ 16 * 2 ^ 16 + prio * 2 ^ 13 + ctrl % 2 ^ 13)
  let l : Launch :=
    { id := s.launchIds + 1, ctx := ctx, status := status, record := words.map (BitVec.ofNat 64),
      prio := prio, order := s.orders }
  let s : State := { s with launchIds := s.launchIds + 1, orders := s.orders + 1 }
  match badField ctx w with
  | some off => s.endLaunch l .recForm off 8
  | none =>
    let n := l.w * l.h
    let cf : Except VWord (List (Nat × Nat)) × State := if w.getD 4 0 = 0 then (.ok [], s) else s.readCuffs ctx (w.getD 4 0) n 0 []
    match cf.1 with
    | .error e => cf.2.endLaunch l .recRead e.index 8
    | .ok cuffs =>
      if cuffs.any cuffBad then cf.2.endLaunch l .recForm 0x20 8
      else
        let hd : Except VWord (List Nat) × State := match img with
          | some b => (.ok (storedWords b 8), cf.2)
          | none => cf.2.vreads ctx (w.getD 0 0) 8 []
        match hd.2.acceptImage { l with cuffs := cuffs } hd.1 with
        | .error (st, i) => hd.2.endLaunch l st i 8
        | .ok l => ({ hd.2 with launches := hd.2.launches ++ [l] }).writeStatus status l.id .queued 0

/-- Accepted launches that have not started. -/
def State.unstarted (s : State) : Nat := (s.launches.filter fun l => l.phase == .waiting || l.phase == .queued || l.phase == .placed).length

/-- RING_CONSUME: the record at HEAD is read whole, and accepted or refused; a checkpoint stops it (R416). -/
def execRingConsume (slot : Fin 64) (s : State) : Host.Outcome State Fault Refusal := s.orWait fun s =>
  let x := s.sub slot
  if !x.mapped || x.busy || x.head == x.tail || decide (4096 ≤ s.unstarted) || s.ckpt.isSome then .next s
  else
    let i := x.head % 2 ^ x.log2
    let s := s.setSub slot { x with head := (x.head + 1) % 2 ^ 32 }
    let r := s.vreads x.rctx (x.rbase + 64 * i) 8 []
    let status := some (x.sbase + 8 * i, x.rctx)
    match r.1 with
    | .ok w => .next (r.2.accept x.rctx status w none)
    | .error e =>
      let s : State := { r.2 with launchIds := r.2.launchIds + 1 }
      .next (s.writeStatus status s.launchIds .recRead e.index)

/-! ## Start conditions (R335) -/

/-- WAITj of a record. -/
def Launch.waitj (l : Launch) (j : Nat) : Nat := l.field (6 + j / 2) / 2 ^ (32 * (j % 2)) % 2 ^ 32

/-- The enabled conditions not yet observed are looked at in order: with some found poisoned, its class. -/
def State.conditions (s : State) (l : Launch) : List Nat → Launch × Option Nat
  | [] => (l, none)
  | j :: js =>
    let w := l.waitj j
    let cm := s.lflagAt (bits w 9 0)
    if !bit w 10 || l.metConds.contains j then State.conditions s l js
    else if cm.2 ≠ 0 then (l, some (cm.2 - 1))
    else if bits w 31 11 ≤ cm.1 then State.conditions s { l with metConds := nins l.metConds j } js
    else State.conditions s l js

/-- LAUNCH_CONDITIONS_MET: what is observed; with all conditions met the launch joins the placement queue. -/
def execLaunchConditionsMet (id : Nat) (s : State) : Host.Outcome State Fault Refusal := s.orWait fun s =>
  match s.launch id with
  | none => .next s
  | some l =>
    if l.phase != .waiting then .next s
    else
      let r := s.conditions l [0, 1, 2, 3]
      match r.2 with
      | some c => .next (s.endLaunch l .flagpoison c c)
      | none =>
        let all := ([0, 1, 2, 3] : List Nat).all fun j => !bit (l.waitj j) 10 || r.1.metConds.contains j
        .next (s.updLaunch id fun _ => { r.1 with phase := if all then .queued else .waiting })

/-! ## Placement (R336, R337) -/

/-- x goes before y in the placement queue. -/
def Launch.before (x y : Launch) : Bool := decide (y.prio < x.prio) || (x.prio == y.prio && decide (x.order < y.order))

/-- Head of the placement queue: launches whose conditions have passed and saved ones. -/
def State.queueHead (s : State) : Option Launch :=
  (s.launches.filter fun l => l.phase == .queued || l.phase == .saved).foldl (fun o l =>
    match o with | some m => if l.before m then some l else o | none => some l) none

/-- A cluster that a remap has stopped placing on, logical columns from p on of its die (R400), or an OFFLINE (R401). -/
def State.remapping (s : State) (c : Nat) : Bool :=
  (match s.evo.remapPending with
  | some (d, p) => dieOf c == d && decide (p ≤ c % 16 % 8)
  | none => false) ||
  match s.evo.offlinePending with
  | some (d, _) => dieOf c == d
  | none => false

/-- A cluster is free of any region, leaving out those of some launches. -/
def State.freeBut (s : State) (ids : List Nat) (c : Nat) : Bool :=
  match s.holder c with
  | some l => ids.contains l.id
  | none => true

/-- R336's condition on a cluster for a launch, regions of some launches counted free. -/
def State.placeable (s : State) (ids : List Nat) (l : Launch) (c : Nat) : Bool :=
  s.freeBut ids c && !(s.tile (clusterTile c 0)).fenced && s.onDies l.dieMask c && !s.remapping c

def State.findPlace (s : State) (ids : List Nat) (l : Launch) : Option (Nat × Nat) := placeAt l.w l.h (s.placeable ids l)

/-- Nothing is placed: a checkpoint is in progress, or a die is too hot (R416, R419). -/
def State.noPlacing (s : State) : Bool := s.ckpt.isSome || s.evo.veryHot

/-- Bytes of a save image of n clusters (R359). -/
def imageBytes (n : Nat) : Nat := 0x1000 + n * 0x70_0000

/-- The lowest unused entry of the save-area directory that is large enough: its number and area. -/
def State.findArea (s : State) (ctx size : Nat) : Nat → Nat → Option (Nat × Nat) × State
  | 0, _ => (none, s)
  | n + 1, e =>
    let r := s.vreads ctx ((s.ctxOf ctx).savedir + 16 * e) 2 []
    match r.1 with
    | .ok [a, sz] => if a % 2 = 0 ∧ size ≤ sz then (some (e, a / 2 ^ 16 * 2 ^ 16), r.2) else State.findArea r.2 ctx size n (e + 1)
    | _ => State.findArea r.2 ctx size n (e + 1)

/-- A launch's region is selected for pre-emption: its save area is taken and its halt is requested; false where none
qualifies. Firmware context 0 is never pre-empted (R413). -/
def State.select (s : State) (l : Launch) : Bool × State :=
  if l.phase != .running || (s.ctxOf l.ctx).firmware then (false, s)
  else
    let r := s.findArea l.ctx (imageBytes (l.w * l.h)) 64 0
    match r.1 with
    | none => (false, r.2)
    | some (e, a) =>
      let s := (r.2.vwrites l.ctx ((r.2.ctxOf l.ctx).savedir + 16 * e) [a + 1]).2
      (true, s.updLaunch l.id fun l => { l with phase := .halting, dirEntry := e + 1, area := a })

/-- Running regions below a priority that can be saved: lowest priority first, then most recently started. -/
def insVictim (x : Launch) : List Launch → List Launch
  | [] => [x]
  | y :: ys => if x.prio < y.prio ∨ (x.prio = y.prio ∧ y.started < x.started) then x :: y :: ys else y :: insVictim x ys

def State.victims (s : State) (l : Launch) : List Launch :=
  (s.launches.filter fun v => v.phase == .running && decide (v.prio < l.prio) && !(s.ctxOf v.ctx).firmware &&
    (s.findArea v.ctx (imageBytes (v.w * v.h)) 64 0).1.isSome).foldl (fun a v => insVictim v a) []

/-- The shortest prefix whose clusters, counted free, let a launch be placed: the prefix and the origin. -/
def State.prefixFor (s : State) (l : Launch) : List Launch → List Launch → Option (List Launch × (Nat × Nat))
  | _, [] => none
  | pre, v :: vs =>
    let pre := pre ++ [v]
    match s.findPlace (pre.map fun x => x.id) l with
    | some o => some (pre, o)
    | none => State.prefixFor s l pre vs

/-- The head cannot be placed: the regions that its placement needs are selected (R337). -/
def State.preemptFor (s : State) (l : Launch) : State :=
  if s.launches.any fun v => v.phase == .halting || v.phase == .settled then s
  else
    match s.prefixFor l [] (s.victims l) with
    | none => s
    | some (pre, o) =>
      let cs := rectClusters o.1 o.2 l.w l.h
      (pre.filter fun v => v.clusters.any cs.contains).foldl (fun s v => (s.select v).2) s

/-- LAUNCH_PLACEMENT: the head, if it has not been saved, takes the first fitting origin; otherwise regions below it
are selected for pre-emption. -/
def execLaunchPlacement (s : State) : Host.Outcome State Fault Refusal := s.orWait fun s =>
  match s.queueHead with
  | none => .next s
  | some l =>
    if s.noPlacing then .next s
    else
      match s.findPlace [] l with
      | some (cx, cy) =>
        if l.phase = .saved then .next s
        else .next (s.updLaunch l.id fun l => { l with phase := .placed, cx := cx, cy := cy })
      | none => .next (s.preemptFor l)

/-! ## Loading (R338, R100, R101, R407) -/

/-- n bytes of an image from a virtual address, by whole words; or how the reading failed. -/
def State.imageBytesAt (s : State) (ctx va : Nat) : Nat → List Byte → Except VWord (List Byte) × State
  | 0, acc => (.ok acc, s)
  | n + 1, acc =>
    let r := s.vread ctx va
    match r.1 with
    | .ok w => State.imageBytesAt r.2 ctx (va + 8) n (acc ++ natLe 8 w)
    | e => (.error e, r.2)

/-- n bytes at an offset of a launch's image: from HBM, or from Evodon's store (R413). -/
def State.readImage (s : State) (l : Launch) (off n : Nat) : Except VWord (List Byte) × State :=
  if (s.ctxOf l.ctx).firmware then (.ok (((s.evo.trainingImage.drop off).take n)), s)
  else
    let va := l.field 0 + off
    let lead := va % 8
    let r := s.imageBytesAt l.ctx (va - lead) (ceilDiv (n + lead) 8) []
    match r.1 with
    | .ok b => (.ok ((b.drop lead).take n), r.2)
    | .error e => (.error e, r.2)

/-- Bytes put into a list at an offset. -/
def splice (b : List Byte) (off : Nat) (x : List Byte) : List Byte := b.take off ++ x ++ b.drop (off + x.length)

/-- Q of Table 4.14. -/
def Launch.qty (l : Launch) (pkg q : Nat) : Option Nat :=
  match q with
  | 0 => some 0 | 1 => some (4 * l.cx) | 2 => some (2 * l.cy) | 3 => some (4 * l.w) | 4 => some (2 * l.h)
  | 5 => some pkg | 6 => some l.ctx | 7 => some l.vof.codesz
  | _ => none

/-- Where a relocation's field lies in the image: byte offset, bytes, low bit and width of the field, and whether it is
signed; none where the entry is not well formed. In a malformed line whose tails pass below parcel 0 the field of such a
tail is taken from parcel 0 (DESIGN CHOICE, log 88). -/
def relocField (v : Vof) (img : List Byte) (kind off : Nat) : Option (Nat × Nat × Nat × Bool) :=
  let tail := fun (len width : Nat) (signed : Bool) =>
    let l := lineOfBytes ((img.drop (off / 64 * 64)).take 64)
    let i := off % 64 / 2
    if v.codesz ≤ off ∨ off % 2 ≠ 0 ∨ i = 0 ∨ lineHeads l < i ∨ headLen (lineHead l i) ≠ len then none
    else some (off / 64 * 64 + 2 * (32 - tailSum l i - len), 2 * len, width, signed)
  let data := fun (n : Nat) =>
    if off < v.codesz ∨ v.codesz + v.datasz < off + n ∨ off % n ≠ 0 then none else some (off, n, 8 * n, false)
  match kind with
  | 1 => tail 1 8 false
  | 2 => tail 2 20 true
  | 3 => tail 3 48 true
  | 4 => data 4
  | 5 | 6 => data 8
  | _ => none

/-- One relocation entry applied: the image, or the status it fails with. -/
def Launch.relocate (l : Launch) (pkg idx : Nat) (e : List Byte) (img : List Byte) : Except (Status × Nat) (List Byte) :=
  let w0 := leNat (e.take 8)
  let addend := leNat (e.drop 8)
  let off := w0 % 2 ^ 32
  let kind := bits w0 39 32
  match relocField l.vof img kind off, l.qty pkg (bits w0 47 40) with
  | some (at_, n, width, signed), some q =>
    if bits w0 63 48 ≠ 0 ∨ (kind = 6 ∧ bits w0 47 40 ≠ 0) then .error (.imageForm, 0)
    else
      let raw := leNat ((img.drop at_).take n)
      if kind = 6 then
        let x := bits raw 37 32 + 4 * l.cx + bits addend 5 0
        let y := bits raw 43 38 + 2 * l.cy + bits addend 13 8
        if 63 < x ∨ 63 < y then .error (.relocRange, idx)
        else .ok (splice img at_ (natLe 8 (raw / 2 ^ 44 * 2 ^ 44 + y * 2 ^ 38 + x * 2 ^ 32 + raw % 2 ^ 32)))
      else
        let f : Int := if signed then sgn width raw else (raw % 2 ^ width : Nat)
        let r := f + q + sgn 64 addend
        let lo : Int := if signed then -(2 ^ (width - 1) : Nat) else 0
        let hi : Int := if signed then (2 ^ (width - 1) : Nat) else (2 ^ width : Nat)
        if r < lo ∨ hi ≤ r then .error (.relocRange, idx)
        else .ok (splice img at_ (natLe n (raw / 2 ^ width * 2 ^ width + wrapInt width r)))
  | _, _ => .error (.imageForm, 0)

/-- The relocations in table order. -/
def Launch.relocateAll (l : Launch) (pkg : Nat) (tbl : List Byte) : Nat → Nat → List Byte → Except (Status × Nat) (List Byte)
  | 0, _, img => .ok img
  | n + 1, i, img =>
    match l.relocate pkg i ((tbl.drop (16 * i)).take 16) img with
    | .ok img => Launch.relocateAll l pkg tbl n (i + 1) img
    | .error x => .error x

/-- A measurement chain extended by a digest; an empty list stands for 64 zero bytes (R409). -/
def extendChain (chain digest : List Byte) : List Byte :=
  shake256 ((if chain = [] then List.replicate 64 0 else chain) ++ digest)

/-- The key of a verification slot: slot 0 always holds Nolken's root key (R408). -/
def State.verifyKey (s : State) (slot : Nat) : Option (List Byte) :=
  if slot = 0 then some Config.rootKey else mfind s.evo.verifyKeys slot

/-- The signature of an image (R407): its digest where it verifies. The header is the one read at acceptance (R334). -/
def State.verifyImage (s : State) (l : Launch) : Option (List Byte) × State :=
  let off := l.vof.sigoff
  if off = 0 ∨ off % 64 ≠ 0 then (none, s)
  else
    let r := s.readImage l 64 (off + 0x540 - 64)
    match r.1 with
    | .error _ => (none, r.2)
    | .ok b =>
      let b := l.head.flatMap (fun w => natLe 8 w.toNat) ++ b
      let blk := b.drop off
      let slot := leNat ((blk.drop 4).take 2) % 16
      let digest := shake256 (b.take off)
      match leNat (blk.take 4) == 0x4753_4B56, r.2.verifyKey slot with
      | true, some key =>
        if b.length = off + 0x540 ∧ Config.falconVerify key digest ((blk.drop 0x40).take 1280) = true then (some digest, r.2) else (none, r.2)
      | _, _ => (none, r.2)

/-! ## Starting (R339, R60) -/

/-- Registers of Table 17.8. -/
def Launch.startRegs (l : Launch) (firmware : Option Nat) (t j : Nat) : SMap GReg :=
  let x := tileX t
  let y := tileY t
  let x0 := 4 * l.cx
  let y0 := 2 * l.cy
  let cap := fun (perm base len cur : Nat) => capReg (tileUpper perm base len) (BitVec.ofNat 64 (gaSpad t 0 + cur))
  let arg := match firmware with
    | some base => capReg (plainUpper 3 base 0x1000) (BitVec.ofNat 64 (2 ^ 63 + 2 ^ 45 + base))
    | none =>
      if l.field 2 = 0 then ({} : GReg)
      else capReg (plainUpper (bits (l.field 1) 53 44) (bits (l.field 1) 43 0) (l.field 2))
        (BitVec.ofNat 64 (2 ^ 63 + 2 ^ 44 + bits (l.field 1) 43 0))
  let tile := l.field 5
  let winLen := bits tile 29 16
  let win := if winLen = 0 then cap 0x3DF 0 0x8_0000 0 else cap 0x3DF (32 * bits tile 13 0) (32 * winLen) (32 * bits tile 13 0)
  let st := bits tile 39 32
  let base := 0x8_0000 - 256 * st * (j + 1)
  let stack := if st = 0 then ({} : GReg) else cap 0x0DF base (256 * st) (base + 256 * st)
  let set := fun (m : SMap GReg) (k : Nat) (r : GReg) => mset {} m k r
  set (set (set (set (set [] 1 (dataReg (BitVec.ofNat 64 ((y - y0) * (4 * l.w) + (x - x0))))) 2 arg)
    3 (dataReg (BitVec.ofNat 64 (x + y * 2 ^ 8 + x0 * 2 ^ 16 + y0 * 2 ^ 24 + (4 * l.w - 1) * 2 ^ 32 + (2 * l.h - 1) * 2 ^ 40))))
    13 win) 14 stack

/-- Thread j of a tile at placement (Table 2.9): at the entry, or waiting in WFW. -/
def Launch.startThread (l : Launch) (firmware : Option Nat) (t j : Nat) : Thread :=
  let base : Thread :=
    { mode := l.replayMode, seed := BitVec.ofNat 64 (t * 8 + j), tvec := if l.vof.tentry = 0 then 0 else BitVec.ofNat 64 (gaSpad t l.vof.tentry) }
  if j = 0 || l.allThreads then
    let pc := BitVec.ofNat 64 (gaSpad t l.vof.entry)
    { base with g := l.startRegs firmware t j, pc := pc, code := some (imageCode l.vof.codesz), run := .rotation, wanted := [pcLine pc] }
  else { base with run := .wfw }

/-- Threads 0 to 7. -/
def Launch.startThreads (l : Launch) (firmware : Option Nat) (t : Nat) : SMap Thread :=
  (List.range 8).map fun j => (j, l.startThread (if j = 0 then firmware else none) t j)

/-- A tile at placement: kernel state fresh, what its queues hold kept. -/
def Launch.startTile (l : Launch) (firmware : Option Nat) (t : Nat) (x : Tile) : Tile :=
  { x.bare true with wiped := false, region := some l.id, ctx := l.ctx, replay := l.replayMode, imageSize := l.vof.codesz,
                     threads := l.startThreads firmware t, rot := if l.replayMode then 0 else 7, wfwNext := 1 }

/-- The training block of a channel: stack s, channel c (R413). -/
def trainBlock (stack channel : Nat) : Nat := 0x0400_0000 + 0x10_0000 * stack + 0x1000 * channel

/-- The block that firmware context 0's thread 0 is given: the channel of its record's ARG word, stack * 32 +
channel. -/
def State.firmwareBlock (s : State) (l : Launch) : Option Nat :=
  if (s.ctxOf l.ctx).firmware then some (trainBlock (l.field 1 / 32 % 16) (l.field 1 % 32)) else none

/-- The image is broadcast over scratchpads whose words are zero, clean, empty and untagged, and the threads start; tiles that a
fence has taken stay as they are (R99, R205). -/
def State.startRegion (s : State) (l : Launch) (img : List Byte) : State :=
  let fw := s.firmwareBlock l
  let s := l.clusters.zipIdx.foldl (fun s x => s.updCluster x.1 fun cl =>
    { cl with cuff := (l.cuffs[x.2]?).map fun k => { base := k.1, log2 := k.2 % 32 } }) s
  let s := l.tiles.foldl (fun s t =>
    if (s.tile t).fenced then s
    else ((s.eraseSpad t).setBytes (spad t 0) img).setTile t (l.startTile fw t (s.tile t))) s
  let n := s.orders
  { s with orders := n + 1 }.updLaunch l.id fun l => { l with phase := .running, started := n }

/-- INDEX of RUNNING: the region's tile origin. -/
def Launch.origin (l : Launch) : Nat := 4 * l.cx + 2 * l.cy * 2 ^ 8

/-- LAUNCH_LOAD: the placed image is read, checked, verified and relocated, and its threads start; the first failure
ends the launch and releases its region. -/
def execLaunchLoad (id : Nat) (s : State) : Host.Outcome State Fault Refusal := s.orWait fun s =>
  match s.launch id with
  | none => .next s
  | some l =>
    if l.phase != .placed || s.noPlacing then .next s
    else
      let fail := fun (s : State) (st : Status) (i : Nat) =>
        (.next ((s.releaseRegion l true).endLaunch l st i 8) : Host.Outcome State Fault Refusal)
      let v := l.vof
      let code := s.readImage l 64 (v.codesz + v.datasz)
      match code.1 with
      | .error e => fail code.2 .imageRead e.index
      | .ok img =>
        let tbl := code.2.readImage l v.reloff (16 * v.nreloc)
        match tbl.1 with
        | .error e => fail tbl.2 .imageRead e.index
        | .ok tb =>
          let s := tbl.2
          if v.region ≠ 0 ∧ v.region ≠ l.w + l.h * 2 ^ 16 then fail s .shape 0
          else
            let sg := if (s.ctxOf l.ctx).signed then s.verifyImage l else (some [], s)
            match sg.1 with
            | none => fail sg.2 .imageSig 0
            | some d =>
              let s := sg.2
              let s := if d = [] then s else s.setCtx l.ctx { s.ctxOf l.ctx with chain := extendChain (s.ctxOf l.ctx).chain d }
              match l.relocateAll s.pkg tb v.nreloc 0 img with
              | .error (st, i) => fail s st i
              | .ok img =>
                let s := s.startRegion l img
                .next (s.writeStatus l.status l.id .running l.origin)

/-! ## Completion and KILL (R340, R341) -/

/-- A tile of a region has nothing left to do. -/
def Tile.finished (x : Tile) : Bool :=
  x.threads.all (fun h => h.2.run == .halted || h.2.run == .wfw) && x.spawn.isEmpty && x.matq.isEmpty &&
    x.copyq.all (fun c => !c.2.live) &&
    x.posted.all (fun p => !((List.range 8).any fun h => drains h p))

def Cluster.finished (x : Cluster) : Bool :=
  x.bank.isEmpty && x.staging.isEmpty && (match x.cuff with | some k => k.entries.all fun b => b.void | none => true)

/-- Threads of a region halted under R187. -/
def State.halted187 (s : State) (l : Launch) : Nat :=
  (l.tiles.map fun t => ((s.tile t).threads.filter fun h => h.2.halt187).length).foldl (· + ·) 0

/-- A fault record of the firmware context has not reached Evodon yet (R413). -/
def State.recordsWait (s : State) (l : Launch) : Bool := (s.ctxOf l.ctx).firmware && s.held.any fun r => r.ctx == l.ctx

/-- LAUNCH_COMPLETION: DONE, the done flag, and the release; a launch that a fence has touched is KILLED (R396). -/
def execLaunchCompletion (id : Nat) (s : State) : Host.Outcome State Fault Refusal := s.orWait fun s =>
  match s.launch id with
  | none => .next s
  | some l =>
    if l.phase != .running || s.recordsWait l || !(l.tiles.all fun t => (s.tile t).finished) ||
        !(l.clusters.all fun c => (s.cluster c).finished) then
      .next s
    else
      let n := s.halted187 l
      let s := if l.fenceHit then s.endLaunch l .killed 0 8 else s.endLaunch l .done n 0
      .next (s.releaseRegion l true)

/-- KILL: the launch of an id ends; a device thread reaches only those of its own context. -/
def execKill (v : Word) (who : Writer) (s : State) : Host.Outcome State Fault Refusal := s.orWait fun s =>
  match s.launches.find? fun l => l.id % 2 ^ 24 == v.toNat % 2 ^ 24 with
  | none => .next s
  | some l =>
    let mine := match who with | .host => true | .device c => l.ctx == c
    .next (if mine then s.killLaunch l else s)

/-! ## Crown bindings (R342) -/

/-- The fields of Table 17.9. -/
def Crown.ofWord (v : Nat) : Crown :=
  { bound := true, t := bits v 50 48 + 1, ctx := bits v 45 40, w := bits v 29 24 + 1, h := bits v 35 30 + 1,
    x0 := bits v 5 0, y0 := bits v 13 8 }

/-- The rectangle lies within regions of its context, and a device thread names its own context. -/
def State.bindable (s : State) (c : Crown) (who : Writer) : Bool :=
  (match who with | .host => true | .device k => c.ctx == k) && decide (c.x0 + c.w ≤ 64) && decide (c.y0 + c.h ≤ 64) &&
    c.tiles.all fun t => match s.holder (clusterOf t) with | some l => l.ctx == c.ctx | none => false

/-- Launches whose regions hold the tiles of a barrier. -/
def State.boundOver (s : State) (c : Crown) : List Nat :=
  (c.tiles.filterMap fun t => (s.holder (clusterOf t)).map fun l => l.id).eraseDups

/-- CROWN_BIND. -/
def execCrownBind (b : Fin 64) (v : Word) (who : Writer) (s : State) : Host.Outcome State Fault Refusal :=
  let c := Crown.ofWord v.toNat
  if !bit v.toNat 63 || !s.bindable c who then .next s
  else .next ((s.unbindCrown b).setCrown b { c with regions := s.boundOver c })

/-- CROWN_UNBIND; the other fields are written (R8). -/
def execCrownUnbind (b : Fin 64) (v : Word) (_who : Writer) (s : State) : Host.Outcome State Fault Refusal :=
  if bit v.toNat 63 then .next s else .next ((s.unbindCrown b).setCrown b (Crown.ofWord v.toNat).unbound)

end Sys2Proof.Machine
end

