-- ==== Sys2Proof/Machine/Preempt.lean ====
section
/-! DEFINITION. Pre-emption (R356-R363): the halt, settling, the save image (Tables 19.2, 19.3) and restore with its
rebasing. -/
namespace Sys2Proof.Machine

/-! ## Halt and settle (R356-R358) -/

/-- PREEMPT_HALT_REQUEST: a selected region's halt reaches its tiles. -/
def execPreemptHaltRequest (id : Nat) (s : State) : Host.Outcome State Fault Refusal :=
  match s.launch id with
  | none => .next s
  | some l =>
    if l.phase != .halting then .next s
    else .next (l.tiles.foldl (fun s t => s.updTile t fun x => if x.halt = .running then { x with halt := .halting } else x) s)

/-- The halt of a tile is complete: every thread is at a boundary, parked or halted. -/
def Tile.halted (x : Tile) : Bool :=
  x.threads.all fun y => y.2.run != .rotation || (y.2.skip == 0 && y.2.served.isEmpty)

/-- A COPYT whose gather has not finished goes back to the head of its queue, what it has gathered abandoned (R270). -/
def State.ungrant (s : State) (t : Nat) : State :=
  let c := clusterOf t
  let back := (s.cluster c).staging.filter fun x => x.tile == inCluster t && !x.executed && !s.gathered t x.cmd
  let s := s.updCluster c fun x => { x with staging := x.staging.filter fun y => !back.contains y }
  back.reverse.foldl (fun s x =>
    let s := s.updTile t fun y => { y with matq := x.cmd :: y.matq }
    match x.cmd.kind with
    | .copyTo e => s.updCopy t e fun k => { k with tgrant := false, tdata := [], next := 0, bytes := 0 }
    | .copyFrom e => s.updCopy t e fun k => { k with tgrant := false }
    | _ => s) s

/-- The arms of the tile's engines are disarmed, to be sent again after restore. -/
def State.disarmEngines (s : State) (t : Nat) : State :=
  let s := (s.tile t).copyq.foldl (fun s y =>
    if y.2.live && y.2.armed && y.2.met.isNone then
      (s.disarm t (copyWatcher y.1)).updCopy t y.1 fun k => { k with resendAt := some 0 }
    else s) s
  match (s.tile t).matq with
  | m :: _ =>
    if m.armed && m.met.isNone then
      (s.disarm t 40).updTile t fun y => { y with matq := match y.matq with | a :: r => { a with resendAt := some 0 } :: r | [] => [] }
    else s
  | [] => s

/-- Steps 1 to 6 of R358 at a tile whose halt is complete. -/
def State.settleTile (s : State) (t : Nat) : State :=
  let s := (s.ungrant t).disarmEngines t
  -- a wait on a crown barrier lasts until the save: a release until then ends it (R295)
  let s := (List.range 8).foldl (fun s h => match (s.thr t h).wait with
    | .crown _ _ => s
    | _ => (s.dropHeld t h).settle t h) s
  let x := s.tile t
  let s := x.monitors.foldl (fun s f => s.answer (.tile t) f { op := .notreg }) (s.setTile t { x with monitors := [] })
  let flits := (s.tile t).slots.flatMap fun y => y.flits
  let s := flits.foldl (fun s f => s.nakWith (.tile t) f .absent (reasonClass .absent) true) (s.updTile t fun y => { y with slots := [] })
  s.updTile t fun y => { y with halt := .settled }

/-- A flit of the retry list. -/
def Tile.retrying (x : Tile) (op : Op) (tag idx : Nat) : Bool :=
  x.retries.any fun r => r.flit.op == op && r.flit.tag == tag && r.flit.idx == idx

/-- Step 7 of R358: everything the tile has sent has been answered, but for what its retry list holds; its engines
have finished. -/
def State.quiet (s : State) (t : Nat) : Bool :=
  let x := s.tile t
  x.injA.isEmpty && x.injB.isEmpty && x.queueA.isEmpty && x.queueB.isEmpty && x.ejB.isEmpty &&
    x.posted.all (fun p => x.retries.any fun r => r.flit.tag == p.tag) &&
    x.copyq.all (fun y => !y.2.live ||
      (y.2.flying.all (fun n => x.retrying .granule (y.2.streamTag y.1) n) &&
        (y.2.ends.isEmpty || x.retries.any fun r => r.flit.op == .streamend && r.flit.tag == y.2.streamTag y.1))) &&
    x.threads.all (fun y => match y.2.wait with
      | .withdrawn _ _ | .tcfg _ | .walk => false
      | _ => true) &&
    s.sigWaits.all (fun w => w.home != .tile t || x.retries.any fun r => r.flit.op == .signal && r.flit.tag == w.tag) &&
    (s.cluster (clusterOf t)).staging.all fun y => y.tile != inCluster t

/-- PREEMPT_SETTLE: a tile whose halt is complete, and whose arrivals so far have been performed, settles; the last of
a region's tiles to come to rest settles the region. -/
def execPreemptSettle (tile : Nat) (s : State) : Host.Outcome State Fault Refusal :=
  let x := s.tile tile
  if x.halt = .halting ∧ x.halted = true ∧ x.ejA.isEmpty = true then .next (s.settleTile tile)
  else if x.halt = .settled then
    match x.region with
    | none => .next s
    | some id =>
      match s.launch id with
      | none => .next s
      | some l =>
        let all := l.tiles.all fun t => (s.tile t).fenced || ((s.tile t).halt == .settled && s.quiet t)
        .next (if l.phase = .halting ∧ all = true then s.updLaunch id fun l => { l with phase := .settled } else s)
  else .next s

/-! ## The save image (R359-R361) -/

/-- 64 flags as a word: bit i is p (64 w + i). -/
def flagWord (p : Nat → Bool) (w : Nat) : Nat := (List.range 64).foldl (fun n i => n + boolNat (p (64 * w + i)) * 2 ^ i) 0

/-- Word i of the retry list (Table 19.3): entries of eight words, a flit with its count in the AGE field, at most what the field
holds (log 16). -/
def Tile.retryWord (x : Tile) (draw i : Nat) : Nat :=
  match x.retries[i / 8]? with
  | some r => (r.flit.words (Nat.min r.k 4095) fun k => (Config.imageWord draw (0x1_1480 + i / 8 * 8 + 2 + k)).toNat).getD (i % 8) 0
  | none => 0

/-- The words of a tile block by their number (Table 19.3). A settled tile has no complete message in a reassembly slot and no
arrival in an ejection queue that is not refused, so these parts are zero (R358). Where the manual names a part and does not lay it
out the word is a free value of the save, numbered `draw` (log 16). -/
def State.tileWord (s : State) (draw t : Nat) (x : Tile) (i : Nat) : Nat :=
  if i < 0x1_0000 then s.val (spad t (8 * i)) 8
  else if i < 0x1_0400 then flagWord (fun w => s.fe (spad t (8 * w))) (i - 0x1_0000)
  else if i < 0x1_0800 then flagWord (fun w => s.poisoned (spad t (8 * w))) (i - 0x1_0400)
  else if i < 0x1_0A00 then flagWord (fun q => s.tagAt (spad t (16 * q))) (i - 0x1_0800)
  else if i < 0x1_0D80 then
    let k := i - 0x1_0A00
    let th := x.thread (k / 112)
    (th.image (RunState.code th.run)).getD (k % 112) 0
  else if 0x1_1D00 ≤ i ∧ i < 0x1_1D20 then
    match x.flog[(i - 0x1_1D00) / 4]? with
    | some e => (logWords e).getD ((i - 0x1_1D00) % 4) 0
    | none => 0
  else if 0x1_1480 ≤ i ∧ i < 0x1_1C80 then x.retryWord draw (i - 0x1_1480)
  else if 0x1_1180 ≤ i ∧ i < 0x1_1480 then 0
  else if 0x1_0E00 ≤ i ∧ i < 0x1_1E00 then (Config.imageWord draw i).toNat
  else 0

/-- The words of a cluster block. -/
def State.clusterWord (s : State) (draw c i : Nat) : Nat :=
  let cl := s.cluster c
  if i < 0x9_0000 then
    let t := clusterTile c (i / 0x1_2000)
    s.tileWord draw t (s.tile t) (i % 0x1_2000)
  else if i < 0xD_0000 then
    let u := 2 * (i - 0x9_0000)
    (cl.unit u).1 + (cl.unit (u + 1)).1 * 2 ^ 32
  else if i < 0xD_2000 then flagWord (fun u => cl.storePsn.contains u) (i - 0xD_0000)
  else if i < 0xD_4000 then
    match cl.bank[(i - 0xD_2000) / 8]? with
    | some b => (recWords b.r).getD ((i - 0xD_2000) % 8) 0
    | none => 0
  else (Config.imageWord draw i).toNat

/-- The stored errors that reading a cluster's memories for its image finds (R207, R255, R284). -/
def State.lookCluster (s : State) (c : Nat) : State :=
  let s := (clusterTiles c).foldl (fun s t => s.lookWords (spad t 0) 0x1_0000) s
  let s := s.lookStore c (List.range 0x8_0000)
  (List.range 1024).foldl (fun s i => s.lookBankRow c i) s

/-- n words written from an address on; false where a translation fails. -/
def State.saveWords (s : State) (ctx va : Nat) (f : Nat → Nat) : Nat → Bool × State
  | 0 => (true, s)
  | n + 1 =>
    let r := State.saveWords s ctx va f n
    if r.1 then r.2.vwrites ctx (va + 8 * n) [f n] else r

/-- The cluster blocks of a region. -/
def State.saveClusters (s : State) (draw : Nat) (l : Launch) : List (Nat × Nat) → Bool × State
  | [] => (true, s)
  | (c, k) :: r =>
    let w := s.saveWords l.ctx (l.area + 0x1000 + k * 0x70_0000) (fun i => s.clusterWord draw c i) 0xE_0000
    if w.1 then State.saveClusters w.2 draw l r else w

/-- The region header but for DONE (Table 19.2). -/
def Launch.header (l : Launch) : List Nat :=
  [l.id % 2 ^ 24 + l.ctx * 2 ^ 24] ++ (List.range 8).map l.field ++
  [4 * l.cx + 2 * l.cy * 2 ^ 8 + l.w * 2 ^ 16 + l.h * 2 ^ 24, l.saves]

/-- The granules that a tile's running commands had sent and that were not acknowledged at the halt are sent again with their
source read afresh, and leave the retry list (R247); their refusals stay counted. -/
def Tile.resending (x : Tile) : Tile :=
  let again := fun (c : CopyCmd) => c.live && c.stopCls == 0
  { x with
    retries := x.retries.filter fun r => !(r.flit.op == .granule &&
      (match mfind x.copyq (r.flit.tag % 32) with
       | some c => again c && c.streamTag (r.flit.tag % 32) == r.flit.tag
       | none => false)),
    copyq := x.copyq.map fun y =>
      if again y.2 then (y.1, { y.2 with resend := (y.2.flying ++ y.2.resend).foldl nins [], flying := [] }) else y }

/-- Threads that wait on crown barriers are left to re-issue; what they have arrived at keeps them from arriving twice
(R295). -/
def Tile.leaveCrowns (x : Tile) : Tile :=
  { x with threads := x.threads.map fun y => (y.1, match y.2.wait with | .crown _ _ => y.2.unwait | _ => y.2) }

/-- A parked copy command will meet its fault again. -/
def Tile.wakeParked (x : Tile) : Tile :=
  { x with copyq := x.copyq.map fun y => (y.1, if y.2.state == .parked then { y.2 with state := .active } else y.2) }

/-- The tile and the cluster as the image's typed part keeps them: their arrivals have been answered (log 16). -/
def Tile.forImage (x : Tile) : Tile :=
  let x := x.resending.leaveCrowns.wakeParked
  { x with mending := [], ejA := [], ejB := [], injA := [], injB := [], queueA := [], queueB := [], turnA := 0, turnB := 0,
           taken := [], late := [], written := [], reserved := [], waits := [], passedA := false, passedB := false, fenced := false, mismatch := .no }

def Cluster.forImage (x : Cluster) : Cluster :=
  { x with tlb := [], walks := [], parked := [], tlbWork := [], residue := none, mending := [],
           cuff := x.cuff.map fun k => { k with stopped := false } }

def State.regionImage (s : State) (l : Launch) : RegionImage :=
  { id := l.id, cx := l.cx, cy := l.cy,
    tiles := l.tiles.map fun t => (t, (s.tile t).forImage)
    clusters := l.clusters.map fun c => (c, (s.cluster c).forImage) }

/-- REGION_SAVE: a settled region writes its image, zero where nothing is assigned, DONE last, then the status SAVED; its
clusters are released and its launch re-enters the queue first. A failed write ends it as KILL does (R361). -/
def execRegionSave (id : Nat) (s : State) : Host.Outcome State Fault Refusal := s.orWait fun s =>
  match s.launch id with
  | none => .next s
  | some l =>
    if l.phase != .settled || s.ckpt.isSome || l.clusters.any (fun c => !(s.cluster c).mending.isEmpty) then .next s
    else
      let l := { l with saves := l.saves + 1 }
      let s := l.clusters.foldl (fun s c => s.lookCluster c) s
      let draw := s.free
      let s : State := { s with free := draw + 1 }
      let a := s.vwrites l.ctx l.area (l.header ++ List.replicate 501 0)
      let b := if a.1 then a.2.saveClusters draw l l.clusters.zipIdx else a
      let d := if b.1 then b.2.vwrites l.ctx (l.area + 0x58) [1] else b
      if !d.1 then .next (d.2.killLaunch l)
      else
        let s := d.2.writeStatus l.status l.id .saved 0
        let s : State := { s with images := s.images ++ [s.regionImage l] }
        let s := (s.crownsOf l.id).foldl (fun s b => s.setCrown b { s.crown b with saved := (s.crown b).saved ++ [l.id] }) s
        let n := s.firsts
        let s := s.releaseRegion l false
        .next ({ s with firsts := n - 1 }.updLaunch id fun _ => { l with phase := .saved, order := n })

/-! ## Restore (R362) -/

/-- The tagged pairs of a restored tile. -/
def State.movePairs (s : State) (m : Move) (t : Nat) : State :=
  let q0 := spad t 0 / 16
  (s.tagged.filter fun q => decide (q0 ≤ q) && decide (q < q0 + 2 ^ 15)).foldl (fun s q =>
    let lo := BitVec.ofNat 64 (s.val (16 * q) 8)
    let hi := BitVec.ofNat 64 (s.val (16 * q + 8) 8)
    s.setVal (16 * q) 8 (m.capLow hi lo).toNat) s

/-- n words of an image with their marks; none where one does not translate. -/
def State.imageWords (s : State) (ctx va : Nat) : Nat → List (Nat × Nat) → Option (List (Nat × Nat)) × State
  | 0, acc => (some acc, s)
  | n + 1, acc =>
    let r := s.vread ctx va
    match r.1 with
    | .ok w => State.imageWords r.2 ctx (va + 8) n (acc ++ [(w, 0)])
    | .cls c => State.imageWords r.2 ctx (va + 8) n (acc ++ [(0, c + 1)])
    | .noXlate _ => (none, r.2)

/-- Where the words of an image are read: a save area in HBM, or a checkpoint in the tier (R362, R417). -/
inductive ImageSource where
  | hbm (ctx area : Nat)
  | tier (words : SMap Nat)
  deriving DecidableEq, Repr

/-- n words from an offset of an image; none where one does not translate. -/
def State.sourceWords (s : State) (src : ImageSource) (off n : Nat) : Option (List (Nat × Nat)) × State :=
  match src with
  | .hbm ctx area => s.imageWords ctx (area + off) n []
  | .tier m => (some ((List.range n).map fun i => (mget 0 m (off / 8 + i), 0)), s)

/-- Bits of a list of words that are set, by number. -/
def setBits (ws : List (Nat × Nat)) (n : Nat) : List Nat := (List.range n).filter fun i => bit (ws.getD (i / 64) (0, 0)).1 (i % 64)

/-- The scratchpad of a tile from its block's words: data, FE, poison and tags. -/
def State.fillSpad (s : State) (t : Nat) (ws : List (Nat × Nat)) : State :=
  let s := (List.range 0x1_0000).foldl (fun s i =>
    let w := ws.getD i (0, 0)
    if w.2 = 0 then s.setVal (spad t (8 * i)) 8 w.1 else s.markPoison (spad t (8 * i)) (w.2 - 1)) s
  let s := (setBits (ws.drop 0x1_0000) 0x1_0000).foldl (fun s w => s.setFe (spad t (8 * w)) true) s
  let s := (setBits (ws.drop 0x1_0400) 0x1_0000).foldl (fun s w => s.setPoisoned (spad t (8 * w)) true) s
  (setBits (ws.drop 0x1_0800) 0x8000).foldl (fun s q =>
    if s.poisoned (spad t (16 * q)) || s.poisoned (spad t (16 * q + 8)) then s else s.setTagAt (spad t (16 * q)) true) s

/-- Words of a thread image that are no registers (R202). -/
def controlWords : List Nat := [30, 31, 96, 97, 98, 99, 102, 103, 104, 105, 106, 107, 108, 109, 110, 111]

/-- Words of a tile block that hold control state: FE, poison and tag bits, the control words of the thread images, and what
follows them but for the monitor table, which is for inspection only. -/
def imageControl (i : Nat) : Bool :=
  if 0x1_0A00 ≤ i ∧ i < 0x1_0D80 then controlWords.contains ((i - 0x1_0A00) % 112)
  else decide (0x1_0000 ≤ i) && !(decide (0x1_1C80 ≤ i) && decide (i < 0x1_1D00))

/-- A control word of a tile block is unreadable. -/
def controlBad (ws : List (Nat × Nat)) : Bool := ws.zipIdx.any fun x => x.1.2 != 0 && imageControl x.2

/-- The fault log of a tile block. -/
def imageLog (ws : List (Nat × Nat)) : List LogEntry :=
  let w := fun (i : Nat) => (ws.getD (0x1_1D00 + i) (0, 0)).1
  (List.range 8).filterMap fun j => LogEntry.ofWords (w (4 * j)) (w (4 * j + 1)) (w (4 * j + 2)) (w (4 * j + 3))

/-- A thread restored from its image, with the parts that the image's typed part keeps. -/
def Move.restoreThread (m : Move) (old : Nat) (area : Nat) (x : Thread) (h : Nat) (ws : List (Nat × Nat)) : Thread :=
  let y := x.load m.pkg old (2 ^ 63 + 2 ^ 44 + area + 8 * (0x1_0A00 + 112 * h)) ((ws.drop (0x1_0A00 + 112 * h)).take 112)
  let y := m.thread y
  { y with run := if y.run = .rotation ∧ x.wait ≠ .none then x.run else y.run,
           wait := if y.run = .rotation then x.wait else .none, served := x.served, owed := x.owed, halt187 := x.halt187,
           badBase := x.badBase, limbo := x.limbo,
           wanted := if y.run = .rotation then [pcLine y.pc] else [] }

/-- Flits that a tile holds carry its new place as their source. -/
def resource (t : Nat) (f : Flit) : Flit := { f with src := .tile t }

/-- A tile restored at a new place, its scratchpad as a placement leaves it and then as the image has it (R205). -/
def State.restoreTile (s : State) (m : Move) (l : Launch) (old t : Nat) (x : Tile) (area : Nat) (ws : List (Nat × Nat)) : State :=
  let s := ((s.eraseSpad t).fillSpad t ws).movePairs m t
  let phys := s.tile t
  let ths : SMap Thread := (List.range 8).foldl (fun a h => mset {} a h (m.restoreThread old area (x.thread h) h ws)) []
  let s := s.setTile t { x with
    region := some l.id, threads := ths, flog := imageLog ws, halt := .running, fenced := phys.fenced, mismatch := phys.mismatch, mending := phys.mending,
    ejA := phys.ejA, ejB := phys.ejB, injA := phys.injA, injB := phys.injB,
    posted := x.posted.map (fun p => { p with flit := resource t p.flit }),
    retries := x.retries.map fun r => { r with flit := resource t r.flit, due := 0 } }
  let s : State := { s with sigWaits := s.sigWaits.map fun w => if w.home = .tile old ∧ x.retries.any (fun r => r.flit.tag == w.tag) = true then { w with home := .tile t } else w }
  s.logLate t

/-- The tile blocks of a region. -/
def State.restoreTiles (s : State) (m : Move) (l : Launch) (src : ImageSource) : List (((Nat × Tile) × Nat) × Nat) → Option State
  | [] => some s
  | (((old, x), t), k) :: r =>
    let off := 0x1000 + k / 8 * 0x70_0000 + k % 8 * 0x9_0000
    let w := s.sourceWords src off 0x1_2000
    match w.1 with
    | none => none
    | some ws => if controlBad ws then none else State.restoreTiles (w.2.restoreTile m l old t x (l.area + off) ws) m l src r

/-- A unit of the tile store from its word of the image: the word's halves are units 2 i and 2 i + 1; of a word read poisoned
both are. -/
def imageUnit (ws : List (Nat × Nat)) (u : Nat) : BitVec 32 × Bool :=
  let w := ws.getD (u / 2) (0, 0)
  if w.2 ≠ 0 then (BitVec.ofNat 32 (w.2 - 1), true)
  else (BitVec.ofNat 32 (w.1 / 2 ^ (32 * (u % 2))), bit (ws.getD (0x4_0000 + u / 64) (0, 0)).1 (u % 64))

/-- The tile store of a cluster block, whose words from the tile store on are given. -/
def Cluster.fillStore (x : Cluster) (ws : List (Nat × Nat)) : Cluster :=
  { x with store := (List.range 0x8_0000).foldl (fun m u => mset 0 m u (imageUnit ws u).1) [],
           storePsn := (List.range 0x8_0000).filter fun u => (imageUnit ws u).2, storeUnc := [], storeOne := [] }

/-- A record of the bank from its words of the image: a word read poisoned is a poisoned word of the record. -/
def BankRec.fill (b : BankRec) (ws : List (Nat × Nat)) : BankRec :=
  let c := ws.headD (0, 0)
  { b with r := recOf b.r.builder ((c.1, if c.2 = 0 then b.r.ctrlMark else c.2) :: ws.drop 1), unc := [], one := [] }

/-- A cluster restored: its stored state read from its block, the records and the cuff moved. -/
def State.restoreCluster (s : State) (m : Move) (c : Nat) (x : Cluster) (k : Option (Nat × Nat)) (ws : List (Nat × Nat)) : State :=
  s.updCluster c fun phys => { x.fillStore ws with
    tlb := phys.tlb, tlbWork := phys.tlbWork, residue := phys.residue, mending := phys.mending
    bank := x.bank.zipIdx.map fun b => m.record (b.1.fill ((ws.drop (0x4_2000 + 8 * b.2)).take 8))
    cuff := match k, x.cuff with
      | some (base, lg), some q => some { q with base := base, log2 := lg % 32, dx := q.dx + m.dx, dy := q.dy + m.dy,
                                                 entries := q.entries.map fun b => { b with move := Move.after b.move m } }
      | _, q => q }

/-- The clusters of a region; none where control state of a block is unreadable: poison bits, stamps or cluster state. -/
def State.restoreClusters (s : State) (m : Move) (src : ImageSource) (cuffs : List (Nat × Nat)) : List (((Nat × Cluster) × Nat) × Nat) → Option State
  | [] => some s
  | (((_, x), c), k) :: r =>
    let w := s.sourceWords src (0x1000 + k * 0x70_0000 + 0x48_0000) 0x5_0000
    match w.1 with
    | none => none
    | some ws =>
      if (((ws.drop 0x4_0000).take 0x2000) ++ ws.drop 0x4_4000).any (fun w => w.2 != 0) then none
      else State.restoreClusters (w.2.restoreCluster m c x cuffs[k]? ws) m src cuffs r

/-- The rectangle of a barrier moved with its region (R342). -/
def Crown.move (m : Move) (c : Crown) : Crown :=
  let tile := fun (t : Nat) => wrapInt 6 ((tileY t : Nat) + m.dy) * 64 + wrapInt 6 ((tileX t : Nat) + m.dx)
  { c with x0 := wrapInt 6 ((c.x0 : Nat) + m.dx), y0 := wrapInt 6 ((c.y0 : Nat) + m.dy),
           arrived := (c.arrived.map tile).foldl nins [], flying := (c.flying.map tile).foldl nins [] }

/-- An image brought back at its launch's origin; none where it cannot be read. -/
def State.restoreRegion (s : State) (l : Launch) (im : RegionImage) (src : ImageSource) : Option State :=
  let m : Move := { pkg := s.pkg, x0 := 4 * im.cx, y0 := 2 * im.cy, w := 4 * l.w, h := 2 * l.h,
                    dx := 4 * ((l.cx : Int) - im.cx), dy := 2 * ((l.cy : Int) - im.cy) }
  let hd := s.sourceWords src 0 12
  let cf : Except VWord (List (Nat × Nat)) × State :=
    if l.field 4 = 0 then (.ok [], hd.2) else hd.2.readCuffs l.ctx (l.field 4) (l.w * l.h) 0 []
  match hd.1, cf.1 with
  | some hw, .ok cuffs =>
    if hw.any (fun w => w.2 != 0) || cuffs.any cuffBad then none
    else
      let mine := (cf.2.crowns.filter fun x => x.2.saved.contains l.id).map fun x => x.1
      let s := mine.foldl (fun s b => s.setCrown b { (s.crown b).move m with saved := (s.crown b).saved.erase l.id }) cf.2
      match s.restoreTiles m l src ((im.tiles.zip l.tiles).zipIdx) with
      | none => none
      | some s => s.restoreClusters m src cuffs (im.clusters.zip l.clusters).zipIdx
  | _, _ => none

/-- LAUNCH_RESTORE: the saved launch at the head is placed, rebased and resumed; an image that cannot be read ends it as
KILLED. -/
def execLaunchRestore (s : State) : Host.Outcome State Fault Refusal := s.orWait fun s =>
  match s.queueHead with
  | none => .next s
  | some l =>
    if l.phase != .saved || s.noPlacing then .next s
    else
      match s.findPlace [] l, s.images.find? fun im => im.id == l.id with
      | some (cx, cy), some im =>
        let l' := { l with cx := cx, cy := cy }
        match s.restoreRegion l' im (.hbm l.ctx l.area) with
        | none => .next (s.killLaunch l)
        | some s =>
          let s := s.freeArea l
          let n := s.orders
          let s : State := { s with orders := n + 1, images := s.images.filter fun x => x.id != l.id }
          let s := s.updLaunch l.id fun _ => { l' with phase := .running, started := n, dirEntry := 0, area := 0 }
          .next (s.writeStatus l.status l.id .running l'.origin)
      | some _, none => .next (s.killLaunch l)
      | none, _ => .next (s.preemptFor l)

/-- Threads left to re-issue return to rotation (R202, R362 step 7). -/
def Tile.returnThreads (x : Tile) : Tile :=
  { x with threads := x.threads.map fun y => (y.1, if y.2.run = .reissue ∧ y.2.wait = .none then { y.2 with run := .rotation } else y.2) }

/-- The memory port's walks for a cluster begin afresh, and its cuff engine meets its fault again. -/
def Cluster.wakeParked (x : Cluster) : Cluster :=
  { x with walks := [], parked := [], cuff := x.cuff.map fun k => { k with stopped := false } }

/-- A region that a checkpoint halted goes on as a restore with displacement zero resumes it (R416 step 5). -/
def State.resumeRegion (s : State) (l : Launch) : State :=
  let s := l.tiles.foldl (fun s t => (s.updTile t fun x =>
    let x := x.resending.leaveCrowns.wakeParked.returnThreads
    { x with halt := .running, retries := x.retries.map fun r => { r with due := 0 } }).logLate t) s
  let s := l.clusters.foldl (fun s c => s.updCluster c Cluster.wakeParked) s
  s.updLaunch l.id fun l => { l with phase := .running }

end Sys2Proof.Machine
end

