-- ==== Sys2Proof/Machine/Mmio.lean ====
section
/-! DEFINITION. The registers of the MMIO block (Tables 17.1, 20.2, 20.4-20.6, 22.2, 22.4, 22.5, 23.6) and MBSTAT: who may
reach them, what a read returns and what a write does (R8, R323, R371, R380, R382-R384, R393, R394, R398, R414). -/
namespace Sys2Proof.Machine

/-- A register by its place. -/
inductive Reg where
  | lflag (f : Nat)
  | subdesc (s : Nat) | subnotify (s : Nat) | substat (s : Nat)
  | crown (b : Nat)
  | kill
  | ctxdesc (c : Nat)
  | crect (r : Nat)
  | wearcfg (k : Nat) | scrubcfg
  | hostctx (l : Nat)
  | route (d p : Nat) | admitTab (d i : Nat)
  | eth (p i : Nat)
  | trctl (c : Nat) | trpass (c : Nat) | trres (c i : Nat) | trrep (c j : Nat) | trlane (c l : Nat)
  | mbcmd | mbstat | mbevhead
  deriving DecidableEq, Repr

/-- The mailbox's registers lie in BAR4; REGISTER_WRITE names them above every MMIO address (log 19). -/
def mailboxBase : Nat := 2 ^ 44

/-- Table 17.1 and its like: the register at an address aligned to 8. -/
def regAt (a : Nat) : Option Reg :=
  let o := a % 2 ^ 16
  if a = mailboxBase then some .mbcmd
  else if a = mailboxBase + 8 then some .mbstat
  else if a = mailboxBase + 16 then some .mbevhead
  else if a % 8 ≠ 0 then none
  else if a / 2 ^ 16 = 0x100 then (if o < 0x2000 then some (.lflag (o / 8)) else none)
  else if a / 2 ^ 16 = 0x101 then
    (if 0x800 ≤ o then none
     else match o % 32 with
       | 0 => some (.subdesc (o / 32))
       | 8 => some (.subnotify (o / 32))
       | 16 => some (.substat (o / 32))
       | _ => none)
  else if a / 2 ^ 16 = 0x102 then
    (if o < 0x200 then some (.crown (o / 8)) else if o = 0x400 then some .kill else none)
  else if a / 2 ^ 16 = 0x103 then (if o < 0x200 then some (.ctxdesc (o / 8)) else none)
  else if a / 2 ^ 16 = 0x104 then (if o < 0x200 then some (.crect (o / 8)) else none)
  else if a / 2 ^ 16 = 0x105 then
    (if o < 0x20 then some (.wearcfg (o / 8)) else if o = 0x40 then some .scrubcfg else none)
  else if a / 2 ^ 16 = 0x110 then (if o < 0x20 then some (.hostctx (o / 8)) else none)
  else if a / 2 ^ 20 = 0x20 ∨ a / 2 ^ 20 = 0x21 then some (.route (a / 2 ^ 20 % 2) (a % 2 ^ 20 / 8))
  else if a / 2 ^ 18 = 0x88 then some (.admitTab (a / 2 ^ 17 % 2) (a % 2 ^ 17 / 8))
  else if a / 2 ^ 16 = 0x300 then
    (if o < 0x200 ∧ o % 64 < 0x38 then some (.eth (o / 64) (o % 64 / 8)) else none)
  else if a / 2 ^ 24 = 4 then
    (let c := a / 2 ^ 20 % 16 * 32 + a % 2 ^ 20 / 2 ^ 12
     let p := a % 2 ^ 12
     if 32 * 2 ^ 12 ≤ a % 2 ^ 20 then none
     else if p = 0 then some (.trctl c)
     else if p = 0x48 then some (.trpass c)
     else if p = 0x58 then some (.trres c 0)
     else if p = 0x60 then some (.trres c 1)
     else if 0x80 ≤ p ∧ p < 0xA0 then some (.trrep c ((p - 0x80) / 8))
     else if 0x100 ≤ p ∧ p < 0x300 then some (.trlane c ((p - 0x100) / 8))
     else none)
  else none

/-- The registers of Table 17.1, which take accesses of 8 bytes only (R323). -/
def Reg.ofSequencer : Reg → Bool
  | .lflag _ | .subdesc _ | .subnotify _ | .substat _ | .crown _ | .kill | .ctxdesc _ => true
  | _ => false

/-- An access of 4 bytes reads the half of a register that its address names, and writes that half beside the other half as
it reads: the maps give registers of 64 bits and no rule for a half (DESIGN CHOICE, log 80). -/
def halfRead (a size v : Nat) : Nat := if size = 8 then v else v / 2 ^ (8 * (a % 8)) % 2 ^ 32

def halfWrite (a size old v : Nat) : Nat :=
  if size = 8 then v
  else if a % 8 = 0 then old / 2 ^ 32 * 2 ^ 32 + v % 2 ^ 32
  else v % 2 ^ 32 * 2 ^ 32 + old % 2 ^ 32

def State.ethPort (s : State) (p : Nat) : Eth := mget {} s.eth p
def State.setEth (s : State) (p : Nat) (x : Eth) : State := { s with eth := mset {} s.eth p x }
def State.train (s : State) (c : Nat) : Training := mget {} s.training c
def State.setTrain (s : State) (c : Nat) (x : Training) : State := { s with training := mset {} s.training c x }

/-- Who may reach a register: the host every one; a device thread, in supervisor mode by R49, the registers of its
context, and those of the package for reading; the registers of a channel in training are open to every one (DESIGN CHOICE, log 100). -/
def State.regOpen (s : State) (r : Reg) (write : Bool) (who : Writer) : Bool :=
  match who with
  | .host => true
  | .device c =>
    match r with
    | .lflag f => f / 16 == c
    | .subdesc i | .subnotify i | .substat i => !(s.sub i).mapped || (s.sub i).rctx == c
    | .crown b => !(s.crown b).bound || (s.crown b).ctx == c
    | .kill => true
    | .ctxdesc _ | .mbcmd | .mbstat | .mbevhead => false
    | .crect _ | .wearcfg _ | .scrubcfg | .hostctx _ | .route _ _ | .admitTab _ _ => !write
    | .eth p _ => (s.ethPort p).ctx == c
    | .trctl _ | .trpass _ | .trres _ _ | .trrep _ _ | .trlane _ _ => true

/-! ## Reads -/

/-- CROWN as it reads (Table 17.9). -/
def Crown.word (c : Crown) : Nat :=
  boolNat c.bound * 2 ^ 63 + (c.t - 1) * 2 ^ 48 + c.ctx * 2 ^ 40 + (c.h - 1) * 2 ^ 30 + (c.w - 1) * 2 ^ 24 + c.y0 * 2 ^ 8 + c.x0

/-- CRECT as it reads (Table 22.5). -/
def Rect.word (r : Rect) : Nat :=
  boolNat r.v * 2 ^ 63 + boolNat r.fen * 2 ^ 62 + r.cause % 256 * 2 ^ 48 + (r.h - 1) * 2 ^ 18 + (r.w - 1) * 2 ^ 14 + r.y0 * 2 ^ 4 + r.x0

def WearCfg.word (w : WearCfg) : Nat := w.mark * 2 ^ 48 + w.leak

/-- A register of an Ethernet port (Table 20.6). -/
def Eth.word (x : Eth) (i : Nat) : Nat :=
  match i with
  | 0 => boolNat x.en * 2 ^ 63 + x.ctx
  | 1 => x.txBase + x.txLog2
  | 2 => x.rxBase + x.rxLog2
  | 5 => x.rxHead * 2 ^ 32 + x.txHead
  | 6 => x.drops.toNat
  | _ => 0

/-- A command that its host has started through the mailbox. -/
def isCommand : Instr → Bool
  | .quote .. | .keyload .. | .keyerase .. | .keyenroll .. | .ckpt .. | .restore .. | .pwrlim .. | .fence .. | .remap .. | .hbmppr ..
  | .offline .. | .online .. | .inject .. | .readwear .. => true
  | _ => false

/-- A command is in progress: one that Evodon works on, or one that waits to begin (R411, R414). -/
def State.mailBusy (s : State) : Bool :=
  s.evo.busy || s.deferred.any fun k => match k with | .event i => isCommand i | .command _ _ _ => true | _ => false

/-- What a read of a register returns (R8); TRPASS: the lanes that its last test passed. -/
def State.regRead (s : State) (r : Reg) : Word :=
  match r with
  | .lflag f => mget 0 s.lflags f
  | .subdesc i => BitVec.ofNat 64 ((s.sub i).ctx * 2 ^ 44 + (s.sub i).daddr + boolNat (s.sub i).mapBit)
  | .subnotify _ | .kill => 0
  | .substat i =>
    let x := s.sub i
    BitVec.ofNat 64 (x.head * 2 ^ 32 + boolNat x.err * 4 + boolNat x.busy * 2 + boolNat x.mapped)
  | .crown b => BitVec.ofNat 64 (s.crown b).word
  | .ctxdesc c => BitVec.ofNat 64 (boolNat (s.ctxOf c).valid * 2 ^ 63 + (s.ctxOf c).addr)
  | .crect r => BitVec.ofNat 64 (s.rect r).word
  | .wearcfg k => BitVec.ofNat 64 (mget {} s.evo.wearCfg k).word
  | .scrubcfg => BitVec.ofNat 64 (boolNat s.evo.scrubEn * 2 ^ 63 + s.evo.hstep * 2 ^ 24 + s.evo.sstep)
  | .hostctx l => mget 0 s.hostctx l
  | .route d p => mget 0 (s.ioDie d).route p
  | .admitTab d i => mget 0 (s.ioDie d).admitTab i
  | .eth p i => BitVec.ofNat 64 ((s.ethPort p).word i)
  | .trctl c => BitVec.ofNat 64 (boolNat (s.train c).train * 2 ^ 63 + boolNat (s.train c).dir * 2 ^ 8)
  | .trpass c => (s.train c).pass
  | .trres c i => if i = 0 then (s.train c).res0 else (s.train c).res1
  | .trrep c j => mget 0 (s.train c).rep j
  | .trlane c l => mget 0 (s.train c).lane l
  | .mbcmd => BitVec.ofNat 64 (s.evo.cmdSeq.toNat * 2 ^ 16 + s.evo.cmdCode.toNat)
  | .mbevhead => BitVec.ofNat 64 s.evo.evHead
  | .mbstat =>
    BitVec.ofNat 64 (s.evo.seq.toNat * 2 ^ 48 + s.evo.result.toNat * 2 ^ 8 + boolNat s.evo.ready * 4 + boolNat s.evo.err * 2 +
      boolNat s.mailBusy)

/-! ## Containment rectangles (R394, R398) -/

/-- A launch holds one of a rectangle's clusters. -/
def State.rectHeld (s : State) (r : Rect) : Bool := r.clusters.any fun c => (s.holder c).isSome

/-- Unfencing: the clusters can be placed again. -/
def State.unfence (s : State) (r : Nat) : State :=
  let x := s.rect r
  if !x.fen || s.rectHeld x then s
  else
    let s : State := { s with rects := mset {} s.rects r { x with fen := false },
                              loneFences := s.loneFences.filter fun c => !x.clusters.contains c }
    (x.clusters.flatMap clusterTiles).foldl (fun s t => s.updTile t fun y => { y with fenced := false }) s

/-- The geometry of a written CRECT. -/
def Rect.ofWord (v : Nat) : Rect :=
  { v := bit v 63, w := bits v 17 14 + 1, h := bits v 22 18 + 1, x0 := bits v 3 0, y0 := bits v 8 4 }

/-- A valid rectangle other than r shares a cluster with it. -/
def State.rectClash (s : State) (r : Nat) (x : Rect) : Bool :=
  s.rects.any fun y => y.1 != r && y.2.v && y.2.clusters.any x.clusters.contains

def execCrectWrite (r : Fin 64) (v : Word) (s : State) : Host.Outcome State Fault Refusal :=
  let x := s.rect r.val
  let y : Rect := { Rect.ofWord v.toNat with fen := x.fen, cause := x.cause }
  if 16 < y.x0 + y.w ∨ 32 < y.y0 + y.h ∨ (y.v = true ∧ s.rectClash r.val y = true) then .next s
  else if x.fen && y != x then .next s
  else if x.fen then .next (if bit v.toNat 62 then s.unfence r.val else s)
  else .next { s with rects := mset {} s.rects r.val y }

def execCrectUnfence (r : Fin 64) (s : State) : Host.Outcome State Fault Refusal := .next (s.unfence r.val)

/-! ## Ethernet ports (R382, R384) -/

/-- Both rings of a port are empty. -/
def Eth.idle (x : Eth) : Bool := x.txHead == x.txTail && x.rxHead == x.rxTail

/-- A write that clears EN finishes the frame in progress, which is one step here, stops the port and writes CTX (R8, log 61); any other takes
effect only on a stopped port with empty rings. -/
def execEnctlWrite (p : Fin 8) (v : Word) (s : State) : Host.Outcome State Fault Refusal :=
  let x := s.ethPort p.val
  if x.en then .next (if bit v.toNat 63 then s else s.setEth p.val { x with en := false, ctx := bits v.toNat 5 0 })
  else .next (if x.idle then s.setEth p.val { x with en := bit v.toNat 63, ctx := bits v.toNat 5 0 } else s)

/-- ENTXRING and ENRXRING. -/
def State.ethRing (s : State) (p : Nat) (rx : Bool) (v : Nat) : State :=
  let x := s.ethPort p
  let base := bits v 43 6 * 64
  let lg := bits v 4 0
  if x.en || !x.idle then s
  else s.setEth p (if rx then { x with rxBase := base, rxLog2 := lg } else { x with txBase := base, txLog2 := lg })

/-- A tail is at most a ring beyond its head. -/
def tailOk (head log2 t : Nat) : Bool := decide ((t + 2 ^ 32 - head) % 2 ^ 32 ≤ 2 ^ log2)

def execEntxtail (p : Fin 8) (v : Word) (s : State) : Host.Outcome State Fault Refusal :=
  let x := s.ethPort p.val
  let t := v.toNat % 2 ^ 32
  .next (if tailOk x.txHead x.txLog2 t then s.setEth p.val { x with txTail := t } else s)

def execEnrxtail (p : Fin 8) (v : Word) (s : State) : Host.Outcome State Fault Refusal :=
  let x := s.ethPort p.val
  let t := v.toNat % 2 ^ 32
  .next (if tailOk x.rxHead x.rxLog2 t then s.setEth p.val { x with rxTail := t } else s)

/-! ## Channel training (R414) -/

/-- A lane's word with the delay of a direction replaced. -/
def laneDelay (w : Word) (write : Bool) (dly : Nat) : Word :=
  if write then BitVec.ofNat 64 (dly * 2 ^ 8 + w.toNat % 64) else BitVec.ofNat 64 (w.toNat / 2 ^ 8 * 2 ^ 8 + dly)

/-- Every lane's delay of a direction set. -/
def Training.allLanes (x : Training) (write : Bool) (dly : Nat) : Training :=
  { x with lane := (List.range 64).foldl (fun m l => mset 0 m l (laneDelay (mget 0 m l) write dly)) x.lane }

def State.trctl (s : State) (c v : Nat) : State :=
  let x : Training := { s.train c with train := bit v 63, dir := bit v 8 }
  s.setTrain c (if bit v 7 then x.allLanes x.dir (bits v 5 0) else x)

def execTrctlWrite (stack channel : Nat) (v : Word) (s : State) : Host.Outcome State Fault Refusal :=
  .next (s.trctl (stack * 32 + channel) v.toNat)

/-! ## The mailbox (R411, R412) -/

/-- A command's end: response, RESULT and SEQ, BUSY clear. -/
def State.finish (s : State) (result : Nat) (resp : List Byte) : State :=
  { s with evo := { s.evo with response := resp, result := BitVec.ofNat 8 result, seq := s.evo.cmdSeq, busy := false } }

/-- A write of MBCMD: ignored while a command is in progress; before READY only QUOTE is accepted. -/
def State.command (s : State) (code : Nat) (seq : BitVec 16) (act : State → State) : Host.Outcome State Fault Refusal :=
  if s.mailBusy then .next { s with evo := { s.evo with err := true } }
  else
    let s : State := { s with evo := { s.evo with cmdSeq := seq, cmdCode := BitVec.ofNat 8 code } }
    .next (if !s.evo.ready && code != 1 then s.finish 6 [] else act s)

/-- Codes of Tables 22.7 and 23.5. -/
def commandCodes : List Nat := [1, 2, 3, 4, 5, 6, 7, 0x10, 0x12, 0x13, 0x14, 0x15, 0x16, 0x17]

/-- MBCMD: the write starts the command, which is the next turn, on the arguments as they stand (R411). -/
def State.startCommand (s : State) (v : Nat) : Host.Outcome State Fault Refusal :=
  let code := v % 256
  let seq := BitVec.ofNat 16 (v / 2 ^ 16)
  if !commandCodes.contains code then s.command code seq fun s => s.finish 1 []
  else if s.mailBusy then .next { s with evo := { s.evo with err := true } }
  else .next { s with agenda := .command code seq s.evo.args :: s.agenda,
                      evo := { s.evo with cmdSeq := seq, cmdCode := BitVec.ofNat 8 code } }

/-! ## Writes -/

/-- The fields of a word that a mask names, set. -/
def maskWord (v mask : Nat) : Word := BitVec.ofNat 64 (v &&& mask)

/-- The state an outcome leaves; a register write has no other. -/
def State.after (s : State) (o : Host.Outcome State Fault Refusal) : State :=
  match o with
  | .next s' => s'
  | _ => s

/-- WEARCFG k; a unit whose counter lies at or below half the mark may record its next event (R393). -/
def State.setWearCfg (s : State) (k v : Nat) : State :=
  let w : WearCfg := { mark := bits v 63 48, leak := bits v 31 0 }
  { s with evo := { s.evo with
      wearCfg := mset {} s.evo.wearCfg k w,
      wear := s.evo.wear.filterMap fun x =>
        if x.1 % 4 = k ∧ x.2.count ≤ w.mark / 2 then
          (if x.2.count = 0 then none else some (x.1, { x.2 with latched := false }))
        else some x } }

/-- A write of a register by one who may reach it. -/
def State.regWrite (s : State) (r : Reg) (v : Word) (who : Writer) : State :=
  let n := v.toNat
  match r with
  | .lflag f => s.setLflag f n
  | .subdesc i =>
    s.after (if bit n 0 then execRingMap (Fin.ofNat 64 i) v s else execRingUnmap (Fin.ofNat 64 i) v s)
  | .subnotify i => s.after (execSubnotify (Fin.ofNat 64 i) v s)
  | .substat i => if bit n 2 then s.setSub i { s.sub i with err := false } else s
  | .crown b =>
    s.after (if bit n 63 then execCrownBind (Fin.ofNat 64 b) v who s else execCrownUnbind (Fin.ofNat 64 b) v who s)
  | .kill => s.after (execKill v who s)
  | .ctxdesc c =>
    s.after (if bit n 63 then execContextCreate (Fin.ofNat 64 c) v s else execContextDestroy (Fin.ofNat 64 c) v s)
  | .crect r => s.after (execCrectWrite (Fin.ofNat 64 r) v s)
  | .wearcfg k => s.setWearCfg k n
  | .scrubcfg => { s with evo := { s.evo with scrubEn := bit n 63, hstep := bits n 47 24, sstep := bits n 23 0 } }
  | .hostctx l => { s with hostctx := mset 0 s.hostctx l (maskWord n 0xC000_0000_0000_003F) }
  | .route d p => s.setIo d { s.ioDie d with route := mset 0 (s.ioDie d).route p (maskWord n 0x1_FFFF_FFFF) }
  | .admitTab d i =>
    let m := match i % 4 with
      | 0 => 0x3FF_FFFF_FFFF
      | 1 => 0xFFFF_FFFF_FFFF_FFFF
      | 2 => 0x00FF_FFFF_FFFF_FFFF
      | _ => 0
    s.setIo d { s.ioDie d with admitTab := mset 0 (s.ioDie d).admitTab i (maskWord n m) }
  | .eth p i =>
    match i with
    | 0 => s.after (execEnctlWrite (Fin.ofNat 8 p) v s)
    | 1 => s.ethRing p false n
    | 2 => s.ethRing p true n
    | 3 => s.after (execEntxtail (Fin.ofNat 8 p) v s)
    | 4 => s.after (execEnrxtail (Fin.ofNat 8 p) v s)
    | _ => s
  | .trctl c => s.trctl c n
  | .trpass _ => s
  | .trres c i => s.setTrain c (if i = 0 then { s.train c with res0 := v } else { s.train c with res1 := v })
  | .trrep c j => s.setTrain c { s.train c with rep := mset 0 (s.train c).rep j (maskWord n 0x8000_0000_0000_003F) }
  | .trlane c l => s.setTrain c { s.train c with lane := mset 0 (s.train c).lane l (maskWord n 0x3F3F) }
  | .mbcmd => s.after (s.startCommand n)
  | .mbevhead => s
  | .mbstat => if bit n 1 then { s with evo := { s.evo with err := false } } else s

/-- The host reaches the 64 MiB of BAR0 and the mailbox's registers (R370). -/
def hostReaches (addr : Nat) : Bool := decide (addr < 2 ^ 26) || decide (mailboxBase ≤ addr)

/-- REGISTER_WRITE: a write of a register by the host, or by a device thread that may reach it. -/
def execRegisterWrite (addr : Nat) (v : Word) (who : Writer) (s : State) : Host.Outcome State Fault Refusal :=
  match regAt addr with
  | none => .next s
  | some r => .next (if s.regOpen r true who && (who != .host || hostReaches addr) then s.regWrite r v who else s)

end Sys2Proof.Machine
end

