-- ==== Sys2Proof/Machine/Home.lean ====
section
/-! DEFINITION. Plane A at its homes (R35-R38, R55, R155-R175, R243-R245, R278, R279, R290, R300, R307, R323, R358): what a
tile, a memory port or the MMIO block does with each request that reaches it. -/
namespace Sys2Proof.Machine

/-! ## Queues of a home -/

/-- Requests waiting at a home on plane A. -/
def State.inbox (s : State) : Home → List Flit
  | .tile t => (s.tile t).ejA
  | .port p => mget [] s.ports p
  | .io d => (s.ioDie d).inq

def State.setInbox (s : State) (h : Home) (l : List Flit) : State :=
  match h with
  | .tile t => s.updTile t fun x => { x with ejA := l }
  | .port p => { s with ports := mset [] s.ports p l }
  | .io d => s.setIo d { s.ioDie d with inq := l }

/-- HBM channel of a PPA: stack * 32 + channel. -/
def channelOf (a : Nat) : Nat := (wearUnitOf a).2

/-- A request can be performed now: accesses to a channel in training or repair wait at the controller (R399,
R414). -/
def State.ready (s : State) (h : Home) (f : Flit) : Bool :=
  match h with
  | .port _ => !s.channelWaits (channelOf f.ga)
  | _ => true

/-- A flit leaves a tile's ejection queue: at most one in a cycle on each plane (R35). A tile without a cycle of its own
has no such limit. -/
def Tile.passA (x : Tile) (rest : List Flit) : Tile := { x with ejA := rest, passedA := x.region.isSome && !x.fenced }
def Tile.passB (x : Tile) (rest : List Flit) : Tile := { x with ejB := rest, passedB := x.region.isSome && !x.fenced }

/-- The request that a step takes: at a tile the head of its queue, elsewhere the first of its kind. -/
def State.takeReq (s : State) (h : Home) (op : Op) : Option (Flit × State) :=
  match h with
  | .tile t =>
    match (s.tile t).ejA with
    | f :: r => if f.op == op && !(s.tile t).passedA then some (f, s.updTile t fun x => x.passA r) else none
    | [] => none
  | _ =>
    match takeFirst (fun f : Flit => f.op == op && s.ready h f) (s.inbox h) with
    | some (f, r) => some (f, s.setInbox h r)
    | none => none

/-! ## Refusals at a home (R2, R55, R307, R358, R396) -/

/-- Why a tile refuses what arrives for it; what arms on a tile that has been reset and is not placed again meets FENCED (R178, R300). -/
def State.tileRefusal (s : State) (t : Nat) (f : Flit) : Option Reason :=
  let x := s.tile t
  if x.fenced || !s.diePresent (dieOf (clusterOf t)) then some .fenced
  else if x.region.isNone && x.wiped && (f.op == .arm || f.op == .ldc || f.op == .stp) then some .fenced
  else if x.region.isNone || x.halt == .settled then some .absent
  else if x.ctx != f.ctx then some .cap
  else none

/-- Why a memory port does. -/
def State.portRefusal (s : State) (f : Flit) : Option Reason :=
  if !s.diePresent (dieOfStack (f.ga / 2 ^ 36 % 16)) then some .fenced
  else if f.guarded && carriesPoison f then some .guard
  else none

/-- Where a register lies that an access of 4 or 8 bytes names. -/
def regOf (f : Flit) : Option Reg := regAt (gaAddr f.ga / 8 * 8)

/-- From device threads, LD.W, LD.D, ST.W and ST.D reach the registers (R181), but the sequencer's only LD.D and ST.D, and
the launch flags also FSIG and FWAIT (R323). -/
def State.ioRefusal (s : State) (f : Flit) : Option Reason :=
  match regOf f with
  | none => if (f.op == .load || f.op == .store) && (f.size == 8 || f.size == 4) then none else some .cap
  | some r =>
    let open_ := fun (w : Bool) => s.regOpen r w (.device f.ctx)
    let flag := match r with | .lflag _ => true | _ => false
    let sized := f.size == 8 || (f.size == 4 && !r.ofSequencer)
    let ok := match f.op with
      | .load => sized && open_ false
      | .store => sized && open_ true
      | .arm | .disarm => flag && open_ false
      | .signal => flag && open_ true
      | _ => false
    if ok then none else some .cap

def State.refusal (s : State) (h : Home) (f : Flit) : Option Reason :=
  match h with
  | .tile t => s.tileRefusal t f
  | .port _ => s.portRefusal f
  | .io _ => s.ioRefusal f

/-! ## Messages of several flits (R36) -/

/-- Parts gathered at a home. -/
def State.slotsAt (s : State) : Home → List Slot
  | .tile t => (s.tile t).slots
  | .port p => mget [] s.portSlots p
  | .io _ => []

def State.setSlots (s : State) (h : Home) (l : List Slot) : State :=
  match h with
  | .tile t => s.updTile t fun x => { x with slots := l }
  | .port p => { s with portSlots := mset [] s.portSlots p l }
  | .io _ => s

/-- The message of a full slot: its parts in order. -/
def Slot.whole (x : Slot) (f : Flit) : Flit :=
  let part := fun (i : Nat) => x.flits.find? fun g => g.fidx == i
  let parts := (List.range (f.flast + 1)).filterMap part
  { parts.headD f with fidx := 0, data := parts.flatMap fun g => g.data, psn := parts.flatMap fun g => g.psn }

/-- What a flit of a message does at its home: it completes the message, waits for the rest, or finds no slot. -/
inductive Gathered where
  | whole (f : Flit) (s : State)
  | waits (s : State)
  | full
  deriving DecidableEq, Repr

def State.gatherMsg (s : State) (h : Home) (f : Flit) : Gathered :=
  if f.flast = 0 then .whole f s
  else
    match takeFirst (fun x : Slot => x.flits.any (sameMessage f)) (s.slotsAt h) with
    | none =>
      if 16 ≤ (s.slotsAt h).length ∧ (match h with | .tile _ => true | _ => false) = true then .full
      else .waits (s.setSlots h (s.slotsAt h ++ [{ flits := [f] }]))
    | some (x, rest) =>
      let x : Slot := { flits := x.flits.filter (fun g => g.fidx != f.fidx) ++ [f] }
      if x.flits.length = f.flast + 1 then .whole (x.whole f) (s.setSlots h rest)
      else .waits (s.setSlots h (rest ++ [x]))

/-! ## Performing -/

/-- Flat address that a request names at its home. -/
def flatOf : Home → Flit → Nat
  | .tile t, f => spad t (gaOff f.ga)
  | _, f => f.ga % 2 ^ 44

/-- Key of an access at its home. -/
def State.homeKey (s : State) : Home → Flit → Nat
  | .port _, f => s.slotLoad f.key
  | _, _ => 0

/-- The fabric interface of a home asks for the banks of a request; requester 0 is plane A's, 1 plane B's. -/
def State.askHome (s : State) (h : Home) (id : Nat) (offs : List Nat) : Bool × State :=
  match h with
  | .tile t => if offs.isEmpty then (true, s) else s.ask t orderFabric id offs
  | _ => (true, s)

/-- What a performed request answers: data, or an acknowledgement once its flag has been signalled (R157, R158). -/
def State.respond (s : State) (h : Home) (f : Flit) (d : Done) : State :=
  match f.op with
  | .load | .atomicr | .tcancel | .loadcap | .ldc =>
    s.answer h f { op := .resp, data := d.words.flatMap fun w => natLe 8 w.1, psn := d.words.map fun w => w.2,
                   tags := boolNat d.tag }
  | .loadv =>
    s.answer h f { op := .respv, flast := 1, data := d.words.flatMap fun w => natLe 8 w.1, psn := d.words.map fun w => w.2 }
  | _ => s.flagHome h f d

/-- A request performed at its home in one step (R214). -/
def State.performAt (s : State) (h : Home) (f : Flit) : State :=
  let r := s.performFlit (s.homeKey h f) (flatOf h f) f
  r.2.respond h f r.1

/-- A tile keeps a place in its retry list for the signal that it sends for a request's flag (R358 step 6, log 78). -/
def State.homeRoom (s : State) (h : Home) (f : Flit) : Bool :=
  match h with
  | .tile t => f.flag == 0 || homeOf s.pkg (tileY t) (localise s.pkg f.flag) == (.tile t, none) || s.retryRoom t 1
  | _ => true

/-- The step of a home for the operation op: a refusal, a part of a message, or the whole operation as act performs
it, once its banks are granted (R16, R35); until then the flit stays in its queue. -/
def State.homeStep (s : State) (h : Home) (op : Op) (act : Flit → State → State) : Host.Outcome State Fault Refusal :=
  match s.takeReq h op with
  | none => .next s
  | some (f, s1) =>
    match s1.refusal h f with
    | some why => .next (s1.nakWith h f why (reasonClass why) (f.flast != 0))
    | none =>
      match s1.gatherMsg h f with
      | .whole g s2 =>
        let q := s.askHome h 0 (rowsAt g)
        if !s.homeRoom h g then .next s
        else if q.1 then .next (act g (s2.askHome h 0 (rowsAt g)).2) else .next q.2
      | .waits s2 => .next s2
      | .full => .next (s1.nakWith h f .slot 0 true)

/-! ## Registers (R323): TRPASS runs a test, whose outcome on the wires no rule gives -/

/-- A register read by a request. -/
def State.readReg (s : State) (r : Reg) : Word × State :=
  match r with
  | .trpass c =>
    let d := s.draw
    (d.1, d.2.setTrain c { d.2.train c with pass := d.1 })
  | _ => (s.regRead r, s)

def State.ioLoad (s : State) (h : Home) (f : Flit) : State :=
  let r := match regOf f with
    | some r => s.readReg r
    | none => (0, s)
  r.2.respond h f { words := [(halfRead (gaAddr f.ga) f.size r.1.toNat, 0)] }

def State.ioStore (s : State) (h : Home) (f : Flit) : State :=
  let s := match regOf f with
    | some r => s.regWrite r (BitVec.ofNat 64 (halfWrite (gaAddr f.ga) f.size (s.regRead r).toNat (leNat f.data))) (.device f.ctx)
    | none => s
  s.ackTo h f

/-! ## Loads, stores, puts and atomics -/

def execLoad (h : Home) (s : State) : Host.Outcome State Fault Refusal :=
  s.homeStep h .load fun f s => match h with | .io _ => s.ioLoad h f | _ => s.performAt h f
def execLoadv (h : Home) (s : State) : Host.Outcome State Fault Refusal := s.homeStep h .loadv fun f s => s.performAt h f
def execLoadcap (h : Home) (s : State) : Host.Outcome State Fault Refusal := s.homeStep h .loadcap fun f s => s.performAt h f
def execStore (h : Home) (s : State) : Host.Outcome State Fault Refusal := s.orWait fun s =>
  s.homeStep h .store fun f s => match h with | .io _ => s.ioStore h f | _ => s.performAt h f
def execStorev (h : Home) (s : State) : Host.Outcome State Fault Refusal := s.homeStep h .storev fun f s => s.performAt h f
def execStorecap (h : Home) (s : State) : Host.Outcome State Fault Refusal := s.homeStep h .storecap fun f s => s.performAt h f
def execPut (h : Home) (s : State) : Host.Outcome State Fault Refusal := s.homeStep h .put fun f s => s.performAt h f
def execPutv (h : Home) (s : State) : Host.Outcome State Fault Refusal := s.homeStep h .putv fun f s => s.performAt h f
def execAtomic (h : Home) (s : State) : Host.Outcome State Fault Refusal := s.homeStep h .atomic fun f s => s.performAt h f
def execAtomicr (h : Home) (s : State) : Host.Outcome State Fault Refusal := s.homeStep h .atomicr fun f s => s.performAt h f

/-! ## Full and empty, monitors (R173-R178, R358) -/

/-- Room in a tile's monitor table. -/
def State.monitorRoom (s : State) (t : Nat) : Bool := decide ((s.tile t).monitors.length < 64)

/-- A request that must wait is registered, or told that the table is full. -/
def State.register (s : State) (h : Home) (f : Flit) : State :=
  match h with
  | .tile t =>
    if s.monitorRoom t then s.updTile t fun x => { x with monitors := x.monitors ++ [f] }
    else s.answer h f { op := .notreg }
  | .io d =>
    let x := s.ioDie d
    if x.monitors.length < 64 then s.setIo d { x with monitors := x.monitors ++ [f] } else s.answer h f { op := .notreg }
  | .port _ => s

/-- Two flits are of one request. -/
def sameRequest (f g : Flit) : Bool := g.src == f.src && g.tag == f.tag

/-- Whether the withdrawal of a request has reached its home before it. -/
def State.withdrew (s : State) (h : Home) (f : Flit) : Bool :=
  match h with
  | .tile t => (s.tile t).withdrawn.any (sameRequest f)
  | _ => false

/-- A remote LDC or STP is performed where the word's FE allows it, and registered otherwise; one that has been withdrawn is
answered removed (R358). -/
def State.feRequest (s : State) (h : Home) (f : Flit) : State :=
  let a := flatOf h f
  if s.withdrew h f then
    (match h with
      | .tile t => s.updTile t fun x => { x with withdrawn := x.withdrawn.filter fun g => !sameRequest f g }
      | _ => s).answer h f { op := .removed }
  else if s.fe a = (f.op == .ldc) then s.performAt h f else s.register h f

def execLdcRequest (h : Home) (s : State) : Host.Outcome State Fault Refusal := s.homeStep h .ldc fun f s => s.feRequest h f
def execStpRequest (h : Home) (s : State) : Host.Outcome State Fault Refusal := s.homeStep h .stp fun f s => s.feRequest h f
def execFesetRequest (h : Home) (s : State) : Host.Outcome State Fault Refusal := s.homeStep h .feset fun f s => s.performAt h f
def execScrubRequest (h : Home) (s : State) : Host.Outcome State Fault Refusal := s.homeStep h .scrub fun f s => s.performAt h f
def execPoisonRequest (h : Home) (s : State) : Host.Outcome State Fault Refusal := s.homeStep h .poison fun f s => s.performAt h f

/-- The flag that an arm names: count and mark, and the origin of its poison. -/
def State.armFlag (s : State) (h : Home) (f : Flit) : ((Nat × Nat) × Nat) × State :=
  match h with
  | .tile t =>
    let a := spad t (gaOff f.ga)
    let s := s.look a
    ((s.flagAt a, s.flagFrom a), s)
  | _ =>
    match launchFlag f.ga with
    | some n => ((s.lflagAt n, flagOrigin (s.lflag n)), s)
    | none => (((0, 0), 0), s)

/-- ARM: the condition is evaluated in the word's order; a poll is answered either way. -/
def execArm (h : Home) (s : State) : Host.Outcome State Fault Refusal :=
  s.homeStep h .arm fun f s =>
    let x := s.armFlag h f
    if decided x.1.1 (f.cmp == 1) f.opnd then x.2.answer h f (fireFlit x.1.1 x.1.2)
    else if f.once then x.2.answer h f { op := .fire }
    else x.2.register h f

/-- DISARM: the requester's entry is removed. -/
def execDisarm (h : Home) (s : State) : Host.Outcome State Fault Refusal :=
  s.homeStep h .disarm fun f s =>
    let keep := fun (g : Flit) => !sameRequest f g
    match h with
    | .tile t => s.updTile t fun x => { x with monitors := x.monitors.filter keep }
    | .io d => s.setIo d { s.ioDie d with monitors := (s.ioDie d).monitors.filter keep }
    | .port _ => s

/-- A withdrawal is kept for a request that has not come: a thread has one request at a time, so its latest stands for it. -/
def Tile.keepWithdrawal (x : Tile) (f : Flit) : Tile :=
  let same := fun (g : Flit) => g.src == f.src && g.thr == f.thr
  if x.withdrawn.any (fun g => same g && decide (f.tag < g.tag)) then x
  else { x with withdrawn := x.withdrawn.filter (fun g => !same g) ++ [f] }

/-- WITHDRAW: a registered LDC or STP is removed and its requester told so. One that has been performed or refused has its
answer on the way, which is the answer to the withdrawal; one that has not come is answered removed when it comes (R358;
DEDUCED, log 81). A settled tile has answered all that stood in its table, and its refusal says so. -/
def execWithdraw (h : Home) (s : State) : Host.Outcome State Fault Refusal :=
  match h with
  | .tile t =>
    if (s.tile t).halt = .settled ∧ (s.tile t).fenced = false then
      match s.takeReq h .withdraw with
      | none => .next s
      | some (f, s1) => .next (s1.nakWith h { f with found := true } .absent (reasonClass .absent))
    else
      s.homeStep h .withdraw fun f s =>
        if (s.tile t).monitors.any (sameRequest f) then
          (s.updTile t fun x => { x with monitors := x.monitors.filter fun g => !sameRequest f g }).answer h f { op := .removed }
        else s.updTile t fun x => x.keepWithdrawal f
  | _ => s.homeStep h .withdraw fun _ s => s

/-! ## Copy streams (R37, R211, R243, R245) -/

/-- Bytes of a stream's longest complete prefix. -/
def Window.bytes (w : Window) : Nat :=
  match w.total with
  | some n => Nat.min (32 * w.done) n
  | none => 32 * w.done

/-- The prefix grows over the granules received beyond it. -/
def Window.slide (w : Window) : Nat → Window
  | 0 => w
  | n + 1 => if w.got.contains w.done then Window.slide { w with done := w.done + 1, got := ndel w.got w.done } n else w

/-- A granule enters the bitmap. -/
def Window.take (w : Window) (f : Flit) : Window :=
  let w := { w with total := if f.lastg then some (32 * f.gidx + f.nb) else w.total, wpoff := f.wpoff, wpen := f.wpen }
  if f.gidx < w.done then w else ({ w with got := nins (ndel w.got f.gidx) f.gidx }).slide 256

/-- The stream is complete. -/
def Window.complete (w : Window) : Bool :=
  match w.total with
  | some n => decide (n ≤ 32 * w.done)
  | none => false

/-- A granule at a tile: written, counted in its window, acknowledged after the pointer that it lets be written. -/
def State.tileGranule (s : State) (t : Nat) (f : Flit) : State :=
  let x := s.tile t
  let mine := fun (w : Window) => w.src == f.src && w.tag == f.tag
  let w := (x.windows.find? mine).getD { src := f.src, tag := f.tag }
  if (!x.windows.any mine && 16 ≤ x.windows.length) || w.done + 256 ≤ f.gidx then s.nakWith (.tile t) f .window 0 true
  else
    let s := (s.performFlit 0 (spad t (gaOff f.ga)) f).2
    let w := w.take f
    let due := w.complete || decide (w.lastPtr + 256 ≤ w.bytes)
    let s := if due && w.wpen then s.pointerAt (spad t (w.wpoff / 8 * 8)) w.bytes 0 0 else s
    let w := if due then { w with lastPtr := w.bytes } else w
    let rest := (s.tile t).windows.filter fun y => !mine y
    let s := s.updTile t fun y => { y with windows := if w.complete then rest else rest ++ [w] }
    s.ackTo (.tile t) f

def execGranule (h : Home) (s : State) : Host.Outcome State Fault Refusal :=
  s.homeStep h .granule fun f s => match h with | .tile t => s.tileGranule t f | _ => s.performAt h f

/-- STREAMEND: the window writes the pointer word with the prefix reached, and the class of a poisoned end, and is
freed. -/
def execStreamend (h : Home) (s : State) : Host.Outcome State Fault Refusal :=
  s.homeStep h .streamend fun f s =>
    match h with
    | .tile t =>
      let mine := fun (w : Window) => w.src == f.src && w.tag == f.tag
      let n := match (s.tile t).windows.find? mine with
        | some w => w.bytes
        | none => f.nb
      let s := s.updTile t fun x => { x with windows := x.windows.filter fun w => !mine w }
      let s := if f.wpen then s.pointerAt (spad t (f.wpoff / 8 * 8)) n f.cls f.origin else s
      s.ackTo h f
    | _ => s

/-! ## Tasks (R278, R279, R290) and wakes (R198) -/

/-- A request for the queue bank of its home's cluster waits while the bank copies a row (R399). -/
def State.bankStep (s : State) (h : Home) (act : Host.Outcome State Fault Refusal) : Host.Outcome State Fault Refusal :=
  match h with
  | .tile t => s.unlessMending (clusterOf t) act
  | _ => act

/-- PUSH: the record enters the queue bank or the cuff, or is refused. -/
def execPush (h : Home) (s : State) : Host.Outcome State Fault Refusal :=
  s.bankStep h <| s.homeStep h .push fun f s =>
    match h with
    | .tile t =>
      let ws := (List.range 8).map fun i => (leNat ((f.data.drop (8 * i)).take 8), f.psn.getD i 0)
      let p := s.push (clusterOf t) (pushRing t f.idx) (recOf f.origin ws) none
      if p.1 then p.2.ackTo h f else p.2.nakTo h f .qfull
    | _ => s

/-- TDEC_REQUEST; a refused push of its block refuses the decrement, which is retried as a re-drive. -/
def execTdecRequest (h : Home) (s : State) : Host.Outcome State Fault Refusal :=
  s.bankStep h <| s.homeStep h .tdec fun f s =>
    let p := s.tdec (flatOf h f) f.once
    if p.1 then p.2.ackTo h f else p.2.nakTo h f .qfull

def execTcancelRequest (h : Home) (s : State) : Host.Outcome State Fault Refusal :=
  s.bankStep h <| s.homeStep h .tcancel fun f s => s.performAt h f

/-- WAKE_REQUEST: the wake acts on its target thread (Table 8.5). -/
def execWakeRequest (h : Home) (s : State) : Host.Outcome State Fault Refusal :=
  s.homeStep h .wake fun f s =>
    match h with
    | .tile t => (s.wakeThread t f.thr f.sup).ackTo h f
    | _ => s

end Sys2Proof.Machine
end

