-- ==== Sys2Proof/Machine/Replies.lean ====
section
/-! DEFINITION. Plane B at its consumers (R35, R38, R157, R158, R167, R177, R178, R201, R358, R380, R396): answers, refusals,
signals and wakes as they reach a tile, a memory port or an I/O die; retries and re-arms; timeouts. -/
namespace Sys2Proof.Machine

/-! ## Queues of plane B -/

def State.inboxB (s : State) : Home → List Flit
  | .tile t => (s.tile t).ejB
  | .port p => mget [] s.portsB p
  | .io d => (s.ioDie d).inqB

def State.setInboxB (s : State) (h : Home) (l : List Flit) : State :=
  match h with
  | .tile t => s.updTile t fun x => { x with ejB := l }
  | .port p => { s with portsB := mset [] s.portsB p l }
  | .io d => s.setIo d { s.ioDie d with inqB := l }

/-- The flit that a step takes: the head of the queue, if it has the operation op. -/
def State.takeB (s : State) (h : Home) (op : Op) : Option (Flit × State) :=
  match h, s.inboxB h with
  | .tile t, f :: r => if f.op == op && !(s.tile t).passedB then some (f, s.updTile t fun x => x.passB r) else none
  | h, f :: r => if f.op == op then some (f, s.setInboxB h r) else none
  | _, [] => none

/-- A step on an answer at a tile; a tile that a fence holds discards it (R396). -/
def State.answerStep (s : State) (t : Nat) (op : Op) (act : Flit → State → State) : Host.Outcome State Fault Refusal :=
  match s.takeB (.tile t) op with
  | none => .next s
  | some (f, s) => .next (if (s.tile t).fenced then s else act f s)

/-! ## Proxies (R380) -/

/-- A proxy entry after an answer has been sent back; none: it was the last that its operation awaits. A refusal that
leads to a retry of a stream's granule, or refuses a part of a message, is not the last. -/
def Proxy.answered (p : Proxy) (f : Flit) : Option Proxy :=
  let again := f.op == .nak && (f.count != 0 || (p.stream && retries f.reason 1))
  if again then some p
  else if p.stream then
    (if f.ans == .streamend then none
     else
      let p : Proxy := { p with left := ndel p.left f.idx }
      if p.left.isEmpty && !p.more then none else some p)
  else if p.parts < f.flast then some { p with parts := p.parts + 1 }
  else none

/-- An answer to a proxied request is given back its source's identity, to leave the package; the entry is freed with
the last answer that its operation awaits. -/
def State.proxied (s : State) (d : Nat) (f : Flit) : Option State :=
  let x := s.ioDie d
  match mfind x.proxies f.tag with
  | none => none
  | some p =>
    let g : Flit := { f with tag := p.tag, ctx := p.ctx, dpkg := some p.spkg, home := p.src,
                             dx := homeCol p.src, dy := homeRow p.src, exit := 0 }
    some (s.setIo d { x with
      proxies := match p.answered f with
        | some q => mput x.proxies f.tag q
        | none => mdel x.proxies f.tag
      out := x.out ++ [(g, s.pkg, 0)] })

/-! ## Responses (R157) -/

/-- Words and marks that an answer carries, as entries of the pass buffer. -/
def respEntries (e : Nat) (f : Flit) : List (Nat × Nat × Nat) :=
  (List.range (f.data.length / 8)).map (fun i => (e + i, leNat ((f.data.drop (8 * i)).take 8), f.psn.getD i 0)) ++
    (if f.tags % 2 = 1 then [(e + 2, 1, 0)] else [])

/-- A blocking request is answered with data. -/
def State.responded (s : State) (t : Nat) (f : Flit) : State :=
  match s.postedTag t f.tag with
  | some p =>
    match p.kind with
    | .request h => (s.closePosted t p.tag).elementDone t h p.flit.idx (respEntries p.flit.idx f)
    | _ => s
  | none => s

/-- RESP and RESPV have no tile to go to at a port; an I/O die sends them on. -/
def execResp (tile : Nat) (s : State) : Host.Outcome State Fault Refusal := s.answerStep tile .resp fun f s => s.responded tile f

def execRespv (tile : Nat) (s : State) : Host.Outcome State Fault Refusal :=
  s.answerStep tile .respv fun f s =>
    match s.gatherMsg (.tile tile) f with
    | .whole f s => s.responded tile f
    | .waits s => s
    | .full => s.nakWith (.tile tile) f .slot 0 true

/-! ## Acknowledgements (R158, R201) -/

/-- An operation of a tile has been performed. -/
def State.acked (s : State) (t : Nat) (f : Flit) : State :=
  if f.ans == .granule then s.granuleAcked t f
  else if f.ans == .streamend then s.endAnswered t f.tag f.ga
  else
    match s.sigWait (.tile t) f.tag with
    | some w => s.sigDone w
    | none =>
      match s.postedTag t f.tag with
      | some p =>
        match p.kind with
        | .request h => (s.closePosted t p.tag).elementDone t h p.flit.idx []
        | _ => s.closePosted t p.tag
      | none => s

/-- An acknowledgement at a port or an I/O die. -/
def State.ackedAt (s : State) (h : Home) (f : Flit) : State :=
  let own := match s.sigWait h f.tag with
    | some w => s.sigDone w
    | none => s
  match h with
  | .io d => (s.proxied d f).getD own
  | _ => own

def execAck (h : Home) (s : State) : Host.Outcome State Fault Refusal :=
  match h with
  | .tile t => s.answerStep t .ack fun f s => s.acked t f
  | h =>
    match s.takeB h .ack with
    | none => .next s
    | some (f, s) => .next (s.ackedAt h f)

/-! ## Refusals (R38, R298, R299, R420) -/

/-- A TLBINV broadcast part that ends unperformed, or whose signal was refused. -/
def State.tlbinvRefused (s : State) (t : Nat) (f : Flit) : State :=
  if f.sigref then s.logSignal t f.thr (BitVec.ofNat 64 f.opnd) f.size f.flag f.cls f.reason f.origin
  else s.lostPosted t f.thr (BitVec.ofNat 64 f.opnd) f.size 0 f.ga f.cls f.reason f.origin f.flag

/-- A refusal of what a tile has sent; nothing awaits the answers that it has sent. -/
def State.naked (s : State) (t : Nat) (f : Flit) : State :=
  if planeB f.ans && f.ans != .signal && f.ans != .respv then s
  else if f.ans == .granule then s.granuleRefused t f
  else if f.ans == .streamend then s.endRefused t f
  else if f.ans == .tlbinv then s.tlbinvRefused t f
  else if f.ans == .respv then
    if retries f.reason (f.tries + 1) then
      s.holdRetry t (f.tries + 1) { resendOf t f (f.src, none) with op := .respv, fidx := f.count - 1, flast := 1 }
    else s
  else
    match s.sigWait (.tile t) f.tag with
    | some w => s.sigRefused w f
    | none =>
      match s.postedTag t f.tag with
      | none => s
      | some p =>
        if f.ans == .withdraw && f.reason == .link then s.refuse t p f.cls f.reason f.origin
        else if f.ans == .withdraw && f.found then s
        else if f.ans == .withdraw then
          -- the home has no waiter of this thread any more: it re-issues
          (match p.kind with
            | .request h => ((s.closePosted t p.tag).updThr t h fun th => { th with wait := .none }).ctxChecks t
            | _ => s)
        else if f.ans == .disarm then s
        else if f.sigref then (s.logSignal t p.flit.thr p.pc p.head p.flit.flag f.cls f.reason f.origin).closePosted t p.tag
        else s.refused t p f

def State.nakedAt (s : State) (h : Home) (f : Flit) : State :=
  let answered := planeB f.ans && f.ans != .signal
  let own := match s.sigWait h f.tag with
    | some w => s.sigRefused w f
    | none =>
      if f.ans == .respv && retries f.reason (f.tries + 1) then
        s.holdRetryAt h (f.tries + 1) (place (homeCol h) f.src
          { f with op := .respv, fidx := f.count - 1, flast := 1, src := h, reason := .none, cls := 0, origin := 0, count := 0 })
      else s
  match h with
  | .io d => if answered then own else (s.proxied d f).getD own
  | _ => own

/-- A tile holds at most 256 flits for a retry: a refusal that would add to a full list waits in the ejection queue until an
entry is free (R35, R358 step 6; DEDUCED, log 78). -/
def State.heldWithin (s : State) (t : Nat) (o : Host.Outcome State Fault Refusal) : Host.Outcome State Fault Refusal :=
  match o with
  | .next s' => .next (if 256 < (s'.tile t).retries.length then s else s')
  | o => o

def execNak (h : Home) (s : State) : Host.Outcome State Fault Refusal :=
  match h with
  | .tile t => s.heldWithin t (s.answerStep t .nak fun f s => s.naked t f)
  | h =>
    match s.takeB h .nak with
    | none => .next s
    | some (f, s) => .next (s.nakedAt h f)

/-- NAK_RETRY: a held flit whose backoff has expired is sent again; a halted tile makes no retry (R358). -/
def execNakRetry (tile i : Nat) (s : State) : Host.Outcome State Fault Refusal :=
  let x := s.tile tile
  match x.retries[i]? with
  | none => .next s
  | some r =>
    if x.halt != .running || decide (x.cycle < r.due) then .next s
    else
      let s := s.updTile tile fun y => { y with retries := dropAt y.retries i }
      .next ((s.inject (.tile tile) r.flit).wakeRetry tile)

/-! ## Signals (R167) -/

/-- CLOCK: a cycle of the agents outside the tiles; the flits of theirs whose wait is over are sent again (R38). -/
def State.clockTurn (s : State) : State :=
  let now := s.evo.cycles + 1
  let due := s.agentRetries.filter fun r => decide (r.2.due ≤ now)
  let s : State := { s with evo := { s.evo with cycles := now }, agentRetries := s.agentRetries.filter fun r => decide (now < r.2.due) }
  due.foldl (fun s r => s.inject r.1 r.2.flit) s

/-- A signal is performed at its flag word and acknowledged. -/
def State.signalled (s : State) (h : Home) (f : Flit) : State :=
  match h with
  | .tile t => (s.signalAt (spad t (gaOff f.ga)) f.opnd f.cls f.origin).ackTo h f
  | .io _ =>
    match launchFlag f.ga with
    | some n => (s.signalLaunch n f.opnd f.cls f.origin).ackTo h f
    | none => s.nakTo h f .cap
  | .port _ => s

/-- A fenced tile discards it, as every plane B flit (R396 step 4, log 52). -/
def State.discards (s : State) : Home → Bool
  | .tile t => (s.tile t).fenced
  | _ => false

/-- SIGNAL: performed once the flag's bank is granted. -/
def execSignal (h : Home) (s : State) : Host.Outcome State Fault Refusal :=
  match s.takeB h .signal with
  | none => .next s
  | some (f, s1) =>
    if s.discards h then .next s1
    else
      match s1.refusal h f with
      | some why => .next (s1.nakTo h f why)
      | none =>
        let q := s.askHome h 1 [gaOff f.ga]
        if q.1 then .next ((s1.askHome h 1 [gaOff f.ga]).2.signalled h f) else .next q.2

/-! ## Monitor answers (R177, R178) -/

/-- FIRE: a monitor is decided, or a waiting LDC or STP has been performed; a mark of its own ends the wait (R300). -/
def State.fired (s : State) (t : Nat) (f : Flit) : State :=
  match s.postedTag t f.tag with
  | none => s
  | some p =>
    match p.kind with
    | .arm w => (s.closePosted t p.tag).armAnswer t w p.tag f.opndMark f.origin f.found
    | .request h =>
      if f.opndMark ≠ 0 then s.refuse t p (f.opndMark - 1) .none f.origin
      else (s.closePosted t p.tag).elementDone t h p.flit.idx (respEntries p.flit.idx f)
    | _ => s

def execFire (tile : Nat) (s : State) : Host.Outcome State Fault Refusal := s.answerStep tile .fire fun f s => s.fired tile f

/-- A remote LDC or STP is left to re-issue: nothing of it has been performed. -/
def State.unperformed (s : State) (t h tag : Nat) : State :=
  ((s.closePosted t tag).updThr t h fun th => { th with wait := .none }).ctxChecks t

/-- NOTREG: the arm is sent again 256 cc of the requester's counter later; a stopped thread re-issues instead. -/
def State.notRegistered (s : State) (t : Nat) (f : Flit) : State :=
  let at_ := (s.tile t).cycle + 256
  match s.postedTag t f.tag with
  | none => s
  | some p =>
    match p.kind with
    | .request h =>
      match (s.thr t h).wait with
      | .resp i _ => s.updThr t h fun th => { th with wait := .rearm i at_ p.flit }
      | .withdrawn _ _ => s.unperformed t h p.tag
      | _ => s
    | .arm w =>
      let s := s.closePosted t p.tag
      if w < 8 then
        match (s.thr t w).wait with
        | .fwait d mons start tmo =>
          let mons := mons.map fun (m : WaitMon) => if m.tag = p.tag ∧ m.armed = true then { m with armed := false, resendAt := some at_ } else m
          s.updThr t w fun th => { th with wait := .fwait d mons start tmo }
        | _ => s
      else if w < 40 then s.updCopy t (w - 8) fun c => { c with resendAt := some at_ }
      else s.updTile t fun x => { x with matq := match x.matq with
        | m :: r => { m with resendAt := some at_ } :: r
        | [] => [] }
    | _ => s

def execNotreg (tile : Nat) (s : State) : Host.Outcome State Fault Refusal := s.answerStep tile .notreg fun f s => s.notRegistered tile f

/-- REMOVED: the withdrawn instruction is left to re-issue (R358). -/
def execRemoved (tile : Nat) (s : State) : Host.Outcome State Fault Refusal :=
  s.answerStep tile .removed fun f s =>
    match s.postedTag tile f.tag with
    | some p =>
      match p.kind with
      | .request h => s.unperformed tile h p.tag
      | _ => s
    | none => s

/-- The arms of an FWAIT whose time has come are sent again. -/
def State.rearmMons (s : State) (t h now : Nat) : List WaitMon → List WaitMon × State
  | [] => ([], s)
  | m :: ms =>
    let due := match m.resendAt with | some k => decide (k ≤ now) | none => false
    let x := if due then s.sendArm t h false { m with resendAt := none } else (m, s)
    let y := State.rearmMons x.2 t h now ms
    (x.1 :: y.1, y.2)

/-- A time that has come. -/
def dueBy (now : Nat) (o : Option Nat) : Bool :=
  match o with
  | some k => decide (k ≤ now)
  | none => false

/-- ARM_RESEND: watcher thr of a tile (a thread; 8 + e: copy entry e; 40: the head of the matrix queue) sends again the
arms that were not registered. -/
def execArmResend (tile thr : Nat) (s : State) : Host.Outcome State Fault Refusal :=
  let x := s.tile tile
  let now := x.cycle
  if x.halt != .running then .next s
  else if thr < 8 then
    match (x.thread thr).wait with
    | .fwait d mons start tmo =>
      let r := s.rearmMons tile thr now mons
      .next (r.2.updThr tile thr fun th => { th with wait := .fwait d r.1 start tmo })
    | .rearm i k f =>
      if now < k then .next s
      else .next ((s.updThr tile thr fun th => { th with wait := .resp i [f.idx] }).inject (.tile tile) f)
    | _ => .next s
  else if thr < 40 then
    let c := s.copyCmd tile (thr - 8)
    if c.live && dueBy now c.resendAt && c.met.isNone then
      .next ((s.updCopy tile (thr - 8) fun c => { c with resendAt := none }).armEngine tile thr c.thr c.pc c.head c.wf c.wn)
    else .next s
  else
    match x.matq with
    | m :: r =>
      if dueBy now m.resendAt && m.met.isNone then
        .next ((s.updTile tile fun y => { y with matq := { m with resendAt := none } :: r }).armEngine tile 40 m.thr m.pc m.head m.wf m.wn)
      else .next s
    | [] => .next s

/-- FWAIT_TIMEOUT: gD receives data 4, unless a monitor's answer reaches the thread in the same cycle (R177). -/
def execFwaitTimeout (tile thr : Nat) (s : State) : Host.Outcome State Fault Refusal :=
  match (s.thr tile thr).wait with
  | .fwait _ mons start (some n) =>
    .next (if n ≠ 0 ∧ (s.tile tile).halt = .running ∧ start + n ≤ (s.tile tile).cycle ∧ ((s.tile tile).answering mons).isNone = true
      then s.fwaitEnd tile thr (dataReg 4) else s)
  | _ => .next s

end Sys2Proof.Machine
end

