-- ==== Sys2Proof/Machine/Agents.lean ====
section
/-! DEFINITION. The agents beside the core: the fetch unit (R14), the dispenser (R283, R286) and the spill engine of the
cuff (R284). -/
namespace Sys2Proof.Machine

/-! ## The fetch unit (R14) -/

/-- A line enters the fetch buffer, which keeps the line of the PC beside it. -/
def Thread.fill (th : Thread) (line : Nat) (l : List Parcel) : Thread :=
  let others := th.fbuf.filter fun x => x.1 != line
  let kept := match others.find? fun x => x.1 == pcLine th.pc with
    | some x => [x]
    | none => others.take 1
  { th with fbuf := (line, l) :: kept, wanted := th.wanted.filter fun x => x != line }

/-- The line of a tile's scratchpad at an offset, as the fetch unit reads it: the bits that its words hold. -/
def State.fetchLine (s : State) (t line : Nat) : List Parcel × State :=
  let a := spad t line
  let s := s.lookWords a 8
  (lineOfBytes (s.bytes a 64), s)

/-- FETCH_REFILL: a requested line arrives, unless its bank has been granted to another request, when it is requested
again (R14, R16-R18). -/
def execFetchRefill (tile thr : Nat) (s : State) : Host.Outcome State Fault Refusal :=
  let x := s.tile tile
  let th := x.thread thr
  match th.wants with
  | [] => .next s
  | line :: _ =>
    if x.refillRefused line then .next s
    else
      let r := s.fetchLine tile line
      .next ((r.2.updThr tile thr fun th => th.fill line r.1).updTile tile fun x => x.refillTake line)

/-! ## The dispenser -/

/-- DISPATCH; a cluster that is being halted makes no further delivery (R358 step 1). -/
def execDispatch (cluster : Nat) (s : State) : Host.Outcome State Fault Refusal :=
  s.unlessMending cluster (.next (s.dispatchOne cluster))

/-- DISPENSER_SCORE_WINDOW: at the end of each 1,024 cc of a tile's counter its score is what INJSTALL and THROTTLE
have grown by. -/
def execDispenserScoreWindow (tile : Nat) (s : State) : Host.Outcome State Fault Refusal :=
  let x := s.tile tile
  let sum := x.injstall.toNat + x.throttleCnt.toNat
  .next (if x.cycle % 1024 = 0 ∧ x.cycle ≠ x.scoreEnd then
      s.setTile tile { x with score := (sum + 2 ^ 64 - x.scoreBase % 2 ^ 64) % 2 ^ 64, scoreBase := sum, scoreEnd := x.cycle }
    else s)

def execRecordPromotion (cluster : Nat) (s : State) : Host.Outcome State Fault Refusal :=
  s.unlessMending cluster (.next (s.promote cluster))

/-! ## The spill engine -/

/-- The engine runs while its cluster's region is not being halted. -/
def State.spillRuns (s : State) (c : Nat) : Bool := (s.tile (clusterTile c 0)).halt == .running

def execCuffSpill (cluster : Nat) (s : State) : Host.Outcome State Fault Refusal :=
  s.unlessMending cluster (.next (if s.spillRuns cluster then s.spillMove cluster else s))

def execCuffRefill (cluster : Nat) (s : State) : Host.Outcome State Fault Refusal :=
  s.unlessMending cluster (.next (if s.spillRuns cluster then s.refillMove cluster else s))

end Sys2Proof.Machine
end

