-- ==== Sys2Proof/Machine/Capability.lean ====
section
/-! DEFINITION. Capability instructions, majors 0x0E and 0x0F (R120-R128). -/
namespace Sys2Proof.Machine

/-- The checks of R120 in order: cause and EVAL of the first that fails. -/
def capCheck (s : State) (a : GIx) (others : List GIx) (mmio gr : Bool) : Option (Nat × Nat) :=
  let r := s.cur.rd a
  if !r.isCap && !r.isPoison then some (causeNotCap, a.val)
  else match firstPoison (r :: others.map s.cur.rd) with
    | some p => some (causePoison, p.cls)
    | none =>
      if mmio && !s.cur.priv && r.kind == .mmio then some (causePriv, s.headTail)
      else if gr && !r.grants permGR then some (causePerm, r.low.toNat)
      else none

/-- A capability instruction: its checks, then its result or its own trap. -/
def State.capOp (s : State) (d a : GIx) (others : List GIx) (mmio gr : Bool)
    (f : GReg → Except (Nat × Nat) GReg) : Host.Outcome State Fault Refusal :=
  match capCheck s a others mmio gr with
  | some (c, v) => s.trap c v
  | none =>
    match f (s.cur.rd a) with
    | .ok r => s.doneG d r
    | .error (c, v) => s.trap c v

/-- Table 5.8. -/
def capField (sel : CapSel) (r : GReg) : Word :=
  match sel with
  | .cursor => r.low
  | .base => BitVec.ofNat 64 r.bounds.1
  | .length => BitVec.ofNat 64 r.bounds.2
  | .perm => BitVec.ofNat 64 r.perm
  | .w => BitVec.ofNat 64 (boolNat (bit r.upper.toNat 63))
  | .upper => r.upper

def execCapget (d a : GIx) (sel : CapSel) (s : State) : Host.Outcome State Fault Refusal :=
  s.capOp d a [] false false fun r => .ok (dataReg (capField sel r))

/-- R123. -/
def execCapset (d a b : GIx) (s : State) : Host.Outcome State Fault Refusal :=
  s.capOp d a [b] true false fun r => .ok (r.withCursor (s.cur.rd b).low)

def execCapadd (d a b : GIx) (s : State) : Host.Outcome State Fault Refusal :=
  s.capOp d a [b] true false fun r => .ok (r.withCursor (r.low + (s.cur.rd b).low))

/-- Base and length of a request [base, base + len) of an HBM or MMIO capability, rounded inward (R53). Rounding the base up
to 2^44, which no HBASE holds, leaves no byte: the length is 0, and the base is a free one within the old bounds (log 5,
log 22). -/
def plainInward (old base len freeBase : Nat) : Nat × Nat :=
  let b := ceilDiv base 64 * 64
  if b < 2 ^ 44 then (b, base + len - b) else (old + freeBase % ((2 ^ 44 - old) / 64) * 64, 0)

/-- The bounds [base, base + len) requested of a plain capability, rounded inward and encoded (R52, R53, R124). -/
def capBound (r : GReg) (len : Nat) (freeBase : Nat) : GReg :=
  match r.kind with
  | .tile => capReg (tileUpper r.perm r.offset len) r.low
  | k =>
    let b := plainInward r.bounds.1 r.offset len freeBase
    capReg (plainUpper r.perm b.1 b.2) (BitVec.ofNat 64 (r.low.toNat / 2 ^ k.movable * 2 ^ k.movable + b.1))

/-- CAPBND (R124). A bounds trap has gA's cursor in EVAL (DEDUCED, log 87). -/
def execCapbnd (d a b : GIx) (s : State) : Host.Outcome State Fault Refusal :=
  let w := s.draw
  let open_ := (s.cur.rd a).offset > 2 ^ 44 - 64
  State.capOp (if open_ then w.2 else s) d a [b] true true fun r =>
    let len := (s.cur.rd b).low.toNat
    if r.kind = .woven then .error (causePerm, r.low.toNat)
    else if r.offset < r.bounds.1 ∨ r.offset + len > r.bounds.1 + r.bounds.2 then .error (causeBounds, r.low.toNat)
    else .ok (capBound r len w.1.toNat)

/-- R125. -/
def execCapprm (d a b : GIx) (s : State) : Host.Outcome State Fault Refusal :=
  s.capOp d a [b] true true fun r => .ok (r.withPerm (r.perm &&& ((s.cur.rd b).low.toNat % 1024)))

/-- R126. -/
def execCapclr (d a : GIx) (s : State) : Host.Outcome State Fault Refusal :=
  let r := s.cur.rd a
  s.doneG d (if r.isCap then dataReg r.low else r)

/-- The derivation of R127 from gA with the geometry and window words. A bounds trap has gA's cursor in EVAL, since no access
is made that Table 8.1 could name (DEDUCED, log 87). -/
def weave (r : GReg) (b c : Nat) : Except (Nat × Nat) GReg :=
  let w := bits b 21 16 + 1
  let h := bits b 29 24 + 1
  let x0 := bits b 5 0
  let y0 := bits b 13 8
  let base := bits c 13 0
  let ext := bits c 29 16
  let lo := 32 * base
  let hi := 32 * (base + ext + 1)
  let u := r.upper.toNat
  let k := r.low.toNat
  if r.kind ≠ .tile ∧ r.kind ≠ .woven then .error (causePerm, k)
  else if x0 + w > 64 ∨ y0 + h > 64 ∨ hi > 0x80000 then .error (causeBounds, k)
  else if r.kind = .tile ∧ (lo < r.bounds.1 ∨ hi > r.bounds.1 + r.bounds.2) then .error (causeBounds, k)
  else if r.kind = .woven ∧ (x0 < wX0 k ∨ y0 < wY0 k ∨ x0 + w > wX0 k + wW u ∨ y0 + h > wY0 k + wH u ∨
      lo < r.bounds.1 ∨ hi > r.bounds.1 + r.bounds.2) then .error (causeBounds, k)
  else .ok (capReg (wovenUpper (r.perm &&& bits c 41 32) w h (bits b 35 32 + 5) base ext)
    (BitVec.ofNat 64 (y0 * 2 ^ 58 + x0 * 2 ^ 52)))

def execCapwv (d a b c : GIx) (s : State) : Host.Outcome State Fault Refusal :=
  s.capOp d a [b, c] false true fun r => weave r (s.cur.rd b).low.toNat (s.cur.rd c).low.toNat

/-- The codes of Table 5.11. -/
def chkCode (r y : GReg) (need : Nat) (priv : Bool) (pkg : Nat) : Nat :=
  let n := y.low.toNat
  if !r.isCap && !r.isPoison then 1
  else if r.isPoison || y.isPoison then 2
  else if !r.grants need then 3
  else if r.kind == .mmio && !priv then 4
  else if n = 0 then 0
  else match r.reach pkg 0 n with
    | .ok _ => 0
    | .bounds => 5
    | .crosses => 6

def execCapchk (d a b : GIx) (perm : BitVec 10) (s : State) : Host.Outcome State Fault Refusal :=
  s.doneG d (dataReg (BitVec.ofNat 64 (chkCode (s.cur.rd a) (s.cur.rd b) perm.toNat s.cur.priv s.pkg)))

end Sys2Proof.Machine
end

