-- ==== Sys2Proof/Machine/Control.lean ====
section
/-! DEFINITION. Compare-skip and jumps, majors 0x08-0x0D (R86, R112-R119), with the walk over annulled
instructions (R15, R114). FCMP skips the same way (Machine/Float.lean). -/
namespace Sys2Proof.Machine

/-- A compare-skip retires; when its condition holds, k instructions are annulled (R112). In replay mode each takes
a slot of its own, so the core walks them (R15). -/
def State.skipIf (s : State) (c : Bool) (k : Nat) : Host.Outcome State Fault Refusal :=
  let t := s.cur.retire
  if c then
    let t := { t with skip := k }
    .next (s.setCur (if s.curT.replay then t else t.walkSkips s.pkg s.curTile 3))
  else .next (s.setCur t)

/-- Table 5.5: a poisoned operand traps, A before B (R113). -/
def execCmp (k : Fin 4) (c : Cond) (a b : GIx) (s : State) : Host.Outcome State Fault Refusal :=
  let x := s.cur.rd a
  let y := s.cur.rd b
  match firstPoison [x, y] with
  | some p => s.trap causePoison p.cls
  | none => s.skipIf (condHolds c x.low y.low) k

def execCmpi (k : Fin 4) (c : Cond) (a : GIx) (imm : BitVec 20) (s : State) : Host.Outcome State Fault Refusal :=
  let x := s.cur.rd a
  if x.isPoison then s.trap causePoison x.cls else s.skipIf (condHolds c x.low (imm20 imm)) k

def execTstb (k : Fin 4) (ne : Bool) (a : GIx) (n : Fin 64) (s : State) : Host.Outcome State Fault Refusal :=
  let x := s.cur.rd a
  if x.isPoison then s.trap causePoison x.cls else s.skipIf (x.low.getLsbD n == ne) k

/-- Tag codes of Table 2.1. -/
def Tag.code : Tag → Nat
  | .data => 0 | .cap => 1 | .poison => 2

/-- TSTG reads only the tag and never traps (R113). -/
def execTstg (k : Fin 4) (ne : Bool) (a : GIx) (t : Fin 4) (s : State) : Host.Outcome State Fault Refusal :=
  s.skipIf ((Tag.code (s.cur.rd a).tag == t.val) != ne) k

/-! ## Jumps -/

/-- The fetch unit asks for a line it does not hold (R14). -/
def Thread.want (t : Thread) (off : Nat) : Thread :=
  if (t.fbuf.lookup off).isSome || t.wanted.contains off then t else { t with wanted := t.wanted ++ [off] }

/-- The jump retires at its target. -/
def Thread.jump (t : Thread) (target : Word) : Thread := { t.count with pc := target }.want (pcLine target)

/-- The link of JL and JLR (R118). -/
def Thread.link (t : Thread) : GReg :=
  match t.code with
  | some u => (capReg u t.pc).withCursor t.succ
  | none => dataReg t.succ

/-- The address of the line of a PC. -/
def lineAddr (pc : Word) : Nat := pc.toNat / 64 * 64

/-- Target of J and JL (R116). -/
def jumpTarget (pc : Word) (off : BitVec 15) (h : Nat) : Word :=
  BitVec.ofNat 64 ((wrapInt 58 ((pc.toNat / 64 : Nat) + sgn 15 off.toNat)) * 64 + h * 2)

def State.jumpLine (s : State) (off : BitVec 15) (h : Fin 32) (link : Bool) : Host.Outcome State Fault Refusal :=
  let t := s.cur
  let target := jumpTarget t.pc off h
  if !lineAllowed t.code s.pkg s.curTile target then s.trap causeBounds (lineAddr target)
  else .next (s.setCur ((if link then t.wr 15 t.link else t).jump target))

def execJ (off : BitVec 15) (h : Fin 32) (s : State) : Host.Outcome State Fault Refusal := s.jumpLine off h false
def execJl (off : BitVec 15) (h : Fin 32) (s : State) : Host.Outcome State Fault Refusal := s.jumpLine off h true

/-- The first check of Table 5.6 that fails: cause and EVAL. -/
def jumpCheck (t : Thread) (pkg tile : Nat) (r : GReg) : Option (Nat × Nat) :=
  let target := r.low
  if r.isPoison then some (causePoison, r.cls)
  else if r.isCap && !r.grants permEX then some (causePerm, target.toNat)
  else if r.isCap && !r.namesTile pkg tile then some (causePerm, target.toNat)
  else if target.toNat % 2 = 1 ∨ target.toNat / 2 % 32 = 0 then some (causeAlign, target.toNat)
  else if r.isCap then
    if lineAllowed (some r.upper) pkg tile target then none else some (causeBounds, lineAddr target)
  else if target.toNat / 2 ^ 19 = t.pc.toNat / 2 ^ 19 ∧ lineAllowed t.code pkg tile target = true then none
  else some (causeBounds, lineAddr target)

/-- JR and JLR (R117, R118): a capability's cursor becomes the PC as it is, with LOCAL = 0 too (R50; DEDUCED, log 86). -/
def State.jumpReg (s : State) (a : GIx) (link : Bool) : Host.Outcome State Fault Refusal :=
  let t := s.cur
  let r := t.rd a
  match jumpCheck t s.pkg s.curTile r with
  | some (c, v) => s.trap c v
  | none =>
    let t' := if link then t.wr 15 t.link else t
    let t' := t'.jump r.low
    .next (s.setCur (if r.isCap then { t' with code := some r.upper } else t'))

def execJr (a : GIx) (s : State) : Host.Outcome State Fault Refusal := s.jumpReg a false
def execJlr (a : GIx) (s : State) : Host.Outcome State Fault Refusal := s.jumpReg a true

end Sys2Proof.Machine
end

