-- ==== Sys2Proof/Machine/Float.lean ====
section
/-! DEFINITION. Scalar float instructions, majors 0x40-0x42 (R131-R138). None flushes (R74). -/
namespace Sys2Proof.Machine

/-- The rounding of a scalar instruction: index 0 (R76). -/
def State.srnd (s : State) (rm : Rm) : RCtx := s.cur.rctx rm false 0

/-! Table 6.1 (R132, R133). -/
def f32Add (r : RCtx) (x y : Nat) : Nat := fmtF32.round r (fsum r.mode [fmtF32.read x, fmtF32.read y]).exact
def f32Sub (r : RCtx) (x y : Nat) : Nat := fmtF32.round r (fsum r.mode [fmtF32.read x, (fmtF32.read y).neg]).exact
def f32Mul (r : RCtx) (x y : Nat) : Nat := fmtF32.round r (fmulVal (fmtF32.read x) (fmtF32.read y)).exact
def f32Div (r : RCtx) (x y : Nat) : Nat := fmtF32.round r (fdivVal (fmtF32.read x) (fmtF32.read y))
def f32Fma (r : RCtx) (x y z : Nat) : Nat :=
  fmtF32.round r (fsum r.mode [fmulVal (fmtF32.read x) (fmtF32.read y), fmtF32.read z]).exact

def execFadd (rm : Rm) (d a b : GIx) (s : State) : Host.Outcome State Fault Refusal := s.fp2 d a b (f32Add (s.srnd rm))
def execFsub (rm : Rm) (d a b : GIx) (s : State) : Host.Outcome State Fault Refusal := s.fp2 d a b (f32Sub (s.srnd rm))
def execFmul (rm : Rm) (d a b : GIx) (s : State) : Host.Outcome State Fault Refusal := s.fp2 d a b (f32Mul (s.srnd rm))
def execFdiv (rm : Rm) (d a b : GIx) (s : State) : Host.Outcome State Fault Refusal := s.fp2 d a b (f32Div (s.srnd rm))
def execFsqrt (rm : Rm) (d a : GIx) (s : State) : Host.Outcome State Fault Refusal :=
  s.fp1 d a fun x => fmtF32.sqrt (s.srnd rm) (fmtF32.read x)

def execFfma (rm : Rm) (d a b c : GIx) (s : State) : Host.Outcome State Fault Refusal :=
  let x := s.cur.rd a
  let y := s.cur.rd b
  let z := s.cur.rd c
  match firstPoison [x, y, z] with
  | some p => s.doneG d p
  | none => s.doneG d (dataReg (BitVec.ofNat 64 (f32Fma (s.srnd rm) x.f32 y.f32 z.f32)))

/-- R134. -/
def execFmin (d a b : GIx) (s : State) : Host.Outcome State Fault Refusal := s.fp2 d a b (fmtF32.minMax false)
def execFmax (d a b : GIx) (s : State) : Host.Outcome State Fault Refusal := s.fp2 d a b (fmtF32.minMax true)

/-- R135. -/
def execFabs (d a : GIx) (s : State) : Host.Outcome State Fault Refusal := s.fp1 d a fmtF32.absCode
def execFneg (d a : GIx) (s : State) : Host.Outcome State Fault Refusal := s.fp1 d a fmtF32.negCode

/-- The bit of Table 6.3. -/
def classBit (c : Nat) : Nat :=
  let f := fmtF32
  let m := f.mag c
  let neg := f.sign c
  if f.isNanCode c then 8
  else if f.infc = some m then (if neg then 0 else 7)
  else if m = 0 then (if neg then 3 else 4)
  else if f.isSubnormal c then (if neg then 2 else 5)
  else if neg then 1 else 6

/-- R136. -/
def execFclass (d a : GIx) (s : State) : Host.Outcome State Fault Refusal := s.fp1 d a fun x => 2 ^ classBit x

/-- A converted code as Table 6.4 places it in gD: signed integers are sign-extended. -/
def placed (t : ElemTy) (c : Nat) : Word :=
  if tySigned t then BitVec.ofInt 64 (sgn (tyBits t) c) else BitVec.ofNat 64 (c % 2 ^ tyBits t)

/-- R137. -/
def execFcvt (src dst : ElemTy) (rm : Rm) (d a : GIx) (s : State) : Host.Outcome State Fault Refusal :=
  let x := s.cur.rd a
  if x.isPoison then s.doneG d x
  else s.doneG d (dataReg (placed dst (convert src dst (s.srnd rm) (x.low.toNat % 2 ^ tyBits src))))

/-- R138: a compare-skip on F32 values. -/
def execFcmp (k : Fin 4) (c : FCond) (a b : GIx) (s : State) : Host.Outcome State Fault Refusal :=
  let x := s.cur.rd a
  let y := s.cur.rd b
  match firstPoison [x, y] with
  | some p => s.trap causePoison p.cls
  | none => s.skipIf (fmtF32.cmp c x.f32 y.f32) k

end Sys2Proof.Machine
end

