-- ==== Sys2Proof/Machine/Router.lean ====
section
/-! DEFINITION. The deflecting router, cycle by cycle (R27-R33, R35, R374), link errors and lost links (R31, R397). -/
namespace Sys2Proof.Machine

/-! ## Ports: 0 north, 1 east, 2 south, 3 west (R27) -/

/-- The router beyond a port; none at the mesh edge. -/
def neighbour (t d : Nat) : Option Nat :=
  match d with
  | 0 => if tileY t = 0 then none else some (t - 64)
  | 1 => if tileX t = 63 then none else some (t + 1)
  | 2 => if tileY t = 63 then none else some (t + 64)
  | _ => if tileX t = 0 then none else some (t - 1)

/-- The port by which the neighbour reaches back. -/
def opposite (d : Nat) : Nat := (d + 2) % 4

/-- The link crosses a die boundary (R30). -/
def crossing (t d : Nat) : Bool :=
  match neighbour t d with
  | some u => dieOf (clusterOf t) != dieOf (clusterOf u)
  | none => false

/-- Wear unit of a mesh link (Table 22.3): its sending router and port. -/
def linkUnit (t d : Nat) : Nat := t * 4 + d

/-! ## The planes of a router -/

def Router.ins (r : Router) (b : Bool) : List (Nat × Nat × Flit) := if b then r.inB else r.inA
def Router.setIns (r : Router) (b : Bool) (l : List (Nat × Nat × Flit)) : Router := if b then { r with inB := l } else { r with inA := l }
def Router.brim (r : Router) (b : Bool) : List Flit := if b then r.brimB else r.brimA
def Router.setBrim (r : Router) (b : Bool) (l : List Flit) : Router := if b then { r with brimB := l } else { r with brimA := l }
def Tile.inj (x : Tile) (b : Bool) : List Flit := if b then x.injB else x.injA
def Tile.setInj (x : Tile) (b : Bool) (l : List Flit) : Tile := if b then { x with injB := l } else { x with injA := l }
def Tile.queue (x : Tile) (b : Bool) : List Flit := if b then x.queueB else x.queueA
def Tile.setQueue (x : Tile) (b : Bool) (l : List Flit) : Tile := if b then { x with queueB := l } else { x with queueA := l }
def Tile.ej (x : Tile) (b : Bool) : List Flit := if b then x.ejB else x.ejA

/-- AGE after a hop. -/
def hopped (f : Flit) : Flit := { f with age := Nat.min 4095 (f.age + 1) }

/-- An output port remembers the last two flits it sent (R31). -/
def Router.remember (r : Router) (b : Bool) (d : Nat) (f : Flit) : Router :=
  let keep := fun (l : List (Nat × Flit)) => (d, f) :: (l.filter (fun x => x.1 == d)).take 1 ++ l.filter fun x => x.1 != d
  if b then { r with sentB := keep r.sentB } else { r with sentA := keep r.sentA }

/-- Throttle counters of a router and of its link neighbours set to 64 (R32). -/
def State.throttleAround (s : State) (t : Nat) : State :=
  (t :: (List.range 4).filterMap (neighbour t)).foldl (fun s u => s.setRouter u { s.router u with throttle := 64 }) s

/-- A flit leaves by a link port: one hop older; a crossing takes two cycles more; an injected CRC error corrupts it. -/
def State.sendLink (s : State) (t d : Nat) (b : Bool) (f : Flit) : State :=
  match neighbour t d with
  | none => s
  | some u =>
    let f := hopped f
    let r := s.router t
    let g := { f with crcBad := r.crcNext.contains d }
    let s := s.setRouter t { r.remember b d f with crcNext := r.crcNext.erase d }
    let q := s.router u
    let s := s.setRouter u (q.setIns b (q.ins b ++ [(opposite d, if crossing t d then 2 else 0, g)]))
    if 2048 ≤ f.age then s.throttleAround t else s

/-- A flit leaves the fabric by a brim port: to a memory port, to the registers of an I/O die, or off the package. The manual
gives the brim side's buffers no size, and this model's always have room, for several flits in a cycle (R27, R29; DESIGN
CHOICE, log 75). -/
def State.leaveBrim (s : State) (t : Nat) (b : Bool) (f : Flit) : State :=
  let f := hopped f
  let toPort := fun (p : Nat) => if b then { s with portsB := mset [] s.portsB p (mget [] s.portsB p ++ [f]) }
    else { s with ports := mset [] s.ports p (mget [] s.ports p ++ [f]) }
  let toIo := fun (d : Nat) =>
    let x := s.ioDie d
    if f.dpkg.isSome then s.setIo d { x with out := x.out ++ [(f, s.pkg, 0)] }
    else s.setIo d (if b then { x with inqB := x.inqB ++ [f] } else { x with inq := x.inq ++ [f] })
  match f.exit with
  | 4 => toPort (tileY t)
  | 2 => toPort (64 + tileY t)
  | 1 => toIo 0
  | _ => toIo 1

/-- A flit leaves the fabric at its tile; a reserved OP is discarded there and raises a machine-check event (R374). -/
def State.eject (s : State) (t : Nat) (b : Bool) (f : Flit) : State :=
  if f.op == .reserved then s.event 1 3 0 (clusterOf t) 0 0
  else s.updTile t fun x => if b then { x with ejB := x.ejB ++ [f] } else { x with ejA := x.ejA ++ [f] }

/-- A flit is at its destination router. -/
def atHome (f : Flit) (t : Nat) : Bool := f.dx == tileX t && f.dy == tileY t

/-- Productive ports, X first. -/
def productive (t : Nat) (f : Flit) : List Nat :=
  (if tileX t < f.dx then [1] else if f.dx < tileX t then [3] else []) ++
    (if tileY t < f.dy then [2] else if f.dy < tileY t then [0] else [])

/-- What of a router's outputs is left in a cycle, on one plane. -/
structure Outs where
  free : List Nat
  ejected : Bool := false
  deriving DecidableEq, Repr

/-- A flit leaves without being deflected; none where it cannot. -/
def State.depart (s : State) (t : Nat) (b : Bool) (o : Outs) (f : Flit) : Option (State × Outs) :=
  if atHome f t then
    if f.exit = 0 then
      (if !o.ejected && decide (((s.tile t).ej b).length < 16) then some (s.eject t b f, { o with ejected := true }) else none)
    else some (s.leaveBrim t b f, o)
  else
    match (productive t f).find? o.free.contains with
    | some d => some (s.sendLink t d b f, { o with free := ndel o.free d })
    | none => none

/-- Arriving flits served in order; a flit for which every output is taken stays on its link. -/
def State.serve (s : State) (t : Nat) (b : Bool) (o : Outs) : List (Nat × Flit) → State × Outs
  | [] => (s, o)
  | (d, f) :: fs =>
    match s.depart t b o f with
    | some x => State.serve x.1 t b x.2 fs
    | none =>
      match o.free with
      | p :: _ => State.serve (s.sendLink t p b f) t b { o with free := ndel o.free p } fs
      | [] =>
        let r := s.router t
        State.serve (s.setRouter t (r.setIns b ((d, 0, f) :: r.ins b))) t b o fs

/-- Oldest first, ties in the order of the input ports. -/
def insAge (x : Nat × Flit) : List (Nat × Flit) → List (Nat × Flit)
  | [] => [x]
  | y :: ys => if y.2.age < x.2.age ∨ (y.2.age = x.2.age ∧ x.1 < y.1) then x :: y :: ys else y :: insAge x ys

def byAge (l : List (Nat × Flit)) : List (Nat × Flit) := l.foldl (fun a x => insAge x a) []

/-- The first flit of each input link, if it has come; the rest come a cycle nearer. -/
def arrivals (l : List (Nat × Nat × Flit)) : List (Nat × Flit) × List (Nat × Nat × Flit) :=
  let head := fun (d : Nat) => l.find? fun x => x.1 == d
  let here := (List.range 4).filterMap fun d => match head d with
    | some (_, 0, f) => some (d, f)
    | _ => none
  let rest := (List.range 4).foldl (fun l d => match head d with
    | some (_, 0, _) => (match takeFirst (fun x : Nat × Nat × Flit => x.1 == d) l with | some (_, r) => r | none => l)
    | _ => l) l
  (here, rest.map fun x => (x.1, x.2.1 - 1, x.2.2))

/-! ## Link errors (R31, R397) -/

/-- What ends the operation of a flit lost with its link: a plane A flit, a SIGNAL and a WAKE are refused to their
source, any other answer to the tile that awaits it. -/
def State.nakLost (s : State) (t : Nat) (b : Bool) (f : Flit) : State :=
  if !b || f.op == .signal || f.op == .wake then
    s.nakWith (.tile t) f .link (reasonClass .link) (f.flast != 0 && f.op != .respv)
  else
    s.sendHome (.tile t) f.home { f with op := .nak, fidx := 0, flast := 0, reason := .link, cls := reasonClass .link, origin := originOf f.home,
                                         src := .tile t, sigref := false, crcBad := false, age := 0, count := 0 }

/-- A link has spare wires left: it crosses dies, with four spares to a group (Table 22.6). -/
def State.linkSpare (s : State) (t d : Nat) : Bool := crossing t d && s.spareLeft 2 (linkUnit t d)

/-- A port's link on a plane: the planes share none (R25). -/
def linkKey (d : Nat) (b : Bool) : Nat := d + 4 * boolNat b

/-- A link is taken from a router, or given back to it. -/
def State.dropLink (s : State) (t k : Nat) : State := s.setRouter t { s.router t with lost := nins (ndel (s.router t).lost k) k }

/-- The link of a plane out of port d of router t is lost: both routers treat its ports as taken; it moves onto a spare, or
without one the rectangles of both are fenced. -/
def State.loseLink (s : State) (t d : Nat) (b : Bool) : State :=
  match neighbour t d with
  | none => s
  | some u =>
    let s := (s.dropLink t (linkKey d b)).dropLink u (linkKey (opposite d) b)
    let s := s.event 6 2 0 (linkUnit t d) 0 0
    if s.linkSpare t d then s.setAuto 2 (linkUnit t d) true
    else
      let a := s.rectOf (clusterOf t)
      let b := s.rectOf (clusterOf u)
      { s with agenda := s.agenda ++ (.fence a .meshLink) :: (if a = b then [] else [.fence b .meshLink]) }

/-- An arriving flit whose CRC fails is discarded: the first time its sender is asked to send it again, the second time
within 64 cycles its link is lost. -/
def State.crcFail (s : State) (t : Nat) (b : Bool) (d : Nat) (f : Flit) : State :=
  match neighbour t d with
  | none => s
  | some u =>
    let r := s.router t
    let k := linkKey d b
    let seen := mget 0 r.crcSeen k
    let s := s.charge 2 (linkUnit u (opposite d))
    if seen ≠ 0 ∧ r.cycles + 1 ≤ seen + 64 then
      ((s.setRouter t { s.router t with crcSeen := mset 0 (s.router t).crcSeen k 0 }).nakLost t b f).loseLink u (opposite d) b
    else
      let s := s.setRouter t { s.router t with crcSeen := mset 0 (s.router t).crcSeen k (r.cycles + 1) }
      let q := s.router u
      s.setRouter u { q with resend := q.resend ++ [(opposite d, b, { f with crcBad := false })] }

/-! ## The cycle -/

/-- Ports that a plane may use: those of links that stand. -/
def State.livePorts (s : State) (t : Nat) (b : Bool) : List Nat :=
  (List.range 4).filter fun d => (neighbour t d).isSome && !(s.router t).lost.contains (linkKey d b)

/-- The source of R28 that a flit comes from: thread flits, copy engine channels, memory-unit responses, acknowledgements
and NAKs. Signals and wakes count as thread flits (log 76). -/
def sourceOf (f : Flit) : Nat :=
  match f.op with
  | .granule | .streamend => 1
  | .resp | .respv | .fire | .notreg | .removed => 2
  | .ack | .nak => 3
  | _ => 0

/-- One flit enters the injection queue of a plane, from the next source in turn that has one. -/
def Tile.fillQueue (x : Tile) (b : Bool) : Tile :=
  let turn := if b then x.turnB else x.turnA
  match ((List.range 4).map fun i => (turn + i) % 4).find? fun k => (x.inj b).any fun f => sourceOf f == k with
  | none => x
  | some k =>
    match takeFirst (fun f => sourceOf f == k) (x.inj b) with
    | none => x
    | some (f, rest) =>
      let y := (x.setInj b rest).setQueue b (x.queue b ++ [f])
      if b then { y with turnB := (k + 1) % 4 } else { y with turnA := (k + 1) % 4 }

/-- Flits asked for again leave first, each taking its port. -/
def State.resendAll (s : State) (t : Nat) (b : Bool) (o : Outs) : List (Nat × Bool × Flit) → State × Outs
  | [] => (s, o)
  | (d, p, f) :: l =>
    if p = b then State.resendAll (s.sendLink t d b { f with age := f.age - 1 }) t b { o with free := ndel o.free d } l
    else State.resendAll s t b o l

/-- One injection: the brim's candidate, then the tile's (R28). -/
def State.injectOne (s : State) (t : Nat) (b : Bool) (o : Outs) : State × Bool :=
  let brim := (s.router t).brim b
  let inj := (s.tile t).queue b
  let first := match brim with
    | f :: r => (s.depart t b o { f with age := 0 }).map fun x => x.1.setRouter t ((x.1.router t).setBrim b r)
    | [] => none
  match first with
  | some s' => (s', !inj.isEmpty)
  | none =>
    match inj with
    | f :: r =>
      match s.depart t b o { f with age := 0 } with
      | some x => (x.1.updTile t fun y => y.setQueue b r, !brim.isEmpty)
      | none => (s, true)
    | [] => (s, !brim.isEmpty)

/-- One plane of a router in a cycle; whether a candidate waited. -/
def State.planeCycle (s : State) (t : Nat) (b throttled : Bool) : State × Bool :=
  let s := s.updTile t fun x => x.fillQueue b
  let r := s.router t
  let a := arrivals (r.ins b)
  let s := s.setRouter t { r.setIns b a.2 with resend := r.resend.filter fun x => x.2.1 != b }
  let bad := a.1.filter fun x => x.2.crcBad
  let s := bad.foldl (fun s x => s.crcFail t b x.1 x.2) s
  let q := s.resendAll t b { free := s.livePorts t b } r.resend
  let x := q.1.serve t b q.2 (byAge (a.1.filter fun x => !x.2.crcBad))
  if throttled then (x.1, !((x.1.router t).brim b).isEmpty || !((x.1.tile t).queue b).isEmpty) else x.1.injectOne t b x.2

/-- ROUTER_CYCLE: both planes of a router, its throttle counter, and the tile's counters (R33). -/
def execRouterCycle (tile : Nat) (s : State) : Host.Outcome State Fault Refusal :=
  let r := s.router tile
  let throttled := r.throttle != 0
  let s := s.setRouter tile { r with cycles := r.cycles + 1, throttle := r.throttle - 1 }
  let a := s.planeCycle tile false throttled
  let b := a.1.planeCycle tile true throttled
  .next (if !(a.2 || b.2) && !throttled then b.1
    else b.1.updTile tile fun x => { x with
      injstall := if a.2 || b.2 then x.injstall + 1 else x.injstall,
      throttleCnt := if throttled then x.throttleCnt + 1 else x.throttleCnt })

/-! ## Throttle (R32) -/

/-- THROTTLE_EXPIRY: the router cycle in which a counter that has one cycle left reaches zero; injection then resumes. -/
def execThrottleExpiry (tile : Nat) (s : State) : Host.Outcome State Fault Refusal :=
  if (s.router tile).throttle = 1 then execRouterCycle tile s else .next s

end Sys2Proof.Machine
end

