-- ==== Sys2Proof/Machine/Service.lean ====
section
/-! DEFINITION. Evodon and service life: scrubbing and wear (R390-R393), fences and repairs (R394-R400), the mailbox and its
commands (R401-R404, R408-R412, R416, R417, R422), training tests (R414), power and heat (R419), boot (R405, R406). -/
namespace Sys2Proof.Machine

/-! ## Patrol scrubbers (R390, R391): a scrubber's read, and the corrections it writes back -/

/-- Wear unit of an SRAM bank (Table 22.3, log 6): bank 16 of a tile stands for its cluster's tile store, any further one for
the queue bank. -/
def sramUnit (tile bank : Nat) : Nat :=
  if bank < 16 then tile * 16 + bank else if bank = 16 then storeUnit (clusterOf tile) else bankUnit (clusterOf tile)

/-- Rows of an SRAM bank that its scrubber visits: 64 bytes of a scratchpad bank, a row of the tile store, a record of the
queue bank (log 6). -/
def sramRows (bank : Nat) : Nat := if bank < 16 then 512 else 1024

/-- Places of a bank's scrubber and of a channel's among the scrub positions. -/
def sramScrubKey (tile bank : Nat) : Nat := 2 * sramUnit tile bank
def hbmScrubKey (c : Nat) : Nat := 2 * c + 1

/-- SRAM_PATROL_SCRUB: the next row of a bank, when the bank grants it in this cycle. Row r of scratchpad bank b lies at
offset 1024 r + 64 b (log 6). -/
def execSramPatrolScrub (tile bank : Nat) (s : State) : Host.Outcome State Fault Refusal :=
  let k := sramScrubKey tile bank
  let row := mget 0 s.scrubPos k
  let off := 1024 * row + 64 * bank
  let asked := if bank < 16 then s.ask tile orderScrub bank [off] else (true, s)
  if !s.evo.scrubEn || s.evo.sstep = 0 || (decide (16 ≤ bank) && (s.cluster (clusterOf tile)).mending.contains (if bank = 16 then 0 else 1)) then
    .next s
  else if !asked.1 then .next asked.2
  else
    let s : State := { asked.2 with scrubPos := mset 0 s.scrubPos k ((row + 1) % sramRows bank) }
    .next (if bank < 16 then s.lookWords (spad tile off) 8
      else if bank = 16 then s.lookStore (clusterOf tile) ((List.range 512).map fun u => row * 512 + u)
      else s.lookBankRow (clusterOf tile) row)

/-- PPA of a burst of a channel (R343, R344). -/
def burstPpa (stack channel n : Nat) : Nat := stack * 2 ^ 36 + n * 2 ^ 11 + channel % 4 * 2 ^ 9 + channel / 4 * 2 ^ 6

/-- HBM_PATROL_SCRUB: the next burst of a channel, once accesses to it do not wait. -/
def execHbmPatrolScrub (stack channel : Nat) (s : State) : Host.Outcome State Fault Refusal := s.orWait fun s =>
  if !s.evo.scrubEn || s.evo.hstep = 0 || !s.diePresent (dieOfStack stack) then .next s
  else
    let k := hbmScrubKey (stack * 32 + channel)
    let n := mget 0 s.scrubPos k
    let s : State := { s with scrubPos := mset 0 s.scrubPos k ((n + 1) % 2 ^ 25) }
    .next ((s.meet (burstPpa stack channel n)).detectWords (burstPpa stack channel n) 8)

/-! ## Wear (R393) -/

/-- WEAR_LEAK: a counter loses one; at half its mark its next rise to the mark is recorded again. -/
def execWearLeak (u : WearUnit) (s : State) : Host.Outcome State Fault Refusal :=
  let cfg := mget {} s.evo.wearCfg u.kind.val
  let k := wearKey u.kind.val u.unit
  let w := mget {} s.evo.wear k
  if cfg.leak = 0 then .next s
  else
    let w : Wear := { count := w.count - 1, latched := w.latched && decide (cfg.mark / 2 < w.count - 1) }
    .next { s with evo := { s.evo with wear := mset {} s.evo.wear k w } }

/-! ## Fences -/

/-- FENCE_NOTICE: a rectangle, or a cluster that lies in none, is fenced. -/
def execFenceNotice (r : RectId) (cause : FenceCause) (s : State) : Host.Outcome State Fault Refusal :=
  match r with
  | .crect i => .next (if (s.rect i.val).v then s.fenceRect r cause else s)
  | .cluster c => .next (if c < 512 then s.fenceRect (s.rectOf c) cause else s)

/-! ## Quotes (R410) -/

/-- A list of exactly n bytes. -/
def fitBytes (n : Nat) (l : List Byte) : List Byte := l.take n ++ List.replicate (n - l.length) 0

/-- A measurement chain as 64 bytes. -/
def chainBytes (l : List Byte) : List Byte := fitBytes 64 l

/-- Table 23.3 before its signature. -/
def State.quoteBody (s : State) (ctx : Nat) (nonce : List Byte) : List Byte :=
  natLe 8 (1 + s.pkg * 2 ^ 32) ++ natLe 8 s.evo.boots ++ fitBytes 64 nonce ++ chainBytes s.evo.chain ++ natLe 8 ctx ++
    (if ctx = 0xFF then List.replicate 64 0 else chainBytes (s.ctxOf ctx).chain) ++ natLe 8 0

/-- Table 23.10. -/
def certificate : List Byte :=
  natLe 8 1 ++ natLe 8 Config.partId.toNat ++ fitBytes 1793 Config.devicePublicKey ++ List.replicate 47 0 ++
    fitBytes 1280 Config.certificateSignature

def execQuote (seq : BitVec 16) (form ctx : Byte) (nonce : List Byte) (s : State) : Host.Outcome State Fault Refusal :=
  s.command 1 seq fun s =>
    if form = 1 then s.finish 0 certificate
    else if form = 0 ∧ (ctx.toNat < 64 ∨ ctx = 0xFF) then
      let b := s.quoteBody ctx.toNat nonce
      s.finish 0 (b ++ fitBytes 1280 (Config.deviceSign (shake256 b)))
    else s.finish 1 []

/-! ## Keys (R355, R408) -/

/-- A pair of keys has one number from its first load since power-on. -/
def State.loadOf (s : State) (dataKey tweakKey : Nat) : KeyRec × State :=
  match s.keyUsed.find? fun k => k.dataKey == dataKey && k.tweakKey == tweakKey with
  | some k => (k, s)
  | none =>
    let k : KeyRec := { load := s.keyLoads + 1, dataKey := dataKey, tweakKey := tweakKey }
    (k, { s with keyLoads := s.keyLoads + 1, keyUsed := s.keyUsed ++ [k] })

def execKeyload (seq : BitVec 16) (slot : Nat) (dataKey tweakKey : Nat) (s : State) : Host.Outcome State Fault Refusal :=
  s.command 2 seq fun s =>
    if slot = 0 ∨ 8191 < slot then s.finish 1 []
    else
      let k := s.loadOf (dataKey % 2 ^ 256) (tweakKey % 2 ^ 256)
      { k.2 with keys := mput k.2.keys slot k.1 }.finish 0 []

def execKeyerase (seq : BitVec 16) (slot : Nat) (s : State) : Host.Outcome State Fault Refusal :=
  s.command 3 seq fun s =>
    if slot = 0 ∨ 8191 < slot then s.finish 1 [] else { s with keys := mdel s.keys slot }.finish 0 []

/-- KEYENROLL: a key of 1,793 bytes enters a slot when the key of an occupied slot signs it. -/
def execKeyenroll (seq : BitVec 16) (slot : Nat) (key : List Byte) (signer : Nat) (sig : List Byte) (s : State) :
    Host.Outcome State Fault Refusal :=
  s.command 4 seq fun s =>
    let key := fitBytes 1793 key
    if slot = 0 ∨ 15 < slot then s.finish 1 []
    else
      match s.verifyKey signer with
      | some k =>
        if Config.falconVerify k (shake256 (BitVec.ofNat 8 slot :: key)) sig then
          { s with evo := { s.evo with verifyKeys := mput s.evo.verifyKeys slot key } }.finish 0 []
        else s.finish 5 []
      | none => s.finish 5 []

/-! ## Fence, wear and injection commands (R402, R403, R422) -/

def execFence (seq : BitVec 16) (r : RectId) (s : State) : Host.Outcome State Fault Refusal :=
  s.command 0x10 seq fun s =>
    let ok := match r with
      | .crect i => (s.rect i.val).v
      | .cluster c => decide (c < 512)
    if ok then { s with agenda := s.agenda ++ [Turn.fence r .command] }.finish 0 [] else s.finish 1 []

/-- Units of a kind (Table 22.3, log 6 for their numbers). -/
def wearUnits : Nat → Nat
  | 0 => 65536 + 1024
  | 1 => 512
  | 2 => 16384 + 256
  | _ => 512

def execReadwear (seq : BitVec 16) (u : WearUnit) (s : State) : Host.Outcome State Fault Refusal :=
  s.command 0x17 seq fun s =>
    if u.unit < wearUnits u.kind.val then s.finish 0 (natLe 8 (mget {} s.evo.wear (wearKey u.kind.val u.unit)).count)
    else s.finish 1 []

/-- An error planted in stored check bits. -/
def State.plant (s : State) (a : Nat) (single : Bool) : State :=
  if single then { s with errOne := nset s.errOne (a / 8) true }
  else if isSpad a then { s with errUnc := nset s.errUnc (a / 8) true }
  else { s with errUnc := (List.range 8).foldl (fun l i => nset l (a / 64 * 8 + i) true) s.errUnc }

/-- A tile of a die that is present. -/
def State.tileHere (s : State) (t : Nat) : Bool := decide (t < 4096) && s.diePresent (dieOf (clusterOf t))

/-- What INJECT does; none for a location that is not there (log 101). -/
def State.injected (s : State) (i : Injection) : Option State :=
  match i with
  | .sramSingle t off => if s.tileHere t = true ∧ off < 2 ^ 19 then some (s.plant (spad t off) true) else none
  | .sramUncorrectable t off => if s.tileHere t = true ∧ off < 2 ^ 19 then some (s.plant (spad t off) false) else none
  | .hbmSingle a => if a < 2 ^ 40 ∧ s.diePresent (dieOfStack (a / 2 ^ 36)) = true then some (s.plant a true) else none
  | .hbmUncorrectable a => if a < 2 ^ 40 ∧ s.diePresent (dieOfStack (a / 2 ^ 36)) = true then some (s.plant a false) else none
  | .linkCrc t d =>
    if t < 4096 ∧ (neighbour t d.val).isSome = true then
      some (s.setRouter t { s.router t with crcNext := nins (s.router t).crcNext d.val })
    else none
  | .checker t again => if s.tileHere t = true then some (s.updTile t fun x => { x with mismatch := if again then .fails .all else .passes }) else none
  | .residue c again => if c < 512 ∧ s.diePresent (dieOf c) = true then some (s.updCluster c fun x => { x with residue := some (if again then .all else .passes) }) else none

def execInject (seq : BitVec 16) (i : Injection) (s : State) : Host.Outcome State Fault Refusal :=
  s.command 0x16 seq fun s =>
    match s.injected i with
    | some s' => s'.finish 0 []
    | none => s.finish 1 []

/-! ## Errors of the hardware itself (R388, R395) -/

/-- A request or a signal that an operation's source awaits an answer to, rather than an answer itself. -/
def isRequest (f : Flit) : Bool := !planeB f.op || f.op == .signal || f.op == .wake

/-- A flit lost in an I/O die's buffers, as its operation's end with class 0x03 (Table 22.1, R397): an answer goes on as a
refusal, in the place of what is lost; the source of a request is refused. -/
def lostAnswer (f : Flit) : Flit :=
  { f with op := .nak, flast := 0, fidx := 0, reason := .link, cls := 3, origin := originOf f.home, sigref := false, count := 0, data := [] }

/-- A flit that cannot go on is refused to its source, an answer too, which no operation awaits; a refusal that cannot is lost.
origin: where the class arises. -/
def State.returnNak (s : State) (d spkg : Nat) (f : Flit) (why : Reason) (cls origin : Nat) : State :=
  let g : Flit := { f with op := .nak, ans := f.op, src := .io d, home := f.src, reason := why, cls := cls, origin := origin,
                           flast := 0, count := if f.flast = 0 then 0 else f.fidx + 1, sigref := false, crcBad := false, age := 0 }
  if f.op == .nak then s
  else if spkg = s.pkg then s.sendHome (.io d) f.src { g with dpkg := none }
  else
    let x := s.ioDie d
    s.setIo d { x with out := x.out ++ [({ g with dpkg := some spkg }, s.pkg, 0)] }

/-- A flit that waits for the I/O die's registers or proxies (i from 0), or to leave the package (after those), is lost. Die
4 + d of the event stands for I/O die d (log 79). -/
def State.ioBufferError (s : State) (d : Nat) (planeB : Bool) (i : Nat) : State :=
  let x := s.ioDie d
  let l := if planeB then x.inqB else x.inq
  let here := fun (s : State) => s.event 1 4 3 (4 + d % 2) 0 0
  match l[i]? with
  | some f =>
    let rest := l.take i ++ (if isRequest f then [] else [lostAnswer f]) ++ l.drop (i + 1)
    let s := here (s.setIo d (if planeB then { x with inqB := rest } else { x with inq := rest }))
    if isRequest f then s.nakWith (.io d) f .link (reasonClass .link) else s
  | none =>
    let j := i - l.length
    match x.out[j]? with
    | none => s
    | some (f, spkg, hops) =>
      let rest := x.out.take j ++ (if isRequest f then [] else [(lostAnswer f, spkg, hops)]) ++ x.out.drop (j + 1)
      let s := here (s.setIo d { x with out := rest })
      if !isRequest f then s
      else if spkg == s.pkg then s.nakWith (.io d) f .link (reasonClass .link)
      else s.returnNak d spkg f .link (reasonClass .link) (originIo d)

/-- An error of the hardware (R388): stored errors wait for the read that finds them, checker mismatches for the next
execution; what cannot be carried as a value fences; a unit that fails for good awaits its repair (R399). -/
def State.hardwareError (s : State) (e : HwError) : State :=
  match e with
  | .word a single => s.plant a single
  | .pairTag a => if isSpad a then { s with errTag := nset s.errTag (a / 16) true } else s
  | .store c u single => s.updCluster c fun x =>
      if single then { x with storeOne := nset x.storeOne (u / 2) true } else { x with storeUnc := nset x.storeUnc (u / 2) true }
  | .bank c i w single => s.updCluster c fun x =>
      match x.bank[i]? with
      | none => x
      | some b => { x with bank := x.bank.map fun y => if y.order = b.order then
          (if single then { y with one := nset y.one w true } else { y with unc := nset y.unc w true }) else y }
  | .staging c i => s.updCluster c fun x => { x with staging := x.staging.zipIdx.map fun y => if y.2 = i then { y.1 with bad := true } else y.1 }
  | .checker t second => s.updTile t fun x => { x with mismatch := match second with | some f => .fails f | none => .passes }
  | .residue c r => s.updCluster c fun x => { x with residue := some r }
  | .link t d => s.setRouter t { s.router t with crcNext := nins (s.router t).crcNext d }
  | .control c cause => { s with agenda := s.agenda ++ [Turn.fence (s.rectOf c) cause] }
  | .ioBuffer d b i => s.ioBufferError d b i
  | .hostLink l => { s with evo := { s.evo with linkErrors := s.evo.linkErrors ++ [l.val] } }
  | .hard k u a => { s with evo := { s.evo with worn := s.evo.worn ++ [(k, u, a)] } }

/-! ## Clearing clusters for a repair (R400, R401) -/

/-- Every region that holds one of the clusters is pre-empted; one that cannot be saved is ended as KILL ends it; a launch
placed and not yet loaded goes back to the queue. -/
def State.vacate (s : State) (p : Nat → Bool) : State :=
  (s.launches.filter fun l => LaunchPhase.holds l.phase && l.clusters.any p).foldl (fun s l =>
    match l.phase with
    | .placed => s.updLaunch l.id fun l => { l with phase := .queued }
    | .running =>
      let x := s.select l
      if x.1 then x.2 else x.2.killLaunch l
    | _ => s) s

/-- A region still holds one of the clusters. -/
def State.occupied (s : State) (p : Nat → Bool) : Bool := s.launches.any fun l => LaunchPhase.holds l.phase && l.clusters.any p

/-- Every region is asked to be pre-empted, and a launch whose region has not started goes back to the queue. A region for
which no save area qualifies cannot be pre-empted (R359), nor one of firmware context 0 (R413). -/
def State.preemptAll (s : State) : State :=
  let s : State := { s with launches := s.launches.map fun l =>
    if l.phase = .placed ∧ (s.ctxOf l.ctx).firmware = false then { l with phase := .queued } else l }
  (s.launches.filter fun l => l.phase == .running).foldl (fun s l => (s.select l).2) s

/-! ## REMAP and HBMPPR (R399, R400): begun by their commands, ended by REPAIR_DONE -/

/-- Clusters of a die in logical columns from p on. -/
def columnsFrom (d p : Nat) (c : Nat) : Bool := dieOf c == d && decide (p ≤ c % 16 % 8)

def execRemap (seq : BitVec 16) (die col : Nat) (s : State) : Host.Outcome State Fault Refusal := s.orWait fun s =>
  s.command 0x12 seq fun s =>
    if 4 ≤ die ∨ 8 < col ∨ s.die die = .absent ∨ s.die die = .fusedOff then s.finish 1 []
    else if s.repairing (dieItem die) then s.finish 2 []
    else if mget 0 s.evo.columns die ≠ 0 then s.finish 3 []
    else
      let s : State := { s with evo := { s.evo with busy := true, remapPending := some (die, col) } }
      (s.vacate (columnsFrom die col)).setRepairing (dieItem die) true

def execHbmppr (seq : BitVec 16) (stack channel row : Nat) (s : State) : Host.Outcome State Fault Refusal :=
  s.command 0x13 seq fun s =>
    let c := stack * 32 + channel
    if 16 ≤ stack ∨ 32 ≤ channel ∨ 2 ^ 25 ≤ row ∨ s.diePresent (dieOfStack stack) = false then s.finish 1 []
    else if s.repairing (channelItem c) || s.repairing (dieItem (dieOfStack stack)) then s.finish 2 []
    else if Config.hbmSpareRows ≤ mget 0 s.evo.ppr c then s.finish 3 []
    else { s with evo := { s.evo with busy := true } }.setRepairing (channelItem c) true

/-- A unit's next spare in use, with its entry in the spare map (R406). -/
def State.useSpare (s : State) (kind unit : Nat) : State :=
  let x : Spare := { kind := kind, unit := unit, index := (s.freeSpare kind unit).getD 0 }
  { s with evo := { s.evo with spares := s.evo.spares ++ [x], spareMap := s.evo.spareMap ++ [x] } }

/-- The end of a repair, recorded (R404). -/
def State.repairEvent (s : State) (ok : Bool) (kind unit : Nat) : State := s.event (if ok then 4 else 5) kind 0 unit 0 0

/-- A port's links on both planes carry flits again. -/
def Router.mend (r : Router) (d : Nat) : Router := { r with lost := ndel (ndel r.lost (linkKey d false)) (linkKey d true) }

/-- A mesh link carries flits again, on both planes. -/
def State.mendLink (s : State) (t d : Nat) : State :=
  match neighbour t d with
  | none => s
  | some u =>
    let s := s.setRouter t ((s.router t).mend d)
    s.setRouter u ((s.router u).mend (opposite d))

/-- A link whose spare fails is lost for good: the rectangles of both routers are fenced. -/
def State.giveUpLink (s : State) (t d : Nat) : State :=
  match neighbour t d with
  | none => s
  | some u =>
    let a := s.rectOf (clusterOf t)
    let b := s.rectOf (clusterOf u)
    { s with agenda := s.agenda ++ .fence a .meshLink :: (if a = b then [] else [.fence b .meshLink]) }

/-- The cluster that a wear unit belongs to, if it shifts with its column, and the step of its number from one column to the next
(log 6). -/
def unitCluster (kind unit : Nat) : Option Nat :=
  match kind with
  | 0 => some (if unit < 65536 then clusterOf (unit / 16) else if unit < 66048 then unit - 65536 else unit - 66048)
  | 2 => if 16384 ≤ unit ∨ crossing (unit / 4) (unit % 4) = true then none else some (clusterOf (unit / 4))
  | 3 => some unit
  | _ => none

def unitStep (kind unit : Nat) : Nat :=
  match kind with
  | 0 => if unit < 65536 then 64 else 1
  | 2 => 16
  | _ => 1

/-- Units of the column that a die does not use are numbered from here on, as its column 0 is (log 6). -/
def idleUnit : Nat := 2 ^ 20

/-- The number of a wear unit after logical columns p on of die d have moved to the next physical column. -/
def shiftedUnit (d p kind unit : Nat) : Nat :=
  let u := unit % idleUnit
  match unitCluster kind u with
  | none => unit
  | some c =>
    let col := c % 16 % 8
    let st := unitStep kind u
    if dieOf c ≠ d then unit
    else if idleUnit ≤ unit then u - col * st + 7 * st
    else if col < p then unit
    else if col = p then idleUnit + (u - col * st)
    else u - st

/-- The number before such a move of the unit that has this number after it. -/
def unshiftedUnit (d p kind unit : Nat) : Nat :=
  let u := unit % idleUnit
  match unitCluster kind u with
  | none => unit
  | some c =>
    let col := c % 16 % 8
    let st := unitStep kind u
    if dieOf c ≠ d then unit
    else if idleUnit ≤ unit then u - col * st + p * st
    else if col < p then unit
    else if col = 7 then idleUnit + (u - col * st)
    else u + st

/-- Wear counters under other unit numbers. -/
def renumber (f : Nat → Nat → Nat) (wear : SMap Wear) : SMap Wear :=
  wear.foldl (fun m x => mset {} m (wearKey (x.1 % 4) (f (x.1 % 4) (x.1 / 4))) x.2) []

/-- The link between two columns that a shift brings side by side is a new one. -/
def newLink (d p t dir : Nat) : Bool :=
  let col := fun (u : Nat) => clusterOf u % 16 % 8
  match neighbour t dir with
  | some u => dieOf (clusterOf t) == d && dieOf (clusterOf u) == d &&
      ((decide (col t < p) && decide (p ≤ col u)) || (decide (col u < p) && decide (p ≤ col t)))
  | none => false

/-- Lost links of a router after the shift: those of the hardware that it has now, but for its die crossings, which stay
with their place (R397, R400). -/
def State.shiftedLost (s : State) (d p t : Nat) : List Nat :=
  let own := (s.router t).lost
  let col := clusterOf t % 16 % 8
  if dieOf (clusterOf t) ≠ d ∨ col + 1 < p then own
  else if col < p then own.filter fun k => !newLink d p t (k % 4)
  else
    let from_ := if col = 7 then [] else (s.router (t + 4)).lost.filter fun k => !crossing (t + 4) (k % 4) && !newLink d p t (k % 4)
    (own.filter fun k => crossing t (k % 4)) ++ from_

/-- Wear counters and spares in force go with their hardware when columns of a die shift; entries of the spare map keep the numbers
they were made with (R400, R406). -/
def Evodon.shiftUnits (e : Evodon) (d p : Nat) : Evodon :=
  { e with wear := renumber (shiftedUnit d p) e.wear,
           spares := e.spares.map fun x => if x.kind < 4 then { x with unit := shiftedUnit d p x.kind x.unit } else x }

/-- The shift of columns (R400 step 3): lost links go with their hardware too. -/
def State.shiftColumns (s : State) (d p : Nat) : State :=
  let lost := (List.range 4096).map fun t => (t, s.shiftedLost d p t)
  lost.foldl (fun s x => if (s.router x.1).lost = x.2 then s else s.setRouter x.1 { s.router x.1 with lost := x.2 })
    { s with evo := s.evo.shiftUnits d p }

/-- The end of a REMAP: the columns are shifted onto the die's spare. -/
def State.remapDone (s : State) (d p : Nat) (ok : Bool) : State :=
  let s : State := { s with evo := { s.evo with
    remapPending := none, columns := if ok then mput s.evo.columns d (p + 1) else s.evo.columns } }
  let s := if ok then (s.shiftColumns d p).useSpare 6 (d * 9 + p) else s
  ((s.setRepairing (dieItem d) false).repairEvent ok 6 (d * 9 + p)).finish (if ok then 0 else 3) []

/-- A DQ lane of a channel moves onto the channel's next spare; which lane it is no rule gives (log 5). -/
def State.spareLane (s : State) (c : Nat) : State :=
  match (List.range 4).find? fun j => !bit (mget 0 (s.train c).rep j).toNat 63 with
  | some j =>
    let d := s.draw
    d.2.setTrain c { d.2.train c with rep := mset 0 (d.2.train c).rep j (BitVec.ofNat 64 (2 ^ 63 + d.1.toNat % 64)) }
  | none => s

/-- The end of an automatic repair (R399): its unit is back, on its spare where the repair ended with OK. -/
def State.autoDone (s : State) (kind unit : Nat) (ok : Bool) : State :=
  let s := (s.setAuto kind unit false).repairEvent ok kind unit
  match kind with
  | 1 => (if ok then s.spareLane unit else s).setRepairing (channelItem unit) false
  | 2 => if ok then (s.useSpare 2 unit).mendLink (unit / 4) (unit % 4) else s.giveUpLink (unit / 4) (unit % 4)
  | 0 =>
    let s := if ok then s.useSpare 0 unit else s
    if unit < 65536 then s.updTile (unit / 16) fun x => { x with mending := ndel x.mending (unit % 16) }
    else if unit < 66048 then s.updCluster (unit - 65536) fun x => { x with mending := ndel x.mending 0 }
    else s.updCluster (unit - 66048) fun x => { x with mending := ndel x.mending 1 }
  | _ => if ok then s.useSpare kind unit else s

/-- REPAIR_DONE: the repair of a unit ends, and with it the command that asked for it. A repair that has not begun has no
end. -/
def execRepairDone (u : WearUnit) (ok : Bool) (s : State) : Host.Outcome State Fault Refusal :=
  if s.auto u.kind.val u.unit then .next (s.autoDone u.kind.val u.unit ok)
  else
    match u.kind with
    | 1 =>
      if s.repairing (channelItem u.unit) && s.evo.busy && s.evo.cmdCode == 0x13 then
        (let s : State := if ok then { s with evo := { s.evo with ppr := mset 0 s.evo.ppr u.unit (mget 0 s.evo.ppr u.unit + 1) } } else s
         .next (((s.setRepairing (channelItem u.unit) false).repairEvent ok 1 u.unit).finish (if ok then 0 else 3) []))
      else .next s
    | 3 =>
      match s.evo.remapPending with
      | some (d, p) => .next (if dieOf u.unit ≠ d ∨ s.occupied (columnsFrom d p) = true then s else s.remapDone d p ok)
      | none => .next s
    | _ => .next s

/-! ## OFFLINE and ONLINE (R401) -/

/-- Leaves below a table, with their places, and the tables themselves, as Evodon reads them; an entry that cannot be read, and a
table on a stack that is not there, lead to none (R2, log 92). -/
def State.tableLeaves (s : State) (table : Nat) : Nat → Nat → (List (Nat × Nat) × List Nat) × State
  | 0, _ => (([], []), s)
  | fuel + 1, level =>
    if 2 ^ 40 ≤ table ∨ s.diePresent (dieOfStack (table / 2 ^ 36)) = false then (([], [table]), s)
    else (List.range (tableBytes level / 8)).foldl (fun acc i =>
      let a := table + 8 * i
      let r := acc.2.entryRead a
      let w := r.1.1
      if r.1.2.isSome || !bit w 63 || entryMalformed level w then (acc.1, r.2)
      else if bit w 62 then ((acc.1.1 ++ [(a, w)], acc.1.2), r.2)
      else
        let q := State.tableLeaves r.2 (bits w 39 8 * 256) fuel (level - 1)
        ((acc.1.1 ++ q.1.1, acc.1.2 ++ q.1.2), q.2)) (([], [table]), s)

/-- The same for every valid context. -/
def State.allLeaves (s : State) : (List (Nat × Nat) × List Nat) × State :=
  (s.ctxs.filter fun x => x.2.valid && !x.2.firmware).foldl (fun acc x =>
    let r := acc.2.tableLeaves x.2.ptroot 4 3
    ((acc.1.1 ++ r.1.1, acc.1.2 ++ r.1.2), r.2)) (([], []), s)

/-- A die takes another state. -/
def State.setDie (s : State) (d : Nat) (x : DieState) : State := { s with dies := s.dies.set d x }

/-- The set of present ports has changed, or will not: threads that parked at a TLBINV issue it again (R203). -/
def State.wakeTlbinv (s : State) : State :=
  s.tiles.foldl (fun s y => (List.range 8).foldl (fun s h =>
    if (s.thr y.1 h).wait == .tlbinv then s.resume y.1 h else s) s) s

/-- The end of an OFFLINE whose regions are gone. -/
def State.offlineDone (s : State) (d : Nat) (force : Bool) : State :=
  let s : State := { s with evo := { s.evo with offlinePending := none } }
  let s := s.wakeTlbinv
  let s := s.setRepairing (dieItem d) false
  let all := s.allLeaves
  let s := all.2
  let mine := all.1.1.filter fun x => dieOfStack (bits x.2 39 36) == d
  let tables := all.1.2.filter fun a => dieOfStack (a / 2 ^ 36 % 16) == d
  if !force then
    (if mine.isEmpty && tables.isEmpty then (s.setDie d .offline).finish 0 [] else s.finish 4 [])
  else
    let s := mine.foldl (fun s x => s.putWord (s.slotLoad 0) x.1 (x.2 ||| 2 ^ 57)) s
    let s : State := { s with clusters := s.clusters.map fun x => (x.1, { x.2 with tlb := [] }) }
    let s := s.setDie d .offline
    (if mine.isEmpty then s else s.event 7 4 0 d mine.length 0).finish 0 []

/-- OFFLINE: the die's regions are pre-empted first; the set of present ports changes only while no TLBINV is
outstanding (R203). -/
def execOffline (seq : BitVec 16) (die : Nat) (force : Bool) (s : State) : Host.Outcome State Fault Refusal :=
  if s.evo.offlinePending = some (die, force) ∧ s.evo.cmdSeq = seq then s.orWait fun s =>
    .next (if s.occupied (fun c => dieOf c == die) || !s.invals.isEmpty then s else s.offlineDone die force)
  else
    s.orWait fun s => s.command 0x14 seq fun s =>
      if 4 ≤ die ∨ s.die die ≠ .present then s.finish 1 []
      else if s.repairing (dieItem die) then s.finish 2 []
      else
        let s : State := { s with evo := { s.evo with busy := true, offlinePending := some (die, force) } }
        (s.vacate fun c => dieOf c == die).setRepairing (dieItem die) true

/-- The end of an ONLINE. -/
def State.onlineDone (s : State) (d : Nat) : State :=
  let s : State := { s with evo := { s.evo with onlinePending := none } }
  ((s.wakeTlbinv.setRepairing (dieItem d) false).setDie d .present).finish 0 []

/-- ONLINE: it too changes the set of present ports only while no TLBINV is outstanding (R203). -/
def execOnline (seq : BitVec 16) (die : Nat) (s : State) : Host.Outcome State Fault Refusal :=
  if s.evo.onlinePending = some die ∧ s.evo.cmdSeq = seq then .next (if s.invals.isEmpty then s.onlineDone die else s)
  else
    s.command 0x15 seq fun s =>
      if 4 ≤ die ∨ s.die die ≠ .offline then s.finish 1 []
      else if s.repairing (dieItem die) then s.finish 2 []
      else if s.invals.isEmpty then s.onlineDone die
      else { s with evo := { s.evo with busy := true, onlinePending := some die } }.setRepairing (dieItem die) true

/-! ## Checkpoint (R416, R417) -/

/-- Regions that hold clusters and whose threads have started. -/
def State.resident (s : State) : List Launch :=
  s.launches.filter fun l => l.phase == .running || l.phase == .halting || l.phase == .settled

/-- The key digest over the slots. -/
def State.keyDigest (s : State) : List Byte :=
  shake256 ((List.range 8192).flatMap fun i => match mfind s.keys i with
    | some k => fitBytes 16 (xtsEncrypt k.dataKey k.tweakKey 0 (List.replicate 16 0))
    | none => List.replicate 16 0)

/-- CKPT: rings and placing stop, and every resident region is asked to halt; the windows close once all have settled. -/
def execCkpt (seq : BitVec 16) (base len : Nat) (s : State) : Host.Outcome State Fault Refusal :=
  s.command 5 seq fun s =>
    let n := (s.resident.map fun l => l.w * l.h).foldl (· + ·) 0
    if len < 2 ^ 40 + 2 ^ 31 + 0x1000 + n * (0x1000 + 0x70_0000) then s.finish 1 []
    else
      { s with ckpt := some (seq, base), evo := { s.evo with busy := true },
               launches := s.launches.map fun l => if l.phase = .running then { l with phase := .halting } else l }

/-- Word i of a region's image (R360): its header with DONE set, then its clusters. -/
def State.imageAt (s : State) (draw : Nat) (l : Launch) (i : Nat) : Nat :=
  if i < 0x200 then (if i = 11 then 1 else l.header.getD i 0)
  else
    match l.clusters[(i - 0x200) / 0xE_0000]? with
    | some c => s.clusterWord draw c ((i - 0x200) % 0xE_0000)
    | none => 0

/-- A settled region as a checkpoint holds it. -/
def State.savedRegion (s : State) (l : Launch) : SavedRegion :=
  { launch := l, image := s.regionImage l,
    words := (List.range (0x200 + l.w * l.h * 0xE_0000)).filterMap fun i =>
      let v := s.imageAt s.free l i
      if v = 0 then none else some (i, v) }

/-- Launches in the order of their ids. -/
def insId (x : Launch) : List Launch → List Launch
  | [] => [x]
  | y :: ys => if x.id < y.id then x :: y :: ys else y :: insId x ys

/-- The layout of Table 23.9, from the package as it stands. -/
def State.checkpoint (s : State) (base : Nat) : Checkpoint :=
  let ls := (s.launches.filter fun l => l.phase == .settled).foldl (fun a l => insId l a) []
  { base := base, images := ls.length, part := Config.partId, pkg := s.pkg, chain := chainBytes s.evo.chain, digest := s.keyDigest,
    hbm := s.mem.filter (fun c => !isSpad c.1), hbmPsn := s.psn.filter (fun w => !isSpad (8 * w)), keyOf := s.keyOf,
    keyUsed := s.keyUsed, regions := ls.map s.savedRegion }

/-- Bytes that a checkpoint takes in the tier (R416). -/
def Checkpoint.bytes (c : Checkpoint) : Nat :=
  2 ^ 40 + 2 ^ 31 + 0x1000 + (c.regions.map fun r => 0x1000 + r.launch.w * r.launch.h * 0x70_0000).foldl (· + ·) 0

/-- A byte of a burst as its stack holds it (R354). -/
def Checkpoint.storedByte (c : Checkpoint) (a : Nat) : Byte :=
  let load := mget 0 c.keyOf (a / 64)
  let k := (c.keyUsed.find? fun k => k.load == load).getD { load := load, dataKey := 0, tweakKey := 0 }
  (xtsEncrypt k.dataKey k.tweakKey (a / 64) ((List.range 64).map fun i => mget 0 c.hbm (a / 64 * 64 + i))).getD (a % 64) 0

/-- Byte i of the region images, which lie one behind the other. -/
def imageByte : List SavedRegion → Nat → Byte
  | [], _ => 0
  | r :: rs, i =>
    let n := 0x1000 + r.launch.w * r.launch.h * 0x70_0000
    if i < n then BitVec.ofNat 8 (mget 0 r.words (i / 8) / 2 ^ (8 * (i % 8))) else imageByte rs (i - n)

/-- Byte o of the tier from the checkpoint's base on (Table 23.9); a burst is marked where a word of it is poisoned (log 57). -/
def Checkpoint.byteAt (c : Checkpoint) (o : Nat) : Byte :=
  if o < 8 then (natLe 8 c.magic).getD o 0
  else if o < 0x1000 then Config.tierHeader c.part c.pkg c.images c.chain c.digest o
  else if o < 0x1000 + 2 ^ 40 then c.storedByte (o - 0x1000)
  else if o < 0x1000 + 2 ^ 40 + 2 ^ 31 then
    let b := (o - (0x1000 + 2 ^ 40)) * 8
    BitVec.ofNat 8 (((List.range 8).map fun i => boolNat (c.hbmPsn.any fun w => w / 8 == b + i) * 2 ^ i).foldl (· + ·) 0)
  else imageByte c.regions (o - (0x1000 + 2 ^ 40 + 2 ^ 31))

/-- Two checkpoints share a place of the tier: the later overwrites the earlier, which no RESTORE takes any more. -/
def Checkpoint.overlaps (c x : Checkpoint) : Bool := decide (c.base < x.base + x.bytes) && decide (x.base < c.base + c.bytes)

/-- CHECKPOINT_WRITE_DONE: the layout is in the tier; the regions go on where they stood, but one whose pre-emption had begun, which
goes on to its save, and those that a die at 115 degrees has pre-empted now (R419). The duration is reported. -/
def execCheckpointWriteDone (micros : Nat) (s : State) : Host.Outcome State Fault Refusal := s.orWait fun s =>
  match s.ckpt with
  | none => .next s
  | some (_, base) =>
    if s.launches.any fun l => l.phase == .running || l.phase == .halting then .next s
    else
      let s := (s.resident.flatMap fun l => l.clusters).foldl (fun s c => s.lookCluster c) s
      let c := s.checkpoint base
      let s : State := { s with ckpt := none, free := s.free + 1, tier := c :: s.tier.filter fun x => !x.overlaps c }
      let s := (c.regions.filter fun r => r.launch.dirEntry == 0).foldl (fun s r => s.resumeRegion r.launch) s
      .next ((if s.evo.veryHot then s.preemptAll else s).finish 0 (natLe 8 micros))

/-- A region of a checkpoint placed at its recorded origin and restored from its image (R362, R417); a save area that the restored
HBM has it hold is free again (R359). -/
def State.bringBack (s : State) (r : SavedRegion) : State :=
  let l := r.launch
  let n := s.orders
  let s : State := { s with
    orders := n + 1,
    launches := s.launches.filter (fun x => x.id != l.id) ++ [{ l with phase := .placed, started := n, dirEntry := 0, area := 0 }] }
  let s := s.freeArea l
  if l.clusters.all (s.placeable [l.id] l) then
    match s.restoreRegion { l with area := 0 } r.image (.tier r.words) with
    | some s => (s.updLaunch l.id fun l => { l with phase := .running }).writeStatus l.status l.id .running l.origin
    | none => s.killLaunch { l with phase := .placed }
  else s.killLaunch l

/-- The tier at a base, if RESTORE accepts it: no region is resident, and its header is this part's, under the keys as they are
loaded now. -/
def State.tierAt (s : State) (base : Nat) : Option Checkpoint :=
  match s.tier.find? fun c => c.base == base with
  | none => none
  | some c =>
    if (s.launches.any fun l => LaunchPhase.holds l.phase) || c.magic != 0x544B_5043 || c.part != Config.partId ||
        c.digest != s.keyDigest then none
    else some c

/-- Every stack and poison mark is written back, with fresh check bits, and the regions are placed. -/
def State.restored (s : State) (c : Checkpoint) : State :=
  let s : State := { s with
    mem := c.hbm ++ s.mem.filter (fun x => isSpad x.1), psn := c.hbmPsn ++ s.psn.filter (fun w => isSpad (8 * w)), keyOf := c.keyOf,
    errUnc := s.errUnc.filter (fun w => isSpad (8 * w)), errOne := s.errOne.filter (fun w => isSpad (8 * w)),
    evo := { s.evo with restorePending := none } }
  (c.regions.foldl (fun s r => s.bringBack r) s).finish 0 []

/-- RESTORE; while a die is too hot for any region to be placed, an accepted one waits (R419). -/
def execRestore (seq : BitVec 16) (base : Nat) (s : State) : Host.Outcome State Fault Refusal :=
  s.command 6 seq fun s =>
    match s.tierAt base with
    | none => s.finish 1 []
    | some c =>
      if s.evo.veryHot then { s with evo := { s.evo with busy := true, restorePending := some base } } else s.restored c

/-- An accepted RESTORE that has waited. -/
def State.restoring (s : State) : State :=
  match s.evo.restorePending with
  | none => s
  | some base =>
    if s.evo.veryHot then s
    else
      match s.tierAt base with
      | some c => s.restored c
      | none => { s with evo := { s.evo with restorePending := none } }.finish 1 []

/-! ## Training tests (R414) -/

/-- TRPASS_TEST: a read of TRPASS runs one test, and gives the lanes that passed; a device thread's read that waits at
the registers is answered with them. -/
def execTrpassTest (stack channel : Nat) (passed : Word) (s : State) : Host.Outcome State Fault Refusal :=
  let c := stack * 32 + channel
  let s := s.setTrain c { s.train c with pass := passed }
  match takeFirst (fun f : Flit => f.op == .load && f.size == 8 && regAt (gaAddr f.ga) == some (.trpass c)) (s.ioDie 0).inq with
  | some (f, rest) => .next ((s.setIo 0 { s.ioDie 0 with inq := rest }).respond (.io 0) f { words := [(passed.toNat, 0)] })
  | none => .next s

/-! ## Power and heat (R419) -/

def execPwrlim (seq : BitVec 16) (watts : Nat) (s : State) : Host.Outcome State Fault Refusal :=
  s.command 7 seq fun s =>
    if 1000 ≤ watts ∧ watts ≤ 3600 then { s with evo := { s.evo with limit := watts } }.finish 0 [] else s.finish 1 []

/-- A die is at 105 degrees or more. -/
def Evodon.hot (e : Evodon) : Bool := e.temps.any fun x => decide (105 ≤ x.2)

/-- POWER_MEASUREMENT: the matrix duty, in sixteenths, steps down above the limit and up while the power stays 5% under
it. -/
def execPowerMeasurement (watts : Nat) (s : State) : Host.Outcome State Fault Refusal :=
  let e := s.evo
  let duty :=
    if e.limit < watts then Nat.max 1 (e.duty - 1)
    else if 100 * watts ≤ 95 * e.limit && !e.hot then Nat.min 16 (e.duty + 1)
    else e.duty
  .next { s with evo := { e with duty := duty } }

/-- The package without power, but for what lasts as long as the part (Table 0.3, R392, R406, R410): which dies it has, the
spare map and the post-package repairs, the records of the event ring, the wear counters under the numbers that they have without
a remap, their marks, and the boot count; the CXL tier lies outside it (log 57). -/
def State.kept (s : State) (boots : Nat) : State :=
  { State.reset with
    agenda := s.agenda, free := s.free, pkg := s.pkg, dies := s.dies, tier := s.tier,
    evo := { State.reset.evo with boots := boots, wear := s.evo.columns.foldl (fun m x => renumber (unshiftedUnit x.1 (x.2 - 1)) m) s.evo.wear,
                                  wearCfg := s.evo.wearCfg.foldl (fun m x => mset {} m x.1 { mark := x.2.mark }) [], events := s.evo.events,
                                  spareMap := s.evo.spareMap, ppr := s.evo.ppr } }

/-- DIE_TEMPERATURE: 105 sets the duty to 1/16, 115 pre-empts every region and stops placing until every die is below
95, 125 powers the module off with all its state. -/
def execDieTemperature (die celsius : Nat) (s : State) : Host.Outcome State Fault Refusal := s.orWait fun s =>
  if 125 ≤ celsius then .next { s.kept s.evo.boots with powered := false }
  else
    let temps := mset 0 s.evo.temps die celsius
    let tooHot := decide (115 ≤ celsius)
    let cool := temps.all fun x => decide (x.2 < 95)
    let s : State := { s with evo := { s.evo with
      temps := temps, duty := if 105 ≤ celsius then 1 else s.evo.duty,
      veryHot := tooHot || (s.evo.veryHot && !cool) } }
    .next (if tooHot then s.preemptAll else s)

/-! ## Commands started by a write of MBCMD (R411, R412) -/

/-- What an INJECT of a kind names (R403). -/
def injectionOf (kind a b again : Nat) : Option Injection :=
  match kind with
  | 0 => some (.sramSingle a b)
  | 1 => some (.sramUncorrectable a b)
  | 2 => some (.hbmSingle a)
  | 3 => some (.hbmUncorrectable a)
  | 4 => if b < 4 then some (.linkCrc a (Fin.ofNat 4 b)) else none
  | 5 => some (.checker a (again != 0))
  | 6 => some (.residue a (again != 0))
  | _ => none

/-- The command of a code of Tables 22.7 and 23.5 with the fields of its arguments, in the order in which the tables name them
(log 19); a field that names nothing is answered BADARG. -/
def State.mailCommand (s : State) (code : Nat) (seq : BitVec 16) (f : Nat → Nat) : Host.Outcome State Fault Refusal :=
  let bad := s.command code seq fun s => s.finish 1 []
  match code with
  | 0x01 => execQuote seq (BitVec.ofNat 8 (f 0)) (BitVec.ofNat 8 (f 1)) (natLe 64 (f 2)) s
  | 0x02 => execKeyload seq (f 0) (f 1) (f 2) s
  | 0x03 => execKeyerase seq (f 0) s
  | 0x04 => execKeyenroll seq (f 0) (natLe 1793 (f 1)) (f 2) (natLe 1280 (f 3)) s
  | 0x05 => execCkpt seq (f 0) (f 1) s
  | 0x06 => execRestore seq (f 0) s
  | 0x07 => execPwrlim seq (f 0) s
  | 0x10 =>
    if f 0 ≠ 0 then execFence seq (.cluster (f 1)) s
    else if f 1 < 64 then execFence seq (.crect (Fin.ofNat 64 (f 1))) s
    else bad
  | 0x12 => execRemap seq (f 0) (f 1) s
  | 0x13 => execHbmppr seq (f 0) (f 1) (f 2) s
  | 0x14 => execOffline seq (f 0) (f 1 != 0) s
  | 0x15 => execOnline seq (f 0) s
  | 0x16 => (match injectionOf (f 0) (f 1) (f 2) (f 3) with | some i => execInject seq i s | none => bad)
  | 0x17 => if f 0 < 4 then execReadwear seq { kind := Fin.ofNat 4 (f 0), unit := f 1 } s else bad
  | _ => bad

/-! ## Signed objects (R407) -/

/-- A signed object verifies under a key: its signature block stands at its end. -/
def blobVerifies (key blob : List Byte) : Bool :=
  let off := blob.length - 0x540
  let blk := blob.drop off
  decide (0x540 ≤ blob.length) && leNat (blk.take 4) == 0x4753_4B56 &&
    Config.falconVerify key (shake256 (blob.take off)) ((blk.drop 0x40).take 1280)

/-- Verification slot that an object's signature block names. -/
def blobSlot (blob : List Byte) : Nat := leNat (((blob.drop (blob.length - 0x540)).drop 4).take 2) % 16

/-- A configuration blob is offered: one that verifies is accepted, and extends the device chain (R407, R409). -/
def State.acceptConfig (s : State) (blob : List Byte) : State :=
  match s.verifyKey (blobSlot blob) with
  | none => s
  | some k =>
    if s.evo.ready && blobVerifies k blob then
      { s with evo := { s.evo with configs := s.evo.configs ++ [blob], chain := extendChain s.evo.chain (shake256 blob) } }
    else s

/-! ## Boot (R405, R406, R409, R413-R415) -/

/-- The spare map with an entry for each die that has been fused off since (R406). -/
def fusedMap (m : List Spare) (b : BootReport) : List Spare :=
  b.fusedDies.foldl (fun m d => if m.any fun x => x.kind == 4 && x.unit == d then m else m ++ [{ kind := 4, unit := d }]) m

/-- The dies after steps 2 and 3: missing ones stay missing, those with an entry of the map are fused off, whether or not its check
value holds, those whose links fail are offline. -/
def bootDies (old : List DieState) (m : List Spare) (b : BootReport) : List DieState :=
  (List.range 4).map fun d =>
    if old.getD d .absent = .absent then .absent
    else if m.any fun x => x.kind == 4 && x.unit == d then .fusedOff
    else if b.failedDies.contains d then .offline
    else .present

/-- The bytes of a spare map in Evodon's store: its entries, then their check value (R406, log 57). -/
def mapStore (m : List Spare) : List Byte :=
  let l := Config.mapBytes (m.map fun x => (x.kind, x.unit, x.index))
  l ++ shake256 l

/-- The map that Evodon reads passes its check, its last 64 bytes being SHAKE256 of the rest, and is the map that its repairs have
written: what has changed in the store fails (log 57). -/
def mapOk (m : List Spare) (b : BootReport) : Bool :=
  b.spareMap.drop (b.spareMap.length - 64) == shake256 (b.spareMap.take (b.spareMap.length - 64)) && b.spareMap == mapStore m

/-- The entries of the spare map in order: each is in force, but one that names a spare already named, which is recorded. A column
remapped out shifts the units that earlier entries name. -/
def State.applyMap (s : State) (l : List Spare) : State :=
  l.foldl (fun s x =>
    if s.spareUsed x.kind x.unit x.index || decide (spareCount (spareGroup x) ≤ x.index) then s.event 5 x.kind 0 x.unit 0 0
    else
      let e := { s.evo with spares := s.evo.spares ++ [x] }
      { s with evo := if x.kind = 6 then { e.shiftUnits (x.unit / 9) (x.unit % 9) with columns := mput e.columns (x.unit / 9) (x.unit % 9 + 1) } else e }) s

/-- An Atwald port's spare lane is in use. -/
def State.laneSpared (s : State) (p : Nat) : Bool := s.spareUsed 2 (16384 + 4 * p) 0

/-- POWER_ON_RESET: power-on reset and steps 1 to 3 of Table 23.1; what outlives power-on stays. Firmware context 0 then exists,
and Evodon goes on with step 4 (log 84). Firmware that does not verify leaves the device in reset. -/
def execPowerOnReset (b : BootReport) (s : State) : Host.Outcome State Fault Refusal :=
  let s0 := s.kept (s.evo.boots + 1)
  if !blobVerifies Config.rootKey b.firmware then .next { s0 with evo := { s0.evo with result := 5, inReset := true } }
  else
    let chain := extendChain (extendChain (extendChain [] (shake256 b.firmware)) (shake256 b.spareMap))
      (shake256 b.trainingImage)
    let m := fusedMap s0.evo.spareMap b
    let s1 : State := { s0 with
      dies := bootDies s.dies m b, evo := { s0.evo with chain := chain, trainingImage := b.trainingImage, spareMap := m } }
    let s2 := if mapOk s0.evo.spareMap b then s1.applyMap m else s1.event 5 4 0 0 0 0
    let s3 : State := { s2 with
      atwald := (List.range 64).foldl (fun m p => mset {} m p { spareUsed := s2.laneSpared p }) [],
      evo := { s2.evo with boot := some { report := b, left := (List.range 512).filter fun c => s2.diePresent (dieOfStack (c / 32)) } } }
    .next (s3.setCtx 0 { valid := true, firmware := true })

/-- The cluster at which a stack's channels are trained (R413). -/
def bootCluster (stack : Nat) : Nat := 4 * (stack % 8) * 16 + (if stack < 8 then 0 else 15)

/-- The record that Evodon hands over for a channel: one cluster of any die, the channel as its argument (log 84). -/
def bootRecord (c : Nat) : List Nat := [0, c, 0, 15 * 2 ^ 9, 0, 0, 0, 0]

/-- Evodon's boot with a channel trained, or failed. -/
def State.setBoot (s : State) (b : Boot) : State := { s with evo := { s.evo with boot := some b } }

/-- The training launch of a channel is handed to the sequencer through the firmware port, and placed (R413). -/
def State.bootHand (s : State) (b : Boot) (c : Nat) : State :=
  let s := s.accept 0 none (bootRecord c) (some s.evo.trainingImage)
  let id := s.launchIds
  let b := { b with left := b.left.filter fun x => x != c }
  match s.launch id with
  | none => s.setBoot { b with failed := nset b.failed c true }
  | some _ =>
    let k := bootCluster (c / 32)
    (s.updLaunch id fun l => { l with phase := .placed, cx := k % 16, cy := k / 16 }).setBoot { b with active := b.active ++ [(id, c)] }

/-- A training launch has ended: its channel is trained when TRRES0 is all ones, and each of its repairs is recorded (R415); it has
failed otherwise, or where a thread of it halted under R187, as DONE's INDEX counts (R332, R413). -/
def State.bootResult (s : State) (b : Boot) (id c : Nat) : State :=
  let t := s.train c
  let done := s.fwStatus.any fun x => x.1 == id && x.2.1 == Status.code .done && x.2.2 == 0
  let s := ((List.range 4).filter fun j => bit (mget 0 t.rep j).toNat 63).foldl (fun s _ => s.event 4 1 0 c 0 0) s
  s.setBoot { b with active := b.active.filter (fun x => x.1 != id),
                     failed := if done && t.res0 == -1 && !b.failed.contains c then b.failed else nset b.failed c true }

/-- A port as step 6 leaves it: a lane that fails uses the port's spare. -/
def State.bootPort (s : State) (b : BootReport) (p : Nat) : State :=
  let x := mget {} s.atwald p
  let set := fun (s : State) (y : Port) => { s with atwald := mset {} s.atwald p y }
  if b.downPorts.contains p || (b.spareLanePorts.contains p && x.spareUsed) then set s { x with down := true }
  else if b.spareLanePorts.contains p then
    ((set s { x with spareUsed := true }).useSpare 2 (16384 + 4 * p)).repairEvent true 2 (16384 + 4 * p)
  else s

/-- Steps 5 to 7: the stacks that failed are taken out with their dies, slot 0 receives its key, the usable stacks are zero, the
ports are trained, and the firmware context goes. -/
def State.bootEnd (s : State) (b : Boot) : State :=
  let n := s.evo.boots
  let bad := (b.failed.map fun c => dieOfStack (c / 32)) ++ b.report.badDies
  let k0 : KeyRec := { load := 0, dataKey := Config.bootDataKey n % 2 ^ 256, tweakKey := Config.bootTweakKey n % 2 ^ 256 }
  let s : State := { s with
    dies := s.dies.zipIdx.map fun x => if x.1 = .present ∧ bad.contains x.2 = true then .offline else x.1,
    keys := [(0, k0)], keyUsed := [k0], keyLoads := 0, keyOf := [],
    mem := s.mem.filter (fun c => isSpad c.1), psn := s.psn.filter (fun w => isSpad (8 * w)),
    tagged := s.tagged.filter (fun q => isSpad (16 * q)), errUnc := s.errUnc.filter (fun w => isSpad (8 * w)),
    errOne := s.errOne.filter (fun w => isSpad (8 * w)), fwStatus := [],
    evo := { s.evo with linksDown := b.report.downLinks } }
  let s := (List.range 64).foldl (fun s p => s.bootPort b.report p) s
  ({ s with evo := { s.evo with boot := none, ready := true } }).setCtx 0 {}

/-- BOOT: Evodon's next act of step 4, or once it has ended the steps after it. -/
def State.bootTurn (s : State) : State :=
  match s.evo.boot with
  | none => s
  | some b =>
    match b.active.find? fun x => (s.launch x.1).isNone with
    | some x => s.bootResult b x.1 x.2
    | none =>
      match b.left.find? fun c => !(b.active.any fun x => x.2 / 32 == c / 32) && s.freeBut [] (bootCluster (c / 32)) with
      | some c => s.bootHand b c
      | none => if b.left.isEmpty && b.active.isEmpty then s.bootEnd b else s

end Sys2Proof.Machine
end

