-- ==== Sys2Proof/Machine/HostIo.lean ====
section
/-! DEFINITION. What enters and leaves the package: BAR2 (R370-R373), routing between packages, Atwald frames, admission
and proxies (R375-R381), automatic repairs (R399), the Ethernet engines (R382, R383). -/
namespace Sys2Proof.Machine

/-! ## Ranges of HBM as an agent of an I/O die reaches them -/

/-- Where the bytes of a range lie, page by page: flat address, key load and number of bytes of each piece; or the way the
first page that is not reached ends. -/
inductive IoReach where
  | pieces (l : List (Nat × Nat × Nat))
  | stops (x : Xlate) (va : Nat)
  deriving DecidableEq, Repr

/-- Pages of 64 KiB from va on, n bytes in all, as supervisor accesses of a context (R349). fuel: pages. -/
def State.reach (s : State) (ctx : Nat) (write : Bool) (va n : Nat) : Nat → IoReach × State
  | 0 => (.pieces [], s)
  | fuel + 1 =>
    if n = 0 then (.pieces [], s)
    else
      let k := Nat.min n (2 ^ 16 - va % 2 ^ 16)
      let r := s.walk ctx va { write := write, read := !write, user := false }
      match r.1.1 with
      | .ok ppa slot _ =>
        let t := State.reach r.2 ctx write (va + k) (n - k) fuel
        (match t.1 with
          | .pieces l => .pieces ((ppa, r.2.slotLoad slot, k) :: l)
          | x => x, t.2)
      | x => (.stops x va, r.2)

def State.reachAll (s : State) (ctx : Nat) (write : Bool) (va n : Nat) : IoReach × State :=
  s.reach ctx write va n (n / 2 ^ 16 + 2)

/-- Words that n bytes from a touch. -/
def wordsOver (a n : Nat) : Nat := (a % 8 + n + 7) / 8

/-- Bytes of a range as read, and the class of the first poisoned word among them, plus one (0: none). -/
def State.readRange (s : State) (key a n : Nat) : (List Byte × Nat) × State :=
  let s := (s.meetRange a n).detectWords (a / 8 * 8) (wordsOver a n)
  let marks := (List.range (wordsOver a n)).map fun i => s.mark (a / 8 * 8 + 8 * i)
  ((s.keyedBytes key a n, (marks.find? (· != 0)).getD 0), s)

/-- Bytes written from a on: tags cleared, a poisoned word left as it is (R161, R372). -/
def State.writeRange (s : State) (key a : Nat) (l : List Byte) : State :=
  let lead := a % 8
  (s.meetRange a l.length).putWords key (a / 8 * 8) (List.replicate lead 0 ++ l) ((2 ^ l.length - 1) * 2 ^ lead) [] (wordsOver a l.length)

def State.readPieces (s : State) : List (Nat × Nat × Nat) → (List Byte × Nat) × State
  | [] => (([], 0), s)
  | (a, key, n) :: ps =>
    let r := s.readRange key a n
    let t := State.readPieces r.2 ps
    ((r.1.1 ++ t.1.1, if r.1.2 = 0 then t.1.2 else r.1.2), t.2)

def State.writePieces (s : State) (l : List Byte) : List (Nat × Nat × Nat) → State
  | [] => s
  | (a, key, n) :: ps => State.writePieces (s.writeRange key a (l.take n)) (l.drop n) ps

/-! ## BAR2 (R370, R372) -/

def accessSize : HostAccess → Nat
  | .read n => n
  | .write l => l.length

def accessWrites : HostAccess → Bool
  | .read _ => false
  | .write _ => true

/-- A read completes towards its link. -/
def State.complete (s : State) (link : Nat) (data : List Byte) (ep : Bool) : State :=
  { s with replies := s.replies ++ [{ link := link, data := data, ep := ep }] }

/-- A closed window: a write is discarded, a read gives all ones. -/
def State.closedAccess (s : State) (link : Nat) (acc : HostAccess) : State :=
  match acc with
  | .read n => s.complete link (List.replicate n 0xFF) false
  | .write _ => s

/-- An access at the places it reaches. -/
def State.openAccess (s : State) (link : Nat) (acc : HostAccess) (l : List (Nat × Nat × Nat)) : State :=
  match acc with
  | .read _ =>
    let r := s.readPieces l
    r.2.complete link r.1.1 (r.1.2 != 0)
  | .write d => s.writePieces d l

/-- A checkpoint is being written, and every resident region has settled: windows and ports are shut (R416). -/
def State.windowsShut (s : State) : Bool :=
  s.ckpt.isSome && !s.launches.any fun l => l.phase == .running || l.phase == .halting

/-- An access of a link at an offset of BAR2 (R372). -/
def State.bar2 (s : State) (link off : Nat) (acc : HostAccess) : State :=
  let h := (mget 0 s.hostctx link).toNat
  let n := accessSize acc
  let closed := s.closedAccess link acc
  if !bit h 63 || s.windowsShut || decide (2 ^ 44 < off + n) then closed
  else if bit h 62 then
    (if 2 ^ 40 < off + n ∨ s.diePresent (dieOfStack (off / 2 ^ 36)) = false ∨
        s.diePresent (dieOfStack ((off + n - 1) / 2 ^ 36)) = false then closed
     else s.openAccess link acc [(off, s.slotLoad 0, n)])
  else
    let c := bits h 5 0
    let r := s.reachAll c (accessWrites acc) off n
    match r.1 with
    | .pieces l => r.2.openAccess link acc l
    | .stops (.fault lv re e) va =>
      (r.2.closedAccess link acc).sendRecord c 0
        (faultWords 0 (link / 2) (accessWrites acc) 0 lv re 6 va link e)
    | .stops _ _ => r.2.closedAccess link acc

/-! ## Registers and the mailbox from the host (R323, R370, R411) -/

/-- Byte o of BAR4: a register's, an argument's, the response's, or the event ring's. -/
def State.mailByte (s : State) (o : Nat) : Byte :=
  let of_ := fun (w : Word) => BitVec.ofNat 8 (w.toNat / 2 ^ (8 * (o % 8)))
  if o < 0x100 then
    (match regAt (mailboxBase + o / 8 * 8) with
      | some r => of_ (s.regRead r)
      | none => 0)
  else if o < 0x1000 then mget 0 s.evo.args o
  else if o < 0x8000 then s.evo.response.getD (o - 0x1000) 0
  else of_ ((mget [] s.evo.events ((o - 0x8000) / 32)).getD (o % 32 / 8) 0)

/-- An access of n bytes of BAR0 or a mailbox register has a size that the register takes (R323, log 80). -/
def hostSized (addr n : Nat) : Bool :=
  (n == 8 && addr % 8 == 0) ||
    (n == 4 && addr % 4 == 0 && match regAt (addr / 8 * 8) with | some r => !r.ofSequencer | none => true)

/-- A read by the host of a register's address, or of the mailbox. -/
def State.hostRead (s : State) (link addr n : Nat) : State :=
  if mailboxBase ≤ addr then
    s.complete link ((List.range n).map fun i => s.mailByte ((addr - mailboxBase + i) % 2 ^ 16)) false
  else if !hostReaches addr || !hostSized addr n then s.closedAccess link (.read n)
  else
    let v := match regAt (addr / 8 * 8) with | some r => (s.regRead r).toNat | none => 0
    s.complete link (natLe n (halfRead addr n v)) false

/-- A write by the host: an argument's bytes, or a register. -/
def State.hostWrite (s : State) (addr : Nat) (d : List Byte) : State :=
  let o := addr - mailboxBase
  if mailboxBase + 0x100 ≤ addr then
    { s with evo := { s.evo with args := d.zipIdx.foldl (fun m x =>
        if o + x.2 < 0x1000 then mset 0 m (o + x.2) x.1 else m) s.evo.args } }
  else if !hostReaches addr || !hostSized addr d.length then s
  else
    match regAt (addr / 8 * 8) with
    | some r => s.regWrite r (BitVec.ofNat 64 (halfWrite addr d.length (s.regRead r).toNat (leNat d))) .host
    | none => s

/-- An access of a link takes effect. -/
def State.hostPerform (s : State) (w : HostWait) : State :=
  if w.bar2 then s.bar2 w.link w.addr w.acc
  else
    match w.acc with
    | .read n => s.hostRead w.link w.addr n
    | .write d => s.hostWrite w.addr d

/-- An access must wait for posted writes of its link that came before it: a read, and a write of BAR0 (R373). -/
def behind (w : HostWait) (before : List HostWait) : Bool :=
  (!accessWrites w.acc || (!w.bar2 && decide (w.addr < mailboxBase))) && before.any fun v => v.link == w.link && accessWrites v.acc

/-- An access with those that came before it and still wait: it takes effect, or meets a channel in training and waits. -/
def State.hostTry (s : State) (w : HostWait) (before : List HostWait) : Option State :=
  if behind w before then none
  else
    let s' := ({ s with stalled := false }).hostPerform w
    if s'.stalled then none else some s'

/-- An access arrives from its link: none comes over a link that is down (Table 23.1), and one that meets an error of the link
completes as a closed-window access (Table 22.1). -/
def State.hostAccess (s : State) (w : HostWait) : State :=
  if s.evo.linksDown.contains w.link then s
  else if s.evo.linkErrors.contains w.link then
    { s with evo := { s.evo with linkErrors := s.evo.linkErrors.erase w.link } }.closedAccess w.link w.acc
  else (s.hostTry w s.hostWaits).getD { s with hostWaits := s.hostWaits ++ [w] }

/-- Waiting access i is tried again. -/
def State.hostRetry (s : State) (i : Nat) : State :=
  match s.hostWaits[i]? with
  | none => s
  | some w =>
    match s.hostTry w (s.hostWaits.take i) with
    | some s' => { s' with hostWaits := dropAt s'.hostWaits i }
    | none => s

/-- HOST_BAR2_ACCESS: one access of a link at an offset of BAR2; an access to a channel in training waits. -/
def execHostBar2Access (link : Fin 4) (off : Nat) (acc : HostAccess) (s : State) : Host.Outcome State Fault Refusal :=
  .next (s.hostAccess { link := link.val, bar2 := true, addr := off, acc := acc })

/-! ## Leaving the package (R377, R380) -/

/-- Ports of a routing entry that are up. -/
def State.upPorts (s : State) (d p : Nat) : List Nat :=
  let e := (mget 0 (s.ioDie d).route p).toNat
  (List.range 32).filterMap fun i =>
    if bit e i && !(mget {} s.atwald (32 * d + i)).down then some (32 * d + i) else none

/-- The source as the routing hash takes it. -/
def hashSource : Home → Nat
  | .tile t => t
  | h => homeRow h * 64 + homeCol h

/-- A flit sent on a port: it stays in the port's store until it is acknowledged. -/
def State.sendPort (s : State) (p spkg dpkg hops : Nat) (f : Flit) : State :=
  let x := mget {} s.atwald p
  { s with atwald := mset {} s.atwald p { x with
      seq := (x.seq + 1) % 2 ^ 16, outbox := x.outbox ++ [(x.seq, spkg, dpkg, hops, f)] } }

/-- The routing of a flit for another package: by a port of its entry that is up, else by the other die where XDIE is set (R377;
two dies that both pass a flit on pass it to and fro, log 18). -/
def State.routeOut (s : State) (d : Nat) (f : Flit) (spkg dpkg hops : Nat) : State :=
  let ports := s.upPorts d dpkg
  match ports[Config.portHash spkg (hashSource f.src) f.tag % ports.length]? with
  | some p => s.sendPort p spkg dpkg hops f
  | none =>
    if bit (mget 0 (s.ioDie d).route dpkg).toNat 32 then
      (let x := s.ioDie (1 - d)
       s.setIo (1 - d) { x with out := x.out ++ [(f, spkg, hops)] })
    else s.returnNak d spkg f .link 3 (originIo d)

/-! ## Admission (R378, R379) -/

/-- Rights that an operation needs (Table 2.5), as a PERM mask; none: no peer may make it. -/
def peerRights (f : Flit) : Option Nat :=
  let flag := if f.flag = 0 then 0 else permFL
  match f.op with
  | .load | .loadv | .loadcap => some permLD
  | .store | .storev | .storecap | .put | .putv | .poison => some (permST ||| flag)
  | .atomic => some (permAT ||| flag)
  | .atomicr => some (permLD ||| permST ||| permAT)
  | .ldc | .stp | .feset | .withdraw => some permFE
  | .scrub => some (permST ||| permFE)
  | .arm | .disarm | .signal => some permFL
  | .granule | .streamend | .push | .wake => some permST
  | .tdec | .tcancel => some permAT
  | _ => none

/-- The place of a stream's write-pointer word on the tile of a granule or an end of stream (R241). -/
def pointerPlace (f : Flit) : Nat := f.ga - gaOff f.ga + f.wpoff / 8 * 8

/-- The bytes of a target that a mask of n bits names. -/
def maskedBytes (ga mask n : Nat) : List (Nat × Nat) :=
  ((List.range n).filter fun i => bit mask i).map fun i => (ga + i, 1)

/-- Where the bytes lie that an operation touches at its target: address and number of each extent. The first names the tile or
the stack where an operation touches no byte. -/
def targets (f : Flit) : List (Nat × Nat) :=
  let pointer := if f.wpen && gaSpace f.ga == 0 then [(pointerPlace f, 8)] else []
  match f.op with
  | .push | .wake => [(f.ga, 0)]
  | .signal | .arm | .disarm | .ldc | .stp | .feset | .withdraw | .poison => [(f.ga, 8)]
  | .streamend => (f.ga, 0) :: pointer
  | .granule => (f.ga, 0) :: maskedBytes f.ga f.bmask 32 ++ pointer
  | .storev | .putv => (f.ga, 0) :: maskedBytes f.ga f.bmask 64
  | .loadcap | .storecap => [(f.ga, 16)]
  | .loadv | .scrub => [(f.ga, 64)]
  | _ => [(f.ga, f.size)]

/-- Window of an admission entry (Table 20.5): n bytes at a local global address lie in it. -/
def inWindow (wbase lim ga n : Nat) : Bool :=
  gaSpace wbase == gaSpace ga &&
  (if gaSpace ga = 0 then
    decide (tileX (gaTile wbase) ≤ tileX (gaTile ga)) && decide (tileX (gaTile ga) ≤ tileX (gaTile wbase) + bits lim 49 44) &&
      decide (tileY (gaTile wbase) ≤ tileY (gaTile ga)) && decide (tileY (gaTile ga) ≤ tileY (gaTile wbase) + bits lim 55 50) &&
      (n == 0 || (decide (gaOff wbase ≤ gaOff ga) && decide (gaOff ga + n ≤ gaOff wbase + bits lim 43 0)))
   else gaSpace ga == 1 && decide (gaAddr wbase ≤ gaAddr ga) && decide (gaAddr ga + n ≤ gaAddr wbase + bits lim 43 0))

/-- Entry e of a die's table admits a flit of a source package; the context that it is given. -/
def State.admits (s : State) (d spkg : Nat) (f : Flit) (need e : Nat) : Option Nat :=
  let w := fun (i : Nat) => (mget 0 (s.ioDie d).admitTab (4 * e + i)).toNat
  let c := w 0
  let flag := localise s.pkg f.flag
  let ok := bit c 31 && (bit c 17 || bits c 16 0 == spkg) && (bit c 24 || bits c 23 18 == f.ctx) &&
    bits c 41 32 &&& need == need && (targets f).all (fun x => inWindow (w 1) (w 2) x.1 x.2) &&
    (f.flag == 0 || !gaLocal flag || inWindow (w 1) (w 2) flag 8)
  if ok then some (bits c 30 25) else none

/-- The lowest entry that admits a flit. -/
def State.admission (s : State) (d spkg : Nat) (f : Flit) : Option Nat :=
  match peerRights f with
  | none => none
  | some need =>
    ((List.range 4096).filter fun e => !(mget 0 (s.ioDie d).admitTab (4 * e) == 0)).findSome? fun e => s.admits d spkg f need e

/-! ## Proxies (R380) -/

/-- The entry that stands for an operation already: a later part or granule of it, or what withdraws it. -/
def IoDie.proxyOf (x : IoDie) (spkg : Nat) (f : Flit) : Option (Nat × Proxy) :=
  x.proxies.find? fun e => e.2.spkg == spkg && e.2.ctx == f.ctx && e.2.src == f.src && e.2.tag == f.tag

/-- A proxy entry with what a flit of its operation adds to it. -/
def Proxy.joined (p : Proxy) (f : Flit) : Proxy :=
  if f.op == .granule then { p with left := nins (ndel p.left f.idx) f.idx, more := p.more && !f.lastg } else p

/-- An admitted flit is injected towards its home for its proxy, if there is an entry for it; g is the flit as its home is
to see it. -/
def State.proxyIn (s : State) (d spkg : Nat) (f g : Flit) (h : Home) : State :=
  let x := s.ioDie d
  let go := fun (s : State) (n : Nat) =>
    s.inject (.io d) (place (homeCol h) h { g with src := .io d, tag := n, dpkg := none, age := 0 })
  let stream := f.op == .granule && (match h with | .tile _ => true | _ => false)
  match if f.flast != 0 || stream || f.op == .disarm || f.op == .withdraw || f.op == .streamend then x.proxyOf spkg f else none with
  | some (n, p) =>
    if f.op == .disarm then go (s.setIo d { x with proxies := mdel x.proxies n }) n
    else go (s.setIo d { x with proxies := mput x.proxies n (p.joined f) }) n
  | none =>
    if f.op == .disarm || f.op == .withdraw then s
    else if 4096 ≤ x.proxies.length then s.returnNak d spkg f .slot 0 (originIo d)
    else
      let n := s.newTag
      let p : Proxy := { spkg := spkg, ctx := f.ctx, src := f.src, tag := f.tag, stream := stream, more := stream }
      go (n.2.setIo d { x with proxies := mput x.proxies n.1 (p.joined f) }) n.1

/-- What a leaf must allow for an operation (Table 18.4), as a user access. -/
def peerNeed (f : Flit) : Need :=
  match f.op with
  | .load | .loadv | .loadcap => { write := false, read := true, user := true }
  | .atomicr | .scrub => { write := true, read := true, user := true }
  | _ => { write := true, read := false, user := true }

/-- A flit of another package arrives for this one; capability tags do not cross packages (R381). -/
def State.admitFlit (s : State) (d spkg : Nat) (f : Flit) : State :=
  let f : Flit := { f with tags := 0 }
  if f.op == .reserved then s.event 1 3 0 0 0 0
  else if planeB f.op && f.op != .signal then
    s.inject (.io d) (place (homeCol f.home) f.home { f with dpkg := none, age := 0 })
  else if s.windowsShut && f.op != .signal then s.returnNak d spkg f .absent (reasonClass .absent) (originIo d)
  else
    let f : Flit := { f with ga := 2 ^ 63 + f.ga % 2 ^ 46 }
    match s.admission d spkg f with
    | none => s.returnNak d spkg f .cap 6 (originIo d)
    | some lctx =>
      let g : Flit := { f with ctx := lctx, ga := f.ga % 2 ^ 46 }
      if gaSpace f.ga = 0 then s.proxyIn d spkg f g (.tile (gaTile f.ga))
      else
        let r := s.walk lctx (gaAddr f.ga) (peerNeed f)
        match r.1.1 with
        | .ok ppa slot gd => r.2.proxyIn d spkg f { g with ga := ppa, key := slot, guarded := gd } (.port (portOf ppa))
        | .fault l re e =>
          (r.2.sendRecord lctx 0 (faultWords 0 d (peerNeed f).write 0 l re 6 (gaAddr f.ga)
            (2 ^ 63 + f.ctx % 64 * 2 ^ 17 + spkg % 2 ^ 17) e)).returnNak d spkg f .absent (reasonClass .absent) (originIo d)
        | .refused => r.2.returnNak d spkg f .cap 6 (originIo d)
        | .ends c o => r.2.returnNak d spkg f .fenced c o

/-- IO_DIE_OUTBOUND: an answer that waits for its proxy goes out; else the oldest flit bound for another package is
routed. -/
def execIoDieOutbound (die : Nat) (s : State) : Host.Outcome State Fault Refusal := s.orWait fun s =>
  let d := die % 2
  let x := s.ioDie d
  let here := fun (f : Flit) => match f.op with
    | .resp | .respv | .fire | .notreg | .removed => true
    | _ => false
  match x.inqB with
  | f :: rest =>
    if here f then
      (let s := s.setIo d { x with inqB := rest }
       .next ((s.proxied d f).getD s))
    else
      match x.out with
      | (f, spkg, hops) :: rest =>
        let p := f.dpkg.getD s.pkg
        let s := s.setIo d { x with out := rest }
        .next (if p = s.pkg then s.admitFlit d spkg f else s.routeOut d f spkg p hops)
      | [] => .next s
  | [] =>
    match x.out with
    | (f, spkg, hops) :: rest =>
      let p := f.dpkg.getD s.pkg
      let s := s.setIo d { x with out := rest }
      .next (if p = s.pkg then s.admitFlit d spkg f else s.routeOut d f spkg p hops)
    | [] => .next s

/-! ## Atwald ports (R375, R376) -/

/-- A port goes down: every flit not yet acknowledged ends with class 0x03 (R376). The source of a request is refused, the port
its origin (R209); what awaits an answer is told so by a refusal that goes on in its place. -/
def State.portDown (s : State) (p : Nat) : State :=
  let x := mget {} s.atwald p
  let s : State := { s with atwald := mset {} s.atwald p { x with down := true, outbox := [], replayAsked := false } }
  x.outbox.foldl (fun s e =>
    let d := p / 32
    let f := e.2.2.2.2
    if isRequest f then s.returnNak d e.2.1 f .link 3 (originPort p)
    else
      let x := s.ioDie d
      s.setIo d { x with out := x.out ++ [({ lostAnswer f with origin := originPort p, dpkg := some e.2.2.1 }, e.2.1, e.2.2.2.1)] }) s

/-- A lane of a port: which one it is no rule gives (log 5). -/
def State.someLane (s : State) (p : Nat) : Nat × State :=
  let d := s.draw
  (16384 + 4 * p + d.1.toNat % 4, d.2)

/-- A lane fails or is worn: the port retrains onto its spare, or goes down. -/
def State.laneFails (s : State) (p unit : Nat) : State :=
  let x := mget {} s.atwald p
  if x.down then s
  else if x.spareUsed then s.portDown p
  else { s with atwald := mset {} s.atwald p { x with spareUsed := true } }.useSpare 2 unit |>.repairEvent true 2 unit

def execAtwaldLaneFailure (port : Fin 64) (s : State) : Host.Outcome State Fault Refusal :=
  let l := s.someLane port.val
  .next (l.2.laneFails port.val l.1)

/-- Frames up to and with the one acknowledged leave the port's store. -/
def Port.acked (x : Port) (a : Nat) : Port :=
  if x.outbox.any fun e => e.1 == a then { x with outbox := (x.outbox.dropWhile fun e => e.1 != a).dropWhile fun e => e.1 == a } else x

/-- A flit of a frame: it passes through, or is for this package. -/
def State.arriveFlit (s : State) (d : Nat) (e : Nat × Nat × Nat × Flit) : State :=
  let spkg := e.1
  let dpkg := e.2.1
  let hops := e.2.2.1 + 1
  let f := e.2.2.2
  if dpkg = s.pkg then s.admitFlit d spkg f
  else if 255 ≤ hops then s.returnNak d spkg f .link 3 (originIo d)
  else
    let x := s.ioDie d
    s.setIo d { x with out := x.out ++ [({ f with dpkg := some dpkg }, spkg, hops)] }

/-- ATWALD_FRAME: a frame with a bad CRC is discarded, counted against its lane, and asked for again; frames are taken in
their order. slots: SPKG, DPKG, HOPS and flit of each. -/
def execAtwaldFrame (port : Fin 64) (seq ackseq : Nat) (crcOk : Bool) (slots : List (Nat × Nat × Nat × Flit)) (s : State) :
    Host.Outcome State Fault Refusal := s.orWait fun s =>
  let p := port.val
  let x := mget {} s.atwald p
  if x.down || decide (4 < slots.length) then .next s
  else if !crcOk then
    (let l := { s with atwald := mset {} s.atwald p { x with replayAsked := true } }.someLane p
     .next (l.2.charge 2 l.1))
  else if seq % 2 ^ 16 ≠ x.rseq then .next s
  else
    let y : Port := { x.acked (ackseq % 2 ^ 16) with rseq := (x.rseq + 1) % 2 ^ 16, replayAsked := false }
    .next (slots.foldl (fun s e => s.arriveFlit (p / 32) e) { s with atwald := mset {} s.atwald p y })

/-! ## Automatic repairs (R399) -/

/-- A bank of an SRAM unit copies the row of a place to its spare, correcting single errors, and refuses what is asked of it
meanwhile: a row of a scratchpad by its address, of a tile store by its 8 bytes, of a queue bank by its record (log 6). -/
def State.copyRow (s : State) (unit at_ : Nat) : State :=
  if unit < 65536 then
    ({ s with errOne := s.errOne.filter fun w => w / 8 != at_ / 64 }).updTile (unit / 16) fun x =>
      { x with mending := nset x.mending (unit % 16) true }
  else if unit < 66048 then
    s.updCluster (unit - 65536) fun x =>
      { x with storeOne := x.storeOne.filter (fun w => w / 256 != at_ / 256), mending := nset x.mending 0 true }
  else
    s.updCluster (unit - 66048) fun x =>
      { x with bank := x.bank.map (fun b => if b.order = at_ then { b with one := [] } else b), mending := nset x.mending 1 true }

/-- The automatic repair of a worn or failed unit begins, where it has a spare: an SRAM bank copies a row; a channel retrains; a die
crossing is out, and an Atwald port takes its spare lane at once. -/
def State.beginRepair (s : State) (kind unit at_ : Nat) : State :=
  match kind with
  | 0 => (s.setAuto 0 unit true).copyRow unit at_
  | 1 => (s.setAuto 1 unit true).setRepairing (channelItem unit) true
  | 2 =>
    let t := unit / 4
    let d := unit % 4
    if 16384 ≤ unit then s.laneFails ((unit - 16384) / 4) unit
    else
      match neighbour t d with
      | none => s
      | some u =>
        let both := fun (s : State) (t d : Nat) => (s.dropLink t (linkKey d false)).dropLink t (linkKey d true)
        (both (both s t d) u (opposite d)).setAuto 2 unit true
  | _ => s.setAuto kind unit true

/-- The repair of a unit can begin: it has a spare, and no other repair of it is in progress. -/
def State.canRepair (s : State) (kind unit : Nat) : Bool :=
  !s.auto kind unit &&
    match kind with
    | 1 => !s.repairing (channelItem unit) && (List.range 4).any fun j => !bit (mget 0 (s.train unit).rep j).toNat 63
    | 2 => decide (16384 ≤ unit) || s.linkSpare (unit / 4) (unit % 4)
    | k => s.spareLeft k unit

/-- A unit whose wear event has been recorded, or that has failed for good, is repaired, or has no spare left and stays as it is; one whose channel has
another repair in progress waits for its end. -/
def State.repair (s : State) (kind unit : Nat) : State :=
  match takeFirst (fun x : Nat × Nat × Nat => x.1 == kind && x.2.1 == unit) s.evo.worn with
  | none => s
  | some (x, rest) =>
    if kind == 1 && s.repairing (channelItem unit) then s
    else
      let s : State := { s with evo := { s.evo with worn := rest } }
      if s.canRepair kind unit then s.beginRepair kind unit x.2.2 else s

/-! ## Ethernet (R382, R383) -/

/-- One bit of the CRC of IEEE 802.3, in its reflected form. -/
def crcBit (c : Nat) : Nat := if c % 2 = 1 then c / 2 ^^^ 0xEDB8_8320 else c / 2

/-- The frame check sequence of IEEE 802.3 (PRESUMED, log 85: the manual names it and does not give it). -/
def frameCheck (l : List Byte) : BitVec 32 :=
  let c := l.foldl (fun c b => crcBit (crcBit (crcBit (crcBit (crcBit (crcBit (crcBit (crcBit (c ^^^ b.toNat))))))))) (2 ^ 32 - 1)
  BitVec.ofNat 32 (2 ^ 32 - 1 - c)

/-- I/O die of an Ethernet port. -/
def ethDie (p : Nat) : Nat := p / 4

/-- A record of KIND 7. -/
def State.ethRecord (s : State) (p : Nat) (rx : Bool) (head : Nat) (l re va e : Nat) (write : Bool) : State :=
  s.sendRecord (s.ethPort p).ctx 0
    (faultWords 0 (ethDie p) write 0 l re 7 va (head * 2 ^ 32 + boolNat rx * 2 ^ 8 + p) e)

/-- The class with which an Ethernet access that is not reached ends; a fault sends its record. -/
def State.ethStop (s : State) (p : Nat) (rx : Bool) (head : Nat) (x : Xlate) (va : Nat) (write : Bool) : Nat × State :=
  match x with
  | .fault l re e => (4, s.ethRecord p rx head l re va e write)
  | .ends c _ => (c, s)
  | _ => (4, s)

/-- The end of a descriptor: its status word, then its flag, with the class of a status word that could not be written (R350). -/
def State.ethDone (s : State) (p : Nat) (rx : Bool) (head at_ flag cls len : Nat) : State :=
  let c := (s.ethPort p).ctx
  let r := s.reachAll c true (at_ + 24) 8
  let w := natLe 8 (2 ^ 63 + cls % 256 * 2 ^ 16 + len % 2 ^ 16)
  let q := match r.1 with
    | .pieces l => (cls, r.2.writePieces w l)
    | .stops x va =>
      let e := r.2.ethStop p rx head x va true
      (if cls = 0 then e.1 else cls, e.2)
  if flag = 0 then q.2 else q.2.agentSignal (.io (ethDie p)) { op := .reserved } c flag q.1 (originIo (ethDie p))

/-- The buffer, length and flag of a descriptor, or the class with which reading it ends. -/
def State.ethDesc (s : State) (p : Nat) (rx : Bool) (head at_ : Nat) : (Nat × Option (Nat × Nat × Nat)) × State :=
  let r := s.reachAll (s.ethPort p).ctx false at_ 24
  match r.1 with
  | .pieces l =>
    let d := r.2.readPieces l
    let w := fun (i : Nat) => leNat ((d.1.1.drop (8 * i)).take 8)
    if d.1.2 = 0 then ((0, some (w 0 % 2 ^ 44, w 1 % 2 ^ 16, w 2)), d.2) else ((d.1.2 - 1, none), d.2)
  | .stops x va =>
    let e := r.2.ethStop p rx head x va false
    ((e.1, none), e.2)

/-- ETH_TRANSMIT: the next transmit descriptor is handled whole, and its frame leaves with its FCS; ports stop while a checkpoint is written. -/
def execEthTransmit (p : Fin 8) (s : State) : Host.Outcome State Fault Refusal := s.orWait fun s =>
  let x := s.ethPort p.val
  if !x.en || x.txHead == x.txTail || s.windowsShut then .next s
  else
    let head := x.txHead
    let at_ := x.txBase + 32 * (head % 2 ^ x.txLog2)
    let next := fun (s : State) => s.setEth p.val { s.ethPort p.val with txHead := (head + 1) % 2 ^ 32 }
    let d := s.ethDesc p.val false head at_
    match d.1.2 with
    | none => .next ((next d.2).ethDone p.val false head at_ 0 d.1.1 0)
    | some (buf, len, flag) =>
      if len < 64 ∨ 9216 < len then .next ((next d.2).ethDone p.val false head at_ flag 6 0)
      else
        let r := d.2.reachAll x.ctx false buf len
        match r.1 with
        | .stops e va =>
          let q := r.2.ethStop p.val false head e va false
          .next ((next q.2).ethDone p.val false head at_ flag q.1 0)
        | .pieces l =>
          let b := r.2.readPieces l
          if b.1.2 ≠ 0 then .next ((next b.2).ethDone p.val false head at_ flag (b.1.2 - 1) 0)
          else
            let s := b.2.setEth p.val { b.2.ethPort p.val with sent := (b.1.1 ++ natLe 4 (frameCheck b.1.1).toNat) :: (b.2.ethPort p.val).sent }
            .next ((next s).ethDone p.val false head at_ flag 0 0)

/-- ETH_RECEIVE: a frame of 64 to 9,216 bytes arrives with its FCS at a running port: dropped for a bad FCS or an empty ring,
else written to the next receive descriptor. -/
def execEthReceive (p : Fin 8) (frame : List Byte) (fcs : BitVec 32) (s : State) : Host.Outcome State Fault Refusal := s.orWait fun s =>
  let x := s.ethPort p.val
  if !x.en || s.windowsShut || decide (frame.length < 64) || decide (9216 < frame.length) then .next s
  else if frameCheck frame != fcs || x.rxHead == x.rxTail then .next (s.setEth p.val { x with drops := x.drops + 1 })
  else
    let head := x.rxHead
    let at_ := x.rxBase + 32 * (head % 2 ^ x.rxLog2)
    let next := fun (s : State) => s.setEth p.val { s.ethPort p.val with rxHead := (head + 1) % 2 ^ 32 }
    let d := s.ethDesc p.val true head at_
    match d.1.2 with
    | none => .next ((next d.2).ethDone p.val true head at_ 0 d.1.1 0)
    | some (buf, size, flag) =>
      let n := Nat.min size frame.length
      let r := d.2.reachAll x.ctx true buf n
      match r.1 with
      | .stops e va =>
        let q := r.2.ethStop p.val true head e va true
        .next ((next q.2).ethDone p.val true head at_ flag q.1 0)
      | .pieces l => .next ((next (r.2.writePieces (frame.take n) l)).ethDone p.val true head at_ flag 0 n)

end Sys2Proof.Machine
end

