-- ==== Sys2Proof/Machine/Integer.lean ====
section
/-! DEFINITION. Scalar integer instructions, majors 0x00-0x07 (R104-R111, R194). -/
namespace Sys2Proof.Machine

/-- R194. -/
def execNop (s : State) : Host.Outcome State Fault Refusal := s.done s.cur

/-! Table 5.1 (R105). -/
def execAdd (d a b : GIx) (s : State) : Host.Outcome State Fault Refusal := s.int2 d a b fun x y => x + y
def execSub (d a b : GIx) (s : State) : Host.Outcome State Fault Refusal := s.int2 d a b fun x y => x - y
def execAnd (d a b : GIx) (s : State) : Host.Outcome State Fault Refusal := s.int2 d a b fun x y => x &&& y
def execOr (d a b : GIx) (s : State) : Host.Outcome State Fault Refusal := s.int2 d a b fun x y => x ||| y
def execXor (d a b : GIx) (s : State) : Host.Outcome State Fault Refusal := s.int2 d a b fun x y => x ^^^ y
def execAndn (d a b : GIx) (s : State) : Host.Outcome State Fault Refusal := s.int2 d a b fun x y => x &&& ~~~y

/-- A shift amount: b[5:0] (R105). -/
def shamt (y : Word) : Nat := y.toNat % 64

def execShl (d a b : GIx) (s : State) : Host.Outcome State Fault Refusal := s.int2 d a b fun x y => x <<< shamt y
def execShr (d a b : GIx) (s : State) : Host.Outcome State Fault Refusal := s.int2 d a b fun x y => x >>> shamt y
def execSra (d a b : GIx) (s : State) : Host.Outcome State Fault Refusal :=
  s.int2 d a b fun x y => x.sshiftRight (shamt y)
def execMin (d a b : GIx) (s : State) : Host.Outcome State Fault Refusal :=
  s.int2 d a b fun x y => if y.slt x then y else x
def execMax (d a b : GIx) (s : State) : Host.Outcome State Fault Refusal :=
  s.int2 d a b fun x y => if x.slt y then y else x
def execMinu (d a b : GIx) (s : State) : Host.Outcome State Fault Refusal :=
  s.int2 d a b fun x y => if y.ult x then y else x
def execMaxu (d a b : GIx) (s : State) : Host.Outcome State Fault Refusal :=
  s.int2 d a b fun x y => if x.ult y then y else x

/-- R106: the whole register, tag and body. -/
def execMov (d a : GIx) (s : State) : Host.Outcome State Fault Refusal := s.doneG d (s.cur.rd a)

/-! R107. -/
def execMul (d a b : GIx) (s : State) : Host.Outcome State Fault Refusal := s.int2 d a b fun x y => x * y
def execMulh (d a b : GIx) (s : State) : Host.Outcome State Fault Refusal :=
  s.int2 d a b fun x y => BitVec.ofInt 64 (x.toInt * y.toInt / 2 ^ 64)
def execMulhu (d a b : GIx) (s : State) : Host.Outcome State Fault Refusal :=
  s.int2 d a b fun x y => BitVec.ofNat 64 (x.toNat * y.toNat / 2 ^ 64)

/-- Signed quotient: all ones for a zero divisor, otherwise truncated toward zero; -2^63 over -1 wraps to -2^63. -/
def divS (x y : Word) : Word := if y = 0 then BitVec.allOnes 64 else BitVec.ofInt 64 (x.toInt.tdiv y.toInt)
/-- Signed remainder, with the sign of the dividend. -/
def remS (x y : Word) : Word := if y = 0 then x else BitVec.ofInt 64 (x.toInt.tmod y.toInt)
def divU (x y : Word) : Word := if y = 0 then BitVec.allOnes 64 else BitVec.ofNat 64 (x.toNat / y.toNat)
def remU (x y : Word) : Word := if y = 0 then x else BitVec.ofNat 64 (x.toNat % y.toNat)

def execDiv (d a b : GIx) (s : State) : Host.Outcome State Fault Refusal := s.int2 d a b divS
def execDivu (d a b : GIx) (s : State) : Host.Outcome State Fault Refusal := s.int2 d a b divU
def execRem (d a b : GIx) (s : State) : Host.Outcome State Fault Refusal := s.int2 d a b remS
def execRemu (d a b : GIx) (s : State) : Host.Outcome State Fault Refusal := s.int2 d a b remU

/-! Table 5.3 (R108). -/

/-- Leading zeros of a 64-bit value. -/
def clz64 (x : Nat) : Nat := if x = 0 then 64 else 63 - Nat.log2 x

/-- Trailing zeros, of at most the given number of bits. -/
def ctzUpTo : Nat → Nat → Nat
  | 0, _ => 0
  | n + 1, x => if x % 2 = 1 then 0 else ctzUpTo n (x / 2) + 1

/-- One bits among the lowest n. -/
def popUpTo : Nat → Nat → Nat
  | 0, _ => 0
  | n + 1, x => x % 2 + popUpTo n (x / 2)

def execClz (d a : GIx) (s : State) : Host.Outcome State Fault Refusal :=
  s.int1 d a fun x => BitVec.ofNat 64 (clz64 x.toNat)
def execCtz (d a : GIx) (s : State) : Host.Outcome State Fault Refusal :=
  s.int1 d a fun x => BitVec.ofNat 64 (ctzUpTo 64 x.toNat)
def execPopc (d a : GIx) (s : State) : Host.Outcome State Fault Refusal :=
  s.int1 d a fun x => BitVec.ofNat 64 (popUpTo 64 x.toNat)
def execSext (d a : GIx) (wm1 : Fin 64) (s : State) : Host.Outcome State Fault Refusal :=
  s.int1 d a fun x => (x.setWidth (wm1.val + 1)).signExtend 64
def execZext (d a : GIx) (wm1 : Fin 64) (s : State) : Host.Outcome State Fault Refusal :=
  s.int1 d a fun x => (x.setWidth (wm1.val + 1)).setWidth 64
def execShli (d a : GIx) (n : Fin 64) (s : State) : Host.Outcome State Fault Refusal :=
  s.int1 d a fun x => x <<< n.val
def execShri (d a : GIx) (n : Fin 64) (s : State) : Host.Outcome State Fault Refusal :=
  s.int1 d a fun x => x >>> n.val
def execSrai (d a : GIx) (n : Fin 64) (s : State) : Host.Outcome State Fault Refusal :=
  s.int1 d a fun x => x.sshiftRight n.val

/-! R109. -/

/-- A mask of w ones from bit pos. -/
def fieldMask (w pos : Nat) : Word := BitVec.ofNat 64 ((2 ^ w - 1) * 2 ^ pos)

def execBfx (d a : GIx) (wm1 pos : Fin 64) (s : State) : Host.Outcome State Fault Refusal :=
  s.int1 d a fun x => (x >>> pos.val) &&& fieldMask (wm1.val + 1) 0

/-- BFI reads gD after gA. -/
def execBfi (d a : GIx) (wm1 pos : Fin 64) (s : State) : Host.Outcome State Fault Refusal :=
  s.int2 d a d fun x old =>
    let m := fieldMask (wm1.val + 1) pos.val
    (old &&& ~~~m) ||| ((x <<< pos.val) &&& m)

/-! R110, R111. -/
def execAddi (d a : GIx) (imm : BitVec 20) (s : State) : Host.Outcome State Fault Refusal :=
  s.int1 d a fun x => x + imm20 imm
def execAndi (d a : GIx) (imm : BitVec 20) (s : State) : Host.Outcome State Fault Refusal :=
  s.int1 d a fun x => x &&& imm20 imm
def execOri (d a : GIx) (imm : BitVec 20) (s : State) : Host.Outcome State Fault Refusal :=
  s.int1 d a fun x => x ||| imm20 imm
def execXori (d a : GIx) (imm : BitVec 20) (s : State) : Host.Outcome State Fault Refusal :=
  s.int1 d a fun x => x ^^^ imm20 imm
def execMovi (d : GIx) (x : BitVec 48) (s : State) : Host.Outcome State Fault Refusal :=
  s.doneG d (dataReg (x.signExtend 64))
def execMoviShifted (d : GIx) (x : BitVec 48) (s : State) : Host.Outcome State Fault Refusal :=
  s.doneG d (dataReg (x.setWidth 64 <<< 16))

end Sys2Proof.Machine
end

