-- ==== Sys2Proof/Machine/Translate.lean ====
section
/-! DEFINITION. The cluster memory port at work: page walks and their outcomes (R347-R350), shootdowns (R353), and the
delivery of fault records to the supervisor queue (R351). -/
namespace Sys2Proof.Machine

/-! ## Fault records (R351) -/

/-- A fault record of firmware context 0: the channel that its region trains has failed (R413). -/
def State.bootFault (s : State) (tile : Nat) : State :=
  match s.evo.boot, (s.tile tile).region with
  | some b, some id =>
    (match b.active.lookup id with
      | some c => { s with evo := { s.evo with boot := some { b with failed := nset b.failed c true } } }
      | none => s)
  | _, _ => s

/-- A record offered to its context's supervisor queue; false where the queue cannot take it. Firmware context 0 has no
queue: Evodon takes its records (R413). -/
def State.deliver (s : State) (r : FaultRec) : Bool × State :=
  let c := s.ctxOf r.ctx
  if c.firmware then (true, s.bootFault r.tile)
  else if !c.valid then (false, s)
  else
    let h := s.vreads r.ctx c.supq 5 []
    match h.1 with
    | .ok [base, lg, wr, rd, sigf] =>
      let k := lg % 32
      if k < 6 ∨ 20 < k ∨ 2 ^ k ≤ (wr + 2 ^ 64 - rd) % 2 ^ 64 then (false, h.2)
      else
        let w := h.2.vwrites r.ctx (base + 64 * (wr % 2 ^ k)) (r.words.map fun x => x.toNat)
        if !w.1 then (false, w.2)
        else
          let v := w.2.vwrites r.ctx (c.supq + 0x10) [(wr + 1) % 2 ^ 64]
          if !v.1 then (false, v.2)
          else (true, if sigf = 0 then v.2 else v.2.agentSignal (.io 0) { op := .reserved } r.ctx sigf 0 0)
    | _ => (false, h.2)

/-- Records offered in order; those that are not taken stay held. -/
def State.offer (s : State) : List FaultRec → State
  | [] => s
  | r :: rs =>
    let d := s.deliver r
    let s := if d.1 then d.2 else { d.2 with held := d.2.held ++ [r] }
    State.offer s rs

/-- SUPQ_RETRY: the held records are offered again. -/
def execSupqRetry (s : State) : Host.Outcome State Fault Refusal := s.orWait fun s =>
  .next ({ s with held := [] }.offer s.held)

/-! ## Walks (R347, R348, Table 18.5) -/

/-- The walk of a thread's access has ended. -/
def State.walkedThread (s : State) (t h c : Nat) (w : WalkReq) (r : Xlate × Option (Nat × Nat)) : State :=
  let th := s.thr t h
  let back := fun (e : Nat × Nat × Nat) => s.setThr t h { th with run := .rotation, wait := .none, walkEnds := e :: th.walkEnds }
  let page := w.va / 2 ^ 16
  if th.wait != .walk then s
  else
    match r with
    | (.ok _ _ _, some (l, leaf)) => (s.tlbFill c w.ctx w.va l leaf).resume t h
    | (.ok _ _ _, none) => s.resume t h
    | (.fault l re e, _) =>
      (s.setThr t h { th with wait := .fault }).sendRecord w.ctx t (faultWords t h w.write 0 l re 1 w.va th.pc.toNat e)
    | (.refused, _) => back (page, 0, 0)
    | (.ends cls o, _) => back (page, cls + 1, o)

/-- The walk of a copy channel's access has ended. -/
def State.walkedCopy (s : State) (t e c : Nat) (w : WalkReq) (r : Xlate × Option (Nat × Nat)) : State :=
  let cmd := s.copyCmd t e
  let ga := 2 ^ 63 + 2 ^ 44 + w.va
  let go := fun (s : State) => s.updCopy t e fun k => if k.state == .parked then { k with state := .active } else k
  if !cmd.live then s
  else
    match r with
    | (.ok _ _ _, some (l, leaf)) => go (s.tlbFill c w.ctx w.va l leaf)
    | (.ok _ _ _, none) => go s
    | (.fault l re en, _) =>
      let s := s.updCopy t e fun k => { k with state := .parked }
      let s := s.updCluster c fun x => { x with parked := x.parked ++ [w] }
      s.sendRecord w.ctx t (faultWords t 0 w.write 0 l re 2 w.va (cmd.cmdId e) en)
    | (.refused, _) => s.stopCopy t e 4 ga (originTile t) .none
    | (.ends cls o, _) => s.stopCopy t e cls ga o .none

/-- The walk of the cuff's next page has ended. -/
def State.walkedCuff (s : State) (c : Nat) (w : WalkReq) (r : Xlate × Option (Nat × Nat)) : State :=
  match r.1 with
  | .ok _ _ _ => s.updCluster c fun x => { x with cuff := x.cuff.map fun k => { k with stopped := false } }
  | .fault l re e => s.stopCuff c w.va w.write l re e
  | _ => s

/-- One of the requests that a walk serves: what it decides reaches its agent. -/
def State.walked (s : State) (cluster : Nat) (w : WalkReq) : State :=
  let r := s.walk w.ctx w.va { write := w.write, read := w.read, user := w.user }
  match w.agent with
  | .thread t h => r.2.walkedThread t h cluster w r.1
  | .copy t e => r.2.walkedCopy t e cluster w r.1
  | .cuff => r.2.walkedCuff cluster w r.1

/-- Two misses on one page share a walk (R347). -/
def WalkReq.shares (w v : WalkReq) : Bool := v.ctx == w.ctx && v.va / 2 ^ 16 == w.va / 2 ^ 16

/-- PAGE_WALK: the oldest walk of a port runs to its end, for every miss on its page; a fault's record is delivered. -/
def execPageWalk (cluster : Nat) (s : State) : Host.Outcome State Fault Refusal := s.orWait fun s =>
  match (s.cluster cluster).walks with
  | [] => .next s
  | w :: rest =>
    let s := s.updCluster cluster fun x => { x with walks := rest.filter fun v => !w.shares v }
    let old := s.held
    let s := (w :: rest.filter w.shares).foldl (fun s v => s.walked cluster v) { s with held := [] }
    .next ({ s with held := old }.offer s.held)

/-! ## Shootdowns (R203, R353) -/

/-- An entry of the buffer that a TLBINV selects. -/
def TlbEntry.selected (e : TlbEntry) (f : Flit) : Bool :=
  let lo := e.page * 2 ^ pageBits e.level
  e.ctx == f.ctx && (f.scope == 2 || (decide (lo < f.ga % 2 ^ 44 + f.len) && decide (f.ga % 2 ^ 44 < lo + 2 ^ pageBits e.level)))

/-- Plane A flits that travel: held for injection, in the routers, and waiting at the memory ports. -/
def State.travelling (s : State) : List Flit :=
  (s.tiles.flatMap fun y => y.2.injA ++ y.2.queueA) ++
    (s.routers.flatMap fun y => (y.2.inA.map fun x => x.2.2) ++ (y.2.resend.map fun x => x.2.2)) ++ s.ports.flatMap fun y => y.2

/-- A message gathered in part at a memory port may still become whole: each missing flit travels, or its tile will send it
again. One whose other flit was refused for good or lost has ended (R353 step 3). -/
def State.completing (s : State) (out : List Flit) (x : Slot) : Bool :=
  match x.flits with
  | [] => false
  | f :: _ =>
    let again := match f.src with | .tile t => (s.tile t).retries.map fun r => r.flit | _ => []
    (List.range (f.flast + 1)).all fun i => (x.flits ++ out ++ again).any fun g => sameMessage f g && g.fidx == i

/-- Plane A flits on their way: those that travel, and the parts at the memory ports of messages that may become whole. -/
def State.flitsOut (s : State) : List Flit :=
  let out := s.travelling
  out ++ s.portSlots.flatMap fun y => (y.2.filter (s.completing out)).flatMap fun x => x.flits

/-- A flit of a tile on its way to a memory port. -/
def ofTile (t : Nat) (f : Flit) : Bool := f.src == .tile t && (match f.home with | .port _ => true | _ => false)

/-- HBM operations of a context that a cluster has translated and that have not ended: by tile and tag, and granules by
tile, entry and number. Those on their way count also where their tile no longer awaits them. -/
def State.translated (s : State) (c ctx : Nat) : List (Nat × Nat) × List (Nat × Nat × Nat) :=
  let ts := clusterTiles c
  let mine := ts.filter fun t => (s.tile t).ctx == ctx
  let out := ts.flatMap fun t => (s.flitsOut.filter fun f => ofTile t f && f.ctx == ctx).map fun f => (t, f)
  ((mine.flatMap fun t => ((s.tile t).posted.filter fun p => match p.flit.home with | .port _ => true | _ => false).map fun p => (t, p.tag)) ++
     (out.filter fun x => x.2.op != .granule).map fun x => (x.1, x.2.tag),
   (mine.flatMap fun t => (s.tile t).copyq.flatMap fun y =>
     if y.2.live && y.2.dst.kind == .hbm then y.2.flying.map fun n => (t, y.1, n) else []) ++
     (out.filter fun x => x.2.op == .granule).map fun x => (x.1, x.2.tag % 32, x.2.gidx))

/-- TLBINV_REQUEST: a port removes the selected entries; its walks start afresh when they run, and what it translated
before is awaited (R353 steps 1 to 3). -/
def execTlbinvRequest (cluster : Nat) (s : State) : Host.Outcome State Fault Refusal :=
  let t := clusterTile cluster 0
  match (s.tile t).ejA with
  | f :: rest =>
    if f.op != .tlbinv then .next s
    else
      let s := s.updTile t fun x => { x with ejA := rest }
      let o := s.translated cluster f.ctx
      .next (s.updCluster cluster fun x => { x with
        tlb := x.tlb.filter fun e => !e.selected f
        tlbWork := x.tlbWork ++ [{ flit := f, ops := o.1, granules := o.2 }] })
  | [] => .next s

/-- What a TLBINV awaits has ended. -/
def State.shot (s : State) (w : TlbWork) : Bool :=
  let out := s.flitsOut
  w.ops.all (fun o => (s.postedTag o.1 o.2).isNone && !out.any fun f => ofTile o.1 f && f.tag == o.2) &&
    w.granules.all fun g => !(s.copyCmd g.1 g.2.1).flying.contains g.2.2 &&
      !out.any fun f => ofTile g.1 f && f.op == .granule && f.tag % 32 == g.2.1 && f.gidx == g.2.2

/-- TLBINV_PORT_COMPLETE: parked engine accesses of the context walk again, and the flag is signalled by 1 (R353 steps
4 and 5). -/
def execTlbinvPortComplete (cluster : Nat) (s : State) : Host.Outcome State Fault Refusal :=
  match takeFirst (fun w => s.shot w) (s.cluster cluster).tlbWork with
  | none => .next s
  | some (w, rest) =>
    let ctx := w.flit.ctx
    let s := s.updCluster cluster fun x => { x with
      tlbWork := rest, walks := x.walks ++ x.parked.filter (fun r => r.ctx == ctx),
      parked := x.parked.filter fun r => r.ctx != ctx }
    let s : State := { s with invals := (s.invals.map fun i =>
      if i.tag = w.flit.tag then { i with left := ndel i.left cluster } else i).filter fun i => !i.left.isEmpty }
    .next (if w.flit.flag = 0 then s
      else s.agentSignal (.tile (clusterTile cluster 0)) w.flit ctx w.flit.flag 0 0)

end Sys2Proof.Machine
end

