-- ==== Sys2Proof/Machine/Vector.lean ====
section
/-! DEFINITION. Vector and mask instructions, majors 0x44-0x49 (R139-R154). -/
namespace Sys2Proof.Machine

/-- The rounding of destination element e (R76, R141). -/
def State.vrnd (s : State) (rm : Rm) (e : Nat) : RCtx := s.cur.rctx rm true e

/-- An element read in a floating type, flushed where FTZ asks for it (R74). -/
def State.fin (s : State) (ty : ElemTy) (c : Nat) : FVal :=
  (fmtOf ty).read ((fmtOf ty).flushIn (s.cur.ftz && ty.isF) c)

/-- A vector instruction whose element e depends on element e of each source (R143, R144, R149). -/
def State.velt (s : State) (ty : ElemTy) (k : KIx) (d : VIx) (srcs : List GIx) (f : Nat → List Nat → Nat) :
    Host.Outcome State Fault Refusal :=
  let t := s.cur
  let w := ty.width
  let vs := srcs.map (t.vsrc w)
  s.doneV d (t.lanewise k d vs fun j => laneOf w (fun e => f e (vs.map fun v => v.elt w e)) j)

/-! ## Element-wise float (R143, R144) -/

def State.vfp1 (s : State) (ty : ElemTy) (k : KIx) (d : VIx) (a : GIx) (f : Nat → FVal → Nat) :
    Host.Outcome State Fault Refusal :=
  s.velt ty k d [a] fun e xs => f e (s.fin ty (xs.getD 0 0))

def State.vfp2 (s : State) (ty : ElemTy) (k : KIx) (d : VIx) (a b : GIx) (f : Nat → FVal → FVal → Nat) :
    Host.Outcome State Fault Refusal :=
  s.velt ty k d [a, b] fun e xs => f e (s.fin ty (xs.getD 0 0)) (s.fin ty (xs.getD 1 0))

def execVadd (ty : ElemTy) (rm : Rm) (k : KIx) (d : VIx) (a b : GIx) (s : State) :
    Host.Outcome State Fault Refusal :=
  s.vfp2 ty k d a b fun e x y => (fmtOf ty).round (s.vrnd rm e) (fsum (s.vrnd rm e).mode [x, y]).exact

def execVsub (ty : ElemTy) (rm : Rm) (k : KIx) (d : VIx) (a b : GIx) (s : State) :
    Host.Outcome State Fault Refusal :=
  s.vfp2 ty k d a b fun e x y => (fmtOf ty).round (s.vrnd rm e) (fsum (s.vrnd rm e).mode [x, y.neg]).exact

def execVmul (ty : ElemTy) (rm : Rm) (k : KIx) (d : VIx) (a b : GIx) (s : State) :
    Host.Outcome State Fault Refusal :=
  s.vfp2 ty k d a b fun e x y => (fmtOf ty).round (s.vrnd rm e) (fmulVal x y).exact

def execVfma (ty : ElemTy) (rm : Rm) (k : KIx) (d : VIx) (a b c : GIx) (s : State) :
    Host.Outcome State Fault Refusal :=
  s.velt ty k d [a, b, c] fun e xs =>
    let v := fun i => s.fin ty (xs.getD i 0)
    (fmtOf ty).round (s.vrnd rm e) (fsum (s.vrnd rm e).mode [fmulVal (v 0) (v 1), v 2]).exact

/-- Minimum and maximum of flushed inputs (R134). -/
def State.vminMax (s : State) (wantMax : Bool) (ty : ElemTy) (k : KIx) (d : VIx) (a b : GIx) :
    Host.Outcome State Fault Refusal :=
  let f := fmtOf ty
  s.velt ty k d [a, b] fun _ xs =>
    f.minMax wantMax (f.flushIn s.cur.ftz (xs.getD 0 0)) (f.flushIn s.cur.ftz (xs.getD 1 0))

def execVmin (ty : ElemTy) (k : KIx) (d : VIx) (a b : GIx) (s : State) : Host.Outcome State Fault Refusal :=
  s.vminMax false ty k d a b
def execVmax (ty : ElemTy) (k : KIx) (d : VIx) (a b : GIx) (s : State) : Host.Outcome State Fault Refusal :=
  s.vminMax true ty k d a b

/-- Sign changes; under FTZ the input, and so the result, is flushed (R74). -/
def execVabs (ty : ElemTy) (k : KIx) (d : VIx) (a : GIx) (s : State) : Host.Outcome State Fault Refusal :=
  s.velt ty k d [a] fun _ xs => (fmtOf ty).absCode ((fmtOf ty).flushIn s.cur.ftz (xs.getD 0 0))
def execVneg (ty : ElemTy) (k : KIx) (d : VIx) (a : GIx) (s : State) : Host.Outcome State Fault Refusal :=
  s.velt ty k d [a] fun _ xs => (fmtOf ty).negCode ((fmtOf ty).flushIn s.cur.ftz (xs.getD 0 0))

/-! Table 6.6. -/
def execVrcp (ty : ElemTy) (rm : Rm) (k : KIx) (d : VIx) (a : GIx) (s : State) : Host.Outcome State Fault Refusal :=
  s.vfp1 ty k d a fun e x => (fmtOf ty).recip (s.vrnd rm e) x
def execVrsq (ty : ElemTy) (rm : Rm) (k : KIx) (d : VIx) (a : GIx) (s : State) : Host.Outcome State Fault Refusal :=
  s.vfp1 ty k d a fun e x => (fmtOf ty).rsqrt (s.vrnd rm e) x
def execVexp2 (ty : ElemTy) (rm : Rm) (k : KIx) (d : VIx) (a : GIx) (s : State) : Host.Outcome State Fault Refusal :=
  s.vfp1 ty k d a fun e x => (fmtOf ty).exp2 (s.vrnd rm e) x
def execVlog2 (ty : ElemTy) (rm : Rm) (k : KIx) (d : VIx) (a : GIx) (s : State) : Host.Outcome State Fault Refusal :=
  s.vfp1 ty k d a fun e x => (fmtOf ty).log2 (s.vrnd rm e) x

/-! ## Conversion (R145, R146) -/

/-- An element inside a v register in its own bits: the element formats ignore the upper bits of their byte
(R139). -/
def eltCode (ty : ElemTy) (c : Nat) : Nat := c % 2 ^ tyBits ty

/-- The flush of a conversion: inputs of F32, BF16, F16, and results in those types (R74). -/
def State.vconv (s : State) (src dst : ElemTy) (rm : Rm) (e c : Nat) : Nat :=
  convert src dst (s.vrnd rm e) (eltCode src c)

/-- Elements of the destination that a VCVT without .MX writes: pairs of destination and source element whose
lane is active (R145). -/
def cvtPairs (t : Thread) (k : KIx) (src dst : ElemTy) (p : Nat) : List (Nat × Nat) :=
  let ws := src.width
  let wd := dst.width
  let w := Nat.max ws wd
  let n := 512 / w
  (List.range n).filterMap fun i =>
    if t.active k (i * w / 32) then
      some (if wd < ws then p * n + i else i, if ws < wd then p * n + i else i)
    else none

/-- A destination lane of VCVT: the elements written, and the poison rule of R145. -/
def cvtLane (va old : VReg) (src dst : ElemTy) (pairs : List (Nat × Nat)) (code : Nat → Nat → Nat) (j : Nat) :
    Nat × Bool :=
  let wd := dst.width
  let here := pairs.filter fun q => laneIdx wd q.1 == j
  if here.isEmpty then old.lane j
  else
    let srcLanes := (here.map fun q => laneIdx src.width q.2).filter va.bad
    match srcLanes with
    | l :: ls => poisonLane (va.cls (ls.foldl Nat.min l))
    | [] =>
      if old.bad j && here.length < 32 / wd then old.lane j
      else
        (laneOf wd (fun e =>
          match here.lookup e with
          | some se => code e se
          | none => old.elt wd e) j, false)

def execVcvt (src dst : ElemTy) (rm : Rm) (k : KIx) (p : Fin 4) (d : VIx) (a : GIx) (s : State) :
    Host.Outcome State Fault Refusal :=
  let t := s.cur
  let va := t.vsrc src.width a
  let pairs := cvtPairs t k src dst p
  s.doneV d (mkVReg fun j =>
    cvtLane va (t.rv d) src dst pairs (fun e se => s.vconv src dst rm e (va.elt src.width se)) j)

/-- The first poisoned lane among those read, register by register. -/
def firstBad (regs : List (VReg × Nat)) : Option Nat :=
  match regs with
  | [] => none
  | (v, n) :: rest =>
    match (List.range n).find? v.bad with
    | some j => some (v.cls j)
    | none => firstBad rest

/-- Every lane poisoned with a class. -/
def allPoison (c : Nat) : VReg := mkVReg fun _ => poisonLane c

/-- Encoding 32 values to a Microscaling block: the codes, then the scale (R146). -/
def mxEncode (s : State) (src dst : ElemTy) (rm : Rm) (va vb : VReg) : VReg :=
  let f := fmtOf src
  let code := fun e => if src = .f32 ∧ 16 ≤ e then vb.elt 32 (e - 16) else va.elt src.width e
  let vals := (List.range 32).map fun e => f.read (f.flushIn s.cur.ftz (code e))
  let x := blockScale dst vals
  let codes := blockCodes dst x (s.vrnd rm) vals
  mkVReg fun j => (laneOf 8 (fun e => if e < 32 then codes.getD e 0 else if e = 32 then x else 0) j, false)

/-- Decoding a Microscaling block (R146). -/
def mxDecode (s : State) (src dst : ElemTy) (rm : Rm) (p : Nat) (va : VReg) : VReg :=
  let x := va.elt 8 32
  let w := dst.width
  mkVReg fun j =>
    (laneOf w (fun e =>
      let i := if dst = .f32 then 16 * p + e else e
      (fmtOf dst).round (s.vrnd rm e) (scaled (readVal src (eltCode src (va.elt 8 i))) x).exact) j, false)

def execVcvtMx (src dst : ElemTy) (rm : Rm) (p : Fin 4) (d : VIx) (a b : GIx) (s : State) :
    Host.Outcome State Fault Refusal :=
  let t := s.cur
  let va := t.vsrc src.width a
  if src.isF then
    let vb := t.vsrc 32 b
    match firstBad (if src = .f32 then [(va, 16), (vb, 16)] else [(va, 16)]) with
    | some c => s.doneV d (allPoison c)
    | none => s.doneV d (mxEncode s src dst rm va vb)
  else
    match firstBad [(va, 9)] with
    | some c => s.doneV d (allPoison c)
    | none => s.doneV d (mxDecode s src dst rm p va)

/-! ## Dot products and reductions (R147, R148) -/

/-- The dot product of lane j and its addend, in a float type. -/
def dotLaneF (s : State) (ty : ElemTy) (rm : Rm) (va vb vc : VReg) (j : Nat) : Nat :=
  let w := ty.width
  let m := 32 / w
  let prods := (List.range m).map fun i =>
    fmulVal (s.fin ty (va.elt w (m * j + i))) (s.fin ty (vb.elt w (m * j + i)))
  let r := s.vrnd rm j
  fmtF32.round r (fsum r.mode (prods ++ [s.fin .f32 (vc.elt 32 j)])).exact

/-- The same for I8 and N8: the sum wraps. -/
def dotLaneI (ty : ElemTy) (va vb vc : VReg) (j : Nat) : Nat :=
  let prods := (List.range 4).map fun i => intOf ty (va.elt 8 (4 * j + i)) * intOf ty (vb.elt 8 (4 * j + i))
  wrapInt 32 (prods.foldl (· + ·) (sgn 32 (vc.elt 32 j)))

def execVdot (ty : ElemTy) (rm : Rm) (k : KIx) (d : VIx) (a b c : GIx) (s : State) :
    Host.Outcome State Fault Refusal :=
  let t := s.cur
  let va := t.vsrc ty.width a
  let vb := t.vsrc ty.width b
  let vc := t.vsrc 32 c
  s.doneV d (t.lanewise k d [va, vb, vc] fun j =>
    if ty.isF then dotLaneF s ty rm va vb vc j else dotLaneI ty va vb vc j)

/-- One level of the tree of R79: nodes numbered from e. -/
def treeLevel (f : Nat → Nat → Nat → Nat) : Nat → List Nat → List Nat
  | e, x :: y :: rest => f e x y :: treeLevel f (e + 1) rest
  | _, rest => rest

/-- The root of the tree over 2^n elements, its nodes numbered level by level from e. -/
def treeRoot (f : Nat → Nat → Nat → Nat) : Nat → Nat → List Nat → Nat
  | 0, _, xs => xs.headD 0
  | n + 1, e, xs => treeRoot f n (e + xs.length / 2) (treeLevel f e xs)

/-- A reduction: element 0 of vD receives the root, every other element is zero; the class of the lowest poisoned
active element poisons lane 0 (R79, R148). -/
def State.vreduce (s : State) (ty : ElemTy) (k : KIx) (d : VIx) (a : GIx) (excluded : Nat)
    (f : Nat → Nat → Nat → Nat) : Host.Outcome State Fault Refusal :=
  let t := s.cur
  let w := ty.width
  let va := t.vsrc w a
  let n := ty.count
  match (List.range 16).find? (fun j => t.active k j && va.bad j) with
  | some j => s.doneV d (mkVReg fun i => if i = 0 then poisonLane (va.cls j) else (0, false))
  | none =>
    let xs := (List.range n).map fun e =>
      if t.active k (laneIdx w e) then (fmtOf ty).flushIn t.ftz (va.elt w e) else excluded
    s.doneV d (mkVReg fun i => (if i = 0 then treeRoot f (Nat.log2 n) 0 xs else 0, false))

def execVsum (ty : ElemTy) (rm : Rm) (k : KIx) (d : VIx) (a : GIx) (s : State) :
    Host.Outcome State Fault Refusal :=
  let f := fmtOf ty
  s.vreduce ty k d a (f.signed true 0) fun e x y =>
    f.round (s.vrnd rm e) (fsum (s.vrnd rm e).mode [f.read x, f.read y]).exact

def execVrmax (ty : ElemTy) (k : KIx) (d : VIx) (a : GIx) (s : State) : Host.Outcome State Fault Refusal :=
  let f := fmtOf ty
  s.vreduce ty k d a (f.signed true (f.infc.getD 0)) fun _ x y => f.minMax true x y

/-! ## Vector integer (Table 6.7) -/

def State.vint (s : State) (ty : ElemTy) (k : KIx) (d : VIx) (a b : GIx) (f : Nat → Nat → Nat → Nat) :
    Host.Outcome State Fault Refusal :=
  s.velt ty k d [a, b] fun _ xs => f ty.width (xs.getD 0 0) (xs.getD 1 0)

def execViadd (ty : ElemTy) (k : KIx) (d : VIx) (a b : GIx) (s : State) : Host.Outcome State Fault Refusal :=
  s.vint ty k d a b fun _ x y => x + y
def execVisub (ty : ElemTy) (k : KIx) (d : VIx) (a b : GIx) (s : State) : Host.Outcome State Fault Refusal :=
  s.vint ty k d a b fun w x y => x + 2 ^ w - y
def execVimul (ty : ElemTy) (k : KIx) (d : VIx) (a b : GIx) (s : State) : Host.Outcome State Fault Refusal :=
  s.vint ty k d a b fun _ x y => x * y
def execVand (ty : ElemTy) (k : KIx) (d : VIx) (a b : GIx) (s : State) : Host.Outcome State Fault Refusal :=
  s.vint ty k d a b fun _ x y => x &&& y
def execVor (ty : ElemTy) (k : KIx) (d : VIx) (a b : GIx) (s : State) : Host.Outcome State Fault Refusal :=
  s.vint ty k d a b fun _ x y => x ||| y
def execVxor (ty : ElemTy) (k : KIx) (d : VIx) (a b : GIx) (s : State) : Host.Outcome State Fault Refusal :=
  s.vint ty k d a b fun _ x y => x ^^^ y
def execVshl (ty : ElemTy) (k : KIx) (d : VIx) (a b : GIx) (s : State) : Host.Outcome State Fault Refusal :=
  s.vint ty k d a b fun w x y => x * 2 ^ (y % w)
def execVshr (ty : ElemTy) (k : KIx) (d : VIx) (a b : GIx) (s : State) : Host.Outcome State Fault Refusal :=
  s.vint ty k d a b fun w x y => x / 2 ^ (y % w)
def execVsra (ty : ElemTy) (k : KIx) (d : VIx) (a b : GIx) (s : State) : Host.Outcome State Fault Refusal :=
  s.vint ty k d a b fun w x y => wrapInt w (sgn w x / 2 ^ (y % w))

/-! ## Lanes and masks (R150-R154) -/

/-- An element of a type as an integer with the type's signedness. -/
def eltInt (ty : ElemTy) (c : Nat) : Int := intOf ty c

/-- Conditions of VCMP on integer elements (R150). -/
def vcondInt (ty : ElemTy) (c : Cond) (x y : Nat) : Bool :=
  match c with
  | .eq => x == y
  | .ne => x != y
  | .lt => eltInt ty x < eltInt ty y
  | .ge => eltInt ty y ≤ eltInt ty x
  | .ltu => x < y
  | .geu => y ≤ x

/-- The float condition of a code (Table 4.3); .LTU and .GEU have none. -/
def fcondOf : Cond → FCond
  | .eq => .eq
  | .ne => .ne
  | .lt => .lt
  | _ => .ge

def execVcmp (c : Cond) (ty : ElemTy) (e : Fin 4) (k : KIx) (d : KIx) (a b : GIx) (s : State) :
    Host.Outcome State Fault Refusal :=
  let t := s.cur
  let w := ty.width
  let va := t.vsrc w a
  let vb := t.vsrc w b
  let bad := fun (v : VReg) => (List.range 16).find? fun j => t.active k j && v.bad j
  match bad va, bad vb with
  | some j, _ => s.trap causePoison (va.cls j)
  | none, some j => s.trap causePoison (vb.cls j)
  | none, none =>
    let f := fmtOf ty
    let holds := fun j =>
      let i := j * (32 / w) + e.val
      let x := va.elt w i
      let y := vb.elt w i
      if ty.isF then f.cmp (fcondOf c) (f.flushIn t.ftz x) (f.flushIn t.ftz y) else vcondInt ty c x y
    let m := packElts 1 ((List.range 16).map fun j => boolNat (t.active k j && holds j))
    s.done (t.wk d (BitVec.ofNat 16 m))

/-- VSEL (R151): lanes move as they are (log 69). -/
def execVsel (k : KIx) (d : VIx) (a b : GIx) (s : State) : Host.Outcome State Fault Refusal :=
  let t := s.cur
  let va := t.vsrc 32 a
  let vb := t.vsrc 32 b
  s.doneV d (mkVReg fun j => if t.active k j then va.lane j else vb.lane j)

/-- VPERM (R152): bits of elements move as they are, under FTZ too (R74; DEDUCED, log 69). -/
def execVperm (ty : ElemTy) (k : KIx) (d : VIx) (a b : GIx) (s : State) : Host.Outcome State Fault Refusal :=
  let t := s.cur
  let w := ty.width
  let n := 512 / w
  let va := t.vsrc w a
  let vb := t.vsrc w b
  let pick := fun e => vb.elt w e
  let zeroes := fun e => bit (pick e) (w - 1)
  s.doneV d (mkVReg fun j =>
    if !t.active k j then (t.rv d).lane j
    else if vb.bad j then poisonLane (vb.cls j)
    else
      let es := (List.range (32 / w)).map fun i => j * (32 / w) + i
      match es.find? (fun e => !zeroes e && va.bad (laneIdx w (pick e % n))) with
      | some e => poisonLane (va.cls (laneIdx w (pick e % n)))
      | none => (laneOf w (fun e => if zeroes e then 0 else va.elt w (pick e % n)) j, false))

/-- VMOVG (R153): the bits of an element, under FTZ too (R74; DEDUCED, log 69). -/
def execVmovg (ty : ElemTy) (e : Fin 64) (d a : GIx) (s : State) : Host.Outcome State Fault Refusal :=
  let w := ty.width
  let va := s.cur.vsrc w a
  let j := laneIdx w e
  if va.bad j then s.doneG d (tilePoison (va.cls j) s.curTile)
  else s.doneG d (dataReg (if tySigned ty then BitVec.ofInt 64 (sgn w (va.elt w e)) else BitVec.ofNat 64 (va.elt w e)))

/-- VMOVL (R153): bits to an element, under FTZ too (R74; DEDUCED, log 69). -/
def execVmovl (ty : ElemTy) (e : Fin 64) (d : VIx) (a : GIx) (s : State) : Host.Outcome State Fault Refusal :=
  let t := s.cur
  let w := ty.width
  let r := t.rd a
  let old := t.rv d
  s.doneV d (mkVReg fun j =>
    if j ≠ laneIdx w e then old.lane j
    else if r.isPoison then poisonLane r.cls
    else if old.bad j && w < 32 then old.lane j
    else (laneOf w (fun i => if i = e.val then r.low.toNat else old.elt w i) j, false))

/-- VBCAST (R153): the bits of an element, under FTZ too (R74; DEDUCED, log 69). -/
def execVbcast (ty : ElemTy) (e : Fin 64) (k : KIx) (d : VIx) (a : GIx) (s : State) :
    Host.Outcome State Fault Refusal :=
  let t := s.cur
  let w := ty.width
  let va := t.vsrc w a
  let j0 := laneIdx w e
  s.doneV d (mkVReg fun j =>
    if !t.active k j then (t.rv d).lane j
    else if va.bad j0 then poisonLane (va.cls j0)
    else (laneOf w (fun _ => va.elt w e) j, false))

def execKand (d a b : KIx) (s : State) : Host.Outcome State Fault Refusal :=
  s.done (s.cur.wk d (s.cur.rk a &&& s.cur.rk b))
def execKor (d a b : KIx) (s : State) : Host.Outcome State Fault Refusal :=
  s.done (s.cur.wk d (s.cur.rk a ||| s.cur.rk b))
def execKnot (d a : KIx) (s : State) : Host.Outcome State Fault Refusal := s.done (s.cur.wk d (~~~(s.cur.rk a)))

/-- One bits of a mask register. -/
def maskCount (x : BitVec 16) : Nat := ((List.range 16).filter fun j => bit x.toNat j).length

def execKpop (d : GIx) (a : KIx) (s : State) : Host.Outcome State Fault Refusal :=
  s.doneG d (dataReg (BitVec.ofNat 64 (maskCount (s.cur.rk a))))

end Sys2Proof.Machine
end

