-- ==== Sys2Proof/Machine/Dispatch.lean ====
section
/-! DEFINITION. Dispatch: one arm per constructor of Instr, each a direct call of that instruction's or step's meaning. -/
namespace Sys2Proof.Machine

def exec (i : Instr) (s : State) : Host.Outcome State Fault Refusal :=
  match i with
  | .nop => Sys2Proof.Machine.execNop s
  | .add d a b => Sys2Proof.Machine.execAdd d a b s
  | .sub d a b => Sys2Proof.Machine.execSub d a b s
  | .and d a b => Sys2Proof.Machine.execAnd d a b s
  | .or d a b => Sys2Proof.Machine.execOr d a b s
  | .xor d a b => Sys2Proof.Machine.execXor d a b s
  | .andn d a b => Sys2Proof.Machine.execAndn d a b s
  | .shl d a b => Sys2Proof.Machine.execShl d a b s
  | .shr d a b => Sys2Proof.Machine.execShr d a b s
  | .sra d a b => Sys2Proof.Machine.execSra d a b s
  | .min d a b => Sys2Proof.Machine.execMin d a b s
  | .max d a b => Sys2Proof.Machine.execMax d a b s
  | .minu d a b => Sys2Proof.Machine.execMinu d a b s
  | .maxu d a b => Sys2Proof.Machine.execMaxu d a b s
  | .mov d a => Sys2Proof.Machine.execMov d a s
  | .mul d a b => Sys2Proof.Machine.execMul d a b s
  | .mulh d a b => Sys2Proof.Machine.execMulh d a b s
  | .mulhu d a b => Sys2Proof.Machine.execMulhu d a b s
  | .div d a b => Sys2Proof.Machine.execDiv d a b s
  | .divu d a b => Sys2Proof.Machine.execDivu d a b s
  | .rem d a b => Sys2Proof.Machine.execRem d a b s
  | .remu d a b => Sys2Proof.Machine.execRemu d a b s
  | .clz d a => Sys2Proof.Machine.execClz d a s
  | .ctz d a => Sys2Proof.Machine.execCtz d a s
  | .popc d a => Sys2Proof.Machine.execPopc d a s
  | .sext d a wm1 => Sys2Proof.Machine.execSext d a wm1 s
  | .zext d a wm1 => Sys2Proof.Machine.execZext d a wm1 s
  | .shli d a n => Sys2Proof.Machine.execShli d a n s
  | .shri d a n => Sys2Proof.Machine.execShri d a n s
  | .srai d a n => Sys2Proof.Machine.execSrai d a n s
  | .bfx d a wm1 pos => Sys2Proof.Machine.execBfx d a wm1 pos s
  | .bfi d a wm1 pos => Sys2Proof.Machine.execBfi d a wm1 pos s
  | .addi d a imm => Sys2Proof.Machine.execAddi d a imm s
  | .andi d a imm => Sys2Proof.Machine.execAndi d a imm s
  | .ori d a imm => Sys2Proof.Machine.execOri d a imm s
  | .xori d a imm => Sys2Proof.Machine.execXori d a imm s
  | .movi d x => Sys2Proof.Machine.execMovi d x s
  | .moviShifted d x => Sys2Proof.Machine.execMoviShifted d x s
  | .cmp k c a b => Sys2Proof.Machine.execCmp k c a b s
  | .cmpi k c a imm => Sys2Proof.Machine.execCmpi k c a imm s
  | .tstb k ne a n => Sys2Proof.Machine.execTstb k ne a n s
  | .tstg k ne a t => Sys2Proof.Machine.execTstg k ne a t s
  | .j sv h => Sys2Proof.Machine.execJ sv h s
  | .jl sv h => Sys2Proof.Machine.execJl sv h s
  | .jr a => Sys2Proof.Machine.execJr a s
  | .jlr a => Sys2Proof.Machine.execJlr a s
  | .capget d a sel => Sys2Proof.Machine.execCapget d a sel s
  | .capset d a b => Sys2Proof.Machine.execCapset d a b s
  | .capadd d a b => Sys2Proof.Machine.execCapadd d a b s
  | .capbnd d a b => Sys2Proof.Machine.execCapbnd d a b s
  | .capprm d a b => Sys2Proof.Machine.execCapprm d a b s
  | .capclr d a => Sys2Proof.Machine.execCapclr d a s
  | .capwv d a b c => Sys2Proof.Machine.execCapwv d a b c s
  | .capchk d a b perm => Sys2Proof.Machine.execCapchk d a b perm s
  | .ld z sz d a m => Sys2Proof.Machine.execLd z sz d a m s
  | .st sz d a m => Sys2Proof.Machine.execSt sz d a m s
  | .ldv d a k m => Sys2Proof.Machine.execLdv d a k m s
  | .stv d a k m => Sys2Proof.Machine.execStv d a k m s
  | .ldvs ew d a b k m => Sys2Proof.Machine.execLdvs ew d a b k m s
  | .stvs ew d a b k m => Sys2Proof.Machine.execStvs ew d a b k m s
  | .vgath d a b k off => Sys2Proof.Machine.execVgath d a b k off s
  | .vscat d a b k off => Sys2Proof.Machine.execVscat d a b k off s
  | .ldcap d a m => Sys2Proof.Machine.execLdcap d a m s
  | .stcap d a m => Sys2Proof.Machine.execStcap d a m s
  | .putf sz d a c m => Sys2Proof.Machine.execPutf sz d a c m s
  | .putvf d a k c m => Sys2Proof.Machine.execPutvf d a k c m s
  | .radd ty a b c off => Sys2Proof.Machine.execRadd ty a b c off s
  | .rmin ty a b c off => Sys2Proof.Machine.execRmin ty a b c off s
  | .rmax ty a b c off => Sys2Proof.Machine.execRmax ty a b c off s
  | .rand ty a b c off => Sys2Proof.Machine.execRand ty a b c off s
  | .ror ty a b c off => Sys2Proof.Machine.execRor ty a b c off s
  | .rxor ty a b c off => Sys2Proof.Machine.execRxor ty a b c off s
  | .rfadd ty d a b off => Sys2Proof.Machine.execRfadd ty d a b off s
  | .rcas ty d a b c off => Sys2Proof.Machine.execRcas ty d a b c off s
  | .rswap ty d a b off => Sys2Proof.Machine.execRswap ty d a b off s
  | .ldc d a off => Sys2Proof.Machine.execLdc d a off s
  | .stp d a off => Sys2Proof.Machine.execStp d a off s
  | .feset full a off => Sys2Proof.Machine.execFeset full a off s
  | .fsig a b off => Sys2Proof.Machine.execFsig a b off s
  | .fwait d a en eq => Sys2Proof.Machine.execFwait d a en eq s
  | .wfw => Sys2Proof.Machine.execWfw s
  | .tspawn a b clusterRing => Sys2Proof.Machine.execTspawn a b clusterRing s
  | .tdec a => Sys2Proof.Machine.execTdec a s
  | .tcancel d a => Sys2Proof.Machine.execTcancel d a s
  | .gcset n a b c => Sys2Proof.Machine.execGcset n a b c s
  | .gchunk n d => Sys2Proof.Machine.execGchunk n d s
  | .bar a id => Sys2Proof.Machine.execBar a id s
  | .pbara id => Sys2Proof.Machine.execPbara id s
  | .pbarw d id => Sys2Proof.Machine.execPbarw d id s
  | .pbar d id => Sys2Proof.Machine.execPbar d id s
  | .scrub a off => Sys2Proof.Machine.execScrub a off s
  | .poison a off => Sys2Proof.Machine.execPoison a off s
  | .flogrd d e w => Sys2Proof.Machine.execFlogrd d e w s
  | .flogclr mask => Sys2Proof.Machine.execFlogclr mask s
  | .fadd rm d a b => Sys2Proof.Machine.execFadd rm d a b s
  | .fsub rm d a b => Sys2Proof.Machine.execFsub rm d a b s
  | .fmul rm d a b => Sys2Proof.Machine.execFmul rm d a b s
  | .ffma rm d a b c => Sys2Proof.Machine.execFfma rm d a b c s
  | .fdiv rm d a b => Sys2Proof.Machine.execFdiv rm d a b s
  | .fsqrt rm d a => Sys2Proof.Machine.execFsqrt rm d a s
  | .fmin d a b => Sys2Proof.Machine.execFmin d a b s
  | .fmax d a b => Sys2Proof.Machine.execFmax d a b s
  | .fabs d a => Sys2Proof.Machine.execFabs d a s
  | .fneg d a => Sys2Proof.Machine.execFneg d a s
  | .fcvt src dst rm d a => Sys2Proof.Machine.execFcvt src dst rm d a s
  | .fclass d a => Sys2Proof.Machine.execFclass d a s
  | .fcmp k c a b => Sys2Proof.Machine.execFcmp k c a b s
  | .vadd ty rm k d a b => Sys2Proof.Machine.execVadd ty rm k d a b s
  | .vsub ty rm k d a b => Sys2Proof.Machine.execVsub ty rm k d a b s
  | .vmul ty rm k d a b => Sys2Proof.Machine.execVmul ty rm k d a b s
  | .vfma ty rm k d a b c => Sys2Proof.Machine.execVfma ty rm k d a b c s
  | .vmin ty k d a b => Sys2Proof.Machine.execVmin ty k d a b s
  | .vmax ty k d a b => Sys2Proof.Machine.execVmax ty k d a b s
  | .vabs ty k d a => Sys2Proof.Machine.execVabs ty k d a s
  | .vneg ty k d a => Sys2Proof.Machine.execVneg ty k d a s
  | .vrcp ty rm k d a => Sys2Proof.Machine.execVrcp ty rm k d a s
  | .vrsq ty rm k d a => Sys2Proof.Machine.execVrsq ty rm k d a s
  | .vexp2 ty rm k d a => Sys2Proof.Machine.execVexp2 ty rm k d a s
  | .vlog2 ty rm k d a => Sys2Proof.Machine.execVlog2 ty rm k d a s
  | .vcvt src dst rm k p d a => Sys2Proof.Machine.execVcvt src dst rm k p d a s
  | .vcvtMx src dst rm p d a b => Sys2Proof.Machine.execVcvtMx src dst rm p d a b s
  | .vdot ty rm k d a b c => Sys2Proof.Machine.execVdot ty rm k d a b c s
  | .vsum ty rm k d a => Sys2Proof.Machine.execVsum ty rm k d a s
  | .vrmax ty k d a => Sys2Proof.Machine.execVrmax ty k d a s
  | .viadd ty k d a b => Sys2Proof.Machine.execViadd ty k d a b s
  | .visub ty k d a b => Sys2Proof.Machine.execVisub ty k d a b s
  | .vimul ty k d a b => Sys2Proof.Machine.execVimul ty k d a b s
  | .vand ty k d a b => Sys2Proof.Machine.execVand ty k d a b s
  | .vor ty k d a b => Sys2Proof.Machine.execVor ty k d a b s
  | .vxor ty k d a b => Sys2Proof.Machine.execVxor ty k d a b s
  | .vshl ty k d a b => Sys2Proof.Machine.execVshl ty k d a b s
  | .vshr ty k d a b => Sys2Proof.Machine.execVshr ty k d a b s
  | .vsra ty k d a b => Sys2Proof.Machine.execVsra ty k d a b s
  | .vcmp c ty sv k d a b => Sys2Proof.Machine.execVcmp c ty sv k d a b s
  | .vsel k d a b => Sys2Proof.Machine.execVsel k d a b s
  | .vperm ty k d a b => Sys2Proof.Machine.execVperm ty k d a b s
  | .vmovg ty e d a => Sys2Proof.Machine.execVmovg ty e d a s
  | .vmovl ty e d a => Sys2Proof.Machine.execVmovl ty e d a s
  | .vbcast ty e k d a => Sys2Proof.Machine.execVbcast ty e k d a s
  | .kand d a b => Sys2Proof.Machine.execKand d a b s
  | .kor d a b => Sys2Proof.Machine.execKor d a b s
  | .knot d a => Sys2Proof.Machine.execKnot d a s
  | .kpop d a => Sys2Proof.Machine.execKpop d a s
  | .copy d dst src shp wf wn sf => Sys2Proof.Machine.execCopy d dst src shp wf wn sf s
  | .copyp d dst src shp wf wn sf => Sys2Proof.Machine.execCopyp d dst src shp wf wn sf s
  | .copym d dst src shp wf wn sf mask => Sys2Proof.Machine.execCopym d dst src shp wf wn sf mask s
  | .copytTo d src shp wf wn sf t => Sys2Proof.Machine.execCopytTo d src shp wf wn sf t s
  | .copytFrom d dst shp wf wn sf t => Sys2Proof.Machine.execCopytFrom d dst shp wf wn sf t s
  | .copys d a => Sys2Proof.Machine.execCopys d a s
  | .copyk d a => Sys2Proof.Machine.execCopyk d a s
  | .mma ty t a b wf wn sf k => Sys2Proof.Machine.execMma ty t a b wf wn sf k s
  | .mmas ty n t a b md wf wn sf k => Sys2Proof.Machine.execMmas ty n t a b md wf wn sf k s
  | .tcfg t a => Sys2Proof.Machine.execTcfg t a s
  | .tzero t wf wn sf => Sys2Proof.Machine.execTzero t wf wn sf s
  | .tcvt dty rm t dst wf wn sf => Sys2Proof.Machine.execTcvt dty rm t dst wf wn sf s
  | .tsclRow t sv b wf wn sf => Sys2Proof.Machine.execTsclRow t sv b wf wn sf s
  | .tsclCol t sv b wf wn sf => Sys2Proof.Machine.execTsclCol t sv b wf wn sf s
  | .eret => Sys2Proof.Machine.execEret s
  | .yield => Sys2Proof.Machine.execYield s
  | .halt => Sys2Proof.Machine.execHalt s
  | .pdrain => Sys2Proof.Machine.execPdrain s
  | .rdcnt d => Sys2Proof.Machine.execRdcnt d s
  | .trap code => Sys2Proof.Machine.execTrap code s
  | .sysrd d r => Sys2Proof.Machine.execSysrd d r s
  | .syswr r a => Sys2Proof.Machine.execSyswr r a s
  | .wake a => Sys2Proof.Machine.execWake a s
  | .ctxst a b => Sys2Proof.Machine.execCtxst a b s
  | .ctxld a b => Sys2Proof.Machine.execCtxld a b s
  | .tlbinv a b scope => Sys2Proof.Machine.execTlbinv a b scope s
  | .fetchRefill tile thr => Sys2Proof.Machine.execFetchRefill tile thr s
  | .routerCycle tile => Sys2Proof.Machine.execRouterCycle tile s
  | .throttleExpiry tile => Sys2Proof.Machine.execThrottleExpiry tile s
  | .load h => Sys2Proof.Machine.execLoad h s
  | .loadv h => Sys2Proof.Machine.execLoadv h s
  | .loadcap h => Sys2Proof.Machine.execLoadcap h s
  | .store h => Sys2Proof.Machine.execStore h s
  | .storev h => Sys2Proof.Machine.execStorev h s
  | .storecap h => Sys2Proof.Machine.execStorecap h s
  | .put h => Sys2Proof.Machine.execPut h s
  | .putv h => Sys2Proof.Machine.execPutv h s
  | .atomic h => Sys2Proof.Machine.execAtomic h s
  | .atomicr h => Sys2Proof.Machine.execAtomicr h s
  | .ldcRequest h => Sys2Proof.Machine.execLdcRequest h s
  | .stpRequest h => Sys2Proof.Machine.execStpRequest h s
  | .fesetRequest h => Sys2Proof.Machine.execFesetRequest h s
  | .scrubRequest h => Sys2Proof.Machine.execScrubRequest h s
  | .poisonRequest h => Sys2Proof.Machine.execPoisonRequest h s
  | .arm h => Sys2Proof.Machine.execArm h s
  | .disarm h => Sys2Proof.Machine.execDisarm h s
  | .withdraw h => Sys2Proof.Machine.execWithdraw h s
  | .granule h => Sys2Proof.Machine.execGranule h s
  | .streamend h => Sys2Proof.Machine.execStreamend h s
  | .push h => Sys2Proof.Machine.execPush h s
  | .tdecRequest h => Sys2Proof.Machine.execTdecRequest h s
  | .tcancelRequest h => Sys2Proof.Machine.execTcancelRequest h s
  | .wakeRequest h => Sys2Proof.Machine.execWakeRequest h s
  | .tlbinvRequest cluster => Sys2Proof.Machine.execTlbinvRequest cluster s
  | .tlbinvPortComplete cluster => Sys2Proof.Machine.execTlbinvPortComplete cluster s
  | .resp tile => Sys2Proof.Machine.execResp tile s
  | .respv tile => Sys2Proof.Machine.execRespv tile s
  | .ack h => Sys2Proof.Machine.execAck h s
  | .nak h => Sys2Proof.Machine.execNak h s
  | .nakRetry tile n => Sys2Proof.Machine.execNakRetry tile n s
  | .signal h => Sys2Proof.Machine.execSignal h s
  | .fire tile => Sys2Proof.Machine.execFire tile s
  | .notreg tile => Sys2Proof.Machine.execNotreg tile s
  | .removed tile => Sys2Proof.Machine.execRemoved tile s
  | .armResend tile thr => Sys2Proof.Machine.execArmResend tile thr s
  | .fwaitTimeout tile thr => Sys2Proof.Machine.execFwaitTimeout tile thr s
  | .copyActivate tile entry => Sys2Proof.Machine.execCopyActivate tile entry s
  | .copyGranuleSend tile entry => Sys2Proof.Machine.execCopyGranuleSend tile entry s
  | .matrixGrant cluster => Sys2Proof.Machine.execMatrixGrant cluster s
  | .matrixExecute cluster => Sys2Proof.Machine.execMatrixExecute cluster s
  | .matrixComplete cluster => Sys2Proof.Machine.execMatrixComplete cluster s
  | .tcfgClosed cluster t => Sys2Proof.Machine.execTcfgClosed cluster t s
  | .tcfgClearDone cluster t => Sys2Proof.Machine.execTcfgClearDone cluster t s
  | .dispatch cluster => Sys2Proof.Machine.execDispatch cluster s
  | .dispenserScoreWindow tile => Sys2Proof.Machine.execDispenserScoreWindow tile s
  | .recordPromotion cluster => Sys2Proof.Machine.execRecordPromotion cluster s
  | .cuffSpill cluster => Sys2Proof.Machine.execCuffSpill cluster s
  | .cuffRefill cluster => Sys2Proof.Machine.execCuffRefill cluster s
  | .crownRootArrival tile b => Sys2Proof.Machine.execCrownRootArrival tile b s
  | .crownRelease b => Sys2Proof.Machine.execCrownRelease b s
  | .pageWalk cluster => Sys2Proof.Machine.execPageWalk cluster s
  | .supqRetry => Sys2Proof.Machine.execSupqRetry s
  | .contextCreate c v => Sys2Proof.Machine.execContextCreate c v s
  | .contextDestroy c v => Sys2Proof.Machine.execContextDestroy c v s
  | .ringMap slot v => Sys2Proof.Machine.execRingMap slot v s
  | .ringUnmap slot v => Sys2Proof.Machine.execRingUnmap slot v s
  | .subnotify slot v => Sys2Proof.Machine.execSubnotify slot v s
  | .ringConsume slot => Sys2Proof.Machine.execRingConsume slot s
  | .launchConditionsMet id => Sys2Proof.Machine.execLaunchConditionsMet id s
  | .launchPlacement => Sys2Proof.Machine.execLaunchPlacement s
  | .launchLoad id => Sys2Proof.Machine.execLaunchLoad id s
  | .launchCompletion id => Sys2Proof.Machine.execLaunchCompletion id s
  | .kill v who => Sys2Proof.Machine.execKill v who s
  | .crownBind b v who => Sys2Proof.Machine.execCrownBind b v who s
  | .crownUnbind b v who => Sys2Proof.Machine.execCrownUnbind b v who s
  | .preemptHaltRequest id => Sys2Proof.Machine.execPreemptHaltRequest id s
  | .preemptSettle tile => Sys2Proof.Machine.execPreemptSettle tile s
  | .regionSave id => Sys2Proof.Machine.execRegionSave id s
  | .launchRestore => Sys2Proof.Machine.execLaunchRestore s
  | .hostBar2Access link off acc => Sys2Proof.Machine.execHostBar2Access link off acc s
  | .ioDieOutbound die => Sys2Proof.Machine.execIoDieOutbound die s
  | .atwaldFrame port seq ackseq crcOk slots => Sys2Proof.Machine.execAtwaldFrame port seq ackseq crcOk slots s
  | .atwaldLaneFailure port => Sys2Proof.Machine.execAtwaldLaneFailure port s
  | .enctlWrite p v => Sys2Proof.Machine.execEnctlWrite p v s
  | .entxtail p v => Sys2Proof.Machine.execEntxtail p v s
  | .enrxtail p v => Sys2Proof.Machine.execEnrxtail p v s
  | .ethTransmit p => Sys2Proof.Machine.execEthTransmit p s
  | .ethReceive p frame fcs => Sys2Proof.Machine.execEthReceive p frame fcs s
  | .sramPatrolScrub tile bank => Sys2Proof.Machine.execSramPatrolScrub tile bank s
  | .hbmPatrolScrub stack channel => Sys2Proof.Machine.execHbmPatrolScrub stack channel s
  | .wearLeak u => Sys2Proof.Machine.execWearLeak u s
  | .fenceNotice r cause => Sys2Proof.Machine.execFenceNotice r cause s
  | .crectWrite r v => Sys2Proof.Machine.execCrectWrite r v s
  | .crectUnfence r => Sys2Proof.Machine.execCrectUnfence r s
  | .repairDone u ok => Sys2Proof.Machine.execRepairDone u ok s
  | .quote seq form ctx nonce => Sys2Proof.Machine.execQuote seq form ctx nonce s
  | .keyload seq slot dataKey tweakKey => Sys2Proof.Machine.execKeyload seq slot dataKey tweakKey s
  | .keyerase seq slot => Sys2Proof.Machine.execKeyerase seq slot s
  | .keyenroll seq slot key signer sig => Sys2Proof.Machine.execKeyenroll seq slot key signer sig s
  | .ckpt seq base len => Sys2Proof.Machine.execCkpt seq base len s
  | .restore seq base => Sys2Proof.Machine.execRestore seq base s
  | .pwrlim seq watts => Sys2Proof.Machine.execPwrlim seq watts s
  | .fence seq r => Sys2Proof.Machine.execFence seq r s
  | .remap seq die col => Sys2Proof.Machine.execRemap seq die col s
  | .hbmppr seq stack channel row => Sys2Proof.Machine.execHbmppr seq stack channel row s
  | .offline seq die force => Sys2Proof.Machine.execOffline seq die force s
  | .online seq die => Sys2Proof.Machine.execOnline seq die s
  | .inject seq inj => Sys2Proof.Machine.execInject seq inj s
  | .readwear seq u => Sys2Proof.Machine.execReadwear seq u s
  | .trctlWrite stack channel v => Sys2Proof.Machine.execTrctlWrite stack channel v s
  | .trpassTest stack channel passed => Sys2Proof.Machine.execTrpassTest stack channel passed s
  | .registerWrite addr v who => Sys2Proof.Machine.execRegisterWrite addr v who s
  | .powerMeasurement watts => Sys2Proof.Machine.execPowerMeasurement watts s
  | .dieTemperature die celsius => Sys2Proof.Machine.execDieTemperature die celsius s
  | .powerOnReset b => Sys2Proof.Machine.execPowerOnReset b s
  | .checkpointWriteDone micros => Sys2Proof.Machine.execCheckpointWriteDone micros s

end Sys2Proof.Machine
end

