-- ==== Sys2Proof/Machine/Issue.lean ====
section
/-! DEFINITION. One cycle of a tile's core: choosing a thread (R11, R12, R364), fetch and its traps (R85, R87, R114, R119, R196),
issue, and the checker's mismatches (R21-R23, R422). -/
namespace Sys2Proof.Machine

/-! ## The checker (R23, R422) -/

/-- Values of the control row of Table 1.3: PC, target, skip decision, mask, system register, privilege. -/
def producesControl : Instr → Bool
  | .j .. | .jl .. | .jr .. | .jlr .. | .cmp .. | .cmpi .. | .tstb .. | .tstg .. | .fcmp .. | .vcmp ..
  | .kand .. | .kor .. | .knot .. | .eret | .trap .. | .syswr .. | .ctxld .. => true
  | _ => false

/-- Instructions that produce an address or a destination. -/
def producesAddress : Instr → Bool
  | .ld .. | .st .. | .ldv .. | .stv .. | .ldvs .. | .stvs .. | .vgath .. | .vscat .. | .ldcap .. | .stcap .. | .putf ..
  | .putvf .. | .radd .. | .rmin .. | .rmax .. | .rand .. | .ror .. | .rxor .. | .rfadd .. | .rcas .. | .rswap .. | .ldc ..
  | .stp .. | .feset .. | .fsig .. | .fwait .. | .tspawn .. | .tdec .. | .tcancel .. | .scrub .. | .poison .. | .copy ..
  | .copyp .. | .copym .. | .copytTo .. | .copytFrom .. | .mma .. | .mmas .. | .tcvt .. | .tsclRow .. | .tsclCol ..
  | .wake .. | .ctxst .. | .tlbinv .. => true
  | _ => false

/-- The capability and offset of the first address that such an instruction produces (Table 13.4, log 29). -/
def addressOpnd : Instr → Option (GIx × Int)
  | .ld _ _ _ a m | .st _ _ a m | .ldv _ a _ m | .stv _ a _ m | .ldvs _ _ a _ _ m | .stvs _ _ a _ _ m | .ldcap _ a m
  | .stcap _ a m | .putf _ _ a _ m | .putvf _ a _ _ m => some (a, mOff m)
  | .vgath _ a _ _ o | .vscat _ a _ _ o | .ldc _ a o | .stp _ a o | .feset _ a o | .fsig a _ o | .scrub a o | .poison a o =>
    some (a, off19 o)
  | .radd _ a _ _ o | .rmin _ a _ _ o | .rmax _ a _ _ o | .rand _ a _ _ o | .ror _ a _ _ o | .rxor _ a _ _ o
  | .rfadd _ _ a _ o | .rcas _ _ a _ _ o | .rswap _ _ a _ o => some (a, off16 o)
  | .fwait .. => some (fwaitFlag 0, 0)
  | .tspawn a _ _ | .tdec a | .tcancel _ a | .wake a | .ctxst a _ => some (a, 0)
  | .copy _ a _ _ _ _ _ | .copyp _ a _ _ _ _ _ | .copym _ a _ _ _ _ _ _ | .copytTo _ a _ _ _ _ _ | .copytFrom _ a _ _ _ _ _ => some (a, 0)
  | .mma _ _ a _ _ _ _ _ | .mmas _ _ _ a _ _ _ _ _ _ | .tcvt _ _ _ a _ _ _ | .tsclRow _ a _ _ _ _ | .tsclCol _ a _ _ _ _ => some (a, 0)
  | _ => none

/-- The address that such an instruction computed: a global address where the capability reaches one. -/
def addressComputed (pkg : Nat) (th : Thread) (i : Instr) : Nat :=
  match addressOpnd i with
  | none => 0
  | some (a, off) =>
    match (th.rd a).reach pkg off 1 with
    | .ok ga => ga
    | _ => (th.rd a).eva off

/-- The g register that an instruction writes besides what it loads: its result, a command id, the link of JL and JLR. -/
def resultG : Instr → Option GIx
  | .add d _ _ | .sub d _ _ | .and d _ _ | .or d _ _ | .xor d _ _ | .andn d _ _ | .shl d _ _ | .shr d _ _ | .sra d _ _
  | .min d _ _ | .max d _ _ | .minu d _ _ | .maxu d _ _ | .mul d _ _ | .mulh d _ _ | .mulhu d _ _ | .div d _ _
  | .divu d _ _ | .rem d _ _ | .remu d _ _ | .capset d _ _ | .capadd d _ _ | .capbnd d _ _ | .capprm d _ _
  | .fmin d _ _ | .fmax d _ _ => some d
  | .mov d _ | .clz d _ | .ctz d _ | .popc d _ | .capclr d _ | .fabs d _ | .fneg d _ | .fclass d _ | .copys d _
  | .copyk d _ => some d
  | .sext d _ _ | .zext d _ _ | .shli d _ _ | .shri d _ _ | .srai d _ _ | .addi d _ _ | .andi d _ _ | .ori d _ _
  | .xori d _ _ | .capget d _ _ => some d
  | .bfx d _ _ _ | .bfi d _ _ _ | .capwv d _ _ _ | .capchk d _ _ _ => some d
  | .movi d _ | .moviShifted d _ | .rdcnt d => some d
  | .fadd _ d _ _ | .fsub _ d _ _ | .fmul _ d _ _ | .fdiv _ d _ _ | .ffma _ d _ _ _ | .fsqrt _ d _ | .fcvt _ _ _ d _ => some d
  | .vmovg _ _ d _ => some d
  | .kpop d _ | .sysrd d _ | .flogrd d _ _ | .gchunk _ d | .pbarw d _ | .pbar d _ => some d
  | .copy d _ _ _ _ _ _ | .copyp d _ _ _ _ _ _ | .copym d _ _ _ _ _ _ _ | .copytTo d _ _ _ _ _ _ | .copytFrom d _ _ _ _ _ _ => some d
  | .jl .. | .jlr .. => some 15
  | _ => none

/-- The v register that an instruction of neither kind writes. -/
def resultV : Instr → Option VIx
  | .vadd _ _ _ d _ _ | .vsub _ _ _ d _ _ | .vmul _ _ _ d _ _ | .vfma _ _ _ d _ _ _ | .vmin _ _ d _ _ | .vmax _ _ d _ _
  | .vabs _ _ d _ | .vneg _ _ d _ | .vrcp _ _ _ d _ | .vrsq _ _ _ d _ | .vexp2 _ _ _ d _ | .vlog2 _ _ _ d _
  | .vcvt _ _ _ _ _ d _ | .vcvtMx _ _ _ _ d _ _ | .vdot _ _ _ d _ _ _ | .vsum _ _ _ d _ | .vrmax _ _ d _
  | .viadd _ _ d _ _ | .visub _ _ d _ _ | .vimul _ _ d _ _ | .vand _ _ d _ _ | .vor _ _ d _ _ | .vxor _ _ d _ _
  | .vshl _ _ d _ _ | .vshr _ _ d _ _ | .vsra _ _ d _ _ | .vsel _ d _ _ | .vperm _ _ d _ _ | .vmovl _ _ d _
  | .vbcast _ _ _ d _ => some d
  | _ => none

/-- A vector result with the lanes that failed poisoned with class 0x07. -/
def spoilLanes (v : VReg) (lanes : BitVec 16) : VReg :=
  mkVReg fun i => if lanes.getLsbD i then poisonLane 7 else v.lane i

/-- The base register that an instruction's post-increment updates (R91), where it does not load it. -/
def baseG : Instr → Option GIx
  | .ld _ _ d a m | .ldcap d a m => if memPi m && d != a then some a else none
  | .st _ _ a m | .ldv _ a _ m | .stv _ a _ m | .ldvs _ _ a _ _ m | .stvs _ _ a _ _ m | .stcap _ a m | .putf _ _ a _ m
  | .putvf _ a _ _ m => if memPi m then some a else none
  | _ => none

/-- The g register that holds the data an instruction stores or sends, and the instruction with another register in its
place, the registers that it reads besides it listed. -/
def dataG : Instr → Option (GIx × List GIx × (GIx → Instr))
  | .st sz d a m => some (d, [a], fun r => .st sz r a m)
  | .stcap d a m => some (d, [a], fun r => .stcap r a m)
  | .putf sz d a c m => some (d, [a, c], fun r => .putf sz r a c m)
  | .radd ty a b c o => some (b, [a, c], fun r => .radd ty a r c o)
  | .rmin ty a b c o => some (b, [a, c], fun r => .rmin ty a r c o)
  | .rmax ty a b c o => some (b, [a, c], fun r => .rmax ty a r c o)
  | .rand ty a b c o => some (b, [a, c], fun r => .rand ty a r c o)
  | .ror ty a b c o => some (b, [a, c], fun r => .ror ty a r c o)
  | .rxor ty a b c o => some (b, [a, c], fun r => .rxor ty a r c o)
  | .rfadd ty d a b o => some (b, [d, a], fun r => .rfadd ty d a r o)
  | .rcas ty d a b c o => some (b, [d, a, c], fun r => .rcas ty d a r c o)
  | .rswap ty d a b o => some (b, [d, a], fun r => .rswap ty d a r o)
  | .stp d a o => some (d, [a], fun r => .stp r a o)
  | .fsig a b o => some (b, [a], fun r => .fsig a r o)
  | _ => none

/-- The same for a v register. -/
def dataV : Instr → Option (VIx × List VIx × (VIx → Instr))
  | .stv d a k m => some (d, [], fun r => .stv r a k m)
  | .stvs ew d a b k m => some (d, [], fun r => .stvs ew r a b k m)
  | .vscat d a b k o => some (d, [b], fun r => .vscat r a b k o)
  | .putvf d a k c m => some (d, [], fun r => .putvf r a k c m)
  | _ => none

/-- An atomic: on its own tile its write is made as if the check had passed (R23). -/
def isAtomic : Instr → Bool
  | .radd .. | .rmin .. | .rmax .. | .rand .. | .ror .. | .rxor .. | .rfadd .. | .rcas .. | .rswap .. => true
  | _ => false

/-- A register that is none of a list. -/
def spareG (used : List GIx) : GIx := Fin.ofNat 16 (((List.range 16).find? fun n => n != 0 && used.all fun r => r.val != n).getD 15)
def spareV (used : List VIx) : VIx := Fin.ofNat 8 (((List.range 8).find? fun n => used.all fun r => r.val != n).getD 7)

/-- An instruction executed with its store data as the failed check leaves them: poisoned with class 0x07, in the lanes that
failed (R23). -/
def State.execSpoiled (s : State) (i : Instr) (f : Faulty) : Host.Outcome State Fault Refusal :=
  let t := s.curTile
  let own := isAtomic i && s.ownGa (addressComputed s.pkg s.cur i)
  match dataG i, dataV i with
  | some (d, used, sub), _ =>
    if !f.data || own then exec i s
    else
      let r := spareG (d :: used)
      let old := s.cur.rd r
      match exec (sub r) (s.setCur (s.cur.wr r (tilePoison 7 t))) with
      | .next s' => .next (s'.updThr t s.curThr fun th => th.wr r old)
      | o => o
  | none, some (d, used, sub) =>
    if f.lanes = 0 then exec i s
    else
      let r := spareV (d :: used)
      let old := s.cur.rv r
      match exec (sub r) (s.setCur (s.cur.wv r (spoilLanes (s.cur.rv d) f.lanes))) with
      | .next s' => .next (s'.updThr t s.curThr fun th => th.wv r old)
      | o => o
  | none, none => exec i s

/-- The instruction gave up its slot: it has not reached W (R17). -/
def forfeited (a b : Thread) : Bool := b.run == .rotation && b.pc == a.pc && b.retired == a.retired && b.exl == a.exl

/-- The instruction has parked with nothing of it performed, to issue again as if it had not. -/
def Thread.undone (th : Thread) : Bool :=
  th.run == .reissue && match th.wait with
    | .walk | .fe _ | .copyQueue | .matrixQueue | .spawnFull | .retryFull | .closing _ | .tlbinv => true
    | _ => false

/-- The synchronising instructions (R303). -/
def synchronises : Instr → Bool
  | .fwait .. | .ldc .. | .stp .. | .bar .. | .pbar .. | .pbarw .. | .wfw | .rcas .. | .rswap .. | .rfadd .. => true
  | _ => false

/-- The event of a second mismatch (R23, R404). -/
def State.mismatchEvent (s : State) : State := s.event 1 3 7 (clusterOf s.curTile) 0 0

/-- The rows of Table 1.3 other than those of a control value and of a failed address: the instruction executes, its failed
store data poisoned, and its failed results are committed poisoned. One that could not complete in this slot comes to its
second execution again. -/
def State.commitFailed (s : State) (i : Instr) (f : Faulty) : Host.Outcome State Fault Refusal :=
  let t := s.curTile
  match s.execSpoiled i f with
  | .next s' =>
    let th := s'.thr t s.curThr
    if forfeited s.cur th || th.undone then .next (s'.setThr t s.curThr { th with recheck := .fails f })
    else
      let done := th.retired != s.cur.retired
      let th := match (match resultG i with | some d => some d | none => baseG i) with
        | some d => if done && f.result then th.wr d (tilePoison 7 t) else th
        | none => th
      let th := match resultV i with
        | some d => if done then th.wv d (spoilLanes (th.rv d) f.lanes) else th
        | none => th
      let th := match th.wait with
        | .resp _ _ => if !done && f.result then { th with badBase := baseG i } else th
        | _ => th
      .next ((s'.setThr t s.curThr th).mismatchEvent)
  | o => o

/-- What the checker's second mismatch makes of an instruction (R23, Table 1.3, R422); it raises a machine-check event. A
synchronising instruction has sampled its pending bit before (R303). -/
def State.secondMismatch (s : State) (i : Instr) (f : Faulty) : Host.Outcome State Fault Refusal :=
  let t := s.curTile
  let s := s.setCur { s.cur with recheck := .no }
  let act :=
    if f.ctl && producesControl i then s.mismatchEvent.trap causePoison 7
    else if f.addr && producesAddress i then
      (let s := s.mismatchEvent.logFault t
         { h := true, thr := s.curThr, origin := originTile t, reason := .none, head := s.curHead, cls := 7,
           addr := BitVec.ofNat 64 (addressComputed s.pkg s.cur i), opnd := 0, pc := s.cur.pc }
       s.done s.cur)
    else s.commitFailed i f
  if synchronises i then s.synchronising act else act

/-- The instruction of the thread at W: as it executes, or as the checker decides. A mismatch to come takes the first
instruction that reaches W. -/
def State.checked (s : State) (i : Instr) : Host.Outcome State Fault Refusal :=
  match s.cur.recheck with
  | .fails f => s.secondMismatch i f
  | .passes => exec i (s.setCur { s.cur with recheck := .no })
  | .no =>
    if s.curT.mismatch = .no then exec i s
    else
      match exec i s with
      | .next s' =>
        if forfeited s.cur s'.cur then .next s'
        else
          let again := s.curT.mismatch
          let s := s.updTile s.curTile fun x => { x with mismatch := .no }
          let s := s.charge 3 (clusterOf s.curTile)
          .next (s.setCur { s.cur with recheck := again })
      | o => o

/-! ## The rows of an instruction (R16, R20) -/

/-- The own-tile accesses of an instruction: the capability, and each access relative to its cursor. -/
def bankAccess (th : Thread) : Instr → Option (GReg × List Elem)
  | .ldv _ a k m | .stv _ a k m | .putvf _ a k _ m => some (th.rd a, (rowOpnd th a k m 0).elems)
  | .ldvs ew _ a b k m | .stvs ew _ a b k m => some (th.rd a, (strideOpnd th ew a b k m 0).elems)
  | .vgath _ a b k o | .vscat _ a b k o => some (th.rd a, (gatherOpnd th a b k o 0).elems)
  | .tdec a | .tcancel _ a => some (th.rd a, [{ size := 64 }, { idx := 1, off := 64, size := 64 }])
  | .copy _ _ _ shp _ _ _ | .copyp _ _ _ shp _ _ _ | .copym _ _ _ shp _ _ _ _ | .copytTo _ _ shp _ _ _ _
  | .copytFrom _ _ shp _ _ _ _ => some (th.rd shp, [{ size := 64 }])
  | .mma .. | .mmas .. | .tcvt .. | .tsclRow .. | .tsclCol .. | .wake .. | .tlbinv .. | .fwait .. => none
  | i => (addressOpnd i).map fun x => (th.rd x.1, [{ off := x.2, size := 1 }])

/-- The instruction writes the rows of its access (R20). -/
def writesRows : Instr → Bool
  | .ld .. | .ldv .. | .ldvs .. | .vgath .. | .ldcap .. | .tspawn .. | .copy .. | .copyp .. | .copym .. | .copytTo ..
  | .copytFrom .. | .ctxld .. => false
  | _ => true

/-- Offsets of the own-tile rows that an instruction's accesses of this slot lie in. -/
def State.rowsOf (s : State) (i : Instr) : List Nat :=
  match bankAccess s.cur i with
  | none => []
  | some (r, es) =>
    let own := es.filterMap fun e => match r.reach s.pkg e.off e.size with
      | .ok ga => if s.ownGa ga then some (e, ga) else none
      | _ => none
    (passOf (own.filter fun x => (s.cur.served.lookup x.1.idx).isNone)).map fun x => gaOff x.2

/-- The thread-side access of an instruction has been granted its banks in this cycle, and reserves the rows that it
writes in the next. -/
def State.grantRows (s s' : State) (i : Instr) : State :=
  let a := s.cur
  let b := s'.thr s.curTile s.curThr
  if b.run == .rotation && b.retired == a.retired && b.served.length == a.served.length then s'
  else
    let rows := s.rowsOf i
    s'.updTile s.curTile fun x =>
      let y := x.take rows
      if writesRows i then { y with written := y.written ++ rows.map fun o => o / 64 } else y

/-! ## Issue -/

/-- The head whose PC equals BPC is about to issue (R196). -/
def Thread.breaks (th : Thread) : Bool := th.be && !th.exl && !th.bskip && th.pc == th.bpc

/-- The fetch unit asks for the line after the PC's, where it is within the code capability (R14, R119). -/
def Thread.prefetch (th : Thread) (pkg t : Nat) (pc : Word) : Thread :=
  let n : Word := BitVec.ofNat 64 ((pc.toNat / 64 + 1) * 64)
  if lineAllowed th.code pkg t n && th.run != .halted then th.want (pcLine n) else th

/-- The instruction of the current thread at its PC, in a line of the buffer: the traps of fetch and decode in their order
(R185), or the instruction. BSKIP clears at the issue of the head at BPC, and a line that cannot be issued from leaves it
(R196). A PC that names no head, which ERET and TVEC can set, traps alignment with the PC in EVAL, and one past the line's
heads traps illegal instruction with 0 there (DEDUCED, log 72). -/
def State.issueFrom (s : State) (l : List Parcel) : Host.Outcome State Fault Refusal :=
  let th := s.cur
  let i := th.pc.toNat / 2 % 32
  if lineMalformed l then (if th.skip = 0 then s.trap causeLine 0 else s.trapWalk causeLine)
  else if th.breaks then s.trap causeBreak 0
  else
    let s := if th.bskip && th.pc == th.bpc then s.setCur { th with bskip := false } else s
    if th.pc.toNat % 2 = 1 ∨ i = 0 then s.trap causeAlign th.pc.toNat
    else if lineHeads l < i then s.trap causeIllegal 0
    else
      match decode (lineHead l i) (lineTail l i) with
      | none => s.trap causeIllegal s.headTail
      | some ins =>
        match s.checked ins with
        | .next s' => .next (s.grantRows s' ins)
        | o => o

/-- The instruction trapped, forfeited its slot or mismatched for the first time: it has committed nothing (R14). -/
def notCommitted (a b : Thread) : Bool :=
  b.run == .rotation && b.retired == a.retired && (b.pc == a.pc || (b.exl && !a.exl))

/-- The thread goes on: it is next ready eight cycles on (R12), and the next line is asked for, unless the instruction did
not commit (R14). An instruction that replaces the code capability leaves the new one to bound that prefetch (DESIGN CHOICE,
log 99). -/
def State.afterIssue (s s' : State) : State :=
  let th := s.cur
  s'.updThr s.curTile s.curThr fun x =>
    let y : Thread := { x with readyAt := s.curT.cycle + 8 }
    if s.curT.replay || notCommitted th x then y else y.prefetch s.pkg s.curTile th.pc

/-- What a slot's fetch comes to: the bounds trap of a line outside the code capability (R119), or the line's instruction. -/
def State.fetched (s : State) : Host.Outcome State Fault Refusal :=
  let th := s.cur
  if !th.fetchable s.pkg s.curTile then
    (if th.skip = 0 then s.trap causeBounds (lineAddr th.pc) else s.trapWalk causeBounds)
  else
    match th.line th.pc with
    | none => .next s
    | some l => s.issueFrom l

/-- A thread takes its slot. -/
def State.issue (s : State) (t h : Nat) : Host.Outcome State Fault Refusal :=
  let s : State := { s with curTile := t, curThr := h }
  match s.fetched with
  | .next s' => .next (s.afterIssue s')
  | o => o

/-! ## A cycle of a core -/

/-- The first thread that stands within a skip walk or an access of several passes and can go on. -/
def Tile.unfinished (x : Tile) (pkg t : Nat) : Option Nat :=
  (List.range 8).find? fun h =>
    let th := x.thread h
    !th.atBoundary && th.hasLine pkg t && decide (th.readyAt ≤ x.cycle)

/-- Skip walks of a halt in replay mode: the slots that their annulled instructions would have taken are owed (R15, R365). -/
def Tile.walkOwing (x : Tile) (pkg t : Nat) : Tile :=
  let y := x.walkAll pkg t
  (List.range 8).foldl (fun y h =>
    let n := (x.thread h).skip - (y.thread h).skip
    if n = 0 then y else y.setThread h { y.thread h with owed := (y.thread h).owed + n }) y

/-- A cycle of a tile in replay mode whose halt has been requested (R356, R365): no slot is given and the rotation stands
still; skip walks end, and accesses of several passes make their passes. The slots that they would have taken are owed: the
thread leaves as many idle once slots are given again (R364, R366; log 28). -/
def State.replayHalt (s : State) (t : Nat) : Host.Outcome State Fault Refusal :=
  let s := s.updTile t fun x => x.walkOwing s.pkg t
  match (s.tile t).unfinished s.pkg t with
  | none => .next s
  | some h => (s.updThr t h fun th => { th with owed := th.owed + 1 }).issue t h

/-- A slot in replay mode (R364): the owner issues, walks over one annulled instruction, or leaves the slot idle; the slot
waits for the owner's line. A slot that a halt ran ahead of is left idle. -/
def State.replaySlot (s : State) (t : Nat) : Host.Outcome State Fault Refusal :=
  let x := s.tile t
  let h := x.rot % 8
  let th := x.thread h
  let next := fun (s : State) => s.updTile t fun y => { y with rot := (h + 1) % 8 }
  if x.halt != .running then s.replayHalt t
  else if th.owed ≠ 0 then .next (next (s.setThr t h { th with owed := th.owed - 1 }))
  else if th.run != .rotation || (x.stopping h && th.atBoundary) then .next (next s)
  else if !th.hasLine s.pkg t then .next s
  else if th.skip ≠ 0 ∧ (th.walkSkips s.pkg t 1).skip ≠ th.skip then .next (next (s.setThr t h (th.walkSkips s.pkg t 1)))
  else (next s).issue t h

/-- A cycle outside replay mode. -/
def State.normalCycle (s : State) (t : Nat) : Host.Outcome State Fault Refusal :=
  let s := s.updTile t fun x => x.walkAll s.pkg t
  match (s.tile t).choose s.pkg t with
  | none => .next s
  | some h => (s.updTile t fun x => { x with rot := h }).issue t h

/-- The counters of a cycle: the tile's, and with tile 0 of a cluster the cluster's (log 8). -/
def State.tick (s : State) (t : Nat) : State :=
  let s := s.updTile t fun x => { x with cycle := x.cycle + 1 }
  if inCluster t = 0 then s.updCluster (clusterOf t) fun x => { x with counter := x.counter + 1, chunkTaken := [] } else s

/-- The end of a cycle: outside replay mode the agents' next requests begin a cycle of the banks, and stopped threads are
looked at (R16, R202). -/
def State.endCycle (s : State) (t : Nat) : State :=
  (s.updTile t fun x => if x.replay then x else x.nextCycle).ctxChecks t

/-- One cycle of a tile's core. A tile that no region holds or that is fenced has none; one that has settled counts its
cycles until its region is saved (R192). -/
def State.coreTurn (s : State) (t : Nat) : Host.Outcome State Fault Refusal :=
  let x := s.tile t
  if x.region.isNone || x.fenced then .next s
  else if x.halt == .settled then .next ((s.tick t).updTile t Tile.nextCycle)
  else
    match if x.replay then ((s.tick t).updTile t Tile.nextCycle).replaySlot t else (s.tick t).normalCycle t with
    | .next s' => .next (s'.endCycle t)
    | o => o

/-! ## Turns of every kind -/

/-- A turn, but for one tried again. -/
def State.fresh (s : State) (k : Turn) : Host.Outcome State Fault Refusal :=
  match k with
  | .core t => s.coreTurn t
  | .event i => exec i s
  | .fence r c => execFenceNotice r c s
  | .offline seq d f => execOffline seq d f s
  | .online seq d => execOnline seq d s
  | .error e => .next (s.hardwareError e)
  | .unmapped i => s.ringUnmapped i.val
  | .ethTx p => execEthTransmit p s
  | .clock => .next s.clockTurn
  | .hostReg l a acc => .next (s.hostAccess { link := l.val, bar2 := false, addr := a, acc := acc })
  | .hostRetry i => .next (s.hostRetry i)
  | .boot => .next s.bootTurn
  | .configBlob b => .next (s.acceptConfig b)
  | .repair k u => .next (s.repair k u)
  | .repaired k u => execRepairDone { kind := Fin.ofNat 4 k, unit := u } true s
  | .restoring => .next s.restoring
  | .command code seq args => s.mailCommand code seq (Config.mailField code args)
  | .again _ => .next s

def State.turn (s : State) (k : Turn) : Host.Outcome State Fault Refusal :=
  match k with
  | .again i =>
    (match s.deferred[i]? with
      | some k => { s with deferred := dropAt s.deferred i }.fresh k
      | none => .next s)
  | k => s.fresh k

/-- What a device that its boot has left in reset still answers: power-on reset, and reads of its links (R405; log 84). -/
def Turn.inReset : Turn → Bool
  | .event (.powerOnReset _) | .event (.dieTemperature _ _) | .event (.hostBar2Access _ _ (.read _)) | .hostReg _ _ (.read _) => true
  | _ => false

/-- A turn that has met a channel in training is not taken; it leaves the state `wait` (R414, log 90). -/
def State.turnOr (s : State) (k : Turn) (wait : State) : Host.Outcome State Fault Refusal :=
  if s.evo.inReset && !k.inReset then .next s
  else
    match s.turn k with
    | .next s' => .next (if s'.stalled then wait else s')
    | o => o

/-- A turn of the default schedule. -/
def State.runTurn (s : State) (k : Turn) : Host.Outcome State Fault Refusal := s.turnOr k s

/-- A turn of the agenda: one that has to wait and that the default schedule would not give again is kept. -/
def State.agendaTurn (s : State) (k : Turn) : Host.Outcome State Fault Refusal :=
  s.turnOr k (match k with
    | .core _ | .clock | .again _ => s
    | k => { s with deferred := s.deferred ++ [k] })

/-! ## The default schedule (log 2) -/

/-- The step that takes a plane A flit at its home. -/
def requestTurn (h : Home) (op : Op) : List Turn :=
  match op with
  | .load => [.event (.load h)] | .loadv => [.event (.loadv h)] | .loadcap => [.event (.loadcap h)]
  | .store => [.event (.store h)] | .storev => [.event (.storev h)] | .storecap => [.event (.storecap h)]
  | .put => [.event (.put h)] | .putv => [.event (.putv h)]
  | .atomic => [.event (.atomic h)] | .atomicr => [.event (.atomicr h)]
  | .ldc => [.event (.ldcRequest h)] | .stp => [.event (.stpRequest h)] | .feset => [.event (.fesetRequest h)]
  | .scrub => [.event (.scrubRequest h)] | .poison => [.event (.poisonRequest h)]
  | .arm => [.event (.arm h)] | .disarm => [.event (.disarm h)] | .withdraw => [.event (.withdraw h)]
  | .granule => [.event (.granule h)] | .streamend => [.event (.streamend h)]
  | .push => [.event (.push h)] | .tdec => [.event (.tdecRequest h)] | .tcancel => [.event (.tcancelRequest h)]
  | .wake => [.event (.wakeRequest h)]
  | .tlbinv => (match h with | .tile t => [.event (.tlbinvRequest (clusterOf t))] | _ => [])
  | _ => []

/-- The step that takes a plane B flit. -/
def answerTurn (h : Home) (op : Op) : List Turn :=
  match op, h with
  | .ack, _ => [.event (.ack h)]
  | .nak, _ => [.event (.nak h)]
  | .signal, _ => [.event (.signal h)]
  | .resp, .tile t => [.event (.resp t)]
  | .respv, .tile t => [.event (.respv t)]
  | .fire, .tile t => [.event (.fire t)]
  | .notreg, .tile t => [.event (.notreg t)]
  | .removed, .tile t => [.event (.removed t)]
  | _, _ => []

/-- Steps that a tile's own agents may take. -/
def tileTurns (t : Nat) (x : Tile) : List Turn :=
  (x.ejB.head?.toList.flatMap fun f => answerTurn (.tile t) f.op) ++
  (x.ejA.head?.toList.flatMap fun f => requestTurn (.tile t) f.op) ++
  ((List.range x.retries.length).map fun i => .event (.nakRetry t i)) ++
  (x.threads.flatMap fun y =>
    (if y.2.wants.isEmpty then [] else [.event (.fetchRefill t y.1)]) ++
    (match y.2.wait with
      | .fwait _ _ _ _ => [.event (.armResend t y.1), .event (.fwaitTimeout t y.1)]
      | .rearm _ _ _ => [.event (.armResend t y.1)]
      | _ => [])) ++
  (x.copyq.flatMap fun y => if y.2.live then
      [.event (.armResend t (8 + y.1)), .event (.copyActivate t y.1), .event (.copyGranuleSend t y.1)] else []) ++
  (if x.matq.isEmpty then [] else [.event (.armResend t 40)]) ++
  [.event (.dispenserScoreWindow t)] ++
  (if x.halt = .running then [] else [.event (.preemptSettle t)])

/-- Steps that a cluster's agents may take. -/
def clusterTurns (c : Nat) (x : Cluster) : List Turn :=
  (if x.walks.isEmpty then [] else [.event (.pageWalk c)]) ++
  (if x.tlbWork.isEmpty then [] else [.event (.tlbinvPortComplete c)]) ++
  [.event (.matrixComplete c), .event (.matrixExecute c), .event (.matrixGrant c)] ++
  (x.closing.flatMap fun y => [.event (.tcfgClearDone c (Fin.ofNat 32 y.1)), .event (.tcfgClosed c (Fin.ofNat 32 y.1))]) ++
  (if x.bank.isEmpty then [] else [.event (.dispatch c), .event (.recordPromotion c), .event (.cuffSpill c)]) ++
  (if x.cuff.isNone then [] else [.event (.cuffRefill c)])

/-- Steps of the launch sequencer. -/
def launchTurns (l : Launch) : List Turn :=
  match l.phase with
  | .waiting => [.event (.launchConditionsMet l.id)]
  | .placed => [.event (.launchLoad l.id)]
  | .running => [.event (.launchCompletion l.id)]
  | .halting => [.event (.preemptHaltRequest l.id)]
  | .settled => [.event (.regionSave l.id)]
  | _ => []

/-- A router has something to do. -/
def State.routerBusy (s : State) (t : Nat) : Bool :=
  let r := s.router t
  let x := s.tile t
  !(r.inA.isEmpty && r.inB.isEmpty && r.brimA.isEmpty && r.brimB.isEmpty && r.resend.isEmpty && x.injA.isEmpty && x.injB.isEmpty && x.queueA.isEmpty && x.queueB.isEmpty) ||
    r.throttle != 0

/-- Steps that may be taken now, agents before routers. -/
def State.turns (s : State) : List Turn :=
  let clusters := (s.clusters.map (·.1) ++ s.tiles.map fun y => clusterOf y.1).eraseDups
  let routers := (s.routers.map (·.1) ++ s.tiles.map (·.1)).eraseDups.filter s.routerBusy
  (s.tiles.flatMap fun y => tileTurns y.1 y.2) ++
  (s.ports.flatMap fun y => y.2.flatMap fun f => requestTurn (.port y.1) f.op) ++
  (s.portsB.flatMap fun y => y.2.head?.toList.flatMap fun f => answerTurn (.port y.1) f.op) ++
  (s.io.flatMap fun y =>
    (y.2.inq.flatMap fun f => requestTurn (.io y.1) f.op) ++ (y.2.inqB.head?.toList.flatMap fun f => answerTurn (.io y.1) f.op) ++
      [.event (.ioDieOutbound y.1)]) ++
  (clusters.flatMap fun c => clusterTurns c (s.cluster c)) ++
  (s.crowns.flatMap fun y => (y.2.flying.map fun t => .event (.crownRootArrival t (Fin.ofNat 64 y.1))) ++
    (if y.2.releasing then [.event (.crownRelease (Fin.ofNat 64 y.1))] else [])) ++
  (if s.held.isEmpty then [] else [.event .supqRetry]) ++
  (s.subs.map fun y => if y.2.busy then .unmapped (Fin.ofNat 64 y.1) else .event (.ringConsume (Fin.ofNat 64 y.1))) ++
  (s.launches.flatMap launchTurns) ++
  (if s.launches.isEmpty then [] else [.event .launchPlacement, .event .launchRestore]) ++
  (match s.evo.offlinePending with | some (d, f) => [.offline s.evo.cmdSeq d f] | none => []) ++
  (match s.evo.onlinePending with | some d => [.online s.evo.cmdSeq d] | none => []) ++
  (s.eth.map fun y => .ethTx (Fin.ofNat 8 y.1)) ++
  ((List.range s.hostWaits.length).map .hostRetry) ++
  ((List.range s.deferred.length).map .again) ++
  (if s.evo.boot.isSome then [.boot] else []) ++
  (if s.evo.restorePending.isSome then [.restoring] else []) ++
  (s.evo.worn.map fun x => .repair x.1 x.2.1) ++
  (s.evo.autos.map fun x => .repaired x.1 x.2) ++
  (routers.map fun t => .event (if (s.router t).throttle = 1 then .throttleExpiry t else .routerCycle t))

/-- A turn that changes something. -/
def State.moves (s : State) (k : Turn) : Bool :=
  match s.runTurn k with
  | .next s' => s' != s
  | _ => true

/-- Whether the package takes its next turn: it has power, or that turn is power-on reset (R405, R419). -/
def State.live (s : State) : Bool :=
  s.powered || match s.agenda with
    | .event (.powerOnReset _) :: _ => true
    | _ => false

/-- Tiles that a region holds. -/
def State.placedTiles (s : State) : List Nat := (s.tiles.filter fun y => y.2.region.isSome).map (·.1)

/-- The turn that the default schedule gives, with the state that remembers it: an agent with something to do, else, and in any case
once in sixteen turns, the next core, or after the last of them the clock of the other agents. -/
def State.nextTurn (s : State) : Turn × State :=
  let ts := s.placedTiles
  let k := s.rr % (ts.length + 1)
  let core : Turn × State := (if k = ts.length then .clock else .core (ts.getD k 0), { s with rr := s.rr + 1, beat := s.beat + 1 })
  if s.beat % 16 = 15 then core
  else
    match s.turns.find? s.moves with
    | some k => (k, { s with beat := s.beat + 1 })
    | none => core

/-- The next turn is taken: the head of the agenda, else one of the default schedule. -/
def State.takeTurn (s : State) : Host.Outcome State Fault Refusal :=
  match s.agenda with
  | k :: rest => ({ s with agenda := rest, stalled := false } : State).agendaTurn k
  | [] =>
    let k := ({ s with stalled := false } : State).nextTurn
    k.2.runTurn k.1

/-- The state with the line of one instruction at offset 0 of tile 0, whose thread 0 is about to issue it (log 3). -/
def State.withLine (s : State) (l : List Parcel) : State :=
  let s := s.setBytes (spad 0 0) (bytesOfLine l)
  let x := s.tile 0
  let size := 2 ^ 19 - 64
  let th : Thread := { x.thread 0 with
    run := .rotation, wait := .none, readyAt := 0, skip := 0, served := [], recheck := .no, be := false,
    pc := 0x8000_0000_0000_0002, mode := false, code := some (imageCode size), fbuf := [(0, l)], wanted := [] }
  { s.setTile 0 { (x.setThread 0 th) with
      region := some 0, replay := false, fenced := false, halt := .running, mismatch := .no, imageSize := size, rot := 7 } with
    agenda := [.core 0] }

end Sys2Proof.Machine
end

