-- ==== Sys2Proof/Machine/Step.lean ====
section
/-! DEFINITION. One step of the package: the turn that comes next, taken whole (log 1, log 2). -/
namespace Sys2Proof.Machine

/-- One step. -/
def step (s : State) : Host.Outcome State Fault Refusal :=
  if !s.live then .fault .poweredOff
  else s.takeTurn

/-- s with an instruction stored where the next step fetches, its bits numbered as the opcode table numbers them (log 3,
log 4). -/
def State.withFetchWord (s : State) (nbits w : Nat) : State :=
  let p := wordParts nbits w
  { s with powered := true, evo := { s.evo with inReset := false } }.withLine (lineOf p.1 p.2)

end Sys2Proof.Machine
end

