-- ==== Sys2Proof/Laws/PerInstr.lean ====
section
/-! SUPPORT. Laws proved instruction by instruction (LAWS.json): decoding what the encoder gives, a well-formed instruction, gives it
back (R82-R94, Tables 4.1-4.9). -/
namespace Sys2Proof

/-! ## Field codes -/

@[simp] theorem Cond.ofCode_code (c : Cond) : Cond.ofCode c.code = some c := by cases c <;> rfl
@[simp] theorem FCond.ofCode_code (c : FCond) : FCond.ofCode c.code = some c := by cases c <;> rfl
@[simp] theorem ElemTy.ofCode_code (c : ElemTy) : ElemTy.ofCode c.code = some c := by cases c <;> rfl
@[simp] theorem Rm.ofCode_code (c : Rm) : Rm.ofCode c.code = some c := by cases c <;> rfl
@[simp] theorem AtomTy.ofCode_code (c : AtomTy) : AtomTy.ofCode c.code = some c := by cases c <;> rfl
@[simp] theorem MTy.ofCode_code (c : MTy) : MTy.ofCode c.code = some c := by cases c <;> rfl
@[simp] theorem SpN.ofCode_code (c : SpN) : SpN.ofCode c.code = some c := by cases c <;> rfl
@[simp] theorem EltW.ofCode_code (c : EltW) : EltW.ofCode c.code = some c := by cases c <;> rfl
@[simp] theorem CapSel.ofCode_code (c : CapSel) : CapSel.ofCode c.code = some c := by cases c <;> rfl
@[simp] theorem InvScope.ofCode_code (c : InvScope) : InvScope.ofCode c.code = some c := by cases c <;> rfl
@[simp] theorem SysReg.ofCode_code (c : SysReg) : SysReg.ofCode c.code = some c := by cases c <;> rfl

theorem Cond.code_lt (c : Cond) : c.code < 6 := by cases c <;> decide
theorem FCond.code_lt (c : FCond) : c.code < 4 := by cases c <;> decide
theorem ElemTy.code_lt (c : ElemTy) : c.code < 16 := by cases c <;> decide
theorem Rm.code_lt (c : Rm) : c.code < 8 := by cases c <;> decide
theorem AtomTy.code_lt (c : AtomTy) : c.code < 5 := by cases c <;> decide
theorem MTy.code_lt (c : MTy) : c.code < 7 := by cases c <;> decide
theorem SpN.code_lt (c : SpN) : c.code < 3 := by cases c <;> decide
theorem EltW.code_lt (c : EltW) : c.code < 3 := by cases c <;> decide
theorem CapSel.code_lt (c : CapSel) : c.code < 6 := by cases c <;> decide
theorem InvScope.code_lt (c : InvScope) : c.code < 3 := by cases c <;> decide
theorem SysReg.code_lt (c : SysReg) : c.code < 64 := by cases c <;> decide
theorem boolNat_lt (b : Bool) : boolNat b < 2 := by cases b <;> decide

@[simp] theorem gReg_val (r : GIx) : gReg r.val = r := by simp [gReg]
@[simp] theorem vReg_val (r : VIx) : vReg r.val = r := by simp [vReg]
@[simp] theorem kReg_val (r : KIx) : kReg r.val = r := by simp [kReg]

/-! ## Words -/

/-- The fields of a head. -/
theorem mkHead_fields {maj len d f3 : Nat} (h1 : maj < 128) (h2 : len < 4) (h3 : d < 16) (h4 : f3 < 8) :
    mkHead maj len d f3 < 65536 ∧ headMaj (mkHead maj len d f3) = maj ∧ headLen (mkHead maj len d f3) = len ∧
      headD (mkHead maj len d f3) = d ∧ headF3 (mkHead maj len d f3) = f3 := by
  simp only [mkHead, headMaj, headLen, headD, headF3]
  omega

theorem decode_0 {maj d f3 : Nat} (hm : majLen maj = some 0) (h1 : maj < 128) (hd : d < 16) (hf : f3 < 8) :
    decode (mkHead maj 0 d f3) 0 = decodeNone maj d f3 := by
  obtain ⟨a, b, c, e, f⟩ := mkHead_fields h1 (by omega : 0 < 4) hd hf
  simp [decode, b, c, e, f, hm, Nat.not_le.mpr a]

/-- A word of format S reads back by its fields. -/
theorem decode_S {maj d f3 a b f8 : Nat} (hm : majLen maj = some 1) (h1 : maj < 128) (hd : d < 16) (hf : f3 < 8)
    (ha : a < 16) (hb : b < 16) (h8 : f8 < 256) :
    decode (mkHead maj 1 d f3) (tailS a b f8) = decodeS maj d f3 (tailS a b f8) ∧ fieldSA (tailS a b f8) = a ∧
      fieldSB (tailS a b f8) = b ∧ fieldS8 (tailS a b f8) = f8 := by
  obtain ⟨x, p, q, e, f⟩ := mkHead_fields h1 (by omega : 1 < 4) hd hf
  refine ⟨?_, ?_, ?_, ?_⟩
  · have : tailS a b f8 < 65536 := by simp only [tailS]; omega
    simp [decode, p, q, e, f, hm, Nat.not_le.mpr x, Nat.not_le.mpr this]
  all_goals simp only [tailS, fieldSA, fieldSB, fieldS8]; omega

/-- A word of format L reads back by its fields. -/
theorem decode_L {maj d f3 a b c imm : Nat} (hm : majLen maj = some 2) (h1 : maj < 128) (hd : d < 16) (hf : f3 < 8)
    (ha : a < 16) (hb : b < 16) (hc : c < 16) (h8 : imm < 1048576) :
    decode (mkHead maj 2 d f3) (tailL a b c imm) = decodeL maj d f3 (tailL a b c imm) ∧ fieldLA (tailL a b c imm) = a ∧
      fieldLB (tailL a b c imm) = b ∧ fieldLC (tailL a b c imm) = c ∧ fieldL20 (tailL a b c imm) = imm := by
  obtain ⟨x, p, q, e, f⟩ := mkHead_fields h1 (by omega : 2 < 4) hd hf
  refine ⟨?_, ?_, ?_, ?_, ?_⟩
  · have : tailL a b c imm < 4294967296 := by simp only [tailL]; omega
    simp [decode, p, q, e, f, hm, Nat.not_le.mpr x, Nat.not_le.mpr this]
  all_goals simp only [tailL, fieldLA, fieldLB, fieldLC, fieldL20]; omega

theorem decode_X {maj d f3 x : Nat} (hm : majLen maj = some 3) (h1 : maj < 128) (hd : d < 16) (hf : f3 < 8)
    (hx : x < 281474976710656) : decode (mkHead maj 3 d f3) x = decodeX maj d f3 x := by
  obtain ⟨a, p, q, e, f⟩ := mkHead_fields h1 (by omega : 3 < 4) hd hf
  simp [decode, p, q, e, f, hm, Nat.not_le.mpr a, Nat.not_le.mpr hx]

theorem vFields_of (k : KIx) (ty : ElemTy) (rm : Rm) {ty2 fn x : Nat} (e1 : x / 16384 % 16 = ty.code)
    (e2 : x / 2048 % 8 = rm.code) (e3 : x / 262144 = k) (e4 : x / 128 % 16 = ty2) (e5 : x % 128 = fn) :
    vFields x = some { km := k, ty := ty, rm := rm, ty2 := ty2, fn := fn } := by
  simp [vFields, e1, e2, e3, e4, e5]

/-- The fields of IMM20 in the vector format. -/
theorem vFields_immV (k : KIx) (ty : ElemTy) (rm : Rm) {t r ty2 fn : Nat} (et : ty.code = t) (er : rm.code = r)
    (h2 : ty2 < 16) (hf : fn < 128) :
    immV k t r ty2 fn < 1048576 ∧
      vFields (immV k t r ty2 fn) = some { km := k, ty := ty, rm := rm, ty2 := ty2, fn := fn } := by
  have hk := k.isLt
  have ht : t < 16 := et ▸ ty.code_lt
  have hr : r < 8 := er ▸ rm.code_lt
  have e0 : immV k t r ty2 fn < 1048576 := by simp only [immV]; omega
  have e1 : immV k t r ty2 fn / 16384 % 16 = ty.code := by rw [et]; simp only [immV]; omega
  have e2 : immV k t r ty2 fn / 2048 % 8 = rm.code := by rw [er]; simp only [immV]; omega
  have e3 : immV k t r ty2 fn / 262144 = k := by simp only [immV]; omega
  have e4 : immV k t r ty2 fn / 128 % 16 = ty2 := by simp only [immV]; omega
  have e5 : immV k t r ty2 fn % 128 = fn := by simp only [immV]; omega
  exact ⟨e0, vFields_of k ty rm e1 e2 e3 e4 e5⟩

/-- The fields of the tail of a copy command. -/
theorem copyTail_fields {src dst shp wf wn sf low : Nat} (h1 : src < 16) (h2 : dst < 16) (h3 : shp < 16) (h4 : wf < 16)
    (h5 : wn < 16) (h6 : sf < 16) (h7 : low < 16777216) :
    copyTail src dst shp wf wn sf low < 281474976710656 ∧ fieldX (copyTail src dst shp wf wn sf low) 44 = src ∧
      fieldX (copyTail src dst shp wf wn sf low) 40 = dst ∧ fieldX (copyTail src dst shp wf wn sf low) 36 = shp ∧
      fieldX (copyTail src dst shp wf wn sf low) 32 = wf ∧ fieldX (copyTail src dst shp wf wn sf low) 28 = wn ∧
      fieldX (copyTail src dst shp wf wn sf low) 24 = sf ∧ copyTail src dst shp wf wn sf low % 16777216 = low := by
  simp only [copyTail, fieldX]
  omega

/-- The fields of the tail of a matrix command. -/
theorem mmaTail_fields {t a b wf wn sf k low : Nat} (h1 : t < 32) (h2 : a < 16) (h3 : b < 16) (h4 : wf < 16)
    (h5 : wn < 16) (h6 : sf < 16) (h8 : k < 16) (h7 : low < 524288) :
    mmaTail t a b wf wn sf k low < 281474976710656 ∧ mmaTail t a b wf wn sf k low / 2 ^ 43 = t ∧
      fieldX (mmaTail t a b wf wn sf k low) 39 = a ∧ fieldX (mmaTail t a b wf wn sf k low) 35 = b ∧
      fieldX (mmaTail t a b wf wn sf k low) 31 = wf ∧ fieldX (mmaTail t a b wf wn sf k low) 27 = wn ∧
      fieldX (mmaTail t a b wf wn sf k low) 23 = sf ∧ fieldX (mmaTail t a b wf wn sf k low) 19 = k ∧
      mmaTail t a b wf wn sf k low % 524288 = low := by
  simp only [mmaTail, fieldX]
  omega

theorem bvLow {n : Nat} (o : BitVec n) (k m : Nat) (h : m = 2 ^ n) : BitVec.ofNat n (k * m + o.toNat) = o := by
  subst h
  apply BitVec.eq_of_toNat_eq
  rw [BitVec.toNat_ofNat, Nat.mul_comm, Nat.mul_add_mod, Nat.mod_eq_of_lt o.isLt]

theorem finLow {n : Nat} [NeZero n] (o : Fin n) (k : Nat) : Fin.ofNat n (k * n + o.val) = o := by
  apply Fin.ext
  rw [Fin.val_ofNat, Nat.mul_comm, Nat.mul_add_mod, Nat.mod_eq_of_lt o.isLt]

theorem mmasLow {x n md : Nat} (q : x % 524288 = n * 131072 + md * 8192) (hn : n < 3) (hm : md < 16) :
    x % 8192 = 0 ∧ x / 131072 % 4 = n ∧ fieldX x 13 = md := by
  simp only [fieldX]
  omega

theorem tcvtLow {x rm : Nat} (q6 : fieldX x 19 = rm * 2) (q7 : x % 524288 = 0) (h : rm < 8) :
    x % 1048576 = 0 ∧ x / 1048576 % 8 = rm := by
  simp only [fieldX] at q6
  omega

theorem tsclLow {x c : Nat} (q6 : fieldX x 19 = c * 8) (q7 : x % 524288 = 0) (h : c < 2) :
    x % 4194304 = 0 ∧ x / 4194304 % 2 = c := by
  simp only [fieldX] at q6
  omega

theorem mmaTail_high (t a b wf wn sf k : Nat) :
    mmaTail t a b wf wn sf 0 (k * 524288) = mmaTail t a b wf wn sf k 0 := by
  simp only [mmaTail]
  omega

theorem mmaTail_rm (t a b wf wn sf rm : Nat) :
    mmaTail t a b wf wn sf 0 (rm * 1048576) = mmaTail t a b wf wn sf (rm * 2) 0 := by
  simp only [mmaTail]
  omega

theorem finLow8 (o : Fin 4) : Fin.ofNat 4 (8 + o.val) = o := by
  apply Fin.ext
  rw [Fin.val_ofNat]
  omega

theorem decodeS_01 (d f3 x : Nat) : decodeS 0x01 d f3 x = decode01 d f3 (fieldSA x) (fieldSB x) (fieldS8 x) := rfl
theorem decodeS_02 (d f3 x : Nat) : decodeS 0x02 d f3 x = decode02 d f3 (fieldSA x) (fieldSB x) (fieldS8 x) := rfl
theorem decodeS_03 (d f3 x : Nat) : decodeS 0x03 d f3 x = decode03 d f3 (fieldSA x) (fieldSB x) (fieldS8 x) := rfl
theorem decodeS_04 (d f3 x : Nat) : decodeS 0x04 d f3 x = decode04 d f3 (fieldSA x) (fieldSB x) (fieldS8 x) := rfl
theorem decodeS_08 (d f3 x : Nat) : decodeS 0x08 d f3 x = decode08 d f3 (fieldSA x) (fieldSB x) (fieldS8 x) := rfl
theorem decodeS_0A (d f3 x : Nat) : decodeS 0x0A d f3 x = decode0A d f3 (fieldSA x) (fieldSB x) (fieldS8 x) := rfl
theorem decodeS_0B (d f3 x : Nat) : decodeS 0x0B d f3 x = decode0B d f3 (fieldSA x) (fieldSB x) (fieldS8 x) := rfl
theorem decodeS_0D (d f3 x : Nat) : decodeS 0x0D d f3 x = decode0D d f3 (fieldSA x) (fieldSB x) (fieldS8 x) := rfl
theorem decodeS_0E (d f3 x : Nat) : decodeS 0x0E d f3 x = decode0E d f3 (fieldSA x) (fieldSB x) (fieldS8 x) := rfl
theorem decodeS_2F (d f3 x : Nat) : decodeS 0x2F d f3 x = decode2F d f3 (fieldSA x) (fieldSB x) (fieldS8 x) := rfl
theorem decodeS_42 (d f3 x : Nat) : decodeS 0x42 d f3 x = decode42 d f3 (fieldSA x) (fieldSB x) (fieldS8 x) := rfl
theorem decodeS_49 (d f3 x : Nat) : decodeS 0x49 d f3 x = decode49 d f3 (fieldSA x) (fieldSB x) (fieldS8 x) := rfl
theorem decodeS_61 (d f3 x : Nat) : decodeS 0x61 d f3 x = decode61 d f3 (fieldSA x) (fieldSB x) (fieldS8 x) := rfl
theorem decodeL_05 (d f3 x : Nat) : decodeL 0x05 d f3 x = decode05 d f3 (fieldLA x) (fieldLB x) (fieldLC x) (fieldL20 x) := rfl
theorem decodeL_06 (d f3 x : Nat) : decodeL 0x06 d f3 x = decode06 d f3 (fieldLA x) (fieldLB x) (fieldLC x) (fieldL20 x) := rfl
theorem decodeL_09 (d f3 x : Nat) : decodeL 0x09 d f3 x = decode09 d f3 (fieldLA x) (fieldLB x) (fieldLC x) (fieldL20 x) := rfl
theorem decodeL_0C (d f3 x : Nat) : decodeL 0x0C d f3 x = decode0C d f3 (fieldLA x) (fieldLB x) (fieldLC x) (fieldL20 x) := rfl
theorem decodeL_0F (d f3 x : Nat) : decodeL 0x0F d f3 x = decode0F d f3 (fieldLA x) (fieldLB x) (fieldLC x) (fieldL20 x) := rfl
theorem decodeL_20 (d f3 x : Nat) : decodeL 0x20 d f3 x = decode20 d f3 (fieldLA x) (fieldLB x) (fieldLC x) (fieldL20 x) := rfl
theorem decodeL_21 (d f3 x : Nat) : decodeL 0x21 d f3 x = decode21 d f3 (fieldLA x) (fieldLB x) (fieldLC x) (fieldL20 x) := rfl
theorem decodeL_22 (d f3 x : Nat) : decodeL 0x22 d f3 x = decode22 d f3 (fieldLA x) (fieldLB x) (fieldLC x) (fieldL20 x) := rfl
theorem decodeL_23 (d f3 x : Nat) : decodeL 0x23 d f3 x = decode23 d f3 (fieldLA x) (fieldLB x) (fieldLC x) (fieldL20 x) := rfl
theorem decodeL_24 (d f3 x : Nat) : decodeL 0x24 d f3 x = decode24 d f3 (fieldLA x) (fieldLB x) (fieldLC x) (fieldL20 x) := rfl
theorem decodeL_25 (d f3 x : Nat) : decodeL 0x25 d f3 x = decode25 d f3 (fieldLA x) (fieldLB x) (fieldLC x) (fieldL20 x) := rfl
theorem decodeL_26 (d f3 x : Nat) : decodeL 0x26 d f3 x = decode26 d f3 (fieldLA x) (fieldLB x) (fieldLC x) (fieldL20 x) := rfl
theorem decodeL_27 (d f3 x : Nat) : decodeL 0x27 d f3 x = decode27 d f3 (fieldLA x) (fieldLB x) (fieldLC x) (fieldL20 x) := rfl
theorem decodeL_28 (d f3 x : Nat) : decodeL 0x28 d f3 x = decode28 d f3 (fieldLA x) (fieldLB x) (fieldLC x) (fieldL20 x) := rfl
theorem decodeL_29 (d f3 x : Nat) : decodeL 0x29 d f3 x = decode29 d f3 (fieldLA x) (fieldLB x) (fieldLC x) (fieldL20 x) := rfl
theorem decodeL_2A (d f3 x : Nat) : decodeL 0x2A d f3 x = decode2A d f3 (fieldLA x) (fieldLB x) (fieldLC x) (fieldL20 x) := rfl
theorem decodeL_2B (d f3 x : Nat) : decodeL 0x2B d f3 x = decode2B d f3 (fieldLA x) (fieldLB x) (fieldLC x) (fieldL20 x) := rfl
theorem decodeL_2D (d f3 x : Nat) : decodeL 0x2D d f3 x = decode2D d f3 (fieldLA x) (fieldLB x) (fieldLC x) (fieldL20 x) := rfl
theorem decodeL_2E (d f3 x : Nat) : decodeL 0x2E d f3 x = decode2E d f3 (fieldLA x) (fieldLB x) (fieldLC x) (fieldL20 x) := rfl
theorem decodeL_30 (d f3 x : Nat) : decodeL 0x30 d f3 x = decode30 d f3 (fieldLA x) (fieldLB x) (fieldLC x) (fieldL20 x) := rfl
theorem decodeL_40 (d f3 x : Nat) : decodeL 0x40 d f3 x = decode40 d f3 (fieldLA x) (fieldLB x) (fieldLC x) (fieldL20 x) := rfl
theorem decodeL_41 (d f3 x : Nat) : decodeL 0x41 d f3 x = decode41 d f3 (fieldLA x) (fieldLB x) (fieldLC x) (fieldL20 x) := rfl
theorem decodeL_44 (d f3 x : Nat) : decodeL 0x44 d f3 x = decode44 d f3 (fieldLA x) (fieldLB x) (fieldLC x) (fieldL20 x) := rfl
theorem decodeL_45 (d f3 x : Nat) : decodeL 0x45 d f3 x = decode45 d f3 (fieldLA x) (fieldLB x) (fieldLC x) (fieldL20 x) := rfl
theorem decodeL_46 (d f3 x : Nat) : decodeL 0x46 d f3 x = decode46 d f3 (fieldLA x) (fieldLB x) (fieldLC x) (fieldL20 x) := rfl
theorem decodeL_47 (d f3 x : Nat) : decodeL 0x47 d f3 x = decode47 d f3 (fieldLA x) (fieldLB x) (fieldLC x) (fieldL20 x) := rfl
theorem decodeL_48 (d f3 x : Nat) : decodeL 0x48 d f3 x = decode48 d f3 (fieldLA x) (fieldLB x) (fieldLC x) (fieldL20 x) := rfl
theorem decodeL_66 (d f3 x : Nat) : decodeL 0x66 d f3 x = decode66 d f3 (fieldLA x) (fieldLB x) (fieldLC x) (fieldL20 x) := rfl
theorem decodeL_72 (d f3 x : Nat) : decodeL 0x72 d f3 x = decode72 d f3 (fieldLA x) (fieldLB x) (fieldLC x) (fieldL20 x) := rfl
theorem decodeL_74 (d f3 x : Nat) : decodeL 0x74 d f3 x = decode74 d f3 (fieldLA x) (fieldLB x) (fieldLC x) (fieldL20 x) := rfl
theorem decodeL_75 (d f3 x : Nat) : decodeL 0x75 d f3 x = decode75 d f3 (fieldLA x) (fieldLB x) (fieldLC x) (fieldL20 x) := rfl
/-! ## The family RoundTrip -/

/-- Decoding the words that encode a well-formed instruction gives the instruction. -/
def Laws.RoundTrip.Statement (i : Instr) : Prop :=
  i.wf = true → ∀ h t, encode i = some (h, t) → decode h t = some i

namespace Laws.RoundTrip

set_option Elab.async false
set_option linter.unusedSimpArgs false
set_option linter.unusedVariables false

theorem of_words {i : Instr} {h0 t0 : Nat} (he : encode i = some (h0, t0)) (hd : i.wf = true → decode h0 t0 = some i) :
    Statement i := by
  intro hw h t e
  rw [he] at e
  cases e
  exact hd hw

theorem bfx_core (d a : GIx) (wm1 pos : Fin 64) {x0 : Nat} (hw : (Instr.bfx d a wm1 pos).wf = true)
    (f0 : x0 / 64 = wm1.val) (f1 : x0 % 64 = pos.val) (f2 : x0 < 4096) (f3 : ¬4096 ≤ x0) :
    decode05 d.val 0 a.val 0 0 x0 = some (.bfx d a wm1 pos) := by
  simp [decode05, f0, f1, f2, f3, need, checked, hw]
theorem bfi_core (d a : GIx) (wm1 pos : Fin 64) {x0 : Nat} (hw : (Instr.bfi d a wm1 pos).wf = true)
    (f0 : x0 / 64 = wm1.val) (f1 : x0 % 64 = pos.val) (f2 : x0 < 4096) (f3 : ¬4096 ≤ x0) :
    decode05 d.val 1 a.val 0 0 x0 = some (.bfi d a wm1 pos) := by
  simp [decode05, f0, f1, f2, f3, need, checked, hw]
theorem j_core (s : BitVec 15) (h : Fin 32) {x0 : Nat} (hw : (Instr.j s h).wf = true)
    (f0 : x0 / 32 = s.toNat) (f1 : x0 % 32 = h.val) :
    decode0C 0 0 0 0 0 x0 = some (.j s h) := by
  simp [decode0C, f0, f1, need, checked, hw]
theorem jl_core (s : BitVec 15) (h : Fin 32) {x0 : Nat} (hw : (Instr.jl s h).wf = true)
    (f0 : x0 / 32 = s.toNat) (f1 : x0 % 32 = h.val) :
    decode0C 0 1 0 0 0 x0 = some (.jl s h) := by
  simp [decode0C, f0, f1, need, checked, hw]
theorem ld_core (z : Bool) (sz : Fin 4) (d a : GIx) (m : BitVec 20) {x0 : Nat} (hw : (Instr.ld z sz d a m).wf = true)
    (f0 : x0 / 4 = boolNat z) (f1 : x0 % 4 = sz.val) :
    decode20 d.val x0 a.val 0 0 m.toNat = some (.ld z sz d a m) := by
  have hz : (x0 / 4 == 1) = z := by rw [f0]; cases z <;> rfl
  simp [decode20, f1, hz, need, checked, hw]
theorem ldvs_core (ew : EltW) (d : VIx) (a b : GIx) (k : KIx) (m : BitVec 20) {x0 : Nat} (hw : (Instr.ldvs ew d a b k m).wf = true)
    (f0 : ¬8 ≤ d.val) (f1 : ¬4 ≤ k.val) (f2 : x0 / 2 = ew.code) (f3 : x0 % 2 = 0) (f4 : d.val < 8) (f5 : k.val < 4) :
    decode23 d.val x0 a.val b.val k.val m.toNat = some (.ldvs ew d a b k m) := by
  simp [decode23, f0, f1, f2, f3, f4, f5, need, checked, hw]
theorem stvs_core (ew : EltW) (d : VIx) (a b : GIx) (k : KIx) (m : BitVec 20) {x0 : Nat} (hw : (Instr.stvs ew d a b k m).wf = true)
    (f0 : ¬8 ≤ d.val) (f1 : ¬4 ≤ k.val) (f2 : x0 / 2 = ew.code) (f3 : x0 % 2 = 1) (f4 : d.val < 8) (f5 : k.val < 4) :
    decode23 d.val x0 a.val b.val k.val m.toNat = some (.stvs ew d a b k m) := by
  simp [decode23, f0, f1, f2, f3, f4, f5, need, checked, hw]
theorem radd_core (ty : AtomTy) (a b c : GIx) (off : BitVec 16) {x0 : Nat} (hw : (Instr.radd ty a b c off).wf = true)
    (f0 : x0 / 65536 = ty.code) (f1 : x0 % 65536 = off.toNat) (g0 : BitVec.ofNat 16 x0 = off) :
    decode28 0 0 a.val b.val c.val x0 = some (.radd ty a b c off) := by
  simp [decode28, f0, f1, g0, need, checked, hw]
theorem rmin_core (ty : AtomTy) (a b c : GIx) (off : BitVec 16) {x0 : Nat} (hw : (Instr.rmin ty a b c off).wf = true)
    (f0 : x0 / 65536 = ty.code) (f1 : x0 % 65536 = off.toNat) (g0 : BitVec.ofNat 16 x0 = off) :
    decode28 0 1 a.val b.val c.val x0 = some (.rmin ty a b c off) := by
  simp [decode28, f0, f1, g0, need, checked, hw]
theorem rmax_core (ty : AtomTy) (a b c : GIx) (off : BitVec 16) {x0 : Nat} (hw : (Instr.rmax ty a b c off).wf = true)
    (f0 : x0 / 65536 = ty.code) (f1 : x0 % 65536 = off.toNat) (g0 : BitVec.ofNat 16 x0 = off) :
    decode28 0 2 a.val b.val c.val x0 = some (.rmax ty a b c off) := by
  simp [decode28, f0, f1, g0, need, checked, hw]
theorem rand_core (ty : AtomTy) (a b c : GIx) (off : BitVec 16) {x0 : Nat} (hw : (Instr.rand ty a b c off).wf = true)
    (f0 : x0 / 65536 = ty.code) (f1 : x0 % 65536 = off.toNat) (g0 : BitVec.ofNat 16 x0 = off) :
    decode28 0 3 a.val b.val c.val x0 = some (.rand ty a b c off) := by
  simp [decode28, f0, f1, g0, need, checked, hw]
theorem ror_core (ty : AtomTy) (a b c : GIx) (off : BitVec 16) {x0 : Nat} (hw : (Instr.ror ty a b c off).wf = true)
    (f0 : x0 / 65536 = ty.code) (f1 : x0 % 65536 = off.toNat) (g0 : BitVec.ofNat 16 x0 = off) :
    decode28 0 4 a.val b.val c.val x0 = some (.ror ty a b c off) := by
  simp [decode28, f0, f1, g0, need, checked, hw]
theorem rxor_core (ty : AtomTy) (a b c : GIx) (off : BitVec 16) {x0 : Nat} (hw : (Instr.rxor ty a b c off).wf = true)
    (f0 : x0 / 65536 = ty.code) (f1 : x0 % 65536 = off.toNat) (g0 : BitVec.ofNat 16 x0 = off) :
    decode28 0 5 a.val b.val c.val x0 = some (.rxor ty a b c off) := by
  simp [decode28, f0, f1, g0, need, checked, hw]
theorem rfadd_core (ty : AtomTy) (d a b : GIx) (off : BitVec 16) {x0 : Nat} (hw : (Instr.rfadd ty d a b off).wf = true)
    (f0 : x0 / 65536 = ty.code) (f1 : x0 % 65536 = off.toNat) (g0 : BitVec.ofNat 16 x0 = off) :
    decode29 d.val 0 a.val b.val 0 x0 = some (.rfadd ty d a b off) := by
  simp [decode29, f0, f1, g0, need, checked, hw]
theorem rcas_core (ty : AtomTy) (d a b c : GIx) (off : BitVec 16) {x0 : Nat} (hw : (Instr.rcas ty d a b c off).wf = true)
    (f0 : x0 / 65536 = ty.code) (f1 : x0 % 65536 = off.toNat) (g0 : BitVec.ofNat 16 x0 = off) :
    decode29 d.val 1 a.val b.val c.val x0 = some (.rcas ty d a b c off) := by
  simp [decode29, f0, f1, g0, need, checked, hw]
theorem rswap_core (ty : AtomTy) (d a b : GIx) (off : BitVec 16) {x0 : Nat} (hw : (Instr.rswap ty d a b off).wf = true)
    (f0 : x0 / 65536 = ty.code) (f1 : x0 % 65536 = off.toNat) (g0 : BitVec.ofNat 16 x0 = off) :
    decode29 d.val 2 a.val b.val 0 x0 = some (.rswap ty d a b off) := by
  simp [decode29, f0, f1, g0, need, checked, hw]
theorem fwait_core (d a : GIx) (en eq : BitVec 4) {x0 : Nat} (hw : (Instr.fwait d a en eq).wf = true)
    (f0 : x0 / 16 = eq.toNat) (f1 : x0 % 16 = en.toNat) (g0 : BitVec.ofNat 4 x0 = en) (f3 : x0 < 524288) (f4 : ¬524288 ≤ x0) (f5 : x0 < 256) (f6 : ¬256 ≤ x0) :
    decode2B d.val 1 a.val 0 0 x0 = some (.fwait d a en eq) := by
  simp [decode2B, f0, f1, g0, f3, f4, f5, f6, need, checked, hw]
theorem flogrd_core (d : GIx) (e : Fin 8) (w : Fin 4) {x0 : Nat} (hw : (Instr.flogrd d e w).wf = true)
    (f0 : x0 / 8 = w.val) (f1 : x0 % 8 = e.val) (g0 : Fin.ofNat 8 x0 = e) (f3 : x0 < 32) (f4 : ¬32 ≤ x0) (f5 : x0 < 524288) (f6 : ¬524288 ≤ x0) (f7 : x0 < 256) (f8 : ¬256 ≤ x0) :
    decode30 d.val 2 0 0 0 x0 = some (.flogrd d e w) := by
  simp [decode30, f0, f1, g0, f3, f4, f5, f6, f7, f8, need, checked, hw, -Fin.ofNat_eq_cast]
theorem fcvt_core (src dst : ElemTy) (rm : Rm) (d a : GIx) {x0 : Nat} (hw : (Instr.fcvt src dst rm d a).wf = true)
    (f0 : x0 / 16 % 16 = src.code) (f1 : x0 / 256 = dst.code) (f2 : x0 % 8 = rm.code) (f3 : x0 / 8 % 2 = 0) (f4 : ¬4096 ≤ x0) (f5 : x0 < 4096) :
    decode41 d.val 2 a.val 0 0 x0 = some (.fcvt src dst rm d a) := by
  simp [decode41, f0, f1, f2, f3, f4, f5, need, checked, hw]
theorem vadd_core (ty : ElemTy) (rm : Rm) (k : KIx) (d : VIx) (a b : GIx) {x0 : Nat} (hw : (Instr.vadd ty rm k d a b).wf = true)
    (hf : vFields x0 = some { km := k, ty := ty, rm := rm, ty2 := 0, fn := 0 }) (f0 : ¬4 ≤ k.val) (f1 : ¬8 ≤ d.val) (f2 : d.val < 8) :
    decode44 d.val 0 a.val b.val 0 x0 = some (.vadd ty rm k d a b) := by
  simp [decode44, hf, f0, f1, f2, need, checked, hw]
theorem vsub_core (ty : ElemTy) (rm : Rm) (k : KIx) (d : VIx) (a b : GIx) {x0 : Nat} (hw : (Instr.vsub ty rm k d a b).wf = true)
    (hf : vFields x0 = some { km := k, ty := ty, rm := rm, ty2 := 0, fn := 0 }) (f0 : ¬4 ≤ k.val) (f1 : ¬8 ≤ d.val) (f2 : d.val < 8) :
    decode44 d.val 1 a.val b.val 0 x0 = some (.vsub ty rm k d a b) := by
  simp [decode44, hf, f0, f1, f2, need, checked, hw]
theorem vmul_core (ty : ElemTy) (rm : Rm) (k : KIx) (d : VIx) (a b : GIx) {x0 : Nat} (hw : (Instr.vmul ty rm k d a b).wf = true)
    (hf : vFields x0 = some { km := k, ty := ty, rm := rm, ty2 := 0, fn := 0 }) (f0 : ¬4 ≤ k.val) (f1 : ¬8 ≤ d.val) (f2 : d.val < 8) :
    decode44 d.val 2 a.val b.val 0 x0 = some (.vmul ty rm k d a b) := by
  simp [decode44, hf, f0, f1, f2, need, checked, hw]
theorem vfma_core (ty : ElemTy) (rm : Rm) (k : KIx) (d : VIx) (a b c : GIx) {x0 : Nat} (hw : (Instr.vfma ty rm k d a b c).wf = true)
    (hf : vFields x0 = some { km := k, ty := ty, rm := rm, ty2 := 0, fn := 0 }) (f0 : ¬4 ≤ k.val) (f1 : ¬8 ≤ d.val) (f2 : d.val < 8) :
    decode44 d.val 3 a.val b.val c.val x0 = some (.vfma ty rm k d a b c) := by
  simp [decode44, hf, f0, f1, f2, need, checked, hw]
theorem vmin_core (ty : ElemTy) (k : KIx) (d : VIx) (a b : GIx) {x0 : Nat} (hw : (Instr.vmin ty k d a b).wf = true)
    (hf : vFields x0 = some { km := k, ty := ty, rm := .rne, ty2 := 0, fn := 0 }) (f0 : ¬4 ≤ k.val) (f1 : ¬8 ≤ d.val) (f2 : d.val < 8) :
    decode44 d.val 4 a.val b.val 0 x0 = some (.vmin ty k d a b) := by
  simp [decode44, hf, f0, f1, f2, need, checked, hw]
theorem vmax_core (ty : ElemTy) (k : KIx) (d : VIx) (a b : GIx) {x0 : Nat} (hw : (Instr.vmax ty k d a b).wf = true)
    (hf : vFields x0 = some { km := k, ty := ty, rm := .rne, ty2 := 0, fn := 0 }) (f0 : ¬4 ≤ k.val) (f1 : ¬8 ≤ d.val) (f2 : d.val < 8) :
    decode44 d.val 5 a.val b.val 0 x0 = some (.vmax ty k d a b) := by
  simp [decode44, hf, f0, f1, f2, need, checked, hw]
theorem vabs_core (ty : ElemTy) (k : KIx) (d : VIx) (a : GIx) {x0 : Nat} (hw : (Instr.vabs ty k d a).wf = true)
    (hf : vFields x0 = some { km := k, ty := ty, rm := .rne, ty2 := 0, fn := 0 }) (f0 : ¬4 ≤ k.val) (f1 : ¬8 ≤ d.val) (f2 : d.val < 8) :
    decode44 d.val 6 a.val 0 0 x0 = some (.vabs ty k d a) := by
  simp [decode44, hf, f0, f1, f2, need, checked, hw]
theorem vneg_core (ty : ElemTy) (k : KIx) (d : VIx) (a : GIx) {x0 : Nat} (hw : (Instr.vneg ty k d a).wf = true)
    (hf : vFields x0 = some { km := k, ty := ty, rm := .rne, ty2 := 0, fn := 0 }) (f0 : ¬4 ≤ k.val) (f1 : ¬8 ≤ d.val) (f2 : d.val < 8) :
    decode44 d.val 7 a.val 0 0 x0 = some (.vneg ty k d a) := by
  simp [decode44, hf, f0, f1, f2, need, checked, hw]
theorem vrcp_core (ty : ElemTy) (rm : Rm) (k : KIx) (d : VIx) (a : GIx) {x0 : Nat} (hw : (Instr.vrcp ty rm k d a).wf = true)
    (hf : vFields x0 = some { km := k, ty := ty, rm := rm, ty2 := 0, fn := 0 }) (f0 : ¬4 ≤ k.val) (f1 : ¬8 ≤ d.val) (f2 : d.val < 8) :
    decode45 d.val 0 a.val 0 0 x0 = some (.vrcp ty rm k d a) := by
  simp [decode45, hf, f0, f1, f2, need, checked, hw]
theorem vrsq_core (ty : ElemTy) (rm : Rm) (k : KIx) (d : VIx) (a : GIx) {x0 : Nat} (hw : (Instr.vrsq ty rm k d a).wf = true)
    (hf : vFields x0 = some { km := k, ty := ty, rm := rm, ty2 := 0, fn := 0 }) (f0 : ¬4 ≤ k.val) (f1 : ¬8 ≤ d.val) (f2 : d.val < 8) :
    decode45 d.val 1 a.val 0 0 x0 = some (.vrsq ty rm k d a) := by
  simp [decode45, hf, f0, f1, f2, need, checked, hw]
theorem vexp2_core (ty : ElemTy) (rm : Rm) (k : KIx) (d : VIx) (a : GIx) {x0 : Nat} (hw : (Instr.vexp2 ty rm k d a).wf = true)
    (hf : vFields x0 = some { km := k, ty := ty, rm := rm, ty2 := 0, fn := 0 }) (f0 : ¬4 ≤ k.val) (f1 : ¬8 ≤ d.val) (f2 : d.val < 8) :
    decode45 d.val 2 a.val 0 0 x0 = some (.vexp2 ty rm k d a) := by
  simp [decode45, hf, f0, f1, f2, need, checked, hw]
theorem vlog2_core (ty : ElemTy) (rm : Rm) (k : KIx) (d : VIx) (a : GIx) {x0 : Nat} (hw : (Instr.vlog2 ty rm k d a).wf = true)
    (hf : vFields x0 = some { km := k, ty := ty, rm := rm, ty2 := 0, fn := 0 }) (f0 : ¬4 ≤ k.val) (f1 : ¬8 ≤ d.val) (f2 : d.val < 8) :
    decode45 d.val 3 a.val 0 0 x0 = some (.vlog2 ty rm k d a) := by
  simp [decode45, hf, f0, f1, f2, need, checked, hw]
theorem vcvt_core (src dst : ElemTy) (rm : Rm) (k : KIx) (p : Fin 4) (d : VIx) (a : GIx) {x0 : Nat} (hw : (Instr.vcvt src dst rm k p d a).wf = true)
    (hf : vFields x0 = some { km := k, ty := src, rm := rm, ty2 := dst.code, fn := p.val }) (f0 : ¬4 ≤ k.val) (f1 : ¬8 ≤ d.val) (f2 : p.val < 12) (f3 : ¬12 ≤ p.val) (f4 : p.val < 4) (f5 : ¬4 ≤ p.val) (f6 : d.val < 8) :
    decode45 d.val 4 a.val 0 0 x0 = some (.vcvt src dst rm k p d a) := by
  simp [decode45, hf, decodeVcvt, f0, f1, f2, f3, f4, f5, f6, need, checked, hw]
theorem vcvtMx_core (src dst : ElemTy) (rm : Rm) (p : Fin 4) (d : VIx) (a b : GIx) {x0 : Nat} (hw : (Instr.vcvtMx src dst rm p d a b).wf = true)
    (hf : vFields x0 = some { km := 0, ty := src, rm := rm, ty2 := dst.code, fn := (8 + p.val) }) (f0 : ¬8 ≤ d.val) (f1 : 8 + p.val < 12) (f2 : ¬12 ≤ 8 + p.val) (f3 : d.val < 8) :
    decode45 d.val 4 a.val b.val 0 x0 = some (.vcvtMx src dst rm p d a b) := by
  simp [decode45, hf, decodeVcvt, f0, f1, f2, f3, show ¬8 + p.val < 4 by omega, finLow8 p, need, checked, hw, -Fin.ofNat_eq_cast]
theorem vdot_core (ty : ElemTy) (rm : Rm) (k : KIx) (d : VIx) (a b c : GIx) {x0 : Nat} (hw : (Instr.vdot ty rm k d a b c).wf = true)
    (hf : vFields x0 = some { km := k, ty := ty, rm := rm, ty2 := (vdotTy2 ty), fn := 0 }) (f0 : ¬4 ≤ k.val) (f1 : ¬8 ≤ d.val) (f2 : d.val < 8) :
    decode45 d.val 5 a.val b.val c.val x0 = some (.vdot ty rm k d a b c) := by
  simp [decode45, hf, f0, f1, f2, need, checked, hw]
theorem vsum_core (ty : ElemTy) (rm : Rm) (k : KIx) (d : VIx) (a : GIx) {x0 : Nat} (hw : (Instr.vsum ty rm k d a).wf = true)
    (hf : vFields x0 = some { km := k, ty := ty, rm := rm, ty2 := 0, fn := 0 }) (f0 : ¬4 ≤ k.val) (f1 : ¬8 ≤ d.val) (f2 : d.val < 8) :
    decode45 d.val 6 a.val 0 0 x0 = some (.vsum ty rm k d a) := by
  simp [decode45, hf, f0, f1, f2, need, checked, hw]
theorem vrmax_core (ty : ElemTy) (k : KIx) (d : VIx) (a : GIx) {x0 : Nat} (hw : (Instr.vrmax ty k d a).wf = true)
    (hf : vFields x0 = some { km := k, ty := ty, rm := .rne, ty2 := 0, fn := 0 }) (f0 : ¬4 ≤ k.val) (f1 : ¬8 ≤ d.val) (f2 : d.val < 8) :
    decode45 d.val 7 a.val 0 0 x0 = some (.vrmax ty k d a) := by
  simp [decode45, hf, f0, f1, f2, need, checked, hw]
theorem viadd_core (ty : ElemTy) (k : KIx) (d : VIx) (a b : GIx) {x0 : Nat} (hw : (Instr.viadd ty k d a b).wf = true)
    (hf : vFields x0 = some { km := k, ty := ty, rm := .rne, ty2 := 0, fn := 0 }) (f0 : ¬4 ≤ k.val) (f1 : ¬8 ≤ d.val) (f2 : d.val < 8) :
    decode46 d.val 0 a.val b.val 0 x0 = some (.viadd ty k d a b) := by
  simp [decode46, hf, f0, f1, f2, need, checked, hw]
theorem visub_core (ty : ElemTy) (k : KIx) (d : VIx) (a b : GIx) {x0 : Nat} (hw : (Instr.visub ty k d a b).wf = true)
    (hf : vFields x0 = some { km := k, ty := ty, rm := .rne, ty2 := 0, fn := 0 }) (f0 : ¬4 ≤ k.val) (f1 : ¬8 ≤ d.val) (f2 : d.val < 8) :
    decode46 d.val 1 a.val b.val 0 x0 = some (.visub ty k d a b) := by
  simp [decode46, hf, f0, f1, f2, need, checked, hw]
theorem vimul_core (ty : ElemTy) (k : KIx) (d : VIx) (a b : GIx) {x0 : Nat} (hw : (Instr.vimul ty k d a b).wf = true)
    (hf : vFields x0 = some { km := k, ty := ty, rm := .rne, ty2 := 0, fn := 0 }) (f0 : ¬4 ≤ k.val) (f1 : ¬8 ≤ d.val) (f2 : d.val < 8) :
    decode46 d.val 2 a.val b.val 0 x0 = some (.vimul ty k d a b) := by
  simp [decode46, hf, f0, f1, f2, need, checked, hw]
theorem vand_core (ty : ElemTy) (k : KIx) (d : VIx) (a b : GIx) {x0 : Nat} (hw : (Instr.vand ty k d a b).wf = true)
    (hf : vFields x0 = some { km := k, ty := ty, rm := .rne, ty2 := 0, fn := 0 }) (f0 : ¬4 ≤ k.val) (f1 : ¬8 ≤ d.val) (f2 : d.val < 8) :
    decode46 d.val 3 a.val b.val 0 x0 = some (.vand ty k d a b) := by
  simp [decode46, hf, f0, f1, f2, need, checked, hw]
theorem vor_core (ty : ElemTy) (k : KIx) (d : VIx) (a b : GIx) {x0 : Nat} (hw : (Instr.vor ty k d a b).wf = true)
    (hf : vFields x0 = some { km := k, ty := ty, rm := .rne, ty2 := 0, fn := 0 }) (f0 : ¬4 ≤ k.val) (f1 : ¬8 ≤ d.val) (f2 : d.val < 8) :
    decode46 d.val 4 a.val b.val 0 x0 = some (.vor ty k d a b) := by
  simp [decode46, hf, f0, f1, f2, need, checked, hw]
theorem vxor_core (ty : ElemTy) (k : KIx) (d : VIx) (a b : GIx) {x0 : Nat} (hw : (Instr.vxor ty k d a b).wf = true)
    (hf : vFields x0 = some { km := k, ty := ty, rm := .rne, ty2 := 0, fn := 0 }) (f0 : ¬4 ≤ k.val) (f1 : ¬8 ≤ d.val) (f2 : d.val < 8) :
    decode46 d.val 5 a.val b.val 0 x0 = some (.vxor ty k d a b) := by
  simp [decode46, hf, f0, f1, f2, need, checked, hw]
theorem vshl_core (ty : ElemTy) (k : KIx) (d : VIx) (a b : GIx) {x0 : Nat} (hw : (Instr.vshl ty k d a b).wf = true)
    (hf : vFields x0 = some { km := k, ty := ty, rm := .rne, ty2 := 0, fn := 0 }) (f0 : ¬4 ≤ k.val) (f1 : ¬8 ≤ d.val) (f2 : d.val < 8) :
    decode46 d.val 6 a.val b.val 0 x0 = some (.vshl ty k d a b) := by
  simp [decode46, hf, f0, f1, f2, need, checked, hw]
theorem vshr_core (ty : ElemTy) (k : KIx) (d : VIx) (a b : GIx) {x0 : Nat} (hw : (Instr.vshr ty k d a b).wf = true)
    (hf : vFields x0 = some { km := k, ty := ty, rm := .rne, ty2 := 0, fn := 0 }) (f0 : ¬4 ≤ k.val) (f1 : ¬8 ≤ d.val) (f2 : d.val < 8) :
    decode46 d.val 7 a.val b.val 0 x0 = some (.vshr ty k d a b) := by
  simp [decode46, hf, f0, f1, f2, need, checked, hw]
theorem vsra_core (ty : ElemTy) (k : KIx) (d : VIx) (a b : GIx) {x0 : Nat} (hw : (Instr.vsra ty k d a b).wf = true)
    (hf : vFields x0 = some { km := k, ty := ty, rm := .rne, ty2 := 0, fn := 0 }) (f0 : ¬4 ≤ k.val) (f1 : ¬8 ≤ d.val) (f2 : d.val < 8) :
    decode47 d.val 0 a.val b.val 0 x0 = some (.vsra ty k d a b) := by
  simp [decode47, hf, f0, f1, f2, need, checked, hw]
theorem vcmp_core (c : Cond) (ty : ElemTy) (s : Fin 4) (k : KIx) (d : KIx) (a b : GIx) {x0 x1 : Nat} (hw : (Instr.vcmp c ty s k d a b).wf = true)
    (hf : vFields x0 = some { km := k, ty := ty, rm := .rne, ty2 := 0, fn := x1 }) (f0 : ¬4 ≤ k.val) (f1 : ¬4 ≤ d.val) (f2 : x1 / 8 = s.val) (f3 : x1 % 8 = c.code) (f4 : x1 < 64) (f5 : ¬64 ≤ x1) (f6 : x1 < 32) (f7 : ¬32 ≤ x1) (f8 : d.val < 8) (f9 : ¬8 ≤ d.val) (f10 : d.val < 4) :
    decode48 d.val 0 a.val b.val 0 x0 = some (.vcmp c ty s k d a b) := by
  simp [decode48, hf, f0, f1, f2, f3, f4, f5, f6, f7, f8, f9, f10, need, checked, hw]
theorem vsel_core (k : KIx) (d : VIx) (a b : GIx) {x0 : Nat} (hw : (Instr.vsel k d a b).wf = true)
    (hf : vFields x0 = some { km := k, ty := .f32, rm := .rne, ty2 := 0, fn := 0 }) (f0 : ¬4 ≤ k.val) (f1 : ¬8 ≤ d.val) (f2 : d.val < 8) :
    decode48 d.val 1 a.val b.val 0 x0 = some (.vsel k d a b) := by
  simp [decode48, hf, f0, f1, f2, need, checked, hw]
theorem vperm_core (ty : ElemTy) (k : KIx) (d : VIx) (a b : GIx) {x0 : Nat} (hw : (Instr.vperm ty k d a b).wf = true)
    (hf : vFields x0 = some { km := k, ty := ty, rm := .rne, ty2 := 0, fn := 0 }) (f0 : ¬4 ≤ k.val) (f1 : ¬8 ≤ d.val) (f2 : d.val < 8) :
    decode48 d.val 2 a.val b.val 0 x0 = some (.vperm ty k d a b) := by
  simp [decode48, hf, f0, f1, f2, need, checked, hw]
theorem vmovg_core (ty : ElemTy) (e : Fin 64) (d a : GIx) {x0 : Nat} (hw : (Instr.vmovg ty e d a).wf = true)
    (hf : vFields x0 = some { km := 0, ty := ty, rm := .rne, ty2 := 0, fn := e.val }) (f0 : e.val < 64) (f1 : ¬64 ≤ e.val) :
    decode48 d.val 3 a.val 0 0 x0 = some (.vmovg ty e d a) := by
  simp [decode48, hf, f0, f1, need, checked, hw]
theorem vmovl_core (ty : ElemTy) (e : Fin 64) (d : VIx) (a : GIx) {x0 : Nat} (hw : (Instr.vmovl ty e d a).wf = true)
    (hf : vFields x0 = some { km := 0, ty := ty, rm := .rne, ty2 := 0, fn := e.val }) (f0 : ¬8 ≤ d.val) (f1 : e.val < 64) (f2 : ¬64 ≤ e.val) (f3 : d.val < 8) :
    decode48 d.val 4 a.val 0 0 x0 = some (.vmovl ty e d a) := by
  simp [decode48, hf, f0, f1, f2, f3, need, checked, hw]
theorem vbcast_core (ty : ElemTy) (e : Fin 64) (k : KIx) (d : VIx) (a : GIx) {x0 : Nat} (hw : (Instr.vbcast ty e k d a).wf = true)
    (hf : vFields x0 = some { km := k, ty := ty, rm := .rne, ty2 := 0, fn := e.val }) (f0 : ¬4 ≤ k.val) (f1 : ¬8 ≤ d.val) (f2 : e.val < 64) (f3 : ¬64 ≤ e.val) (f4 : d.val < 8) :
    decode48 d.val 5 a.val 0 0 x0 = some (.vbcast ty e k d a) := by
  simp [decode48, hf, f0, f1, f2, f3, f4, need, checked, hw]
theorem mmas_core (ty : MTy) (n : SpN) (t : TIx) (a b md wf wn sf : GIx) (k : Fin 16) {x : Nat} (hw : (Instr.mmas ty n t a b md wf wn sf k).wf = true)
    (q0 : x / 2 ^ 43 = t.val) (q1 : fieldX x 39 = a.val) (q2 : fieldX x 35 = b.val) (q3 : fieldX x 31 = wf.val) (q4 : fieldX x 27 = wn.val) (q5 : fieldX x 23 = sf.val) (q6 : fieldX x 19 = k.val)
    (c0 : x % 8192 = 0) (c1 : x / 131072 % 4 = n.code) (c2 : fieldX x 13 = md.val) : decode65 0 ty.code x = some (.mmas ty n t a b md wf wn sf k) := by
  simp [decode65, show x / 8796093022208 = t.val from q0, q1, q2, q3, q4, q5, q6, c0, c1, c2, need, checked, hw, -Fin.ofNat_eq_cast]
theorem tcvt_core (dty : ElemTy) (rm : Rm) (t : TIx) (dst wf wn sf : GIx) {x : Nat} (hw : (Instr.tcvt dty rm t dst wf wn sf).wf = true)
    (q0 : x / 2 ^ 43 = t.val) (q1 : fieldX x 39 = dst.val) (q2 : fieldX x 35 = wf.val) (q3 : fieldX x 31 = wn.val) (q4 : fieldX x 27 = sf.val) (q5 : fieldX x 23 = dty.code)
    (c0 : x % 1048576 = 0) (c1 : x / 1048576 % 8 = rm.code) : decode67 0 0 x = some (.tcvt dty rm t dst wf wn sf) := by
  simp [decode67, show x / 8796093022208 = t.val from q0, q1, q2, q3, q4, q5, c0, c1, need, checked, hw, -Fin.ofNat_eq_cast]
theorem tsclRow_core (t : TIx) (s b wf wn sf : GIx) {x : Nat} (hw : (Instr.tsclRow t s b wf wn sf).wf = true)
    (q0 : x / 2 ^ 43 = t.val) (q1 : fieldX x 39 = s.val) (q2 : fieldX x 35 = b.val) (q3 : fieldX x 31 = wf.val) (q4 : fieldX x 27 = wn.val) (q5 : fieldX x 23 = sf.val)
    (c0 : x % 4194304 = 0) (c1 : x / 4194304 % 2 = 0) : decode68 0 0 x = some (.tsclRow t s b wf wn sf) := by
  simp [decode68, show x / 8796093022208 = t.val from q0, q1, q2, q3, q4, q5, c0, c1, need, checked, hw, -Fin.ofNat_eq_cast]
theorem tsclCol_core (t : TIx) (s b wf wn sf : GIx) {x : Nat} (hw : (Instr.tsclCol t s b wf wn sf).wf = true)
    (q0 : x / 2 ^ 43 = t.val) (q1 : fieldX x 39 = s.val) (q2 : fieldX x 35 = b.val) (q3 : fieldX x 31 = wf.val) (q4 : fieldX x 27 = wn.val) (q5 : fieldX x 23 = sf.val)
    (c0 : x % 4194304 = 0) (c1 : x / 4194304 % 2 = 1) : decode68 0 0 x = some (.tsclCol t s b wf wn sf) := by
  simp [decode68, show x / 8796093022208 = t.val from q0, q1, q2, q3, q4, q5, c0, c1, need, checked, hw, -Fin.ofNat_eq_cast]
theorem nop : Statement (.nop) := by
  refine of_words rfl fun hw => ?_
  rw [decode_0 rfl (by omega) (by omega) (by omega)]
  simp [decodeNone, need]
theorem add (d a b : GIx) : Statement (.add d a b) := by
  refine of_words rfl fun hw => ?_
  have b0 := d.isLt
  have b1 := a.isLt
  have b2 := b.isLt
  obtain ⟨hw0, ea, eb, e8⟩ := decode_S (maj := 0x01) (d := d.val) (f3 := 0) (a := a.val) (b := b.val)
    (f8 := 0) rfl (by omega) (by omega) (by omega) (by omega) (by omega) (by omega)
  rw [hw0, decodeS_01, ea, eb, e8]
  simp [decode01, need, checked, hw]
theorem sub (d a b : GIx) : Statement (.sub d a b) := by
  refine of_words rfl fun hw => ?_
  have b0 := d.isLt
  have b1 := a.isLt
  have b2 := b.isLt
  obtain ⟨hw0, ea, eb, e8⟩ := decode_S (maj := 0x01) (d := d.val) (f3 := 1) (a := a.val) (b := b.val)
    (f8 := 0) rfl (by omega) (by omega) (by omega) (by omega) (by omega) (by omega)
  rw [hw0, decodeS_01, ea, eb, e8]
  simp [decode01, need, checked, hw]
theorem and (d a b : GIx) : Statement (.and d a b) := by
  refine of_words rfl fun hw => ?_
  have b0 := d.isLt
  have b1 := a.isLt
  have b2 := b.isLt
  obtain ⟨hw0, ea, eb, e8⟩ := decode_S (maj := 0x01) (d := d.val) (f3 := 2) (a := a.val) (b := b.val)
    (f8 := 0) rfl (by omega) (by omega) (by omega) (by omega) (by omega) (by omega)
  rw [hw0, decodeS_01, ea, eb, e8]
  simp [decode01, need, checked, hw]
theorem or (d a b : GIx) : Statement (.or d a b) := by
  refine of_words rfl fun hw => ?_
  have b0 := d.isLt
  have b1 := a.isLt
  have b2 := b.isLt
  obtain ⟨hw0, ea, eb, e8⟩ := decode_S (maj := 0x01) (d := d.val) (f3 := 3) (a := a.val) (b := b.val)
    (f8 := 0) rfl (by omega) (by omega) (by omega) (by omega) (by omega) (by omega)
  rw [hw0, decodeS_01, ea, eb, e8]
  simp [decode01, need, checked, hw]
theorem xor (d a b : GIx) : Statement (.xor d a b) := by
  refine of_words rfl fun hw => ?_
  have b0 := d.isLt
  have b1 := a.isLt
  have b2 := b.isLt
  obtain ⟨hw0, ea, eb, e8⟩ := decode_S (maj := 0x01) (d := d.val) (f3 := 4) (a := a.val) (b := b.val)
    (f8 := 0) rfl (by omega) (by omega) (by omega) (by omega) (by omega) (by omega)
  rw [hw0, decodeS_01, ea, eb, e8]
  simp [decode01, need, checked, hw]
theorem andn (d a b : GIx) : Statement (.andn d a b) := by
  refine of_words rfl fun hw => ?_
  have b0 := d.isLt
  have b1 := a.isLt
  have b2 := b.isLt
  obtain ⟨hw0, ea, eb, e8⟩ := decode_S (maj := 0x01) (d := d.val) (f3 := 5) (a := a.val) (b := b.val)
    (f8 := 0) rfl (by omega) (by omega) (by omega) (by omega) (by omega) (by omega)
  rw [hw0, decodeS_01, ea, eb, e8]
  simp [decode01, need, checked, hw]
theorem shl (d a b : GIx) : Statement (.shl d a b) := by
  refine of_words rfl fun hw => ?_
  have b0 := d.isLt
  have b1 := a.isLt
  have b2 := b.isLt
  obtain ⟨hw0, ea, eb, e8⟩ := decode_S (maj := 0x01) (d := d.val) (f3 := 6) (a := a.val) (b := b.val)
    (f8 := 0) rfl (by omega) (by omega) (by omega) (by omega) (by omega) (by omega)
  rw [hw0, decodeS_01, ea, eb, e8]
  simp [decode01, need, checked, hw]
theorem shr (d a b : GIx) : Statement (.shr d a b) := by
  refine of_words rfl fun hw => ?_
  have b0 := d.isLt
  have b1 := a.isLt
  have b2 := b.isLt
  obtain ⟨hw0, ea, eb, e8⟩ := decode_S (maj := 0x01) (d := d.val) (f3 := 7) (a := a.val) (b := b.val)
    (f8 := 0) rfl (by omega) (by omega) (by omega) (by omega) (by omega) (by omega)
  rw [hw0, decodeS_01, ea, eb, e8]
  simp [decode01, need, checked, hw]
theorem sra (d a b : GIx) : Statement (.sra d a b) := by
  refine of_words rfl fun hw => ?_
  have b0 := d.isLt
  have b1 := a.isLt
  have b2 := b.isLt
  obtain ⟨hw0, ea, eb, e8⟩ := decode_S (maj := 0x02) (d := d.val) (f3 := 0) (a := a.val) (b := b.val)
    (f8 := 0) rfl (by omega) (by omega) (by omega) (by omega) (by omega) (by omega)
  rw [hw0, decodeS_02, ea, eb, e8]
  simp [decode02, need, checked, hw]
theorem min (d a b : GIx) : Statement (.min d a b) := by
  refine of_words rfl fun hw => ?_
  have b0 := d.isLt
  have b1 := a.isLt
  have b2 := b.isLt
  obtain ⟨hw0, ea, eb, e8⟩ := decode_S (maj := 0x02) (d := d.val) (f3 := 1) (a := a.val) (b := b.val)
    (f8 := 0) rfl (by omega) (by omega) (by omega) (by omega) (by omega) (by omega)
  rw [hw0, decodeS_02, ea, eb, e8]
  simp [decode02, need, checked, hw]
theorem max (d a b : GIx) : Statement (.max d a b) := by
  refine of_words rfl fun hw => ?_
  have b0 := d.isLt
  have b1 := a.isLt
  have b2 := b.isLt
  obtain ⟨hw0, ea, eb, e8⟩ := decode_S (maj := 0x02) (d := d.val) (f3 := 2) (a := a.val) (b := b.val)
    (f8 := 0) rfl (by omega) (by omega) (by omega) (by omega) (by omega) (by omega)
  rw [hw0, decodeS_02, ea, eb, e8]
  simp [decode02, need, checked, hw]
theorem minu (d a b : GIx) : Statement (.minu d a b) := by
  refine of_words rfl fun hw => ?_
  have b0 := d.isLt
  have b1 := a.isLt
  have b2 := b.isLt
  obtain ⟨hw0, ea, eb, e8⟩ := decode_S (maj := 0x02) (d := d.val) (f3 := 3) (a := a.val) (b := b.val)
    (f8 := 0) rfl (by omega) (by omega) (by omega) (by omega) (by omega) (by omega)
  rw [hw0, decodeS_02, ea, eb, e8]
  simp [decode02, need, checked, hw]
theorem maxu (d a b : GIx) : Statement (.maxu d a b) := by
  refine of_words rfl fun hw => ?_
  have b0 := d.isLt
  have b1 := a.isLt
  have b2 := b.isLt
  obtain ⟨hw0, ea, eb, e8⟩ := decode_S (maj := 0x02) (d := d.val) (f3 := 4) (a := a.val) (b := b.val)
    (f8 := 0) rfl (by omega) (by omega) (by omega) (by omega) (by omega) (by omega)
  rw [hw0, decodeS_02, ea, eb, e8]
  simp [decode02, need, checked, hw]
theorem mov (d a : GIx) : Statement (.mov d a) := by
  refine of_words rfl fun hw => ?_
  have b0 := d.isLt
  have b1 := a.isLt
  obtain ⟨hw0, ea, eb, e8⟩ := decode_S (maj := 0x02) (d := d.val) (f3 := 5) (a := a.val) (b := 0)
    (f8 := 0) rfl (by omega) (by omega) (by omega) (by omega) (by omega) (by omega)
  rw [hw0, decodeS_02, ea, eb, e8]
  simp [decode02, need, checked, hw]
theorem mul (d a b : GIx) : Statement (.mul d a b) := by
  refine of_words rfl fun hw => ?_
  have b0 := d.isLt
  have b1 := a.isLt
  have b2 := b.isLt
  obtain ⟨hw0, ea, eb, e8⟩ := decode_S (maj := 0x03) (d := d.val) (f3 := 0) (a := a.val) (b := b.val)
    (f8 := 0) rfl (by omega) (by omega) (by omega) (by omega) (by omega) (by omega)
  rw [hw0, decodeS_03, ea, eb, e8]
  simp [decode03, need, checked, hw]
theorem mulh (d a b : GIx) : Statement (.mulh d a b) := by
  refine of_words rfl fun hw => ?_
  have b0 := d.isLt
  have b1 := a.isLt
  have b2 := b.isLt
  obtain ⟨hw0, ea, eb, e8⟩ := decode_S (maj := 0x03) (d := d.val) (f3 := 1) (a := a.val) (b := b.val)
    (f8 := 0) rfl (by omega) (by omega) (by omega) (by omega) (by omega) (by omega)
  rw [hw0, decodeS_03, ea, eb, e8]
  simp [decode03, need, checked, hw]
theorem mulhu (d a b : GIx) : Statement (.mulhu d a b) := by
  refine of_words rfl fun hw => ?_
  have b0 := d.isLt
  have b1 := a.isLt
  have b2 := b.isLt
  obtain ⟨hw0, ea, eb, e8⟩ := decode_S (maj := 0x03) (d := d.val) (f3 := 2) (a := a.val) (b := b.val)
    (f8 := 0) rfl (by omega) (by omega) (by omega) (by omega) (by omega) (by omega)
  rw [hw0, decodeS_03, ea, eb, e8]
  simp [decode03, need, checked, hw]
theorem div (d a b : GIx) : Statement (.div d a b) := by
  refine of_words rfl fun hw => ?_
  have b0 := d.isLt
  have b1 := a.isLt
  have b2 := b.isLt
  obtain ⟨hw0, ea, eb, e8⟩ := decode_S (maj := 0x03) (d := d.val) (f3 := 3) (a := a.val) (b := b.val)
    (f8 := 0) rfl (by omega) (by omega) (by omega) (by omega) (by omega) (by omega)
  rw [hw0, decodeS_03, ea, eb, e8]
  simp [decode03, need, checked, hw]
theorem divu (d a b : GIx) : Statement (.divu d a b) := by
  refine of_words rfl fun hw => ?_
  have b0 := d.isLt
  have b1 := a.isLt
  have b2 := b.isLt
  obtain ⟨hw0, ea, eb, e8⟩ := decode_S (maj := 0x03) (d := d.val) (f3 := 4) (a := a.val) (b := b.val)
    (f8 := 0) rfl (by omega) (by omega) (by omega) (by omega) (by omega) (by omega)
  rw [hw0, decodeS_03, ea, eb, e8]
  simp [decode03, need, checked, hw]
theorem rem (d a b : GIx) : Statement (.rem d a b) := by
  refine of_words rfl fun hw => ?_
  have b0 := d.isLt
  have b1 := a.isLt
  have b2 := b.isLt
  obtain ⟨hw0, ea, eb, e8⟩ := decode_S (maj := 0x03) (d := d.val) (f3 := 5) (a := a.val) (b := b.val)
    (f8 := 0) rfl (by omega) (by omega) (by omega) (by omega) (by omega) (by omega)
  rw [hw0, decodeS_03, ea, eb, e8]
  simp [decode03, need, checked, hw]
theorem remu (d a b : GIx) : Statement (.remu d a b) := by
  refine of_words rfl fun hw => ?_
  have b0 := d.isLt
  have b1 := a.isLt
  have b2 := b.isLt
  obtain ⟨hw0, ea, eb, e8⟩ := decode_S (maj := 0x03) (d := d.val) (f3 := 6) (a := a.val) (b := b.val)
    (f8 := 0) rfl (by omega) (by omega) (by omega) (by omega) (by omega) (by omega)
  rw [hw0, decodeS_03, ea, eb, e8]
  simp [decode03, need, checked, hw]
theorem clz (d a : GIx) : Statement (.clz d a) := by
  refine of_words rfl fun hw => ?_
  have b0 := d.isLt
  have b1 := a.isLt
  obtain ⟨hw0, ea, eb, e8⟩ := decode_S (maj := 0x04) (d := d.val) (f3 := 0) (a := a.val) (b := 0)
    (f8 := 0) rfl (by omega) (by omega) (by omega) (by omega) (by omega) (by omega)
  rw [hw0, decodeS_04, ea, eb, e8]
  simp [decode04, need, checked, hw]
theorem ctz (d a : GIx) : Statement (.ctz d a) := by
  refine of_words rfl fun hw => ?_
  have b0 := d.isLt
  have b1 := a.isLt
  obtain ⟨hw0, ea, eb, e8⟩ := decode_S (maj := 0x04) (d := d.val) (f3 := 1) (a := a.val) (b := 0)
    (f8 := 0) rfl (by omega) (by omega) (by omega) (by omega) (by omega) (by omega)
  rw [hw0, decodeS_04, ea, eb, e8]
  simp [decode04, need, checked, hw]
theorem popc (d a : GIx) : Statement (.popc d a) := by
  refine of_words rfl fun hw => ?_
  have b0 := d.isLt
  have b1 := a.isLt
  obtain ⟨hw0, ea, eb, e8⟩ := decode_S (maj := 0x04) (d := d.val) (f3 := 2) (a := a.val) (b := 0)
    (f8 := 0) rfl (by omega) (by omega) (by omega) (by omega) (by omega) (by omega)
  rw [hw0, decodeS_04, ea, eb, e8]
  simp [decode04, need, checked, hw]
theorem sext (d a : GIx) (wm1 : Fin 64) : Statement (.sext d a wm1) := by
  refine of_words rfl fun hw => ?_
  have b0 := d.isLt
  have b1 := a.isLt
  have b2 := wm1.isLt
  obtain ⟨hw0, ea, eb, e8⟩ := decode_S (maj := 0x04) (d := d.val) (f3 := 3) (a := a.val) (b := 0)
    (f8 := wm1.val) rfl (by omega) (by omega) (by omega) (by omega) (by omega) (by omega)
  have f0 : wm1.val < 64 := by omega
  have f1 : ¬64 ≤ wm1.val := by omega
  rw [hw0, decodeS_04, ea, eb, e8]
  simp [decode04, f0, f1, need, checked, hw]
theorem zext (d a : GIx) (wm1 : Fin 64) : Statement (.zext d a wm1) := by
  refine of_words rfl fun hw => ?_
  have b0 := d.isLt
  have b1 := a.isLt
  have b2 := wm1.isLt
  obtain ⟨hw0, ea, eb, e8⟩ := decode_S (maj := 0x04) (d := d.val) (f3 := 4) (a := a.val) (b := 0)
    (f8 := wm1.val) rfl (by omega) (by omega) (by omega) (by omega) (by omega) (by omega)
  have f0 : wm1.val < 64 := by omega
  have f1 : ¬64 ≤ wm1.val := by omega
  rw [hw0, decodeS_04, ea, eb, e8]
  simp [decode04, f0, f1, need, checked, hw]
theorem shli (d a : GIx) (n : Fin 64) : Statement (.shli d a n) := by
  refine of_words rfl fun hw => ?_
  have b0 := d.isLt
  have b1 := a.isLt
  have b2 := n.isLt
  obtain ⟨hw0, ea, eb, e8⟩ := decode_S (maj := 0x04) (d := d.val) (f3 := 5) (a := a.val) (b := 0)
    (f8 := n.val) rfl (by omega) (by omega) (by omega) (by omega) (by omega) (by omega)
  have f0 : n.val < 64 := by omega
  have f1 : ¬64 ≤ n.val := by omega
  rw [hw0, decodeS_04, ea, eb, e8]
  simp [decode04, f0, f1, need, checked, hw]
theorem shri (d a : GIx) (n : Fin 64) : Statement (.shri d a n) := by
  refine of_words rfl fun hw => ?_
  have b0 := d.isLt
  have b1 := a.isLt
  have b2 := n.isLt
  obtain ⟨hw0, ea, eb, e8⟩ := decode_S (maj := 0x04) (d := d.val) (f3 := 6) (a := a.val) (b := 0)
    (f8 := n.val) rfl (by omega) (by omega) (by omega) (by omega) (by omega) (by omega)
  have f0 : n.val < 64 := by omega
  have f1 : ¬64 ≤ n.val := by omega
  rw [hw0, decodeS_04, ea, eb, e8]
  simp [decode04, f0, f1, need, checked, hw]
theorem srai (d a : GIx) (n : Fin 64) : Statement (.srai d a n) := by
  refine of_words rfl fun hw => ?_
  have b0 := d.isLt
  have b1 := a.isLt
  have b2 := n.isLt
  obtain ⟨hw0, ea, eb, e8⟩ := decode_S (maj := 0x04) (d := d.val) (f3 := 7) (a := a.val) (b := 0)
    (f8 := n.val) rfl (by omega) (by omega) (by omega) (by omega) (by omega) (by omega)
  have f0 : n.val < 64 := by omega
  have f1 : ¬64 ≤ n.val := by omega
  rw [hw0, decodeS_04, ea, eb, e8]
  simp [decode04, f0, f1, need, checked, hw]
theorem bfx (d a : GIx) (wm1 pos : Fin 64) : Statement (.bfx d a wm1 pos) := by
  refine of_words rfl fun hw => ?_
  have b0 := d.isLt
  have b1 := a.isLt
  have b2 := wm1.isLt
  have b3 := pos.isLt
  obtain ⟨hw0, ea, eb, ec, ei⟩ := decode_L (maj := 0x05) (d := d.val) (f3 := 0) (a := a.val) (b := 0)
    (c := 0) (imm := (wm1.val * 64 + pos.val)) rfl (by omega) (by omega) (by omega) (by omega) (by omega) (by omega) (by omega)
  have f0 : (wm1.val * 64 + pos.val) / 64 = wm1.val := by omega
  have f1 : (wm1.val * 64 + pos.val) % 64 = pos.val := by omega
  have f2 : wm1.val * 64 + pos.val < 4096 := by omega
  have f3 : ¬4096 ≤ wm1.val * 64 + pos.val := by omega
  rw [hw0, decodeL_05, ea, eb, ec, ei]
  exact bfx_core _ _ _ _ hw f0 f1 f2 f3
theorem bfi (d a : GIx) (wm1 pos : Fin 64) : Statement (.bfi d a wm1 pos) := by
  refine of_words rfl fun hw => ?_
  have b0 := d.isLt
  have b1 := a.isLt
  have b2 := wm1.isLt
  have b3 := pos.isLt
  obtain ⟨hw0, ea, eb, ec, ei⟩ := decode_L (maj := 0x05) (d := d.val) (f3 := 1) (a := a.val) (b := 0)
    (c := 0) (imm := (wm1.val * 64 + pos.val)) rfl (by omega) (by omega) (by omega) (by omega) (by omega) (by omega) (by omega)
  have f0 : (wm1.val * 64 + pos.val) / 64 = wm1.val := by omega
  have f1 : (wm1.val * 64 + pos.val) % 64 = pos.val := by omega
  have f2 : wm1.val * 64 + pos.val < 4096 := by omega
  have f3 : ¬4096 ≤ wm1.val * 64 + pos.val := by omega
  rw [hw0, decodeL_05, ea, eb, ec, ei]
  exact bfi_core _ _ _ _ hw f0 f1 f2 f3
theorem addi (d a : GIx) (imm : BitVec 20) : Statement (.addi d a imm) := by
  refine of_words rfl fun hw => ?_
  have b0 := d.isLt
  have b1 := a.isLt
  have b2 := imm.isLt
  obtain ⟨hw0, ea, eb, ec, ei⟩ := decode_L (maj := 0x06) (d := d.val) (f3 := 0) (a := a.val) (b := 0)
    (c := 0) (imm := imm.toNat) rfl (by omega) (by omega) (by omega) (by omega) (by omega) (by omega) (by omega)
  rw [hw0, decodeL_06, ea, eb, ec, ei]
  simp [decode06, need, checked, hw]
theorem andi (d a : GIx) (imm : BitVec 20) : Statement (.andi d a imm) := by
  refine of_words rfl fun hw => ?_
  have b0 := d.isLt
  have b1 := a.isLt
  have b2 := imm.isLt
  obtain ⟨hw0, ea, eb, ec, ei⟩ := decode_L (maj := 0x06) (d := d.val) (f3 := 1) (a := a.val) (b := 0)
    (c := 0) (imm := imm.toNat) rfl (by omega) (by omega) (by omega) (by omega) (by omega) (by omega) (by omega)
  rw [hw0, decodeL_06, ea, eb, ec, ei]
  simp [decode06, need, checked, hw]
theorem ori (d a : GIx) (imm : BitVec 20) : Statement (.ori d a imm) := by
  refine of_words rfl fun hw => ?_
  have b0 := d.isLt
  have b1 := a.isLt
  have b2 := imm.isLt
  obtain ⟨hw0, ea, eb, ec, ei⟩ := decode_L (maj := 0x06) (d := d.val) (f3 := 2) (a := a.val) (b := 0)
    (c := 0) (imm := imm.toNat) rfl (by omega) (by omega) (by omega) (by omega) (by omega) (by omega) (by omega)
  rw [hw0, decodeL_06, ea, eb, ec, ei]
  simp [decode06, need, checked, hw]
theorem xori (d a : GIx) (imm : BitVec 20) : Statement (.xori d a imm) := by
  refine of_words rfl fun hw => ?_
  have b0 := d.isLt
  have b1 := a.isLt
  have b2 := imm.isLt
  obtain ⟨hw0, ea, eb, ec, ei⟩ := decode_L (maj := 0x06) (d := d.val) (f3 := 3) (a := a.val) (b := 0)
    (c := 0) (imm := imm.toNat) rfl (by omega) (by omega) (by omega) (by omega) (by omega) (by omega) (by omega)
  rw [hw0, decodeL_06, ea, eb, ec, ei]
  simp [decode06, need, checked, hw]
theorem movi (d : GIx) (x : BitVec 48) : Statement (.movi d x) := by
  refine of_words rfl fun hw => ?_
  have b0 := d.isLt
  have b1 := x.isLt
  rw [decode_X rfl (by omega) (by omega) (by omega) (by omega)]
  simp [decodeX, decode07, need, checked, hw]
theorem moviShifted (d : GIx) (x : BitVec 48) : Statement (.moviShifted d x) := by
  refine of_words rfl fun hw => ?_
  have b0 := d.isLt
  have b1 := x.isLt
  rw [decode_X rfl (by omega) (by omega) (by omega) (by omega)]
  simp [decodeX, decode07, need, checked, hw]
theorem cmp (k : Fin 4) (c : Cond) (a b : GIx) : Statement (.cmp k c a b) := by
  refine of_words rfl fun hw => ?_
  have b0 := k.isLt
  have b1 := c.code_lt
  have b2 := a.isLt
  have b3 := b.isLt
  obtain ⟨hw0, ea, eb, e8⟩ := decode_S (maj := 0x08) (d := k.val) (f3 := c.code) (a := a.val) (b := b.val)
    (f8 := 0) rfl (by omega) (by omega) (by omega) (by omega) (by omega) (by omega)
  have f0 : k.val < 4 := by omega
  have f1 : ¬4 ≤ k.val := by omega
  rw [hw0, decodeS_08, ea, eb, e8]
  simp [decode08, f0, f1, need, checked, hw]
theorem cmpi (k : Fin 4) (c : Cond) (a : GIx) (imm : BitVec 20) : Statement (.cmpi k c a imm) := by
  refine of_words rfl fun hw => ?_
  have b0 := k.isLt
  have b1 := c.code_lt
  have b2 := a.isLt
  have b3 := imm.isLt
  obtain ⟨hw0, ea, eb, ec, ei⟩ := decode_L (maj := 0x09) (d := k.val) (f3 := c.code) (a := a.val) (b := 0)
    (c := 0) (imm := imm.toNat) rfl (by omega) (by omega) (by omega) (by omega) (by omega) (by omega) (by omega)
  have f0 : k.val < 4 := by omega
  have f1 : ¬4 ≤ k.val := by omega
  rw [hw0, decodeL_09, ea, eb, ec, ei]
  simp [decode09, f0, f1, need, checked, hw]
theorem tstb (k : Fin 4) (ne : Bool) (a : GIx) (n : Fin 64) : Statement (.tstb k ne a n) := by
  refine of_words rfl fun hw => ?_
  have b0 := k.isLt
  have b1 := boolNat_lt ne
  have b2 := a.isLt
  have b3 := n.isLt
  obtain ⟨hw0, ea, eb, e8⟩ := decode_S (maj := 0x0A) (d := k.val) (f3 := (boolNat ne)) (a := a.val) (b := 0)
    (f8 := n.val) rfl (by omega) (by omega) (by omega) (by omega) (by omega) (by omega)
  have f0 : n.val < 64 := by omega
  have f1 : ¬64 ≤ n.val := by omega
  have f2 : k.val < 4 := by omega
  have f3 : ¬4 ≤ k.val := by omega
  rw [hw0, decodeS_0A, ea, eb, e8]
  cases ne <;> simp [decode0A, f0, f1, f2, f3, need, checked, hw, boolNat]
theorem tstg (k : Fin 4) (ne : Bool) (a : GIx) (t : Fin 4) : Statement (.tstg k ne a t) := by
  refine of_words rfl fun hw => ?_
  have b0 := k.isLt
  have b1 := boolNat_lt ne
  have b2 := a.isLt
  have b3 := t.isLt
  obtain ⟨hw0, ea, eb, e8⟩ := decode_S (maj := 0x0B) (d := k.val) (f3 := (boolNat ne)) (a := a.val) (b := 0)
    (f8 := t.val) rfl (by omega) (by omega) (by omega) (by omega) (by omega) (by omega)
  have f0 : t.val < 4 := by omega
  have f1 : ¬4 ≤ t.val := by omega
  have f2 : k.val < 4 := by omega
  have f3 : ¬4 ≤ k.val := by omega
  rw [hw0, decodeS_0B, ea, eb, e8]
  cases ne <;> simp [decode0B, f0, f1, f2, f3, need, checked, hw, boolNat]
theorem j (s : BitVec 15) (h : Fin 32) : Statement (.j s h) := by
  refine of_words rfl fun hw => ?_
  have b0 := s.isLt
  have b1 := h.isLt
  obtain ⟨hw0, ea, eb, ec, ei⟩ := decode_L (maj := 0x0C) (d := 0) (f3 := 0) (a := 0) (b := 0)
    (c := 0) (imm := (s.toNat * 32 + h.val)) rfl (by omega) (by omega) (by omega) (by omega) (by omega) (by omega) (by omega)
  have f0 : (s.toNat * 32 + h.val) / 32 = s.toNat := by omega
  have f1 : (s.toNat * 32 + h.val) % 32 = h.val := by omega
  rw [hw0, decodeL_0C, ea, eb, ec, ei]
  exact j_core _ _ hw f0 f1
theorem jl (s : BitVec 15) (h : Fin 32) : Statement (.jl s h) := by
  refine of_words rfl fun hw => ?_
  have b0 := s.isLt
  have b1 := h.isLt
  obtain ⟨hw0, ea, eb, ec, ei⟩ := decode_L (maj := 0x0C) (d := 0) (f3 := 1) (a := 0) (b := 0)
    (c := 0) (imm := (s.toNat * 32 + h.val)) rfl (by omega) (by omega) (by omega) (by omega) (by omega) (by omega) (by omega)
  have f0 : (s.toNat * 32 + h.val) / 32 = s.toNat := by omega
  have f1 : (s.toNat * 32 + h.val) % 32 = h.val := by omega
  rw [hw0, decodeL_0C, ea, eb, ec, ei]
  exact jl_core _ _ hw f0 f1
theorem jr (a : GIx) : Statement (.jr a) := by
  refine of_words rfl fun hw => ?_
  have b0 := a.isLt
  obtain ⟨hw0, ea, eb, e8⟩ := decode_S (maj := 0x0D) (d := 0) (f3 := 0) (a := a.val) (b := 0)
    (f8 := 0) rfl (by omega) (by omega) (by omega) (by omega) (by omega) (by omega)
  rw [hw0, decodeS_0D, ea, eb, e8]
  simp [decode0D, need, checked, hw]
theorem jlr (a : GIx) : Statement (.jlr a) := by
  refine of_words rfl fun hw => ?_
  have b0 := a.isLt
  obtain ⟨hw0, ea, eb, e8⟩ := decode_S (maj := 0x0D) (d := 0) (f3 := 1) (a := a.val) (b := 0)
    (f8 := 0) rfl (by omega) (by omega) (by omega) (by omega) (by omega) (by omega)
  rw [hw0, decodeS_0D, ea, eb, e8]
  simp [decode0D, need, checked, hw]
theorem capget (d a : GIx) (sel : CapSel) : Statement (.capget d a sel) := by
  refine of_words rfl fun hw => ?_
  have b0 := d.isLt
  have b1 := a.isLt
  have b2 := sel.code_lt
  obtain ⟨hw0, ea, eb, e8⟩ := decode_S (maj := 0x0E) (d := d.val) (f3 := 0) (a := a.val) (b := 0)
    (f8 := sel.code) rfl (by omega) (by omega) (by omega) (by omega) (by omega) (by omega)
  rw [hw0, decodeS_0E, ea, eb, e8]
  simp [decode0E, need, checked, hw]
theorem capset (d a b : GIx) : Statement (.capset d a b) := by
  refine of_words rfl fun hw => ?_
  have b0 := d.isLt
  have b1 := a.isLt
  have b2 := b.isLt
  obtain ⟨hw0, ea, eb, e8⟩ := decode_S (maj := 0x0E) (d := d.val) (f3 := 1) (a := a.val) (b := b.val)
    (f8 := 0) rfl (by omega) (by omega) (by omega) (by omega) (by omega) (by omega)
  rw [hw0, decodeS_0E, ea, eb, e8]
  simp [decode0E, need, checked, hw]
theorem capadd (d a b : GIx) : Statement (.capadd d a b) := by
  refine of_words rfl fun hw => ?_
  have b0 := d.isLt
  have b1 := a.isLt
  have b2 := b.isLt
  obtain ⟨hw0, ea, eb, e8⟩ := decode_S (maj := 0x0E) (d := d.val) (f3 := 2) (a := a.val) (b := b.val)
    (f8 := 0) rfl (by omega) (by omega) (by omega) (by omega) (by omega) (by omega)
  rw [hw0, decodeS_0E, ea, eb, e8]
  simp [decode0E, need, checked, hw]
theorem capbnd (d a b : GIx) : Statement (.capbnd d a b) := by
  refine of_words rfl fun hw => ?_
  have b0 := d.isLt
  have b1 := a.isLt
  have b2 := b.isLt
  obtain ⟨hw0, ea, eb, e8⟩ := decode_S (maj := 0x0E) (d := d.val) (f3 := 3) (a := a.val) (b := b.val)
    (f8 := 0) rfl (by omega) (by omega) (by omega) (by omega) (by omega) (by omega)
  rw [hw0, decodeS_0E, ea, eb, e8]
  simp [decode0E, need, checked, hw]
theorem capprm (d a b : GIx) : Statement (.capprm d a b) := by
  refine of_words rfl fun hw => ?_
  have b0 := d.isLt
  have b1 := a.isLt
  have b2 := b.isLt
  obtain ⟨hw0, ea, eb, e8⟩ := decode_S (maj := 0x0E) (d := d.val) (f3 := 4) (a := a.val) (b := b.val)
    (f8 := 0) rfl (by omega) (by omega) (by omega) (by omega) (by omega) (by omega)
  rw [hw0, decodeS_0E, ea, eb, e8]
  simp [decode0E, need, checked, hw]
theorem capclr (d a : GIx) : Statement (.capclr d a) := by
  refine of_words rfl fun hw => ?_
  have b0 := d.isLt
  have b1 := a.isLt
  obtain ⟨hw0, ea, eb, e8⟩ := decode_S (maj := 0x0E) (d := d.val) (f3 := 5) (a := a.val) (b := 0)
    (f8 := 0) rfl (by omega) (by omega) (by omega) (by omega) (by omega) (by omega)
  rw [hw0, decodeS_0E, ea, eb, e8]
  simp [decode0E, need, checked, hw]
theorem capwv (d a b c : GIx) : Statement (.capwv d a b c) := by
  refine of_words rfl fun hw => ?_
  have b0 := d.isLt
  have b1 := a.isLt
  have b2 := b.isLt
  have b3 := c.isLt
  obtain ⟨hw0, ea, eb, ec, ei⟩ := decode_L (maj := 0x0F) (d := d.val) (f3 := 0) (a := a.val) (b := b.val)
    (c := c.val) (imm := 0) rfl (by omega) (by omega) (by omega) (by omega) (by omega) (by omega) (by omega)
  rw [hw0, decodeL_0F, ea, eb, ec, ei]
  simp [decode0F, need, checked, hw]
theorem capchk (d a b : GIx) (perm : BitVec 10) : Statement (.capchk d a b perm) := by
  refine of_words rfl fun hw => ?_
  have b0 := d.isLt
  have b1 := a.isLt
  have b2 := b.isLt
  have b3 := perm.isLt
  obtain ⟨hw0, ea, eb, ec, ei⟩ := decode_L (maj := 0x0F) (d := d.val) (f3 := 1) (a := a.val) (b := b.val)
    (c := 0) (imm := perm.toNat) rfl (by omega) (by omega) (by omega) (by omega) (by omega) (by omega) (by omega)
  have f0 : perm.toNat < 1024 := by omega
  have f1 : ¬1024 ≤ perm.toNat := by omega
  rw [hw0, decodeL_0F, ea, eb, ec, ei]
  simp [decode0F, f0, f1, need, checked, hw]
theorem ld (z : Bool) (sz : Fin 4) (d a : GIx) (m : BitVec 20) : Statement (.ld z sz d a m) := by
  refine of_words rfl fun hw => ?_
  have b0 := boolNat_lt z
  have b1 := sz.isLt
  have b2 := d.isLt
  have b3 := a.isLt
  have b4 := m.isLt
  obtain ⟨hw0, ea, eb, ec, ei⟩ := decode_L (maj := 0x20) (d := d.val) (f3 := (boolNat z * 4 + sz.val)) (a := a.val) (b := 0)
    (c := 0) (imm := m.toNat) rfl (by omega) (by omega) (by omega) (by omega) (by omega) (by omega) (by omega)
  have f0 : (boolNat z * 4 + sz.val) / 4 = boolNat z := by omega
  have f1 : (boolNat z * 4 + sz.val) % 4 = sz.val := by omega
  rw [hw0, decodeL_20, ea, eb, ec, ei]
  exact ld_core _ _ _ _ _ hw f0 f1
theorem st (sz : Fin 4) (d a : GIx) (m : BitVec 20) : Statement (.st sz d a m) := by
  refine of_words rfl fun hw => ?_
  have b0 := sz.isLt
  have b1 := d.isLt
  have b2 := a.isLt
  have b3 := m.isLt
  obtain ⟨hw0, ea, eb, ec, ei⟩ := decode_L (maj := 0x21) (d := d.val) (f3 := sz.val) (a := a.val) (b := 0)
    (c := 0) (imm := m.toNat) rfl (by omega) (by omega) (by omega) (by omega) (by omega) (by omega) (by omega)
  have f0 : sz.val < 4 := by omega
  have f1 : ¬4 ≤ sz.val := by omega
  rw [hw0, decodeL_21, ea, eb, ec, ei]
  simp [decode21, f0, f1, need, checked, hw]
theorem ldv (d : VIx) (a : GIx) (k : KIx) (m : BitVec 20) : Statement (.ldv d a k m) := by
  refine of_words rfl fun hw => ?_
  have b0 := d.isLt
  have b1 := a.isLt
  have b2 := k.isLt
  have b3 := m.isLt
  obtain ⟨hw0, ea, eb, ec, ei⟩ := decode_L (maj := 0x22) (d := d.val) (f3 := 0) (a := a.val) (b := 0)
    (c := k.val) (imm := m.toNat) rfl (by omega) (by omega) (by omega) (by omega) (by omega) (by omega) (by omega)
  have f0 : ¬8 ≤ d.val := by omega
  have f1 : ¬4 ≤ k.val := by omega
  have f2 : d.val < 8 := by omega
  have f3 : k.val < 4 := by omega
  rw [hw0, decodeL_22, ea, eb, ec, ei]
  simp [decode22, f0, f1, f2, f3, need, checked, hw]
theorem stv (d : VIx) (a : GIx) (k : KIx) (m : BitVec 20) : Statement (.stv d a k m) := by
  refine of_words rfl fun hw => ?_
  have b0 := d.isLt
  have b1 := a.isLt
  have b2 := k.isLt
  have b3 := m.isLt
  obtain ⟨hw0, ea, eb, ec, ei⟩ := decode_L (maj := 0x22) (d := d.val) (f3 := 1) (a := a.val) (b := 0)
    (c := k.val) (imm := m.toNat) rfl (by omega) (by omega) (by omega) (by omega) (by omega) (by omega) (by omega)
  have f0 : ¬8 ≤ d.val := by omega
  have f1 : ¬4 ≤ k.val := by omega
  have f2 : d.val < 8 := by omega
  have f3 : k.val < 4 := by omega
  rw [hw0, decodeL_22, ea, eb, ec, ei]
  simp [decode22, f0, f1, f2, f3, need, checked, hw]
theorem ldvs (ew : EltW) (d : VIx) (a b : GIx) (k : KIx) (m : BitVec 20) : Statement (.ldvs ew d a b k m) := by
  refine of_words rfl fun hw => ?_
  have b0 := ew.code_lt
  have b1 := d.isLt
  have b2 := a.isLt
  have b3 := b.isLt
  have b4 := k.isLt
  have b5 := m.isLt
  obtain ⟨hw0, ea, eb, ec, ei⟩ := decode_L (maj := 0x23) (d := d.val) (f3 := (ew.code * 2)) (a := a.val) (b := b.val)
    (c := k.val) (imm := m.toNat) rfl (by omega) (by omega) (by omega) (by omega) (by omega) (by omega) (by omega)
  have f0 : ¬8 ≤ d.val := by omega
  have f1 : ¬4 ≤ k.val := by omega
  have f2 : (ew.code * 2) / 2 = ew.code := by omega
  have f3 : (ew.code * 2) % 2 = 0 := by omega
  have f4 : d.val < 8 := by omega
  have f5 : k.val < 4 := by omega
  rw [hw0, decodeL_23, ea, eb, ec, ei]
  exact ldvs_core _ _ _ _ _ _ hw f0 f1 f2 f3 f4 f5
theorem stvs (ew : EltW) (d : VIx) (a b : GIx) (k : KIx) (m : BitVec 20) : Statement (.stvs ew d a b k m) := by
  refine of_words rfl fun hw => ?_
  have b0 := ew.code_lt
  have b1 := d.isLt
  have b2 := a.isLt
  have b3 := b.isLt
  have b4 := k.isLt
  have b5 := m.isLt
  obtain ⟨hw0, ea, eb, ec, ei⟩ := decode_L (maj := 0x23) (d := d.val) (f3 := (ew.code * 2 + 1)) (a := a.val) (b := b.val)
    (c := k.val) (imm := m.toNat) rfl (by omega) (by omega) (by omega) (by omega) (by omega) (by omega) (by omega)
  have f0 : ¬8 ≤ d.val := by omega
  have f1 : ¬4 ≤ k.val := by omega
  have f2 : (ew.code * 2 + 1) / 2 = ew.code := by omega
  have f3 : (ew.code * 2 + 1) % 2 = 1 := by omega
  have f4 : d.val < 8 := by omega
  have f5 : k.val < 4 := by omega
  rw [hw0, decodeL_23, ea, eb, ec, ei]
  exact stvs_core _ _ _ _ _ _ hw f0 f1 f2 f3 f4 f5
theorem vgath (d : VIx) (a : GIx) (b : VIx) (k : KIx) (off : BitVec 19) : Statement (.vgath d a b k off) := by
  refine of_words rfl fun hw => ?_
  have b0 := d.isLt
  have b1 := a.isLt
  have b2 := b.isLt
  have b3 := k.isLt
  have b4 := off.isLt
  obtain ⟨hw0, ea, eb, ec, ei⟩ := decode_L (maj := 0x24) (d := d.val) (f3 := 0) (a := a.val) (b := b.val)
    (c := k.val) (imm := off.toNat) rfl (by omega) (by omega) (by omega) (by omega) (by omega) (by omega) (by omega)
  have f0 : ¬8 ≤ d.val := by omega
  have f1 : ¬8 ≤ b.val := by omega
  have f2 : ¬4 ≤ k.val := by omega
  have f3 : off.toNat < 524288 := by omega
  have f4 : ¬524288 ≤ off.toNat := by omega
  have f5 : d.val < 8 := by omega
  have f6 : b.val < 8 := by omega
  have f7 : k.val < 4 := by omega
  rw [hw0, decodeL_24, ea, eb, ec, ei]
  simp [decode24, f0, f1, f2, f3, f4, f5, f6, f7, need, checked, hw]
theorem vscat (d : VIx) (a : GIx) (b : VIx) (k : KIx) (off : BitVec 19) : Statement (.vscat d a b k off) := by
  refine of_words rfl fun hw => ?_
  have b0 := d.isLt
  have b1 := a.isLt
  have b2 := b.isLt
  have b3 := k.isLt
  have b4 := off.isLt
  obtain ⟨hw0, ea, eb, ec, ei⟩ := decode_L (maj := 0x24) (d := d.val) (f3 := 1) (a := a.val) (b := b.val)
    (c := k.val) (imm := off.toNat) rfl (by omega) (by omega) (by omega) (by omega) (by omega) (by omega) (by omega)
  have f0 : ¬8 ≤ d.val := by omega
  have f1 : ¬8 ≤ b.val := by omega
  have f2 : ¬4 ≤ k.val := by omega
  have f3 : off.toNat < 524288 := by omega
  have f4 : ¬524288 ≤ off.toNat := by omega
  have f5 : d.val < 8 := by omega
  have f6 : b.val < 8 := by omega
  have f7 : k.val < 4 := by omega
  rw [hw0, decodeL_24, ea, eb, ec, ei]
  simp [decode24, f0, f1, f2, f3, f4, f5, f6, f7, need, checked, hw]
theorem ldcap (d a : GIx) (m : BitVec 20) : Statement (.ldcap d a m) := by
  refine of_words rfl fun hw => ?_
  have b0 := d.isLt
  have b1 := a.isLt
  have b2 := m.isLt
  obtain ⟨hw0, ea, eb, ec, ei⟩ := decode_L (maj := 0x25) (d := d.val) (f3 := 0) (a := a.val) (b := 0)
    (c := 0) (imm := m.toNat) rfl (by omega) (by omega) (by omega) (by omega) (by omega) (by omega) (by omega)
  rw [hw0, decodeL_25, ea, eb, ec, ei]
  simp [decode25, need, checked, hw]
theorem stcap (d a : GIx) (m : BitVec 20) : Statement (.stcap d a m) := by
  refine of_words rfl fun hw => ?_
  have b0 := d.isLt
  have b1 := a.isLt
  have b2 := m.isLt
  obtain ⟨hw0, ea, eb, ec, ei⟩ := decode_L (maj := 0x25) (d := d.val) (f3 := 1) (a := a.val) (b := 0)
    (c := 0) (imm := m.toNat) rfl (by omega) (by omega) (by omega) (by omega) (by omega) (by omega) (by omega)
  rw [hw0, decodeL_25, ea, eb, ec, ei]
  simp [decode25, need, checked, hw]
theorem putf (sz : Fin 4) (d a c : GIx) (m : BitVec 20) : Statement (.putf sz d a c m) := by
  refine of_words rfl fun hw => ?_
  have b0 := sz.isLt
  have b1 := d.isLt
  have b2 := a.isLt
  have b3 := c.isLt
  have b4 := m.isLt
  obtain ⟨hw0, ea, eb, ec, ei⟩ := decode_L (maj := 0x26) (d := d.val) (f3 := sz.val) (a := a.val) (b := 0)
    (c := c.val) (imm := m.toNat) rfl (by omega) (by omega) (by omega) (by omega) (by omega) (by omega) (by omega)
  have f0 : sz.val < 4 := by omega
  have f1 : ¬4 ≤ sz.val := by omega
  rw [hw0, decodeL_26, ea, eb, ec, ei]
  simp [decode26, f0, f1, need, checked, hw]
theorem putvf (d : VIx) (a : GIx) (k : KIx) (c : GIx) (m : BitVec 20) : Statement (.putvf d a k c m) := by
  refine of_words rfl fun hw => ?_
  have b0 := d.isLt
  have b1 := a.isLt
  have b2 := k.isLt
  have b3 := c.isLt
  have b4 := m.isLt
  obtain ⟨hw0, ea, eb, ec, ei⟩ := decode_L (maj := 0x27) (d := d.val) (f3 := 0) (a := a.val) (b := k.val)
    (c := c.val) (imm := m.toNat) rfl (by omega) (by omega) (by omega) (by omega) (by omega) (by omega) (by omega)
  have f0 : ¬8 ≤ d.val := by omega
  have f1 : ¬4 ≤ k.val := by omega
  have f2 : d.val < 8 := by omega
  have f3 : k.val < 4 := by omega
  rw [hw0, decodeL_27, ea, eb, ec, ei]
  simp [decode27, f0, f1, f2, f3, need, checked, hw]
theorem radd (ty : AtomTy) (a b c : GIx) (off : BitVec 16) : Statement (.radd ty a b c off) := by
  refine of_words rfl fun hw => ?_
  have b0 := ty.code_lt
  have b1 := a.isLt
  have b2 := b.isLt
  have b3 := c.isLt
  have b4 := off.isLt
  obtain ⟨hw0, ea, eb, ec, ei⟩ := decode_L (maj := 0x28) (d := 0) (f3 := 0) (a := a.val) (b := b.val)
    (c := c.val) (imm := (ty.code * 65536 + off.toNat)) rfl (by omega) (by omega) (by omega) (by omega) (by omega) (by omega) (by omega)
  have f0 : (ty.code * 65536 + off.toNat) / 65536 = ty.code := by omega
  have f1 : (ty.code * 65536 + off.toNat) % 65536 = off.toNat := by omega
  have g0 : BitVec.ofNat 16 (ty.code * 65536 + off.toNat) = off := bvLow off (ty.code) 65536 rfl
  rw [hw0, decodeL_28, ea, eb, ec, ei]
  exact radd_core _ _ _ _ _ hw f0 f1 g0
theorem rmin (ty : AtomTy) (a b c : GIx) (off : BitVec 16) : Statement (.rmin ty a b c off) := by
  refine of_words rfl fun hw => ?_
  have b0 := ty.code_lt
  have b1 := a.isLt
  have b2 := b.isLt
  have b3 := c.isLt
  have b4 := off.isLt
  obtain ⟨hw0, ea, eb, ec, ei⟩ := decode_L (maj := 0x28) (d := 0) (f3 := 1) (a := a.val) (b := b.val)
    (c := c.val) (imm := (ty.code * 65536 + off.toNat)) rfl (by omega) (by omega) (by omega) (by omega) (by omega) (by omega) (by omega)
  have f0 : (ty.code * 65536 + off.toNat) / 65536 = ty.code := by omega
  have f1 : (ty.code * 65536 + off.toNat) % 65536 = off.toNat := by omega
  have g0 : BitVec.ofNat 16 (ty.code * 65536 + off.toNat) = off := bvLow off (ty.code) 65536 rfl
  rw [hw0, decodeL_28, ea, eb, ec, ei]
  exact rmin_core _ _ _ _ _ hw f0 f1 g0
theorem rmax (ty : AtomTy) (a b c : GIx) (off : BitVec 16) : Statement (.rmax ty a b c off) := by
  refine of_words rfl fun hw => ?_
  have b0 := ty.code_lt
  have b1 := a.isLt
  have b2 := b.isLt
  have b3 := c.isLt
  have b4 := off.isLt
  obtain ⟨hw0, ea, eb, ec, ei⟩ := decode_L (maj := 0x28) (d := 0) (f3 := 2) (a := a.val) (b := b.val)
    (c := c.val) (imm := (ty.code * 65536 + off.toNat)) rfl (by omega) (by omega) (by omega) (by omega) (by omega) (by omega) (by omega)
  have f0 : (ty.code * 65536 + off.toNat) / 65536 = ty.code := by omega
  have f1 : (ty.code * 65536 + off.toNat) % 65536 = off.toNat := by omega
  have g0 : BitVec.ofNat 16 (ty.code * 65536 + off.toNat) = off := bvLow off (ty.code) 65536 rfl
  rw [hw0, decodeL_28, ea, eb, ec, ei]
  exact rmax_core _ _ _ _ _ hw f0 f1 g0
theorem rand (ty : AtomTy) (a b c : GIx) (off : BitVec 16) : Statement (.rand ty a b c off) := by
  refine of_words rfl fun hw => ?_
  have b0 := ty.code_lt
  have b1 := a.isLt
  have b2 := b.isLt
  have b3 := c.isLt
  have b4 := off.isLt
  obtain ⟨hw0, ea, eb, ec, ei⟩ := decode_L (maj := 0x28) (d := 0) (f3 := 3) (a := a.val) (b := b.val)
    (c := c.val) (imm := (ty.code * 65536 + off.toNat)) rfl (by omega) (by omega) (by omega) (by omega) (by omega) (by omega) (by omega)
  have f0 : (ty.code * 65536 + off.toNat) / 65536 = ty.code := by omega
  have f1 : (ty.code * 65536 + off.toNat) % 65536 = off.toNat := by omega
  have g0 : BitVec.ofNat 16 (ty.code * 65536 + off.toNat) = off := bvLow off (ty.code) 65536 rfl
  rw [hw0, decodeL_28, ea, eb, ec, ei]
  exact rand_core _ _ _ _ _ hw f0 f1 g0
theorem ror (ty : AtomTy) (a b c : GIx) (off : BitVec 16) : Statement (.ror ty a b c off) := by
  refine of_words rfl fun hw => ?_
  have b0 := ty.code_lt
  have b1 := a.isLt
  have b2 := b.isLt
  have b3 := c.isLt
  have b4 := off.isLt
  obtain ⟨hw0, ea, eb, ec, ei⟩ := decode_L (maj := 0x28) (d := 0) (f3 := 4) (a := a.val) (b := b.val)
    (c := c.val) (imm := (ty.code * 65536 + off.toNat)) rfl (by omega) (by omega) (by omega) (by omega) (by omega) (by omega) (by omega)
  have f0 : (ty.code * 65536 + off.toNat) / 65536 = ty.code := by omega
  have f1 : (ty.code * 65536 + off.toNat) % 65536 = off.toNat := by omega
  have g0 : BitVec.ofNat 16 (ty.code * 65536 + off.toNat) = off := bvLow off (ty.code) 65536 rfl
  rw [hw0, decodeL_28, ea, eb, ec, ei]
  exact ror_core _ _ _ _ _ hw f0 f1 g0
theorem rxor (ty : AtomTy) (a b c : GIx) (off : BitVec 16) : Statement (.rxor ty a b c off) := by
  refine of_words rfl fun hw => ?_
  have b0 := ty.code_lt
  have b1 := a.isLt
  have b2 := b.isLt
  have b3 := c.isLt
  have b4 := off.isLt
  obtain ⟨hw0, ea, eb, ec, ei⟩ := decode_L (maj := 0x28) (d := 0) (f3 := 5) (a := a.val) (b := b.val)
    (c := c.val) (imm := (ty.code * 65536 + off.toNat)) rfl (by omega) (by omega) (by omega) (by omega) (by omega) (by omega) (by omega)
  have f0 : (ty.code * 65536 + off.toNat) / 65536 = ty.code := by omega
  have f1 : (ty.code * 65536 + off.toNat) % 65536 = off.toNat := by omega
  have g0 : BitVec.ofNat 16 (ty.code * 65536 + off.toNat) = off := bvLow off (ty.code) 65536 rfl
  rw [hw0, decodeL_28, ea, eb, ec, ei]
  exact rxor_core _ _ _ _ _ hw f0 f1 g0
theorem rfadd (ty : AtomTy) (d a b : GIx) (off : BitVec 16) : Statement (.rfadd ty d a b off) := by
  refine of_words rfl fun hw => ?_
  have b0 := ty.code_lt
  have b1 := d.isLt
  have b2 := a.isLt
  have b3 := b.isLt
  have b4 := off.isLt
  obtain ⟨hw0, ea, eb, ec, ei⟩ := decode_L (maj := 0x29) (d := d.val) (f3 := 0) (a := a.val) (b := b.val)
    (c := 0) (imm := (ty.code * 65536 + off.toNat)) rfl (by omega) (by omega) (by omega) (by omega) (by omega) (by omega) (by omega)
  have f0 : (ty.code * 65536 + off.toNat) / 65536 = ty.code := by omega
  have f1 : (ty.code * 65536 + off.toNat) % 65536 = off.toNat := by omega
  have g0 : BitVec.ofNat 16 (ty.code * 65536 + off.toNat) = off := bvLow off (ty.code) 65536 rfl
  rw [hw0, decodeL_29, ea, eb, ec, ei]
  exact rfadd_core _ _ _ _ _ hw f0 f1 g0
theorem rcas (ty : AtomTy) (d a b c : GIx) (off : BitVec 16) : Statement (.rcas ty d a b c off) := by
  refine of_words rfl fun hw => ?_
  have b0 := ty.code_lt
  have b1 := d.isLt
  have b2 := a.isLt
  have b3 := b.isLt
  have b4 := c.isLt
  have b5 := off.isLt
  obtain ⟨hw0, ea, eb, ec, ei⟩ := decode_L (maj := 0x29) (d := d.val) (f3 := 1) (a := a.val) (b := b.val)
    (c := c.val) (imm := (ty.code * 65536 + off.toNat)) rfl (by omega) (by omega) (by omega) (by omega) (by omega) (by omega) (by omega)
  have f0 : (ty.code * 65536 + off.toNat) / 65536 = ty.code := by omega
  have f1 : (ty.code * 65536 + off.toNat) % 65536 = off.toNat := by omega
  have g0 : BitVec.ofNat 16 (ty.code * 65536 + off.toNat) = off := bvLow off (ty.code) 65536 rfl
  rw [hw0, decodeL_29, ea, eb, ec, ei]
  exact rcas_core _ _ _ _ _ _ hw f0 f1 g0
theorem rswap (ty : AtomTy) (d a b : GIx) (off : BitVec 16) : Statement (.rswap ty d a b off) := by
  refine of_words rfl fun hw => ?_
  have b0 := ty.code_lt
  have b1 := d.isLt
  have b2 := a.isLt
  have b3 := b.isLt
  have b4 := off.isLt
  obtain ⟨hw0, ea, eb, ec, ei⟩ := decode_L (maj := 0x29) (d := d.val) (f3 := 2) (a := a.val) (b := b.val)
    (c := 0) (imm := (ty.code * 65536 + off.toNat)) rfl (by omega) (by omega) (by omega) (by omega) (by omega) (by omega) (by omega)
  have f0 : (ty.code * 65536 + off.toNat) / 65536 = ty.code := by omega
  have f1 : (ty.code * 65536 + off.toNat) % 65536 = off.toNat := by omega
  have g0 : BitVec.ofNat 16 (ty.code * 65536 + off.toNat) = off := bvLow off (ty.code) 65536 rfl
  rw [hw0, decodeL_29, ea, eb, ec, ei]
  exact rswap_core _ _ _ _ _ hw f0 f1 g0
theorem ldc (d a : GIx) (off : BitVec 19) : Statement (.ldc d a off) := by
  refine of_words rfl fun hw => ?_
  have b0 := d.isLt
  have b1 := a.isLt
  have b2 := off.isLt
  obtain ⟨hw0, ea, eb, ec, ei⟩ := decode_L (maj := 0x2A) (d := d.val) (f3 := 0) (a := a.val) (b := 0)
    (c := 0) (imm := off.toNat) rfl (by omega) (by omega) (by omega) (by omega) (by omega) (by omega) (by omega)
  have f0 : off.toNat < 524288 := by omega
  have f1 : ¬524288 ≤ off.toNat := by omega
  rw [hw0, decodeL_2A, ea, eb, ec, ei]
  simp [decode2A, f0, f1, need, checked, hw]
theorem stp (d a : GIx) (off : BitVec 19) : Statement (.stp d a off) := by
  refine of_words rfl fun hw => ?_
  have b0 := d.isLt
  have b1 := a.isLt
  have b2 := off.isLt
  obtain ⟨hw0, ea, eb, ec, ei⟩ := decode_L (maj := 0x2A) (d := d.val) (f3 := 1) (a := a.val) (b := 0)
    (c := 0) (imm := off.toNat) rfl (by omega) (by omega) (by omega) (by omega) (by omega) (by omega) (by omega)
  have f0 : off.toNat < 524288 := by omega
  have f1 : ¬524288 ≤ off.toNat := by omega
  rw [hw0, decodeL_2A, ea, eb, ec, ei]
  simp [decode2A, f0, f1, need, checked, hw]
theorem feset (full : Bool) (a : GIx) (off : BitVec 19) : Statement (.feset full a off) := by
  refine of_words rfl fun hw => ?_
  have b0 := boolNat_lt full
  have b1 := a.isLt
  have b2 := off.isLt
  obtain ⟨hw0, ea, eb, ec, ei⟩ := decode_L (maj := 0x2A) (d := (boolNat full)) (f3 := 2) (a := a.val) (b := 0)
    (c := 0) (imm := off.toNat) rfl (by omega) (by omega) (by omega) (by omega) (by omega) (by omega) (by omega)
  have f0 : off.toNat < 524288 := by omega
  have f1 : ¬524288 ≤ off.toNat := by omega
  have f2 : (boolNat full) < 2 := by omega
  have f3 : ¬2 ≤ (boolNat full) := by omega
  rw [hw0, decodeL_2A, ea, eb, ec, ei]
  cases full <;> simp [decode2A, f0, f1, f2, f3, need, checked, hw, boolNat]
theorem fsig (a b : GIx) (off : BitVec 19) : Statement (.fsig a b off) := by
  refine of_words rfl fun hw => ?_
  have b0 := a.isLt
  have b1 := b.isLt
  have b2 := off.isLt
  obtain ⟨hw0, ea, eb, ec, ei⟩ := decode_L (maj := 0x2B) (d := 0) (f3 := 0) (a := a.val) (b := b.val)
    (c := 0) (imm := off.toNat) rfl (by omega) (by omega) (by omega) (by omega) (by omega) (by omega) (by omega)
  have f0 : off.toNat < 524288 := by omega
  have f1 : ¬524288 ≤ off.toNat := by omega
  rw [hw0, decodeL_2B, ea, eb, ec, ei]
  simp [decode2B, f0, f1, need, checked, hw]
theorem fwait (d a : GIx) (en eq : BitVec 4) : Statement (.fwait d a en eq) := by
  refine of_words rfl fun hw => ?_
  have b0 := d.isLt
  have b1 := a.isLt
  have b2 := en.isLt
  have b3 := eq.isLt
  obtain ⟨hw0, ea, eb, ec, ei⟩ := decode_L (maj := 0x2B) (d := d.val) (f3 := 1) (a := a.val) (b := 0)
    (c := 0) (imm := (eq.toNat * 16 + en.toNat)) rfl (by omega) (by omega) (by omega) (by omega) (by omega) (by omega) (by omega)
  have f0 : (eq.toNat * 16 + en.toNat) / 16 = eq.toNat := by omega
  have f1 : (eq.toNat * 16 + en.toNat) % 16 = en.toNat := by omega
  have f3 : eq.toNat * 16 + en.toNat < 524288 := by omega
  have f4 : ¬524288 ≤ eq.toNat * 16 + en.toNat := by omega
  have f5 : eq.toNat * 16 + en.toNat < 256 := by omega
  have f6 : ¬256 ≤ eq.toNat * 16 + en.toNat := by omega
  have g0 : BitVec.ofNat 4 (eq.toNat * 16 + en.toNat) = en := bvLow en (eq.toNat) 16 rfl
  rw [hw0, decodeL_2B, ea, eb, ec, ei]
  exact fwait_core _ _ _ _ hw f0 f1 g0 f3 f4 f5 f6
theorem wfw : Statement (.wfw) := by
  refine of_words rfl fun hw => ?_
  rw [decode_0 rfl (by omega) (by omega) (by omega)]
  simp [decodeNone, need]
theorem tspawn (a b : GIx) (clusterRing : Bool) : Statement (.tspawn a b clusterRing) := by
  refine of_words rfl fun hw => ?_
  have b0 := a.isLt
  have b1 := b.isLt
  have b2 := boolNat_lt clusterRing
  obtain ⟨hw0, ea, eb, ec, ei⟩ := decode_L (maj := 0x2D) (d := 0) (f3 := 0) (a := a.val) (b := b.val)
    (c := 0) (imm := (boolNat clusterRing)) rfl (by omega) (by omega) (by omega) (by omega) (by omega) (by omega) (by omega)
  have f0 : boolNat clusterRing < 2 := by omega
  have f1 : ¬2 ≤ boolNat clusterRing := by omega
  rw [hw0, decodeL_2D, ea, eb, ec, ei]
  cases clusterRing <;> simp [decode2D, f0, f1, need, checked, hw, boolNat]
theorem tdec (a : GIx) : Statement (.tdec a) := by
  refine of_words rfl fun hw => ?_
  have b0 := a.isLt
  obtain ⟨hw0, ea, eb, ec, ei⟩ := decode_L (maj := 0x2D) (d := 0) (f3 := 1) (a := a.val) (b := 0)
    (c := 0) (imm := 0) rfl (by omega) (by omega) (by omega) (by omega) (by omega) (by omega) (by omega)
  rw [hw0, decodeL_2D, ea, eb, ec, ei]
  simp [decode2D, need, checked, hw]
theorem tcancel (d a : GIx) : Statement (.tcancel d a) := by
  refine of_words rfl fun hw => ?_
  have b0 := d.isLt
  have b1 := a.isLt
  obtain ⟨hw0, ea, eb, ec, ei⟩ := decode_L (maj := 0x2D) (d := d.val) (f3 := 2) (a := a.val) (b := 0)
    (c := 0) (imm := 0) rfl (by omega) (by omega) (by omega) (by omega) (by omega) (by omega) (by omega)
  rw [hw0, decodeL_2D, ea, eb, ec, ei]
  simp [decode2D, need, checked, hw]
theorem gcset (n : Fin 8) (a b c : GIx) : Statement (.gcset n a b c) := by
  refine of_words rfl fun hw => ?_
  have b0 := n.isLt
  have b1 := a.isLt
  have b2 := b.isLt
  have b3 := c.isLt
  obtain ⟨hw0, ea, eb, ec, ei⟩ := decode_L (maj := 0x2E) (d := 0) (f3 := 0) (a := a.val) (b := b.val)
    (c := c.val) (imm := n.val) rfl (by omega) (by omega) (by omega) (by omega) (by omega) (by omega) (by omega)
  have f0 : n.val < 8 := by omega
  have f1 : ¬8 ≤ n.val := by omega
  rw [hw0, decodeL_2E, ea, eb, ec, ei]
  simp [decode2E, f0, f1, need, checked, hw]
theorem gchunk (n : Fin 8) (d : GIx) : Statement (.gchunk n d) := by
  refine of_words rfl fun hw => ?_
  have b0 := n.isLt
  have b1 := d.isLt
  obtain ⟨hw0, ea, eb, ec, ei⟩ := decode_L (maj := 0x2E) (d := d.val) (f3 := 1) (a := 0) (b := 0)
    (c := 0) (imm := n.val) rfl (by omega) (by omega) (by omega) (by omega) (by omega) (by omega) (by omega)
  have f0 : n.val < 8 := by omega
  have f1 : ¬8 ≤ n.val := by omega
  rw [hw0, decodeL_2E, ea, eb, ec, ei]
  simp [decode2E, f0, f1, need, checked, hw]
theorem bar (a : GIx) (id : Fin 32) : Statement (.bar a id) := by
  refine of_words rfl fun hw => ?_
  have b0 := a.isLt
  have b1 := id.isLt
  obtain ⟨hw0, ea, eb, e8⟩ := decode_S (maj := 0x2F) (d := 0) (f3 := 0) (a := a.val) (b := 0)
    (f8 := id.val) rfl (by omega) (by omega) (by omega) (by omega) (by omega) (by omega)
  have f0 : id.val < 64 := by omega
  have f1 : ¬64 ≤ id.val := by omega
  have f2 : id.val < 32 := by omega
  have f3 : ¬32 ≤ id.val := by omega
  rw [hw0, decodeS_2F, ea, eb, e8]
  simp [decode2F, f0, f1, f2, f3, need, checked, hw]
theorem pbara (id : Fin 64) : Statement (.pbara id) := by
  refine of_words rfl fun hw => ?_
  have b0 := id.isLt
  obtain ⟨hw0, ea, eb, e8⟩ := decode_S (maj := 0x2F) (d := 0) (f3 := 1) (a := 0) (b := 0)
    (f8 := id.val) rfl (by omega) (by omega) (by omega) (by omega) (by omega) (by omega)
  have f0 : id.val < 64 := by omega
  have f1 : ¬64 ≤ id.val := by omega
  rw [hw0, decodeS_2F, ea, eb, e8]
  simp [decode2F, f0, f1, need, checked, hw]
theorem pbarw (d : GIx) (id : Fin 64) : Statement (.pbarw d id) := by
  refine of_words rfl fun hw => ?_
  have b0 := d.isLt
  have b1 := id.isLt
  obtain ⟨hw0, ea, eb, e8⟩ := decode_S (maj := 0x2F) (d := d.val) (f3 := 2) (a := 0) (b := 0)
    (f8 := id.val) rfl (by omega) (by omega) (by omega) (by omega) (by omega) (by omega)
  have f0 : id.val < 64 := by omega
  have f1 : ¬64 ≤ id.val := by omega
  rw [hw0, decodeS_2F, ea, eb, e8]
  simp [decode2F, f0, f1, need, checked, hw]
theorem pbar (d : GIx) (id : Fin 64) : Statement (.pbar d id) := by
  refine of_words rfl fun hw => ?_
  have b0 := d.isLt
  have b1 := id.isLt
  obtain ⟨hw0, ea, eb, e8⟩ := decode_S (maj := 0x2F) (d := d.val) (f3 := 3) (a := 0) (b := 0)
    (f8 := id.val) rfl (by omega) (by omega) (by omega) (by omega) (by omega) (by omega)
  have f0 : id.val < 64 := by omega
  have f1 : ¬64 ≤ id.val := by omega
  rw [hw0, decodeS_2F, ea, eb, e8]
  simp [decode2F, f0, f1, need, checked, hw]
theorem scrub (a : GIx) (off : BitVec 19) : Statement (.scrub a off) := by
  refine of_words rfl fun hw => ?_
  have b0 := a.isLt
  have b1 := off.isLt
  obtain ⟨hw0, ea, eb, ec, ei⟩ := decode_L (maj := 0x30) (d := 0) (f3 := 0) (a := a.val) (b := 0)
    (c := 0) (imm := off.toNat) rfl (by omega) (by omega) (by omega) (by omega) (by omega) (by omega) (by omega)
  have f0 : off.toNat < 524288 := by omega
  have f1 : ¬524288 ≤ off.toNat := by omega
  rw [hw0, decodeL_30, ea, eb, ec, ei]
  simp [decode30, f0, f1, need, checked, hw]
theorem poison (a : GIx) (off : BitVec 19) : Statement (.poison a off) := by
  refine of_words rfl fun hw => ?_
  have b0 := a.isLt
  have b1 := off.isLt
  obtain ⟨hw0, ea, eb, ec, ei⟩ := decode_L (maj := 0x30) (d := 0) (f3 := 1) (a := a.val) (b := 0)
    (c := 0) (imm := off.toNat) rfl (by omega) (by omega) (by omega) (by omega) (by omega) (by omega) (by omega)
  have f0 : off.toNat < 524288 := by omega
  have f1 : ¬524288 ≤ off.toNat := by omega
  rw [hw0, decodeL_30, ea, eb, ec, ei]
  simp [decode30, f0, f1, need, checked, hw]
theorem flogrd (d : GIx) (e : Fin 8) (w : Fin 4) : Statement (.flogrd d e w) := by
  refine of_words rfl fun hw => ?_
  have b0 := d.isLt
  have b1 := e.isLt
  have b2 := w.isLt
  obtain ⟨hw0, ea, eb, ec, ei⟩ := decode_L (maj := 0x30) (d := d.val) (f3 := 2) (a := 0) (b := 0)
    (c := 0) (imm := (w.val * 8 + e.val)) rfl (by omega) (by omega) (by omega) (by omega) (by omega) (by omega) (by omega)
  have f0 : (w.val * 8 + e.val) / 8 = w.val := by omega
  have f1 : (w.val * 8 + e.val) % 8 = e.val := by omega
  have f3 : w.val * 8 + e.val < 32 := by omega
  have f4 : ¬32 ≤ w.val * 8 + e.val := by omega
  have f5 : w.val * 8 + e.val < 524288 := by omega
  have f6 : ¬524288 ≤ w.val * 8 + e.val := by omega
  have f7 : w.val * 8 + e.val < 256 := by omega
  have f8 : ¬256 ≤ w.val * 8 + e.val := by omega
  have g0 : Fin.ofNat 8 (w.val * 8 + e.val) = e := finLow e w.val
  rw [hw0, decodeL_30, ea, eb, ec, ei]
  exact flogrd_core _ _ _ hw f0 f1 g0 f3 f4 f5 f6 f7 f8
theorem flogclr (mask : BitVec 8) : Statement (.flogclr mask) := by
  refine of_words rfl fun hw => ?_
  have b0 := mask.isLt
  obtain ⟨hw0, ea, eb, ec, ei⟩ := decode_L (maj := 0x30) (d := 0) (f3 := 3) (a := 0) (b := 0)
    (c := 0) (imm := mask.toNat) rfl (by omega) (by omega) (by omega) (by omega) (by omega) (by omega) (by omega)
  have f0 : mask.toNat < 524288 := by omega
  have f1 : ¬524288 ≤ mask.toNat := by omega
  have f2 : mask.toNat < 256 := by omega
  have f3 : ¬256 ≤ mask.toNat := by omega
  rw [hw0, decodeL_30, ea, eb, ec, ei]
  simp [decode30, f0, f1, f2, f3, need, checked, hw]
theorem fadd (rm : Rm) (d a b : GIx) : Statement (.fadd rm d a b) := by
  refine of_words rfl fun hw => ?_
  have b0 := rm.code_lt
  have b1 := d.isLt
  have b2 := a.isLt
  have b3 := b.isLt
  obtain ⟨hw0, ea, eb, ec, ei⟩ := decode_L (maj := 0x40) (d := d.val) (f3 := 0) (a := a.val) (b := b.val)
    (c := 0) (imm := rm.code) rfl (by omega) (by omega) (by omega) (by omega) (by omega) (by omega) (by omega)
  have f0 : rm.code < 8 := by omega
  have f1 : ¬8 ≤ rm.code := by omega
  rw [hw0, decodeL_40, ea, eb, ec, ei]
  simp [decode40, f0, f1, need, checked, hw]
theorem fsub (rm : Rm) (d a b : GIx) : Statement (.fsub rm d a b) := by
  refine of_words rfl fun hw => ?_
  have b0 := rm.code_lt
  have b1 := d.isLt
  have b2 := a.isLt
  have b3 := b.isLt
  obtain ⟨hw0, ea, eb, ec, ei⟩ := decode_L (maj := 0x40) (d := d.val) (f3 := 1) (a := a.val) (b := b.val)
    (c := 0) (imm := rm.code) rfl (by omega) (by omega) (by omega) (by omega) (by omega) (by omega) (by omega)
  have f0 : rm.code < 8 := by omega
  have f1 : ¬8 ≤ rm.code := by omega
  rw [hw0, decodeL_40, ea, eb, ec, ei]
  simp [decode40, f0, f1, need, checked, hw]
theorem fmul (rm : Rm) (d a b : GIx) : Statement (.fmul rm d a b) := by
  refine of_words rfl fun hw => ?_
  have b0 := rm.code_lt
  have b1 := d.isLt
  have b2 := a.isLt
  have b3 := b.isLt
  obtain ⟨hw0, ea, eb, ec, ei⟩ := decode_L (maj := 0x40) (d := d.val) (f3 := 2) (a := a.val) (b := b.val)
    (c := 0) (imm := rm.code) rfl (by omega) (by omega) (by omega) (by omega) (by omega) (by omega) (by omega)
  have f0 : rm.code < 8 := by omega
  have f1 : ¬8 ≤ rm.code := by omega
  rw [hw0, decodeL_40, ea, eb, ec, ei]
  simp [decode40, f0, f1, need, checked, hw]
theorem ffma (rm : Rm) (d a b c : GIx) : Statement (.ffma rm d a b c) := by
  refine of_words rfl fun hw => ?_
  have b0 := rm.code_lt
  have b1 := d.isLt
  have b2 := a.isLt
  have b3 := b.isLt
  have b4 := c.isLt
  obtain ⟨hw0, ea, eb, ec, ei⟩ := decode_L (maj := 0x40) (d := d.val) (f3 := 3) (a := a.val) (b := b.val)
    (c := c.val) (imm := rm.code) rfl (by omega) (by omega) (by omega) (by omega) (by omega) (by omega) (by omega)
  have f0 : rm.code < 8 := by omega
  have f1 : ¬8 ≤ rm.code := by omega
  rw [hw0, decodeL_40, ea, eb, ec, ei]
  simp [decode40, f0, f1, need, checked, hw]
theorem fdiv (rm : Rm) (d a b : GIx) : Statement (.fdiv rm d a b) := by
  refine of_words rfl fun hw => ?_
  have b0 := rm.code_lt
  have b1 := d.isLt
  have b2 := a.isLt
  have b3 := b.isLt
  obtain ⟨hw0, ea, eb, ec, ei⟩ := decode_L (maj := 0x40) (d := d.val) (f3 := 4) (a := a.val) (b := b.val)
    (c := 0) (imm := rm.code) rfl (by omega) (by omega) (by omega) (by omega) (by omega) (by omega) (by omega)
  have f0 : rm.code < 8 := by omega
  have f1 : ¬8 ≤ rm.code := by omega
  rw [hw0, decodeL_40, ea, eb, ec, ei]
  simp [decode40, f0, f1, need, checked, hw]
theorem fsqrt (rm : Rm) (d a : GIx) : Statement (.fsqrt rm d a) := by
  refine of_words rfl fun hw => ?_
  have b0 := rm.code_lt
  have b1 := d.isLt
  have b2 := a.isLt
  obtain ⟨hw0, ea, eb, ec, ei⟩ := decode_L (maj := 0x40) (d := d.val) (f3 := 5) (a := a.val) (b := 0)
    (c := 0) (imm := rm.code) rfl (by omega) (by omega) (by omega) (by omega) (by omega) (by omega) (by omega)
  have f0 : rm.code < 8 := by omega
  have f1 : ¬8 ≤ rm.code := by omega
  rw [hw0, decodeL_40, ea, eb, ec, ei]
  simp [decode40, f0, f1, need, checked, hw]
theorem fmin (d a b : GIx) : Statement (.fmin d a b) := by
  refine of_words rfl fun hw => ?_
  have b0 := d.isLt
  have b1 := a.isLt
  have b2 := b.isLt
  obtain ⟨hw0, ea, eb, ec, ei⟩ := decode_L (maj := 0x40) (d := d.val) (f3 := 6) (a := a.val) (b := b.val)
    (c := 0) (imm := 0) rfl (by omega) (by omega) (by omega) (by omega) (by omega) (by omega) (by omega)
  rw [hw0, decodeL_40, ea, eb, ec, ei]
  simp [decode40, show Rm.ofCode 0 = some .rne from rfl, need, checked, hw]
theorem fmax (d a b : GIx) : Statement (.fmax d a b) := by
  refine of_words rfl fun hw => ?_
  have b0 := d.isLt
  have b1 := a.isLt
  have b2 := b.isLt
  obtain ⟨hw0, ea, eb, ec, ei⟩ := decode_L (maj := 0x40) (d := d.val) (f3 := 7) (a := a.val) (b := b.val)
    (c := 0) (imm := 0) rfl (by omega) (by omega) (by omega) (by omega) (by omega) (by omega) (by omega)
  rw [hw0, decodeL_40, ea, eb, ec, ei]
  simp [decode40, show Rm.ofCode 0 = some .rne from rfl, need, checked, hw]
theorem fabs (d a : GIx) : Statement (.fabs d a) := by
  refine of_words rfl fun hw => ?_
  have b0 := d.isLt
  have b1 := a.isLt
  obtain ⟨hw0, ea, eb, ec, ei⟩ := decode_L (maj := 0x41) (d := d.val) (f3 := 0) (a := a.val) (b := 0)
    (c := 0) (imm := 0) rfl (by omega) (by omega) (by omega) (by omega) (by omega) (by omega) (by omega)
  rw [hw0, decodeL_41, ea, eb, ec, ei]
  simp [decode41, need, checked, hw]
theorem fneg (d a : GIx) : Statement (.fneg d a) := by
  refine of_words rfl fun hw => ?_
  have b0 := d.isLt
  have b1 := a.isLt
  obtain ⟨hw0, ea, eb, ec, ei⟩ := decode_L (maj := 0x41) (d := d.val) (f3 := 1) (a := a.val) (b := 0)
    (c := 0) (imm := 0) rfl (by omega) (by omega) (by omega) (by omega) (by omega) (by omega) (by omega)
  rw [hw0, decodeL_41, ea, eb, ec, ei]
  simp [decode41, need, checked, hw]
theorem fcvt (src dst : ElemTy) (rm : Rm) (d a : GIx) : Statement (.fcvt src dst rm d a) := by
  refine of_words rfl fun hw => ?_
  have b0 := src.code_lt
  have b1 := dst.code_lt
  have b2 := rm.code_lt
  have b3 := d.isLt
  have b4 := a.isLt
  obtain ⟨hw0, ea, eb, ec, ei⟩ := decode_L (maj := 0x41) (d := d.val) (f3 := 2) (a := a.val) (b := 0)
    (c := 0) (imm := (dst.code * 256 + src.code * 16 + rm.code)) rfl (by omega) (by omega) (by omega) (by omega) (by omega) (by omega) (by omega)
  have f0 : (dst.code * 256 + src.code * 16 + rm.code) / 16 % 16 = src.code := by omega
  have f1 : (dst.code * 256 + src.code * 16 + rm.code) / 256 = dst.code := by omega
  have f2 : (dst.code * 256 + src.code * 16 + rm.code) % 8 = rm.code := by omega
  have f3 : (dst.code * 256 + src.code * 16 + rm.code) / 8 % 2 = 0 := by omega
  have f4 : ¬4096 ≤ dst.code * 256 + src.code * 16 + rm.code := by omega
  have f5 : dst.code * 256 + src.code * 16 + rm.code < 4096 := by omega
  rw [hw0, decodeL_41, ea, eb, ec, ei]
  exact fcvt_core _ _ _ _ _ hw f0 f1 f2 f3 f4 f5
theorem fclass (d a : GIx) : Statement (.fclass d a) := by
  refine of_words rfl fun hw => ?_
  have b0 := d.isLt
  have b1 := a.isLt
  obtain ⟨hw0, ea, eb, ec, ei⟩ := decode_L (maj := 0x41) (d := d.val) (f3 := 3) (a := a.val) (b := 0)
    (c := 0) (imm := 0) rfl (by omega) (by omega) (by omega) (by omega) (by omega) (by omega) (by omega)
  rw [hw0, decodeL_41, ea, eb, ec, ei]
  simp [decode41, need, checked, hw]
theorem fcmp (k : Fin 4) (c : FCond) (a b : GIx) : Statement (.fcmp k c a b) := by
  refine of_words rfl fun hw => ?_
  have b0 := k.isLt
  have b1 := c.code_lt
  have b2 := a.isLt
  have b3 := b.isLt
  obtain ⟨hw0, ea, eb, e8⟩ := decode_S (maj := 0x42) (d := k.val) (f3 := c.code) (a := a.val) (b := b.val)
    (f8 := 0) rfl (by omega) (by omega) (by omega) (by omega) (by omega) (by omega)
  have f0 : k.val < 4 := by omega
  have f1 : ¬4 ≤ k.val := by omega
  rw [hw0, decodeS_42, ea, eb, e8]
  simp [decode42, f0, f1, need, checked, hw]
theorem vadd (ty : ElemTy) (rm : Rm) (k : KIx) (d : VIx) (a b : GIx) : Statement (.vadd ty rm k d a b) := by
  refine of_words rfl fun hw => ?_
  have b0 := ty.code_lt
  have b1 := rm.code_lt
  have b2 := k.isLt
  have b3 := d.isLt
  have b4 := a.isLt
  have b5 := b.isLt
  obtain ⟨hv, hf⟩ := vFields_immV k ty rm (t := ty.code) (r := rm.code) (ty2 := 0) (fn := 0) rfl rfl
    (by omega) (by omega)
  obtain ⟨hw0, ea, eb, ec, ei⟩ := decode_L (maj := 0x44) (d := d.val) (f3 := 0) (a := a.val) (b := b.val)
    (c := 0) (imm := (immV k.val ty.code rm.code 0 0)) rfl (by omega) (by omega) (by omega) (by omega) (by omega) (by omega) hv
  have f0 : ¬4 ≤ k.val := by omega
  have f1 : ¬8 ≤ d.val := by omega
  have f2 : d.val < 8 := by omega
  rw [hw0, decodeL_44, ea, eb, ec, ei]
  exact vadd_core _ _ _ _ _ _ hw hf f0 f1 f2
theorem vsub (ty : ElemTy) (rm : Rm) (k : KIx) (d : VIx) (a b : GIx) : Statement (.vsub ty rm k d a b) := by
  refine of_words rfl fun hw => ?_
  have b0 := ty.code_lt
  have b1 := rm.code_lt
  have b2 := k.isLt
  have b3 := d.isLt
  have b4 := a.isLt
  have b5 := b.isLt
  obtain ⟨hv, hf⟩ := vFields_immV k ty rm (t := ty.code) (r := rm.code) (ty2 := 0) (fn := 0) rfl rfl
    (by omega) (by omega)
  obtain ⟨hw0, ea, eb, ec, ei⟩ := decode_L (maj := 0x44) (d := d.val) (f3 := 1) (a := a.val) (b := b.val)
    (c := 0) (imm := (immV k.val ty.code rm.code 0 0)) rfl (by omega) (by omega) (by omega) (by omega) (by omega) (by omega) hv
  have f0 : ¬4 ≤ k.val := by omega
  have f1 : ¬8 ≤ d.val := by omega
  have f2 : d.val < 8 := by omega
  rw [hw0, decodeL_44, ea, eb, ec, ei]
  exact vsub_core _ _ _ _ _ _ hw hf f0 f1 f2
theorem vmul (ty : ElemTy) (rm : Rm) (k : KIx) (d : VIx) (a b : GIx) : Statement (.vmul ty rm k d a b) := by
  refine of_words rfl fun hw => ?_
  have b0 := ty.code_lt
  have b1 := rm.code_lt
  have b2 := k.isLt
  have b3 := d.isLt
  have b4 := a.isLt
  have b5 := b.isLt
  obtain ⟨hv, hf⟩ := vFields_immV k ty rm (t := ty.code) (r := rm.code) (ty2 := 0) (fn := 0) rfl rfl
    (by omega) (by omega)
  obtain ⟨hw0, ea, eb, ec, ei⟩ := decode_L (maj := 0x44) (d := d.val) (f3 := 2) (a := a.val) (b := b.val)
    (c := 0) (imm := (immV k.val ty.code rm.code 0 0)) rfl (by omega) (by omega) (by omega) (by omega) (by omega) (by omega) hv
  have f0 : ¬4 ≤ k.val := by omega
  have f1 : ¬8 ≤ d.val := by omega
  have f2 : d.val < 8 := by omega
  rw [hw0, decodeL_44, ea, eb, ec, ei]
  exact vmul_core _ _ _ _ _ _ hw hf f0 f1 f2
theorem vfma (ty : ElemTy) (rm : Rm) (k : KIx) (d : VIx) (a b c : GIx) : Statement (.vfma ty rm k d a b c) := by
  refine of_words rfl fun hw => ?_
  have b0 := ty.code_lt
  have b1 := rm.code_lt
  have b2 := k.isLt
  have b3 := d.isLt
  have b4 := a.isLt
  have b5 := b.isLt
  have b6 := c.isLt
  obtain ⟨hv, hf⟩ := vFields_immV k ty rm (t := ty.code) (r := rm.code) (ty2 := 0) (fn := 0) rfl rfl
    (by omega) (by omega)
  obtain ⟨hw0, ea, eb, ec, ei⟩ := decode_L (maj := 0x44) (d := d.val) (f3 := 3) (a := a.val) (b := b.val)
    (c := c.val) (imm := (immV k.val ty.code rm.code 0 0)) rfl (by omega) (by omega) (by omega) (by omega) (by omega) (by omega) hv
  have f0 : ¬4 ≤ k.val := by omega
  have f1 : ¬8 ≤ d.val := by omega
  have f2 : d.val < 8 := by omega
  rw [hw0, decodeL_44, ea, eb, ec, ei]
  exact vfma_core _ _ _ _ _ _ _ hw hf f0 f1 f2
theorem vmin (ty : ElemTy) (k : KIx) (d : VIx) (a b : GIx) : Statement (.vmin ty k d a b) := by
  refine of_words rfl fun hw => ?_
  have b0 := ty.code_lt
  have b1 := k.isLt
  have b2 := d.isLt
  have b3 := a.isLt
  have b4 := b.isLt
  obtain ⟨hv, hf⟩ := vFields_immV k ty Rm.rne (t := ty.code) (r := 0) (ty2 := 0) (fn := 0) rfl rfl
    (by omega) (by omega)
  obtain ⟨hw0, ea, eb, ec, ei⟩ := decode_L (maj := 0x44) (d := d.val) (f3 := 4) (a := a.val) (b := b.val)
    (c := 0) (imm := (immV k.val ty.code 0 0 0)) rfl (by omega) (by omega) (by omega) (by omega) (by omega) (by omega) hv
  have f0 : ¬4 ≤ k.val := by omega
  have f1 : ¬8 ≤ d.val := by omega
  have f2 : d.val < 8 := by omega
  rw [hw0, decodeL_44, ea, eb, ec, ei]
  exact vmin_core _ _ _ _ _ hw hf f0 f1 f2
theorem vmax (ty : ElemTy) (k : KIx) (d : VIx) (a b : GIx) : Statement (.vmax ty k d a b) := by
  refine of_words rfl fun hw => ?_
  have b0 := ty.code_lt
  have b1 := k.isLt
  have b2 := d.isLt
  have b3 := a.isLt
  have b4 := b.isLt
  obtain ⟨hv, hf⟩ := vFields_immV k ty Rm.rne (t := ty.code) (r := 0) (ty2 := 0) (fn := 0) rfl rfl
    (by omega) (by omega)
  obtain ⟨hw0, ea, eb, ec, ei⟩ := decode_L (maj := 0x44) (d := d.val) (f3 := 5) (a := a.val) (b := b.val)
    (c := 0) (imm := (immV k.val ty.code 0 0 0)) rfl (by omega) (by omega) (by omega) (by omega) (by omega) (by omega) hv
  have f0 : ¬4 ≤ k.val := by omega
  have f1 : ¬8 ≤ d.val := by omega
  have f2 : d.val < 8 := by omega
  rw [hw0, decodeL_44, ea, eb, ec, ei]
  exact vmax_core _ _ _ _ _ hw hf f0 f1 f2
theorem vabs (ty : ElemTy) (k : KIx) (d : VIx) (a : GIx) : Statement (.vabs ty k d a) := by
  refine of_words rfl fun hw => ?_
  have b0 := ty.code_lt
  have b1 := k.isLt
  have b2 := d.isLt
  have b3 := a.isLt
  obtain ⟨hv, hf⟩ := vFields_immV k ty Rm.rne (t := ty.code) (r := 0) (ty2 := 0) (fn := 0) rfl rfl
    (by omega) (by omega)
  obtain ⟨hw0, ea, eb, ec, ei⟩ := decode_L (maj := 0x44) (d := d.val) (f3 := 6) (a := a.val) (b := 0)
    (c := 0) (imm := (immV k.val ty.code 0 0 0)) rfl (by omega) (by omega) (by omega) (by omega) (by omega) (by omega) hv
  have f0 : ¬4 ≤ k.val := by omega
  have f1 : ¬8 ≤ d.val := by omega
  have f2 : d.val < 8 := by omega
  rw [hw0, decodeL_44, ea, eb, ec, ei]
  exact vabs_core _ _ _ _ hw hf f0 f1 f2
theorem vneg (ty : ElemTy) (k : KIx) (d : VIx) (a : GIx) : Statement (.vneg ty k d a) := by
  refine of_words rfl fun hw => ?_
  have b0 := ty.code_lt
  have b1 := k.isLt
  have b2 := d.isLt
  have b3 := a.isLt
  obtain ⟨hv, hf⟩ := vFields_immV k ty Rm.rne (t := ty.code) (r := 0) (ty2 := 0) (fn := 0) rfl rfl
    (by omega) (by omega)
  obtain ⟨hw0, ea, eb, ec, ei⟩ := decode_L (maj := 0x44) (d := d.val) (f3 := 7) (a := a.val) (b := 0)
    (c := 0) (imm := (immV k.val ty.code 0 0 0)) rfl (by omega) (by omega) (by omega) (by omega) (by omega) (by omega) hv
  have f0 : ¬4 ≤ k.val := by omega
  have f1 : ¬8 ≤ d.val := by omega
  have f2 : d.val < 8 := by omega
  rw [hw0, decodeL_44, ea, eb, ec, ei]
  exact vneg_core _ _ _ _ hw hf f0 f1 f2
theorem vrcp (ty : ElemTy) (rm : Rm) (k : KIx) (d : VIx) (a : GIx) : Statement (.vrcp ty rm k d a) := by
  refine of_words rfl fun hw => ?_
  have b0 := ty.code_lt
  have b1 := rm.code_lt
  have b2 := k.isLt
  have b3 := d.isLt
  have b4 := a.isLt
  obtain ⟨hv, hf⟩ := vFields_immV k ty rm (t := ty.code) (r := rm.code) (ty2 := 0) (fn := 0) rfl rfl
    (by omega) (by omega)
  obtain ⟨hw0, ea, eb, ec, ei⟩ := decode_L (maj := 0x45) (d := d.val) (f3 := 0) (a := a.val) (b := 0)
    (c := 0) (imm := (immV k.val ty.code rm.code 0 0)) rfl (by omega) (by omega) (by omega) (by omega) (by omega) (by omega) hv
  have f0 : ¬4 ≤ k.val := by omega
  have f1 : ¬8 ≤ d.val := by omega
  have f2 : d.val < 8 := by omega
  rw [hw0, decodeL_45, ea, eb, ec, ei]
  exact vrcp_core _ _ _ _ _ hw hf f0 f1 f2
theorem vrsq (ty : ElemTy) (rm : Rm) (k : KIx) (d : VIx) (a : GIx) : Statement (.vrsq ty rm k d a) := by
  refine of_words rfl fun hw => ?_
  have b0 := ty.code_lt
  have b1 := rm.code_lt
  have b2 := k.isLt
  have b3 := d.isLt
  have b4 := a.isLt
  obtain ⟨hv, hf⟩ := vFields_immV k ty rm (t := ty.code) (r := rm.code) (ty2 := 0) (fn := 0) rfl rfl
    (by omega) (by omega)
  obtain ⟨hw0, ea, eb, ec, ei⟩ := decode_L (maj := 0x45) (d := d.val) (f3 := 1) (a := a.val) (b := 0)
    (c := 0) (imm := (immV k.val ty.code rm.code 0 0)) rfl (by omega) (by omega) (by omega) (by omega) (by omega) (by omega) hv
  have f0 : ¬4 ≤ k.val := by omega
  have f1 : ¬8 ≤ d.val := by omega
  have f2 : d.val < 8 := by omega
  rw [hw0, decodeL_45, ea, eb, ec, ei]
  exact vrsq_core _ _ _ _ _ hw hf f0 f1 f2
theorem vexp2 (ty : ElemTy) (rm : Rm) (k : KIx) (d : VIx) (a : GIx) : Statement (.vexp2 ty rm k d a) := by
  refine of_words rfl fun hw => ?_
  have b0 := ty.code_lt
  have b1 := rm.code_lt
  have b2 := k.isLt
  have b3 := d.isLt
  have b4 := a.isLt
  obtain ⟨hv, hf⟩ := vFields_immV k ty rm (t := ty.code) (r := rm.code) (ty2 := 0) (fn := 0) rfl rfl
    (by omega) (by omega)
  obtain ⟨hw0, ea, eb, ec, ei⟩ := decode_L (maj := 0x45) (d := d.val) (f3 := 2) (a := a.val) (b := 0)
    (c := 0) (imm := (immV k.val ty.code rm.code 0 0)) rfl (by omega) (by omega) (by omega) (by omega) (by omega) (by omega) hv
  have f0 : ¬4 ≤ k.val := by omega
  have f1 : ¬8 ≤ d.val := by omega
  have f2 : d.val < 8 := by omega
  rw [hw0, decodeL_45, ea, eb, ec, ei]
  exact vexp2_core _ _ _ _ _ hw hf f0 f1 f2
theorem vlog2 (ty : ElemTy) (rm : Rm) (k : KIx) (d : VIx) (a : GIx) : Statement (.vlog2 ty rm k d a) := by
  refine of_words rfl fun hw => ?_
  have b0 := ty.code_lt
  have b1 := rm.code_lt
  have b2 := k.isLt
  have b3 := d.isLt
  have b4 := a.isLt
  obtain ⟨hv, hf⟩ := vFields_immV k ty rm (t := ty.code) (r := rm.code) (ty2 := 0) (fn := 0) rfl rfl
    (by omega) (by omega)
  obtain ⟨hw0, ea, eb, ec, ei⟩ := decode_L (maj := 0x45) (d := d.val) (f3 := 3) (a := a.val) (b := 0)
    (c := 0) (imm := (immV k.val ty.code rm.code 0 0)) rfl (by omega) (by omega) (by omega) (by omega) (by omega) (by omega) hv
  have f0 : ¬4 ≤ k.val := by omega
  have f1 : ¬8 ≤ d.val := by omega
  have f2 : d.val < 8 := by omega
  rw [hw0, decodeL_45, ea, eb, ec, ei]
  exact vlog2_core _ _ _ _ _ hw hf f0 f1 f2
theorem vcvt (src dst : ElemTy) (rm : Rm) (k : KIx) (p : Fin 4) (d : VIx) (a : GIx) : Statement (.vcvt src dst rm k p d a) := by
  refine of_words rfl fun hw => ?_
  have b0 := src.code_lt
  have b1 := dst.code_lt
  have b2 := rm.code_lt
  have b3 := k.isLt
  have b4 := p.isLt
  have b5 := d.isLt
  have b6 := a.isLt
  obtain ⟨hv, hf⟩ := vFields_immV k src rm (t := src.code) (r := rm.code) (ty2 := dst.code) (fn := p.val) rfl rfl
    (by omega) (by omega)
  obtain ⟨hw0, ea, eb, ec, ei⟩ := decode_L (maj := 0x45) (d := d.val) (f3 := 4) (a := a.val) (b := 0)
    (c := 0) (imm := (immV k.val src.code rm.code dst.code p.val)) rfl (by omega) (by omega) (by omega) (by omega) (by omega) (by omega) hv
  have f0 : ¬4 ≤ k.val := by omega
  have f1 : ¬8 ≤ d.val := by omega
  have f2 : p.val < 12 := by omega
  have f3 : ¬12 ≤ p.val := by omega
  have f4 : p.val < 4 := by omega
  have f5 : ¬4 ≤ p.val := by omega
  have f6 : d.val < 8 := by omega
  rw [hw0, decodeL_45, ea, eb, ec, ei]
  exact vcvt_core _ _ _ _ _ _ _ hw hf f0 f1 f2 f3 f4 f5 f6
theorem vcvtMx (src dst : ElemTy) (rm : Rm) (p : Fin 4) (d : VIx) (a b : GIx) : Statement (.vcvtMx src dst rm p d a b) := by
  refine of_words rfl fun hw => ?_
  have b0 := src.code_lt
  have b1 := dst.code_lt
  have b2 := rm.code_lt
  have b3 := p.isLt
  have b4 := d.isLt
  have b5 := a.isLt
  have b6 := b.isLt
  obtain ⟨hv, hf⟩ := vFields_immV 0 src rm (t := src.code) (r := rm.code) (ty2 := dst.code) (fn := (8 + p.val)) rfl rfl
    (by omega) (by omega)
  obtain ⟨hw0, ea, eb, ec, ei⟩ := decode_L (maj := 0x45) (d := d.val) (f3 := 4) (a := a.val) (b := b.val)
    (c := 0) (imm := (immV 0 src.code rm.code dst.code (8 + p.val))) rfl (by omega) (by omega) (by omega) (by omega) (by omega) (by omega) hv
  have f0 : ¬8 ≤ d.val := by omega
  have f1 : 8 + p.val < 12 := by omega
  have f2 : ¬12 ≤ 8 + p.val := by omega
  have f3 : d.val < 8 := by omega
  rw [hw0, decodeL_45, ea, eb, ec, ei]
  exact vcvtMx_core _ _ _ _ _ _ _ hw hf f0 f1 f2 f3
theorem vdot (ty : ElemTy) (rm : Rm) (k : KIx) (d : VIx) (a b c : GIx) : Statement (.vdot ty rm k d a b c) := by
  refine of_words rfl fun hw => ?_
  have b0 := ty.code_lt
  have b1 := rm.code_lt
  have b2 := k.isLt
  have b3 := d.isLt
  have b4 := a.isLt
  have b5 := b.isLt
  have b6 := c.isLt
  have b9 : vdotTy2 ty < 2 := by simp only [vdotTy2]; split <;> omega
  obtain ⟨hv, hf⟩ := vFields_immV k ty rm (t := ty.code) (r := rm.code) (ty2 := (vdotTy2 ty)) (fn := 0) rfl rfl
    (by omega) (by omega)
  obtain ⟨hw0, ea, eb, ec, ei⟩ := decode_L (maj := 0x45) (d := d.val) (f3 := 5) (a := a.val) (b := b.val)
    (c := c.val) (imm := (immV k.val ty.code rm.code (vdotTy2 ty) 0)) rfl (by omega) (by omega) (by omega) (by omega) (by omega) (by omega) hv
  have f0 : ¬4 ≤ k.val := by omega
  have f1 : ¬8 ≤ d.val := by omega
  have f2 : d.val < 8 := by omega
  rw [hw0, decodeL_45, ea, eb, ec, ei]
  exact vdot_core _ _ _ _ _ _ _ hw hf f0 f1 f2
theorem vsum (ty : ElemTy) (rm : Rm) (k : KIx) (d : VIx) (a : GIx) : Statement (.vsum ty rm k d a) := by
  refine of_words rfl fun hw => ?_
  have b0 := ty.code_lt
  have b1 := rm.code_lt
  have b2 := k.isLt
  have b3 := d.isLt
  have b4 := a.isLt
  obtain ⟨hv, hf⟩ := vFields_immV k ty rm (t := ty.code) (r := rm.code) (ty2 := 0) (fn := 0) rfl rfl
    (by omega) (by omega)
  obtain ⟨hw0, ea, eb, ec, ei⟩ := decode_L (maj := 0x45) (d := d.val) (f3 := 6) (a := a.val) (b := 0)
    (c := 0) (imm := (immV k.val ty.code rm.code 0 0)) rfl (by omega) (by omega) (by omega) (by omega) (by omega) (by omega) hv
  have f0 : ¬4 ≤ k.val := by omega
  have f1 : ¬8 ≤ d.val := by omega
  have f2 : d.val < 8 := by omega
  rw [hw0, decodeL_45, ea, eb, ec, ei]
  exact vsum_core _ _ _ _ _ hw hf f0 f1 f2
theorem vrmax (ty : ElemTy) (k : KIx) (d : VIx) (a : GIx) : Statement (.vrmax ty k d a) := by
  refine of_words rfl fun hw => ?_
  have b0 := ty.code_lt
  have b1 := k.isLt
  have b2 := d.isLt
  have b3 := a.isLt
  obtain ⟨hv, hf⟩ := vFields_immV k ty Rm.rne (t := ty.code) (r := 0) (ty2 := 0) (fn := 0) rfl rfl
    (by omega) (by omega)
  obtain ⟨hw0, ea, eb, ec, ei⟩ := decode_L (maj := 0x45) (d := d.val) (f3 := 7) (a := a.val) (b := 0)
    (c := 0) (imm := (immV k.val ty.code 0 0 0)) rfl (by omega) (by omega) (by omega) (by omega) (by omega) (by omega) hv
  have f0 : ¬4 ≤ k.val := by omega
  have f1 : ¬8 ≤ d.val := by omega
  have f2 : d.val < 8 := by omega
  rw [hw0, decodeL_45, ea, eb, ec, ei]
  exact vrmax_core _ _ _ _ hw hf f0 f1 f2
theorem viadd (ty : ElemTy) (k : KIx) (d : VIx) (a b : GIx) : Statement (.viadd ty k d a b) := by
  refine of_words rfl fun hw => ?_
  have b0 := ty.code_lt
  have b1 := k.isLt
  have b2 := d.isLt
  have b3 := a.isLt
  have b4 := b.isLt
  obtain ⟨hv, hf⟩ := vFields_immV k ty Rm.rne (t := ty.code) (r := 0) (ty2 := 0) (fn := 0) rfl rfl
    (by omega) (by omega)
  obtain ⟨hw0, ea, eb, ec, ei⟩ := decode_L (maj := 0x46) (d := d.val) (f3 := 0) (a := a.val) (b := b.val)
    (c := 0) (imm := (immV k.val ty.code 0 0 0)) rfl (by omega) (by omega) (by omega) (by omega) (by omega) (by omega) hv
  have f0 : ¬4 ≤ k.val := by omega
  have f1 : ¬8 ≤ d.val := by omega
  have f2 : d.val < 8 := by omega
  rw [hw0, decodeL_46, ea, eb, ec, ei]
  exact viadd_core _ _ _ _ _ hw hf f0 f1 f2
theorem visub (ty : ElemTy) (k : KIx) (d : VIx) (a b : GIx) : Statement (.visub ty k d a b) := by
  refine of_words rfl fun hw => ?_
  have b0 := ty.code_lt
  have b1 := k.isLt
  have b2 := d.isLt
  have b3 := a.isLt
  have b4 := b.isLt
  obtain ⟨hv, hf⟩ := vFields_immV k ty Rm.rne (t := ty.code) (r := 0) (ty2 := 0) (fn := 0) rfl rfl
    (by omega) (by omega)
  obtain ⟨hw0, ea, eb, ec, ei⟩ := decode_L (maj := 0x46) (d := d.val) (f3 := 1) (a := a.val) (b := b.val)
    (c := 0) (imm := (immV k.val ty.code 0 0 0)) rfl (by omega) (by omega) (by omega) (by omega) (by omega) (by omega) hv
  have f0 : ¬4 ≤ k.val := by omega
  have f1 : ¬8 ≤ d.val := by omega
  have f2 : d.val < 8 := by omega
  rw [hw0, decodeL_46, ea, eb, ec, ei]
  exact visub_core _ _ _ _ _ hw hf f0 f1 f2
theorem vimul (ty : ElemTy) (k : KIx) (d : VIx) (a b : GIx) : Statement (.vimul ty k d a b) := by
  refine of_words rfl fun hw => ?_
  have b0 := ty.code_lt
  have b1 := k.isLt
  have b2 := d.isLt
  have b3 := a.isLt
  have b4 := b.isLt
  obtain ⟨hv, hf⟩ := vFields_immV k ty Rm.rne (t := ty.code) (r := 0) (ty2 := 0) (fn := 0) rfl rfl
    (by omega) (by omega)
  obtain ⟨hw0, ea, eb, ec, ei⟩ := decode_L (maj := 0x46) (d := d.val) (f3 := 2) (a := a.val) (b := b.val)
    (c := 0) (imm := (immV k.val ty.code 0 0 0)) rfl (by omega) (by omega) (by omega) (by omega) (by omega) (by omega) hv
  have f0 : ¬4 ≤ k.val := by omega
  have f1 : ¬8 ≤ d.val := by omega
  have f2 : d.val < 8 := by omega
  rw [hw0, decodeL_46, ea, eb, ec, ei]
  exact vimul_core _ _ _ _ _ hw hf f0 f1 f2
theorem vand (ty : ElemTy) (k : KIx) (d : VIx) (a b : GIx) : Statement (.vand ty k d a b) := by
  refine of_words rfl fun hw => ?_
  have b0 := ty.code_lt
  have b1 := k.isLt
  have b2 := d.isLt
  have b3 := a.isLt
  have b4 := b.isLt
  obtain ⟨hv, hf⟩ := vFields_immV k ty Rm.rne (t := ty.code) (r := 0) (ty2 := 0) (fn := 0) rfl rfl
    (by omega) (by omega)
  obtain ⟨hw0, ea, eb, ec, ei⟩ := decode_L (maj := 0x46) (d := d.val) (f3 := 3) (a := a.val) (b := b.val)
    (c := 0) (imm := (immV k.val ty.code 0 0 0)) rfl (by omega) (by omega) (by omega) (by omega) (by omega) (by omega) hv
  have f0 : ¬4 ≤ k.val := by omega
  have f1 : ¬8 ≤ d.val := by omega
  have f2 : d.val < 8 := by omega
  rw [hw0, decodeL_46, ea, eb, ec, ei]
  exact vand_core _ _ _ _ _ hw hf f0 f1 f2
theorem vor (ty : ElemTy) (k : KIx) (d : VIx) (a b : GIx) : Statement (.vor ty k d a b) := by
  refine of_words rfl fun hw => ?_
  have b0 := ty.code_lt
  have b1 := k.isLt
  have b2 := d.isLt
  have b3 := a.isLt
  have b4 := b.isLt
  obtain ⟨hv, hf⟩ := vFields_immV k ty Rm.rne (t := ty.code) (r := 0) (ty2 := 0) (fn := 0) rfl rfl
    (by omega) (by omega)
  obtain ⟨hw0, ea, eb, ec, ei⟩ := decode_L (maj := 0x46) (d := d.val) (f3 := 4) (a := a.val) (b := b.val)
    (c := 0) (imm := (immV k.val ty.code 0 0 0)) rfl (by omega) (by omega) (by omega) (by omega) (by omega) (by omega) hv
  have f0 : ¬4 ≤ k.val := by omega
  have f1 : ¬8 ≤ d.val := by omega
  have f2 : d.val < 8 := by omega
  rw [hw0, decodeL_46, ea, eb, ec, ei]
  exact vor_core _ _ _ _ _ hw hf f0 f1 f2
theorem vxor (ty : ElemTy) (k : KIx) (d : VIx) (a b : GIx) : Statement (.vxor ty k d a b) := by
  refine of_words rfl fun hw => ?_
  have b0 := ty.code_lt
  have b1 := k.isLt
  have b2 := d.isLt
  have b3 := a.isLt
  have b4 := b.isLt
  obtain ⟨hv, hf⟩ := vFields_immV k ty Rm.rne (t := ty.code) (r := 0) (ty2 := 0) (fn := 0) rfl rfl
    (by omega) (by omega)
  obtain ⟨hw0, ea, eb, ec, ei⟩ := decode_L (maj := 0x46) (d := d.val) (f3 := 5) (a := a.val) (b := b.val)
    (c := 0) (imm := (immV k.val ty.code 0 0 0)) rfl (by omega) (by omega) (by omega) (by omega) (by omega) (by omega) hv
  have f0 : ¬4 ≤ k.val := by omega
  have f1 : ¬8 ≤ d.val := by omega
  have f2 : d.val < 8 := by omega
  rw [hw0, decodeL_46, ea, eb, ec, ei]
  exact vxor_core _ _ _ _ _ hw hf f0 f1 f2
theorem vshl (ty : ElemTy) (k : KIx) (d : VIx) (a b : GIx) : Statement (.vshl ty k d a b) := by
  refine of_words rfl fun hw => ?_
  have b0 := ty.code_lt
  have b1 := k.isLt
  have b2 := d.isLt
  have b3 := a.isLt
  have b4 := b.isLt
  obtain ⟨hv, hf⟩ := vFields_immV k ty Rm.rne (t := ty.code) (r := 0) (ty2 := 0) (fn := 0) rfl rfl
    (by omega) (by omega)
  obtain ⟨hw0, ea, eb, ec, ei⟩ := decode_L (maj := 0x46) (d := d.val) (f3 := 6) (a := a.val) (b := b.val)
    (c := 0) (imm := (immV k.val ty.code 0 0 0)) rfl (by omega) (by omega) (by omega) (by omega) (by omega) (by omega) hv
  have f0 : ¬4 ≤ k.val := by omega
  have f1 : ¬8 ≤ d.val := by omega
  have f2 : d.val < 8 := by omega
  rw [hw0, decodeL_46, ea, eb, ec, ei]
  exact vshl_core _ _ _ _ _ hw hf f0 f1 f2
theorem vshr (ty : ElemTy) (k : KIx) (d : VIx) (a b : GIx) : Statement (.vshr ty k d a b) := by
  refine of_words rfl fun hw => ?_
  have b0 := ty.code_lt
  have b1 := k.isLt
  have b2 := d.isLt
  have b3 := a.isLt
  have b4 := b.isLt
  obtain ⟨hv, hf⟩ := vFields_immV k ty Rm.rne (t := ty.code) (r := 0) (ty2 := 0) (fn := 0) rfl rfl
    (by omega) (by omega)
  obtain ⟨hw0, ea, eb, ec, ei⟩ := decode_L (maj := 0x46) (d := d.val) (f3 := 7) (a := a.val) (b := b.val)
    (c := 0) (imm := (immV k.val ty.code 0 0 0)) rfl (by omega) (by omega) (by omega) (by omega) (by omega) (by omega) hv
  have f0 : ¬4 ≤ k.val := by omega
  have f1 : ¬8 ≤ d.val := by omega
  have f2 : d.val < 8 := by omega
  rw [hw0, decodeL_46, ea, eb, ec, ei]
  exact vshr_core _ _ _ _ _ hw hf f0 f1 f2
theorem vsra (ty : ElemTy) (k : KIx) (d : VIx) (a b : GIx) : Statement (.vsra ty k d a b) := by
  refine of_words rfl fun hw => ?_
  have b0 := ty.code_lt
  have b1 := k.isLt
  have b2 := d.isLt
  have b3 := a.isLt
  have b4 := b.isLt
  obtain ⟨hv, hf⟩ := vFields_immV k ty Rm.rne (t := ty.code) (r := 0) (ty2 := 0) (fn := 0) rfl rfl
    (by omega) (by omega)
  obtain ⟨hw0, ea, eb, ec, ei⟩ := decode_L (maj := 0x47) (d := d.val) (f3 := 0) (a := a.val) (b := b.val)
    (c := 0) (imm := (immV k.val ty.code 0 0 0)) rfl (by omega) (by omega) (by omega) (by omega) (by omega) (by omega) hv
  have f0 : ¬4 ≤ k.val := by omega
  have f1 : ¬8 ≤ d.val := by omega
  have f2 : d.val < 8 := by omega
  rw [hw0, decodeL_47, ea, eb, ec, ei]
  exact vsra_core _ _ _ _ _ hw hf f0 f1 f2
theorem vcmp (c : Cond) (ty : ElemTy) (s : Fin 4) (k : KIx) (d : KIx) (a b : GIx) : Statement (.vcmp c ty s k d a b) := by
  refine of_words rfl fun hw => ?_
  have b0 := c.code_lt
  have b1 := ty.code_lt
  have b2 := s.isLt
  have b3 := k.isLt
  have b4 := d.isLt
  have b5 := a.isLt
  have b6 := b.isLt
  obtain ⟨hv, hf⟩ := vFields_immV k ty Rm.rne (t := ty.code) (r := 0) (ty2 := 0) (fn := (s.val * 8 + c.code)) rfl rfl
    (by omega) (by omega)
  obtain ⟨hw0, ea, eb, ec, ei⟩ := decode_L (maj := 0x48) (d := d.val) (f3 := 0) (a := a.val) (b := b.val)
    (c := 0) (imm := (immV k.val ty.code 0 0 (s.val * 8 + c.code))) rfl (by omega) (by omega) (by omega) (by omega) (by omega) (by omega) hv
  have f0 : ¬4 ≤ k.val := by omega
  have f1 : ¬4 ≤ d.val := by omega
  have f2 : (s.val * 8 + c.code) / 8 = s.val := by omega
  have f3 : (s.val * 8 + c.code) % 8 = c.code := by omega
  have f4 : s.val * 8 + c.code < 64 := by omega
  have f5 : ¬64 ≤ s.val * 8 + c.code := by omega
  have f6 : s.val * 8 + c.code < 32 := by omega
  have f7 : ¬32 ≤ s.val * 8 + c.code := by omega
  have f8 : d.val < 8 := by omega
  have f9 : ¬8 ≤ d.val := by omega
  have f10 : d.val < 4 := by omega
  rw [hw0, decodeL_48, ea, eb, ec, ei]
  exact vcmp_core _ _ _ _ _ _ _ hw hf f0 f1 f2 f3 f4 f5 f6 f7 f8 f9 f10
theorem vsel (k : KIx) (d : VIx) (a b : GIx) : Statement (.vsel k d a b) := by
  refine of_words rfl fun hw => ?_
  have b0 := k.isLt
  have b1 := d.isLt
  have b2 := a.isLt
  have b3 := b.isLt
  obtain ⟨hv, hf⟩ := vFields_immV k ElemTy.f32 Rm.rne (t := 0) (r := 0) (ty2 := 0) (fn := 0) rfl rfl
    (by omega) (by omega)
  obtain ⟨hw0, ea, eb, ec, ei⟩ := decode_L (maj := 0x48) (d := d.val) (f3 := 1) (a := a.val) (b := b.val)
    (c := 0) (imm := (immV k.val 0 0 0 0)) rfl (by omega) (by omega) (by omega) (by omega) (by omega) (by omega) hv
  have f0 : ¬4 ≤ k.val := by omega
  have f1 : ¬8 ≤ d.val := by omega
  have f2 : d.val < 8 := by omega
  rw [hw0, decodeL_48, ea, eb, ec, ei]
  exact vsel_core _ _ _ _ hw hf f0 f1 f2
theorem vperm (ty : ElemTy) (k : KIx) (d : VIx) (a b : GIx) : Statement (.vperm ty k d a b) := by
  refine of_words rfl fun hw => ?_
  have b0 := ty.code_lt
  have b1 := k.isLt
  have b2 := d.isLt
  have b3 := a.isLt
  have b4 := b.isLt
  obtain ⟨hv, hf⟩ := vFields_immV k ty Rm.rne (t := ty.code) (r := 0) (ty2 := 0) (fn := 0) rfl rfl
    (by omega) (by omega)
  obtain ⟨hw0, ea, eb, ec, ei⟩ := decode_L (maj := 0x48) (d := d.val) (f3 := 2) (a := a.val) (b := b.val)
    (c := 0) (imm := (immV k.val ty.code 0 0 0)) rfl (by omega) (by omega) (by omega) (by omega) (by omega) (by omega) hv
  have f0 : ¬4 ≤ k.val := by omega
  have f1 : ¬8 ≤ d.val := by omega
  have f2 : d.val < 8 := by omega
  rw [hw0, decodeL_48, ea, eb, ec, ei]
  exact vperm_core _ _ _ _ _ hw hf f0 f1 f2
theorem vmovg (ty : ElemTy) (e : Fin 64) (d a : GIx) : Statement (.vmovg ty e d a) := by
  refine of_words rfl fun hw => ?_
  have b0 := ty.code_lt
  have b1 := e.isLt
  have b2 := d.isLt
  have b3 := a.isLt
  obtain ⟨hv, hf⟩ := vFields_immV 0 ty Rm.rne (t := ty.code) (r := 0) (ty2 := 0) (fn := e.val) rfl rfl
    (by omega) (by omega)
  obtain ⟨hw0, ea, eb, ec, ei⟩ := decode_L (maj := 0x48) (d := d.val) (f3 := 3) (a := a.val) (b := 0)
    (c := 0) (imm := (immV 0 ty.code 0 0 e.val)) rfl (by omega) (by omega) (by omega) (by omega) (by omega) (by omega) hv
  have f0 : e.val < 64 := by omega
  have f1 : ¬64 ≤ e.val := by omega
  rw [hw0, decodeL_48, ea, eb, ec, ei]
  exact vmovg_core _ _ _ _ hw hf f0 f1
theorem vmovl (ty : ElemTy) (e : Fin 64) (d : VIx) (a : GIx) : Statement (.vmovl ty e d a) := by
  refine of_words rfl fun hw => ?_
  have b0 := ty.code_lt
  have b1 := e.isLt
  have b2 := d.isLt
  have b3 := a.isLt
  obtain ⟨hv, hf⟩ := vFields_immV 0 ty Rm.rne (t := ty.code) (r := 0) (ty2 := 0) (fn := e.val) rfl rfl
    (by omega) (by omega)
  obtain ⟨hw0, ea, eb, ec, ei⟩ := decode_L (maj := 0x48) (d := d.val) (f3 := 4) (a := a.val) (b := 0)
    (c := 0) (imm := (immV 0 ty.code 0 0 e.val)) rfl (by omega) (by omega) (by omega) (by omega) (by omega) (by omega) hv
  have f0 : ¬8 ≤ d.val := by omega
  have f1 : e.val < 64 := by omega
  have f2 : ¬64 ≤ e.val := by omega
  have f3 : d.val < 8 := by omega
  rw [hw0, decodeL_48, ea, eb, ec, ei]
  exact vmovl_core _ _ _ _ hw hf f0 f1 f2 f3
theorem vbcast (ty : ElemTy) (e : Fin 64) (k : KIx) (d : VIx) (a : GIx) : Statement (.vbcast ty e k d a) := by
  refine of_words rfl fun hw => ?_
  have b0 := ty.code_lt
  have b1 := e.isLt
  have b2 := k.isLt
  have b3 := d.isLt
  have b4 := a.isLt
  obtain ⟨hv, hf⟩ := vFields_immV k ty Rm.rne (t := ty.code) (r := 0) (ty2 := 0) (fn := e.val) rfl rfl
    (by omega) (by omega)
  obtain ⟨hw0, ea, eb, ec, ei⟩ := decode_L (maj := 0x48) (d := d.val) (f3 := 5) (a := a.val) (b := 0)
    (c := 0) (imm := (immV k.val ty.code 0 0 e.val)) rfl (by omega) (by omega) (by omega) (by omega) (by omega) (by omega) hv
  have f0 : ¬4 ≤ k.val := by omega
  have f1 : ¬8 ≤ d.val := by omega
  have f2 : e.val < 64 := by omega
  have f3 : ¬64 ≤ e.val := by omega
  have f4 : d.val < 8 := by omega
  rw [hw0, decodeL_48, ea, eb, ec, ei]
  exact vbcast_core _ _ _ _ _ hw hf f0 f1 f2 f3 f4
theorem kand (d a b : KIx) : Statement (.kand d a b) := by
  refine of_words rfl fun hw => ?_
  have b0 := d.isLt
  have b1 := a.isLt
  have b2 := b.isLt
  obtain ⟨hw0, ea, eb, e8⟩ := decode_S (maj := 0x49) (d := d.val) (f3 := 0) (a := a.val) (b := b.val)
    (f8 := 0) rfl (by omega) (by omega) (by omega) (by omega) (by omega) (by omega)
  have f0 : ¬4 ≤ d.val := by omega
  have f1 : ¬4 ≤ a.val := by omega
  have f2 : ¬4 ≤ b.val := by omega
  have f3 : d.val < 4 := by omega
  have f4 : a.val < 4 := by omega
  have f5 : b.val < 4 := by omega
  rw [hw0, decodeS_49, ea, eb, e8]
  simp [decode49, f0, f1, f2, f3, f4, f5, need, checked, hw]
theorem kor (d a b : KIx) : Statement (.kor d a b) := by
  refine of_words rfl fun hw => ?_
  have b0 := d.isLt
  have b1 := a.isLt
  have b2 := b.isLt
  obtain ⟨hw0, ea, eb, e8⟩ := decode_S (maj := 0x49) (d := d.val) (f3 := 1) (a := a.val) (b := b.val)
    (f8 := 0) rfl (by omega) (by omega) (by omega) (by omega) (by omega) (by omega)
  have f0 : ¬4 ≤ d.val := by omega
  have f1 : ¬4 ≤ a.val := by omega
  have f2 : ¬4 ≤ b.val := by omega
  have f3 : d.val < 4 := by omega
  have f4 : a.val < 4 := by omega
  have f5 : b.val < 4 := by omega
  rw [hw0, decodeS_49, ea, eb, e8]
  simp [decode49, f0, f1, f2, f3, f4, f5, need, checked, hw]
theorem knot (d a : KIx) : Statement (.knot d a) := by
  refine of_words rfl fun hw => ?_
  have b0 := d.isLt
  have b1 := a.isLt
  obtain ⟨hw0, ea, eb, e8⟩ := decode_S (maj := 0x49) (d := d.val) (f3 := 2) (a := a.val) (b := 0)
    (f8 := 0) rfl (by omega) (by omega) (by omega) (by omega) (by omega) (by omega)
  have f0 : ¬4 ≤ d.val := by omega
  have f1 : ¬4 ≤ a.val := by omega
  have f2 : d.val < 4 := by omega
  have f3 : a.val < 4 := by omega
  rw [hw0, decodeS_49, ea, eb, e8]
  simp [decode49, f0, f1, f2, f3, need, checked, hw]
theorem kpop (d : GIx) (a : KIx) : Statement (.kpop d a) := by
  refine of_words rfl fun hw => ?_
  have b0 := d.isLt
  have b1 := a.isLt
  obtain ⟨hw0, ea, eb, e8⟩ := decode_S (maj := 0x49) (d := d.val) (f3 := 3) (a := a.val) (b := 0)
    (f8 := 0) rfl (by omega) (by omega) (by omega) (by omega) (by omega) (by omega)
  have f0 : ¬4 ≤ a.val := by omega
  have f1 : a.val < 4 := by omega
  rw [hw0, decodeS_49, ea, eb, e8]
  simp [decode49, f0, f1, need, checked, hw]
theorem copy (d dst src shp wf wn sf : GIx) : Statement (.copy d dst src shp wf wn sf) := by
  refine of_words rfl fun hw => ?_
  have b0 := d.isLt
  have b1 := dst.isLt
  have b2 := src.isLt
  have b3 := shp.isLt
  have b4 := wf.isLt
  have b5 := wn.isLt
  have b6 := sf.isLt
  obtain ⟨lt, q0, q1, q2, q3, q4, q5, q6⟩ := copyTail_fields (src := src.val) (dst := dst.val) (shp := shp.val) (wf := wf.val) (wn := wn.val) (sf := sf.val) (low := 0)
    (by omega) (by omega) (by omega) (by omega) (by omega) (by omega) (by omega)
  rw [decode_X rfl (by omega) (by omega) (by omega) lt]
  simp [decodeX, decode60, q0, q1, q2, q3, q4, q5, q6, need, checked, hw]
theorem copyp (d dst src shp wf wn sf : GIx) : Statement (.copyp d dst src shp wf wn sf) := by
  refine of_words rfl fun hw => ?_
  have b0 := d.isLt
  have b1 := dst.isLt
  have b2 := src.isLt
  have b3 := shp.isLt
  have b4 := wf.isLt
  have b5 := wn.isLt
  have b6 := sf.isLt
  obtain ⟨lt, q0, q1, q2, q3, q4, q5, q6⟩ := copyTail_fields (src := src.val) (dst := dst.val) (shp := shp.val) (wf := wf.val) (wn := wn.val) (sf := sf.val) (low := 0)
    (by omega) (by omega) (by omega) (by omega) (by omega) (by omega) (by omega)
  rw [decode_X rfl (by omega) (by omega) (by omega) lt]
  simp [decodeX, decode60, q0, q1, q2, q3, q4, q5, q6, need, checked, hw]
theorem copym (d dst src shp wf wn sf : GIx) (mask : BitVec 8) : Statement (.copym d dst src shp wf wn sf mask) := by
  refine of_words rfl fun hw => ?_
  have b0 := d.isLt
  have b1 := dst.isLt
  have b2 := src.isLt
  have b3 := shp.isLt
  have b4 := wf.isLt
  have b5 := wn.isLt
  have b6 := sf.isLt
  have b7 := mask.isLt
  obtain ⟨lt, q0, q1, q2, q3, q4, q5, q6⟩ := copyTail_fields (src := src.val) (dst := dst.val) (shp := shp.val) (wf := wf.val) (wn := wn.val) (sf := sf.val) (low := (mask.toNat * 65536))
    (by omega) (by omega) (by omega) (by omega) (by omega) (by omega) (by omega)
  rw [decode_X rfl (by omega) (by omega) (by omega) lt]
  simp [decodeX, decode60, q0, q1, q2, q3, q4, q5, q6, need, checked, hw]
theorem copytTo (d src shp wf wn sf : GIx) (t : TIx) : Statement (.copytTo d src shp wf wn sf t) := by
  refine of_words rfl fun hw => ?_
  have b0 := d.isLt
  have b1 := src.isLt
  have b2 := shp.isLt
  have b3 := wf.isLt
  have b4 := wn.isLt
  have b5 := sf.isLt
  have b6 := t.isLt
  obtain ⟨lt, q0, q1, q2, q3, q4, q5, q6⟩ := copyTail_fields (src := src.val) (dst := 0) (shp := shp.val) (wf := wf.val) (wn := wn.val) (sf := sf.val) (low := t.val)
    (by omega) (by omega) (by omega) (by omega) (by omega) (by omega) (by omega)
  rw [decode_X rfl (by omega) (by omega) (by omega) lt]
  simp [decodeX, decode60, q0, q1, q2, q3, q4, q5, q6, need, checked, hw]
theorem copytFrom (d dst shp wf wn sf : GIx) (t : TIx) : Statement (.copytFrom d dst shp wf wn sf t) := by
  refine of_words rfl fun hw => ?_
  have b0 := d.isLt
  have b1 := dst.isLt
  have b2 := shp.isLt
  have b3 := wf.isLt
  have b4 := wn.isLt
  have b5 := sf.isLt
  have b6 := t.isLt
  obtain ⟨lt, q0, q1, q2, q3, q4, q5, q6⟩ := copyTail_fields (src := 0) (dst := dst.val) (shp := shp.val) (wf := wf.val) (wn := wn.val) (sf := sf.val) (low := (32 + t.val))
    (by omega) (by omega) (by omega) (by omega) (by omega) (by omega) (by omega)
  rw [decode_X rfl (by omega) (by omega) (by omega) lt]
  simp [decodeX, decode60, show ¬(32 + t.val < 32) by omega, show 32 + t.val < 64 by omega, q0, q1, q2, q3, q4, q5, q6, need, checked, hw]
theorem copys (d a : GIx) : Statement (.copys d a) := by
  refine of_words rfl fun hw => ?_
  have b0 := d.isLt
  have b1 := a.isLt
  obtain ⟨hw0, ea, eb, e8⟩ := decode_S (maj := 0x61) (d := d.val) (f3 := 0) (a := a.val) (b := 0)
    (f8 := 0) rfl (by omega) (by omega) (by omega) (by omega) (by omega) (by omega)
  rw [hw0, decodeS_61, ea, eb, e8]
  simp [decode61, need, checked, hw]
theorem copyk (d a : GIx) : Statement (.copyk d a) := by
  refine of_words rfl fun hw => ?_
  have b0 := d.isLt
  have b1 := a.isLt
  obtain ⟨hw0, ea, eb, e8⟩ := decode_S (maj := 0x61) (d := d.val) (f3 := 1) (a := a.val) (b := 0)
    (f8 := 0) rfl (by omega) (by omega) (by omega) (by omega) (by omega) (by omega)
  rw [hw0, decodeS_61, ea, eb, e8]
  simp [decode61, need, checked, hw]
theorem mma (ty : MTy) (t : TIx) (a b wf wn sf : GIx) (k : Fin 16) : Statement (.mma ty t a b wf wn sf k) := by
  refine of_words rfl fun hw => ?_
  have b0 := ty.code_lt
  have b1 := t.isLt
  have b2 := a.isLt
  have b3 := b.isLt
  have b4 := wf.isLt
  have b5 := wn.isLt
  have b6 := sf.isLt
  have b7 := k.isLt
  obtain ⟨lt, q0, q1, q2, q3, q4, q5, q6, q7⟩ := mmaTail_fields (t := t.val) (a := a.val) (b := b.val) (wf := wf.val) (wn := wn.val) (sf := sf.val) (k := k.val) (low := 0)
    (by omega) (by omega) (by omega) (by omega) (by omega) (by omega) (by omega) (by omega)
  rw [decode_X rfl (by omega) (by omega) (by omega) lt]
  have q0' : mmaTail t.val a.val b.val wf.val wn.val sf.val k.val 0 / 8796093022208 = t.val := q0
  simp [decodeX, decode64, q0', q1, q2, q3, q4, q5, q6, q7, need, checked, hw, -Fin.ofNat_eq_cast]
theorem mmas (ty : MTy) (n : SpN) (t : TIx) (a b md wf wn sf : GIx) (k : Fin 16) : Statement (.mmas ty n t a b md wf wn sf k) := by
  refine of_words rfl fun hw => ?_
  have b0 := ty.code_lt
  have b1 := n.code_lt
  have b2 := t.isLt
  have b3 := a.isLt
  have b4 := b.isLt
  have b5 := md.isLt
  have b6 := wf.isLt
  have b7 := wn.isLt
  have b8 := sf.isLt
  have b9 := k.isLt
  obtain ⟨lt, q0, q1, q2, q3, q4, q5, q6, q7⟩ := mmaTail_fields (t := t.val) (a := a.val) (b := b.val) (wf := wf.val) (wn := wn.val) (sf := sf.val) (k := k.val) (low := (n.code * 131072 + md.val * 8192))
    (by omega) (by omega) (by omega) (by omega) (by omega) (by omega) (by omega) (by omega)
  rw [decode_X rfl (by omega) (by omega) (by omega) lt]
  rw [show ∀ x, decodeX 0x65 0 ty.code x = decode65 0 ty.code x from fun _ => rfl]
  obtain ⟨c0, c1, c2⟩ := mmasLow q7 b1 b5
  exact mmas_core _ _ _ _ _ _ _ _ _ _ hw q0 q1 q2 q3 q4 q5 q6 c0 c1 c2
theorem tcfg (t : TIx) (a : GIx) : Statement (.tcfg t a) := by
  refine of_words rfl fun hw => ?_
  have b0 := t.isLt
  have b1 := a.isLt
  obtain ⟨hw0, ea, eb, ec, ei⟩ := decode_L (maj := 0x66) (d := 0) (f3 := 0) (a := a.val) (b := 0)
    (c := 0) (imm := t.val) rfl (by omega) (by omega) (by omega) (by omega) (by omega) (by omega) (by omega)
  have f0 : t.val < 32 := by omega
  have f1 : ¬32 ≤ t.val := by omega
  rw [hw0, decodeL_66, ea, eb, ec, ei]
  simp [decode66, f0, f1, need, checked, hw]
theorem tzero (t : TIx) (wf wn sf : GIx) : Statement (.tzero t wf wn sf) := by
  refine of_words rfl fun hw => ?_
  have b0 := t.isLt
  have b1 := wf.isLt
  have b2 := wn.isLt
  have b3 := sf.isLt
  obtain ⟨hw0, ea, eb, ec, ei⟩ := decode_L (maj := 0x66) (d := 0) (f3 := 1) (a := wf.val) (b := wn.val)
    (c := sf.val) (imm := t.val) rfl (by omega) (by omega) (by omega) (by omega) (by omega) (by omega) (by omega)
  have f0 : t.val < 32 := by omega
  have f1 : ¬32 ≤ t.val := by omega
  rw [hw0, decodeL_66, ea, eb, ec, ei]
  simp [decode66, f0, f1, need, checked, hw]
theorem tcvt (dty : ElemTy) (rm : Rm) (t : TIx) (dst wf wn sf : GIx) : Statement (.tcvt dty rm t dst wf wn sf) := by
  refine of_words rfl fun hw => ?_
  have b0 := dty.code_lt
  have b1 := rm.code_lt
  have b2 := t.isLt
  have b3 := dst.isLt
  have b4 := wf.isLt
  have b5 := wn.isLt
  have b6 := sf.isLt
  obtain ⟨lt, q0, q1, q2, q3, q4, q5, q6, q7⟩ := mmaTail_fields (t := t.val) (a := dst.val) (b := wf.val) (wf := wn.val) (wn := sf.val) (sf := dty.code) (k := (rm.code * 2)) (low := 0)
    (by omega) (by omega) (by omega) (by omega) (by omega) (by omega) (by omega) (by omega)
  rw [mmaTail_rm]
  rw [decode_X rfl (by omega) (by omega) (by omega) lt]
  rw [show ∀ x, decodeX 0x67 0 0 x = decode67 0 0 x from fun _ => rfl]
  obtain ⟨c0, c1⟩ := tcvtLow q6 q7 b1
  exact tcvt_core _ _ _ _ _ _ _ hw q0 q1 q2 q3 q4 q5 c0 c1
theorem tsclRow (t : TIx) (s b wf wn sf : GIx) : Statement (.tsclRow t s b wf wn sf) := by
  refine of_words rfl fun hw => ?_
  have b0 := t.isLt
  have b1 := s.isLt
  have b2 := b.isLt
  have b3 := wf.isLt
  have b4 := wn.isLt
  have b5 := sf.isLt
  obtain ⟨lt, q0, q1, q2, q3, q4, q5, q6, q7⟩ := mmaTail_fields (t := t.val) (a := s.val) (b := b.val) (wf := wf.val) (wn := wn.val) (sf := sf.val) (k := 0) (low := 0)
    (by omega) (by omega) (by omega) (by omega) (by omega) (by omega) (by omega) (by omega)
  rw [decode_X rfl (by omega) (by omega) (by omega) lt]
  rw [show ∀ x, decodeX 0x68 0 0 x = decode68 0 0 x from fun _ => rfl]
  obtain ⟨c0, c1⟩ := tsclLow (c := 0) q6 q7 (by omega)
  exact tsclRow_core _ _ _ _ _ _ hw q0 q1 q2 q3 q4 q5 c0 c1
theorem tsclCol (t : TIx) (s b wf wn sf : GIx) : Statement (.tsclCol t s b wf wn sf) := by
  refine of_words rfl fun hw => ?_
  have b0 := t.isLt
  have b1 := s.isLt
  have b2 := b.isLt
  have b3 := wf.isLt
  have b4 := wn.isLt
  have b5 := sf.isLt
  obtain ⟨lt, q0, q1, q2, q3, q4, q5, q6, q7⟩ := mmaTail_fields (t := t.val) (a := s.val) (b := b.val) (wf := wf.val) (wn := wn.val) (sf := sf.val) (k := 8) (low := 0)
    (by omega) (by omega) (by omega) (by omega) (by omega) (by omega) (by omega) (by omega)
  rw [show (4194304 : Nat) = 8 * 524288 from rfl, mmaTail_high]
  rw [decode_X rfl (by omega) (by omega) (by omega) lt]
  rw [show ∀ x, decodeX 0x68 0 0 x = decode68 0 0 x from fun _ => rfl]
  obtain ⟨c0, c1⟩ := tsclLow (c := 1) q6 q7 (by omega)
  exact tsclCol_core _ _ _ _ _ _ hw q0 q1 q2 q3 q4 q5 c0 c1
theorem eret : Statement (.eret) := by
  refine of_words rfl fun hw => ?_
  rw [decode_0 rfl (by omega) (by omega) (by omega)]
  simp [decodeNone, decode70, need]
theorem yield : Statement (.yield) := by
  refine of_words rfl fun hw => ?_
  rw [decode_0 rfl (by omega) (by omega) (by omega)]
  simp [decodeNone, decode70, need]
theorem halt : Statement (.halt) := by
  refine of_words rfl fun hw => ?_
  rw [decode_0 rfl (by omega) (by omega) (by omega)]
  simp [decodeNone, decode70, need]
theorem pdrain : Statement (.pdrain) := by
  refine of_words rfl fun hw => ?_
  rw [decode_0 rfl (by omega) (by omega) (by omega)]
  simp [decodeNone, decode70, need]
theorem rdcnt (d : GIx) : Statement (.rdcnt d) := by
  refine of_words rfl fun hw => ?_
  have b0 := d.isLt
  rw [decode_0 rfl (by omega) (by omega) (by omega)]
  simp [decodeNone, decode70, need]
theorem trap (code : BitVec 8) : Statement (.trap code) := by
  refine of_words rfl fun hw => ?_
  have b0 := code.isLt
  obtain ⟨hw0, ea, eb, e8⟩ := decode_S (maj := 0x71) (d := 0) (f3 := 0) (a := 0) (b := 0)
    (f8 := code.toNat) rfl (by omega) (by omega) (by omega) (by omega) (by omega) (by omega)
  rw [hw0]
  simp [decodeS, ea, eb, e8, need, checked, hw]
theorem sysrd (d : GIx) (r : SysReg) : Statement (.sysrd d r) := by
  refine of_words rfl fun hw => ?_
  have b0 := d.isLt
  have b1 := r.code_lt
  obtain ⟨hw0, ea, eb, ec, ei⟩ := decode_L (maj := 0x72) (d := d.val) (f3 := 0) (a := 0) (b := 0)
    (c := 0) (imm := r.code) rfl (by omega) (by omega) (by omega) (by omega) (by omega) (by omega) (by omega)
  rw [hw0, decodeL_72, ea, eb, ec, ei]
  simp [decode72, need, checked, hw]
theorem syswr (r : SysReg) (a : GIx) : Statement (.syswr r a) := by
  refine of_words rfl fun hw => ?_
  have b0 := r.code_lt
  have b1 := a.isLt
  obtain ⟨hw0, ea, eb, ec, ei⟩ := decode_L (maj := 0x72) (d := 0) (f3 := 1) (a := a.val) (b := 0)
    (c := 0) (imm := r.code) rfl (by omega) (by omega) (by omega) (by omega) (by omega) (by omega) (by omega)
  rw [hw0, decodeL_72, ea, eb, ec, ei]
  simp [decode72, need, checked, hw]
theorem wake (a : GIx) : Statement (.wake a) := by
  refine of_words rfl fun hw => ?_
  have b0 := a.isLt
  obtain ⟨hw0, ea, eb, e8⟩ := decode_S (maj := 0x73) (d := 0) (f3 := 0) (a := a.val) (b := 0)
    (f8 := 0) rfl (by omega) (by omega) (by omega) (by omega) (by omega) (by omega)
  rw [hw0]
  simp [decodeS, ea, eb, e8, need, checked, hw]
theorem ctxst (a b : GIx) : Statement (.ctxst a b) := by
  refine of_words rfl fun hw => ?_
  have b0 := a.isLt
  have b1 := b.isLt
  obtain ⟨hw0, ea, eb, ec, ei⟩ := decode_L (maj := 0x74) (d := 0) (f3 := 0) (a := a.val) (b := b.val)
    (c := 0) (imm := 0) rfl (by omega) (by omega) (by omega) (by omega) (by omega) (by omega) (by omega)
  rw [hw0, decodeL_74, ea, eb, ec, ei]
  simp [decode74, need, checked, hw]
theorem ctxld (a b : GIx) : Statement (.ctxld a b) := by
  refine of_words rfl fun hw => ?_
  have b0 := a.isLt
  have b1 := b.isLt
  obtain ⟨hw0, ea, eb, ec, ei⟩ := decode_L (maj := 0x74) (d := 0) (f3 := 1) (a := a.val) (b := b.val)
    (c := 0) (imm := 0) rfl (by omega) (by omega) (by omega) (by omega) (by omega) (by omega) (by omega)
  rw [hw0, decodeL_74, ea, eb, ec, ei]
  simp [decode74, need, checked, hw]
theorem tlbinv (a b : GIx) (scope : InvScope) : Statement (.tlbinv a b scope) := by
  refine of_words rfl fun hw => ?_
  have b0 := a.isLt
  have b1 := b.isLt
  have b2 := scope.code_lt
  obtain ⟨hw0, ea, eb, ec, ei⟩ := decode_L (maj := 0x75) (d := 0) (f3 := 0) (a := a.val) (b := b.val)
    (c := 0) (imm := scope.code) rfl (by omega) (by omega) (by omega) (by omega) (by omega) (by omega) (by omega)
  rw [hw0, decodeL_75, ea, eb, ec, ei]
  simp [decode75, need, checked, hw]
theorem fetchRefill (tile thr : Nat) : Statement (.fetchRefill tile thr) := fun _ _ _ h => by cases h
theorem routerCycle (tile : Nat) : Statement (.routerCycle tile) := fun _ _ _ h => by cases h
theorem throttleExpiry (tile : Nat) : Statement (.throttleExpiry tile) := fun _ _ _ h => by cases h
theorem load (h : Home) : Statement (.load h) := fun _ _ _ h => by cases h
theorem loadv (h : Home) : Statement (.loadv h) := fun _ _ _ h => by cases h
theorem loadcap (h : Home) : Statement (.loadcap h) := fun _ _ _ h => by cases h
theorem store (h : Home) : Statement (.store h) := fun _ _ _ h => by cases h
theorem storev (h : Home) : Statement (.storev h) := fun _ _ _ h => by cases h
theorem storecap (h : Home) : Statement (.storecap h) := fun _ _ _ h => by cases h
theorem put (h : Home) : Statement (.put h) := fun _ _ _ h => by cases h
theorem putv (h : Home) : Statement (.putv h) := fun _ _ _ h => by cases h
theorem atomic (h : Home) : Statement (.atomic h) := fun _ _ _ h => by cases h
theorem atomicr (h : Home) : Statement (.atomicr h) := fun _ _ _ h => by cases h
theorem ldcRequest (h : Home) : Statement (.ldcRequest h) := fun _ _ _ h => by cases h
theorem stpRequest (h : Home) : Statement (.stpRequest h) := fun _ _ _ h => by cases h
theorem fesetRequest (h : Home) : Statement (.fesetRequest h) := fun _ _ _ h => by cases h
theorem scrubRequest (h : Home) : Statement (.scrubRequest h) := fun _ _ _ h => by cases h
theorem poisonRequest (h : Home) : Statement (.poisonRequest h) := fun _ _ _ h => by cases h
theorem arm (h : Home) : Statement (.arm h) := fun _ _ _ h => by cases h
theorem disarm (h : Home) : Statement (.disarm h) := fun _ _ _ h => by cases h
theorem withdraw (h : Home) : Statement (.withdraw h) := fun _ _ _ h => by cases h
theorem granule (h : Home) : Statement (.granule h) := fun _ _ _ h => by cases h
theorem streamend (h : Home) : Statement (.streamend h) := fun _ _ _ h => by cases h
theorem push (h : Home) : Statement (.push h) := fun _ _ _ h => by cases h
theorem tdecRequest (h : Home) : Statement (.tdecRequest h) := fun _ _ _ h => by cases h
theorem tcancelRequest (h : Home) : Statement (.tcancelRequest h) := fun _ _ _ h => by cases h
theorem wakeRequest (h : Home) : Statement (.wakeRequest h) := fun _ _ _ h => by cases h
theorem tlbinvRequest (cluster : Nat) : Statement (.tlbinvRequest cluster) := fun _ _ _ h => by cases h
theorem tlbinvPortComplete (cluster : Nat) : Statement (.tlbinvPortComplete cluster) :=
  fun _ _ _ h => by cases h
theorem resp (tile : Nat) : Statement (.resp tile) := fun _ _ _ h => by cases h
theorem respv (tile : Nat) : Statement (.respv tile) := fun _ _ _ h => by cases h
theorem ack (h : Home) : Statement (.ack h) := fun _ _ _ h => by cases h
theorem nak (h : Home) : Statement (.nak h) := fun _ _ _ h => by cases h
theorem nakRetry (tile n : Nat) : Statement (.nakRetry tile n) := fun _ _ _ h => by cases h
theorem signal (h : Home) : Statement (.signal h) := fun _ _ _ h => by cases h
theorem fire (tile : Nat) : Statement (.fire tile) := fun _ _ _ h => by cases h
theorem notreg (tile : Nat) : Statement (.notreg tile) := fun _ _ _ h => by cases h
theorem removed (tile : Nat) : Statement (.removed tile) := fun _ _ _ h => by cases h
theorem armResend (tile thr : Nat) : Statement (.armResend tile thr) := fun _ _ _ h => by cases h
theorem fwaitTimeout (tile thr : Nat) : Statement (.fwaitTimeout tile thr) := fun _ _ _ h => by cases h
theorem copyActivate (tile entry : Nat) : Statement (.copyActivate tile entry) :=
  fun _ _ _ h => by cases h
theorem copyGranuleSend (tile entry : Nat) : Statement (.copyGranuleSend tile entry) :=
  fun _ _ _ h => by cases h
theorem matrixGrant (cluster : Nat) : Statement (.matrixGrant cluster) := fun _ _ _ h => by cases h
theorem matrixExecute (cluster : Nat) : Statement (.matrixExecute cluster) := fun _ _ _ h => by cases h
theorem matrixComplete (cluster : Nat) : Statement (.matrixComplete cluster) := fun _ _ _ h => by cases h
theorem tcfgClosed (cluster : Nat) (t : TIx) : Statement (.tcfgClosed cluster t) :=
  fun _ _ _ h => by cases h
theorem tcfgClearDone (cluster : Nat) (t : TIx) : Statement (.tcfgClearDone cluster t) :=
  fun _ _ _ h => by cases h
theorem dispatch (cluster : Nat) : Statement (.dispatch cluster) := fun _ _ _ h => by cases h
theorem dispenserScoreWindow (tile : Nat) : Statement (.dispenserScoreWindow tile) :=
  fun _ _ _ h => by cases h
theorem recordPromotion (cluster : Nat) : Statement (.recordPromotion cluster) :=
  fun _ _ _ h => by cases h
theorem cuffSpill (cluster : Nat) : Statement (.cuffSpill cluster) := fun _ _ _ h => by cases h
theorem cuffRefill (cluster : Nat) : Statement (.cuffRefill cluster) := fun _ _ _ h => by cases h
theorem crownRootArrival (tile : Nat) (b : Fin 64) : Statement (.crownRootArrival tile b) :=
  fun _ _ _ h => by cases h
theorem crownRelease (b : Fin 64) : Statement (.crownRelease b) := fun _ _ _ h => by cases h
theorem pageWalk (cluster : Nat) : Statement (.pageWalk cluster) := fun _ _ _ h => by cases h
theorem supqRetry : Statement (.supqRetry) := fun _ _ _ h => by cases h
theorem contextCreate (c : Fin 64) (v : Word) : Statement (.contextCreate c v) :=
  fun _ _ _ h => by cases h
theorem contextDestroy (c : Fin 64) (v : Word) : Statement (.contextDestroy c v) :=
  fun _ _ _ h => by cases h
theorem ringMap (slot : Fin 64) (v : Word) : Statement (.ringMap slot v) := fun _ _ _ h => by cases h
theorem ringUnmap (slot : Fin 64) (v : Word) : Statement (.ringUnmap slot v) := fun _ _ _ h => by cases h
theorem subnotify (slot : Fin 64) (v : Word) : Statement (.subnotify slot v) := fun _ _ _ h => by cases h
theorem ringConsume (slot : Fin 64) : Statement (.ringConsume slot) := fun _ _ _ h => by cases h
theorem launchConditionsMet (id : Nat) : Statement (.launchConditionsMet id) := fun _ _ _ h => by cases h
theorem launchPlacement : Statement (.launchPlacement) := fun _ _ _ h => by cases h
theorem launchLoad (id : Nat) : Statement (.launchLoad id) := fun _ _ _ h => by cases h
theorem launchCompletion (id : Nat) : Statement (.launchCompletion id) := fun _ _ _ h => by cases h
theorem kill (v : Word) (who : Writer) : Statement (.kill v who) := fun _ _ _ h => by cases h
theorem crownBind (b : Fin 64) (v : Word) (who : Writer) : Statement (.crownBind b v who) :=
  fun _ _ _ h => by cases h
theorem crownUnbind (b : Fin 64) (v : Word) (who : Writer) : Statement (.crownUnbind b v who) :=
  fun _ _ _ h => by cases h
theorem preemptHaltRequest (id : Nat) : Statement (.preemptHaltRequest id) := fun _ _ _ h => by cases h
theorem preemptSettle (tile : Nat) : Statement (.preemptSettle tile) := fun _ _ _ h => by cases h
theorem regionSave (id : Nat) : Statement (.regionSave id) := fun _ _ _ h => by cases h
theorem launchRestore : Statement (.launchRestore) := fun _ _ _ h => by cases h
theorem hostBar2Access (link : Fin 4) (off : Nat) (acc : HostAccess) : Statement (.hostBar2Access link off acc) :=
  fun _ _ _ h => by cases h
theorem ioDieOutbound (die : Nat) : Statement (.ioDieOutbound die) := fun _ _ _ h => by cases h
theorem atwaldFrame (port : Fin 64) (seq ackseq : Nat) (crcOk : Bool) (slots : List (Nat × Nat × Nat × Flit)) : Statement (.atwaldFrame port seq ackseq crcOk slots) :=
  fun _ _ _ h => by cases h
theorem atwaldLaneFailure (port : Fin 64) : Statement (.atwaldLaneFailure port) :=
  fun _ _ _ h => by cases h
theorem enctlWrite (p : Fin 8) (v : Word) : Statement (.enctlWrite p v) := fun _ _ _ h => by cases h
theorem entxtail (p : Fin 8) (v : Word) : Statement (.entxtail p v) := fun _ _ _ h => by cases h
theorem enrxtail (p : Fin 8) (v : Word) : Statement (.enrxtail p v) := fun _ _ _ h => by cases h
theorem ethTransmit (p : Fin 8) : Statement (.ethTransmit p) := fun _ _ _ h => by cases h
theorem ethReceive (p : Fin 8) (frame : List Byte) (fcs : BitVec 32) : Statement (.ethReceive p frame fcs) :=
  fun _ _ _ h => by cases h
theorem sramPatrolScrub (tile bank : Nat) : Statement (.sramPatrolScrub tile bank) :=
  fun _ _ _ h => by cases h
theorem hbmPatrolScrub (stack channel : Nat) : Statement (.hbmPatrolScrub stack channel) :=
  fun _ _ _ h => by cases h
theorem wearLeak (u : WearUnit) : Statement (.wearLeak u) := fun _ _ _ h => by cases h
theorem fenceNotice (r : RectId) (cause : FenceCause) : Statement (.fenceNotice r cause) :=
  fun _ _ _ h => by cases h
theorem crectWrite (r : Fin 64) (v : Word) : Statement (.crectWrite r v) := fun _ _ _ h => by cases h
theorem crectUnfence (r : Fin 64) : Statement (.crectUnfence r) := fun _ _ _ h => by cases h
theorem repairDone (u : WearUnit) (ok : Bool) : Statement (.repairDone u ok) := fun _ _ _ h => by cases h
theorem quote (seq : BitVec 16) (form ctx : Byte) (nonce : List Byte) : Statement (.quote seq form ctx nonce) :=
  fun _ _ _ h => by cases h
theorem keyload (seq : BitVec 16) (slot : Nat) (dataKey tweakKey : Nat) : Statement (.keyload seq slot dataKey tweakKey) :=
  fun _ _ _ h => by cases h
theorem keyerase (seq : BitVec 16) (slot : Nat) : Statement (.keyerase seq slot) :=
  fun _ _ _ h => by cases h
theorem keyenroll (seq : BitVec 16) (slot : Nat) (key : List Byte) (signer : Nat) (sig : List Byte) : Statement (.keyenroll seq slot key signer sig) :=
  fun _ _ _ h => by cases h
theorem ckpt (seq : BitVec 16) (base len : Nat) : Statement (.ckpt seq base len) :=
  fun _ _ _ h => by cases h
theorem restore (seq : BitVec 16) (base : Nat) : Statement (.restore seq base) :=
  fun _ _ _ h => by cases h
theorem pwrlim (seq : BitVec 16) (watts : Nat) : Statement (.pwrlim seq watts) :=
  fun _ _ _ h => by cases h
theorem fence (seq : BitVec 16) (r : RectId) : Statement (.fence seq r) := fun _ _ _ h => by cases h
theorem remap (seq : BitVec 16) (die col : Nat) : Statement (.remap seq die col) :=
  fun _ _ _ h => by cases h
theorem hbmppr (seq : BitVec 16) (stack channel row : Nat) : Statement (.hbmppr seq stack channel row) :=
  fun _ _ _ h => by cases h
theorem offline (seq : BitVec 16) (die : Nat) (force : Bool) : Statement (.offline seq die force) :=
  fun _ _ _ h => by cases h
theorem online (seq : BitVec 16) (die : Nat) : Statement (.online seq die) := fun _ _ _ h => by cases h
theorem inject (seq : BitVec 16) (i : Injection) : Statement (.inject seq i) := fun _ _ _ h => by cases h
theorem readwear (seq : BitVec 16) (u : WearUnit) : Statement (.readwear seq u) :=
  fun _ _ _ h => by cases h
theorem trctlWrite (stack channel : Nat) (v : Word) : Statement (.trctlWrite stack channel v) :=
  fun _ _ _ h => by cases h
theorem trpassTest (stack channel : Nat) (passed : Word) : Statement (.trpassTest stack channel passed) :=
  fun _ _ _ h => by cases h
theorem registerWrite (addr : Nat) (v : Word) (who : Writer) : Statement (.registerWrite addr v who) :=
  fun _ _ _ h => by cases h
theorem powerMeasurement (watts : Nat) : Statement (.powerMeasurement watts) := fun _ _ _ h => by cases h
theorem dieTemperature (die : Nat) (celsius : Nat) : Statement (.dieTemperature die celsius) :=
  fun _ _ _ h => by cases h
theorem powerOnReset (b : BootReport) : Statement (.powerOnReset b) := fun _ _ _ h => by cases h
theorem checkpointWriteDone (micros : Nat) : Statement (.checkpointWriteDone micros) :=
  fun _ _ _ h => by cases h

end Laws.RoundTrip
end Sys2Proof
end

