-- ==== Sys2Proof/Safety.lean ====
section
/-! DEFINITION. What a well-formed state is and what counts as a safe run, in the terms that statements use: collections and
memory in their canonical form, and a run that never ends in a fault or a refusal. -/
namespace Sys2Proof.Machine

/-- Keys rise strictly, all above a lower bound. -/
def risingFrom {α : Type} : Nat → List (Nat × α) → Bool
  | _, [] => true
  | lo, (k, _) :: m => decide (lo ≤ k) && risingFrom (k + 1) m

/-- The canonical form of a keyed collection: strictly rising keys, no entry equal to the default. -/
def SMap.wf {α : Type} [DecidableEq α] (d : α) (m : SMap α) : Bool := risingFrom 0 m && m.all fun x => decide (x.2 ≠ d)

/-- The canonical form of memory: strictly rising addresses, no byte equal to what an unlisted address reads as. -/
def Memory.wf (m : Memory) : Bool := SMap.wf 0 m

/-- The memory that a state holds, and the HBM that its checkpoints hold (R416), are canonical; a checkpoint's HBM lies below the
scratchpads. -/
def State.memoryOk (s : State) : Bool :=
  Memory.wf s.mem && s.tier.all fun c =>
    Memory.wf c.hbm && c.hbm.all fun x => !isSpad x.1

/-- A step that goes on. -/
def State.goesOn (s : State) : Prop := ∃ t, step s = .next t

/-- A run of n steps from s that reaches t without a fault or a refusal. -/
inductive Runs : State → Nat → State → Prop where
  | here (s : State) : Runs s 0 s
  | step {s t u : State} {n : Nat} : step s = .next t → Runs t n u → Runs s (n + 1) u

/-- A safe run: every state that a run reaches takes a step, or has powered off. -/
def State.safe (s : State) : Prop := ∀ n t, Runs s n t → t.goesOn ∨ t.powered = false

end Sys2Proof.Machine
end

