-- ==== Sys2Proof/Certificates/Slice0/Obligations.lean ====
section
/-! DEFINITION. The statements for the provers. `Claims` holds the terms they are written in: what retiring leaves, the
register results of the manual's tables, and one proposition per clause of the longer statements. -/

namespace Sys2Proof.Claims
open Sys2Proof Sys2Proof.Machine

/-! ## Retiring -/

/-- The state once the current instruction has retired with its thread as t: the PC at the sequential successor (R86),
RETIRED one higher (R192), and nothing kept of an access in passes. Everything outside the thread is as in s. -/
def atRetire (s : State) (t : Thread) : State :=
  s.setThr s.curTile s.curThr
    { t with pc := s.cur.succ, retired := s.cur.retired + 1, served := [], retryBanks := [], walkEnds := [] }

/-- The instruction retires, gD holding r. -/
def writes (s : State) (d : GIx) (r : GReg) : Host.Outcome State Fault Refusal := .next (atRetire s (s.cur.wr d r))

end Sys2Proof.Claims

/-! # Encoding and decoding -/

/-- R82-R94, R93: no bit of an encoding is dropped. Decoding the words that the encoder writes for a well-formed
instruction, with any operands, gives that instruction back. -/
def Obligations.DecodeAfterEncode : Prop :=
  ∀ (i : Sys2Proof.Instr) (h t : Nat), i.wf = true → Sys2Proof.encode i = some (h, t) → Sys2Proof.decode h t = some i

/-- R93, R94: every word that is not illegal is the one encoding of a well-formed instruction, so no two words mean
the same and every reserved bit matters. -/
def Obligations.EncodeAfterDecode : Prop :=
  ∀ (i : Sys2Proof.Instr) (h t : Nat), Sys2Proof.decode h t = some i → i.wf = true ∧ Sys2Proof.encode i = some (h, t)

namespace Sys2Proof.Claims
open Sys2Proof Sys2Proof.Machine

/-- Parcel p of a line. -/
def parcel (l : List Parcel) (p : Nat) : Nat := (l.getD p 0).toNat

/-- Sum of the LEN fields of heads 1 to i - 1 (R84). -/
def tailsBefore (l : List Parcel) : Nat → Nat
  | 0 => 0
  | 1 => 0
  | i + 2 => tailsBefore l (i + 1) + parcel l (i + 1) / 128 % 4

end Sys2Proof.Claims

/-- The code line (R82, R84-R86): where the tail of head i lies and how it is read, which lines are malformed, and the
sequential successor of a head. -/
def Obligations.CodeLine : Prop :=
  ∀ (l : List Sys2Proof.Parcel),
    (∀ i, let n := Sys2Proof.Claims.parcel l i / 128 % 4
      Sys2Proof.lineTail l i =
        (List.range n).foldr
          (fun k acc => Sys2Proof.Claims.parcel l (32 - Sys2Proof.Claims.tailsBefore l i - n + k) + 65536 * acc) 0) ∧
    (let h := Sys2Proof.Claims.parcel l 0 % 32
     Sys2Proof.lineMalformed l = true ↔
       h = 0 ∨ 32 ≤ Sys2Proof.Claims.parcel l 0 ∨ 31 < h + Sys2Proof.Claims.tailsBefore l (h + 1) ∨
       ∃ p, h < p ∧ p < 32 - Sys2Proof.Claims.tailsBefore l (h + 1) ∧ Sys2Proof.Claims.parcel l p ≠ 0) ∧
    (∀ (line : BitVec 58) (i : BitVec 5) (h : Nat), h ≤ 31 →
      let pc : Sys2Proof.Word := line ++ i ++ (0 : BitVec 1)
      Sys2Proof.succPc pc h =
        if i.toNat < h then line ++ (i + 1) ++ (0 : BitVec 1) else (line + 1) ++ (1 : BitVec 5) ++ (0 : BitVec 1))

open Sys2Proof in
/-- Words written out from Tables 4.1, 4.2, 4.6-4.9 decode to what they stand for, and words that R94 makes illegal decode
to nothing. -/
def Obligations.DecodedWords : Prop :=
  decode 0b0000001_01_0011_001 0b0001_0010_00000000 = some (.sub 3 1 2) ∧
  decode 0b0000110_10_0010_000 0b0011_0000_0000_11111111111111111111 = some (.addi 2 3 (-1)) ∧
  decode 0b0000111_11_1001_000 0b100000000000000000000000000000000000000000000001 = some (.movi 9 0x8000_0000_0001) ∧
  decode 0b0001000_01_0011_100 0b0100_0101_00000000 = some (.cmp 3 .ltu 4 5) ∧
  decode 0b0001100_10_0000_001 0b0000_0000_0000_111111111111110_00101 = some (.jl (-2) 5) ∧
  decode 0b0100000_10_0001_110 0b0010_0000_0000_1_1111111111111111000 = some (.ld true 2 1 2 0xFFFF8) ∧
  decode 0b0101001_10_0001_001 0b0010_0011_0100_0001_0000000000001000 = some (.rcas .i64 1 2 3 4 8) ∧
  decode 0b0101011_10_0001_001 0b0010_0000_0000_000000000000_0100_0101 = some (.fwait 1 2 5 4) ∧
  decode 0b1000100_10_0001_011 0b1001_0011_0100_10_0010_011_0000_0000000 = some (.vfma .bf16 .rdn 2 1 9 3 4) ∧
  decode 0b1100000_11_0001_010 0b0010_0011_0100_0101_0110_0111_10000001_0000000000000000 = some (.copym 1 3 2 4 5 6 7 0x81) ∧
  decode 0b1100100_11_0000_110 0b11111_0010_0011_0100_0101_0110_1111_0000000000000000000 = some (.mma .i8 31 2 3 4 5 6 15) ∧
  decode 0b1110010_10_0000_001 0b0011_0000_0000_00000000_000000001000 = some (.syswr .tvec 3) ∧
  decode 0b0010000_00_0000_000 0 = none ∧
  decode 0b0000001_10_0011_000 0b0001_0010_0000_00000000000000000000 = none ∧
  decode 0b0000001_01_0011_000 0b0001_0010_00000001 = none ∧
  decode 0b0000010_01_0011_110 0b0001_0010_00000000 = none ∧
  decode 0b0001000_01_0000_000 0b0001_0010_00000000 = none ∧
  decode 0b0100010_10_1000_000 0b0001_0000_0000_0_0000000000000000000 = none ∧
  decode 0b1110010_10_0001_000 0b0000_0000_0000_00000000_000000000100 = none

/-! # Steps, runs and reset -/

namespace Sys2Proof.Claims
open Sys2Proof Sys2Proof.Machine

/-- The issue of the head at BPC clears BSKIP (R196). -/
def atIssue (s : State) : State :=
  if s.cur.bskip = true ∧ s.cur.pc = s.cur.bpc then s.setCur { s.cur with bskip := false } else s

end Sys2Proof.Claims

/-- A step runs the instruction that stands at the program counter (R11-R16, R84-R88, R185, R196). The turn is a cycle of
the core of a placed tile t that is not fenced, halting or in replay mode. The cycle ticks the counters, lets skip walks
go on, and gives its slot to the first ready thread after the rotation pointer. Where that thread's line is in its fetch
buffer and within its code capability, the line is well formed, no breakpoint matches, and the head at the PC decodes to
i, the cycle is exec of i for that thread, followed by what the thread and the tile do around it: the banks granted, the next
slot eight cycles on and the prefetch, then the end of the cycle. A cycle that meets a channel in training is not taken (log 90). -/
def Obligations.StepRunsDecoded : Prop :=
  ∀ (s : Sys2Proof.Machine.State) (rest : List Sys2Proof.Machine.Turn) (t h : Nat) (l : List Sys2Proof.Parcel)
    (i : Sys2Proof.Instr),
    s.powered = true → s.evo.inReset = false → s.agenda = .core t :: rest →
    (s.tile t).region ≠ none → (s.tile t).fenced = false → (s.tile t).halt = .running → (s.tile t).replay = false →
    let s0 : Sys2Proof.Machine.State := { s with agenda := rest, stalled := false }
    let s1 := (s0.tick t).updTile t fun x => x.walkAll s.pkg t
    (s1.tile t).choose s.pkg t = some h →
    let s2 : Sys2Proof.Machine.State := { s1.updTile t (fun x => { x with rot := h }) with curTile := t, curThr := h }
    s2.cur.fetchable s.pkg t = true → s2.cur.line s2.cur.pc = some l →
    Sys2Proof.lineMalformed l = false → s2.cur.breaks = false →
    (let k := s2.cur.pc.toNat / 2 % 32
     s2.cur.pc.toNat % 2 = 0 → 1 ≤ k → k ≤ Sys2Proof.lineHeads l →
     Sys2Proof.decode (Sys2Proof.lineHead l k) (Sys2Proof.lineTail l k) = some i →
     s2.cur.recheck = .no → s2.curT.mismatch = .no →
     let s3 := Sys2Proof.Claims.atIssue s2
     Sys2Proof.Machine.step s =
       match Sys2Proof.Machine.exec i s3 with
       | .next s4 =>
         let s5 := (s2.afterIssue (s3.grantRows s4 i)).endCycle t
         .next (if s5.stalled then s0 else s5)
       | stop => stop)

/-- Where the head at the PC is not an instruction, the cycle takes the trap of fetch or decode that R185 puts first: bounds of
a line outside the code capability, with the line's address (R119), malformed line (R85), breakpoint (R196), a word that
R94 makes illegal. In a skip walk the first two traps hold the annulments not yet made in EVAL, at the PC that the walk has
reached, with WALK set (R114, R184). What EVAL holds at a PC that no head has is the model's reading (log 72). -/
def Obligations.FetchTraps : Prop :=
  ∀ (s : Sys2Proof.Machine.State),
    let th := s.cur
    let pc := th.pc.toNat
    let k := pc / 2 % 32
    let trapWith := fun (cause eval : Nat) (walk : Bool) =>
      (.next (s.trapOn s.curTile s.curThr cause eval th.pc walk) :
        Host.Outcome Sys2Proof.Machine.State Sys2Proof.Machine.Fault Sys2Proof.Machine.Refusal)
    (th.fetchable s.pkg s.curTile = false →
      (th.skip = 0 → s.fetched = trapWith 0x06 (pc / 64 * 64) false) ∧
      (th.skip ≠ 0 → s.fetched = trapWith 0x06 th.skip true)) ∧
    (∀ l, th.fetchable s.pkg s.curTile = true → th.line th.pc = some l →
      (Sys2Proof.lineMalformed l = true →
        (th.skip = 0 → s.fetched = trapWith 0x02 0 false) ∧
        (th.skip ≠ 0 → s.fetched = trapWith 0x02 th.skip true)) ∧
      (Sys2Proof.lineMalformed l = false → th.breaks = true → s.fetched = trapWith 0x0D 0 false) ∧
      (Sys2Proof.lineMalformed l = false → th.breaks = false →
        let s' := Sys2Proof.Claims.atIssue s
        (pc % 2 = 1 ∨ k = 0 → s.fetched = s'.trap 0x07 pc) ∧
        (pc % 2 = 0 → k ≠ 0 →
          (Sys2Proof.lineHeads l < k → s.fetched = s'.trap 0x01 0) ∧
          (k ≤ Sys2Proof.lineHeads l →
            Sys2Proof.decode (Sys2Proof.lineHead l k) (Sys2Proof.lineTail l k) = none →
            s.fetched = s'.trap 0x01 s'.headTail))))

/-- No instruction and no agent's step has a state on which it has no next state. -/
def Obligations.ExecAlwaysGoesOn : Prop :=
  ∀ (i : Sys2Proof.Instr) (s : Sys2Proof.Machine.State), ∃ t, Sys2Proof.Machine.exec i s = .next t

/-- The one stop of the machine is power-off (R419): a powered package always takes a step, and one that has powered off
takes only power-on reset. -/
def Obligations.OnlyPowerOffStops : Prop :=
  ∀ (s : Sys2Proof.Machine.State),
    (s.powered = true → ∃ t, Sys2Proof.Machine.step s = .next t) ∧
    (∀ b rest, s.agenda = .event (.powerOnReset b) :: rest →
      ∃ t, Sys2Proof.Machine.exec (.powerOnReset b) { s with agenda := rest, stalled := false } = .next t ∧
        Sys2Proof.Machine.step s = .next t) ∧
    (s.powered = false → (∀ b rest, s.agenda ≠ .event (.powerOnReset b) :: rest) → Sys2Proof.Machine.step s = .fault .poweredOff)

/-- The values that the manual's register maps and rules give for power-on reset: no key is loaded (R355), the device
chain is 64 zero bytes, held as the empty list (R409), verification slot 0 holds the root key and the others are empty
(R408), no event is recorded
(Table 23.5), PWRLIM is 3,600 W (R419), SCRUBCFG and WEARCFG hold their reset values (Tables 22.2, 22.4), no context, ring,
window, rectangle or launch is set up (Tables 17.1, 20.2, 22.5), and every launch flag is 0 (R326). General registers, the counters of
a tile and memory reading 0 are choices of the model (log 11, log 12). -/
def Obligations.ResetValues : Prop :=
  let s := Sys2Proof.Machine.State.reset
  s.powered = true ∧ s.keys = [] ∧ s.keyLoads = 0 ∧ s.evo.chain = [] ∧
  (∀ k, s.verifyKey k = if k = 0 then some Sys2Proof.Config.rootKey else none) ∧
  s.evo.evHead = 0 ∧ s.evo.events = [] ∧ s.evo.limit = 3600 ∧ s.evo.duty = 16 ∧
  s.evo.scrubEn = true ∧ s.evo.hstep = 0x400 ∧ s.evo.sstep = 0x4000 ∧
  (∀ k, Sys2Proof.Machine.mget {} s.evo.wearCfg k = { mark := 0x40, leak := 0x10000000 }) ∧
  (∀ c, (s.ctxOf c).valid = false) ∧ s.launches = [] ∧ s.subs = [] ∧ s.rects = [] ∧ s.hostctx = [] ∧
  (∀ f, Sys2Proof.Machine.mget 0 s.lflags f = 0) ∧
  (∀ t, (s.tile t).region = none ∧ (s.tile t).matwt = 1 ∧ (s.tile t).cycle = 0) ∧
  (∀ t h r, (s.thr t h).rd r = {}) ∧ (∀ a, s.byte a = 0)

/-- Reset memory lists nothing and so has the canonical form (a choice of representation, not a rule). -/
def Obligations.ResetMemoryCanonical : Prop :=
  Sys2Proof.Machine.State.reset.memoryOk = true ∧ ∀ a, Sys2Proof.Machine.State.reset.byte a = 0

/-! # Registers and memory -/

/-- The register files (R41, R44, R46): g0 reads data zero and k0 reads 0xFFFF in every state, writes to them are
discarded, and every other register reads as it was last written, its neighbours untouched. -/
def Sys2Proof.Claims.RegisterFile : Prop :=
  ∀ (t : Sys2Proof.Machine.Thread),
    (t.rd 0 = { tag := .data, body := 0 } ∧ t.rk 0 = 0xFFFF) ∧
    (∀ v, t.wr 0 v = t) ∧ (∀ x, t.wk 0 x = t) ∧
    (∀ d v r, (t.wr d v).rd r = if r = d ∧ d ≠ 0 then v else t.rd r) ∧
    (∀ d x r, (t.wk d x).rk r = if r = d ∧ d ≠ 0 then x else t.rk r) ∧
    (∀ d v r, (t.wv d v).rv r = if r = d then v else t.rv r)

/-- Bytes and values (R6): a little-endian value reads back as its low 8n bits and in its bytes, the lowest byte at the
lowest address; every byte outside the n written ones reads as before; and full/empty, poison and tags stay. -/
def Sys2Proof.Claims.MemoryBytes : Prop :=
  ∀ (s : Sys2Proof.Machine.State) (a n v : Nat),
    (s.setVal a n v).val a n = v % 2 ^ (8 * n) ∧
    (∀ k, k < n → ((s.setVal a n v).byte (a + k)).toNat = v / 256 ^ k % 256) ∧
    (∀ c, c < a ∨ a + n ≤ c → (s.setVal a n v).byte c = s.byte c) ∧
    (∀ c, (s.setVal a n v).fe c = s.fe c ∧ (s.setVal a n v).poisoned c = s.poisoned c ∧
      (s.setVal a n v).tagAt c = s.tagAt c)

/-- Word metadata (R205): the full/empty and poison bits of a word and the tag of a pair read as last written, whichever
byte of the word or pair names it, and no other word's or pair's changes. -/
def Sys2Proof.Claims.WordMetadata : Prop :=
  ∀ (s : Sys2Proof.Machine.State) (a c : Nat) (b : Bool),
    (s.setFe a b).fe c = (if c / 8 = a / 8 then b else s.fe c) ∧
    (s.setPoisoned a b).poisoned c = (if c / 8 = a / 8 then b else s.poisoned c) ∧
    (s.setTagAt a b).tagAt c = (if c / 16 = a / 16 then b else s.tagAt c) ∧
    (s.setFe a b).mem = s.mem ∧ (s.setPoisoned a b).mem = s.mem ∧ (s.setTagAt a b).mem = s.mem

/-- Threads of tiles are separate: writing one thread changes no other, nor anything else of a tile (R40, R189). -/
def Sys2Proof.Claims.ThreadsSeparate : Prop :=
  ∀ (s : Sys2Proof.Machine.State) (t h t' h' : Nat) (x : Sys2Proof.Machine.Thread),
    (s.setThr t h x).thr t' h' = (if t' = t ∧ h' = h then x else s.thr t' h') ∧
    (s.setThr t h x).mem = s.mem ∧
    (t' ≠ t → (s.setThr t h x).tile t' = s.tile t') ∧
    { (s.setThr t h x).tile t with threads := [] } = { s.tile t with threads := [] }

/-- The register files, and the separateness of threads (R40, R41, R44, R46, R189). -/
def Obligations.Registers : Prop :=
  Sys2Proof.Claims.RegisterFile ∧ Sys2Proof.Claims.ThreadsSeparate

/-- Bytes of memory (R6) and the bits of its words (R205). -/
def Obligations.MemoryAndMetadata : Prop :=
  Sys2Proof.Claims.MemoryBytes ∧ Sys2Proof.Claims.WordMetadata

/-! # Scalar integer instructions -/

namespace Sys2Proof.Claims
open Sys2Proof Sys2Proof.Machine

/-- What gD receives of an operation on one register (R104): a poisoned operand as it is, or data. -/
def unary (s : State) (a : GIx) (v : Word) : GReg :=
  if (s.cur.rd a).tag = .poison then s.cur.rd a else { tag := .data, body := v.setWidth 128 }

/-- What gD receives of an operation on two registers (R104): the first poisoned operand, or data. -/
def binary (s : State) (a b : GIx) (v : Word) : GReg :=
  if (s.cur.rd a).tag = .poison then s.cur.rd a else unary s b v

/-- Table 5.1 and R107 over exact integers: each operation as a function of the operands. -/
def twoSource : List ((GIx → GIx → GIx → Instr) × (Word → Word → Word)) :=
  [(.add, fun x y => .ofInt 64 (x.toInt + y.toInt)), (.sub, fun x y => .ofInt 64 (x.toInt - y.toInt)),
   (.and, fun x y => x &&& y), (.or, fun x y => x ||| y), (.xor, fun x y => x ^^^ y), (.andn, fun x y => x &&& ~~~y),
   (.shl, fun x y => .ofNat 64 (x.toNat * 2 ^ (y.toNat % 64))), (.shr, fun x y => .ofNat 64 (x.toNat / 2 ^ (y.toNat % 64))),
   (.sra, fun x y => .ofInt 64 (x.toInt / 2 ^ (y.toNat % 64))),
   (.min, fun x y => .ofInt 64 (min x.toInt y.toInt)), (.max, fun x y => .ofInt 64 (max x.toInt y.toInt)),
   (.minu, fun x y => .ofNat 64 (min x.toNat y.toNat)), (.maxu, fun x y => .ofNat 64 (max x.toNat y.toNat)),
   (.mul, fun x y => .ofInt 64 (x.toInt * y.toInt)), (.mulh, fun x y => .ofInt 64 (x.toInt * y.toInt / 2 ^ 64)),
   (.mulhu, fun x y => .ofNat 64 (x.toNat * y.toNat / 2 ^ 64)),
   (.div, fun x y => if y = 0 then -1 else .ofInt 64 (x.toInt.tdiv y.toInt)),
   (.divu, fun x y => if y = 0 then -1 else .ofNat 64 (x.toNat / y.toNat)),
   (.rem, fun x y => if y = 0 then x else .ofInt 64 (x.toInt.tmod y.toInt)),
   (.remu, fun x y => if y = 0 then x else .ofNat 64 (x.toNat % y.toNat))]

/-- Leading zeros, trailing zeros and one bits, by the bits themselves. -/
def leading (x : Word) (n : Nat) : Prop :=
  n ≤ 64 ∧ (∀ i, 64 - n ≤ i → i < 64 → x.getLsbD i = false) ∧ (n < 64 → x.getLsbD (63 - n) = true)
def trailing (x : Word) (n : Nat) : Prop :=
  n ≤ 64 ∧ (∀ i, i < n → x.getLsbD i = false) ∧ (n < 64 → x.getLsbD n = true)
def population (x : Word) (n : Nat) : Prop := n = ((List.range 64).filter x.getLsbD).length

/-- The exact value of the immediate of ADDI and its kin. -/
def imm (m : BitVec 20) : Word := .ofInt 64 m.toInt

end Sys2Proof.Claims

/-- Majors 0x01-0x03 (R104, R105, R107, Table 5.1): for every operand, gD := the operation's result, or the first poisoned
operand; the instruction retires and nothing else changes. -/
def Sys2Proof.Claims.IntegerTwoSource : Prop :=
  ∀ p ∈ Sys2Proof.Claims.twoSource, ∀ (s : Sys2Proof.Machine.State) (d a b : Sys2Proof.GIx),
    Sys2Proof.Machine.exec (p.1 d a b) s =
      Sys2Proof.Claims.writes s d (Sys2Proof.Claims.binary s a b (p.2 (s.cur.rd a).low (s.cur.rd b).low))

open Sys2Proof Sys2Proof.Machine Sys2Proof.Claims in
/-- Majors 0x04-0x06 (R108-R110, Table 5.3): counts by the bits they count, extensions, shifts and fields over exact
integers, immediates sign-extended. A poisoned operand passes through; BFI reads gD after gA. -/
def Sys2Proof.Claims.IntegerOneSource : Prop :=
  ∀ (s : State) (d a : GIx),
    let x := (s.cur.rd a).low
    (∃ n, leading x n ∧ exec (.clz d a) s = writes s d (unary s a (.ofNat 64 n))) ∧
    (∃ n, trailing x n ∧ exec (.ctz d a) s = writes s d (unary s a (.ofNat 64 n))) ∧
    (∃ n, population x n ∧ exec (.popc d a) s = writes s d (unary s a (.ofNat 64 n))) ∧
    (∀ w : Fin 64, exec (.sext d a w) s = writes s d (unary s a (.ofInt 64 (x.toInt.bmod (2 ^ (w.val + 1)))))) ∧
    (∀ w : Fin 64, exec (.zext d a w) s = writes s d (unary s a (.ofNat 64 (x.toNat % 2 ^ (w.val + 1))))) ∧
    (∀ n : Fin 64, exec (.shli d a n) s = writes s d (unary s a (.ofNat 64 (x.toNat * 2 ^ n.val)))) ∧
    (∀ n : Fin 64, exec (.shri d a n) s = writes s d (unary s a (.ofNat 64 (x.toNat / 2 ^ n.val)))) ∧
    (∀ n : Fin 64, exec (.srai d a n) s = writes s d (unary s a (.ofInt 64 (x.toInt / 2 ^ n.val)))) ∧
    (∀ w p : Fin 64, exec (.bfx d a w p) s = writes s d (unary s a (.ofNat 64 (x.toNat / 2 ^ p.val % 2 ^ (w.val + 1))))) ∧
    (∀ w p : Fin 64, p.val + w.val + 1 ≤ 64 → ∃ v : Word,
      (∀ i, i < 64 → v.getLsbD i = if p.val ≤ i ∧ i ≤ p.val + w.val then x.getLsbD (i - p.val) else (s.cur.rd d).low.getLsbD i) ∧
      exec (.bfi d a w p) s = writes s d (binary s a d v)) ∧
    (∀ m, exec (.addi d a m) s = writes s d (unary s a (.ofInt 64 (x.toInt + m.toInt)))) ∧
    (∀ m, exec (.andi d a m) s = writes s d (unary s a (x &&& imm m))) ∧
    (∀ m, exec (.ori d a m) s = writes s d (unary s a (x ||| imm m))) ∧
    (∀ m, exec (.xori d a m) s = writes s d (unary s a (x ^^^ imm m)))

open Sys2Proof Sys2Proof.Machine Sys2Proof.Claims in
/-- NOP, MOV, MOVI and CAPCLR (R106, R111, R126, R194): MOV copies tag and body whatever the tag, CAPCLR writes the cursor of a
capability as data and copies data and poison; none traps. -/
def Obligations.Moves : Prop :=
  ∀ (s : State) (d a : GIx) (x : BitVec 48),
    exec .nop s = .next (atRetire s s.cur) ∧
    exec (.mov d a) s = writes s d (s.cur.rd a) ∧
    exec (.movi d x) s = writes s d { tag := .data, body := (BitVec.ofInt 64 x.toInt).setWidth 128 } ∧
    exec (.moviShifted d x) s = writes s d { tag := .data, body := (BitVec.ofNat 64 (x.toNat * 65536)).setWidth 128 } ∧
    ((s.cur.rd a).tag = .cap →
      exec (.capclr d a) s = writes s d { tag := .data, body := ((s.cur.rd a).body.setWidth 64 : Word).setWidth 128 }) ∧
    ((s.cur.rd a).tag ≠ .cap → exec (.capclr d a) s = writes s d (s.cur.rd a))

/-- The integer instructions of majors 0x01-0x06 (R104-R111). -/
def Obligations.IntegerResults : Prop :=
  Sys2Proof.Claims.IntegerTwoSource ∧ Sys2Proof.Claims.IntegerOneSource

/-! # Compare-skip and jumps -/

namespace Sys2Proof.Claims
open Sys2Proof Sys2Proof.Machine

/-- Heads of the buffered line of a PC. -/
def headsAt (t : Thread) (pc : Word) : Nat :=
  match t.line pc with
  | some l => parcel l 0 % 32
  | none => 0

/-- The n-th sequential successor of a thread's PC over the lines in its buffer (R86). -/
def succN (t : Thread) : Nat → Word
  | 0 => t.pc
  | n + 1 => succPc (succN t n) (headsAt t (succN t n))

/-- The walk over annulled instructions may pass the head at a PC: its line is in the buffer, well formed, and within the
code capability (R114). -/
def passable (s : State) (t : Thread) (pc : Word) : Prop :=
  ∃ l, t.line pc = some l ∧ lineMalformed l = false ∧ lineAllowed t.code s.pkg s.curTile pc = true

/-- The current instruction retires and its thread goes on at pc with n annulments to make. -/
def skipsTo (s : State) (pc : Word) (n : Nat) : State :=
  s.setThr s.curTile s.curThr
    { s.cur with pc := pc, skip := n, retired := s.cur.retired + 1, served := [], retryBanks := [], walkEnds := [] }

/-- What a compare-skip of k does when its condition is c (R112, R114, R15): where c holds, n of the k annulments are made at
once; outside replay mode n is as many as the lines in the buffer allow, and in replay mode each takes a later slot. -/
def skips (s : State) (c : Prop) (k : Nat) (o : Host.Outcome State Fault Refusal) : Prop :=
  (¬c → o = .next (atRetire s s.cur)) ∧
  (c → ∃ n, n ≤ k ∧ o = .next (skipsTo s (succN s.cur (n + 1)) (k - n)) ∧
    (s.curT.replay = true → n = 0) ∧
    (s.curT.replay = false → (∀ j, j < n → passable s s.cur (succN s.cur (j + 1))) ∧
      (n < k → ¬passable s s.cur (succN s.cur (n + 1)))))

/-- The integer conditions of Table 4.3. -/
def integerCond (c : Cond) (x y : Word) : Prop :=
  match c with
  | .eq => x = y
  | .ne => x ≠ y
  | .lt => x.toInt < y.toInt
  | .ge => y.toInt ≤ x.toInt
  | .ltu => x.toNat < y.toNat
  | .geu => y.toNat ≤ x.toNat

/-- Class of a poisoned register: body [7:0]. -/
def classOf (r : GReg) : Nat := (r.body.extractLsb' 0 8).toNat

/-- Tag of a register as Table 2.1 numbers it. -/
def tagNumber (r : GReg) : Nat :=
  match r.tag with
  | .data => 0
  | .cap => 1
  | .poison => 2

/-- The thread that a jump leaves: at the target, its line asked for where it is neither buffered nor asked for (R14). -/
def jumps (s : State) (t : Thread) (target : Word) : State :=
  let line := target.toNat % 2 ^ 19 / 64 * 64
  s.setThr s.curTile s.curThr
    { t with
      pc := target, retired := t.retired + 1, served := [], retryBanks := [], walkEnds := [],
      wanted := if (t.fbuf.lookup line).isSome ∨ t.wanted.contains line then t.wanted else t.wanted ++ [line] }

/-- The line of a target lies within the bounds of a code capability that names the issuing tile (R116, Table 5.6). -/
def inLine (s : State) (code : Option Word) (target : Word) : Prop := lineAllowed code s.pkg s.curTile target = true

/-- The link of R118 for a code capability with upper half u: the capability with the sequential successor for its cursor,
or that address as data where it passes bit 18. -/
def linkReg (s : State) (u : Word) : GReg :=
  let next := succPc s.cur.pc (headsAt s.cur s.cur.pc)
  if next.toNat / 2 ^ 19 = s.cur.pc.toNat / 2 ^ 19 then { tag := .cap, body := u ++ next }
  else { tag := .data, body := next.setWidth 128 }

end Sys2Proof.Claims

open Sys2Proof Sys2Proof.Machine Sys2Proof.Claims in
/-- CMP, CMPI, TSTB, TSTG and FCMP (R112-R114, R138): a poisoned operand, A before B, traps "poison consumed in control"
with its class; otherwise the condition decides the skip. TSTG reads the tag alone and never traps. -/
def Obligations.CompareSkip : Prop :=
  ∀ (s : State) (k : Fin 4) (a b : GIx),
    let x := s.cur.rd a
    let y := s.cur.rd b
    (∀ c, (x.tag = .poison → exec (.cmp k c a b) s = s.trap 0x08 (classOf x)) ∧
      (x.tag ≠ .poison → y.tag = .poison → exec (.cmp k c a b) s = s.trap 0x08 (classOf y)) ∧
      (x.tag ≠ .poison → y.tag ≠ .poison → skips s (integerCond c x.low y.low) k (exec (.cmp k c a b) s))) ∧
    (∀ c m, (x.tag = .poison → exec (.cmpi k c a m) s = s.trap 0x08 (classOf x)) ∧
      (x.tag ≠ .poison → skips s (integerCond c x.low (imm m)) k (exec (.cmpi k c a m) s))) ∧
    (∀ ne n, (x.tag = .poison → exec (.tstb k ne a n) s = s.trap 0x08 (classOf x)) ∧
      (x.tag ≠ .poison → skips s (x.low.getLsbD n.val = ne) k (exec (.tstb k ne a n) s))) ∧
    (∀ ne t, skips s (if ne then tagNumber x ≠ t.val else tagNumber x = t.val) k (exec (.tstg k ne a t) s)) ∧
    (∀ c, (x.tag = .poison → exec (.fcmp k c a b) s = s.trap 0x08 (classOf x)) ∧
      (x.tag ≠ .poison → y.tag = .poison → exec (.fcmp k c a b) s = s.trap 0x08 (classOf y)) ∧
      (x.tag ≠ .poison → y.tag ≠ .poison →
        skips s (fmtF32.cmp c (x.low.toNat % 2 ^ 32) (y.low.toNat % 2 ^ 32) = true) k (exec (.fcmp k c a b) s)))

open Sys2Proof Sys2Proof.Machine Sys2Proof.Claims in
/-- J and JL (R116, R118): the target is the line offset from the jump's own line and the head index; a line outside the code
capability traps "bounds" at the jump with the line's address; JL alone writes g15, with the link. -/
def Sys2Proof.Claims.JumpByLine : Prop :=
  ∀ (s : State) (off : BitVec 15) (h : Fin 32) (u : Word),
    s.cur.code = some u → inLine s (some u) s.cur.pc →
    let target : Word := (s.cur.pc.extractLsb' 6 58 + off.signExtend 58) ++ (BitVec.ofNat 5 h.val) ++ (0 : BitVec 1)
    (inLine s (some u) target →
      exec (.j off h) s = .next (jumps s s.cur target) ∧
      exec (.jl off h) s = .next (jumps s (s.cur.wr 15 (linkReg s u)) target)) ∧
    (¬inLine s (some u) target →
      exec (.j off h) s = s.trap 0x06 (target.toNat / 64 * 64) ∧
      exec (.jl off h) s = s.trap 0x06 (target.toNat / 64 * 64))

open Sys2Proof Sys2Proof.Machine Sys2Proof.Claims in
/-- JR and JLR (R117, R118, Table 5.6), on a thread whose own line its code capability covers: each check in its order with its trap, and the
jump, which takes the capability in gA for the code capability. gA is read before g15 is written. -/
def Sys2Proof.Claims.JumpByRegister : Prop :=
  ∀ (s : State) (a : GIx) (u : Word) (o : Host.Outcome State Fault Refusal),
    s.cur.code = some u → inLine s (some u) s.cur.pc →
    let r := s.cur.rd a
    let target := r.low
    let misaligned := target.toNat % 2 = 1 ∨ target.toNat / 2 % 32 = 0
    (o = exec (.jr a) s ∨ o = exec (.jlr a) s) →
    (r.tag = .poison → o = s.trap 0x08 (classOf r)) ∧
    (r.tag = .cap →
      (r.upper.getLsbD 58 = false → o = s.trap 0x05 target.toNat) ∧
      (r.upper.getLsbD 58 = true →
        (r.namesTile s.pkg s.curTile = false → o = s.trap 0x05 target.toNat) ∧
        (r.namesTile s.pkg s.curTile = true →
          (misaligned → o = s.trap 0x07 target.toNat) ∧
          (¬misaligned → ¬inLine s (some r.upper) target → o = s.trap 0x06 (target.toNat / 64 * 64)) ∧
          (¬misaligned → inLine s (some r.upper) target →
            exec (.jr a) s = .next (jumps s { s.cur with code := some r.upper } target) ∧
            exec (.jlr a) s = .next (jumps s { s.cur.wr 15 (linkReg s u) with code := some r.upper } target))))) ∧
    (r.tag = .data →
      (misaligned → o = s.trap 0x07 target.toNat) ∧
      (¬misaligned → ¬(target.toNat / 2 ^ 19 = s.cur.pc.toNat / 2 ^ 19 ∧ inLine s (some u) target) →
        o = s.trap 0x06 (target.toNat / 64 * 64)) ∧
      (¬misaligned → target.toNat / 2 ^ 19 = s.cur.pc.toNat / 2 ^ 19 → inLine s (some u) target →
        exec (.jr a) s = .next (jumps s s.cur target) ∧
        exec (.jlr a) s = .next (jumps s (s.cur.wr 15 (linkReg s u)) target)))

/-- J, JL, JR and JLR (R115-R119). -/
def Obligations.Jumps : Prop :=
  Sys2Proof.Claims.JumpByLine ∧ Sys2Proof.Claims.JumpByRegister

/-! # Capability instructions -/

namespace Sys2Proof.Claims
open Sys2Proof Sys2Proof.Machine

/-- SPACE of the cursor (Table 2.6) and W (R51, R56). -/
def space (r : GReg) : Nat := (r.body.extractLsb' 44 2).toNat
def wovenCap (r : GReg) : Bool := r.body.getLsbD 127
/-- Kinds of a capability (R49). -/
def isTile (r : GReg) : Bool := !wovenCap r && space r == 0
def isMmio (r : GReg) : Bool := !wovenCap r && space r == 2
/-- Width of the movable field (R54). -/
def movable (r : GReg) : Nat := if wovenCap r then 40 else if space r = 0 then 19 else 44
/-- Width of the part of a plain cursor that a displacement is added to (R55; log 32). -/
def reachWidth (r : GReg) : Nat := if space r = 0 then 32 else 44
/-- A field of the body by its low bit and width, and of a word. -/
def field (r : GReg) (lo w : Nat) : Nat := (r.body.extractLsb' lo w).toNat
def wfield (x : Word) (lo w : Nat) : Nat := (x.extractLsb' lo w).toNat

/-- The capability with another cursor (R54). -/
def moved (r : GReg) (c : Word) : GReg :=
  if c.toNat / 2 ^ movable r = r.low.toNat / 2 ^ movable r then { tag := .cap, body := r.upper ++ c }
  else { tag := .data, body := c.setWidth 128 }

/-- Base and length of a capability (Tables 2.7, 2.8, R52). -/
def baseLen (r : GReg) : Nat × Nat :=
  if wovenCap r then (32 * field r 78 14, 32 * (field r 64 14 + 1))
  else if space r = 0 then (field r 98 19, field r 78 20)
  else (64 * field r 79 38, field r 64 11 * 2 ^ (2 * field r 75 4 + 6))

/-- The checks of R120 in their order around an instruction that passes them: gA data; gA or another operand poisoned; MMIO
in user mode; GR missing. -/
def guarded (s : State) (a : GIx) (others : List GIx) (mmio gr : Bool) (go : Host.Outcome State Fault Refusal) :
    Host.Outcome State Fault Refusal :=
  let r := s.cur.rd a
  match r.tag with
  | .data => s.trap 0x04 a.val
  | .poison => s.trap 0x08 (classOf r)
  | .cap =>
    match (others.map s.cur.rd).find? (fun x => x.tag = .poison) with
    | some x => s.trap 0x08 (classOf x)
    | none =>
      if mmio ∧ isMmio r ∧ s.cur.priv = false then s.trap 0x03 s.headTail
      else if gr ∧ r.body.getLsbD 126 = false then s.trap 0x05 r.low.toNat
      else go

/-- Table 5.8. -/
def selected (r : GReg) : CapSel → Word
  | .cursor => r.low
  | .base => .ofNat 64 (baseLen r).1
  | .length => .ofNat 64 (baseLen r).2
  | .perm => .ofNat 64 (field r 117 10)
  | .w => if wovenCap r then 1 else 0
  | .upper => r.upper

/-- CAPPRM: PERM, body [126:117], loses the bits that b[9:0] lacks, and nothing else changes (R125). -/
def permKept (r q : GReg) (b : Word) : Prop :=
  q.tag = .cap ∧ ∀ i, i < 128 → q.body.getLsbD i =
    (r.body.getLsbD i && (decide (i < 117 ∨ 126 < i) || b.getLsbD (i - 117)))

/-- CAPBND on a tile capability (R124): PERM and cursor kept, BASE the offset, LEN b, every other bit of the upper half 0. -/
def tileBounded (r q : GReg) (len : Nat) : Prop :=
  q.tag = .cap ∧ q.low = r.low ∧ wovenCap q = false ∧ field q 117 10 = field r 117 10 ∧
  field q 98 19 = r.low.toNat % 2 ^ 19 ∧ field q 78 20 = len ∧ field q 64 14 = 0

/-- CAPBND on an HBM or MMIO capability (R52, R53, R124): the bounds rounded inward to 64 bytes and to what MANT and the
smallest EXP express; the cursor at the new base; PERM kept. -/
def plainBounded (r q : GReg) (len : Nat) : Prop :=
  let o := r.low.toNat % 2 ^ 44
  let b := (o + 63) / 64 * 64
  let n := o + len - b
  q.tag = .cap ∧ q.low.toNat = r.low.toNat / 2 ^ 44 * 2 ^ 44 + b ∧ wovenCap q = false ∧ field q 117 10 = field r 117 10 ∧
  64 * field q 79 38 = b ∧
  (let e := field q 75 4
   field q 64 11 = n / 2 ^ (2 * e + 6) ∧ n / 2 ^ (2 * e + 6) ≤ 2047 ∧ ∀ e', e' < e → 2047 < n / 2 ^ (2 * e' + 6))

/-- The bounds test of CAPWV (R127): rectangle on the mesh, window in the scratchpad, and within what gA grants. -/
def weaveFits (r : GReg) (b c : Word) : Prop :=
  let x0 := wfield b 0 6
  let y0 := wfield b 8 6
  let w := wfield b 16 6 + 1
  let h := wfield b 24 6 + 1
  let lo := 32 * wfield c 0 14
  let hi := 32 * (wfield c 0 14 + wfield c 16 14 + 1)
  x0 + w ≤ 64 ∧ y0 + h ≤ 64 ∧ hi ≤ 0x80000 ∧ (baseLen r).1 ≤ lo ∧ hi ≤ (baseLen r).1 + (baseLen r).2 ∧
  (wovenCap r = true →
    field r 52 6 ≤ x0 ∧ field r 58 6 ≤ y0 ∧ x0 + w ≤ field r 52 6 + field r 102 6 + 1 ∧
    y0 + h ≤ field r 58 6 + field r 96 6 + 1)

/-- The woven capability of R127. -/
def woven (r q : GReg) (b c : Word) : Prop :=
  q.tag = .cap ∧ wovenCap q = true ∧ (∀ i, i < 10 → q.body.getLsbD (117 + i) = (r.body.getLsbD (117 + i) && c.getLsbD (32 + i))) ∧
  field q 108 9 = 0 ∧ field q 102 6 = wfield b 16 6 ∧ field q 96 6 = wfield b 24 6 ∧ field q 92 4 = wfield b 32 4 ∧
  field q 78 14 = wfield c 0 14 ∧ field q 64 14 = wfield c 16 14 ∧
  field q 58 6 = wfield b 8 6 ∧ field q 52 6 = wfield b 0 6 ∧ field q 0 52 = 0

/-- Every byte of [offset, offset + n) lies within the bounds of a plain capability. -/
def inBounds (r : GReg) (n : Nat) : Prop :=
  let o := r.low.toNat % 2 ^ movable r
  (baseLen r).1 ≤ o ∧ o + n ≤ (baseLen r).1 + (baseLen r).2

/-- The same as an access tests it, for which a tile cursor with bit 19 set lies beyond every bound below 0x8_0000 (R55, log 32). -/
def inReach (r : GReg) (n : Nat) : Prop :=
  let o := r.low.toNat % 2 ^ reachWidth r
  (baseLen r).1 ≤ o ∧ o + n ≤ (baseLen r).1 + (baseLen r).2

end Sys2Proof.Claims

open Sys2Proof Sys2Proof.Machine Sys2Proof.Claims in
/-- CAPGET, CAPSET, CAPADD, CAPPRM (R54, R120-R123, R125): each check of R120 in order with its trap; then the field selected,
the cursor moved, or the rights removed, in gD. -/
def Sys2Proof.Claims.CapabilityFieldsAndCursors : Prop :=
  ∀ (s : State) (d a b : GIx),
    let r := s.cur.rd a
    let y := (s.cur.rd b).low
    (∀ sel, exec (.capget d a sel) s =
      guarded s a [] false false (writes s d { tag := .data, body := (selected r sel).setWidth 128 })) ∧
    exec (.capset d a b) s = guarded s a [b] true false (writes s d (moved r y)) ∧
    exec (.capadd d a b) s = guarded s a [b] true false (writes s d (moved r (.ofNat 64 (r.low.toNat + y.toNat)))) ∧
    ∃ q, permKept r q y ∧ exec (.capprm d a b) s = guarded s a [b] true true (writes s d q)

open Sys2Proof Sys2Proof.Machine Sys2Proof.Claims in
/-- CAPBND (R52, R53, R120, R124), for a capability whose bounds end at or below 2^44, as R52 has it: a woven one traps
"permission", bounds that gA does not hold trap "bounds", and the result narrows to the request, exactly on a tile and
rounded inward elsewhere. A base above 2^44 - 64, which no HBASE reaches, leaves the base open (log 22). -/
def Sys2Proof.Claims.CapabilityNarrowing : Prop :=
  ∀ (s : State) (d a b : GIx),
    let r := s.cur.rd a
    let len := (s.cur.rd b).low.toNat
    r.low.toNat % 2 ^ movable r ≤ 2 ^ 44 - 64 → (baseLen r).1 + (baseLen r).2 ≤ 2 ^ 44 →
    ∃ q, (wovenCap r = false → inBounds r len → if isTile r then tileBounded r q len else plainBounded r q len) ∧
      (wovenCap r = true → exec (.capbnd d a b) s = guarded s a [b] true true (s.trap 0x05 r.low.toNat)) ∧
      (wovenCap r = false → ¬inBounds r len → exec (.capbnd d a b) s = guarded s a [b] true true (s.trap 0x06 r.low.toNat)) ∧
      (wovenCap r = false → inBounds r len → exec (.capbnd d a b) s = guarded s a [b] true true (writes s d q))

open Sys2Proof Sys2Proof.Machine Sys2Proof.Claims in
/-- CAPWV (R120, R127): gA must be a plain tile or woven capability; the geometry and the window must fit what it grants; the
result is the woven capability with both rights masks, and index 0. -/
def Sys2Proof.Claims.CapabilityWeaving : Prop :=
  ∀ (s : State) (d a b c : GIx),
    let r := s.cur.rd a
    let y := (s.cur.rd b).low
    let z := (s.cur.rd c).low
    (isTile r = false → wovenCap r = false →
      exec (.capwv d a b c) s = guarded s a [b, c] false true (s.trap 0x05 r.low.toNat)) ∧
    (isTile r = true ∨ wovenCap r = true →
      (¬weaveFits r y z → exec (.capwv d a b c) s = guarded s a [b, c] false true (s.trap 0x06 r.low.toNat)) ∧
      (weaveFits r y z → ∃ q, woven r q y z ∧ exec (.capwv d a b c) s = guarded s a [b, c] false true (writes s d q)))

open Sys2Proof Sys2Proof.Machine Sys2Proof.Claims in
/-- CAPCHK (R128, Table 5.11): gD receives the code of the first test that fails, and no trap is taken. The bounds test of a
plain capability is stated in full; that of a woven one by the map of R10 and R57. -/
def Sys2Proof.Claims.CapabilityCheckCode : Prop :=
  ∀ (s : State) (d a b : GIx) (need : BitVec 10),
    let r := s.cur.rd a
    let n := (s.cur.rd b).low.toNat
    let gives := fun (k : Nat) => exec (.capchk d a b need) s = writes s d { tag := .data, body := BitVec.ofNat 128 k }
    (r.tag = .data → gives 1) ∧
    (r.tag = .poison ∨ (r.tag = .cap ∧ (s.cur.rd b).tag = .poison) → gives 2) ∧
    (r.tag = .cap → (s.cur.rd b).tag ≠ .poison →
      ((∃ i, i < 10 ∧ need.getLsbD i = true ∧ r.body.getLsbD (117 + i) = false) → gives 3) ∧
      ((∀ i, i < 10 → need.getLsbD i = true → r.body.getLsbD (117 + i) = true) →
        (isMmio r = true ∧ s.cur.priv = false → gives 4) ∧
        (¬(isMmio r = true ∧ s.cur.priv = false) →
          (n = 0 → gives 0) ∧
          (0 < n → wovenCap r = false → inReach r n → gives 0) ∧
          (0 < n → wovenCap r = false → ¬inReach r n → gives 5) ∧
          (0 < n → wovenCap r = true →
            (r.reach s.pkg 0 n = .bounds → gives 5) ∧ (r.reach s.pkg 0 n = .crosses → gives 6) ∧
            (∀ g, r.reach s.pkg 0 n = .ok g → gives 0)))))

/-- Capabilities read, moved, restricted and tested (R120-R123, R125, R126, R128). -/
def Obligations.CapabilityRegisters : Prop :=
  Sys2Proof.Claims.CapabilityFieldsAndCursors ∧ Sys2Proof.Claims.CapabilityCheckCode

/-- Capabilities derived with other bounds (R52, R53, R120, R124, R127). EVAL of their kind, permission and bounds traps is gA's cursor, the
model's choice (log 87). -/
def Obligations.CapabilityBounds : Prop :=
  Sys2Proof.Claims.CapabilityNarrowing ∧ Sys2Proof.Claims.CapabilityWeaving

/-! # Scalar float instructions and rounding -/

namespace Sys2Proof.Claims
open Sys2Proof Sys2Proof.Machine

/-- The F32 operand: body [31:0] (R131). -/
def f32 (r : GReg) : Nat := (r.body.extractLsb' 0 32).toNat

/-- Data with a result in its low bits (R131). -/
def low (n : Nat) : Word := BitVec.ofNat 64 n

/-- What gD receives of an operation on three registers. -/
def ternary (s : State) (a b c : GIx) (v : Word) : GReg :=
  if (s.cur.rd a).tag = .poison then s.cur.rd a else binary s b c v

/-- The value of magnitude code c in units of the format's smallest subnormal (Tables 3.2, 3.3). -/
def magValue (mb c : Nat) : Nat := if c < 2 ^ mb then c else (2 ^ mb + c % 2 ^ mb) * 2 ^ (c / 2 ^ mb - 1)

/-- The formats of Table 3.2. -/
def formats : List Fmt := [fmtF32, fmtF16, fmtBF16, fmtE4M3, fmtE5M2, fmtE3M2, fmtE2M3, fmtE2M1]

/-- A NaN and its canonical form in F32 (Table 3.3, R64). -/
def isNan32 (x : Nat) : Prop := 0x7F800000 < x % 2 ^ 31

/-- The bit of Table 6.3 for an F32 code: negative classes 0-3 from infinity to zero, positive 4-7, NaN 8. -/
def class32 (x : Nat) : Nat :=
  let m := x % 2 ^ 31
  let k := if m = 0 then 0 else if m < 0x800000 then 1 else if m < 0x7F800000 then 2 else 3
  if 0x7F800000 < m then 8 else if 2 ^ 31 ≤ x then 3 - k else 4 + k

end Sys2Proof.Claims

open Sys2Proof Sys2Proof.Machine Sys2Proof.Claims in
/-- Rounding a rational of magnitude n / d > 0 and sign neg to a magnitude code (R68 steps 4 and 6, R77, Table 3.4), in every mode and each
format of Table 3.2. With N / d the magnitude in units of the smallest subnormal: RZ, RUP of a negative and RDN of a positive value take the last
code not above it, RUP of a positive and RDN of a negative value the first not below it, RNE the nearest, the even code in a tie, and
SR the code nearer to zero or the next, as the first 32 bits of the fraction between them and the draw q give. Overflow, flushing and the sign of the code are
left out. -/
def Obligations.RoundingIsNearestOrDirected : Prop :=
  ∀ f ∈ formats, ∀ (neg : Bool) (n d q : Nat), 0 < n → 0 < d →
    let V := magValue f.mb
    let N := n * 2 ^ (f.bias + f.mb - 1)
    (∀ m, m = .rz ∨ (m = .rup ∧ neg = true) ∨ (m = .rdn ∧ neg = false) →
      let c := f.roundMag m neg q n d
      V c * d ≤ N ∧ N < V (c + 1) * d) ∧
    (∀ m, (m = .rup ∧ neg = false) ∨ (m = .rdn ∧ neg = true) →
      let c := f.roundMag m neg q n d
      N ≤ V c * d ∧ ∀ b, b < c → V b * d < N) ∧
    (let c := f.roundMag .rne neg q n d
     (2 * N < (V c + V (c + 1)) * d ∨ (2 * N = (V c + V (c + 1)) * d ∧ c % 2 = 0)) ∧
     (c = 0 ∨ (V (c - 1) + V c) * d < 2 * N ∨ ((V (c - 1) + V c) * d = 2 * N ∧ c % 2 = 0))) ∧
    (∀ c, V c * d ≤ N → N < V (c + 1) * d →
      let fraction := (N - V c * d) * 2 ^ 32 / ((V (c + 1) - V c) * d)
      f.roundMag .sr neg q n d = if fraction + q < 2 ^ 32 then c else c + 1)

open Sys2Proof Sys2Proof.Machine Sys2Proof.Claims in
/-- FADD, FSUB, FMUL, FFMA, FDIV, FSQRT (R131-R133, R76, R78): the exact result of the F32 values, with the special cases of
Table 6.2, rounded once in the instruction's mode; FMIN and FMAX (R134). A poisoned operand, A before B before C, passes
through. -/
def Sys2Proof.Claims.ScalarFloatArithmetic : Prop :=
  ∀ (s : State) (rm : Rm) (d a b c : GIx),
    let x := f32 (s.cur.rd a)
    let y := f32 (s.cur.rd b)
    let z := f32 (s.cur.rd c)
    let r := s.srnd rm
    let rd := fmtF32.read
    let gives := fun (i : Instr) (v : Nat) => exec i s = writes s d (binary s a b (low v))
    gives (.fadd rm d a b) (fmtF32.round r (fsum r.mode [rd x, rd y]).exact) ∧
    gives (.fsub rm d a b) (fmtF32.round r (fsum r.mode [rd x, (rd y).neg]).exact) ∧
    gives (.fmul rm d a b) (fmtF32.round r (fmulVal (rd x) (rd y)).exact) ∧
    gives (.fdiv rm d a b) (fmtF32.round r (fdivVal (rd x) (rd y))) ∧
    gives (.fmin d a b) (fmtF32.minMax false x y) ∧
    gives (.fmax d a b) (fmtF32.minMax true x y) ∧
    exec (.ffma rm d a b c) s =
      writes s d (ternary s a b c (low (fmtF32.round r (fsum r.mode [fmulVal (rd x) (rd y), rd z]).exact))) ∧
    exec (.fsqrt rm d a) s = writes s d (unary s a (low (fmtF32.sqrt r (rd x)))) ∧
    r.ovf = s.cur.ovf ∧ r.ftz = false ∧ (rm ≠ .dyn → r.mode = rm) ∧
    (r.mode = .sr → r.q = srDraw s.cur.seed s.cur.retired 0)

open Sys2Proof Sys2Proof.Machine Sys2Proof.Claims in
/-- FABS, FNEG, FCLASS (R135, R136, Table 6.3), bit for bit, and FCVT (R137, Table 6.4): the source's own low bits converted,
a signed integer result sign-extended to 64 bits, any other zero-extended. A poisoned gA passes through. -/
def Sys2Proof.Claims.ScalarFloatCodes : Prop :=
  ∀ (s : State) (d a : GIx),
    let x := f32 (s.cur.rd a)
    let gives := fun (i : Instr) (v : Word) => exec i s = writes s d (unary s a v)
    (isNan32 x → gives (.fabs d a) 0x7FC00000 ∧ gives (.fneg d a) 0x7FC00000) ∧
    (¬isNan32 x → gives (.fabs d a) (low (x % 2 ^ 31)) ∧ gives (.fneg d a) (low (x ^^^ 2 ^ 31))) ∧
    gives (.fclass d a) (low (2 ^ class32 x)) ∧
    (∀ src dst rm, !(src.isInt && dst.isInt) →
      let code := convert src dst (s.srnd rm) ((s.cur.rd a).low.toNat % 2 ^ tyBits src)
      (dst = .i8 ∨ dst = .i32 ∨ dst = .i64 →
        gives (.fcvt src dst rm d a) (((BitVec.ofNat (tyBits dst) code).signExtend 64))) ∧
      (dst ≠ .i8 → dst ≠ .i32 → dst ≠ .i64 → gives (.fcvt src dst rm d a) (low (code % 2 ^ tyBits dst))))

/-- The scalar float instructions (R131-R137). -/
def Obligations.ScalarFloat : Prop :=
  Sys2Proof.Claims.ScalarFloatArithmetic ∧ Sys2Proof.Claims.ScalarFloatCodes

/-! # Vector and mask instructions -/

namespace Sys2Proof.Claims
open Sys2Proof Sys2Proof.Machine

/-- Element e of width w of a v register, and the poison bit of lane j (R44). -/
def vElt (v : VReg) (w e : Nat) : Nat := (v.val.extractLsb' (w * e) w).toNat
def vBad (v : VReg) (j : Nat) : Bool := v.pmask.getLsbD j

/-- Element e of a source field at width w: of the v register, or the low w bits of the broadcast register (R45, R139). -/
def srcElt (s : State) (w : Nat) (a : GIx) (e : Nat) : Nat :=
  if a.val < 8 then vElt (s.cur.rv (vReg a.val)) w e else (s.cur.rd a).low.toNat % 2 ^ w

/-- Class of lane j of a source field, where it is poisoned (R44, R45). -/
def srcBad (s : State) (a : GIx) (j : Nat) : Option Nat :=
  if a.val < 8 then (if vBad (s.cur.rv (vReg a.val)) j then some (vElt (s.cur.rv (vReg a.val)) 32 j % 256) else none)
  else if (s.cur.rd a).tag = .poison then some (classOf (s.cur.rd a)) else none

/-- Lane j of one register is lane k of another, bits and poison. -/
def sameLane (q v : VReg) (j : Nat) : Prop := vElt q 32 j = vElt v 32 j ∧ vBad q j = vBad v j

/-- Lane j is poisoned with a class: the class in bits [7:0], the lane's other bits zero (R140). -/
def poisonedLane (q : VReg) (j c : Nat) : Prop := vElt q 32 j = c ∧ vBad q j = true

/-- Bit j of the mask register: lane j is active (R139). -/
def laneActive (s : State) (k : KIx) (j : Nat) : Prop := (s.cur.rk k).getLsbD j = true

/-- A destination written lane by lane (R139, R140): an inactive lane is kept, a lane with a poisoned source takes the class
of the first, and any other lane takes its computed elements, clean. -/
def elementwise (s : State) (k : KIx) (d : VIx) (w : Nat) (srcs : List GIx) (q : VReg) (f : Nat → Nat) : Prop :=
  ∀ j, j < 16 →
    (¬laneActive s k j → sameLane q (s.cur.rv d) j) ∧
    (laneActive s k j → ∀ c, (srcs.filterMap fun a => srcBad s a j).head? = some c → poisonedLane q j c) ∧
    (laneActive s k j → (∀ a ∈ srcs, srcBad s a j = none) →
      vBad q j = false ∧ ∀ e, e * w / 32 = j → vElt q w e = f e % 2 ^ w)

/-- The instruction retires with vD holding some register that meets a condition. -/
def givesV (s : State) (d : VIx) (i : Instr) (p : VReg → Prop) : Prop :=
  ∃ q, p q ∧ exec i s = .next (atRetire s (s.cur.wv d q))

/-- A source element as a value of the type, flushed under FTZ (R74). -/
def fval (s : State) (ty : ElemTy) (a : GIx) (e : Nat) : FVal := s.fin ty (srcElt s ty.width a e)

/-- A source element's code, flushed under FTZ. -/
def fcode (s : State) (ty : ElemTy) (a : GIx) (e : Nat) : Nat := (fmtOf ty).flushIn s.cur.ftz (srcElt s ty.width a e)

/-- An element with its type's signedness. -/
def ival (ty : ElemTy) (c : Nat) : Int :=
  if ty = .i8 ∨ ty = .i32 then (BitVec.ofNat ty.width c).toInt else (c : Int)

/-- The conditions of VCMP on integer elements (Table 4.3, R150). -/
def elementCond (ty : ElemTy) (c : Cond) (x y : Nat) : Prop :=
  match c with
  | .eq => x = y
  | .ne => x ≠ y
  | .lt => ival ty x < ival ty y
  | .ge => ival ty y ≤ ival ty x
  | .ltu => x < y
  | .geu => y ≤ x

/-- Element i of the wider type in part p of a conversion: destination and source elements (R145). -/
def cvtDst (ws wd p i : Nat) : Nat := if wd < ws then p * (512 / ws) + i else i
def cvtSrc (ws wd p i : Nat) : Nat := if ws < wd then p * (512 / wd) + i else i

end Sys2Proof.Claims

open Sys2Proof Sys2Proof.Machine Sys2Proof.Claims in
/-- Vector integer arithmetic, logic and shifts (R139, R140, R149, Table 6.7), in every allowed type: each element of each
active lane exactly, modulo 2^w; inactive lanes kept; poison by lane. -/
def Sys2Proof.Claims.VectorInteger : Prop :=
  ∀ (s : State) (ty : ElemTy) (k : KIx) (d : VIx) (a b : GIx), ty.isI = true →
    let w := ty.width
    let x := srcElt s w a
    let y := srcElt s w b
    let gives := fun (i : Instr) (f : Nat → Nat) => givesV s d i fun q => elementwise s k d w [a, b] q f
    gives (.viadd ty k d a b) (fun e => x e + y e) ∧
    gives (.visub ty k d a b) (fun e => (BitVec.ofInt w ((x e : Int) - y e)).toNat) ∧
    gives (.vimul ty k d a b) (fun e => x e * y e) ∧
    gives (.vand ty k d a b) (fun e => x e &&& y e) ∧
    gives (.vor ty k d a b) (fun e => x e ||| y e) ∧
    gives (.vxor ty k d a b) (fun e => x e ^^^ y e) ∧
    gives (.vshl ty k d a b) (fun e => x e * 2 ^ (y e % w)) ∧
    gives (.vshr ty k d a b) (fun e => x e / 2 ^ (y e % w)) ∧
    (ty = .i8 ∨ ty = .i32 →
      gives (.vsra ty k d a b) (fun e => ((BitVec.ofNat w (x e)).sshiftRight (y e % w)).toNat))

open Sys2Proof Sys2Proof.Machine Sys2Proof.Claims in
/-- Element-wise vector float (R74, R140, R141, R143, R144): exact results of the elements' values, rounded once per element
at that element's index; minimum, maximum and sign changes choose or change codes. -/
def Sys2Proof.Claims.VectorFloat : Prop :=
  ∀ (s : State) (ty : ElemTy) (rm : Rm) (k : KIx) (d : VIx) (a b c : GIx), ty.isF = true →
    let f := fmtOf ty
    let x := fval s ty a
    let y := fval s ty b
    let r := s.vrnd rm
    let gives := fun (i : Instr) (srcs : List GIx) (g : Nat → Nat) =>
      givesV s d i fun q => elementwise s k d ty.width srcs q g
    gives (.vadd ty rm k d a b) [a, b] (fun e => f.round (r e) (fsum (r e).mode [x e, y e]).exact) ∧
    gives (.vsub ty rm k d a b) [a, b] (fun e => f.round (r e) (fsum (r e).mode [x e, (y e).neg]).exact) ∧
    gives (.vmul ty rm k d a b) [a, b] (fun e => f.round (r e) (fmulVal (x e) (y e)).exact) ∧
    gives (.vfma ty rm k d a b c) [a, b, c]
      (fun e => f.round (r e) (fsum (r e).mode [fmulVal (x e) (y e), fval s ty c e]).exact) ∧
    gives (.vmin ty k d a b) [a, b] (fun e => f.minMax false (fcode s ty a e) (fcode s ty b e)) ∧
    gives (.vmax ty k d a b) [a, b] (fun e => f.minMax true (fcode s ty a e) (fcode s ty b e)) ∧
    gives (.vabs ty k d a) [a] (fun e => f.absCode (fcode s ty a e)) ∧
    gives (.vneg ty k d a) [a] (fun e => f.negCode (fcode s ty a e)) ∧
    gives (.vrcp ty rm k d a) [a] (fun e => f.recip (r e) (x e)) ∧
    gives (.vrsq ty rm k d a) [a] (fun e => f.rsqrt (r e) (x e)) ∧
    gives (.vexp2 ty rm k d a) [a] (fun e => f.exp2 (r e) (x e)) ∧
    gives (.vlog2 ty rm k d a) [a] (fun e => f.log2 (r e) (x e)) ∧
    (∀ e, (r e).ftz = s.cur.ftz ∧ (r e).ovf = s.cur.ovf ∧
      ((r e).mode = .sr → (r e).q = srDraw s.cur.seed s.cur.retired e))

open Sys2Proof Sys2Proof.Machine Sys2Proof.Claims in
/-- VDOT, VSUM and VRMAX (R79, R140, R147, R148): the exact dot product of a lane with its addend, rounded once or wrapped; the
pairwise tree over the elements, an inactive one entering as minus zero or minus infinity, its root in element 0 with every
other element zero, or lane 0 poisoned with the class of the lowest poisoned active lane. -/
def Sys2Proof.Claims.VectorReductions : Prop :=
  ∀ (s : State) (ty : ElemTy) (rm : Rm) (k : KIx) (d : VIx) (a b c : GIx),
    let w := ty.width
    let m := 32 / w
    let f := fmtOf ty
    let x := srcElt s w a
    let y := srcElt s w b
    let n := 512 / w
    let inLane := fun (e : Nat) => (s.cur.rk k).getLsbD (e * w / 32)
    let r := s.vrnd rm
    (ty.isF = true →
      givesV s d (.vdot ty rm k d a b c) (fun q => elementwise s k d 32 [a, b, c] q fun j =>
        fmtF32.round (r j) (fsum (r j).mode
          (((List.range m).map fun i => fmulVal (fval s ty a (m * j + i)) (fval s ty b (m * j + i))) ++ [fval s .f32 c j])).exact)) ∧
    (ty = .i8 ∨ ty = .n8 →
      givesV s d (.vdot ty rm k d a b c) (fun q => elementwise s k d 32 [a, b, c] q fun j =>
        (BitVec.ofInt 32 (((BitVec.ofNat 32 (srcElt s 32 c j)).toInt) +
          ((List.range 4).map fun i => ival ty (x (4 * j + i)) * ival ty (y (4 * j + i))).sum)).toNat)) ∧
    (ty.isF = true → ∀ (i : Instr) (excluded : Nat) (node : Nat → Nat → Nat → Nat),
      (i = .vsum ty rm k d a ∧ excluded = 2 ^ (w - 1) ∧
        node = (fun e u v => f.round (r e) (fsum (r e).mode [f.read u, f.read v]).exact)) ∨
      (i = .vrmax ty k d a ∧ excluded = 2 ^ (w - 1) + f.infc.getD 0 ∧ node = (fun _ u v => f.minMax true u v)) →
      givesV s d i fun q =>
        (∀ j cl, j < 16 → laneActive s k j → srcBad s a j = some cl →
          (∀ j', j' < j → laneActive s k j' → srcBad s a j' = none) →
          poisonedLane q 0 cl ∧ ∀ j', 0 < j' → j' < 16 → vElt q 32 j' = 0 ∧ vBad q j' = false) ∧
        ((∀ j, j < 16 → laneActive s k j → srcBad s a j = none) →
          q.pmask = 0 ∧
          q.val.toNat = treeRoot node (Nat.log2 n) 0
            ((List.range n).map fun e => if inLane e then fcode s ty a e else excluded) % 2 ^ 32))

open Sys2Proof Sys2Proof.Machine Sys2Proof.Claims in
/-- VCVT between element types (R145): the elements of part p whose lane is active are converted, every other element of the
narrower register is kept; a lane that receives an element is poisoned by the lowest poisoned source lane, stays poisoned where
it was and is not wholly written, and is clean otherwise. -/
def Sys2Proof.Claims.VectorConversion : Prop :=
  ∀ (s : State) (src dst : ElemTy) (rm : Rm) (k : KIx) (p : Fin 4) (d : VIx) (a : GIx),
    (Instr.vcvt src dst rm k p d a).wf = true →
    let ws := src.width
    let wd := dst.width
    let w := max ws wd
    let n := 512 / w
    let old := s.cur.rv d
    let active := fun (i : Nat) => i < n ∧ laneActive s k (i * w / 32)
    let dl := fun (i : Nat) => cvtDst ws wd p i * wd / 32
    let sl := fun (i : Nat) => cvtSrc ws wd p i * ws / 32
    givesV s d (.vcvt src dst rm k p d a) fun q => ∀ j, j < 16 →
      ((∀ i, active i → dl i ≠ j) → sameLane q old j) ∧
      (∀ i c, active i → dl i = j → srcBad s a (sl i) = some c →
        (∀ i', active i' → dl i' = j → srcBad s a (sl i') ≠ none → sl i ≤ sl i') → poisonedLane q j c) ∧
      ((∃ i, active i ∧ dl i = j) → (∀ i, active i → dl i = j → srcBad s a (sl i) = none) →
        (vBad old j = true → (∃ e, e * wd / 32 = j ∧ ∀ i, active i → cvtDst ws wd p i ≠ e) → sameLane q old j) ∧
        (vBad old j = false ∨ (∀ e, e * wd / 32 = j → ∃ i, active i ∧ cvtDst ws wd p i = e) →
          vBad q j = false ∧
          (∀ i, active i → dl i = j → vElt q wd (cvtDst ws wd p i) =
            convert src dst (s.vrnd rm (cvtDst ws wd p i)) (srcElt s ws a (cvtSrc ws wd p i) % 2 ^ tyBits src) % 2 ^ wd) ∧
          (∀ e, e * wd / 32 = j → (∀ i, active i → cvtDst ws wd p i ≠ e) → vElt q wd e = vElt old wd e)))

open Sys2Proof Sys2Proof.Machine Sys2Proof.Claims in
/-- VCVT with .MX (R71, R146): an encoded block has its element codes in bytes 0-31, the scale code in byte 32 and zero above; a
decoded block has each element times 2^(X - 127), rounded. A poisoned lane among those read poisons every lane of vD. -/
def Sys2Proof.Claims.VectorBlockConversion : Prop :=
  ∀ (s : State) (src dst : ElemTy) (rm : Rm) (p : Fin 4) (d : VIx) (a b : GIx),
    (Instr.vcvtMx src dst rm p d a b).wf = true →
    let reads := if src.isF then (List.range 16).map (srcBad s a) ++ (if src = .f32 then (List.range 16).map (srcBad s b) else [])
      else (List.range 9).map (srcBad s a)
    let i := Instr.vcvtMx src dst rm p d a b
    (∀ c, (reads.filterMap id).head? = some c → givesV s d i fun q => ∀ j, j < 16 → poisonedLane q j c) ∧
    ((∀ x ∈ reads, x = none) →
      (src.isF = true → givesV s d i fun q =>
        let code := fun (e : Nat) => if src = .f32 ∧ 16 ≤ e then srcElt s 32 b (e - 16) else srcElt s src.width a e
        let vals := (List.range 32).map fun e => s.fin src (code e)
        let x := blockScale dst vals
        q.pmask = 0 ∧ (∀ e, e < 32 → vElt q 8 e = (blockCodes dst x (s.vrnd rm) vals).getD e 0 % 256) ∧
        vElt q 8 32 = x ∧ ∀ e, 32 < e → e < 64 → vElt q 8 e = 0) ∧
      (src.isF = false → givesV s d i fun q =>
        let x := srcElt s 8 a 32
        let w := dst.width
        q.pmask = 0 ∧ ∀ e, e < 512 / w → vElt q w e =
          (fmtOf dst).round (s.vrnd rm e)
            (scaled (readVal src (srcElt s 8 a (if dst = .f32 then 16 * p + e else e) % 2 ^ tyBits src)) x).exact % 2 ^ w))

open Sys2Proof Sys2Proof.Machine Sys2Proof.Claims in
/-- VSEL, VPERM, VMOVG, VMOVL and VBCAST (R151-R153), in every type and at every element index that the encoding admits, with
each instruction's own poison rule. That FTZ flushes nothing that only moves is the model's choice (log 69). -/
def Obligations.VectorMoves : Prop :=
  ∀ (s : State) (ty : ElemTy) (k : KIx) (d : VIx) (g a b : GIx) (e : Fin 64),
    let w := ty.width
    let n := 512 / w
    let old := s.cur.rv d
    (givesV s d (.vsel k d a b) fun q => ∀ j, j < 16 →
      let c := if (s.cur.rk k).getLsbD j then a else b
      (c.val < 8 → sameLane q (s.cur.rv (vReg c.val)) j) ∧
      (8 ≤ c.val → (∀ cl, srcBad s c j = some cl → poisonedLane q j cl) ∧
        (srcBad s c j = none → vBad q j = false ∧ vElt q 32 j = srcElt s 32 c j))) ∧
    (ty.isF = true ∨ ty.isI = true →
      (givesV s d (.vperm ty k d a b) fun q => ∀ j, j < 16 →
        let idx := srcElt s w b
        let from' := fun (e' : Nat) => idx e' % n * w / 32
        (¬laneActive s k j → sameLane q old j) ∧
        (laneActive s k j → ∀ c, srcBad s b j = some c → poisonedLane q j c) ∧
        (laneActive s k j → srcBad s b j = none →
          (∀ e' c, e' * w / 32 = j → idx e' < 2 ^ (w - 1) → srcBad s a (from' e') = some c →
            (∀ e'', e'' < e' → e'' * w / 32 = j → idx e'' < 2 ^ (w - 1) → srcBad s a (from' e'') = none) → poisonedLane q j c) ∧
          ((∀ e', e' * w / 32 = j → idx e' < 2 ^ (w - 1) → srcBad s a (from' e') = none) →
            vBad q j = false ∧ ∀ e', e' * w / 32 = j →
              vElt q w e' = if 2 ^ (w - 1) ≤ idx e' then 0 else srcElt s w a (idx e' % n)))) ∧
      (e.val < n →
        (∀ c, srcBad s a (e * w / 32) = some c →
          exec (.vmovg ty e g a) s =
            writes s g { tag := .poison, body := BitVec.ofNat 64 s.curTile ++ BitVec.ofNat 64 (c % 256) }) ∧
        (srcBad s a (e * w / 32) = none →
          exec (.vmovg ty e g a) s = writes s g (dataReg (BitVec.ofInt 64 (ival ty (srcElt s w a e))))) ∧
        (givesV s d (.vmovl ty e d a) fun q =>
          (∀ j, j < 16 → j ≠ e * w / 32 → sameLane q old j) ∧
          ((s.cur.rd a).tag = .poison → poisonedLane q (e * w / 32) (classOf (s.cur.rd a))) ∧
          ((s.cur.rd a).tag ≠ .poison → vBad old (e * w / 32) = true → w < 32 → sameLane q old (e * w / 32)) ∧
          ((s.cur.rd a).tag ≠ .poison → vBad old (e * w / 32) = false ∨ w = 32 →
            vBad q (e * w / 32) = false ∧ vElt q w e = (s.cur.rd a).low.toNat % 2 ^ w ∧
            ∀ e', e' < n → e' ≠ e.val → vElt q w e' = vElt old w e')) ∧
        (givesV s d (.vbcast ty e k d a) fun q => ∀ j, j < 16 →
          (¬laneActive s k j → sameLane q old j) ∧
          (laneActive s k j → ∀ c, srcBad s a (e * w / 32) = some c → poisonedLane q j c) ∧
          (laneActive s k j → srcBad s a (e * w / 32) = none →
            vBad q j = false ∧ ∀ e', e' * w / 32 = j → vElt q w e' = srcElt s w a e))))

open Sys2Proof Sys2Proof.Machine Sys2Proof.Claims in
/-- VCMP (R150): the first poisoned active lane of vA, or else of vB, traps; otherwise bit j of kD is set exactly where lane j is
active and element s of it meets the condition. A float type has only the first four conditions. -/
def Sys2Proof.Claims.VectorCompare : Prop :=
  ∀ (s : State) (c : Cond) (ty : ElemTy) (e : Fin 4) (k d : KIx) (a b : GIx),
    (Instr.vcmp c ty e k d a b).wf = true →
    let w := ty.width
    let i := Instr.vcmp c ty e k d a b
    let at' := fun (j : Nat) => j * (32 / w) + e
    let first := fun (x : GIx) (j cl : Nat) => j < 16 ∧ laneActive s k j ∧ srcBad s x j = some cl ∧
      ∀ j', j' < j → laneActive s k j' → srcBad s x j' = none
    let clean := fun (x : GIx) => ∀ j, j < 16 → laneActive s k j → srcBad s x j = none
    (∀ j cl, first a j cl → exec i s = s.trap 0x08 cl) ∧
    (∀ j cl, clean a → first b j cl → exec i s = s.trap 0x08 cl) ∧
    (clean a → clean b → ∃ m : BitVec 16, exec i s = .next (atRetire s (s.cur.wk d m)) ∧
      ∀ j, j < 16 → (m.getLsbD j = true ↔ laneActive s k j ∧
        (ty.isI = true → elementCond ty c (srcElt s w a (at' j)) (srcElt s w b (at' j))) ∧
        (ty.isF = true → (fmtOf ty).cmp (fcondOf c) (fcode s ty a (at' j)) (fcode s ty b (at' j)) = true)))

open Sys2Proof Sys2Proof.Machine Sys2Proof.Claims in
/-- Mask instructions (R46, R154): k0 reads as ones, KPOP counts the set bits. -/
def Sys2Proof.Claims.MaskInstructions : Prop :=
  ∀ (s : State) (g : GIx) (d a b : KIx),
    exec (.kand d a b) s = .next (atRetire s (s.cur.wk d (s.cur.rk a &&& s.cur.rk b))) ∧
    exec (.kor d a b) s = .next (atRetire s (s.cur.wk d (s.cur.rk a ||| s.cur.rk b))) ∧
    exec (.knot d a) s = .next (atRetire s (s.cur.wk d (~~~s.cur.rk a))) ∧
    exec (.kpop g a) s =
      writes s g (dataReg (.ofNat 64 ((List.range 16).filter fun j => (s.cur.rk a).getLsbD j).length))

/-- Vector arithmetic (R139-R141, R143-R147). -/
def Obligations.VectorArithmetic : Prop :=
  Sys2Proof.Claims.VectorInteger ∧ Sys2Proof.Claims.VectorFloat

/-- Vectors to scalars and masks (R148-R154). -/
def Obligations.VectorFolds : Prop :=
  Sys2Proof.Claims.VectorReductions ∧ Sys2Proof.Claims.VectorCompare ∧ Sys2Proof.Claims.MaskInstructions

/-- Vector conversions (R142, R62-R79). -/
def Obligations.VectorConversions : Prop :=
  Sys2Proof.Claims.VectorConversion ∧ Sys2Proof.Claims.VectorBlockConversion

/-! # Operations performed at a word's home -/

namespace Sys2Proof.Claims
open Sys2Proof Sys2Proof.Machine

/-- Neither the word that holds a byte nor its pair's tag has a stored error that a read would meet (R207). -/
def noErr (s : State) (a : Nat) : Prop :=
  s.errUnc.contains (a / 8) = false ∧ s.errOne.contains (a / 8) = false ∧ s.errTag.contains (a / 16) = false

/-- Nothing outside [lo, hi) differs: bytes, poison, and, outside the pair or pairs it meets, tags. -/
def keepsOutside (s t : State) (lo hi : Nat) : Prop :=
  ∀ c, c < lo ∨ hi ≤ c → t.byte c = s.byte c ∧
    (c / 8 * 8 + 8 ≤ lo ∨ hi ≤ c / 8 * 8 → t.poisoned c = s.poisoned c) ∧
    (c / 16 * 16 + 16 ≤ lo ∨ hi ≤ c / 16 * 16 → t.tagAt c = s.tagAt c)

/-- The word at w is poisoned with a class in its low byte and zero above it (R206). -/
def poisonWord (t : State) (w cls : Nat) : Prop := t.poisoned w = true ∧ t.val w 8 = cls % 256

/-- No thread of the tile waits on the full/empty bit of the word, and no remote request is registered there. -/
def noFeWaiter (s : State) (a : Nat) : Prop :=
  (∀ f ∈ (s.tile (spadTile a)).monitors, f.op ≠ .ldc ∧ f.op ≠ .stp) ∧
  ∀ h, h < 8 → (s.thr (spadTile a) h).wait ≠ .fe (a % 2 ^ 19 / 8 * 8)

/-- Table 7.2 on values at the type's width: the integer rows over exact integers, the floating ones by one RNE rounding. -/
def table72 (fn : AtomFn) (ty : AtomTy) (x y z : Nat) : Nat :=
  let w := 8 * atomWidth ty
  let si := fun (v : Nat) => (BitVec.ofNat w v).toInt
  let half := fun (v i : Nat) => v / 2 ^ (16 * i) % 2 ^ 16
  match fn, ty with
  | .add, .f32 => fmtF32.round { mode := .rne } (fsum .rne [fmtF32.read x, fmtF32.read y]).exact
  | .add, .bf16x2 =>
    let sum := fun i => fmtBF16.round { mode := .rne } (fsum .rne [fmtBF16.read (half x i), fmtBF16.read (half y i)]).exact
    sum 0 + 2 ^ 16 * sum 1
  | .add, _ => (x + y) % 2 ^ w
  | .min, .f32 => fmtF32.minMax false x y
  | .max, .f32 => fmtF32.minMax true x y
  | .min, .n32 => min x y
  | .max, .n32 => max x y
  | .min, _ => if si x ≤ si y then x else y
  | .max, _ => if si y ≤ si x then x else y
  | .and, _ => x &&& y
  | .or, _ => x ||| y
  | .xor, _ => x ^^^ y
  | .swap, _ => y
  | .cas, _ => if x = z then y else x

/-- The type is one that Table 7.2 lists for the function. -/
def atomTyped (fn : AtomFn) (ty : AtomTy) : Prop :=
  match fn with
  | .add => ty ≠ .n32
  | .min | .max => ty ≠ .bf16x2
  | _ => ty = .i32 ∨ ty = .i64

end Sys2Proof.Claims

open Sys2Proof Sys2Proof.Machine Sys2Proof.Claims in
/-- Reads in scratchpad (R160, R207): the little-endian value with the class of a poisoned word; a word without a stored error is
left exactly as it is; an uncorrectable error makes its word poisoned with class 0x01 and touches no other byte; a tag whose
parity fails is lost, with both words of its pair poisoned with class 0x01. -/
def Sys2Proof.Claims.HomeReads : Prop :=
  ∀ (s : State) (a n : Nat), isSpad a = true →
    s.readAt 0 a n = (s.val a n, if s.poisoned a then (s.byte (a / 8 * 8)).toNat + 1 else 0) ∧
    (noErr s a → s.look a = s) ∧
    (s.errTag.contains (a / 16) = true →
      let p := a / 16 * 16
      poisonWord (s.look a) p 1 ∧ poisonWord (s.look a) (p + 8) 1 ∧ (s.look a).tagAt a = false ∧
      keepsOutside s (s.look a) p (p + 16)) ∧
    (s.errTag.contains (a / 16) = false → s.errUnc.contains (a / 8) = true →
      poisonWord (s.look a) (a / 8 * 8) 1 ∧ keepsOutside s (s.look a) (a / 8 * 8) (a / 8 * 8 + 8) ∧
      (s.look a).errUnc.contains (a / 8) = false)

open Sys2Proof Sys2Proof.Machine Sys2Proof.Claims in
/-- A write of n bytes within one scratchpad word (R161, R58, Table 7.3), the word free of stored errors: clean data in a clean
word is stored little-endian; poisoned data makes the word poisoned with its class; a poisoned word keeps its content under
clean data. The pair loses its tag, FE stays, and nothing outside the word's written bytes changes. -/
def Sys2Proof.Claims.HomeStore : Prop :=
  ∀ (s : State) (a n v mark : Nat), isSpad a = true → 1 ≤ n → a % 8 + n ≤ 8 → noErr s a → mark ≤ 256 →
    let t := s.store 0 a n v mark
    let w := a / 8 * 8
    t.tagAt a = false ∧ (∀ c, t.fe c = s.fe c) ∧
    (mark = 0 → s.poisoned a = false →
      t.val a n = v % 256 ^ n ∧ t.poisoned a = false ∧ keepsOutside s t a (a + n)) ∧
    (mark ≠ 0 → poisonWord t w (mark - 1) ∧ keepsOutside s t w (w + 8)) ∧
    (mark = 0 → s.poisoned a = true → t.poisoned a = true ∧ ∀ c, t.byte c = s.byte c)

open Sys2Proof Sys2Proof.Machine Sys2Proof.Claims in
/-- A 64-byte write under a byte mask (R161, R163): in each word whose mask is not zero, clean data replaces the masked bytes of a
clean word, poisoned data poisons the word, and a poisoned word stands; a word whose mask is zero, and every byte outside the
64, stays. The words are free of stored errors. -/
def Sys2Proof.Claims.HomeRowStore : Prop :=
  ∀ (s : State) (a mask : Nat) (bytes : List Byte) (marks : List Nat),
    isSpad a = true → a % 64 = 0 → bytes.length = 64 → marks.length = 8 → (∀ m ∈ marks, m ≤ 256) →
    (∀ i, i < 8 → noErr s (a + 8 * i)) →
    let t := s.putWords 0 a bytes mask marks 8
    (∀ c, c < a ∨ a + 64 ≤ c → t.byte c = s.byte c ∧ t.poisoned c = s.poisoned c ∧ t.tagAt c = s.tagAt c) ∧
    (∀ c, t.fe c = s.fe c) ∧
    ∀ i, i < 8 →
      let w := a + 8 * i
      let m := mask / 2 ^ (8 * i) % 256
      let k := marks.getD i 0
      (m = 0 → t.val w 8 = s.val w 8 ∧ t.poisoned w = s.poisoned w) ∧
      (m ≠ 0 → k ≠ 0 → poisonWord t w (k - 1)) ∧
      (m ≠ 0 → k = 0 → s.poisoned w = true → t.val w 8 = s.val w 8 ∧ t.poisoned w = true) ∧
      (m ≠ 0 → k = 0 → s.poisoned w = false → t.poisoned w = false ∧
        ∀ b, b < 8 → t.byte (w + b) = if bit m b then bytes.getD (8 * i + b) 0 else s.byte (w + b))

open Sys2Proof Sys2Proof.Machine Sys2Proof.Claims in
/-- The new value of an atomic (Table 7.2) for every function and type that the table pairs, at the type's width. -/
def Sys2Proof.Claims.AtomicFunctions : Prop :=
  ∀ (fn : AtomFn) (ty : AtomTy) (x y z : Nat),
    atomTyped fn ty → x < 256 ^ atomWidth ty → y < 256 ^ atomWidth ty →
    atomNew fn ty x y z = table72 fn ty x y z

open Sys2Proof Sys2Proof.Machine Sys2Proof.Claims in
/-- An atomic at a scratchpad word without stored errors (R170-R172): the old value, and in the same step the new one; RCAS
writes only when it matches; a poisoned word, a poisoned compare value and a poisoned operand, in that order, as R172 has it. A
mark above 256 is a class whose poison names the target address (log 30). -/
def Sys2Proof.Claims.HomeAtomic : Prop :=
  ∀ (s : State) (a : Nat) (fn : AtomFn) (ty : AtomTy) (y ym z zm : Nat),
    isSpad a = true → a % atomWidth ty = 0 → noErr s a →
    let n := atomWidth ty
    let x := s.val a n
    let r := s.atomic 0 a fn ty y ym z zm
    let new := atomNew fn ty x (y % 256 ^ n) (z % 256 ^ n)
    let cls := (s.byte (a / 8 * 8)).toNat
    (s.poisoned a = true → r.1.mark = cls + 1 ∧
      (ym ≠ 0 → fn ≠ .cas → r.2 = s.store 0 a n 0 ym ∧ r.1.sig = ym) ∧
      (ym = 0 ∨ fn = .cas → r.2 = s ∧ r.1.sig = cls + 1)) ∧
    (s.poisoned a = false →
      r.1.old = x ∧
      (fn = .cas → zm ≠ 0 → r.2 = s ∧ r.1.mark = 257 + (zm - 1) % 256) ∧
      (fn = .cas → zm = 0 → ym = 0 → x ≠ z % 256 ^ n → r.2 = s ∧ r.1.mark = 0) ∧
      (fn = .cas → zm = 0 → ym = 0 → x = z % 256 ^ n → r.2 = s.store 0 a n new 0 ∧ r.1.mark = 0) ∧
      (ym ≠ 0 → fn ≠ .cas ∨ zm = 0 → r.2 = s.store 0 a n 0 ym ∧ r.1.mark = 0 ∧ r.1.sig = ym) ∧
      (ym = 0 → fn ≠ .cas → r.2 = s.store 0 a n new 0 ∧ r.1.mark = 0 ∧ r.1.sig = 0))

open Sys2Proof Sys2Proof.Machine Sys2Proof.Claims in
/-- Full/empty, SCRUB and POISON at the home (R173-R175, R308, R309): setting FE writes no byte, and with nothing waiting on the
word changes that bit alone; SCRUB leaves 64 clean, untagged, full bytes of zero and touches nothing outside them; POISON makes
one word poisoned with class 0x08. -/
def Sys2Proof.Claims.MetadataOperations : Prop :=
  ∀ (s : State) (a : Nat), isSpad a = true →
    (∀ b, noFeWaiter s a →
      ∀ c, (s.feTo a b).fe c = (if c / 8 = a / 8 then b else s.fe c) ∧ (s.feTo a b).byte c = s.byte c ∧
        (s.feTo a b).poisoned c = s.poisoned c) ∧
    (a % 64 = 0 → (∀ i, i < 8 → noFeWaiter s (a + 8 * i)) →
      let t := s.scrub 0 a
      (∀ c, a ≤ c → c < a + 64 → t.byte c = 0 ∧ t.poisoned c = false ∧ t.tagAt c = false ∧ t.fe c = true) ∧
      (∀ c, c < a ∨ a + 64 ≤ c → t.byte c = s.byte c ∧ t.poisoned c = s.poisoned c ∧ t.tagAt c = s.tagAt c ∧ t.fe c = s.fe c)) ∧
    (a % 8 = 0 → noErr s a →
      poisonWord (s.store 0 a 8 0 9) a 8 ∧ keepsOutside s (s.store 0 a 8 0 9) a (a + 8))

open Sys2Proof Sys2Proof.Machine Sys2Proof.Claims in
/-- A flag signal at a scratchpad word without stored errors (R167, R208): without a class it adds to COUNT modulo 2^40 and keeps
the other fields; with one it sets CLASS and ORIGIN only where CLASS was 0; a poisoned word discards it. -/
def Sys2Proof.Claims.FlagSignals : Prop :=
  ∀ (s : State) (a n cls origin : Nat),
    isSpad a = true → a % 8 = 0 → noErr s a → cls < 256 → origin < 65536 →
    let w := s.val a 8
    let t := s.signalAt a n cls origin
    let u := t.val a 8
    (∀ c, c < a ∨ a + 8 ≤ c → t.byte c = s.byte c) ∧
    (s.poisoned a = true → u = w ∧ t.poisoned a = true) ∧
    (s.poisoned a = false →
      t.poisoned a = false ∧
      (cls = 0 → u % 2 ^ 40 = (w + n) % 2 ^ 40 ∧ u / 2 ^ 40 = w / 2 ^ 40) ∧
      (cls ≠ 0 → w / 2 ^ 40 % 256 ≠ 0 → u = w) ∧
      (cls ≠ 0 → w / 2 ^ 40 % 256 = 0 → u % 2 ^ 40 = w % 2 ^ 40 ∧ u / 2 ^ 40 % 256 = cls ∧ u / 2 ^ 48 = origin))

/-- Reads and writes performed at their home (R58, R160, R161, R163, R207). -/
def Sys2Proof.Claims.HomeReadsAndWrites : Prop :=
  Sys2Proof.Claims.HomeReads ∧ Sys2Proof.Claims.HomeStore ∧ Sys2Proof.Claims.HomeRowStore

/-- Atomics performed at their home (R170-R172, Table 7.2). -/
def Sys2Proof.Claims.HomeAtomics : Prop :=
  Sys2Proof.Claims.AtomicFunctions ∧ Sys2Proof.Claims.HomeAtomic

/-- Operations performed at their home (R58, R160, R161, R163, R170-R172, R207). -/
def Obligations.HomeOperations : Prop :=
  Sys2Proof.Claims.HomeReadsAndWrites ∧ Sys2Proof.Claims.HomeAtomics

/-- Full/empty, SCRUB, POISON and flag signals as their home performs them: MetadataOperations, FlagSignals. -/
def Obligations.HomeMetadataOperations : Prop :=
  Sys2Proof.Claims.MetadataOperations ∧ Sys2Proof.Claims.FlagSignals

/-! # Loads, stores, atomics and the full/empty class at the own tile -/

namespace Sys2Proof.Claims
open Sys2Proof Sys2Proof.Machine

/-- The state s1 that an instruction of s has made, once it has retired with its thread as t. -/
def retireIn (s1 s : State) (t : Thread) : State :=
  s1.setThr s.curTile s.curThr
    { t with pc := s.cur.succ, retired := s.cur.retired + 1, served := [], retryBanks := [], walkEnds := [] }

/-- gA holds a plain tile capability that names the thread's own tile, with the rights and, around the n bytes at
offset o of the scratchpad, the bounds and the alignment that an access needs (R55, R155). -/
def ownAccess (s : State) (a : GIx) (rights : Nat) (o n : Nat) : Prop :=
  let r := s.cur.rd a
  r.tag = .cap ∧ r.namesTile s.pkg s.curTile = true ∧ r.grants rights = true ∧ field r 19 13 = 0 ∧
  (baseLen r).1 ≤ o ∧ o + n ≤ (baseLen r).1 + (baseLen r).2 ∧ o + n ≤ 2 ^ 19 ∧ o % n = 0

/-- The scratchpad offset that gA's cursor and a displacement name is o. -/
def names (s : State) (a : GIx) (disp : Int) (o : Nat) : Prop := (((s.cur.rd a).low.toNat % 2 ^ 19 : Nat) : Int) + disp = o

/-- The displacement of the access in the M form, and gA after it (R91): post-increment moves the cursor. -/
def dispM (m : BitVec 20) : Int := if m.getLsbD 19 then 0 else (m.setWidth 19).toInt
def incM (s : State) (a : GIx) (m : BitVec 20) : Thread :=
  if m.getLsbD 19 then
    s.cur.wr a (moved (s.cur.rd a) (.ofInt 64 (((s.cur.rd a).low.toNat : Int) + (m.setWidth 19).toInt)))
  else s.cur

/-- The thread starts its access afresh and no bank refuses it (R16, R17). -/
def free (s : State) (os : List Nat) : Prop := s.cur.served = [] ∧ s.cur.wait = .none ∧ s.refusing os = []

/-- What a load of n bytes at flat address a gives gD (R40, R160, R162): the value extended, or the word's class with the word's
global address for origin. -/
def loaded (s : State) (z : Bool) (a n ga : Nat) : GReg :=
  if s.poisoned a then { tag := .poison, body := BitVec.ofNat 64 (ga / 8 * 8) ++ BitVec.ofNat 64 (s.byte (a / 8 * 8)).toNat }
  else dataReg (if z then .ofNat 64 (s.val a n) else .ofInt 64 ((BitVec.ofNat (8 * n) (s.val a n)).toInt))

/-- Mark of a data operand: 0, or its class plus one. -/
def markOf (r : GReg) : Nat := if r.tag = .poison then classOf r + 1 else 0

/-- Lane j of a 64-byte row at flat address a, as LDV receives it: bits and class. -/
def rowLane (s : State) (a j : Nat) : Nat × Option Nat :=
  (s.val (a + 4 * j) 4, if s.poisoned (a + 4 * j) then some (s.byte (a + 8 * (j / 2))).toNat else none)

/-- The active lanes of a row access lie within what gA grants; the row starts at offset o, aligned to 64 (R163). -/
def ownRow (s : State) (a : GIx) (k : KIx) (rights o : Nat) : Prop :=
  let r := s.cur.rd a
  r.tag = .cap ∧ r.namesTile s.pkg s.curTile = true ∧ r.grants rights = true ∧ field r 19 13 = 0 ∧
  o % 64 = 0 ∧ o + 64 ≤ 2 ^ 19 ∧
  ∀ j, j < 16 → laneActive s k j → (baseLen r).1 ≤ o + 4 * j ∧ o + 4 * j + 4 ≤ (baseLen r).1 + (baseLen r).2

/-- Some lane is active. -/
def someLane (s : State) (k : KIx) : Prop := ∃ j, j < 16 ∧ laneActive s k j

/-- The byte mask of the active lanes, four bits each. -/
def byteMask (s : State) (k : KIx) : Nat :=
  ((List.range 16).map fun j => if (s.cur.rk k).getLsbD j then 15 * 2 ^ (4 * j) else 0).sum

/-- Mark that a row store gives word i: that of its lowest poisoned active lane (log 24). -/
def rowMark (s : State) (d : VIx) (k : KIx) (i : Nat) : Nat :=
  let m := fun (j : Nat) => if (s.cur.rk k).getLsbD j ∧ vBad (s.cur.rv d) j then vElt (s.cur.rv d) 32 j % 256 + 1 else 0
  if m (2 * i) ≠ 0 then m (2 * i) else m (2 * i + 1)

/-- A row store of vD under kM at flat address a, its waiters looked at once it is whole (R177, R210). -/
def rowStored (s : State) (d : VIx) (k : KIx) (a : Nat) : State :=
  s.together fun s =>
    ((s.putWords 0 a (natLe 64 (s.cur.rv d).val.toNat) (byteMask s k) ((List.range 8).map (rowMark s d k)) 8).touchMasked a
      (byteMask s k) 8).touchPairs s a (byteMask s k) 8

/-- Active elements of width w. -/
def activeElts (s : State) (k : KIx) (w : Nat) : List Nat := (List.range (512 / w)).filter fun e => (s.cur.rk k).getLsbD (e * w / 32)

/-- Every active element e lies at offset o e, as gA allows, free of stored errors; and one pass serves them all: elements of one bank
share a row (R19). -/
def ownElts (s : State) (a : GIx) (k : KIx) (w rights : Nat) (o : Nat → Nat) : Prop :=
  let es := activeElts s k w
  (s.cur.rd a).tag = .cap ∧ (s.cur.rd a).grants rights = true ∧
  (∀ e ∈ es, ownAccess s a rights (o e) (w / 8)) ∧
  (∀ e ∈ es, noErr s (spad s.curTile (o e))) ∧
  (∀ e ∈ es, ∀ e' ∈ es, Config.bankOf (o e) = Config.bankOf (o e') → o e / 64 = o e' / 64) ∧
  (s.cur.rd a).namesTile s.pkg s.curTile = true ∧ free s (es.map o)

/-- vD after an element-wise load (R164, R165): a lane is poisoned if an element that it receives is, else holds its elements. -/
def eltsLoaded (s : State) (d : VIx) (k : KIx) (w : Nat) (o : Nat → Nat) (q : VReg) : Prop :=
  ∀ j, j < 16 →
    (¬laneActive s k j → sameLane q (s.cur.rv d) j) ∧
    (laneActive s k j → (∀ e, e * w / 32 = j → s.poisoned (spad s.curTile (o e)) = false) →
      vBad q j = false ∧ ∀ e, e * w / 32 = j → vElt q w e = s.val (spad s.curTile (o e)) (w / 8)) ∧
    (laneActive s k j → ∀ e, e * w / 32 = j → s.poisoned (spad s.curTile (o e)) = true →
      (∀ e', e' < e → e' * w / 32 = j → s.poisoned (spad s.curTile (o e')) = false) →
      poisonedLane q j (s.byte (spad s.curTile (o e) / 8 * 8)).toNat)

/-- The active elements of vD stored one after another, the higher-numbered last (R165), as writes of one cycle (R177). -/
def eltsStored (s : State) (d : VIx) (k : KIx) (w : Nat) (o : Nat → Nat) : State :=
  let es := activeElts s k w
  let all := fun (u : State) => es.foldl (fun t e =>
    t.store 0 (spad s.curTile (o e)) (w / 8) (vElt (s.cur.rv d) w e)
      (if vBad (s.cur.rv d) (e * w / 32) then vElt (s.cur.rv d) 32 (e * w / 32) % 256 + 1 else 0)) u
  if es.length ≤ 1 then all s else s.together all

/-- The flag operand of a put or a posted atomic, g0 or an own-tile word that gC may signal: the state s1 that the data write
made, with the flag signalled by 1 and the class of a mark (R157, R168). -/
def signalsFlag (s : State) (c : GIx) (mark : Nat) (s1 s2 : State) : Prop :=
  (c = 0 → s2 = s1) ∧
  (c ≠ 0 → ∃ f, names s c 0 f ∧ ownAccess s c 8 f 8 ∧ s2 = s1.signalAt (spad s.curTile f) 1 (mark - 1) s.curTile)

/-- The flag operand is one of those. -/
def flagReady (s : State) (c : GIx) : Prop := c = 0 ∨ ∃ f, names s c 0 f ∧ ownAccess s c 8 f 8

/-- The first poisoned mark of a row. -/
def rowSig (s : State) (d : VIx) (k : KIx) : Nat :=
  (((List.range 8).map (rowMark s d k)).find? fun m => m != 0).getD 0

end Sys2Proof.Claims

open Sys2Proof Sys2Proof.Machine Sys2Proof.Claims in
/-- LD and LDCAP at the own tile (R91, R160, R162, R166): with the capability, bounds, alignment and banks that the rules ask for, the
read is performed at W; gD receives the value, extended, or the poison of the word, named by its own address; LDCAP gives a capability exactly where the pair is
tagged. gD's load follows the post-increment of gA. -/
def Sys2Proof.Claims.LoadsAtOwnTile : Prop :=
  ∀ (s : State) (d a : GIx) (m : BitVec 20) (o : Nat), names s a (dispM m) o →
    (∀ z sz, (Instr.ld z sz d a m).wf = true → ownAccess s a 1 o (2 ^ sz.val) → free s [o] →
      let s1 := s.look (spad s.curTile o)
      exec (.ld z sz d a m) s =
        .next (retireIn s1 s ((incM s a m).wr d (loaded s1 z (spad s.curTile o) (2 ^ sz.val) (gaSpad s.curTile o))))) ∧
    (ownAccess s a 1 o 16 → free s [o] →
      let s1 := s.together fun s => s.lookWords (spad s.curTile o) 2
      let p := spad s.curTile o
      let v : GReg :=
        if s1.poisoned p then { tag := .poison, body := BitVec.ofNat 64 (gaSpad s.curTile o) ++ BitVec.ofNat 64 (s1.byte p).toNat }
        else if s1.poisoned (p + 8) then
          { tag := .poison, body := BitVec.ofNat 64 (gaSpad s.curTile o + 8) ++ BitVec.ofNat 64 (s1.byte (p + 8)).toNat }
        else if s1.tagAt p then { tag := .cap, body := BitVec.ofNat 128 (s1.val p 16) }
        else dataReg (.ofNat 64 (s1.val p 8))
      exec (.ldcap d a m) s = .next (retireIn s1 s ((incM s a m).wr d v)))

open Sys2Proof Sys2Proof.Machine Sys2Proof.Claims in
/-- LDV, LDVS and VGATH at the own tile (R163-R165): each active lane or element from its own address, extended by nothing; inactive
lanes kept; poison by the words read. LDV with no active lane reads nothing. -/
def Sys2Proof.Claims.VectorLoadsAtOwnTile : Prop :=
  ∀ (s : State) (d : VIx) (a : GIx) (k : KIx),
    (∀ m o, names s a (dispM m) o → ownRow s a k 1 o → free s [o] → someLane s k →
      let s1 := s.together fun s => s.lookWords (spad s.curTile o) 8
      ∃ q, exec (.ldv d a k m) s = .next (retireIn s1 s ((incM s a m).wv d q)) ∧
        ∀ j, j < 16 →
          (¬laneActive s k j → sameLane q (s.cur.rv d) j) ∧
          (laneActive s k j → ∀ c, (rowLane s1 (spad s.curTile o) j).2 = some c → poisonedLane q j c) ∧
          (laneActive s k j → (rowLane s1 (spad s.curTile o) j).2 = none →
            vBad q j = false ∧ vElt q 32 j = (rowLane s1 (spad s.curTile o) j).1)) ∧
    (∀ m, (s.cur.rd a).tag = .cap → (s.cur.rd a).grants 1 = true → (s.cur.rd a).namesTile s.pkg s.curTile = true →
      free s [] → ¬someLane s k →
      ∃ q, exec (.ldv d a k m) s = .next (retireIn s s ((incM s a m).wv d q)) ∧ ∀ j, j < 16 → sameLane q (s.cur.rv d) j) ∧
    (∀ (ew : EltW) b m o, (s.cur.rd b).tag ≠ .poison → ownElts s a k (eltBits ew) 1 o →
      (∀ e ∈ activeElts s k (eltBits ew), names s a (dispM m + e * (s.cur.rd b).low.toInt) (o e)) →
      ∃ q, exec (.ldvs ew d a b k m) s = .next (retireIn s s ((incM s a m).wv d q)) ∧ eltsLoaded s d k (eltBits ew) o q) ∧
    (∀ (b : VIx) (off : BitVec 19) o, (∀ j, j < 16 → laneActive s k j → vBad (s.cur.rv b) j = false) → ownElts s a k 32 1 o →
      (∀ e ∈ activeElts s k 32, names s a (off.toInt + (BitVec.ofNat 32 (vElt (s.cur.rv b) 32 e)).toInt) (o e)) →
      ∃ q, exec (.vgath d a b k off) s = .next (retireIn s s (s.cur.wv d q)) ∧ eltsLoaded s d k 32 o q)

open Sys2Proof Sys2Proof.Machine Sys2Proof.Claims in
/-- ST, STCAP, STV, STVS and VSCAT at the own tile (R91, R161-R166): the write is performed at W, of the data register as it is after
the post-increment of gA; a poisoned one carries its class to the home; the instruction retires. -/
def Sys2Proof.Claims.StoresAtOwnTile : Prop :=
  ∀ (s : State) (a : GIx) (k : KIx) (m : BitVec 20) (o : Nat), names s a (dispM m) o → free s [o] →
    (∀ sz d, ownAccess s a 2 o (2 ^ sz.val) →
      let v := (incM s a m).rd d
      exec (.st sz d a m) s =
        .next (retireIn (s.store 0 (spad s.curTile o) (2 ^ sz.val) v.low.toNat (markOf v)) s (incM s a m))) ∧
    (∀ d, ownAccess s a 2 o 16 →
      let v := (incM s a m).rd d
      let body := if v.tag = .poison then 0 else v.body
      exec (.stcap d a m) s =
        .next (retireIn (s.together fun s => s.storeCap 0 (spad s.curTile o) (body.setWidth 64).toNat (body.extractLsb' 64 64).toNat
          (markOf v) (v.tag = .cap)) s (incM s a m))) ∧
    (∀ d, ownRow s a k 2 o → someLane s k →
      exec (.stv d a k m) s = .next (retireIn (rowStored s d k (spad s.curTile o)) s (incM s a m)))

open Sys2Proof Sys2Proof.Machine Sys2Proof.Claims in
/-- STVS and VSCAT at the own tile in one pass (R164, R165): each active element to its own address, in order of its number, so that the
higher-numbered of two that meet remains. STV and PUTVF with no active lane write nothing; PUTVF then signals its flag, which is the
model's choice (log 23). -/
def Sys2Proof.Claims.ElementStoresAtOwnTile : Prop :=
  ∀ (s : State) (d : VIx) (a : GIx) (k : KIx),
    (∀ (ew : EltW) b m o, (s.cur.rd b).tag ≠ .poison → ownElts s a k (eltBits ew) 2 o →
      (∀ e ∈ activeElts s k (eltBits ew), names s a (dispM m + e * (s.cur.rd b).low.toInt) (o e)) →
      exec (.stvs ew d a b k m) s = .next (retireIn (eltsStored s d k (eltBits ew) o) s (incM s a m))) ∧
    (∀ (b : VIx) (off : BitVec 19) o, (∀ j, j < 16 → laneActive s k j → vBad (s.cur.rv b) j = false) → ownElts s a k 32 2 o →
      (∀ e ∈ activeElts s k 32, names s a (off.toInt + (BitVec.ofNat 32 (vElt (s.cur.rv b) 32 e)).toInt) (o e)) →
      exec (.vscat d a b k off) s = .next (retireIn (eltsStored s d k 32 o) s s.cur)) ∧
    (∀ m, (s.cur.rd a).tag = .cap → (s.cur.rd a).grants 2 = true → (s.cur.rd a).namesTile s.pkg s.curTile = true →
      free s [] → ¬someLane s k →
      exec (.stv d a k m) s = .next (retireIn s s (incM s a m)) ∧
      ∀ c, flagReady s c → ∃ s2, signalsFlag s c 0 s s2 ∧ exec (.putvf d a k c m) s = .next (retireIn s2 s (incM s a m)))

open Sys2Proof Sys2Proof.Machine Sys2Proof.Claims in
/-- PUTF, PUTVF and the posted atomics at the own tile (R157, R168, R170, R172): the write or the atomic, and after it, in the same step,
the flag that gC names signalled by 1, with the class of poisoned data, or of the word for an atomic. -/
def Sys2Proof.Claims.PutsAndPostedAtomicsAtOwnTile : Prop :=
  ∀ (s : State) (a c : GIx) (k : KIx) (o : Nat), free s [o] → flagReady s c →
    (∀ sz d m, names s a (dispM m) o → ownAccess s a 2 o (2 ^ sz.val) →
      let v := (incM s a m).rd d
      ∃ s2, signalsFlag s c (markOf v) (s.store 0 (spad s.curTile o) (2 ^ sz.val) v.low.toNat (markOf v)) s2 ∧
        exec (.putf sz d a c m) s = .next (retireIn s2 s (incM s a m))) ∧
    (∀ d m, names s a (dispM m) o → ownRow s a k 2 o → someLane s k →
      ∃ s2, signalsFlag s c (rowSig s d k) (rowStored s d k (spad s.curTile o)) s2 ∧
        exec (.putvf d a k c m) s = .next (retireIn s2 s (incM s a m))) ∧
    (∀ (i : Instr) (fn : AtomFn) (ty : AtomTy) (b : GIx) (off : BitVec 16),
      (i = .radd ty a b c off ∧ fn = .add) ∨ (i = .rmin ty a b c off ∧ fn = .min) ∨ (i = .rmax ty a b c off ∧ fn = .max) ∨
        (i = .rand ty a b c off ∧ fn = .and) ∨ (i = .ror ty a b c off ∧ fn = .or) ∨ (i = .rxor ty a b c off ∧ fn = .xor) →
      names s a off.toInt o → ownAccess s a 4 o (atomWidth ty) →
      let r := s.atomic 0 (spad s.curTile o) fn ty (s.cur.rd b).low.toNat (markOf (s.cur.rd b)) 0 0
      ∃ s2, signalsFlag s c r.1.sig r.2 s2 ∧ exec i s = .next (retireIn s2 s s.cur))

open Sys2Proof Sys2Proof.Machine Sys2Proof.Claims in
/-- RFADD, RSWAP and RCAS at the own tile (R171, R172, R303), with no async fault pending: the atomic is performed at W and gD receives
the old value, sign-extended for I32, or the poison that R172 gives: of a poisoned word with the word's address, of a poisoned compare
value with the target's. With one pending each traps "async fault" with nothing done. -/
def Sys2Proof.Claims.ReturningAtomicsAtOwnTile : Prop :=
  ∀ (s : State) (d a b c : GIx) (ty : AtomTy) (off : BitVec 16) (o : Nat) (i : Instr) (fn : AtomFn) (z : GReg),
    (i = .rfadd ty d a b off ∧ fn = .add ∧ z = {}) ∨ (i = .rswap ty d a b off ∧ fn = .swap ∧ z = {}) ∨
      (i = .rcas ty d a b c off ∧ fn = .cas ∧ z = s.cur.rd c) →
    (s.cur.afp = true → exec i s = (s.setCur { s.cur with afp := false }).trap 0x0E (asyncEval s.curT)) ∧
    (s.cur.afp = false → names s a off.toInt o → ownAccess s a 7 o (atomWidth ty) → free s [o] →
      let r := s.atomic 0 (spad s.curTile o) fn ty (s.cur.rd b).low.toNat (markOf (s.cur.rd b)) z.low.toNat (markOf z)
      let old : Word :=
        match ty with
        | .i32 => .ofInt 64 ((BitVec.ofNat 32 r.1.old).toInt)
        | .i64 => .ofNat 64 r.1.old
        | _ => .ofNat 64 (r.1.old % 2 ^ 32)
      let v : GReg :=
        if r.1.mark = 0 then dataReg old
        else { tag := .poison, body := BitVec.ofNat 64 (if 256 < r.1.mark then gaSpad s.curTile o else gaSpad s.curTile o / 8 * 8) ++
                                       BitVec.ofNat 64 ((r.1.mark - 1) % 256) }
      exec i s = .next (retireIn r.2 s (s.cur.wr d v)))

open Sys2Proof Sys2Proof.Machine Sys2Proof.Claims in
/-- LDC, STP, FESET, SCRUB and POISON at the own tile (R173-R175, R308, R309): LDC of a full word reads and empties it, STP of an empty
one writes and fills it; where FE does not allow it the thread leaves rotation to wait for the word, with nothing performed; FESET,
SCRUB and POISON act at W. -/
def Sys2Proof.Claims.FullEmptyAtOwnTile : Prop :=
  ∀ (s : State) (d a : GIx) (off : BitVec 19) (o : Nat), names s a off.toInt o → free s [o] →
    let p := spad s.curTile o
    (ownAccess s a 16 o 8 → s.cur.afp = false →
      (s.fe p = true → exec (.ldc d a off) s =
        .next (retireIn ((s.look p).feTo p false) s (s.cur.wr d (loaded (s.look p) true p 8 (gaSpad s.curTile o))))) ∧
      (s.fe p = false → exec (.ldc d a off) s = .next (s.setCur { s.cur with run := .reissue, wait := .fe o })) ∧
      (s.fe p = false → exec (.stp d a off) s =
        .next (retireIn (((s.put 0 p 8 (s.cur.rd d).low.toNat (markOf (s.cur.rd d))).feTo p true).touch p) s s.cur)) ∧
      (s.fe p = true → exec (.stp d a off) s = .next (s.setCur { s.cur with run := .reissue, wait := .fe o }))) ∧
    (∀ b, ownAccess s a 16 o 8 → exec (.feset b a off) s = .next (retireIn (s.feTo p b) s s.cur)) ∧
    (ownAccess s a 18 o 64 → exec (.scrub a off) s = .next (retireIn (s.together fun s => s.scrub 0 p) s s.cur)) ∧
    (ownAccess s a 2 o 8 → exec (.poison a off) s = .next (retireIn (s.store 0 p 8 0 9) s s.cur))

/-- Loads from the own tile (R91, R160, R162-R166). -/
def Sys2Proof.Claims.OwnTileLoads : Prop :=
  Sys2Proof.Claims.LoadsAtOwnTile ∧ Sys2Proof.Claims.VectorLoadsAtOwnTile

/-- Stores to the own tile (R91, R161-R166). -/
def Sys2Proof.Claims.OwnTileStores : Prop :=
  Sys2Proof.Claims.StoresAtOwnTile ∧ Sys2Proof.Claims.ElementStoresAtOwnTile

/-- Loads and stores at the own tile (R91, R160-R166). -/
def Obligations.OwnTileAccesses : Prop :=
  Sys2Proof.Claims.OwnTileLoads ∧ Sys2Proof.Claims.OwnTileStores

/-- Puts, atomics and the full/empty class at the own tile (R167-R175). -/
def Obligations.OwnTileAtomics : Prop :=
  Sys2Proof.Claims.PutsAndPostedAtomicsAtOwnTile ∧ Sys2Proof.Claims.ReturningAtomicsAtOwnTile ∧ Sys2Proof.Claims.FullEmptyAtOwnTile

/-! # Traps, returns and the system instructions -/

namespace Sys2Proof.Claims
open Sys2Proof Sys2Proof.Machine

/-- The code capability in force: tag and body (R115, R202). -/
def codeInForce (x : Thread) : GReg :=
  match x.code with
  | some u => { tag := .cap, body := u ++ x.pc }
  | none => {}

/-- A thread whose instruction is abandoned: nothing of it stays. -/
def abandoned (x : Thread) : Thread :=
  { x with served := [], retryBanks := [], walkEnds := [], skip := 0, recheck := .no, badBase := none }

/-- The upper half u of the image code capability of a tile (R339, Table 2.9): BASE 0, LEN CODESZ, PERM EX and LD. -/
def isImageCode (u : Word) (size : Nat) : Prop :=
  let r : GReg := { tag := .cap, body := u ++ (0 : Word) }
  wovenCap r = false ∧ field r 117 10 = 0x21 ∧ field r 98 19 = 0 ∧ field r 78 20 = size ∧ field r 64 14 = 0 ∧
  field r 127 1 = 0

/-- The thread that R186 leaves, at its handler. -/
def inHandler (x : Thread) (u : Word) (cause value : Nat) (epc : Word) (walk : Bool) : Thread :=
  { abandoned x with
    epc := epc, ecap := codeInForce x, cause := BitVec.ofNat 8 cause, walkBit := walk, eval := BitVec.ofNat 64 value,
    ppriv := x.priv, priv := true, exl := true, code := some u, pc := x.tvec, fbuf := [], wanted := [] }

/-- The fault record of R187: KIND 5 with the tile, the thread, the PC, the cause and the value. -/
def haltRecord (s : State) (t h cause value : Nat) (pc : Word) : FaultRec :=
  { ctx := (s.tile t).ctx, tile := t,
    words := [BitVec.ofNat 64 (t * 2 ^ 52 + h * 2 ^ 49 + cause * 2 ^ 32 + 5), BitVec.ofNat 64 value, pc, 0, 0, 0, 0, 0] }

/-- STATUS as its thread reads it, STATE 0 (Table 8.3). -/
def statusWord (x : Thread) : Word :=
  (0 : BitVec 58) ++ BitVec.ofBool x.bskip ++ BitVec.ofBool x.wakep ++ BitVec.ofBool x.be ++ BitVec.ofBool x.exl ++
    BitVec.ofBool x.ppriv ++ BitVec.ofBool x.priv

/-- Registers that Table 8.2 hides from user mode, and those that user mode may write. -/
def hidden (r : SysReg) : Prop := r = .tvec ∨ r = .epc ∨ r = .ecause ∨ r = .eval ∨ r = .ecap ∨ r = .bpc
def userMayWrite (r : SysReg) : Prop := r = .rmode ∨ r = .seed

/-- What SYSRD gives (Tables 8.2-8.4). CYCLE is read at X1, four cycles after issue (R192). -/
def systemValue (s : State) (r : SysReg) : GReg :=
  let x := s.cur
  let num := fun (n : Nat) => ({ tag := .data, body := BitVec.ofNat 128 n } : GReg)
  let word := fun (w : Word) => ({ tag := .data, body := w.setWidth 128 } : GReg)
  match r with
  | .status => word (statusWord x)
  | .mode => num (if x.mode then 1 else 0)
  | .rmode => word ((0 : BitVec 59) ++ BitVec.ofBool x.ovf ++ BitVec.ofBool x.ftz ++ x.rm)
  | .seed => word x.seed
  | .tvec => word x.tvec
  | .epc => word x.epc
  | .ecause => word ((0 : BitVec 55) ++ BitVec.ofBool x.walkBit ++ x.cause)
  | .eval => word x.eval
  | .ecap => x.ecap
  | .bpc => word x.bpc
  | .tileid => num (s.curTile % 2 ^ 64)
  | .thrid => num (s.curThr % 2 ^ 64)
  | .ctxid => num (s.curT.ctx % 2 ^ 64)
  | .pkgid => num (s.pkg % 2 ^ 64)
  | .nports => num (((List.range 512).filter fun c => s.diePresent (dieOf c)).length)
  | .cycle => word (.ofNat 64 (s.curT.cycle + 3))
  | .retired => word x.retired
  | .injstall => word s.curT.injstall
  | .throttle => word s.curT.throttleCnt
  | .matwt => word (s.curT.matwt.setWidth 64)

/-- A thread register as SYSWR leaves it: fields marked RO keep their value, reserved bits are not held; a reserved rounding code
stores 000 (R67, R190, R191, R193). -/
def systemWritten (x : Thread) (r : SysReg) (v : GReg) : Thread :=
  let w := v.low
  match r with
  | .status => { x with ppriv := w.getLsbD 1, exl := w.getLsbD 2, be := w.getLsbD 3, wakep := w.getLsbD 4, bskip := w.getLsbD 5 }
  | .rmode => { x with rm := (if w.toNat % 8 < 5 then w.setWidth 3 else 0), ftz := w.getLsbD 3, ovf := w.getLsbD 4 }
  | .seed => { x with seed := w }
  | .tvec => { x with tvec := w }
  | .epc => { x with epc := w }
  | .ecause => { x with cause := w.setWidth 8, walkBit := w.getLsbD 8 }
  | .eval => { x with eval := w }
  | .ecap => { x with ecap := v }
  | .bpc => { x with bpc := w }
  | _ => x

/-- Posted operations of thread h that PDRAIN awaits (R201): those acknowledged to the thread, and signals of its own-tile
operations. -/
def awaited (h : Nat) (p : Posted) : Prop := p.kind = .posted h ∨ p.kind = .signal h true

/-- Table 8.5, for a wake by a thread in mode sup. -/
def woken (x : Thread) (sup : Bool) : Thread :=
  match x.run with
  | .halted => x
  | .yield => { x with run := .rotation, wait := .none }
  | _ => if sup = true ∧ x.wait = .fault then { x with run := .rotation, wait := .none, walkEnds := [] } else { x with wakep := true }

end Sys2Proof.Claims

open Sys2Proof Sys2Proof.Machine Sys2Proof.Claims in
/-- Taking a trap (R183, R184, R186, R187), on any thread: with EXL clear and TVEC set, the saved registers, the mode and the handler
as the rule lists them, in one step that changes nothing else; with EXL set or TVEC zero the thread halts with its
trap registers kept, and its tile holds a record for the supervisor queue. -/
def Obligations.TrapEntry : Prop :=
  ∀ (s : State) (t h cause value : Nat) (epc : Word) (walk : Bool), cause < 256 → (s.tile t).imageSize < 2 ^ 20 →
    let x := s.thr t h
    (x.exl = false → x.tvec ≠ 0 → ∃ u, isImageCode u (s.tile t).imageSize ∧
      s.trapOn t h cause value epc walk = s.setThr t h (inHandler x u cause value epc walk)) ∧
    (x.exl = true ∨ x.tvec = 0 →
      s.trapOn t h cause value epc walk =
        { s.setThr t h { abandoned x with run := .halted, wait := .none, halt187 := true } with
          held := s.held ++ [haltRecord s t h cause value x.pc] })

open Sys2Proof Sys2Proof.Machine Sys2Proof.Claims in
/-- R195: TRAP retires and then traps with cause 0x0C, EVAL = code and EPC the sequential successor; with EXL set it halts the thread
(R187). Its words are major 0x71, F3 0, D zero, one tail parcel with A and B zero and the code in F8; F3 1-7 are illegal. -/
def Obligations.TrapInstruction : Prop :=
  (∀ code : BitVec 8,
    decode ((0b1110001_01_0000_000#16).toNat) ((0#8 ++ code).toNat) = some (.trap code)) ∧
  (∀ (len : BitVec 2) (d : BitVec 4) (f3 : BitVec 3) (tail : Nat), len ≠ 1 ∨ d ≠ 0 ∨ f3 ≠ 0 →
    decode ((0b1110001#7 ++ len ++ d ++ f3).toNat) tail = none) ∧
  (∀ (ab code : BitVec 8), ab ≠ 0 → decode ((0b1110001_01_0000_000#16).toNat) ((ab ++ code).toNat) = none) ∧
  ∀ (s : State) (code : BitVec 8), s.curT.imageSize < 2 ^ 20 →
    let x := { s.cur with retired := s.cur.retired + 1 }
    (s.cur.exl = false → s.cur.tvec ≠ 0 → ∃ u, isImageCode u s.curT.imageSize ∧
      exec (.trap code) s = .next (s.setCur (inHandler x u 0x0C code.toNat s.cur.succ false))) ∧
    (s.cur.exl = true → ∃ r,
      exec (.trap code) s =
        .next { s.setCur { abandoned x with run := .halted, wait := .none, halt187 := true } with held := s.held ++ [r] })

open Sys2Proof Sys2Proof.Machine Sys2Proof.Claims in
/-- R194: the head 0x0000 is NOP, takes no tail, retires and changes nothing else; every other head of major 0x00 is illegal. -/
def Obligations.NopRule : Prop :=
  decode 0 0 = some .nop ∧ Instr.nop.wf = true ∧
  (∀ s : State, exec .nop s = .next (atRetire s s.cur)) ∧
  ∀ h tail, h < 512 → h ≠ 0 → decode h tail = none

open Sys2Proof Sys2Proof.Machine Sys2Proof.Claims in
/-- ERET, PDRAIN and the other supervisor-only instructions (R182, R188, R201-R203): in user mode each traps "privileged in user mode" with
its words in EVAL. ERET restores mode, code capability and PC, and needs a capability in ECAP; PDRAIN retires when no posted
operation of its thread is outstanding, and parks while one is. -/
def Sys2Proof.Claims.PrivilegedInstructions : Prop :=
  ∀ (s : State),
    (s.cur.priv = false → ∀ a b scope i,
      i ∈ [Instr.eret, .pdrain, .ctxst a b, .ctxld a b, .tlbinv a b scope] → exec i s = s.trap 0x03 s.headTail) ∧
    (s.cur.priv = true →
      (s.cur.ecap.tag ≠ .cap → exec .eret s = s.trap 0x04 0) ∧
      (s.cur.ecap.tag = .cap →
        exec .eret s = .next (s.setCur { s.cur with
          code := some s.cur.ecap.upper, pc := s.cur.epc, priv := s.cur.ppriv, exl := false, fbuf := [], wanted := [],
          retired := s.cur.retired + 1, served := [], retryBanks := [], walkEnds := [] })) ∧
      ((∀ p ∈ s.curT.posted, ¬awaited s.curThr p) → exec .pdrain s = .next (atRetire s s.cur)) ∧
      ((∃ p ∈ s.curT.posted, awaited s.curThr p) →
        exec .pdrain s = .next (s.setCur { s.cur with run := .reissue, wait := .pdrain })))

open Sys2Proof Sys2Proof.Machine Sys2Proof.Claims in
/-- SYSRD and SYSWR (R189-R193, Tables 8.2-8.4), for every register: the traps of user mode and of a poisoned source; the value read; the
fields written. A write to a read-only register is ignored; one to RETIRED is not counted; MATWT 0 stores 1. -/
def Obligations.SystemRegisters : Prop :=
  ∀ (s : State) (r : SysReg) (d a : GIx),
    let x := s.cur.rd a
    let user := s.cur.priv = false
    (user ∧ hidden r → exec (.sysrd d r) s = s.trap 0x03 s.headTail) ∧
    (¬(user ∧ hidden r) → exec (.sysrd d r) s = writes s d (systemValue s r)) ∧
    (user ∧ ¬userMayWrite r → exec (.syswr r a) s = s.trap 0x03 s.headTail) ∧
    (¬(user ∧ ¬userMayWrite r) →
      (x.tag = .poison → exec (.syswr r a) s = s.trap 0x08 (classOf x)) ∧
      (x.tag ≠ .poison →
        (r ≠ .retired → r ≠ .matwt → exec (.syswr r a) s = .next (atRetire s (systemWritten s.cur r x))) ∧
        (r = .retired → exec (.syswr r a) s =
          .next (s.setCur { s.cur with pc := s.cur.succ, retired := x.low, served := [], retryBanks := [], walkEnds := [] })) ∧
        (r = .matwt → exec (.syswr r a) s =
          .next (atRetire (s.updTile s.curTile fun y => { y with matwt := if x.low.setWidth 4 = 0#4 then 1 else x.low.setWidth 4 }) s.cur))))

open Sys2Proof Sys2Proof.Machine Sys2Proof.Claims in
/-- YIELD, HALT, RDCNT, WAKE (R197-R200, Table 8.5). YIELD clears a pending wake or parks; HALT halts and retires; RDCNT reads CYCLE at X1, or
RETIRED in replay mode; WAKE to a thread of the own tile acts by that thread's state, and traps on a poisoned or malformed
target. -/
def Obligations.YieldHaltRdcntWake : Prop :=
  ∀ (s : State) (d a : GIx),
    let x := s.cur.rd a
    (s.cur.wakep = true → exec .yield s = .next (atRetire s { s.cur with wakep := false })) ∧
    (s.cur.wakep = false → exec .yield s = .next (atRetire s { s.cur with run := .yield, wait := .none })) ∧
    exec .halt s = .next (atRetire s { s.cur with run := .halted, wait := .none }) ∧
    exec (.rdcnt d) s = writes s d { tag := .data, body :=
      (if s.curT.replay then s.cur.retired else BitVec.ofNat 64 (s.curT.cycle + 3)).setWidth 128 } ∧
    (x.tag = .poison → exec (.wake a) s = s.trap 0x08 (classOf x)) ∧
    (x.tag ≠ .poison →
      let shaped := x.low.extractLsb' 44 2 = 0#2 ∧ x.low.extractLsb' 3 16 = 0#16
      let near := x.low.getLsbD 63 ∨ (x.low.extractLsb' 46 17).toNat = s.pkg
      let target := (x.low.extractLsb' 0 3).toNat
      (¬shaped → exec (.wake a) s = s.trap 0x05 x.low.toNat) ∧
      (shaped → near → (x.low.extractLsb' 32 12).toNat = s.curTile → ∃ t, exec (.wake a) s = .next t ∧
        (target ≠ s.curThr →
          t = (atRetire s s.cur).setThr s.curTile target (woken (s.thr s.curTile target) s.cur.priv)) ∧
        (target = s.curThr → s.cur.run = .rotation → s.cur.wait = .none → t = atRetire s { s.cur with wakep := true })))

/-! # Thread images, TLBINV, the fault log -/

namespace Sys2Proof.Claims
open Sys2Proof Sys2Proof.Machine

/-- Word i of a thread's image (Table 8.6): registers g1-g15, tags and masks, vector registers and their poison masks, PC and code
capability, ECAP, and the system registers; st is the STATE recorded. -/
def imageWord (x : Thread) (st i : Nat) : Word :=
  let g := fun (j : Nat) => x.rd (Fin.ofNat 16 j)
  let v := fun (j : Nat) => x.rv (Fin.ofNat 8 j)
  let tags := ((List.range 16).map fun j => tagNumber (g j) * 4 ^ j).sum + tagNumber x.ecap * 2 ^ 32 + (if x.code.isSome then 2 ^ 34 else 0)
  let masks := fun (j : Nat) => (v (j + 3)).pmask ++ (v (j + 2)).pmask ++ (v (j + 1)).pmask ++ (v j).pmask
  if i < 30 then (g (i / 2 + 1)).body.extractLsb' (64 * (i % 2)) 64
  else if i = 30 then .ofNat 64 tags
  else if i = 31 then (0 : BitVec 16) ++ x.rk 3 ++ x.rk 2 ++ x.rk 1
  else if i < 96 then (v ((i - 32) / 8)).val.extractLsb' (64 * ((i - 32) % 8)) 64
  else if i = 96 then masks 0
  else if i = 97 then masks 4
  else if i = 98 then x.pc
  else if i = 99 then x.code.getD 0
  else if i = 100 then x.ecap.low
  else if i = 101 then x.ecap.upper
  else if i = 102 then statusWord x ||| .ofNat 64 (st * 2 ^ 8)
  else if i = 103 then (if x.mode then 1 else 0)
  else if i = 104 then (0 : BitVec 59) ++ BitVec.ofBool x.ovf ++ BitVec.ofBool x.ftz ++ x.rm
  else if i = 105 then x.seed
  else if i = 106 then x.epc
  else if i = 107 then (0 : BitVec 55) ++ BitVec.ofBool x.walkBit ++ x.cause
  else if i = 108 then x.eval
  else if i = 109 then x.tvec
  else if i = 110 then x.retired
  else x.bpc

/-- The register that two words and a tag make (R59, R202, Table 2.1): data with a body above its word, a capability that no
instruction could make, poison with more than a class in its low word, and tag 11 give poison of class 0x06, whose origin is
open (log 70). at_: global address of the words. -/
def loadedReg (at_ tag : Nat) (lo hi : Word) : GReg :=
  let r : GReg := { tag := .cap, body := hi ++ lo }
  let forged : GReg := { tag := .poison, body := Config.imageOrigin at_ ++ 6#64 }
  if tag = 0 then (if hi = 0 then { tag := .data, body := hi ++ lo } else forged)
  else if tag = 1 then (if capUnproducible r then forged else r)
  else if tag = 2 then (if lo.toNat < 256 then { tag := .poison, body := hi ++ lo } else forged)
  else forged

/-- A thread that has loaded the image at a global address whose words are w (R202). A rounding mode that SYSWR would not store loads
as 000 (log 71). -/
def imageLoaded (s : State) (y : Thread) (base : Nat) (w : Nat → Word) : Prop :=
  let st := w 102
  let field := fun (x : Word) (lo n : Nat) => (x.extractLsb' lo n).toNat
  let ctag := field (w 30) 34 2
  let code : GReg := { tag := .cap, body := w 99 ++ w 98 }
  let runnable := ctag = 1 ∧ capUnproducible code = false ∧ code.namesTile s.pkg s.curTile = true ∧ code.upper.getLsbD 58 = true
  (∀ j, 1 ≤ j → j < 16 → y.rd (Fin.ofNat 16 j) =
    loadedReg (base + 16 * (j - 1)) (field (w 30) (2 * j) 2) (w (2 * j - 2)) (w (2 * j - 1))) ∧
  (∀ j, j < 8 → ∀ i, i < 16 →
    vElt (y.rv (Fin.ofNat 8 j)) 32 i = field (w (32 + 8 * j + i / 2)) (32 * (i % 2)) 32 ∧
    vBad (y.rv (Fin.ofNat 8 j)) i = (w (96 + j / 4)).getLsbD (16 * (j % 4) + i)) ∧
  (∀ j, 1 ≤ j → j < 4 → y.rk (Fin.ofNat 4 j) = (w 31).extractLsb' (16 * (j - 1)) 16) ∧
  y.pc = w 98 ∧ y.code = (if ctag = 1 then some (w 99) else none) ∧
  y.ecap = loadedReg (base + 0x320) (field (w 30) 32 2) (w 100) (w 101) ∧ y.mode = (w 103).getLsbD 0 ∧
  y.priv = st.getLsbD 0 ∧ y.ppriv = st.getLsbD 1 ∧ y.exl = st.getLsbD 2 ∧ y.be = st.getLsbD 3 ∧ y.wakep = st.getLsbD 4 ∧
  y.bskip = st.getLsbD 5 ∧
  y.rm = (if field (w 104) 0 3 < 5 then (w 104).setWidth 3 else 0) ∧ y.ftz = (w 104).getLsbD 3 ∧ y.ovf = (w 104).getLsbD 4 ∧
  y.seed = w 105 ∧ y.epc = w 106 ∧ y.cause = (w 107).setWidth 8 ∧ y.walkBit = (w 107).getLsbD 8 ∧ y.eval = w 108 ∧
  y.tvec = w 109 ∧ y.retired = w 110 ∧ y.bpc = w 111 ∧ y.fbuf = [] ∧ y.wait = .none ∧
  (field st 8 3 = 1 → y.run = .wfw) ∧
  (field st 8 3 = 0 ∨ field st 8 3 = 3 → y.run = if runnable then .rotation else .halted) ∧
  (field st 8 3 = 2 → y.run = if runnable then .yield else .halted) ∧
  (4 ≤ field st 8 3 → y.run = .halted)

/-- gA is a plain tile capability of the own tile for an image of 896 bytes at offset o, aligned to 128 (R202). -/
def imageAccess (s : State) (a : GIx) (rights o : Nat) : Prop :=
  let r := s.cur.rd a
  r.tag = .cap ∧ r.namesTile s.pkg s.curTile = true ∧ r.grants rights = true ∧ field r 19 13 = 0 ∧
  r.low.toNat % 2 ^ 19 = o ∧ (baseLen r).1 ≤ o ∧ o + 896 ≤ (baseLen r).1 + (baseLen r).2 ∧ o + 896 ≤ 2 ^ 19 ∧ o % 128 = 0

/-- The words of an image are clean and without stored errors. -/
def imageClean (s : State) (o : Nat) : Prop :=
  ∀ i, i < 112 → noErr s (spad s.curTile (o + 8 * i)) ∧ s.poisoned (spad s.curTile (o + 8 * i)) = false

/-- Word w of a log entry (Table 13.3). -/
def logEntryWord (e : LogEntry) (w : Nat) : Word :=
  match w with
  | 0 => (1 : BitVec 1) ++ BitVec.ofBool e.rd ++ BitVec.ofBool e.h ++ (0 : BitVec 2) ++ BitVec.ofNat 3 e.thr ++ BitVec.ofNat 16 e.origin ++
      BitVec.ofNat 8 (reasonCode e.reason) ++ BitVec.ofNat 16 e.head ++ (0 : BitVec 8) ++ BitVec.ofNat 8 e.cls
  | 1 => e.addr
  | 2 => e.opnd
  | _ => e.pc

end Sys2Proof.Claims

open Sys2Proof Sys2Proof.Machine Sys2Proof.Claims in
/-- CTXST and CTXLD (R202, Table 8.6), in supervisor mode, for another thread of the tile that is halted: the 112 words of the image are
stored and the target stays halted, or the target takes what the image holds. The issuer retires; naming itself, or a
number that is no thread, traps "permission". -/
def Obligations.ThreadImages : Prop :=
  ∀ (s : State) (a b : GIx) (o : Nat), s.cur.priv = true → s.cur.run = .rotation →
    let y := s.cur.rd b
    let h := y.low.toNat
    y.tag ≠ .poison → imageClean s o →
    (∀ i rights, (i = Instr.ctxst a b ∧ rights = 2 ∨ i = Instr.ctxld a b ∧ rights = 1) → imageAccess s a rights o →
      (8 ≤ h ∨ h = s.curThr → exec i s = s.trap 0x05 (s.cur.rd a).low.toNat)) ∧
    (h < 8 → h ≠ s.curThr → (s.thr s.curTile h).run = .halted → (s.thr s.curTile h).wait = .none →
      (imageAccess s a 2 o → ∃ u, exec (.ctxst a b) s = .next u ∧ u.cur = (atRetire s { s.cur with wait := .none }).cur ∧
        (u.thr s.curTile h).run = .halted ∧
        ∀ i, i < 112 → u.val (spad s.curTile (o + 8 * i)) 8 = (imageWord (s.thr s.curTile h) 4 i).toNat) ∧
      (imageAccess s a 1 o → ∃ u, exec (.ctxld a b) s = .next u ∧ u.cur = (atRetire s { s.cur with wait := .none }).cur ∧
        u.mem = s.mem ∧
        imageLoaded s (u.thr s.curTile h) (gaSpad s.curTile o) fun i => .ofNat 64 (s.val (spad s.curTile (o + 8 * i)) 8)))

open Sys2Proof Sys2Proof.Machine Sys2Proof.Claims in
/-- TLBINV (R203) in supervisor mode: page and range scopes take an HBM capability and trap "permission" on another kind; the invalidation
is outstanding at every port present, each of which is sent a request; the issuer retires. While OFFLINE or ONLINE is in progress
it parks with nothing performed. -/
def Sys2Proof.Claims.TlbInvalidate : Prop :=
  ∀ (s : State) (a b : GIx) (scope : InvScope), s.cur.priv = true → flagReady s b →
    let r := s.cur.rd a
    let ports := (List.range 512).filter fun c => s.diePresent (dieOf c)
    (scope ≠ .context → r.tag = .cap → (wovenCap r = true ∨ space r ≠ 1) → exec (.tlbinv a b scope) s = s.trap 0x05 r.low.toNat) ∧
    (scope = .context ∨ (r.tag = .cap ∧ wovenCap r = false ∧ space r = 1) →
      (s.evo.offlinePending ≠ none ∨ s.evo.onlinePending ≠ none →
        exec (.tlbinv a b scope) s = .next (s.setCur { s.cur with run := .reissue, wait := .tlbinv })) ∧
      (s.evo.offlinePending = none → s.evo.onlinePending = none →
      ∃ u flag, exec (.tlbinv a b scope) s = .next u ∧ u.cur = (atRetire s s.cur).cur ∧ u.mem = s.mem ∧
        u.invals = s.invals ++ [{ tag := s.tags + 1, ctx := s.curT.ctx, flag := flag, tile := s.curTile, left := ports }] ∧
        (b = 0 → flag = 0) ∧ (∀ f, b ≠ 0 → names s b 0 f → flag = gaSpad s.curTile f) ∧
        ∀ c ∈ ports, ∃ f ∈ (u.tile s.curTile).injA, f.op = .tlbinv ∧ f.home = .tile (clusterTile c 0) ∧ f.tag = s.tags + 1))

open Sys2Proof Sys2Proof.Machine Sys2Proof.Claims in
/-- FLOGRD (R310): gD receives a word of an entry, zero where there is none; reading word 0 marks the entry read and
changes nothing else. -/
def Sys2Proof.Claims.FaultLogRead : Prop :=
  ∀ (s : State) (d : GIx) (e : Fin 8) (w : Fin 4),
    let l := s.curT.flog
    (l.length ≤ e.val → exec (.flogrd d e w) s = writes s d { tag := .data, body := 0 }) ∧
    (∀ x, l[e.val]? = some x →
      (w ≠ 0 → exec (.flogrd d e w) s = writes s d { tag := .data, body := (logEntryWord x w).setWidth 128 }) ∧
      (w = 0 → ∃ u, exec (.flogrd d e w) s = .next u ∧
        u.cur = (atRetire s (s.cur.wr d { tag := .data, body := (logEntryWord x 0).setWidth 128 })).cur ∧ u.mem = s.mem ∧
        (u.tile s.curTile).flog.length = l.length ∧
        ∀ i : Nat, (u.tile s.curTile).flog[i]? = if i = e.val then some { x with rd := true } else l[i]?))

open Sys2Proof Sys2Proof.Machine Sys2Proof.Claims in
/-- R311: FLOGCLR clears the entries that its mask names, the others moving down in age order; where none is left the count of spilled
unread entries clears too; mask 0 changes nothing. Its words are major 0x30, F3 3, D, A, B and C zero, the mask in
I20[7:0] and I20[19:8] zero. -/
def Sys2Proof.Claims.FaultLogClear : Prop :=
  (∀ m : BitVec 8, decode ((0b0110000_10_0000_011#16).toNat) ((0#24 ++ m).toNat) = some (.flogclr m)) ∧
  (∀ (d : BitVec 4) (high : BitVec 24) (m : BitVec 8), d ≠ 0 ∨ high ≠ 0 →
    decode ((0b0110000_10#9 ++ d ++ 0b011#3).toNat) ((high ++ m).toNat) = none) ∧
  ∀ (s : State) (m : BitVec 8), ∃ u, exec (.flogclr m) s = .next u ∧
    (m = 0 → u = atRetire s s.cur) ∧
    (m ≠ 0 →
      let kept := (s.curT.flog.zipIdx.filter fun x => !m.getLsbD x.2).map fun x => x.1
      u = atRetire (s.updTile s.curTile fun y => { y with flog := kept, spilled := if kept = [] then 0 else y.spilled }) s.cur)

/-- The fault log as its instructions read and clear it: FaultLogRead, FaultLogClear. -/
def Obligations.FaultLogInstructions : Prop :=
  Sys2Proof.Claims.FaultLogRead ∧ Sys2Proof.Claims.FaultLogClear

/-- The supervisor-only instructions but thread images (R182, R188, R201, R203). That ERET does not look at EX of ECAP is the model's choice
(log 73). -/
def Obligations.PrivilegedOperations : Prop :=
  Sys2Proof.Claims.PrivilegedInstructions ∧ Sys2Proof.Claims.TlbInvalidate

/-! # Flags, tasks, chunks and barriers -/

namespace Sys2Proof.Claims
open Sys2Proof Sys2Proof.Machine

/-- Registers of monitor j of an FWAIT (R176). -/
def monFlag (j : Nat) : GIx := Fin.ofNat 16 (2 * j + 4)
def monThreshold (j : Nat) : GIx := Fin.ofNat 16 (2 * j + 5)

/-- Every enabled monitor watches an own-tile word at offset o j, free of stored errors, with a clean threshold. -/
def ownMonitors (s : State) (en : BitVec 4) (o : Nat → Nat) : Prop :=
  ∀ j, j < 4 → en.getLsbD j = true →
    names s (monFlag j) 0 (o j) ∧ ownAccess s (monFlag j) 8 (o j) 8 ∧ noErr s (spad s.curTile (o j)) ∧
    (s.cur.rd (monThreshold j)).tag ≠ .poison

/-- Class of the flag at flat address a (R177): that of its word or of the flag, 0 for none. -/
def flagClass (s : State) (a : Nat) : Option Nat :=
  if s.poisoned a then some (s.val a 8 % 256) else if s.val a 8 / 2 ^ 40 % 256 = 0 then none else some (s.val a 8 / 2 ^ 40 % 256)

/-- Monitor j is satisfied: COUNT at least the threshold, or equal to it (R176). -/
def satisfied (s : State) (eq : BitVec 4) (o : Nat → Nat) (j : Nat) : Prop :=
  let n := s.val (spad s.curTile (o j)) 8 % 2 ^ 40
  let t := (s.cur.rd (monThreshold j)).low.toNat
  if eq.getLsbD j then n = t else t ≤ n

/-- The thread once FWAIT has ended with v in gD. -/
def waitEnded (s : State) (d : GIx) (v : GReg) : Thread :=
  { s.cur.wr d v with
    pc := s.cur.succ, retired := s.cur.retired + 1, served := [], retryBanks := [], walkEnds := [], run := .rotation, wait := .none }

/-- The 64 bytes of a record at flat address p are clean and without stored errors. -/
def recordClean (s : State) (p : Nat) : Prop := ∀ i, i < 8 → noErr s (p + 8 * i) ∧ s.poisoned (p + 8 * i) = false

/-- A record as the memory unit builds it from clean memory at p (R276, Table 12.1). -/
def recordAt (s : State) (p : Nat) (r : TaskRec) : Prop :=
  let w := fun (i : Nat) => s.val (p + 8 * i) 8
  r.ctrlMark = 0 ∧ r.prio = w 0 / 2 ^ 19 % 4 ∧ r.entry = w 0 % 2 ^ 19 ∧ r.taskid = .ofNat 64 (w 1) ∧ r.tpsn = false ∧
  r.slots = (List.range 6).map fun i => ((if s.tagAt (p + 16 + 8 * i) then 1 else 0), .ofNat 64 (w (2 + i)))

/-- gB of TSPAWN names the own tile (R280). -/
def spawnsHere (s : State) (b : GIx) : Prop :=
  let v := s.cur.rd b
  b = 0 ∨ (v.tag ≠ .poison ∧ v.low.extractLsb' 44 2 = 0#2 ∧ v.low.extractLsb' 0 32 = 0#32 ∧
    (v.low.extractLsb' 32 12).toNat = s.curTile ∧ (v.low.getLsbD 63 = true ∨ (v.low.extractLsb' 46 17).toNat = s.pkg))

/-- The queue bank of the issuing tile's cluster has room. -/
def bankRoom (s : State) : Prop := (s.cluster (clusterOf s.curTile)).bank.length < 1024

/-- The bank copies no row to a spare (R399). -/
def bankIdle (s : State) : Prop := (s.cluster (clusterOf s.curTile)).mending.contains 1 = false

/-- The slot is given up, with nothing of the instruction done. -/
def givesUp (s : State) (o : Host.Outcome State Fault Refusal) : Prop := o = .next (s.setCur { s.cur with retryBanks := s.cur.retryBanks })

/-- The record x has joined the bank of the issuing tile's cluster. -/
def joined (s u : State) (x : BankRec) : Prop :=
  (u.cluster (clusterOf s.curTile)).bank = (s.cluster (clusterOf s.curTile)).bank ++ [x]

/-- Count of the next chunk of a counter (R291). -/
def chunkOf (k : ChunkCtr) : Nat :=
  let p := if k.p = 0 then 1 else k.p
  let m := if k.minc = 0 then 1 else k.minc
  let left := k.endv - k.next
  min (min left (max m ((left + p - 1) / p))) (2 ^ 24 - 1)

/-- The counter n of the issuing tile's cluster may be accessed in this cycle (R291, log 25). -/
def chunkReady (s : State) (n : Nat) : Prop :=
  let cl := s.cluster (clusterOf s.curTile)
  cl.chunkTaken.contains n = false ∧ mfind cl.chunkClaims n = none

def counterOf (s : State) (n : Nat) : ChunkCtr := mget {} (s.cluster (clusterOf s.curTile)).chunks n

/-- Barrier n of the issuing tile. -/
def barrierOf (s : State) (n : Nat) : Barrier := mget {} s.curT.barriers n

end Sys2Proof.Claims

open Sys2Proof Sys2Proof.Machine Sys2Proof.Claims in
/-- The synchronising instructions (R303): with an asynchronous fault pending each traps "async fault" before any part of it is performed,
and the trap clears the bit. -/
def Obligations.SynchronisingInstructions : Prop :=
  ∀ (s : State) (i : Instr), s.cur.afp = true →
    ((∃ ty d a b off, i = .rfadd ty d a b off) ∨ (∃ ty d a b c off, i = .rcas ty d a b c off) ∨ (∃ ty d a b off, i = .rswap ty d a b off) ∨
     (∃ d a off, i = .ldc d a off) ∨ (∃ d a off, i = .stp d a off) ∨ (∃ d a en eq, i = .fwait d a en eq) ∨ i = .wfw ∨
     (∃ a n, i = .bar a n) ∨ (∃ d n, i = .pbarw d n) ∨ (∃ d n, i = .pbar d n)) →
    exec i s = (s.setCur { s.cur with afp := false }).trap 0x0E (asyncEval s.curT)

open Sys2Proof Sys2Proof.Machine Sys2Proof.Claims in
/-- R285: WFW retires, discards the fetch buffer and parks its thread in STATE 1; it synchronises; its head is major 0x2C, F3 0, D zero, no
tail, and F3 1-7 are illegal. -/
def Obligations.WfwRule : Prop :=
  decode ((0b0101100_00_0000_000#16).toNat) 0 = some .wfw ∧
  (∀ (len : BitVec 2) (d : BitVec 4) (f3 : BitVec 3) (tail : Nat), len ≠ 0 ∨ d ≠ 0 ∨ f3 ≠ 0 →
    decode ((0b0101100#7 ++ len ++ d ++ f3).toNat) tail = none) ∧
  ∀ s : State,
    (s.cur.afp = true → exec .wfw s = (s.setCur { s.cur with afp := false }).trap 0x0E (asyncEval s.curT)) ∧
    (s.cur.afp = false → ∃ u n, exec .wfw s = .next u ∧ u.mem = s.mem ∧
      u.cur = (atRetire s { s.cur with run := .wfw, wait := .none, wfwSince := n, fbuf := [], wanted := [] }).cur)

open Sys2Proof Sys2Proof.Machine Sys2Proof.Claims in
/-- FSIG and FWAIT on flags of the own tile (R169, R176, R177): FSIG signals by gB modulo 2^40, or with the class of a poisoned gB; FWAIT
decides its monitors in index order, the lowest satisfied or poisoned giving gD; a poll that finds none gives 4, and any
other wait parks. A poisoned timeout or threshold traps. -/
def Obligations.FlagsAtOwnTile : Prop :=
  ∀ (s : State) (d a b : GIx),
    (∀ (off : BitVec 19) o, names s a off.toInt o → ownAccess s a 8 o 8 → free s [o] →
      exec (.fsig a b off) s =
        .next (retireIn (s.signalAt (spad s.curTile o) ((s.cur.rd b).low.toNat % 2 ^ 40) (markOf (s.cur.rd b) - 1) s.curTile) s s.cur)) ∧
    (∀ en eq o, s.cur.afp = false → ownMonitors s en o → s.cur.run = .rotation → s.cur.wait = .none →
      let on := fun (j : Nat) => j < 4 ∧ en.getLsbD j = true
      let decided := fun (j : Nat) => satisfied s eq o j ∨ (flagClass s (spad s.curTile (o j))).isSome = true
      ((s.cur.rd a).tag = .poison → a ≠ 0 → exec (.fwait d a en eq) s = s.trap 0x08 (classOf (s.cur.rd a))) ∧
      ((s.cur.rd a).tag ≠ .poison →
        (∀ j, on j → decided j → (∀ i, i < j → on i → ¬decided i) →
          ∃ u, exec (.fwait d a en eq) s = .next u ∧ u.mem = s.mem ∧
            u.cur = waitEnded s d (match flagClass s (spad s.curTile (o j)) with
              | some c => { tag := .poison, body := BitVec.ofNat 64 (gaSpad s.curTile (o j)) ++ BitVec.ofNat 64 c }
              | none => { tag := .data, body := BitVec.ofNat 128 j })) ∧
        ((∀ j, on j → ¬decided j) →
          (a ≠ 0 → (s.cur.rd a).low = 0 →
            ∃ u, exec (.fwait d a en eq) s = .next u ∧ u.mem = s.mem ∧ u.cur = (atRetire s (s.cur.wr d { tag := .data, body := 4 })).cur) ∧
          (a = 0 ∨ (s.cur.rd a).low ≠ 0 → ∃ u mons start, exec (.fwait d a en eq) s = .next u ∧ u.mem = s.mem ∧
            u.cur = { s.cur with run := .reissue,
                                 wait := .fwait d.val mons start (if a = 0 then none else some (s.cur.rd a).low.toNat) }))))

open Sys2Proof Sys2Proof.Machine Sys2Proof.Claims in
/-- TSPAWN to the own tile (R276, R279, R280): a record of 64 clean bytes joins the tile's ring, or the cluster's, of a bank with room, at
the stamp and level of R282; a full bank without a cuff refuses it, and it is held for a retry, or the thread parks where the tile
can hold no more retries (R358, log 78). With eight spawned records held the thread parks. While the bank copies a row to a spare
the slot is given up (R399). -/
def Obligations.SpawnAtOwnTile : Prop :=
  ∀ (s : State) (a b : GIx) (cr : Bool) (o : Nat),
    names s a 0 o → ownAccess s a 1 o 64 → spawnsHere s b → s.refusing [o] = [] → recordClean s (spad s.curTile o) →
    (¬bankIdle s → givesUp s (exec (.tspawn a b cr) s)) ∧
    (bankIdle s → 8 ≤ s.curT.spawn.length →
      exec (.tspawn a b cr) s = .next (s.setCur { s.cur with run := .reissue, wait := .spawnFull })) ∧
    (bankIdle s → s.curT.spawn.length < 8 →
      (bankRoom s → ∃ u x, exec (.tspawn a b cr) s = .next u ∧ u.cur = (atRetire s s.cur).cur ∧ u.mem = s.mem ∧ joined s u x ∧
        recordAt s (spad s.curTile o) x.r ∧ x.ring = (if cr then 8 else inCluster s.curTile) ∧ x.level = x.r.prio ∧
        x.stamp = (s.cluster (clusterOf s.curTile)).counter ∧ x.block = none) ∧
      (¬bankRoom s → (s.cluster (clusterOf s.curTile)).cuff = none →
        (s.retryRoom s.curTile 2 = false →
          exec (.tspawn a b cr) s = .next (s.setCur { s.cur with run := .reissue, wait := .retryFull })) ∧
        (s.retryRoom s.curTile 2 = true → ∃ u x, exec (.tspawn a b cr) s = .next u ∧ u.cur = (atRetire s s.cur).cur ∧ u.mem = s.mem ∧
          (u.tile s.curTile).spawn = s.curT.spawn ++ [x] ∧ x.thr = s.curThr ∧ recordAt s (spad s.curTile o) x.r ∧
          (u.tile s.curTile).retries.length = s.curT.retries.length + 1)))

open Sys2Proof Sys2Proof.Machine Sys2Proof.Claims in
/-- TDEC and TCANCEL on a pending block of the own tile with clean words, the bank having room (R277, R278, R281, R290, Table 12.4): TDEC lowers
NPRED, and pushes the record where it falls to zero in STATE PENDING or where an earlier push was refused; TCANCEL answers by STATE
and takes a record that has not been dispatched out of the bank. While the bank copies a row to a spare the slot is given up (R399). -/
def Obligations.PendingBlocks : Prop :=
  ∀ (s : State) (d a : GIx) (o : Nat),
    names s a 0 o → ownAccess s a 4 o 128 → s.cur.wait = .none →
    let p := spad s.curTile o
    let st := s.val p 8
    let n := s.val (p + 56) 8
    recordClean s p → recordClean s (p + 64) →
    (¬bankIdle s → givesUp s (exec (.tdec a) s) ∧ givesUp s (exec (.tcancel d a) s)) ∧
    (bankIdle s → s.refusing [o, o + 64] = [] → bankRoom s →
      ∃ u, exec (.tdec a) s = .next u ∧ u.cur = (atRetire s s.cur).cur ∧
        (∀ c, c < p ∨ p + 64 ≤ c → u.byte c = s.byte c) ∧
        (st = 1 ∨ (st = 0 ∧ n = 1) → u.val p 8 = 2 ∧ u.val (p + 56) 8 = (if st = 1 then n else 0) ∧
          ∃ x, joined s u x ∧ recordAt s (p + 64) x.r ∧ x.ring = inCluster s.curTile ∧ x.block = some (gaSpad s.curTile o)) ∧
        (¬(st = 1 ∨ (st = 0 ∧ n = 1)) → u.val p 8 = st ∧ u.val (p + 56) 8 = (n + 2 ^ 64 - 1) % 2 ^ 64 ∧
          (u.cluster (clusterOf s.curTile)).bank = (s.cluster (clusterOf s.curTile)).bank)) ∧
    (bankIdle s → free s [o] →
      ∃ u, exec (.tcancel d a) s = .next u ∧
        u.cur = (atRetire s (s.cur.wr d { tag := .data, body := if st = 0 then 0 else if st ≤ 2 then 1 else if st = 3 then 2 else 3 })).cur ∧
        u.val p 8 = (if st ≤ 2 then 4 else st) ∧
        (u.cluster (clusterOf s.curTile)).bank =
          if st = 1 ∨ st = 2 then (s.cluster (clusterOf s.curTile)).bank.filter fun x => x.block ≠ some (gaSpad s.curTile o)
          else (s.cluster (clusterOf s.curTile)).bank)

open Sys2Proof Sys2Proof.Machine Sys2Proof.Claims in
/-- GCSET, GCHUNK and BAR (R291, R292). GCSET loads a counter, or gives it the class of its first poisoned operand; GCHUNK gives the next
chunk and advances, or the counter's poison; a counter already accessed in the cycle costs the slot. BAR parks until the last participant, who releases the others;
the first arrival latches the count. A BAR issued again after a halt arrives no second time, and goes on where its barrier has been
released since (R295). -/
def Obligations.ChunksAndBarriers : Prop :=
  ∀ (s : State),
    (∀ (n : Fin 8) (d a b c : GIx), chunkReady s n →
      let k := counterOf s n
      let x := s.cur.rd a
      let y := s.cur.rd b
      let z := s.cur.rd c
      (∃ u, exec (.gcset n a b c) s = .next u ∧ u.cur = (atRetire s s.cur).cur ∧ u.mem = s.mem ∧
        (∀ q, ([x, y, z].find? fun r => r.tag = .poison) = some q →
          counterOf u n = { k with cls := classOf q, origin := s.curTile }) ∧
        (([x, y, z].find? fun r => r.tag = .poison) = none →
          counterOf u n = { next := x.low.toNat % 2 ^ 40, endv := y.low.toNat % 2 ^ 40, p := z.low.toNat % 2 ^ 16,
                            minc := z.low.toNat / 2 ^ 16 % 2 ^ 24, cls := 0, origin := 0 })) ∧
      (k.cls = 0 → ∃ u, exec (.gchunk n d) s = .next u ∧ u.mem = s.mem ∧
        u.cur = (atRetire s (s.cur.wr d { tag := .data, body := (BitVec.ofNat 64 (k.next * 2 ^ 24 + chunkOf k)).setWidth 128 })).cur ∧
        counterOf u n = { k with next := (k.next + chunkOf k) % 2 ^ 40 }) ∧
      (k.cls ≠ 0 → ∃ u, exec (.gchunk n d) s = .next u ∧ u.mem = s.mem ∧ counterOf u n = k ∧
        u.cur = (atRetire s (s.cur.wr d { tag := .poison, body := BitVec.ofNat 64 k.origin ++ BitVec.ofNat 64 (k.cls % 256) })).cur)) ∧
    (∀ (n : Fin 8) (d a b c : GIx) i, (i = Instr.gcset n a b c ∨ i = Instr.gchunk n d) →
      (s.cluster (clusterOf s.curTile)).chunkTaken.contains n.val = true →
      ∃ u, exec i s = .next u ∧ u.cur = { s.cur with retryBanks := [] } ∧ counterOf u n = counterOf s n) ∧
    (∀ (a : GIx) (n : Fin 32), s.cur.afp = false →
      let x := s.cur.rd a
      let br := barrierOf s n
      let count := if br.arrived = [] then (if 1 ≤ x.low.toNat ∧ x.low.toNat ≤ 8 then x.low.toNat else 8) else br.count
      (x.tag = .poison → exec (.bar a n) s = s.trap 0x08 (classOf x)) ∧
      (x.tag ≠ .poison → s.curThr ∈ br.arrived →
        exec (.bar a n) s = .next (s.setCur { s.cur with run := .reissue, wait := .bar n.val, limbo := none })) ∧
      (x.tag ≠ .poison → s.curThr ∉ br.arrived → s.cur.limbo = some (s.cur.pc.toNat % 2 ^ 19, .bar n.val) →
        exec (.bar a n) s = .next (atRetire s { s.cur with limbo := none })) ∧
      (x.tag ≠ .poison → s.curThr ∉ br.arrived → s.cur.limbo ≠ some (s.cur.pc.toNat % 2 ^ 19, .bar n.val) →
        (br.arrived.length + 1 ≠ count → ∃ u, exec (.bar a n) s = .next u ∧ u.mem = s.mem ∧
          u.cur = { s.cur with run := .reissue, wait := .bar n.val } ∧
          (barrierOf u n).count = count ∧ ∀ h, h ∈ (barrierOf u n).arrived ↔ h = s.curThr ∨ h ∈ br.arrived) ∧
        (br.arrived.length + 1 = count → ∃ u, exec (.bar a n) s = .next u ∧ u.mem = s.mem ∧
          u.cur = (atRetire s s.cur).cur ∧ barrierOf u n = {} ∧
          ∀ h ∈ br.arrived, (s.thr s.curTile h).wait = .bar n.val →
            (u.thr s.curTile h).run = .rotation ∧ (u.thr s.curTile h).wait = .none ∧
            (u.thr s.curTile h).pc = (s.thr s.curTile h).succ)))

/-! # The checks of an access, and accesses to other tiles -/

namespace Sys2Proof.Claims
open Sys2Proof Sys2Proof.Machine

/-- Which spaces a row of Table 7.1 lists beside scratchpad. -/
inductive Row where
  | scratch | scratchHbm | withMmio | flags

/-- The space of a plain capability is one that its row allows (R155, R181): MMIO accesses are of 4 or 8 bytes and of the own package;
flags lie in the launch flags of MMIO. -/
def spaceAllowed (s : State) (row : Row) (r : GReg) (disp : Int) (size : Nat) : Prop :=
  let near := r.low.getLsbD 63 = true ∨ (r.low.extractLsb' 46 17).toNat = s.pkg
  let addr := (((r.low.toNat : Int) + disp) % 2 ^ 44).toNat
  match row, space r with
  | _, 0 => True
  | .scratchHbm, 1 => True
  | .withMmio, 1 => True
  | .withMmio, 2 => near ∧ (size = 4 ∨ size = 8)
  | .flags, 2 => near ∧ 0x0100_0000 ≤ addr ∧ addr < 0x0100_2000
  | _, _ => False

/-- o is what an access of `size` bytes at gA's cursor plus disp does where one of the checks of R156 fails, in their order, for a
plain capability or none: cause and EVAL. -/
def checkTraps (s : State) (a : GIx) (rights : Nat) (row : Row) (disp : Int) (size : Nat) (o : Host.Outcome State Fault Refusal) : Prop :=
  let r := s.cur.rd a
  let addr := (BitVec.ofInt 64 ((r.low.toNat : Int) + disp)).toNat
  let off : Int := ((r.low.toNat % 2 ^ reachWidth r : Nat) : Int) + disp
  (r.tag = .data → o = s.trap 0x04 a.val) ∧
  (r.tag = .poison → o = s.trap 0x08 (classOf r)) ∧
  (r.tag = .cap → wovenCap r = false →
    (r.grants rights = false → o = s.trap 0x05 addr) ∧
    (r.grants rights = true →
      (isMmio r = true ∧ s.cur.priv = false → o = s.trap 0x03 s.headTail) ∧
      (¬(isMmio r = true ∧ s.cur.priv = false) →
        (¬spaceAllowed s row r disp size → o = s.trap 0x05 addr) ∧
        (spaceAllowed s row r disp size →
          (off < (baseLen r).1 ∨ (baseLen r).1 + (baseLen r).2 < off + size → o = s.trap 0x06 addr) ∧
          (¬(off < (baseLen r).1 ∨ (baseLen r).1 + (baseLen r).2 < off + size) → off % size ≠ 0 → o = s.trap 0x07 addr)))))

/-- gA names offset o of another tile t of the package, as an access of n bytes needs it. -/
def farAccess (s : State) (a : GIx) (rights t o n : Nat) : Prop :=
  let r := s.cur.rd a
  t ≠ s.curTile ∧ t < 4096 ∧ r.tag = .cap ∧ r.namesTile s.pkg t = true ∧ r.grants rights = true ∧ field r 19 13 = 0 ∧
  (baseLen r).1 ≤ o ∧ o + n ≤ (baseLen r).1 + (baseLen r).2 ∧ o + n ≤ 2 ^ 19 ∧ o % n = 0

/-- A message of one operation has been queued at the tile's plane A injection, and the operation is outstanding. -/
def asked (s u : State) (t o : Nat) (f : Flit) : Prop :=
  f ∈ (u.tile s.curTile).injA ∧ f.home = .tile t ∧ f.ga % 2 ^ 19 = o ∧ f.tag = s.tags + 1 ∧ f.src = .tile s.curTile ∧
  (u.tile s.curTile).posted.length = s.curT.posted.length + 1 ∧ u.mem = s.mem

end Sys2Proof.Claims

open Sys2Proof Sys2Proof.Machine Sys2Proof.Claims in
/-- R156 for the scalar instructions of its chapter, but FWAIT, TDEC and TCANCEL, and for capabilities that are not woven: the checks of tag,
rights, mode, space, bounds and alignment trap in that order, before anything is performed, each with its EVAL, the address of the access
(R91, R184, Table 8.1): that it is cursor plus offset modulo 2^64 is the model's choice (log 21). A flag operand is left out (g0). -/
def Obligations.AccessChecks : Prop :=
  ∀ (s : State) (d a b c : GIx) (m : BitVec 20) (off : BitVec 19) (off16 : BitVec 16),
    (∀ z sz, checkTraps s a 1 .withMmio (dispM m) (2 ^ sz.val) (exec (.ld z sz d a m) s)) ∧
    (∀ sz, checkTraps s a 2 .withMmio (dispM m) (2 ^ sz.val) (exec (.st sz d a m) s)) ∧
    (∀ sz, checkTraps s a 2 .scratchHbm (dispM m) (2 ^ sz.val) (exec (.putf sz d a 0 m) s)) ∧
    checkTraps s a 1 .scratchHbm (dispM m) 16 (exec (.ldcap d a m) s) ∧
    checkTraps s a 2 .scratchHbm (dispM m) 16 (exec (.stcap d a m) s) ∧
    (∀ ty i, i ∈ [Instr.radd ty a b 0 off16, .rmin ty a b 0 off16, .rmax ty a b 0 off16, .rand ty a b 0 off16, .ror ty a b 0 off16, .rxor ty a b 0 off16] →
      checkTraps s a 4 .scratchHbm off16.toInt (atomWidth ty) (exec i s)) ∧
    (s.cur.afp = false → ∀ ty i, i ∈ [Instr.rfadd ty d a b off16, .rcas ty d a b c off16, .rswap ty d a b off16] →
      checkTraps s a 7 .scratchHbm off16.toInt (atomWidth ty) (exec i s)) ∧
    (s.cur.afp = false → checkTraps s a 16 .scratch off.toInt 8 (exec (.ldc d a off) s) ∧
      checkTraps s a 16 .scratch off.toInt 8 (exec (.stp d a off) s)) ∧
    (∀ full, checkTraps s a 16 .scratch off.toInt 8 (exec (.feset full a off) s)) ∧
    checkTraps s a 8 .flags off.toInt 8 (exec (.fsig a b off) s) ∧
    checkTraps s a 18 .scratchHbm off.toInt 64 (exec (.scrub a off) s) ∧
    checkTraps s a 2 .scratchHbm off.toInt 8 (exec (.poison a off) s)

open Sys2Proof Sys2Proof.Machine Sys2Proof.Claims in
/-- Operations on another tile (R157, R158, R169, R198): a blocking one sends its request and parks its thread, PC kept; a posted one sends its
message and retires; no byte of memory changes at issue. The tile has room for one more retry (R358, log 78). WAKE leaves on plane A, by
Table 20.3, though R397 names plane B: a reading of the model's (log 93). -/
def Obligations.RemoteAccesses : Prop :=
  ∀ (s : State) (d a b : GIx) (t o : Nat), s.cur.served = [] → s.retryRoom s.curTile 1 = true →
    let x := s.cur.rd b
    (∀ z sz m, names s a (dispM m) o → farAccess s a 1 t o (2 ^ sz.val) →
      ∃ u f, exec (.ld z sz d a m) s = .next u ∧ asked s u t o f ∧ f.op = .load ∧ f.size = 2 ^ sz.val ∧
        u.cur = { s.cur with run := .reissue, wait := .resp (.ld z sz d a m) [0] }) ∧
    (∀ sz m, names s a (dispM m) o → farAccess s a 2 t o (2 ^ sz.val) →
      ∃ u f, exec (.st sz b a m) s = .next u ∧ asked s u t o f ∧ f.op = .store ∧ f.size = 2 ^ sz.val ∧
        f.data = natLe (2 ^ sz.val) ((incM s a m).rd b).low.toNat ∧ f.psn = [markOf ((incM s a m).rd b)] ∧ f.flag = 0 ∧
        u.cur = (atRetire s (incM s a m)).cur) ∧
    (∀ ty (off : BitVec 16), names s a off.toInt o → farAccess s a 4 t o (atomWidth ty) →
      ∃ u f, exec (.radd ty a b 0 off) s = .next u ∧ asked s u t o f ∧ f.op = .atomic ∧ f.fn = .add ∧ f.aty = ty ∧
        f.opnd = x.low.toNat ∧ f.opndMark = markOf x ∧ u.cur = (atRetire s s.cur).cur) ∧
    (∀ ty (off : BitVec 16), s.cur.afp = false → names s a off.toInt o → farAccess s a 7 t o (atomWidth ty) →
      ∃ u f, exec (.rswap ty d a b off) s = .next u ∧ asked s u t o f ∧ f.op = .atomicr ∧ f.fn = .swap ∧ f.aty = ty ∧
        f.opnd = x.low.toNat ∧ f.opndMark = markOf x ∧
        u.cur = { s.cur with run := .reissue, wait := .resp (.rswap ty d a b off) [0] }) ∧
    (∀ off : BitVec 19, s.cur.afp = false → names s a off.toInt o → farAccess s a 16 t o 8 →
      ∃ u f, exec (.ldc d a off) s = .next u ∧ asked s u t o f ∧ f.op = .ldc ∧
        u.cur = { s.cur with run := .reissue, wait := .resp (.ldc d a off) [0] }) ∧
    (x.tag ≠ .poison → x.low.getLsbD 63 = true → x.low.extractLsb' 44 2 = 0#2 → x.low.extractLsb' 3 16 = 0#16 →
      (x.low.extractLsb' 32 12).toNat = t → t ≠ s.curTile →
      ∃ u f, exec (.wake b) s = .next u ∧ asked s u t (x.low.toNat % 8) f ∧ f.op = .wake ∧ f.thr = x.low.toNat % 8 ∧ f.sup = s.cur.priv ∧
        u.cur = (atRetire s s.cur).cur)

/-! # The crown -/

namespace Sys2Proof.Claims
open Sys2Proof Sys2Proof.Machine

/-- Tile t lies in the set of a barrier bound to context x (R293, R294). -/
def mayUse (c : Crown) (x t : Nat) : Prop :=
  c.bound = true ∧ c.ctx = x ∧ c.x0 ≤ t % 64 ∧ t % 64 < c.x0 + c.w ∧ c.y0 ≤ t / 64 ∧ t / 64 < c.y0 + c.h

/-- What the arrival of the current thread at barrier b leaves (R293): the tile counts it; the T-th sends the tile's arrival, or holds
it while an earlier one of the tile awaits its release. -/
def arrivedAt (s u : State) (b : Nat) : Prop :=
  let c := s.crown b
  let t := s.curTile
  let n := mget 0 s.curT.crownCnt b + 1
  let held := mget 0 s.curT.crownHeld b
  let ahead := t ∈ c.arrived ∨ t ∈ c.flying
  u.mem = s.mem ∧
  (n < c.t → mget 0 (u.tile t).crownCnt b = n ∧ mget 0 (u.tile t).crownHeld b = held ∧ u.crown b = c) ∧
  (c.t ≤ n → mget 0 (u.tile t).crownCnt b = 0 ∧
    (ahead → mget 0 (u.tile t).crownHeld b = held + 1 ∧ u.crown b = c) ∧
    (¬ahead → mget 0 (u.tile t).crownHeld b = held ∧ (∀ v, v ∈ (u.crown b).flying ↔ v = t ∨ v ∈ c.flying) ∧
      (u.crown b).arrived = c.arrived ∧ (u.crown b).episode = c.episode)) ∧
  ∀ k, mget 0 u.cur.crownDone k =
    if k = b then c.episode + (if t ∈ c.arrived ∨ t ∈ c.flying then 1 else 0) + held + 1 else mget 0 s.cur.crownDone k

/-- The wait of thread h of tile t on barrier b, if it has one, has ended: PBAR and PBARW retire with v in gD, PBARA is issued again. -/
def waiterEnded (s u : State) (t h b : Nat) (v : GReg) : Prop :=
  let x := s.thr t h
  let y := u.thr t h
  (∀ d id, (x.wait = .crown (.pbar d id) b ∨ x.wait = .crown (.pbarw d id) b) →
    y.run = .rotation ∧ y.wait = .none ∧ y.pc = x.succ ∧ y.retired = x.retired + 1 ∧ y.rd d = (if d = 0 then {} else v)) ∧
  (∀ id, x.wait = .crown (.pbara id) b → y.run = .rotation ∧ y.wait = .none ∧ y.pc = x.pc)

/-- The word v holds the fields of Table 17.9 as c has them. -/
def crownFields (c : Crown) (v : Word) : Prop :=
  c.t = (v.extractLsb' 48 3).toNat + 1 ∧ c.ctx = (v.extractLsb' 40 6).toNat ∧ c.h = (v.extractLsb' 30 6).toNat + 1 ∧
  c.w = (v.extractLsb' 24 6).toNat + 1 ∧ c.y0 = (v.extractLsb' 8 6).toNat ∧ c.x0 = (v.extractLsb' 0 6).toNat

/-- PoisonVal(0x0D, IO0) (R342, Table 9.2). -/
def unboundValue : GReg := { tag := .poison, body := 0x2000#64 ++ 0x0D#64 }

end Sys2Proof.Claims

open Sys2Proof Sys2Proof.Machine Sys2Proof.Claims in
/-- The crown barriers (R293, R294, R342): PBARA, PBARW and PBAR by binding, poison and episode; an arrival at the root and the release that the last one
starts; binding and unbinding, which write the register's fields (R8); unbinding releases the barrier's waiters with poison of
class 0x0D. A barrier with a saved region makes no release. A PBAR issued again after a halt arrives no second time, and goes on where
its barrier has been released since (R295). -/
def Obligations.CrownBarriers : Prop :=
  ∀ (s : State) (id : Fin 64),
    let b := id.val
    let c := s.crown b
    (∀ d : GIx, s.cur.afp = false →
      let all := [Instr.pbara id, .pbarw d id, .pbar d id]
      (¬mayUse c s.curT.ctx s.curTile → ∀ i ∈ all, exec i s = s.trap 0x05 b) ∧
      (mayUse c s.curT.ctx s.curTile → c.poison ≠ 0 →
        exec (.pbara id) s = .next (atRetire s s.cur) ∧
        ∀ i ∈ [Instr.pbarw d id, .pbar d id], exec i s = writes s d { tag := .poison, body := BitVec.ofNat 64 (c.poison - 1) ++ 0x05#64 }) ∧
      (mayUse c s.curT.ctx s.curTile → c.poison = 0 →
        (c.episode < mget 0 s.cur.crownDone b →
          (∀ i ∈ [Instr.pbara id, .pbarw d id], exec i s = .next (s.setCur { s.cur with run := .reissue, wait := .crown i b })) ∧
          exec (.pbar d id) s = .next (s.setCur { s.cur with run := .reissue, wait := .crown (.pbar d id) b, limbo := none })) ∧
        (mget 0 s.cur.crownDone b ≤ c.episode →
          exec (.pbarw d id) s = writes s d {} ∧
          (∃ u m, exec (.pbara id) s = .next u ∧ u.cur = { (atRetire s s.cur).cur with crownDone := m } ∧ arrivedAt s u b) ∧
          (s.cur.limbo = some (s.cur.pc.toNat % 2 ^ 19, .crown (.pbar d id) b) →
            exec (.pbar d id) s = .next (atRetire s ({ s.cur with limbo := none }.wr d {}))) ∧
          (s.cur.limbo ≠ some (s.cur.pc.toNat % 2 ^ 19, .crown (.pbar d id) b) → ∃ u m, exec (.pbar d id) s = .next u ∧
            u.cur = { s.cur with run := .reissue, wait := .crown (.pbar d id) b, crownDone := m } ∧ arrivedAt s u b)))) ∧
    (∀ t, t ∈ c.flying → ∃ u, exec (.crownRootArrival t id) s = .next u ∧ u.tiles = s.tiles ∧ t ∉ (u.crown b).flying ∧
      (∀ v, v ∈ (u.crown b).arrived ↔ v = t ∨ v ∈ c.arrived) ∧ (u.crown b).episode = c.episode ∧
      ((u.crown b).releasing = true ↔ ∀ x y, c.x0 ≤ x → x < c.x0 + c.w → c.y0 ≤ y → y < c.y0 + c.h → y * 64 + x ∈ (u.crown b).arrived)) ∧
    (c.saved ≠ [] → exec (.crownRelease id) s = .next s) ∧
    (c.releasing = true → c.bound = true → c.saved = [] → c.x0 + c.w ≤ 64 →
      ∃ u, exec (.crownRelease id) s = .next u ∧ (u.crown b).episode = c.episode + 1 ∧ (u.crown b).arrived = [] ∧
        (u.crown b).releasing = false ∧ u.mem = s.mem ∧
        ∀ t, mayUse c c.ctx t →
          (∀ h, h < 8 → mget 0 (s.thr t h).crownDone b ≤ c.episode + 1 → waiterEnded s u t h b {}) ∧
          (0 < mget 0 (s.tile t).crownHeld b →
            t ∈ (u.crown b).flying ∧ mget 0 (u.tile t).crownHeld b = mget 0 (s.tile t).crownHeld b - 1)) ∧
    (∀ (v : Word) (who : Writer), v.getLsbD 63 = true → (∀ k, who = .device k → (v.extractLsb' 40 6).toNat = k) →
      (∀ c', crownFields c' v → c'.x0 + c'.w ≤ 64 ∧ c'.y0 + c'.h ≤ 64 ∧ ∀ t, mayUse { c' with bound := true } c'.ctx t →
        ∃ l, s.holder (clusterOf t) = some l ∧ l.ctx = c'.ctx) →
      ∃ u, exec (.crownBind id v who) s = .next u ∧ (u.crown b).bound = true ∧ crownFields (u.crown b) v ∧
        (u.crown b).poison = 0 ∧ (u.crown b).episode = 0 ∧ (u.crown b).arrived = [] ∧ (u.crown b).flying = [] ∧ (u.crown b).releasing = false) ∧
    (∀ (v : Word) (who : Writer), v.getLsbD 63 = false → c.x0 + c.w ≤ 64 →
      ∃ u, exec (.crownUnbind id v who) s = .next u ∧ (u.crown b).bound = false ∧ crownFields (u.crown b) v ∧
        (u.crown b).poison = 0 ∧ (u.crown b).episode = 0 ∧ (u.crown b).arrived = [] ∧ (u.crown b).flying = [] ∧
        (u.crown b).releasing = false ∧
        (c.bound = true → ∀ t h, mayUse c c.ctx t → h < 8 → waiterEnded s u t h b unboundValue))

/-! # Copy commands -/

namespace Sys2Proof.Claims
open Sys2Proof Sys2Proof.Machine

/-- An operand of an engine command is a capability with its rights; the n bytes at its cursor are in bounds and aligned to k. -/
def holds (s : State) (r : GReg) (rights n k : Nat) : Prop :=
  r.tag = .cap ∧ r.grants rights = true ∧ ∃ ga, r.reach s.pkg 0 n = .ok ga ∧ ga % 2 ^ 44 % k = 0

/-- A flag operand of an engine command: g0, or a flag that its register allows to signal, a launch flag in supervisor mode (R155). -/
def flagGiven (s : State) (r : GIx) : Prop :=
  let x := s.cur.rd r
  r = 0 ∨ (holds s x 8 8 8 ∧ (wovenCap x = true ∨ (spaceAllowed s .flags x 0 8 ∧ (isMmio x = true → s.cur.priv = true))))

/-- The address that a command keeps of a flag operand, the own package's as local (R50), and of a woven one that of the word which it
names (R57); 0 for none. -/
def flagKept (s : State) (r : GIx) : Nat :=
  let a := (s.cur.rd r).low
  if r = 0 then 0
  else if wovenCap (s.cur.rd r) then (match (s.cur.rd r).reach s.pkg 0 8 with | .ok ga => ga | _ => 0)
  else if a.getLsbD 63 = true ∨ (a.extractLsb' 46 17).toNat = s.pkg then 2 ^ 63 + (a.extractLsb' 0 46).toNat else a.toNat

/-- Table 10.3: a copy source, and a destination of each kind. -/
def copyFrom (s : State) (r : GReg) : Prop :=
  let near := r.low.getLsbD 63 = true ∨ (r.low.extractLsb' 46 17).toNat = s.pkg
  r.tag = .cap ∧ r.grants 64 = true ∧ wovenCap r = false ∧ near ∧
  ((space r = 0 ∧ (r.low.extractLsb' 32 12).toNat = s.curTile) ∨ space r = 1)

def copyTo (s : State) (kind : CopyKind) (r : GReg) : Prop :=
  let near := r.low.getLsbD 63 = true ∨ (r.low.extractLsb' 46 17).toNat = s.pkg
  r.tag = .cap ∧ r.grants 128 = true ∧
  if kind = .copym then
    wovenCap r = false ∧ space r = 0 ∧ near ∧ clusterOf (r.low.extractLsb' 32 12).toNat = clusterOf s.curTile
  else wovenCap r = true ∨ space r = 0 ∨ (space r = 1 ∧ near)

/-- The operands that every copy command has besides its places: a shape record of clean words at offset o of the own tile, flags and WN. -/
def copyOperands (s : State) (shp wf wn sf : GIx) (o : Nat) : Prop :=
  names s shp 0 o ∧ ownAccess s shp 1 o 64 ∧ recordClean s (spad s.curTile o) ∧ s.refusing [o] = [] ∧
  flagGiven s wf ∧ flagGiven s sf ∧ (s.cur.rd wn).tag ≠ .poison

/-- What the checks of R232-R237 are made on: the command's places and the descriptor's word. -/
def sidesOf (s : State) (kind : CopyKind) (src dst : Option GReg) (word : Word) : CopySides :=
  { kind := kind, src := src.map GReg.kind, dst := dst.map GReg.kind, desc := word,
    own := match dst with
      | some r => wovenCap r || r.low.getLsbD 63 || (r.low.extractLsb' 46 17).toNat == s.pkg
      | none => true }

/-- Entry e of the queue is free: never used, or its command has ended (R228). -/
def entryFree (q : SMap CopyCmd) (e : Nat) : Prop :=
  ∀ c, mfind q e = some c → c.state = .ended ∨ c.state = .endedPoisoned ∨ c.state = .cancelled

/-- The command has been accepted into entry e (R228): the id in gD, the operands as read at issue, nothing performed. -/
def accepted (s u : State) (d : GIx) (e : Nat) (kind : CopyKind) (src dst : Option GReg) (shape : Shape) (wf wn sf : GIx) (mask : Nat)
    (desc : Nat) (word : Word) : Prop :=
  u.cur = (atRetire s (s.cur.wr d { tag := .data, body := BitVec.ofNat 128 (e + s.curT.copySeq * 32) })).cur ∧
  u.mem = s.mem ∧ (u.tile s.curTile).copySeq = (s.curT.copySeq + 1) % 2048 ∧
  (∀ k, k ≠ e → mfind (u.tile s.curTile).copyq k = mfind s.curT.copyq k) ∧
  ∃ c, mfind (u.tile s.curTile).copyq e = some c ∧ c.kind = kind ∧ c.seq = s.curT.copySeq ∧ c.thr = s.curThr ∧ c.pc = s.cur.pc ∧
    c.user = !s.cur.priv ∧ src.all (· == c.src) ∧ dst.all (· == c.dst) ∧ c.shape = shape ∧ c.wf = flagKept s wf ∧
    c.wn = (s.cur.rd wn).low.toNat ∧ c.sf = flagKept s sf ∧ c.mask = mask ∧ c.desc = desc ∧ c.descWord = word ∧
    c.state = .queued ∧ c.chan = false ∧ c.next = 0 ∧ c.bytes = 0 ∧ c.age = s.curT.copyAge

/-- The issue of a copy command between its places, o being its outcome (R228, R248, R249): the record's faults trap, a full queue parks, else the
command takes the lowest free entry. -/
def copyIssued (s : State) (d : GIx) (kind : CopyKind) (src dst : Option GReg) (shp wf wn sf : GIx) (mask p : Nat)
    (o : Host.Outcome State Fault Refusal) : Prop :=
  let h := Shape.ofNat (s.val (spad s.curTile p) 64)
  let sides := sidesOf s kind src dst 0
  copyOperands s shp wf wn sf p →
    (∀ v, h.fault sides (src.getD {}) (dst.getD {}) = some v → o = s.trap 0x0A v) ∧
    (h.fault sides (src.getD {}) (dst.getD {}) = none →
      (∀ v, h.boundsFault sides s.pkg (src.getD {}) (dst.getD {}) = some v → o = s.trap 0x06 v) ∧
      (h.boundsFault sides s.pkg (src.getD {}) (dst.getD {}) = none →
        ((∀ e, e < 32 → ¬entryFree s.curT.copyq e) → ∃ u, o = .next u ∧ u.mem = s.mem ∧
          u.cur = { s.cur with run := .reissue, wait := .copyQueue }) ∧
        (∀ e, e < 32 → entryFree s.curT.copyq e → (∀ k, k < e → ¬entryFree s.curT.copyq k) →
          ∃ u, o = .next u ∧ accepted s u d e kind src dst h wf wn sf mask 0 0 ∧ (u.tile s.curTile).matq = s.curT.matq)))

/-- The issue of COPYT on descriptor t (R249, R251, R257, R269): a closing descriptor parks the thread before the record is read; then
the record's faults, an unset descriptor, and a full matrix queue; with room in both queues the command takes a place in each. -/
def tileCopyIssued (s : State) (d : GIx) (kind : CopyKind) (src dst : Option GReg) (shp wf wn sf : GIx) (t : TIx) (p : Nat)
    (o : Host.Outcome State Fault Refusal) : Prop :=
  let h := Shape.ofNat (s.val (spad s.curTile p) 64)
  let cl := s.cluster (clusterOf s.curTile)
  let word := mget 0 cl.desc t.val
  let sides := sidesOf s kind src dst word
  let waiting := s.curT.matq.length + (cl.staging.filter fun x => x.tile == inCluster s.curTile).length
  copyOperands s shp wf wn sf p →
    ((∃ k ∈ cl.closing, k.1 = t.val) → o = .next (s.setCur { s.cur with run := .reissue, wait := .closing t.val })) ∧
    ((∀ k ∈ cl.closing, k.1 ≠ t.val) →
      (∀ v, h.fault sides (src.getD {}) (dst.getD {}) = some v → o = s.trap 0x0A v) ∧
      (∀ v, h.fault sides (src.getD {}) (dst.getD {}) = none →
        h.boundsFault sides s.pkg (src.getD {}) (dst.getD {}) = some v → o = s.trap 0x06 v) ∧
      (h.fault sides (src.getD {}) (dst.getD {}) = none → h.boundsFault sides s.pkg (src.getD {}) (dst.getD {}) = none →
        (word.getLsbD 63 = false → o = s.trap 0x0B t.val) ∧
        (word.getLsbD 63 = true → 16 ≤ waiting → ∃ u, o = .next u ∧ u.mem = s.mem ∧
          u.cur = { s.cur with run := .reissue, wait := .matrixQueue }) ∧
        (word.getLsbD 63 = true → waiting < 16 → ∀ e, e < 32 → entryFree s.curT.copyq e → (∀ k, k < e → ¬entryFree s.curT.copyq k) →
        ∃ u m, o = .next u ∧ accepted s u d e kind src dst h wf wn sf 0 t.val word ∧ (u.tile s.curTile).matq = s.curT.matq ++ [m] ∧
          m.kind = (if kind = .tileTo then .copyTo e else .copyFrom e) ∧ m.t = t.val ∧ m.desc = word ∧ m.wf = 0 ∧ m.sf = 0)))

/-- STATE of Table 10.4. -/
def copyStateNumber (c : CopyState) : Nat :=
  match c with
  | .queued => 0 | .waiting => 1 | .active => 2 | .parked => 3 | .ended => 4 | .endedPoisoned => 5 | .cancelled => 6

end Sys2Proof.Claims

open Sys2Proof Sys2Proof.Machine Sys2Proof.Claims in
/-- COPY, COPYP, COPYM and COPYT at issue (R228, R248-R251): with operands as Table 10.3 asks, the record's own faults, a full queue, and
acceptance into the lowest free entry, whose id gD receives. -/
def Sys2Proof.Claims.CopyIssue : Prop :=
  ∀ (s : State) (d dst src shp wf wn sf : GIx) (mask : BitVec 8) (t : TIx) (p : Nat), s.curT.copySeq < 2048 →
    let x := s.cur.rd src
    let y := s.cur.rd dst
    (copyFrom s x → copyTo s .copy y →
      copyIssued s d .copy (some x) (some y) shp wf wn sf 0 p (exec (.copy d dst src shp wf wn sf) s) ∧
      copyIssued s d .copyp (some x) (some y) shp wf wn sf 0 p (exec (.copyp d dst src shp wf wn sf) s)) ∧
    (copyFrom s x → copyTo s .copym y →
      copyIssued s d .copym (some x) (some y) shp wf wn sf mask.toNat p (exec (.copym d dst src shp wf wn sf mask) s)) ∧
    (copyFrom s x → tileCopyIssued s d .tileTo (some x) none shp wf wn sf t p (exec (.copytTo d src shp wf wn sf t) s)) ∧
    (copyTo s .tileFrom y → tileCopyIssued s d .tileFrom none (some y) shp wf wn sf t p (exec (.copytFrom d dst shp wf wn sf t) s))

open Sys2Proof Sys2Proof.Machine Sys2Proof.Claims in
/-- COPYS and COPYK (R252, R253, Table 10.4): a poisoned id traps; the state, class and bytes of the command that the id names, 7 for none. COPYK
answers 3 for an unknown id, 2 for a command that has ended, and 0 for one queued or waiting, which it removes, its entry free. -/
def Sys2Proof.Claims.CopyStatusAndKill : Prop :=
  ∀ (s : State) (d a : GIx),
    let x := s.cur.rd a
    let e := (x.low.extractLsb' 0 5).toNat
    let q := mfind s.curT.copyq e
    let known := fun (c : CopyCmd) => q = some c ∧ c.seq = (x.low.extractLsb' 5 59).toNat
    let live := fun (c : CopyCmd) => c.state = .queued ∨ c.state = .waiting ∨ c.state = .active ∨ c.state = .parked
    let gives := fun (n : Nat) => ({ tag := .data, body := BitVec.ofNat 128 n } : GReg)
    (x.tag = .poison → exec (.copys d a) s = s.trap 0x08 (classOf x) ∧ exec (.copyk d a) s = s.trap 0x08 (classOf x)) ∧
    (x.tag ≠ .poison →
      ((∀ c, ¬known c) → exec (.copys d a) s = writes s d (gives 7) ∧ exec (.copyk d a) s = writes s d (gives 3)) ∧
      (∀ c, known c →
        (live c → exec (.copys d a) s = writes s d (gives (copyStateNumber c.state + c.bytes % 2 ^ 40 * 2 ^ 16))) ∧
        (¬live c → exec (.copys d a) s = writes s d (gives (copyStateNumber c.state + c.cls % 256 * 2 ^ 8 + c.bytes % 2 ^ 40 * 2 ^ 16)) ∧
          exec (.copyk d a) s = writes s d (gives 2)) ∧
        (c.state = .active → c.kind ≠ .tileTo → c.resend = [] → ceilDiv c.shape.nb 32 ≤ c.next →
          exec (.copyk d a) s = writes s d (gives 2)) ∧
        (c.state = .queued ∨ c.state = .waiting → c.tgrant = false → c.stopCls = 0 → c.sf = 0 →
          (∀ h, h < 8 → (s.thr s.curTile h).wait ≠ .copyQueue ∧ (s.thr s.curTile h).wait ≠ .matrixQueue) →
          (∀ p ∈ s.curT.posted, p.kind ≠ .arm (8 + e)) →
          ∃ u c', exec (.copyk d a) s = .next u ∧ u.cur = (atRetire s (s.cur.wr d (gives 0))).cur ∧ u.mem = s.mem ∧
            mfind (u.tile s.curTile).copyq e = some c' ∧ c'.state = .cancelled ∧ c'.cls = 8 ∧ c'.chan = false ∧ c'.seq = c.seq) ∧
        (c.state = .active → c.tgrant = false → c.stopCls = 0 → c.kind ≠ .tileTo → c.resend = [] → c.next < ceilDiv c.shape.nb 32 →
          c.flying ≠ [] → c.ending = false → (∀ r ∈ s.curT.retries, r.flit.op ≠ .granule) →
          ∃ u c', exec (.copyk d a) s = .next u ∧ u.cur = (atRetire s (s.cur.wr d (gives 1))).cur ∧ u.mem = s.mem ∧
            mfind (u.tile s.curTile).copyq e = some c' ∧ c'.state = .active ∧ c'.stopCls = 8)))

/-- Copy commands as a thread gives them (R228, R248-R253). COPYS and COPYK compare the whole 64-bit operand with an id, the model's reading
(log 46). -/
def Obligations.CopyCommands : Prop :=
  Sys2Proof.Claims.CopyIssue ∧ Sys2Proof.Claims.CopyStatusAndKill

/-! # Matrix commands at issue -/

namespace Sys2Proof.Claims
open Sys2Proof Sys2Proof.Machine

/-- A capability operand of a matrix command (R257): a plain tile capability naming a tile of the issuing cluster, with MT, whose n bytes from the
cursor are in bounds, the cursor aligned to k. -/
def matOperand (s : State) (r : GReg) (n k : Nat) : Prop :=
  let near := r.low.getLsbD 63 = true ∨ (r.low.extractLsb' 46 17).toNat = s.pkg
  holds s r 256 n k ∧ wovenCap r = false ∧ space r = 0 ∧ near ∧ clusterOf (r.low.extractLsb' 32 12).toNat = clusterOf s.curTile

/-- Fields of a descriptor's word (Table 2.3): rows, columns, type, element bytes (Table 2.4). -/
def rowsOf (w : Word) : Nat := (w.extractLsb' 16 10).toNat + 1
def colsOf (w : Word) : Nat := (w.extractLsb' 26 10).toNat + 1
def typeOf (w : Word) : Nat := (w.extractLsb' 36 4).toNat
def eltBytes (w : Word) : Nat := if typeOf w < 2 then 4 else 2

/-- The descriptor that the command names, and the command's flags and WN: the descriptor set and not closing, room in the queue (R256,
R257). -/
def matReady (s : State) (t : TIx) (wf wn sf : GIx) (w : Word) : Prop :=
  let cl := s.cluster (clusterOf s.curTile)
  w = mget 0 cl.desc t.val ∧ w.getLsbD 63 = true ∧ (∀ k ∈ cl.closing, k.1 ≠ t.val) ∧
  s.curT.matq.length + (cl.staging.filter fun x => x.tile == inCluster s.curTile).length < 16 ∧
  flagGiven s wf ∧ flagGiven s sf ∧ (s.cur.rd wn).tag ≠ .poison

/-- The command has taken a queue entry with the state that R256 lists, and its instruction retires. The head of the queue looks at a wait
flag of its own tile as monitors do (R258). -/
def matIssued (s : State) (t : TIx) (wf wn sf : GIx) (w : Word) (kind : MatKind) (a b m : GReg) (rm : Nat)
    (o : Host.Outcome State Fault Refusal) : Prop :=
  let bare := fun (x : MatCmd) => { x with met := none }
  ∃ u q c, o = .next u ∧ u.cur = (atRetire s s.cur).cur ∧ u.mem = s.mem ∧ (u.tile s.curTile).matq = q ++ [c] ∧
    q.map bare = s.curT.matq.map bare ∧
    c.kind = kind ∧ c.thr = s.curThr ∧ c.pc = s.cur.pc ∧ c.t = t.val ∧ c.desc = w ∧ c.a = a ∧ c.b = b ∧ c.m = m ∧
    c.wf = flagKept s wf ∧ c.wn = (s.cur.rd wn).low.toNat ∧ c.sf = flagKept s sf ∧ c.rm = rm ∧ c.ovf = s.cur.ovf ∧
    c.seed = s.cur.seed ∧ c.n = s.cur.retired ∧ c.cancelled = false ∧ c.armed = false ∧ (q ≠ [] ∨ wf = 0 → c.met = none)

/-- Bits of an element of each type, and bytes of a block's scale (Table 11.2). -/
def mtyBits (ty : MTy) : Nat :=
  match ty with
  | .e4m3 | .e5m2 | .i8 => 8 | .e3m2 | .e2m3 => 6 | .e2m1 => 4 | .bf16 => 16
def mtyScale (ty : MTy) : Nat := if ty = .bf16 ∨ ty = .i8 then 0 else 1

/-- The tile that MMA and MMAS may name (R263): F32, or I32 for .I8, of 16, 32, 64 or 128 rows and columns. -/
def mmaWord (ty : MTy) (w : Word) : Prop :=
  typeOf w = (if ty = .i8 then 1 else 0) ∧ rowsOf w ∈ [16, 32, 64, 128] ∧ colsOf w ∈ [16, 32, 64, 128]

/-- N of a structured-sparse form. -/
def spKept (n : SpN) : Nat := match n with | .one => 1 | .two => 2 | .four => 4

/-- Bits of an element that TCVT writes, and whether its form is blocked (R273). -/
def tcvtForm (d : ElemTy) : Nat × Bool :=
  match d with
  | .f32 | .i32 | .n32 => (32, false)
  | .bf16 | .f16 => (16, false)
  | .i64 => (64, false)
  | .i8 | .n8 => (8, false)
  | .e4m3 | .e5m2 | .mxint8 => (8, true)
  | .e3m2 | .e2m3 => (6, true)
  | .e2m1 => (4, true)

/-- Code of a rounding mode (Table 3.4). -/
def rmNumber (rm : Rm) (dyn : BitVec 3) : Nat :=
  match rm with
  | .rne => 0 | .rz => 1 | .rup => 2 | .rdn => 3 | .sr => 4 | .dyn => if dyn.toNat < 5 then dyn.toNat else 0

/-- A descriptor's word that TCFG accepts (R47). -/
def tileWord (w : Word) : Prop :=
  if w.getLsbD 63 then
    w.extractLsb' 40 23 = 0#23 ∧ w.getLsbD 15 = false ∧ typeOf w ≤ 3 ∧ (w.extractLsb' 0 10).toNat + rowsOf w ≤ 1024 ∧
      64 * (w.extractLsb' 10 5).toNat + colsOf w * eltBytes w ≤ 2048
  else w = 0

end Sys2Proof.Claims

open Sys2Proof Sys2Proof.Machine Sys2Proof.Claims in
/-- MMA, MMAS, TZERO, TCVT and TSCL at issue (R256, R257, R263, R264, R271-R274): with the operands, the descriptor and the footprints that
the rules ask for, the command takes a place in its tile's queue with the state of issue. Naming a closing descriptor parks. -/
def Sys2Proof.Claims.MatrixIssue : Prop :=
  ∀ (s : State) (t : TIx) (a b m wf wn sf : GIx) (w : Word), matReady s t wf wn sf w →
    let x := s.cur.rd a
    let y := s.cur.rd b
    let z := s.cur.rd m
    let rows := rowsOf w
    let cols := colsOf w
    (∀ ty (k : Fin 16), mmaWord ty w →
      let kb := k.val + 1
      let blk := 4 * mtyBits ty + mtyScale ty
      (matOperand s x (kb * rows * blk) 32 → matOperand s y (kb * cols * blk) 32 →
        matIssued s t wf wn sf w (.mma ty kb) x y {} 0 (exec (.mma ty t a b wf wn sf k) s)) ∧
      ∀ sp, matOperand s x (kb * rows * blk) 32 → matOperand s y (kb * cols * (4 * spKept sp * mtyBits ty / 8 + mtyScale ty)) 32 →
        matOperand s z (4 * kb * cols) 32 →
        matIssued s t wf wn sf w (.mmas ty (spKept sp) kb) x y z 0 (exec (.mmas ty sp t a b m wf wn sf k) s)) ∧
    matIssued s t wf wn sf w .tzero {} {} {} 0 (exec (.tzero t wf wn sf) s) ∧
    (∀ dty rm, let f := tcvtForm dty
      (f.2 = true → cols % 32 = 0) → matOperand s x (if f.2 then rows * cols / 32 * (4 * f.1 + 1) else rows * cols * (f.1 / 8)) 32 →
      matIssued s t wf wn sf w (.tcvt dty) x {} {} (rmNumber rm s.cur.rm) (exec (.tcvt dty rm t a wf wn sf) s)) ∧
    (typeOf w = 0 →
      (matOperand s x (4 * rows) 4 → b = 0 ∨ matOperand s y (4 * rows) 4 →
        matIssued s t wf wn sf w (.tscl false) x (if b = 0 then {} else y) {} 0 (exec (.tsclRow t a b wf wn sf) s)) ∧
      (matOperand s x (4 * cols) 4 → b = 0 ∨ matOperand s y (4 * cols) 4 →
        matIssued s t wf wn sf w (.tscl true) x (if b = 0 then {} else y) {} 0 (exec (.tsclCol t a b wf wn sf) s)))

open Sys2Proof Sys2Proof.Machine Sys2Proof.Claims in
/-- TCFG (R47, R269): a poisoned operand traps, as does a word that is no valid configuration; a descriptor that is closing parks the thread; the
word it already has retires at once; another makes it closing, and the thread parks. -/
def Sys2Proof.Claims.TileConfiguration : Prop :=
  ∀ (s : State) (t : TIx) (a : GIx),
    let x := s.cur.rd a
    let c := clusterOf s.curTile
    let cl := s.cluster c
    (x.tag = .poison → exec (.tcfg t a) s = s.trap 0x08 (classOf x)) ∧
    (x.tag ≠ .poison →
      (¬tileWord x.low → exec (.tcfg t a) s = s.trap 0x0B t.val) ∧
      (tileWord x.low →
        ((∃ k ∈ cl.closing, k.1 = t.val) → exec (.tcfg t a) s = .next (s.setCur { s.cur with run := .reissue, wait := .closing t.val })) ∧
        ((∀ k ∈ cl.closing, k.1 ≠ t.val) →
          (mget 0 cl.desc t.val = x.low → exec (.tcfg t a) s = .next (atRetire s s.cur)) ∧
          (mget 0 cl.desc t.val ≠ x.low → ∃ u, exec (.tcfg t a) s = .next u ∧ u.mem = s.mem ∧
            u.cur = { s.cur with run := .reissue, wait := .tcfg t.val } ∧ (u.cluster c).desc = cl.desc ∧ (u.cluster c).store = cl.store ∧
            mfind (u.cluster c).newWord t.val = some x.low ∧
            mfind (u.cluster c).closing t.val = some (inCluster s.curTile * 8 + s.curThr + 1)))))

/-- Matrix commands as a thread gives them (R256, R268-R274). -/
def Obligations.MatrixCommands : Prop :=
  Sys2Proof.Claims.MatrixIssue ∧ Sys2Proof.Claims.TileConfiguration

/-! # Steps of the copy and matrix engines -/

namespace Sys2Proof.Claims
open Sys2Proof Sys2Proof.Machine

/-- No word has an error that a read has still to find. -/
def noErrors (s : State) : Prop := s.errUnc = [] ∧ s.errOne = [] ∧ s.errTag = []

/-- A command apart from what its wait flag has shown so far. -/
def unmet (m : MatCmd) : MatCmd := { m with met := none }

/-- The banks grant granule n of entry e, and the gather of command m (R16; Tile.grants, log 77). -/
def granuleGranted (s : State) (t e n : Nat) : Prop := (s.askGranule t e n).1 = true
def gatherGranted (s : State) (m : MatCmd) : Prop :=
  let n := matLens m
  (s.askAll orderCluster 0 (gatherRows [(m.a, n.1), (m.b, n.2.1), (m.m, n.2.2)])).1 = true

/-- Extent of destination dimension j, and the bytes of a stream (R231). -/
def extentOf (h : Shape) (j : Nat) : Nat := h.ext.getD (h.perm.getD j 0) 1
def streamBytes (h : Shape) : Nat := h.es * extentOf h 0 * extentOf h 1 * extentOf h 2 * extentOf h 3 * extentOf h 4

/-- Index of dimension j of the n-th element in canonical order, and the places of that element (R231, LAYOUT 00). -/
def indexOf (h : Shape) (n j : Nat) : Nat := n / ((List.range j).map (extentOf h)).prod % extentOf h j
def sourcePlace (h : Shape) (n : Nat) : Int :=
  ((List.range 5).map fun j => (indexOf h n j : Int) * h.sstride.getD (h.perm.getD j 0) 0).sum
def destPlace (h : Shape) (n : Nat) : Int := ((List.range 5).map fun j => (indexOf h n j : Int) * h.dstride.getD j 0).sum

/-- The command with a free channel that COPY_ACTIVATE takes: queued, the oldest (R229). -/
def nextInLine (q : SMap CopyCmd) (e : Nat) (c : CopyCmd) : Prop :=
  mfind q e = some c ∧ c.state = .queued ∧ c.chan = false ∧ (q.filter fun y => y.2.chan).length < 4 ∧
  ∀ y ∈ q, y.2.state = .queued → y.2.chan = false → c.age ≤ y.2.age

/-- A command between two places of the own tile whose granule n is whole: byte i of it comes from offset f i and goes to offset g + i, by
the order of R231. -/
def granuleMoves (s : State) (t : Nat) (c : CopyCmd) (n : Nat) (f : Nat → Nat) (g : Nat) : Prop :=
  let h := c.shape
  c.src.tag = .cap ∧ c.src.namesTile s.pkg t = true ∧ c.dst.tag = .cap ∧ c.dst.namesTile s.pkg t = true ∧ field c.dst 19 13 = 0 ∧
  h.layout = 0 ∧ h.es ∈ [1, 2, 4, 8, 16, 32, 64] ∧ h.ct = false ∧ h.wpen = false ∧ 32 * (n + 1) ≤ streamBytes h ∧ g % 32 = 0 ∧
  g + 32 ≤ 2 ^ 19 ∧ (baseLen c.dst).1 ≤ g ∧ g + 32 ≤ (baseLen c.dst).1 + (baseLen c.dst).2 ∧
  (((c.dst.low.toNat % 2 ^ 19 : Nat) : Int) + destPlace h (32 * n / h.es) + (32 * n % h.es : Nat) = g) ∧
  (∀ i, i < 32 → ((c.src.low.toNat % 2 ^ 19 : Nat) : Int) + sourcePlace h ((32 * n + i) / h.es) + ((32 * n + i) % h.es : Nat) = f i ∧
    f i < 2 ^ 19 ∧ s.poisoned (spad t (f i)) = false ∧ s.poisoned (spad t (g + i)) = false)

/-- Every head of the cluster's queues is a command that waits for nothing. -/
def headsFree (s : State) (c : Nat) : Prop :=
  ∀ k m r, k < 8 → (s.tile (clusterTile c k)).matq = m :: r →
    (s.tile (clusterTile c k)).halt = .running ∧ m.wf = 0 ∧ m.cancelled = false ∧ ∀ e, m.kind ≠ .copyTo e ∧ m.kind ≠ .copyFrom e

/-- The tile that the arbiter of R259 grants, its pointer at p with r grants left. -/
def granted (s : State) (c k : Nat) : Prop :=
  let cl := s.cluster c
  let has := fun (j : Nat) => (s.tile (clusterTile c j)).matq ≠ []
  k < 8 ∧ has k ∧
  (if 0 < cl.arbR ∧ has cl.arbP then k = cl.arbP
   else ∃ i, i < 8 ∧ k = (cl.arbP + 1 + i) % 8 ∧ ∀ j, j < i → ¬has ((cl.arbP + 1 + j) % 8))

/-- Unit u of a cluster's tile store, clean. -/
def unitIs (cl : Cluster) (u : Nat) (v : BitVec 32) : Prop := mget 0 cl.store u = v ∧ u ∉ cl.storePsn

/-- Units of the rectangle of a descriptor: those that hold any of its bytes, row by row (R254). -/
def inRectangle (w : Word) (u : Nat) : Prop :=
  let row := (w.extractLsb' 0 10).toNat
  let col := 16 * (w.extractLsb' 10 5).toNat
  row ≤ u / 512 ∧ u / 512 < row + rowsOf w ∧ col ≤ u % 512 ∧ 4 * (u % 512 - col) < colsOf w * eltBytes w

/-- The sum of an I8 product of K = 32 kb over row i of A and column j of B as gathered, dense (R263, R265). -/
def dotI8 (a b : List Byte) (kb rows i j : Nat) : Int :=
  ((List.range kb).map fun q => ((List.range 32).map fun p =>
    (a.getD ((q * rows + i) * 32 + p) 0).toInt * (b.getD (((j / 16 * kb + q) * 16 + j % 16) * 32 + p) 0).toInt).sum).sum

/-- The closing of descriptor t has ended: it may be named again, and its TCFG has retired (R269). -/
def closed (s u : State) (c : Nat) (t : TIx) : Prop :=
  (∀ k ∈ (u.cluster c).closing, k.1 ≠ t.val) ∧ mfind (u.cluster c).newWord t.val = none ∧
  ∀ who, mfind (s.cluster c).closing t.val = some (who + 1) →
    let k := clusterTile c (who / 8)
    (s.thr k (who % 8)).wait = .tcfg t.val →
      (u.thr k (who % 8)).run = .rotation ∧ (u.thr k (who % 8)).wait = .none ∧ (u.thr k (who % 8)).pc = (s.thr k (who % 8)).succ ∧
        (u.thr k (who % 8)).retired = (s.thr k (who % 8)).retired + 1

end Sys2Proof.Claims

open Sys2Proof Sys2Proof.Machine Sys2Proof.Claims in
/-- The copy engine's steps (R229, R231, R240): the oldest queued command takes one of four channels and is active without a wait flag, or
with one of its own tile as the flag is met; a whole granule between two places of the own tile, its words clean and its banks
granted, moves in the order of R231. -/
def Sys2Proof.Claims.CopyEngine : Prop :=
  ∀ (s : State) (t e : Nat) (c : CopyCmd), (s.tile t).halt = .running → noErrors s → t < 4096 →
    (nextInLine (s.tile t).copyq e c → 0 < streamBytes c.shape →
      (c.wf = 0 → ∃ u, exec (.copyActivate t e) s = .next u ∧ u.mem = s.mem ∧
        mfind (u.tile t).copyq e = some { c with chan := true, state := .active }) ∧
      (∀ o, o < 2 ^ 19 → o % 8 = 0 → c.wf = gaSpad t o → c.met = none → s.poisoned (spad t o) = false → s.val (spad t o) 8 / 2 ^ 40 % 256 = 0 →
        ∃ u, exec (.copyActivate t e) s = .next u ∧ u.mem = s.mem ∧ mfind (u.tile t).copyq e =
          some { c with chan := true, state := if c.wn ≤ s.val (spad t o) 8 % 2 ^ 40 then .active else .waiting })) ∧
    (mfind (s.tile t).copyq e = some c → c.kind = .copy ∨ c.kind = .copyp → c.state = .active → c.stopCls = 0 → c.resend = [] →
      c.flying = [] → (s.cluster (clusterOf t)).walks = [] → granuleGranted s t e c.next →
      ∀ f g, granuleMoves s t c c.next f g → 32 * (c.next + 1) < streamBytes c.shape →
        ∃ u c', exec (.copyGranuleSend t e) s = .next u ∧ mfind (u.tile t).copyq e = some c' ∧ c'.next = c.next + 1 ∧
          c'.bytes = c.bytes + 32 ∧ c'.state = .active ∧
          (∀ i, i < 32 → u.byte (spad t (g + i)) = s.byte (spad t (f i))) ∧
          ∀ a, a < spad t g ∨ spad t (g + 32) ≤ a → u.byte a = s.byte a)

open Sys2Proof Sys2Proof.Machine Sys2Proof.Claims in
/-- The matrix engine's steps (R256, R258-R261, R265): the arbiter's grant and its gather; execution, with the products of .I8 over clean operands and the
clear of TZERO; completion, which writes the tile store. -/
def Sys2Proof.Claims.MatrixEngine : Prop :=
  ∀ (s : State) (c : Nat), noErrors s → c < 512 →
    let cl := s.cluster c
    (∀ k m rest, cl.arbP < 8 → granted s c k → headsFree s c → cl.staging.length < 2 → cl.clearing = [] →
      (s.tile (clusterTile c k)).matq = m :: rest → gatherGranted s m →
      ∃ u g, exec (.matrixGrant c) s = .next u ∧ u.mem = s.mem ∧ (u.tile (clusterTile c k)).matq.map unmet = rest.map unmet ∧
        (u.cluster c).staging = cl.staging ++ [g] ∧ g.tile = k ∧ g.cmd = m ∧ g.flag = 0 ∧ g.executed = false ∧ (u.cluster c).arbP = k ∧
        (u.cluster c).arbR = (if 0 < cl.arbR ∧ k = cl.arbP then cl.arbR - 1 else (s.tile (clusterTile c k)).matwt.toNat - 1) ∧
        ∀ ty kb, m.kind = .mma ty kb → m.a.tag = .cap → m.b.tag = .cap →
          let blk := 4 * mtyBits ty + mtyScale ty
          g.opA.bytes = s.bytes (spad (m.a.low.extractLsb' 32 12).toNat (m.a.low.toNat % 2 ^ 19)) (kb * rowsOf m.desc * blk) ∧
          g.opB.bytes = s.bytes (spad (m.b.low.extractLsb' 32 12).toNat (m.b.low.toNat % 2 ^ 19)) (kb * colsOf m.desc * blk)) ∧
    (∀ x rest, cl.staging = x :: rest → x.executed = false → 0 ∉ cl.mending → x.flag = 0 → x.cmd.cancelled = false → cl.residue = none →
      x.bad = false →
      (x.cmd.kind = .tzero → tileWord x.cmd.desc → ∃ u y, exec (.matrixExecute c) s = .next u ∧ (u.cluster c).staging = y :: rest ∧ y.executed = true ∧
        y.out = 0 ∧ (∀ v ∈ y.writes, v.val = 0 ∧ v.mark = 0 ∧ v.bmask = 15 ∧ inRectangle x.cmd.desc v.addr) ∧
        ∀ v, inRectangle x.cmd.desc v → ∃ z ∈ y.writes, z.addr = v) ∧
      (∀ kb, x.cmd.kind = .mma .i8 kb → mmaWord .i8 x.cmd.desc → x.opA.marks = [] → x.opB.marks = [] → cl.storePsn = [] → cl.storeUnc = [] → cl.storeOne = [] →
        x.opA.bytes.length = kb * rowsOf x.cmd.desc * 32 → x.opB.bytes.length = kb * colsOf x.cmd.desc * 32 →
        ∃ u y, exec (.matrixExecute c) s = .next u ∧ (u.cluster c).staging = y :: rest ∧ y.executed = true ∧ y.out = 0 ∧
          (u.cluster c).store = cl.store ∧
          ∀ i j, i < rowsOf x.cmd.desc → j < colsOf x.cmd.desc →
            let unit := ((x.cmd.desc.extractLsb' 0 10).toNat + i) * 512 + (16 * (x.cmd.desc.extractLsb' 10 5).toNat + j)
            ∃ z ∈ y.writes, z.addr = unit ∧ z.mark = 0 ∧
              z.val = BitVec.ofInt 32 ((mget 0 cl.store unit).toInt + dotI8 x.opA.bytes x.opB.bytes kb (rowsOf x.cmd.desc) i j))) ∧
    (∀ x rest, cl.staging = x :: rest → x.executed = true → 0 ∉ cl.mending → x.cmd.sf = 0 → x.spad = [] → cl.storeUnc = [] →
      (∀ e, x.cmd.kind ≠ .copyTo e) → (∀ v ∈ x.writes, v.mark = 0 ∧ v.bmask = 15) → (x.writes.map fun v => v.addr).Nodup →
      ∃ u, exec (.matrixComplete c) s = .next u ∧ (u.cluster c).staging = rest ∧ u.mem = s.mem ∧
        (∀ v ∈ x.writes, unitIs (u.cluster c) v.addr v.val) ∧
        ∀ a, (∀ v ∈ x.writes, v.addr ≠ a) → mget 0 (u.cluster c).store a = mget 0 cl.store a ∧ (a ∈ (u.cluster c).storePsn ↔ a ∈ cl.storePsn))

open Sys2Proof Sys2Proof.Machine Sys2Proof.Claims in
/-- A descriptor being reconfigured (R255, R269): once no command of the cluster names it, the new word is written, and an unset one closes at once;
once every granted command has completed its rectangle is cleared, and the TCFG retires. -/
def Sys2Proof.Claims.DescriptorClosing : Prop :=
  ∀ (s : State) (c : Nat) (t : TIx) (w : Word), c < 512 →
    let cl := s.cluster c
    (mfind cl.newWord t.val = some w → t.val ∉ cl.clearing → (∀ x ∈ cl.staging, x.cmd.t ≠ t.val) →
      (∀ k, k < 8 → ∀ m ∈ (s.tile (clusterTile c k)).matq, m.t ≠ t.val) →
      ∃ u, exec (.tcfgClosed c t) s = .next u ∧ mget 0 (u.cluster c).desc t.val = w ∧ u.mem = s.mem ∧
        (∀ k, k ≠ t.val → mget 0 (u.cluster c).desc k = mget 0 cl.desc k) ∧
        (w.getLsbD 63 = true → t.val ∈ (u.cluster c).clearing) ∧ (w.getLsbD 63 = false → closed s u c t)) ∧
    (t.val ∈ cl.clearing → cl.staging = [] → 0 ∉ cl.mending → cl.storeUnc = [] → w = mget 0 cl.desc t.val → tileWord w →
      ∃ u, exec (.tcfgClearDone c t) s = .next u ∧ u.mem = s.mem ∧ closed s u c t ∧
        (∀ v, inRectangle w v → unitIs (u.cluster c) v 0) ∧
        ∀ v, ¬inRectangle w v → mget 0 (u.cluster c).store v = mget 0 cl.store v ∧ (v ∈ (u.cluster c).storePsn ↔ v ∈ cl.storePsn))

/-- Steps of the copy and matrix engines (R229-R247, R259-R270). -/
def Obligations.EngineSteps : Prop :=
  Sys2Proof.Claims.CopyEngine ∧ Sys2Proof.Claims.MatrixEngine ∧ Sys2Proof.Claims.DescriptorClosing

/-! # Requests at their homes -/

namespace Sys2Proof.Claims
open Sys2Proof Sys2Proof.Machine

/-- f is the head of tile t's plane A queue, no flit has left it in this cycle, and the tile takes it: it is held by a region of f's context,
neither fenced nor settled. -/
def arrives (s : State) (t : Nat) (f : Flit) (rest : List Flit) : Prop :=
  (s.tile t).ejA = f :: rest ∧ (s.tile t).passedA = false ∧ (s.tile t).fenced = false ∧ s.diePresent (dieOf (clusterOf t)) = true ∧
  (s.tile t).region.isSome = true ∧ (s.tile t).halt ≠ .settled ∧ (s.tile t).ctx = f.ctx ∧ f.flag = 0 ∧ t < 4096

/-- The banks grant in this cycle what the request f accesses (R16; Tile.grants, log 77). -/
def banksGiven (s : State) (t : Nat) (f : Flit) : Prop := (s.askHome (.tile t) 0 (rowsAt f)).1 = true

/-- A request for the queue bank is taken: the bank copies no row to a spare (R399). -/
def bankOpen (s : State) (t : Nat) (f : Flit) : Prop :=
  (f.op = .push ∨ f.op = .tdec ∨ f.op = .tcancel) → 1 ∉ (s.cluster (clusterOf t)).mending

/-- The last flit that the tile offers to plane B answers f. -/
def answersWith (u : State) (t : Nat) (f : Flit) (rest : List Flit) (op : Op) (g : Flit) : Prop :=
  (u.tile t).ejA = rest ∧ (u.tile t).injB.getLast? = some g ∧ g.op = op ∧ g.home = f.src ∧ g.tag = f.tag ∧ g.ans = f.op ∧
  g.src = .tile t ∧ g.ctx = f.ctx ∧ g.idx = f.idx

/-- The request f leaves memory as v has it, and is acknowledged (R158). -/
def performedAs (t : Nat) (f : Flit) (rest : List Flit) (v : State) (o : Host.Outcome State Fault Refusal) : Prop :=
  ∃ u g, o = .next u ∧ answersWith u t f rest .ack g ∧ u.mem = v.mem ∧ u.psn = v.psn ∧ u.tagged = v.tagged ∧ ∀ c, u.fe c = v.fe c

/-- The request f is answered with words and their marks, memory as v has it (R157). -/
def answeredWith (t : Nat) (f : Flit) (rest : List Flit) (v : State) (words : List (Nat × Nat)) (tag : Nat)
    (o : Host.Outcome State Fault Refusal) : Prop :=
  ∃ u g, o = .next u ∧ answersWith u t f rest .resp g ∧ g.data = (words.flatMap fun w => natLe 8 w.1) ∧
    g.psn = words.map (fun w => w.2) ∧ g.tags = tag ∧ u.mem = v.mem ∧ u.psn = v.psn ∧ u.tagged = v.tagged ∧ ∀ c, u.fe c = v.fe c

/-- Mark of the word at flat address a. -/
def wordMark (s : State) (a : Nat) : Nat := if s.poisoned a then (s.byte (a / 8 * 8)).toNat + 1 else 0

/-- The event that takes a plane A flit of an operation at a tile. -/
def requestEvent (op : Op) (h : Home) : Option Instr :=
  match op with
  | .load => some (.load h) | .loadv => some (.loadv h) | .loadcap => some (.loadcap h) | .store => some (.store h)
  | .storev => some (.storev h) | .storecap => some (.storecap h) | .put => some (.put h) | .putv => some (.putv h)
  | .atomic => some (.atomic h) | .atomicr => some (.atomicr h) | .ldc => some (.ldcRequest h) | .stp => some (.stpRequest h)
  | .feset => some (.fesetRequest h) | .scrub => some (.scrubRequest h) | .poison => some (.poisonRequest h) | .arm => some (.arm h)
  | .disarm => some (.disarm h) | .withdraw => some (.withdraw h) | .granule => some (.granule h) | .streamend => some (.streamend h)
  | .push => some (.push h) | .tdec => some (.tdecRequest h) | .tcancel => some (.tcancelRequest h) | .wake => some (.wakeRequest h)
  | _ => none

/-- Two flits of one message, the first waiting in a slot of the tile (R36); the banks grant the whole. -/
def secondPart (s : State) (t : Nat) (g f : Flit) : Prop :=
  f.flast = 1 ∧ f.fidx = 1 ∧ g.flast = 1 ∧ g.fidx = 0 ∧ g.src = f.src ∧ g.tag = f.tag ∧ g.op = f.op ∧ g.ctx = f.ctx ∧ g.idx = f.idx ∧
  g.flag = 0 ∧ (s.tile t).slots = [{ flits := [g] }] ∧ banksGiven s t g

/-- Every kind of request is refused by a tile that cannot take it, memory unchanged (R2, R55, R300, R358, R396, R397): FENCED, class 5, as what arms does also
on a tile that has been reset and is not placed again; ABSENT, class 0x0B; another context, CAP, class 6. The first part of a message waits in a slot. -/
def RequestsRefused : Prop :=
  ∀ (s : State) (t : Nat) (f : Flit) (rest : List Flit) (i : Instr), (s.tile t).ejA = f :: rest → (s.tile t).passedA = false →
    requestEvent f.op (.tile t) = some i → bankOpen s t f →
    let x := s.tile t
    let wiped := x.region = none ∧ x.wiped = true ∧ (f.op = .arm ∨ f.op = .ldc ∨ f.op = .stp)
    let gone := s.diePresent (dieOf (clusterOf t)) = false
    let refusedBy := fun (why : Reason) (cls : Nat) =>
      ∃ u g, exec i s = .next u ∧ answersWith u t f rest .nak g ∧ g.reason = why ∧ g.cls = cls ∧ g.origin = t ∧ u.mem = s.mem
    (x.fenced = true ∨ (gone ∧ (f.op = .withdraw → x.halt ≠ .settled)) → refusedBy .fenced 5) ∧
    (x.fenced = false → ¬gone → wiped → refusedBy .fenced 5) ∧
    (x.fenced = false → ¬gone → ¬wiped → x.region = none ∨ x.halt = .settled → refusedBy .absent 0x0B) ∧
    (x.fenced = false → ¬gone → x.region.isSome = true → x.halt ≠ .settled → x.ctx ≠ f.ctx → refusedBy .cap 6) ∧
    (arrives s t f rest → f.flast = 1 → x.slots = [] →
      ∃ u, exec i s = .next u ∧ (u.tile t).slots = [{ flits := [f] }] ∧ (u.tile t).ejA = rest ∧ u.mem = s.mem)

/-- Reads, writes and atomics at the tile that holds the word (R157, R158, R160-R172): what the home does, then the answer. -/
def DataRequests : Prop :=
  ∀ (s : State) (t : Nat) (f : Flit) (rest : List Flit), arrives s t f rest →
    let h := Home.tile t
    let a := spad t (f.ga % 2 ^ 19)
    let mark := (f.psn.find? fun m => m != 0).getD 0
    (f.flast = 0 → banksGiven s t f → noErr s a → a % 8 + f.size ≤ 8 →
      (f.op = .load → answeredWith t f rest s [(s.val a f.size, wordMark s a)] 0 (exec (.load h) s)) ∧
      (f.op = .store → performedAs t f rest (s.store 0 a f.size (leNat f.data) mark) (exec (.store h) s)) ∧
      (f.op = .put → performedAs t f rest (s.store 0 a f.size (leNat f.data) mark) (exec (.put h) s))) ∧
    (f.flast = 0 → banksGiven s t f → noErr s a →
      let r := s.atomic 0 a f.fn f.aty f.opnd f.opndMark f.cmp f.cmpMark
      (f.op = .atomic → performedAs t f rest r.2 (exec (.atomic h) s)) ∧
      (f.op = .atomicr → answeredWith t f rest r.2 [(r.1.old, r.1.mark)] 0 (exec (.atomicr h) s))) ∧
    (f.flast = 0 → banksGiven s t f → a % 16 = 0 → noErr s a → noErr s (a + 8) →
      (f.op = .loadcap → s.poisoned a = false → s.poisoned (a + 8) = false →
        answeredWith t f rest s [(s.val a 8, 0), (s.val (a + 8) 8, 0)] (if s.tagAt a then 1 else 0) (exec (.loadcap h) s)) ∧
      (f.op = .storecap → performedAs t f rest
        (s.storeCap 0 a (leNat (f.data.take 8)) (leNat ((f.data.drop 8).take 8)) mark (f.tags == 1)) (exec (.storecap h) s))) ∧
    (f.flast = 0 → banksGiven s t f → (∀ k, k < 8 → noErr s (a + 8 * k)) → f.op = .loadv →
      ∃ u g1 g2 pre, exec (.loadv h) s = .next u ∧ u.mem = s.mem ∧ (u.tile t).injB = pre ++ [g1, g2] ∧ g1.op = .respv ∧ g2.op = .respv ∧
        g1.tag = f.tag ∧ g2.tag = f.tag ∧ g1.home = f.src ∧ g2.home = f.src ∧ g1.fidx = 0 ∧ g2.fidx = 1 ∧
        g1.data ++ g2.data = ((List.range 8).flatMap fun k => natLe 8 (s.val (a + 8 * k) 8)) ∧
        g1.psn ++ g2.psn = ((List.range 8).map fun k => wordMark s (a + 8 * k))) ∧
    (∀ g, secondPart s t g f →
      let b := spad t (g.ga % 2 ^ 19)
      let v := s.putWords 0 b (g.data ++ f.data) g.bmask (g.psn ++ f.psn) 8
      (∀ k, k < 8 → noErr s (b + 8 * k)) →
      (f.op = .storev → performedAs t f rest v (exec (.storev h) s)) ∧ (f.op = .putv → performedAs t f rest v (exec (.putv h) s)))

/-- Full and empty, SCRUB, POISON and the monitors at the tile that holds the word (R173-R178, R308, R309, R358): LDC and STP are performed or registered by
FE, and answered removed where they have been withdrawn; an arm is answered or registered; a withdrawal removes a registered
request, and is kept for one that has not come (the model's choice, log 81). -/
def SyncRequests : Prop :=
  ∀ (s : State) (t : Nat) (f : Flit) (rest : List Flit), arrives s t f rest → f.flast = 0 → banksGiven s t f →
    let h := Home.tile t
    let a := spad t (f.ga % 2 ^ 19)
    let waits := fun (i : Instr) =>
      ((s.tile t).monitors.length < 64 → ∃ u, exec i s = .next u ∧ (u.tile t).monitors = (s.tile t).monitors ++ [f] ∧
        (u.tile t).ejA = rest ∧ u.mem = s.mem ∧ u.full = s.full) ∧
      (64 ≤ (s.tile t).monitors.length → ∃ u g, exec i s = .next u ∧ answersWith u t f rest .notreg g ∧ u.mem = s.mem ∧
        (u.tile t).monitors = (s.tile t).monitors)
    (noErr s a → noFeWaiter s a → f.ga % 8 = 0 →
      ((f.op = .ldc ∨ f.op = .stp) → s.withdrew h f = true → ∀ i, requestEvent f.op h = some i →
        ∃ u g, exec i s = .next u ∧ answersWith u t f rest .removed g ∧ u.mem = s.mem ∧ u.full = s.full ∧ u.withdrew h f = false) ∧
      (f.op = .ldc → s.withdrew h f = false → (s.fe a = true → answeredWith t f rest (s.setFe a false) [(s.val a 8, wordMark s a)] 0 (exec (.ldcRequest h) s)) ∧
        (s.fe a = false → waits (.ldcRequest h))) ∧
      (f.op = .stp → s.withdrew h f = false → (s.fe a = false → performedAs t f rest ((s.store 0 a 8 f.opnd f.opndMark).setFe a true) (exec (.stpRequest h) s)) ∧
        (s.fe a = true → waits (.stpRequest h))) ∧
      (f.op = .feset → performedAs t f rest (s.setFe a (f.opnd == 1)) (exec (.fesetRequest h) s)) ∧
      (f.op = .poison → performedAs t f rest (s.store 0 a 8 0 9) (exec (.poisonRequest h) s))) ∧
    (f.op = .scrub → f.ga % 64 = 0 → (∀ k, k < 8 → noFeWaiter s (a + 8 * k)) → performedAs t f rest (s.scrub 0 a) (exec (.scrubRequest h) s)) ∧
    (f.op = .arm → noErr s a → f.ga % 8 = 0 → s.poisoned a = false → s.val a 8 / 2 ^ 40 % 256 = 0 →
      let n := s.val a 8 % 2 ^ 40
      let met := if f.cmp = 1 then n = f.opnd else f.opnd ≤ n
      (met → ∃ u g, exec (.arm h) s = .next u ∧ answersWith u t f rest .fire g ∧ g.found = true ∧ g.opndMark = 0 ∧ u.mem = s.mem) ∧
      (¬met → f.once = true → ∃ u g, exec (.arm h) s = .next u ∧ answersWith u t f rest .fire g ∧ g.found = false ∧ u.mem = s.mem) ∧
      (¬met → f.once = false → waits (.arm h))) ∧
    (let mine := fun (g : Flit) => g.src = f.src ∧ g.tag = f.tag
     (f.op = .disarm → ∃ u, exec (.disarm h) s = .next u ∧ u.mem = s.mem ∧
       (u.tile t).monitors = (s.tile t).monitors.filter fun g => ¬mine g) ∧
     (f.op = .withdraw → (∃ g ∈ (s.tile t).monitors, mine g) → ∃ u g, exec (.withdraw h) s = .next u ∧ u.mem = s.mem ∧
       answersWith u t f rest .removed g ∧ (u.tile t).monitors = (s.tile t).monitors.filter fun g => ¬mine g) ∧
     (f.op = .withdraw → (∀ g ∈ (s.tile t).monitors, ¬mine g) → ∃ u, exec (.withdraw h) s = .next u ∧ u.mem = s.mem ∧
       (u.tile t).ejA = rest ∧ (u.tile t).injB = (s.tile t).injB ∧ (u.tile t).monitors = (s.tile t).monitors ∧
       (u.tile t).withdrawn = ((s.tile t).keepWithdrawal f).withdrawn))

/-- Granules and end messages of a copy stream (R37, R211, R241, R243, R245): the first granule of a stream is written and opens its window; an end message writes
the pointer word with the bytes of the prefix, and frees the window. -/
def StreamRequests : Prop :=
  ∀ (s : State) (t : Nat) (f : Flit) (rest : List Flit), arrives s t f rest → f.flast = 0 → banksGiven s t f →
    let a := spad t (f.ga % 2 ^ 19)
    let mine := fun (w : Window) => w.src = f.src ∧ w.tag = f.tag
    (f.op = .granule → f.ga % 32 = 0 → (∀ k, k < 4 → noErr s (a + 8 * k)) → f.data.length = 32 → f.bmask = 2 ^ 32 - 1 →
      f.psn = [0, 0, 0, 0] → f.ct = false → f.lastg = false → f.gidx = 0 → (∀ w ∈ (s.tile t).windows, ¬mine w) →
      (s.tile t).windows.length < 16 →
      (∀ k, k < 4 → s.poisoned (a + 8 * k) = false) →
      ∃ u g w, exec (.granule (.tile t)) s = .next u ∧ answersWith u t f rest .ack g ∧ u.bytes a 32 = f.data ∧
        (∀ c, c < a ∨ a + 32 ≤ c → u.byte c = s.byte c) ∧ (u.tile t).windows = (s.tile t).windows ++ [w] ∧ mine w ∧ w.done = 1 ∧ w.got = []) ∧
    (f.op = .streamend → f.wpen = true → f.cls = 0 → f.wpoff % 8 = 0 → f.wpoff < 2 ^ 19 → noErr s (spad t f.wpoff) →
      s.poisoned (spad t f.wpoff) = false → (∀ w ∈ (s.tile t).windows, ¬mine w) →
      ∃ u g, exec (.streamend (.tile t)) s = .next u ∧ answersWith u t f rest .ack g ∧
        u.val (spad t f.wpoff) 8 % 2 ^ 40 = f.nb % 2 ^ 40 ∧ u.val (spad t f.wpoff) 8 / 2 ^ 40 = s.val (spad t f.wpoff) 8 / 2 ^ 40 ∧
        (u.tile t).windows = (s.tile t).windows)

/-- Pushes, decrements, cancellations and wakes from other tiles (R198, R278, R279, R290, Table 12.4, Table 8.5); the first three wait while the
queue bank copies a row to a spare (R399). -/
def TaskRequests : Prop :=
  ∀ (s : State) (t : Nat) (f : Flit) (rest : List Flit), arrives s t f rest → bankOpen s t f →
    let a := spad t (f.ga % 2 ^ 19)
    let c := clusterOf t
    let bank := (s.cluster c).bank
    (∀ g, secondPart s t g f → f.op = .push → f.data.length = 32 → g.data.length = 32 → g.psn = [0, 0, 0, 0] → f.psn = [0, 0, 0, 0] →
      (bank.length < 1024 → ∃ u k x, exec (.push (.tile t)) s = .next u ∧ answersWith u t f rest .ack k ∧ u.mem = s.mem ∧
        (u.cluster c).bank = bank ++ [x] ∧ x.ring = (if g.idx = 1 then 8 else inCluster t) ∧ x.r.entry = leNat (g.data.take 8) % 2 ^ 19 ∧
        x.r.prio = leNat (g.data.take 8) / 2 ^ 19 % 4 ∧ x.r.taskid.toNat = leNat ((g.data.drop 8).take 8) ∧ x.level = x.r.prio ∧ x.block = none) ∧
      (1024 ≤ bank.length → (s.cluster c).cuff = none → ∃ u k, exec (.push (.tile t)) s = .next u ∧ answersWith u t f rest .nak k ∧
        k.reason = .qfull ∧ u.mem = s.mem ∧ (u.cluster c).bank = bank)) ∧
    (f.flast = 0 → banksGiven s t f → f.op = .tdec → f.ga % 128 = 0 →
      let r := s.tdec a f.once
      (r.1 = true → performedAs t f rest r.2 (exec (.tdecRequest (.tile t)) s)) ∧
      (r.1 = false → ∃ u k, exec (.tdecRequest (.tile t)) s = .next u ∧ answersWith u t f rest .nak k ∧ k.reason = .qfull ∧
        u.mem = r.2.mem)) ∧
    (f.flast = 0 → banksGiven s t f → f.op = .tcancel → f.ga % 128 = 0 → noErr s a → s.poisoned a = false →
      let st := s.val a 8
      ∃ u k, exec (.tcancelRequest (.tile t)) s = .next u ∧ answersWith u t f rest .resp k ∧
        k.data = natLe 8 (if st = 0 then 0 else if st ≤ 2 then 1 else if st = 3 then 2 else 3) ∧ k.psn = [0] ∧
        u.val a 8 = if st ≤ 2 then 4 else st) ∧
    (f.flast = 0 → f.op = .wake → f.thr < 8 →
      ∃ u k, exec (.wakeRequest (.tile t)) s = .next u ∧ answersWith u t f rest .ack k ∧ u.mem = s.mem ∧
        u.thr t f.thr = woken (s.thr t f.thr) f.sup)

/-- Loads and stores that reach a memory port or a register (R323, R344, R354): bytes stored under the key that the leaf names, and registers that the context may
reach. A 4-byte load of a register reads the half that its address names (the model's choice, log 80), but of the sequencer's registers;
an I/O die's monitor table holds 64 entries. -/
def PortAndRegisterRequests : Prop :=
  ∀ (s : State) (f : Flit), f.flast = 0 → f.flag = 0 →
    (∀ p, mget [] s.ports p = [f] → s.channelWaits (channelOf f.ga) = false → s.diePresent (dieOfStack (f.ga / 2 ^ 36 % 16)) = true →
      f.guarded = false → f.ga < 2 ^ 40 → f.ga % 8 + f.size ≤ 8 → (∀ k, k < 8 → noErr s (f.ga / 64 * 64 + 8 * k)) → s.poisoned f.ga = false → f.key = 0 → mfind s.keys 0 = none →
      mget 0 s.keyOf (f.ga / 64) = 0 →
      (f.op = .load → ∃ u, exec (.load (.port p)) s = .next u ∧ u.mem = s.mem ∧ mget [] u.ports p = [] ∧
        ∃ g, (u.router (p % 64 * 64 + (if p < 64 then 0 else 63))).brimB.getLast? = some g ∧ g.op = .resp ∧ g.tag = f.tag ∧ g.home = f.src ∧
          g.data = natLe 8 (s.val f.ga f.size)) ∧
      (f.op = .store → 1 ≤ f.size → f.psn = [0] → ∃ u, exec (.store (.port p)) s = .next u ∧ mget [] u.ports p = [] ∧
        u.val f.ga f.size = leNat f.data % 256 ^ f.size ∧ ∀ c, c < f.ga ∨ f.ga + f.size ≤ c → u.byte c = s.byte c)) ∧
    (∀ d r, (s.ioDie d).inq = [f] → regAt (f.ga % 2 ^ 44 / 8 * 8) = some r → (∀ c, r ≠ .trpass c) →
      (f.op = .load → s.regOpen r false (.device f.ctx) = true → f.size = 8 → f.ga % 8 = 0 →
        ∃ u g, exec (.load (.io d)) s = .next u ∧ (u.ioDie d).inq = [] ∧
        (∃ row, (u.router row).brimB.getLast? = some g) ∧ g.op = .resp ∧ g.tag = f.tag ∧ g.data = natLe 8 (s.regRead r).toNat ∧ u.mem = s.mem) ∧
      (f.op = .load → s.regOpen r false (.device f.ctx) = true → f.size = 4 → f.ga % 4 = 0 →
        ∃ u g, exec (.load (.io d)) s = .next u ∧ (∃ row, (u.router row).brimB.getLast? = some g) ∧ u.mem = s.mem ∧
          if r.ofSequencer then g.op = .nak ∧ g.reason = .cap
          else g.op = .resp ∧ g.data = natLe 8 ((s.regRead r).toNat / 2 ^ (8 * (f.ga % 8)) % 2 ^ 32)) ∧
      (f.op = .arm → f.once = false → (∃ n, r = .lflag n ∧ launchFlag f.ga = some n ∧ decided (s.lflagAt n) (f.cmp == 1) f.opnd = false) →
        s.regOpen r false (.device f.ctx) = true →
        ((s.ioDie d).monitors.length < 64 → ∃ u, exec (.arm (.io d)) s = .next u ∧ (u.ioDie d).monitors = (s.ioDie d).monitors ++ [f]) ∧
        (64 ≤ (s.ioDie d).monitors.length → ∃ u g, exec (.arm (.io d)) s = .next u ∧ (u.ioDie d).monitors = (s.ioDie d).monitors ∧
          (∃ row, (u.router row).brimB.getLast? = some g) ∧ g.op = .notreg ∧ g.tag = f.tag)) ∧
      (f.op = .store → s.regOpen r true (.device f.ctx) = false → ∃ u g, exec (.store (.io d)) s = .next u ∧
        (∃ row, (u.router row).brimB.getLast? = some g) ∧ g.op = .nak ∧ g.reason = .cap ∧ u.mem = s.mem))

end Sys2Proof.Claims

/-- Requests at their homes. A WAKE is refused as any flit of plane A by a fenced tile (logs 52 and 93: R397 names plane B for it); logs 78-81
are the model's choices too. Parts: RequestsRefused, DataRequests, SyncRequests, StreamRequests, TaskRequests, PortAndRegisterRequests. -/
def Obligations.HomeRequests : Prop :=
  Sys2Proof.Claims.RequestsRefused ∧ Sys2Proof.Claims.DataRequests ∧ Sys2Proof.Claims.SyncRequests ∧
  Sys2Proof.Claims.StreamRequests ∧ Sys2Proof.Claims.TaskRequests ∧ Sys2Proof.Claims.PortAndRegisterRequests

/-! # Answers, retries, signals and timeouts -/

namespace Sys2Proof.Claims
open Sys2Proof Sys2Proof.Machine

/-- f is the head of tile t's plane B queue, no flit has left it in this cycle, and no fence holds the tile. -/
def comesBack (s : State) (t : Nat) (f : Flit) (rest : List Flit) : Prop :=
  (s.tile t).ejB = f :: rest ∧ (s.tile t).passedB = false ∧ (s.tile t).fenced = false

/-- p is the operation that the tag of f names, the only one with it; no home of this tile awaits a signal under the tag; and no CTXST or CTXLD of
the tile waits. -/
def outstanding (s : State) (t : Nat) (f : Flit) (p : Posted) : Prop :=
  ((s.tile t).posted.find? fun q => q.tag == f.tag) = some p ∧ (s.sigWaits.find? fun w => w.home == .tile t && w.tag == f.tag) = none ∧
  ∀ k i x, k < 8 → (s.thr t k).wait ≠ .ctx i x

/-- The operation is no longer outstanding. -/
def notOutstanding (u : State) (t tag : Nat) : Prop := ∀ q ∈ (u.tile t).posted, q.tag ≠ tag

/-- The wait of thread h has ended: it retires at its PC with v in gD, and is in rotation. -/
def woke (s u : State) (t h : Nat) (d : GIx) (v : GReg) : Prop :=
  let x := s.thr t h
  let y := u.thr t h
  y.run = .rotation ∧ y.wait = .none ∧ y.pc = x.succ ∧ y.retired = x.retired + 1 ∧ y.rd d = if d = 0 then {} else v

/-- Cycles before the k-th retry (R38). -/
def backoff (k : Nat) : Nat := 32 * 2 ^ min (k - 1) 7

/-- Answers with data (R157, R160, R162): the LD or LDV that waits for its one answer retires with the value, or the class, that came. -/
def DataAnswers : Prop :=
  ∀ (s : State) (t h : Nat) (f : Flit) (rest : List Flit) (p : Posted), comesBack s t f rest → outstanding s t f p → p.kind = .request h →
    p.flit.idx = 0 → (s.thr t h).served = [] → (s.thr t h).badBase = none → h < 8 →
    (∀ z sz d a m v, f.op = .resp → (s.thr t h).wait = .resp (.ld z sz d a m) [0] → f.data = natLe 8 v → v < 256 ^ (2 ^ sz.val) → f.tags = 0 →
      (f.psn = [0] → ∃ u, exec (.resp t) s = .next u ∧ u.mem = s.mem ∧ notOutstanding u t f.tag ∧
        woke s u t h d (dataReg (if z then .ofNat 64 v else .ofInt 64 (BitVec.ofNat (8 * 2 ^ sz.val) v).toInt))) ∧
      (∀ c, f.psn = [c + 1] → c < 256 → ∃ u w, exec (.resp t) s = .next u ∧ w.tag = .poison ∧ classOf w = c ∧ woke s u t h d w)) ∧
    (∀ d a m g, f.op = .respv → (s.thr t h).wait = .resp (.ldv d a 0 m) [0] → secondPart s t g f → g.data.length = 32 → f.data.length = 32 →
      g.psn = [0, 0, 0, 0] → f.psn = [0, 0, 0, 0] → g.tags = 0 →
      ∃ u, exec (.respv t) s = .next u ∧ u.mem = s.mem ∧ notOutstanding u t f.tag ∧ (u.thr t h).run = .rotation ∧
        (u.thr t h).pc = (s.thr t h).succ ∧ (u.thr t h).rv d = { val := BitVec.ofNat 512 (leNat (g.data ++ f.data)), pmask := 0 })

/-- Acknowledgements and refusals of posted operations (R38, R158, R201, R298, R301, R302, Tables 1.5 and 13.3): an acknowledged one ends, and lets a PDRAIN that awaits
nothing more retire; one refused for good is logged; one refused for want of room is held for its retry, its refusals counted where it was sent, and sent again when its
time has come. -/
def PostedAnswers : Prop :=
  ∀ (s : State) (t h : Nat) (f : Flit) (rest : List Flit) (p : Posted), comesBack s t f rest → outstanding s t f p → p.kind = .posted h →
    h < 8 → f.ans = p.flit.op → p.flit.op ∈ [Op.store, .storev, .storecap, .put, .putv, .atomic, .feset, .scrub, .poison, .wake] → p.flit.flag = 0 →
    (f.op = .ack → ∃ u, exec (.ack (.tile t)) s = .next u ∧ u.mem = s.mem ∧ notOutstanding u t f.tag ∧
      ((s.thr t h).wait = .pdrain → (∀ q ∈ (s.tile t).posted, awaited h q → q.tag = f.tag) → woke s u t h 0 {})) ∧
    (f.op = .nak → f.sigref = false →
      (f.reason ∈ [Reason.fenced, .cap, .guard, .link] → (s.tile t).flog.length < 8 → (s.tile t).halt ≠ .settled →
        (s.tile t).retries.length ≤ 256 →
        ∃ u e, exec (.nak (.tile t)) s = .next u ∧ u.mem = s.mem ∧ notOutstanding u t f.tag ∧ (u.tile t).flog = (s.tile t).flog ++ [e] ∧
          e.h = true ∧ e.rd = false ∧ e.thr = h ∧ e.cls = f.cls ∧ e.reason = f.reason ∧ e.origin = f.origin ∧ e.head = p.head ∧
          e.addr = BitVec.ofNat 64 p.addr ∧ e.pc = p.pc ∧ (u.thr t h).afp = true) ∧
      (∀ n, n = mget 0 p.tries 0 →
        f.reason ∈ [Reason.slot, .window] ∨ (f.reason = .absent ∧ n < 65536) → f.count = 0 → p.flit.flast = 0 → (s.tile t).retries.length < 256 →
        ∃ u r, exec (.nak (.tile t)) s = .next u ∧ u.mem = s.mem ∧ (u.tile t).flog = (s.tile t).flog ∧
          (u.tile t).retries = (s.tile t).retries ++ [r] ∧ r.flit.op = p.flit.op ∧ r.flit.tag = p.flit.tag ∧ r.k = n + 1 ∧
          r.due = (s.tile t).cycle + backoff (n + 1) ∧ ∀ q ∈ (u.tile t).posted, q.tag = f.tag → mget 0 q.tries 0 = n + 1)) ∧
    ∀ n r, (s.tile t).retries[n]? = some r → (s.tile t).halt = .running → r.due ≤ (s.tile t).cycle → planeB r.flit.op = false →
      ∃ u, exec (.nakRetry t n) s = .next u ∧ u.mem = s.mem ∧ (u.tile t).injA = (s.tile t).injA ++ [r.flit] ∧
        (u.tile t).retries.length + 1 = (s.tile t).retries.length

/-- A refused part of a 64-byte response waits as long as any flit before it is sent again (R38); each flit counts its own refusals, and a refusal that finds the tile's 256 places taken waits (log 78). -/
def ResponseRetries : Prop :=
  ∀ (s : State) (t : Nat) (f : Flit) (rest : List Flit), comesBack s t f rest → f.op = .nak → f.ans = .respv → f.reason = .slot →
    (s.tile t).retries.length < 256 →
    ∃ u r, exec (.nak (.tile t)) s = .next u ∧ u.mem = s.mem ∧ (u.tile t).retries = (s.tile t).retries ++ [r] ∧ r.flit.op = .respv ∧
      r.flit.tag = f.tag ∧ r.flit.fidx = f.count - 1 ∧ r.flit.data = f.data ∧ r.k = f.tries + 1 ∧
      r.due = (s.tile t).cycle + backoff (f.tries + 1)

/-- Signals and what waiting threads are told (R167, R176-R178, R358): a signal is performed and acknowledged; FIRE ends an FWAIT with its monitor's number; NOTREG
puts a request off by 256 cycles, and it is then sent again; REMOVED leaves the instruction to issue again; a timeout gives 4, unless a
monitor's answer reaches the thread in that cycle. -/
def WaitAnswers : Prop :=
  ∀ (s : State) (t h : Nat) (f : Flit) (rest : List Flit), h < 8 →
    let now := (s.tile t).cycle
    let a := spad t (f.ga % 2 ^ 19)
    (f.op = .signal → comesBack s t f rest → (s.askHome (.tile t) 1 [f.ga % 2 ^ 19]).1 = true → s.diePresent (dieOf (clusterOf t)) = true →
      (s.tile t).region.isSome = true → (s.tile t).halt ≠ .settled → (s.tile t).ctx = f.ctx →
      ∃ u g, exec (.signal (.tile t)) s = .next u ∧ (u.tile t).ejB = rest ∧ u.mem = (s.signalAt a f.opnd f.cls f.origin).mem ∧
        (u.tile t).injB.getLast? = some g ∧ g.op = .ack ∧ g.tag = f.tag ∧ g.home = f.src) ∧
    (∀ p, comesBack s t f rest → outstanding s t f p →
      (∀ d mons start n m, f.op = .fire → f.found = true → p.kind = .arm h → (s.thr t h).wait = .fwait d mons start n → n ≠ some 0 → d < 16 →
        (mons.find? fun x => x.tag == f.tag && x.armed) = some m →
        ∃ u, exec (.fire t) s = .next u ∧ u.mem = s.mem ∧
          woke s u t h (Fin.ofNat 16 d) (if f.opndMark = 0 then { tag := .data, body := BitVec.ofNat 64 m.idx |>.setWidth 128 }
            else { tag := .poison, body := BitVec.ofNat 64 m.flag ++ BitVec.ofNat 64 ((f.opndMark - 1) % 256) })) ∧
      (∀ i left, f.op = .notreg → p.kind = .request h → (s.thr t h).wait = .resp i left →
        ∃ u, exec (.notreg t) s = .next u ∧ u.mem = s.mem ∧ (u.thr t h).wait = .rearm i (now + 256) p.flit ∧ (u.thr t h).pc = (s.thr t h).pc) ∧
      (f.op = .removed → p.kind = .request h →
        ∃ u, exec (.removed t) s = .next u ∧ u.mem = s.mem ∧ notOutstanding u t f.tag ∧ (u.thr t h).wait = .none ∧
          (u.thr t h).pc = (s.thr t h).pc ∧ (u.thr t h).retired = (s.thr t h).retired)) ∧
    (∀ i k g, (s.thr t h).wait = .rearm i k g → k ≤ now → (s.tile t).halt = .running → planeB g.op = false →
      ∃ u, exec (.armResend t h) s = .next u ∧ u.mem = s.mem ∧ (u.tile t).injA = (s.tile t).injA ++ [g] ∧
        (u.thr t h).wait = .resp i [g.idx]) ∧
    (∀ d mons start n, (s.thr t h).wait = .fwait d mons start (some n) → n ≠ 0 → start + n ≤ now → (s.tile t).halt = .running → d < 16 →
      ((s.tile t).answering mons = none →
        ∃ u, exec (.fwaitTimeout t h) s = .next u ∧ u.mem = s.mem ∧ woke s u t h (Fin.ofNat 16 d) { tag := .data, body := 4 }) ∧
      (∀ m, (s.tile t).answering mons = some m → exec (.fwaitTimeout t h) s = .next s))

end Sys2Proof.Claims

/-- Plane B at a tile, and its timers: DataAnswers, PostedAnswers, ResponseRetries, WaitAnswers. -/
def Obligations.AnswersAndTimers : Prop :=
  Sys2Proof.Claims.DataAnswers ∧ Sys2Proof.Claims.PostedAnswers ∧ Sys2Proof.Claims.ResponseRetries ∧ Sys2Proof.Claims.WaitAnswers

/-! # Contexts, rings and launches -/

namespace Sys2Proof.Claims
open Sys2Proof Sys2Proof.Machine

/-- No channel is in training or repair, so that no turn of an agent waits for one (R399, R414). -/
def noWait (s : State) : Prop := ∀ c, s.channelWaits c = false

/-- The state as a turn begins: nothing has waited yet. -/
def fresh (s : State) : State := { s with stalled := false }

/-- A launch flag's count, class and origin (Table 2.12). -/
def flagWord (u : State) (f : Nat) : Nat := (mget 0 u.lflags f).toNat

/-- The launch of an id, among those held. -/
def launchIs (s : State) (id : Nat) (l : Launch) : Prop := (s.launches.find? fun x => x.id == id) = some l ∧ l.id = id

/-- The launch has ended: it is held no more, and its done flag shows how (R332, R333): by 1 at DONE, else a class where the flag had
none. -/
def launchEnded (s u : State) (l : Launch) (cls : Nat) : Prop :=
  let w := flagWord s l.doneFlag
  let v := flagWord u l.doneFlag
  (∀ x ∈ u.launches, x.id ≠ l.id) ∧ (∀ x ∈ u.images, x.id ≠ l.id) ∧
  (l.doneEn = true → cls = 0 → v % 2 ^ 40 = (w + 1) % 2 ^ 40 ∧ v / 2 ^ 40 = w / 2 ^ 40) ∧
  (l.doneEn = true → cls ≠ 0 → w / 2 ^ 40 % 256 = 0 → v % 2 ^ 40 = w % 2 ^ 40 ∧ v / 2 ^ 40 % 256 = cls ∧ v / 2 ^ 48 = 0x2000) ∧
  (l.doneEn = false → v = w)

/-- A context descriptor's fields in the eight words at a (Table 17.2). -/
def contextAt (s : State) (a : Nat) (c : Ctx) : Prop :=
  let w := fun (i : Nat) => s.val (a + 8 * i) 8
  c.valid = true ∧ c.addr = a ∧ c.ptroot = w 0 ∧ c.key = w 1 % 2 ^ 13 ∧ c.flogring = w 2 ∧ c.supq = w 3 ∧ c.savedir = w 4 ∧
  c.maxprio = w 5 % 8 ∧ c.signed = bit (w 5) 3 ∧ c.chain = [] ∧ c.firmware = false

/-- Contexts (R324, R353): CTXDESC with VALID copies a descriptor and clears the context's flags; a valid entry stands, and
a descriptor that cannot be read makes none (the model's choice, log 82); with VALID clear an idle one goes, with its translations. -/
def Contexts : Prop :=
  ∀ (s : State) (c : Fin 64) (v : Word),
    let a := (v.extractLsb' 6 38).toNat * 64
    (v.getLsbD 63 = true → (s.ctxOf c).valid = true → exec (.contextCreate c v) s = .next (fresh s)) ∧
    (v.getLsbD 63 = true → (s.ctxOf c).valid = false → noErrors s → noWait s → s.descReadable a = false →
      exec (.contextCreate c v) s = .next (fresh s)) ∧
    (v.getLsbD 63 = true → (s.ctxOf c).valid = false → noErrors s → mfind s.keys 0 = none → mget 0 s.keyOf (a / 64) = 0 → noWait s →
      a < 2 ^ 40 → s.diePresent (dieOfStack (a / 2 ^ 36)) = true → (∀ i, i < 8 → s.poisoned (a + 8 * i) = false) →
      ∃ u, exec (.contextCreate c v) s = .next u ∧ contextAt s a (u.ctxOf c) ∧ (∀ k, k ≠ c.val → u.ctxOf k = s.ctxOf k) ∧
        (∀ f, f / 16 = c.val → flagWord u f = 0) ∧ (∀ f, f / 16 ≠ c.val → flagWord u f = flagWord s f) ∧ u.mem = s.mem) ∧
    (v.getLsbD 63 = false → (∀ l ∈ s.launches, l.ctx ≠ c.val) → (∀ x ∈ s.subs, x.2.mapped = true → x.2.rctx ≠ c.val) →
      (s.ctxOf c).firmware = false →
      ∃ u, exec (.contextDestroy c v) s = .next u ∧ u.ctxOf c = { addr := a } ∧ (∀ k, k ≠ c.val → u.ctxOf k = s.ctxOf k) ∧
        ∀ x ∈ u.clusters, ∀ e ∈ x.2.tlb, e.ctx ≠ c.val)

/-- Submission slots (R327-R329): mapping takes the descriptor's fields, with a TAIL that was latched and is in range; an unmapping that begins sets
BUSY, and gives HEAD, TAIL and RCTL back to the descriptor as it ends, with PEND and the TAIL of a notify latched meanwhile; a notify in range
moves TAIL; a write that cannot be obeyed sets ERR. -/
def Rings : Prop :=
  ∀ (s : State) (i : Fin 64) (v : Word),
    let x := s.sub i
    let ctx := (v.extractLsb' 44 6).toNat
    let a := (v.extractLsb' 6 38).toNat * 64
    let err := fun (s : State) => s.setSub i { x with err := true }
    (x.mapped = true ∨ (s.ctxOf ctx).valid = false → exec (.ringMap i v) s = .next (err (fresh s))) ∧
    (∀ w0 w1 lg pend head tail s1, x.mapped = false → (s.ctxOf ctx).valid = true → v.getLsbD 0 = true →
      (fresh s).vreads ctx a 8 [] = (.ok [w0, w1, lg + ctx * 2 ^ 8 + pend * 2 ^ 63, head + tail * 2 ^ 32, 0, 0, 0, 0], s1) →
      s1.sub i = x → s1.stalled = false → 6 ≤ lg → lg ≤ 16 → head < 2 ^ 32 → tail < 2 ^ 32 →
      pend = 0 ∨ (pend = 1 ∧ (tail + 2 ^ 32 - head) % 2 ^ 32 ≤ 2 ^ lg) →
      exec (.ringMap i v) s = .next (s1.setSub i { x with ctx := ctx, daddr := a, mapBit := true, mapped := true, rbase := w0,
                                                          sbase := w1, log2 := lg, head := head, tail := tail, rctx := ctx, rdaddr := a,
                                                          latched := none })) ∧
    (x.mapped = false ∨ x.busy = true ∨ v.getLsbD 0 = true → exec (.ringUnmap i v) s = .next (err s)) ∧
    (x.mapped = true → x.busy = false → v.getLsbD 0 = false →
      exec (.ringUnmap i v) s = .next (s.setSub i { x with ctx := ctx, daddr := a, mapBit := false, busy := true })) ∧
    (x.busy = true → noWait s →
      let tail := x.latched.getD x.tail
      let r := (fresh s).vwrites x.rctx (x.rdaddr + 0x10)
        [x.log2 + x.rctx * 2 ^ 8 + (if x.latched.isSome then 2 ^ 63 else 0), x.head + tail * 2 ^ 32]
      s.ringUnmapped i = .next (r.2.setSub i { x with mapped := false, busy := false, latched := none })) ∧
    (let t := v.toNat % 2 ^ 32
     let ahead := (t + 2 ^ 32 - x.head) % 2 ^ 32
     (x.busy = true → exec (.subnotify i v) s = .next (s.setSub i { x with latched := some t })) ∧
     (x.busy = false → x.mapped = true → ahead ≤ 2 ^ x.log2 → exec (.subnotify i v) s = .next (s.setSub i { x with tail := t })) ∧
     (x.busy = false → x.mapped = false ∨ 2 ^ x.log2 < ahead → exec (.subnotify i v) s = .next (err s)))

/-- Acceptance (R329, R330, R334): with records waiting, the one at HEAD is read and HEAD moves on; one whose fields, header and shape pass is queued under the next
id at the least of its priority and the context's, which its record then holds, with the header read; the first bad field is named in its status. -/
def Acceptance : Prop :=
  ∀ (s : State) (i : Fin 64), let x := s.sub i
    let slot := x.head % 2 ^ x.log2
    let s0 := (fresh s).setSub i { x with head := (x.head + 1) % 2 ^ 32 }
    x.mapped = true → x.busy = false → x.head ≠ x.tail → s.ckpt = none → noWait s →
    ((s.launches.filter fun l => l.phase == .waiting || l.phase == .queued || l.phase == .placed).length < 4096) →
    ∀ w s1, s0.vreads x.rctx (x.rbase + 64 * slot) 8 [] = (.ok w, s1) → w.length = 8 →
      let s2 : State := { s1 with launchIds := s1.launchIds + 1, orders := s1.orders + 1 }
      (badField x.rctx w = none → w.getD 4 0 = 0 →
        ∀ hw s3 vof, s2.vreads x.rctx (w.getD 0 0) 8 [] = (.ok hw, s3) →
          Vof.ofWords hw = some vof → tileFits vof (bit (w.getD 3 0) 17) (w.getD 5 0) = true →
          (∃ d, d < 4 ∧ bit (w.getD 3 0) (9 + d) = true ∧ s3.diePresent d = true) →
          (placeAt (w.getD 3 0 % 16 + 1) (w.getD 3 0 / 16 % 32 + 1) (s3.onDies (w.getD 3 0 / 2 ^ 9 % 16))).isSome = true →
          ∃ u l, exec (.ringConsume i) s = .next u ∧ u.launches = s3.launches ++ [l] ∧ l.id = s1.launchIds + 1 ∧ l.ctx = x.rctx ∧
            l.phase = .waiting ∧ l.vof = vof ∧ l.order = s1.orders ∧ l.status = some (x.sbase + 8 * slot, x.rctx) ∧
            l.prio = min (w.getD 3 0 / 2 ^ 13 % 8) (s1.ctxOf x.rctx).maxprio ∧
            (l.record.getD 3 0).toNat / 2 ^ 13 % 8 = l.prio ∧ l.head = hw.map (BitVec.ofNat 64)) ∧
      (∀ off, badField x.rctx w = some off → w.getD 3 0 / 2 ^ 18 % 2 = 0 →
        let r := s2.vwrites x.rctx (x.sbase + 8 * slot) [0x12 + off % 2 ^ 32 * 2 ^ 8 + (s1.launchIds + 1) % 2 ^ 24 * 2 ^ 40]
        exec (.ringConsume i) s =
          .next { r.2 with launches := r.2.launches.filter (fun l => l.id != s1.launchIds + 1)
                           images := r.2.images.filter (fun m => m.id != s1.launchIds + 1) })

/-- Flag, threshold and enable of start condition j (R330). -/
def condition (l : Launch) (j : Nat) : Nat := (l.record.getD (6 + j / 2) 0).toNat / 2 ^ (32 * (j % 2)) % 2 ^ 32

/-- Start conditions and placement (R335, R336): with every enabled condition not yet observed met on a clean flag, the launch joins the placement queue; the head of the
queue takes the first origin, by rows, whose clusters are free, unfenced and on present dies that DIES names. -/
def ConditionsAndPlacement : Prop :=
  (∀ (s : State) (id : Nat) (l : Launch), launchIs s id l → l.phase = .waiting →
    (∀ j, j < 4 → bit (condition l j) 10 = true → j ∉ l.metConds →
      let w := flagWord s (condition l j % 2 ^ 10)
      w / 2 ^ 40 % 256 = 0 ∧ condition l j / 2 ^ 11 ≤ w % 2 ^ 40) →
    ∃ u m, exec (.launchConditionsMet id) s = .next u ∧ launchIs u id m ∧ m.phase = .queued ∧ m.record = l.record ∧ u.mem = s.mem) ∧
  (∀ (s : State) (l : Launch) (cx cy : Nat), launchIs s l.id l → s.queueHead = some l → l.phase = .queued → s.ckpt = none → s.evo.veryHot = false →
    s.evo.remapPending = none → s.evo.offlinePending = none →
    let fits := fun (x y : Nat) => x + l.w ≤ 16 ∧ y + l.h ≤ 32 ∧ ∀ i j, i < l.w → j < l.h →
      let c := (y + j) * 16 + x + i
      s.holder c = none ∧ (s.tile (clusterTile c 0)).fenced = false ∧ s.diePresent (dieOf c) = true ∧ bit l.dieMask (dieOf c) = true
    fits cx cy → (∀ x y, y < cy ∨ (y = cy ∧ x < cx) → ¬fits x y) →
    ∃ u m, exec .launchPlacement s = .next u ∧ launchIs u l.id m ∧ m.phase = .placed ∧ m.cx = cx ∧ m.cy = cy ∧ u.mem = s.mem)

/-- A tile of a region at its start (R99, R205, R339, Tables 2.9 and 17.8): the image from offset 0 over words that are zero, clean, empty and untagged, thread 0 about to run at the entry, its index in g1, its coordinates in g3; the
other threads wait for records unless all start. -/
def startedTile (u : State) (l : Launch) (img : List Byte) (t : Nat) : Prop :=
  let x := u.thr t 0
  let y := t / 64 - 2 * l.cy
  let col := t % 64 - 4 * l.cx
  (∀ i, i < 2 ^ 19 → u.byte (spad t i) = img.getD i 0 ∧ u.poisoned (spad t i) = false ∧ u.fe (spad t i) = false ∧ u.tagAt (spad t i) = false) ∧
  (u.tile t).region = some l.id ∧ (u.tile t).ctx = l.ctx ∧ x.run = .rotation ∧ x.pc.toNat = gaSpad t l.vof.entry ∧ x.priv = false ∧ x.exl = false ∧
  (∃ c, x.code = some c ∧ isImageCode c l.vof.codesz) ∧ (x.rd 1).low.toNat = y * (4 * l.w) + col ∧
  (l.allThreads = false → ∀ h, 1 ≤ h → h < 8 → (u.thr t h).run = .wfw)

/-- Loading and starting (R338, R339): the image of an unsigned context without relocations, read whole, starts on every tile that no fence holds. -/
def LoadingAndStarting : Prop :=
  ∀ (s : State) (l : Launch) (id : Nat) (img tb : List Byte) (s1 s2 : State), launchIs s id l → l.phase = .placed → noWait s →
    s.ckpt = none → s.evo.veryHot = false →
    (fresh s).readImage l 64 (l.vof.codesz + l.vof.datasz) = (.ok img, s1) → s1.readImage l l.vof.reloff 0 = (.ok tb, s2) → l.vof.nreloc = 0 →
    l.vof.region = 0 ∨ l.vof.region = l.w + l.h * 2 ^ 16 → (s2.ctxOf l.ctx).signed = false → (s2.ctxOf l.ctx).firmware = false →
    launchIs s2 id l → l.vof.codesz < 2 ^ 20 → l.vof.entry < 2 ^ 19 → l.cx + l.w ≤ 16 → l.cy + l.h ≤ 32 → img.length ≤ 2 ^ 19 →
    ∃ u m, exec (.launchLoad id) s = .next u ∧ launchIs u id m ∧ m.phase = .running ∧ m.started = s2.orders ∧
      ∀ t ∈ l.tiles, (s2.tile t).fenced = false → startedTile u l img t

/-- Completion and KILL (R333, R340, R341): once every thread of a region has halted or waits for a record, with nothing queued or outstanding, its launch is DONE, each fault record of a
firmware context having reached Evodon (R413), and its tiles are released clean; a launch that KILL names ends with class 8. -/
def CompletionAndKill : Prop :=
  ∀ (s : State) (l : Launch) (id : Nat), launchIs s id l → noWait s →
    (l.phase = .running → l.fenceHit = false → s.recordsWait l = false → (∀ t ∈ l.tiles, (s.tile t).finished = true) → (∀ c ∈ l.clusters, (s.cluster c).finished = true) →
      ∃ u, exec (.launchCompletion id) s = .next u ∧ launchEnded s u l 0 ∧
        ∀ t ∈ l.tiles, (u.tile t).region = none ∧ (u.tile t).threads = [] ∧ ∀ o, o < 2 ^ 19 → u.byte (spad t o) = 0) ∧
    (∀ (v : Word) (who : Writer), (s.launches.find? fun m => m.id % 2 ^ 24 == v.toNat % 2 ^ 24) = some l →
      ((∀ c, who = .device c → c = l.ctx) → ∃ u, exec (.kill v who) s = .next u ∧ launchEnded s u l 8 ∧
        (l.phase = .running → ∀ t ∈ l.tiles, (u.tile t).region = none ∧ (u.tile t).threads = [] ∧ ∀ o, o < 2 ^ 19 → u.byte (spad t o) = 0)) ∧
      (∀ c, who = .device c → c ≠ l.ctx → exec (.kill v who) s = .next (fresh s)))

/-- Pre-emption (R356-R363): the request halts the tiles of a selected region; a tile at rest settles and turns its waiters away; a settled region whose image is
written is SAVED, its clusters released, its launch first in the queue; a saved one restored runs again at its new origin, a capability of a
tile of the region naming the tile at the same place. -/
def Preemption : Prop :=
  (∀ (s : State) (id : Nat) (l : Launch), launchIs s id l → l.phase = .halting →
    ∃ u, exec (.preemptHaltRequest id) s = .next u ∧ u.mem = s.mem ∧
      ∀ t ∈ l.tiles, (s.tile t).halt = .running → (u.tile t).halt = .halting) ∧
  (∀ (s : State) (t : Nat), (s.tile t).halt = .halting → (s.tile t).ejA = [] →
    (∀ y ∈ (s.tile t).threads, y.2.run = .rotation → y.2.skip = 0 ∧ y.2.served = []) →
    ∃ u, exec (.preemptSettle t) s = .next u ∧ (u.tile t).halt = .settled ∧ (u.tile t).monitors = [] ∧ (u.tile t).slots = []) ∧
  (∀ (s : State) (id : Nat) (l : Launch) (s1 s2 s3 : State), launchIs s id l → l.phase = .settled → s.ckpt = none → noWait s →
    (∀ c ∈ l.clusters, (s.cluster c).mending = []) →
    let m := { l with saves := l.saves + 1 }
    let s0 := l.clusters.foldl (fun s c => s.lookCluster c) (fresh s)
    { s0 with free := s0.free + 1 }.vwrites l.ctx l.area (m.header ++ List.replicate 501 0) = (true, s1) →
    s1.saveClusters s0.free m m.clusters.zipIdx = (true, s2) →
    s2.vwrites l.ctx (l.area + 0x58) [1] = (true, s3) → launchIs s3 id l →
    ∃ u x, exec (.regionSave id) s = .next u ∧ launchIs u id x ∧ x.phase = .saved ∧ x.saves = l.saves + 1 ∧ x.order = s3.firsts ∧
      u.firsts = s3.firsts - 1 ∧ (∀ t ∈ l.tiles, (u.tile t).region = none ∧ (u.tile t).threads = []) ∧
      ∃ im ∈ u.images, im.id = l.id ∧ im.cx = l.cx ∧ im.cy = l.cy) ∧
  (∀ (s : State) (l : Launch) (cx cy : Nat) (im : RegionImage) (s1 : State), launchIs s l.id l → s.queueHead = some l → l.phase = .saved →
    s.ckpt = none → s.evo.veryHot = false → noWait s → s.findPlace [] l = some (cx, cy) → (s.images.find? fun x => x.id == l.id) = some im →
    (fresh s).restoreRegion { l with cx := cx, cy := cy } im (.hbm l.ctx l.area) = some s1 → launchIs s1 l.id l →
    ∃ u x, exec .launchRestore s = .next u ∧ launchIs u l.id x ∧ x.phase = .running ∧ x.cx = cx ∧ x.cy = cy ∧ u.tiles = s1.tiles ∧
      (∀ a, isSpad a = true → u.byte a = s1.byte a) ∧ ∀ y ∈ u.images, y.id ≠ l.id) ∧
  (∀ (m : Move) (r : GReg) (x y : Nat), r.tag = .cap → isTile r = true → r.low.getLsbD 63 = true →
    (r.low.extractLsb' 32 6).toNat = x → (r.low.extractLsb' 38 6).toNat = y → m.x0 ≤ x → x < m.x0 + m.w → m.y0 ≤ y → y < m.y0 + m.h →
    ∀ x' y', (x : Int) + m.dx = (x' : Nat) → (y : Int) + m.dy = (y' : Nat) → x' < 64 → y' < 64 →
      let q := m.reg r
      q.tag = .cap ∧ q.upper = r.upper ∧ q.low.extractLsb' 44 20 = r.low.extractLsb' 44 20 ∧ q.low.extractLsb' 0 32 = r.low.extractLsb' 0 32 ∧
      (q.low.extractLsb' 32 6).toNat = x' ∧ (q.low.extractLsb' 38 6).toNat = y')

end Sys2Proof.Claims

/-- Contexts and submission rings: Contexts, Rings, Acceptance. -/
def Obligations.ContextsAndRings : Prop :=
  Sys2Proof.Claims.Contexts ∧ Sys2Proof.Claims.Rings ∧ Sys2Proof.Claims.Acceptance

/-- The life of a launch: ConditionsAndPlacement, LoadingAndStarting, CompletionAndKill, Preemption. -/
def Obligations.LaunchLife : Prop :=
  Sys2Proof.Claims.ConditionsAndPlacement ∧ Sys2Proof.Claims.LoadingAndStarting ∧ Sys2Proof.Claims.CompletionAndKill ∧
  Sys2Proof.Claims.Preemption

/-! # The agents beside the cores -/

namespace Sys2Proof.Claims
open Sys2Proof Sys2Proof.Machine

/-- The fetch unit and the score window of a tile (R14, R16, R18, R286): the line of a thread's PC enters the buffer as its bytes decode, unless
its bank is taken; after 1,024 cc the score is the growth of INJSTALL and THROTTLE. -/
def TileAgents : Prop :=
  ∀ (s : State) (t h : Nat),
    let x := s.tile t
    let th := s.thr t h
    let wanting := th.wanted = [pcLine th.pc] ∨ (th.wanted = [] ∧ th.run = .rotation ∧ th.line th.pc = none)
    let bank := Config.bankOf (pcLine th.pc)
    let refused := bank ∈ x.mending ∨ (x.replay = false ∧ bank ∈ x.late) ∨ (x.replay = true ∧ bank ∈ x.taken)
    (wanting → noErrors s → ¬refused →
      ∃ u, exec (.fetchRefill t h) s = .next u ∧ u.mem = s.mem ∧
        (u.thr t h).line th.pc = some (lineOfBytes (s.bytes (spad t (pcLine th.pc)) 64)) ∧ (u.thr t h).wanted = [] ∧
        u.thr t h = { th with fbuf := (u.thr t h).fbuf, wanted := [] } ∧ (u.thr t h).fbuf.length ≤ 2) ∧
    (wanting → refused → exec (.fetchRefill t h) s = .next s) ∧
    (x.cycle % 1024 = 0 → x.cycle ≠ x.scoreEnd → x.scoreBase ≤ x.injstall.toNat + x.throttleCnt.toNat →
      x.injstall.toNat + x.throttleCnt.toNat < 2 ^ 64 →
      ∃ u, exec (.dispenserScoreWindow t) s = .next u ∧ u.mem = s.mem ∧
        u.tile t = { x with score := x.injstall.toNat + x.throttleCnt.toNat - x.scoreBase,
                            scoreBase := x.injstall.toNat + x.throttleCnt.toNat, scoreEnd := x.cycle })

/-- A router with nothing on its links, nothing offered by its brim and nothing in its tile's injection queues. -/
def quiet (s : State) (t : Nat) : Prop :=
  let r := s.router t
  r.inA = [] ∧ r.inB = [] ∧ r.brimA = [] ∧ r.brimB = [] ∧ r.resend = [] ∧ (s.tile t).injB = [] ∧ (s.tile t).queueA = [] ∧ (s.tile t).queueB = []

/-- The first productive port of a flit, X before Y (R27). -/
def firstPort (t : Nat) (f : Flit) : Nat :=
  if tileX t < f.dx then 1 else if f.dx < tileX t then 3 else if tileY t < f.dy then 2 else 0

/-- One cycle of a router (R27, R28, R30, R32, R33): an injected flit leaves towards its destination one hop old, or at home is ejected, as one
that arrives there; a throttled tile injects nothing, its counter falling by one. -/
def RouterCycles : Prop :=
  ∀ (s : State) (t : Nat), t < 4096 →
    let r := s.router t
    let x := s.tile t
    (∀ f rest, quiet s t → r.throttle = 0 → x.injA = f :: rest → (∀ g ∈ rest, sourceOf g = sourceOf f) → f.exit = 0 →
      (f.dx = tileX t → f.dy = tileY t → f.op ≠ .reserved → x.ejA.length < 16 →
        ∃ u, exec (.routerCycle t) s = .next u ∧ (u.tile t).injA = rest ∧ (u.tile t).ejA = x.ejA ++ [{ f with age := 0 }] ∧ u.mem = s.mem) ∧
      (f.dx ≠ tileX t ∨ f.dy ≠ tileY t → ∀ v, neighbour t (firstPort t f) = some v → firstPort t f ∉ r.lost → r.crcNext = [] →
        ∃ u, exec (.routerCycle t) s = .next u ∧ (u.tile t).injA = rest ∧ u.mem = s.mem ∧ (u.router v).inA = (s.router v).inA ++
          [((firstPort t f + 2) % 4, if dieOf (clusterOf t) ≠ dieOf (clusterOf v) then 2 else 0, { f with age := 1, crcBad := false })])) ∧
    (∀ d f, d < 4 → r.inA = [(d, 0, f)] → r.inB = [] → r.brimA = [] → r.brimB = [] → r.resend = [] → x.injA = [] → x.injB = [] →
      x.queueA = [] → x.queueB = [] → f.crcBad = false →
      f.exit = 0 → f.dx = tileX t → f.dy = tileY t → f.op ≠ .reserved → x.ejA.length < 16 →
      ∃ u, exec (.routerCycle t) s = .next u ∧ (u.tile t).ejA = x.ejA ++ [f] ∧ (u.router t).inA = [] ∧ u.mem = s.mem) ∧
    (quiet s t → 0 < r.throttle → ∃ u, exec (.routerCycle t) s = .next u ∧ (u.router t).throttle = r.throttle - 1 ∧
      (∀ v, v ≠ t → u.router v = s.router v) ∧ (u.tile t).ejA = x.ejA ∧ (∀ f ∈ x.injA, f ∈ (u.tile t).queueA ++ (u.tile t).injA) ∧
      (u.tile t).throttleCnt = x.throttleCnt + 1 ∧ u.mem = s.mem) ∧
    (r.throttle = 1 → exec (.throttleExpiry t) s = exec (.routerCycle t) s) ∧
    (r.throttle ≠ 1 → exec (.throttleExpiry t) s = .next s)

/-- Thread h of tile k of cluster c is the only one of the cluster that waits for a record. -/
def onlyWaiter (s : State) (c k h : Nat) : Prop :=
  (s.tile (clusterTile c k)).halt = .running ∧
  ∀ j g, j < 8 → g < 8 → ((s.thr (clusterTile c j) g).run = .wfw ↔ j = k ∧ g = h)

/-- Record b comes before every other that tile k can be given (R286): a higher level, then the tile's ring before the cluster's, then the older. -/
def firstFor (l : List BankRec) (k : Nat) (b : BankRec) : Prop :=
  b ∈ l ∧ b.level < 4 ∧ (∀ y ∈ l, y.ring = k ∨ y.ring = 8) ∧
  ∀ y ∈ l, y ≠ b → y.order ≠ b.order ∧
    (y.level < b.level ∨ (y.level = b.level ∧ ((y.ring = b.ring ∧ b.order < y.order) ∨ (b.ring = k ∧ y.ring = 8 ∧ k ≠ 8))))

/-- The registers that a delivery gives its thread (R287). -/
def delivered (x y : Thread) (t size : Nat) (r : TaskRec) : Prop :=
  y.run = .rotation ∧ y.wait = .none ∧ y.pc = BitVec.ofNat 64 (gaSpad t r.entry) ∧
  (∃ c, y.code = some c ∧ (size < 2 ^ 20 → isImageCode c size)) ∧
  y.rd 12 = (if r.tpsn then poisonVal r.taskid.toNat r.builder else { tag := .data, body := r.taskid.setWidth 128 }) ∧
  (∀ j : GIx, 1 ≤ j.val → j.val ≤ 6 →
    let e := r.slots.getD (j.val - 1) (0, 0)
    (e.1 = 0 → y.rd j = { tag := .data, body := e.2.setWidth 128 }) ∧
    (e.1 = 2 → y.rd j = poisonVal e.2.toNat r.builder) ∧
    (e.1 = 1 → j.val % 2 = 1 → y.rd j = { tag := .cap, body := (r.slots.getD j.val (0, 0)).2 ++ e.2 }) ∧
    (e.1 = 1 → j.val % 2 = 0 → y.rd j = {})) ∧
  (∀ j : GIx, 6 < j.val → j ≠ 12 → y.rd j = x.rd j) ∧ y.v = x.v ∧ y.k = x.k ∧ y.priv = x.priv

/-- The dispenser and promotion while the queue bank copies no row to a spare (R283, R286-R288, R399): the record that comes first leaves the bank for the one waiting thread; its block becomes DISPATCHED; one with a poisoned CTRL word, or an uncorrectable error there, resumes the
thread after its WFW; the first record that has waited 65,536 cc at its level rises a level, its stamp kept. -/
def Dispensing : Prop :=
  ∀ (s : State) (c : Nat), c < 512 → 1 ∉ (s.cluster c).mending →
    let cl := s.cluster c
    (∀ k h b, k < 8 → h < 8 → onlyWaiter s c k h → firstFor cl.bank k b →
      let t := clusterTile c k
      (b.block = none → b.unc = [] → ∃ u, exec (.dispatch c) s = .next u ∧ (∀ y, y ∈ (u.cluster c).bank ↔ y ∈ cl.bank ∧ y ≠ b) ∧ (u.cluster c).dispPtr = k ∧
        u.mem = s.mem ∧ (b.r.ctrlMark = 0 → delivered (s.thr t h) (u.thr t h) t (s.tile t).imageSize b.r) ∧
        (b.r.ctrlMark ≠ 0 → (u.thr t h).run = .rotation ∧ (u.thr t h).pc = (s.thr t h).pc ∧ (u.thr t h).code = (s.thr t h).code ∧
          ∀ j : GIx, (1 ≤ j.val ∧ j.val ≤ 6) ∨ j = 12 → (u.thr t h).rd j = poisonVal (b.r.ctrlMark - 1) b.r.builder)) ∧
      (b.block = none → 0 ∈ b.unc → ∃ u, exec (.dispatch c) s = .next u ∧ u.mem = s.mem ∧ (∀ y, y ∈ (u.cluster c).bank ↔ y ∈ cl.bank ∧ y ≠ b) ∧
        (u.thr t h).run = .rotation ∧ (u.thr t h).pc = (s.thr t h).pc ∧
        ∀ j : GIx, (1 ≤ j.val ∧ j.val ≤ 6) ∨ j = 12 → (u.thr t h).rd j = poisonVal 1 b.r.builder) ∧
      (∀ ga, b.block = some ga → ga % 8 = 0 → noErrors s → s.poisoned (spad (ga / 2 ^ 32 % 2 ^ 12) (ga % 2 ^ 19)) = false →
        ∃ u, exec (.dispatch c) s = .next u ∧ (∀ y, y ∈ (u.cluster c).bank ↔ y ∈ cl.bank ∧ y ≠ b) ∧
          u.val (spad (ga / 2 ^ 32 % 2 ^ 12) (ga % 2 ^ 19)) 8 = 3 ∧ (u.thr t h).run = .rotation)) ∧
    (∀ pre b post, cl.bank = pre ++ b :: post → (∀ y ∈ pre, 3 ≤ y.level ∨ cl.counter < y.stamp + 65536 * (y.ups + 1)) → b.level < 3 →
      b.stamp + 65536 * (b.ups + 1) ≤ cl.counter →
      ∃ u, exec (.recordPromotion c) s = .next u ∧ u.mem = s.mem ∧
        (u.cluster c).bank = pre ++ { b with level := b.level + 1, ups := b.ups + 1, order := cl.bankOrder } :: post ∧
        (u.cluster c).bankOrder = cl.bankOrder + 1)

/-- The spill engine, under the same premise (R284): with more than 896 records in the bank the last pushed goes to the cuff, with its stamp; with fewer than 512, the cuff's
oldest comes back to the tail of its ring, at the level of its waiting, its capabilities moved by the restores since (R363); a voided
one is skipped; an unmapped page stops the engine. -/
def SpillEngine : Prop :=
  ∀ (s : State) (c : Nat) (k : Cuff), let cl := s.cluster c
    let ctx := (s.tile (clusterTile c 0)).ctx
    (s.tile (clusterTile c 0)).halt = .running → 1 ∉ cl.mending → cl.cuff = some k → k.stopped = false →
    (∀ b p, 896 < cl.bank.length → k.entries.length < 2 ^ k.log2 → b ∈ cl.bank → (∀ y ∈ cl.bank, y ≠ b → y.pushed < b.pushed) → b.unc = [] → b.one = [] →
      let va := k.place k.entries.length
      s.walk ctx va { write := true, read := false, user := false } = (p, s) →
      (∀ ppa slot gd s1, p.1 = .ok ppa slot gd →
        (s.setCluster c { cl with bank := cl.bank.filter fun y => y.pushed != b.pushed }).vwrites ctx va (recWords b.r ++ stampWords b) = (true, s1) →
        ∃ u, exec (.cuffSpill c) s = .next u ∧ u.mem = s1.mem ∧ (u.cluster c).bank = cl.bank.filter (fun y => y.pushed != b.pushed) ∧
          (u.cluster c).cuff = some { k with entries := k.entries ++ [b] }) ∧
      (∀ l re e, p.1 = .fault l re e → ∃ u r, exec (.cuffSpill c) s = .next u ∧ u.mem = s.mem ∧ (u.cluster c).bank = cl.bank ∧
        (u.cluster c).cuff = some { k with stopped := true } ∧ u.held = s.held ++ [r] ∧ r.ctx = ctx)) ∧
    (∀ b rest, cl.bank.length < 512 → k.entries = b :: rest →
      let k' := { k with entries := rest, head := (k.head + 1) % 2 ^ k.log2 }
      (b.void = true → ∃ u, exec (.cuffRefill c) s = .next u ∧ u.mem = s.mem ∧ (u.cluster c).bank = cl.bank ∧ (u.cluster c).cuff = some k') ∧
      (∀ p ppa slot gd ws, b.void = false → s.walk ctx (k.place 0) { write := false, read := true, user := false } = (p, s) → p.1 = .ok ppa slot gd →
        s.entryWords (s.slotLoad slot) ppa 8 = (ws, s) → b.r.ctrlMark = 0 →
        let q := recOf b.r.builder ws
        ∃ u x, exec (.cuffRefill c) s = .next u ∧ u.mem = s.mem ∧ (u.cluster c).cuff = some k' ∧ (u.cluster c).bank = cl.bank ++ [x] ∧
          x.ring = b.ring ∧ x.r = (match b.move with | none => q | some m => { q with slots := m.slots q.slots }) ∧ x.stamp = b.stamp ∧
          x.level = min 3 (b.level + ((cl.counter - b.stamp) / 65536 - b.ups)) ∧ x.order = cl.bankOrder))

/-- The cluster memory port (R347, R348, R350, Table 18.5): a walk that reaches its leaf fills the buffer and its thread rejoins the rotation; one that
faults leaves the thread waiting for WAKE; one refused for good sends the thread back. Misses on a page share the walk. -/
def PageWalks : Prop :=
  ∀ (s : State) (c t h : Nat) (w : WalkReq) (rest : List WalkReq) (p : Xlate × Option (Nat × Nat)), (s.cluster c).walks = w :: rest →
    w.agent = .thread t h → (s.thr t h).wait = .walk →
    noWait s →
    (∃ u, exec (.pageWalk c) s = .next u ∧ (u.cluster c).walks = rest.filter fun v => !(v.ctx == w.ctx && v.va / 2 ^ 16 == w.va / 2 ^ 16)) ∧
    let s0 : State := { (fresh s).setCluster c { s.cluster c with walks := rest } with held := [] }
    (∀ v ∈ rest, v.ctx ≠ w.ctx ∨ v.va / 2 ^ 16 ≠ w.va / 2 ^ 16) →
    s0.walk w.ctx w.va { write := w.write, read := w.read, user := w.user } = (p, s0) →
    (∀ ppa slot gd l leaf, p = (.ok ppa slot gd, some (l, leaf)) → ∃ u, exec (.pageWalk c) s = .next u ∧ u.mem = s.mem ∧
      (u.cluster c).walks = rest ∧ (u.thr t h).run = .rotation ∧ (u.thr t h).wait = .none ∧ (u.thr t h).pc = (s.thr t h).pc ∧
      ∃ e ∈ (u.cluster c).tlb, e.ctx = w.ctx ∧ e.level = l ∧ e.page = w.va / 2 ^ pageBits l ∧ e.leaf = BitVec.ofNat 64 leaf) ∧
    (∀ l re e, p.1 = .fault l re e → ∃ u, exec (.pageWalk c) s = .next u ∧ (u.thr t h).wait = .fault ∧ (u.thr t h).run = (s.thr t h).run ∧
      (u.thr t h).pc = (s.thr t h).pc) ∧
    (p.1 = .refused → ∃ u, exec (.pageWalk c) s = .next u ∧ u.mem = s.mem ∧ (u.thr t h).run = .rotation ∧
      (u.thr t h).walkEnds = (w.va / 2 ^ 16, 0, 0) :: (s.thr t h).walkEnds)

/-- The supervisor queue (R351): a held record is written and the write index moves on; while the queue is full, or the index cannot be
written, it stays. -/
def SupervisorQueue : Prop :=
  ∀ (s : State) (r : FaultRec) (base lg wr rd sigf : Nat) (s1 : State), s.held = [r] → noWait s →
    let c := s.ctxOf r.ctx
    let s0 : State := { fresh s with held := [] }
    c.valid = true → c.firmware = false → s0.vreads r.ctx c.supq 5 [] = (.ok [base, lg, wr, rd, sigf], s0) → 6 ≤ lg % 32 → lg % 32 ≤ 20 →
    let ahead := (wr + 2 ^ 64 - rd) % 2 ^ 64
    (2 ^ (lg % 32) ≤ ahead → exec .supqRetry s = .next (fresh s)) ∧
    (ahead < 2 ^ (lg % 32) → sigf = 0 →
      s0.vwrites r.ctx (base + 64 * (wr % 2 ^ (lg % 32))) (r.words.map fun x => x.toNat) = (true, s1) →
      let w := s1.vwrites r.ctx (c.supq + 0x10) [(wr + 1) % 2 ^ 64]
      ∃ u, exec .supqRetry s = .next u ∧ u.mem = w.2.mem ∧ u.held = if w.1 then [] else [r])

/-- TLBINV at a memory port (R203, R353): the entries of its context that it selects go, and what was translated is awaited; then its parked accesses
walk again and the port has ended. -/
def Shootdowns : Prop :=
  ∀ (s : State) (c : Nat), c < 512 →
    let t := clusterTile c 0
    let cl := s.cluster c
    (∀ f rest, (s.tile t).ejA = f :: rest → f.op = .tlbinv →
      ∃ u w, exec (.tlbinvRequest c) s = .next u ∧ (u.tile t).ejA = rest ∧ u.mem = s.mem ∧ (u.cluster c).tlbWork = cl.tlbWork ++ [w] ∧ w.flit = f ∧
        (∀ e, e ∈ (u.cluster c).tlb ↔ e ∈ cl.tlb ∧ ¬(e.ctx = f.ctx ∧ (f.scope = 2 ∨
          (e.page * 2 ^ pageBits e.level < f.ga % 2 ^ 44 + f.len ∧ f.ga % 2 ^ 44 < e.page * 2 ^ pageBits e.level + 2 ^ pageBits e.level)))) ∧
        ((∀ j, j < 8 → (s.tile (clusterTile c j)).posted = [] ∧ (s.tile (clusterTile c j)).copyq = []) → s.flitsOut = [] → w.ops = [] ∧ w.granules = [])) ∧
    (∀ w rest, cl.tlbWork = w :: rest → w.ops = [] → w.granules = [] → w.flit.flag = 0 →
      ∃ u, exec (.tlbinvPortComplete c) s = .next u ∧ u.mem = s.mem ∧ (u.cluster c).tlbWork = rest ∧
        (u.cluster c).walks = cl.walks ++ cl.parked.filter (fun r => r.ctx == w.flit.ctx) ∧
        (u.cluster c).parked = cl.parked.filter (fun r => r.ctx != w.flit.ctx) ∧
        ∀ i ∈ u.invals, i.tag = w.flit.tag → c ∉ i.left)

end Sys2Proof.Claims

/-- The agents of a tile and a cluster, and the routers: TileAgents, RouterCycles, Dispensing, SpillEngine. -/
def Sys2Proof.Claims.AgentSteps : Prop :=
  Sys2Proof.Claims.TileAgents ∧ Sys2Proof.Claims.RouterCycles ∧ Sys2Proof.Claims.Dispensing ∧ Sys2Proof.Claims.SpillEngine

/-- The cluster memory ports and the supervisor queue: PageWalks, SupervisorQueue, Shootdowns. -/
def Sys2Proof.Claims.MemoryPortSteps : Prop :=
  Sys2Proof.Claims.PageWalks ∧ Sys2Proof.Claims.SupervisorQueue ∧ Sys2Proof.Claims.Shootdowns

/-- The model's choices: logs 15 (walks), 17 (stamps in the cuff), 58 (the bits of a poisoned code word are read), 66 and 77. -/
def Obligations.AgentAndPortSteps : Prop :=
  Sys2Proof.Claims.AgentSteps ∧ Sys2Proof.Claims.MemoryPortSteps

/-! # The host, other packages, and the registers -/

namespace Sys2Proof.Claims
open Sys2Proof Sys2Proof.Machine

/-- The context, with a translation that leaves s as it is, reaches the PPA under the boot key. -/
def reaches (s : State) (ctx : Nat) (write : Bool) (va ppa : Nat) : Prop :=
  ∃ slot gd lf, s.walk ctx va { write := write, read := !write, user := false } = ((.ok ppa slot gd, lf), s) ∧ s.slotLoad slot = 0

/-- Nothing in HBM is stored under another key than the boot key, no word of memory has an error to be found, and no channel is in training or repair. -/
def calm (s : State) : Prop := noErrors s ∧ s.keyOf = [] ∧ noWait s

/-- A checkpoint is being written, and every region has settled: windows and ports are closed (R416). -/
def shut (s : State) : Prop := s.ckpt.isSome = true ∧ ∀ l ∈ s.launches, l.phase ≠ .running ∧ l.phase ≠ .halting

/-- Accesses come over a host link: it is up, and the next one meets no error of the link. -/
def linkClean (s : State) (link : Fin 4) : Prop := link.val ∉ s.evo.linksDown ∧ link.val ∉ s.evo.linkErrors

/-- Where an open window leads the n bytes at an offset of BAR2 (R370): the PPA itself, or one page of its context. -/
def hostPlace (s : State) (link : Fin 4) (write : Bool) (off n ppa : Nat) : Prop :=
  let h := mget 0 s.hostctx link.val
  h.getLsbD 63 = true ∧ ¬shut s ∧ 0 < n ∧
  ((h.getLsbD 62 = true ∧ ppa = off ∧ off + n ≤ 2 ^ 40 ∧ s.slotLoad 0 = 0 ∧
      ∀ a, off ≤ a → a < off + n → s.diePresent (dieOfStack (a / 2 ^ 36)) = true) ∨
   (h.getLsbD 62 = false ∧ off + n ≤ 2 ^ 44 ∧ off % 2 ^ 16 + n ≤ 2 ^ 16 ∧ reaches s (h.toNat % 64) write off ppa))

/-- Host accesses through BAR2 (R370-R373): through a closed window a read gives all ones and a write is dropped; through an open one bytes are read, with EP
where a word is poisoned, and written, the tags of what they touch cleared; a page fault closes the access and sends its record; a read waits
for the posted writes of its link that came before it. No access comes over a link that is down, and one that meets an error of its link
completes as a closed-window access (R388, R405). -/
def HostWindow : Prop :=
  ∀ (s : State) (link : Fin 4) (off : Nat),
    let h := mget 0 s.hostctx link.val
    let s0 := fresh s
    let ones := fun (n : Nat) => ({ link := link.val, data := List.replicate n 0xFF, ep := false } : HostReply)
    (link.val ∈ s.evo.linksDown → ∀ acc, exec (.hostBar2Access link off acc) s = .next s) ∧
    (link.val ∉ s.evo.linksDown → link.val ∈ s.evo.linkErrors →
      let e : Evodon := { s.evo with linkErrors := s.evo.linkErrors.erase link.val }
      (∀ n, exec (.hostBar2Access link off (.read n)) s = .next { s with evo := e, replies := s.replies ++ [ones n] }) ∧
      (∀ d, exec (.hostBar2Access link off (.write d)) s = .next { s with evo := e })) ∧
    (linkClean s link →
    (s.hostWaits = [] → h.getLsbD 63 = false ∨ shut s →
      (∀ n, exec (.hostBar2Access link off (.read n)) s = .next { s0 with replies := s.replies ++ [ones n] }) ∧
      (∀ d, exec (.hostBar2Access link off (.write d)) s = .next s0)) ∧
    (∀ n ppa, s.hostWaits = [] → calm s → hostPlace s0 link false off n ppa →
      ∃ r, exec (.hostBar2Access link off (.read n)) s = .next { s0 with replies := s.replies ++ [r] } ∧ r.link = link.val ∧
        r.data = s.bytes ppa n ∧ (r.ep = true ↔ ∃ i, i < n ∧ s.poisoned (ppa + i) = true)) ∧
    (∀ d ppa, calm s → hostPlace s0 link true off d.length ppa →
      ∃ u, exec (.hostBar2Access link off (.write d)) s = .next u ∧ u.replies = s.replies ∧ u.hostWaits = s.hostWaits ∧
        (∀ i, i < d.length → s.poisoned (ppa + i) = false → u.byte (ppa + i) = d.getD i 0) ∧ (∀ i, i < d.length → u.tagAt (ppa + i) = false) ∧
        ∀ a, a < ppa ∨ ppa + d.length ≤ a → u.byte a = s.byte a) ∧
    (∀ n l re e lf, s.hostWaits = [] → h.getLsbD 63 = true → h.getLsbD 62 = false → ¬shut s → 0 < n → off + n ≤ 2 ^ 44 →
      s0.walk (h.toNat % 64) off { write := false, read := true, user := false } = ((.fault l re e, lf), s0) →
      ∃ u r, exec (.hostBar2Access link off (.read n)) s = .next u ∧ u.mem = s.mem ∧ u.replies = s.replies ++ [ones n] ∧ u.held = s.held ++ [r] ∧
        r.ctx = h.toNat % 64 ∧ r.words.getD 1 0 = BitVec.ofNat 64 off) ∧
    ((∃ v ∈ s.hostWaits, v.link = link.val ∧ accessWrites v.acc = true) → ∀ n, exec (.hostBar2Access link off (.read n)) s =
      .next { s with hostWaits := s.hostWaits ++ [{ link := link.val, bar2 := true, addr := off, acc := .read n }] }))

/-- Host accesses of registers (R323, R370, R373, R411): a read of 8 bytes in BAR0 gives the register; an access of another size to a register of Table 17.1 reads
as ones and writes nothing; a read or a write of BAR0 waits for the posted writes of its link; the mailbox's arguments are written, and
its event ring is read, from BAR4. -/
def HostRegisters : Prop :=
  ∀ (s : State) (link : Fin 4) (a : Nat), linkClean s link →
    let acc := fun (x : HostAccess) => s.hostAccess { link := link.val, bar2 := false, addr := a, acc := x }
    let reply := fun (d : List Byte) => ({ fresh s with replies := s.replies ++ [{ link := link.val, data := d, ep := false }] } : State)
    (∀ r, s.hostWaits = [] → regAt a = some r → a < 2 ^ 26 → a % 8 = 0 →
      acc (.read 8) = reply (natLe 8 (s.regRead r).toNat) ∧
      (∀ n, n ≠ 8 → r.ofSequencer = true → acc (.read n) = reply (List.replicate n 0xFF)) ∧
      (∀ d, d.length ≠ 8 → r.ofSequencer = true → acc (.write d) = fresh s) ∧
      (∀ l d, l < 4 → r = .hostctx l → d.length = 8 → (acc (.write d)).regRead r = BitVec.ofNat 64 (leNat d) &&& 0xC00000000000003F)) ∧
    (∀ d, (∃ v ∈ s.hostWaits, v.link = link.val ∧ accessWrites v.acc = true) → a < 2 ^ 26 →
      acc (.write d) = { s with hostWaits := s.hostWaits ++ [{ link := link.val, bar2 := false, addr := a, acc := .write d }] }) ∧
    (∀ o b, s.hostWaits = [] → a = mailboxBase + o → 0x100 ≤ o → o < 0x1000 → mget 0 (acc (.write [b])).evo.args o = b) ∧
    (∀ i k, s.hostWaits = [] → i < 1024 → k < 4 → a = mailboxBase + 0x8000 + 32 * i + 8 * k →
      acc (.read 8) = reply (natLe 8 ((mget [] s.evo.events i).getD k 0).toNat))

/-- Flits for other packages, and from them (R377-R380): the routing entry's port takes the flit, or, where its XDIE is set, the other die's; one that
cannot go on is refused with class 3 at this die; one from a peer that no admission
entry admits is refused with CAP, class 6; an admitted one goes to its home under a proxy tag. -/
def Outbound : Prop :=
  ∀ (s : State) (d : Nat) (f : Flit) (spkg hops : Nat) (rest : List (Flit × Nat × Nat)), d < 2 → (s.ioDie d).inqB = [] →
    (s.ioDie d).out = (f, spkg, hops) :: rest →
    (∀ p, f.dpkg = some p → p ≠ s.pkg →
      (∀ q, (s.upPorts d p)[Config.portHash spkg (hashSource f.src) f.tag % (s.upPorts d p).length]? = some q →
        let x := mget {} s.atwald q
        ∃ u, exec (.ioDieOutbound d) s = .next u ∧ (u.ioDie d).out = rest ∧ u.mem = s.mem ∧
          mget {} u.atwald q = { x with seq := (x.seq + 1) % 2 ^ 16, outbox := x.outbox ++ [(x.seq, spkg, p, hops, f)] }) ∧
      (s.upPorts d p = [] → (mget 0 (s.ioDie d).route p).getLsbD 32 = true →
        ∃ u, exec (.ioDieOutbound d) s = .next u ∧ (u.ioDie d).out = rest ∧ u.mem = s.mem ∧
          (u.ioDie (1 - d)).out = (s.ioDie (1 - d)).out ++ [(f, spkg, hops)]) ∧
      (s.upPorts d p = [] → (mget 0 (s.ioDie d).route p).getLsbD 32 = false → spkg ≠ s.pkg → f.op ≠ .nak →
        ∃ u k, exec (.ioDieOutbound d) s = .next u ∧ (u.ioDie d).out = rest ++ [(k, s.pkg, 0)] ∧ u.mem = s.mem ∧ k.op = .nak ∧
          k.reason = .link ∧ k.cls = 3 ∧ k.origin = 0x2000 + d ∧ k.home = f.src ∧ k.dpkg = some spkg)) ∧
    (f.dpkg = some s.pkg → spkg ≠ s.pkg → planeB f.op = false → f.op ≠ .reserved → ¬shut s →
      let g : Flit := { f with tags := 0, ga := 2 ^ 63 + f.ga % 2 ^ 46 }
      (s.admission d spkg g = none → ∃ u k, exec (.ioDieOutbound d) s = .next u ∧ (u.ioDie d).out = rest ++ [(k, s.pkg, 0)] ∧ u.mem = s.mem ∧
        k.op = .nak ∧ k.reason = .cap ∧ k.cls = 6 ∧ k.home = f.src ∧ k.tag = f.tag ∧ k.dpkg = some spkg) ∧
      (∀ lctx, s.admission d spkg g = some lctx → f.op = .load → f.flast = 0 → f.ga / 2 ^ 44 % 4 = 0 → (s.ioDie d).proxies = [] →
        ∃ u n p, exec (.ioDieOutbound d) s = .next u ∧ (u.ioDie d).out = rest ∧ u.mem = s.mem ∧ (u.ioDie d).proxies = [(n, p)] ∧
          p.spkg = spkg ∧ p.ctx = f.ctx ∧ p.src = f.src ∧ p.tag = f.tag ∧
          ∃ row k, (u.router row).brimA.getLast? = some k ∧ k.op = .load ∧ k.tag = n ∧ k.src = .io d ∧ k.ctx = lctx ∧
            k.home = .tile (f.ga / 2 ^ 32 % 2 ^ 12)))

/-- Atwald ports (R375, R376): a frame in order is taken, what it acknowledges leaves the store, its flit for another package waits to go on; one out of order is
left; one with a bad CRC is counted against its lane and asked for again; a lane that fails is replaced once, then the port is down, and a request not yet acknowledged is refused with class 3, the
port its origin. Which lane it was is a free value (log 5). -/
def AtwaldPorts : Prop :=
  ∀ (s : State) (port : Fin 64) (seq ack : Nat),
    let p := port.val
    let x := mget {} s.atwald p
    (x.down = true → ∀ ok fs, exec (.atwaldFrame port seq ack ok fs) s = .next (fresh s)) ∧
    (x.down = false →
      (seq % 2 ^ 16 ≠ x.rseq → ∀ fs, exec (.atwaldFrame port seq ack true fs) s = .next (fresh s)) ∧
      (seq % 2 ^ 16 = x.rseq →
        (∀ e rest, x.outbox = e :: rest → e.1 = ack % 2 ^ 16 → (∀ y ∈ rest, y.1 ≠ e.1) →
          ∃ u, exec (.atwaldFrame port seq ack true []) s = .next u ∧ u.mem = s.mem ∧
            mget {} u.atwald p = { x with rseq := (x.rseq + 1) % 2 ^ 16, replayAsked := false, outbox := rest }) ∧
        (∀ spkg dpkg hops f, x.outbox = [] → dpkg ≠ s.pkg → hops < 254 →
          ∃ u, exec (.atwaldFrame port seq ack true [(spkg, dpkg, hops, f)]) s = .next u ∧ u.mem = s.mem ∧
            mget {} u.atwald p = { x with rseq := (x.rseq + 1) % 2 ^ 16, replayAsked := false } ∧
            (u.ioDie (p / 32)).out = (s.ioDie (p / 32)).out ++ [({ f with dpkg := some dpkg }, spkg, hops + 1)])) ∧
      (∀ fs, fs.length ≤ 4 →
       ∃ u l, exec (.atwaldFrame port seq ack false fs) s = .next u ∧ u.mem = s.mem ∧ mget {} u.atwald p = { x with replayAsked := true } ∧
         16384 + 4 * p ≤ l ∧ l < 16384 + 4 * p + 4 ∧
         (mget {} u.evo.wear (wearKey 2 l)).count = min 65535 ((mget {} s.evo.wear (wearKey 2 l)).count + 1))) ∧
    (x.down = true → exec (.atwaldLaneFailure port) s = .next { s with free := s.free + 1 }) ∧
    (x.down = false → x.spareUsed = false → ∃ u l j, exec (.atwaldLaneFailure port) s = .next u ∧ u.mem = s.mem ∧
      16384 + 4 * p ≤ l ∧ l < 16384 + 4 * p + 4 ∧ mget {} u.atwald p = { x with spareUsed := true } ∧
      u.evo.spares = s.evo.spares ++ [{ kind := 2, unit := l, index := j }] ∧ u.evo.evHead = s.evo.evHead + 1) ∧
    (x.down = false → x.spareUsed = true → x.outbox = [] → ∃ u, exec (.atwaldLaneFailure port) s = .next u ∧ u.mem = s.mem ∧
      mget {} u.atwald p = { x with down := true, replayAsked := false }) ∧
    (∀ n spkg dpkg hops f, x.down = false → x.spareUsed = true → x.outbox = [(n, spkg, dpkg, hops, f)] → planeB f.op = false → spkg ≠ s.pkg →
      ∃ u k, exec (.atwaldLaneFailure port) s = .next u ∧ u.mem = s.mem ∧ (mget {} u.atwald p).down = true ∧
        (u.ioDie (p / 32)).out = (s.ioDie (p / 32)).out ++ [(k, s.pkg, 0)] ∧ k.op = .nak ∧ k.reason = .link ∧ k.cls = 3 ∧
        k.origin = 0x3000 + p ∧ k.home = f.src ∧ k.dpkg = some spkg)

/-- Words of a descriptor at a PPA: buffer, length and flag, none of them poisoned (Table 20.7). -/
def ethWords (s : State) (a buf len : Nat) : Prop :=
  s.val a 8 % 2 ^ 44 = buf ∧ s.val (a + 8) 8 % 2 ^ 16 = len ∧ s.val (a + 16) 8 = 0 ∧
  s.poisoned a = false ∧ s.poisoned (a + 8) = false ∧ s.poisoned (a + 16) = false ∧ a % 8 = 0

/-- Ethernet rings (R382, R383): a port with nothing to send stands; a frame of the next descriptor leaves with its FCS, its status word DONE; one that arrives goes to its buffer,
with its length, or is dropped for a bad FCS or an empty ring. -/
def EthernetRings : Prop :=
  ∀ (s : State) (p : Fin 8),
    let x := s.ethPort p.val
    let s0 := fresh s
    let out := fun (l : List Byte) => (l ++ natLe 4 (frameCheck l).toNat) :: x.sent
    (x.en = false ∨ x.txHead = x.txTail ∨ shut s → exec (.ethTransmit p) s = .next s0) ∧
    (∀ pd pb pw buf len, x.en = true → x.txHead ≠ x.txTail → ¬shut s → calm s →
      let at_ := x.txBase + 32 * (x.txHead % 2 ^ x.txLog2)
      let s1 := s0.setEth p.val { x with sent := out (s.bytes pb len), txHead := (x.txHead + 1) % 2 ^ 32 }
      at_ % 64 = 0 ∨ at_ % 64 = 32 → reaches s0 x.ctx false at_ pd → ethWords s pd buf len → 64 ≤ len → len ≤ 9216 → buf % 2 ^ 16 + len ≤ 2 ^ 16 →
      reaches s0 x.ctx false buf pb → (∀ i, i < len → s.poisoned (pb + i) = false) → reaches s1 x.ctx true (at_ + 24) pw → pw % 8 = 0 →
      s.poisoned pw = false →
      ∃ u, exec (.ethTransmit p) s = .next u ∧ (u.ethPort p.val).sent = out (s.bytes pb len) ∧
        (u.ethPort p.val).txHead = (x.txHead + 1) % 2 ^ 32 ∧ u.val pw 8 = 2 ^ 63 ∧ ∀ a, a < pw ∨ pw + 8 ≤ a → u.byte a = s.byte a) ∧
    (∀ fr fcs, x.en = false ∨ shut s → exec (.ethReceive p fr fcs) s = .next s0) ∧
    (∀ fr fcs, x.en = true → ¬shut s → 64 ≤ fr.length → fr.length ≤ 9216 → fcs ≠ frameCheck fr ∨ x.rxHead = x.rxTail →
      exec (.ethReceive p fr fcs) s = .next (s0.setEth p.val { x with drops := x.drops + 1 })) ∧
    (∀ fr pd pb pw buf len, x.en = true → x.rxHead ≠ x.rxTail → ¬shut s → calm s → 64 ≤ fr.length → fr.length ≤ 9216 →
      let at_ := x.rxBase + 32 * (x.rxHead % 2 ^ x.rxLog2)
      let n := min len fr.length
      let s1 := (s0.writeRange 0 pb (fr.take n)).setEth p.val { x with rxHead := (x.rxHead + 1) % 2 ^ 32 }
      at_ % 64 = 0 ∨ at_ % 64 = 32 → reaches s0 x.ctx false at_ pd → ethWords s pd buf len → 0 < n → buf % 2 ^ 16 + n ≤ 2 ^ 16 →
      reaches s0 x.ctx true buf pb → (∀ i, i < n → s.poisoned (pb + i) = false) → reaches s1 x.ctx true (at_ + 24) pw → pw % 8 = 0 →
      s.poisoned pw = false → pw + 8 ≤ pb ∨ pb + n ≤ pw →
      ∃ u, exec (.ethReceive p fr (frameCheck fr)) s = .next u ∧ (u.ethPort p.val).rxHead = (x.rxHead + 1) % 2 ^ 32 ∧ u.val pw 8 = 2 ^ 63 + n ∧
        ∀ i, i < n → u.byte (pb + i) = fr.getD i 0)

/-- Registers of an Ethernet port (R382, R384, Table 20.6). -/
def EthernetRegisters : Prop :=
  ∀ (s : State) (p : Fin 8) (v : Word),
    let x := s.ethPort p.val
    let t := v.toNat % 2 ^ 32
    (x.en = true → v.getLsbD 63 = false → exec (.enctlWrite p v) s =
      .next (s.setEth p.val { x with en := false, ctx := v.toNat % 64 })) ∧
    (x.en = true → v.getLsbD 63 = true → exec (.enctlWrite p v) s = .next s) ∧
    (x.en = false → x.txHead = x.txTail → x.rxHead = x.rxTail →
      exec (.enctlWrite p v) s = .next (s.setEth p.val { x with en := v.getLsbD 63, ctx := v.toNat % 64 })) ∧
    (x.en = false → x.txHead ≠ x.txTail ∨ x.rxHead ≠ x.rxTail → exec (.enctlWrite p v) s = .next s) ∧
    ((t + 2 ^ 32 - x.txHead) % 2 ^ 32 ≤ 2 ^ x.txLog2 → exec (.entxtail p v) s = .next (s.setEth p.val { x with txTail := t })) ∧
    (2 ^ x.txLog2 < (t + 2 ^ 32 - x.txHead) % 2 ^ 32 → exec (.entxtail p v) s = .next s) ∧
    ((t + 2 ^ 32 - x.rxHead) % 2 ^ 32 ≤ 2 ^ x.rxLog2 → exec (.enrxtail p v) s = .next (s.setEth p.val { x with rxTail := t })) ∧
    (2 ^ x.rxLog2 < (t + 2 ^ 32 - x.rxHead) % 2 ^ 32 → exec (.enrxtail p v) s = .next s)

/-- Register writes (R8, R323, R371, R380, R384, R393, R398, R414): at the addresses of Tables 17.1, 20.2, 20.4-20.6, 22.2, 22.4, 22.5 and 23.6 a write of the host either
is the event of its register, or is what the register then reads, its reserved bits zero; the channels' registers lie beyond
BAR0, where a device thread writes them and the host changes nothing; a device thread that may not write a register changes nothing. -/
def RegisterFileOfPackage : Prop :=
  ∀ (s : State) (v : Word),
    let runs := fun (a : Nat) (i : Instr) => exec (.registerWrite a v .host) s = exec i s
    let by_ := fun (who : Writer) (a : Nat) (r : Reg) (w : Word) =>
      regAt a = some r ∧ ∃ u, exec (.registerWrite a v who) s = .next u ∧ u.mem = s.mem ∧ u.regRead r = w
    let reads := by_ .host
    let device := by_ (.device 0)
    (∀ f, f < 1024 → reads (0x1000000 + 8 * f) (.lflag f) v) ∧
    (∀ i : Fin 64, (v.getLsbD 0 = true → runs (0x1010000 + 32 * i.val) (.ringMap i v)) ∧ (v.getLsbD 0 = false → runs (0x1010000 + 32 * i.val) (.ringUnmap i v)) ∧
      runs (0x1010008 + 32 * i.val) (.subnotify i v) ∧
      (v.getLsbD 63 = true → runs (0x1020000 + 8 * i.val) (.crownBind i v .host) ∧ runs (0x1030000 + 8 * i.val) (.contextCreate i v)) ∧
      (v.getLsbD 63 = false → runs (0x1020000 + 8 * i.val) (.crownUnbind i v .host) ∧ runs (0x1030000 + 8 * i.val) (.contextDestroy i v)) ∧
      runs (0x1040000 + 8 * i.val) (.crectWrite i v)) ∧
    runs 0x1020400 (.kill v .host) ∧
    (∀ k, k < 4 → reads (0x1050000 + 8 * k) (.wearcfg k) (v &&& 0xFFFF0000FFFFFFFF)) ∧ reads 0x1050040 .scrubcfg (v &&& 0x8000FFFFFFFFFFFF) ∧
    (∀ l, l < 4 → reads (0x1100000 + 8 * l) (.hostctx l) (v &&& 0xC00000000000003F)) ∧
    (∀ d q, d < 2 → q < 2 ^ 17 → reads (0x2000000 + 2 ^ 20 * d + 8 * q) (.route d q) (v &&& 0x1FFFFFFFF)) ∧
    (∀ d e, d < 2 → e < 4096 → reads (0x2200000 + 2 ^ 17 * d + 32 * e) (.admitTab d (4 * e)) (v &&& 0x3FFFFFFFFFF) ∧
      reads (0x2200008 + 2 ^ 17 * d + 32 * e) (.admitTab d (4 * e + 1)) v ∧
      reads (0x2200010 + 2 ^ 17 * d + 32 * e) (.admitTab d (4 * e + 2)) (v &&& 0xFFFFFFFFFFFFFF)) ∧
    (∀ p : Fin 8, runs (0x3000000 + 64 * p.val) (.enctlWrite p v) ∧ runs (0x3000018 + 64 * p.val) (.entxtail p v) ∧ runs (0x3000020 + 64 * p.val) (.enrxtail p v)) ∧
    (∀ st ch, st < 16 → ch < 32 → let a := 0x4000000 + 2 ^ 20 * st + 2 ^ 12 * ch
      let c := st * 32 + ch
      exec (.registerWrite a v (.device 0)) s = exec (.trctlWrite st ch v) s ∧ exec (.registerWrite a v .host) s = .next s ∧
      device (a + 0x58) (.trres c 0) v ∧ device (a + 0x60) (.trres c 1) v ∧
      (∀ j, j < 4 → device (a + 0x80 + 8 * j) (.trrep c j) (v &&& 0x800000000000003F)) ∧
      ∀ l, l < 64 → device (a + 0x100 + 8 * l) (.trlane c l) (v &&& 0x3F3F)) ∧
    (∀ a r c, regAt a = some r → s.regOpen r true (.device c) = false → exec (.registerWrite a v (.device c)) s = .next s) ∧
    (∀ c : Nat, (∀ f, f < 1024 → f / 16 ≠ c → s.regOpen (.lflag f) true (.device c) = false) ∧ s.regOpen (.ctxdesc 0) true (.device c) = false ∧
      s.regOpen (.crect 0) true (.device c) = false ∧ s.regOpen .scrubcfg true (.device c) = false)

/-- Channel training (R414): TRCTL enters and leaves training, and with ALL sets every lane's delay of its direction; a test leaves the lanes that passed. -/
def ChannelTraining : Prop :=
  ∀ (s : State) (st ch : Nat) (v : Word), ch < 32 →
    let c := st * 32 + ch
    (∃ u, exec (.trctlWrite st ch v) s = .next u ∧ u.mem = s.mem ∧ (u.train c).train = v.getLsbD 63 ∧ (u.train c).dir = v.getLsbD 8 ∧
      (v.getLsbD 7 = false → (u.train c).lane = (s.train c).lane) ∧
      (v.getLsbD 7 = true → ∀ l, l < 64 → let w := mget 0 (s.train c).lane l
        mget 0 (u.train c).lane l = if v.getLsbD 8 then BitVec.ofNat 64 (v.toNat % 64 * 2 ^ 8 + w.toNat % 64)
          else BitVec.ofNat 64 (w.toNat / 2 ^ 8 * 2 ^ 8 + v.toNat % 64)) ∧
      ∀ k, k ≠ c → u.train k = s.train k) ∧
    ((∀ f ∈ (s.ioDie 0).inq, f.op ≠ .load) → ∃ u, exec (.trpassTest st ch v) s = .next u ∧ u.mem = s.mem ∧
      u.train c = { s.train c with pass := v })

end Sys2Proof.Claims

/-- What enters and leaves the package (the model's choices: logs 5, 6, 18, 36, 85). -/
def Obligations.PackageLinks : Prop :=
  Sys2Proof.Claims.HostWindow ∧ Sys2Proof.Claims.HostRegisters ∧ Sys2Proof.Claims.Outbound ∧ Sys2Proof.Claims.AtwaldPorts ∧ Sys2Proof.Claims.EthernetRings

/-- Writes of registers. The model's choices in it: logs 59, 61 (a write of ENCTL that clears EN writes CTX too) and 100 (device context 0 may
write the training registers). -/
def Obligations.RegisterWrites : Prop :=
  Sys2Proof.Claims.EthernetRegisters ∧ Sys2Proof.Claims.RegisterFileOfPackage ∧ Sys2Proof.Claims.ChannelTraining

/-! # Evodon and service life -/

namespace Sys2Proof.Claims
open Sys2Proof Sys2Proof.Machine

/-- Evodon has ended the command: response, RESULT and SEQ in place, BUSY clear (R411); v is the state as the command leaves it. -/
def replied (v : State) (seq : BitVec 16) (code result : Nat) (resp : List Byte) (o : Host.Outcome State Fault Refusal) : Prop :=
  o = .next { v with evo := { v.evo with cmdSeq := seq, cmdCode := BitVec.ofNat 8 code, response := resp, result := BitVec.ofNat 8 result,
                                         seq := seq, busy := false } }

/-- The command has begun and goes on (R411). -/
def begun (v : State) (seq : BitVec 16) (code : Nat) (o : Host.Outcome State Fault Refusal) : Prop :=
  o = .next { v with evo := { v.evo with cmdSeq := seq, cmdCode := BitVec.ofNat 8 code, busy := true } }

/-- Table 23.5's commands: sequence number and code. -/
def commandOf (i : Instr) : Option (BitVec 16 × Nat) :=
  match i with
  | .quote q _ _ _ => some (q, 0x01) | .keyload q _ _ _ => some (q, 0x02) | .keyerase q _ => some (q, 0x03) | .keyenroll q _ _ _ _ => some (q, 0x04)
  | .ckpt q _ _ => some (q, 0x05) | .restore q _ => some (q, 0x06) | .pwrlim q _ => some (q, 0x07) | .fence q _ => some (q, 0x10)
  | .remap q _ _ => some (q, 0x12) | .hbmppr q _ _ _ => some (q, 0x13) | .offline q _ _ => some (q, 0x14) | .online q _ => some (q, 0x15)
  | .inject q _ => some (q, 0x16) | .readwear q _ => some (q, 0x17)
  | _ => none

/-- The state in which a command is taken: one that may meet a channel in training begins as a turn that has met none (R414). -/
def atCommand (i : Instr) (s : State) : State :=
  match i with
  | .remap _ _ _ | .offline _ _ _ => fresh s
  | _ => s

/-- Commands that find the mailbox busy set ERR and do nothing else; before READY every one but QUOTE ends with result 6 (R411). -/
def MailboxGate : Prop :=
  ∀ (s : State) (i : Instr) (seq : BitVec 16) (code : Nat), commandOf i = some (seq, code) → s.evo.offlinePending = none →
    s.evo.onlinePending = none →
    (s.mailBusy = true → exec i s = .next { atCommand i s with evo := { s.evo with err := true } }) ∧
    (s.mailBusy = false → s.evo.ready = false → code ≠ 1 → replied (atCommand i s) seq code 6 [] (exec i s))

/-- MBCMD, written by the host: a code that is in no table ends with BADARG (R412); one of a table starts its command, which is the next turn,
on the arguments as they stand, or sets ERR where a command is in progress (R411). A write of ERR clears it. -/
def UnknownCommands : Prop :=
  ∀ (s : State) (v : Word),
    (s.mailBusy = false → s.evo.ready = true → v.toNat % 256 ∉ commandCodes →
      replied s (BitVec.ofNat 16 (v.toNat / 2 ^ 16)) (v.toNat % 256) 1 [] (exec (.registerWrite mailboxBase v .host) s)) ∧
    (v.toNat % 256 ∈ commandCodes →
      (s.mailBusy = true → exec (.registerWrite mailboxBase v .host) s = .next { s with evo := { s.evo with err := true } }) ∧
      (s.mailBusy = false →
        let seq := BitVec.ofNat 16 (v.toNat / 2 ^ 16)
        exec (.registerWrite mailboxBase v .host) s =
          .next { s with agenda := .command (v.toNat % 256) seq s.evo.args :: s.agenda,
                         evo := { s.evo with cmdSeq := seq, cmdCode := BitVec.ofNat 8 (v.toNat % 256) } })) ∧
    (v.getLsbD 1 = true → exec (.registerWrite (mailboxBase + 8) v .host) s = .next { s with evo := { s.evo with err := false } })

/-- Exactly n bytes of a list, zeros after its end. -/
def sized (n : Nat) (l : List Byte) : List Byte := l.take n ++ List.replicate (n - l.length) 0

/-- Keys and quotes (R355, R407-R410, Tables 23.2, 23.3, 23.10). -/
def KeyCommands : Prop :=
  ∀ (s : State) (q : BitVec 16), s.mailBusy = false → s.evo.ready = true →
    (∀ (form ctx : Byte) (nonce : List Byte),
      let body := natLe 8 (1 + s.pkg * 2 ^ 32) ++ natLe 8 s.evo.boots ++ sized 64 nonce ++ sized 64 s.evo.chain ++ natLe 8 ctx.toNat ++
        (if ctx = 0xFF then List.replicate 64 0 else sized 64 (s.ctxOf ctx.toNat).chain) ++ natLe 8 0
      let cert := natLe 8 1 ++ natLe 8 Config.partId.toNat ++ sized 1793 Config.devicePublicKey ++ List.replicate 47 0 ++
        sized 1280 Config.certificateSignature
      (form = 0 → ctx.toNat < 64 ∨ ctx = 0xFF →
        replied s q 1 0 (body ++ sized 1280 (Config.deviceSign (shake256 body))) (exec (.quote q form ctx nonce) s)) ∧
      (form = 1 → replied s q 1 0 cert (exec (.quote q form ctx nonce) s)) ∧
      (form ≠ 1 → form ≠ 0 ∨ (64 ≤ ctx.toNat ∧ ctx ≠ 0xFF) → replied s q 1 1 [] (exec (.quote q form ctx nonce) s))) ∧
    (∀ slot dk tk,
      (1 ≤ slot → slot ≤ 8191 →
        (∀ r, (s.keyUsed.find? fun r => r.dataKey == dk % 2 ^ 256 && r.tweakKey == tk % 2 ^ 256) = some r →
          replied { s with keys := mput s.keys slot r } q 2 0 [] (exec (.keyload q slot dk tk) s)) ∧
        ((s.keyUsed.find? fun r => r.dataKey == dk % 2 ^ 256 && r.tweakKey == tk % 2 ^ 256) = none →
          let r : KeyRec := { load := s.keyLoads + 1, dataKey := dk % 2 ^ 256, tweakKey := tk % 2 ^ 256 }
          replied { s with keyLoads := s.keyLoads + 1, keyUsed := s.keyUsed ++ [r], keys := mput s.keys slot r } q 2 0 []
            (exec (.keyload q slot dk tk) s)) ∧
        replied { s with keys := mdel s.keys slot } q 3 0 [] (exec (.keyerase q slot) s)) ∧
      (slot = 0 ∨ 8191 < slot → replied s q 2 1 [] (exec (.keyload q slot dk tk) s) ∧ replied s q 3 1 [] (exec (.keyerase q slot) s))) ∧
    (∀ slot key signer sig,
      let key := sized 1793 key
      let signed := shake256 (BitVec.ofNat 8 slot :: key)
      let held := if signer = 0 then some Config.rootKey else mfind s.evo.verifyKeys signer
      let o := exec (.keyenroll q slot key signer sig) s
      (slot = 0 ∨ 15 < slot → replied s q 4 1 [] o) ∧
      (1 ≤ slot → slot ≤ 15 →
        (∀ k, held = some k → Config.falconVerify k signed sig = true →
          replied { s with evo := { s.evo with verifyKeys := mput s.evo.verifyKeys slot key } } q 4 0 [] o) ∧
        ((∀ k, held = some k → Config.falconVerify k signed sig = false) → replied s q 4 5 [] o)))

/-- A launch holds a cluster that p names. -/
def holdsAny (s : State) (p : Nat → Prop) : Prop := ∃ l ∈ s.launches, LaunchPhase.holds l.phase = true ∧ ∃ c ∈ l.clusters, p c

/-- An error waits in the stored words ws. -/
def planted (u : State) (single : Bool) (ws : List Nat) : Prop := ∀ w ∈ ws, if single then w ∈ u.errOne else w ∈ u.errUnc

/-- Wear units of each kind (Table 22.3; their numbers, log 6). -/
def unitsOf (k : Fin 4) : Nat := match k with | 0 => 66560 | 1 => 512 | 2 => 16640 | 3 => 512

/-- Fences, wear, injection, power, dies and repairs by command (R398-R403, R419, R422, Table 23.5). -/
def ServiceCommands : Prop :=
  ∀ (s : State) (q : BitVec 16), s.mailBusy = false → s.evo.ready = true →
    (∀ w, (1000 ≤ w → w ≤ 3600 → replied { s with evo := { s.evo with limit := w } } q 7 0 [] (exec (.pwrlim q w) s)) ∧
      (w < 1000 ∨ 3600 < w → replied s q 7 1 [] (exec (.pwrlim q w) s))) ∧
    (∀ i : Fin 64, ((s.rect i.val).v = true → replied { s with agenda := s.agenda ++ [.fence (.crect i) .command] } q 0x10 0 [] (exec (.fence q (.crect i)) s)) ∧
      ((s.rect i.val).v = false → replied s q 0x10 1 [] (exec (.fence q (.crect i)) s))) ∧
    (∀ c, (c < 512 → replied { s with agenda := s.agenda ++ [.fence (.cluster c) .command] } q 0x10 0 [] (exec (.fence q (.cluster c)) s)) ∧
      (512 ≤ c → replied s q 0x10 1 [] (exec (.fence q (.cluster c)) s))) ∧
    (∀ x : WearUnit, (x.unit < unitsOf x.kind →
        replied s q 0x17 0 (natLe 8 (mget {} s.evo.wear (x.kind.val + 4 * x.unit)).count) (exec (.readwear q x) s)) ∧
      (unitsOf x.kind ≤ x.unit → replied s q 0x17 1 [] (exec (.readwear q x) s))) ∧
    (∀ i, let o := exec (.inject q i) s
      let bad := replied s q 0x16 1 [] o
      let there := fun (t : Nat) => t < 4096 ∧ s.diePresent (dieOf (clusterOf t)) = true
      let good := fun (p : State → Prop) => ∃ v, replied v q 0x16 0 [] o ∧ v.mem = s.mem ∧ p v
      match i with
      | .sramSingle t off => if there t ∧ off < 2 ^ 19 then good fun v => planted v true [spad t off / 8] else bad
      | .sramUncorrectable t off => if there t ∧ off < 2 ^ 19 then good fun v => planted v false [spad t off / 8] else bad
      | .hbmSingle a => if a < 2 ^ 40 ∧ s.diePresent (dieOfStack (a / 2 ^ 36)) = true then good fun v => planted v true [a / 8] else bad
      | .hbmUncorrectable a =>
        if a < 2 ^ 40 ∧ s.diePresent (dieOfStack (a / 2 ^ 36)) = true then
          good fun v => planted v false ((List.range 8).map fun k => a / 64 * 8 + k)
        else bad
      | .linkCrc t d => if t < 4096 ∧ neighbour t d.val ≠ none then good fun v => d.val ∈ (v.router t).crcNext else bad
      | .checker t again => if there t then good fun v => (v.tile t).mismatch = if again then .fails .all else .passes else bad
      | .residue c again =>
        if c < 512 ∧ s.diePresent (dieOf c) = true then good fun v => (v.cluster c).residue = some (if again then .all else .passes) else bad) ∧
    (∀ d, s.evo.onlinePending = none →
      (4 ≤ d ∨ s.die d ≠ .offline → replied s q 0x15 1 [] (exec (.online q d) s)) ∧
      (d < 4 → s.die d = .offline →
        (d ∈ s.evo.repairing → replied s q 0x15 2 [] (exec (.online q d) s)) ∧
        (d ∉ s.evo.repairing → s.invals = [] → (∀ t h, (s.thr t h).wait ≠ .tlbinv) →
          replied { s with dies := s.dies.set d .present } q 0x15 0 [] (exec (.online q d) s)) ∧
        (d ∉ s.evo.repairing → s.invals ≠ [] →
          begun { s with evo := { s.evo with onlinePending := some d, repairing := nset s.evo.repairing d true } } q 0x15
            (exec (.online q d) s)))) ∧
    (∀ d force, s.evo.offlinePending = none →
      (4 ≤ d ∨ s.die d ≠ .present → replied (fresh s) q 0x14 1 [] (exec (.offline q d force) s)) ∧
      (d < 4 → s.die d = .present →
        (d ∈ s.evo.repairing → replied (fresh s) q 0x14 2 [] (exec (.offline q d force) s)) ∧
        (d ∉ s.evo.repairing → ¬holdsAny s (fun c => dieOf c = d) →
          begun { fresh s with evo := { s.evo with offlinePending := some (d, force), repairing := nset s.evo.repairing d true } } q 0x14
            (exec (.offline q d force) s)))) ∧
    (∀ d col, let o := exec (.remap q d col) s
      (4 ≤ d ∨ 8 < col ∨ s.die d = .absent ∨ s.die d = .fusedOff → replied (fresh s) q 0x12 1 [] o) ∧
      (d < 4 → col ≤ 8 → s.die d ≠ .absent → s.die d ≠ .fusedOff →
        (d ∈ s.evo.repairing → replied (fresh s) q 0x12 2 [] o) ∧
        (d ∉ s.evo.repairing →
          (mget 0 s.evo.columns d ≠ 0 → replied (fresh s) q 0x12 3 [] o) ∧
          (mget 0 s.evo.columns d = 0 → ¬holdsAny s (fun c => dieOf c = d ∧ col ≤ c % 8) →
            begun { fresh s with evo := { s.evo with remapPending := some (d, col), repairing := nset s.evo.repairing d true } } q 0x12 o)))) ∧
    (∀ st ch row, let o := exec (.hbmppr q st ch row) s
      let used := mget 0 s.evo.ppr (st * 32 + ch)
      (16 ≤ st ∨ 32 ≤ ch ∨ 2 ^ 25 ≤ row ∨ s.diePresent (dieOfStack st) = false → replied s q 0x13 1 [] o) ∧
      (st < 16 → ch < 32 → row < 2 ^ 25 → s.diePresent (dieOfStack st) = true →
        (1024 + (st * 32 + ch) ∈ s.evo.repairing ∨ dieOfStack st ∈ s.evo.repairing → replied s q 0x13 2 [] o) ∧
        (1024 + (st * 32 + ch) ∉ s.evo.repairing → dieOfStack st ∉ s.evo.repairing →
          (Config.hbmSpareRows ≤ used → replied s q 0x13 3 [] o) ∧
          (used < Config.hbmSpareRows →
            begun { s with evo := { s.evo with repairing := nset s.evo.repairing (1024 + (st * 32 + ch)) true } } q 0x13 o))))

/-- The ends of repairs and of what commands begin (R203, R399-R401): an automatic repair that ends is recorded, and with OK its unit is on a spare: a bank answers again, a
channel has its lane moved, a link carries flits again on both planes; HBMPPR uses up a row; a column is remapped, what is known of the
hardware going with it; a die is offline once its regions are gone, and waiting TLBINVs go on. A repair that has not begun has no end. -/
def RepairEnds : Prop :=
  (∀ (s : State) (x : WearUnit) (ok : Bool), x.kind = 0 ∨ x.kind = 3 → (x.kind.val, x.unit) ∈ s.evo.autos →
    ∃ u, exec (.repairDone x ok) s = .next u ∧ u.mem = s.mem ∧ u.evo.evHead = s.evo.evHead + 1 ∧ (x.kind.val, x.unit) ∉ u.evo.autos ∧
      (∃ j, u.evo.spares = if ok then s.evo.spares ++ [{ kind := x.kind.val, unit := x.unit, index := j }] else s.evo.spares) ∧
      (x.kind = 0 → (x.unit < 65536 → x.unit % 16 ∉ (u.tile (x.unit / 16)).mending) ∧
        (65536 ≤ x.unit → x.unit < 66048 → 0 ∉ (u.cluster (x.unit - 65536)).mending) ∧
        (66048 ≤ x.unit → 1 ∉ (u.cluster (x.unit - 66048)).mending))) ∧
  (∀ (s : State) (n : Nat) (ok : Bool), (1, n) ∈ s.evo.autos →
    ∃ u, exec (.repairDone { kind := 1, unit := n } ok) s = .next u ∧ u.mem = s.mem ∧ 1024 + n ∉ u.evo.repairing ∧ u.evo.evHead = s.evo.evHead + 1 ∧
      (∀ j, j < 4 → ok = true → (mget 0 (s.train n).rep j).getLsbD 63 = false → (∀ i, i < j → (mget 0 (s.train n).rep i).getLsbD 63 = true) →
        (mget 0 (u.train n).rep j).getLsbD 63 = true)) ∧
  (∀ (s : State) (n : Nat) (ok : Bool), (1, n) ∉ s.evo.autos →
    (1024 + n ∉ s.evo.repairing ∨ s.evo.busy = false ∨ s.evo.cmdCode ≠ 0x13 → exec (.repairDone { kind := 1, unit := n } ok) s = .next s) ∧
    (1024 + n ∈ s.evo.repairing → s.evo.busy = true → s.evo.cmdCode = 0x13 →
      ∃ u, exec (.repairDone { kind := 1, unit := n } ok) s = .next u ∧ u.mem = s.mem ∧ 1024 + n ∉ u.evo.repairing ∧ u.evo.evHead = s.evo.evHead + 1 ∧
        u.evo.busy = false ∧ u.evo.result = (if ok then 0 else 3) ∧ u.evo.seq = s.evo.cmdSeq ∧
        mget 0 u.evo.ppr n = mget 0 s.evo.ppr n + (if ok then 1 else 0))) ∧
  (∀ (s : State) (t d v : Nat), d < 4 → neighbour t d = some v → (2, t * 4 + d) ∈ s.evo.autos →
    ∃ u, exec (.repairDone { kind := 2, unit := t * 4 + d } true) s = .next u ∧ u.mem = s.mem ∧
      (∀ b : Bool, linkKey d b ∉ (u.router t).lost ∧ linkKey ((d + 2) % 4) b ∉ (u.router v).lost) ∧
      ∃ j, u.evo.spares = s.evo.spares ++ [{ kind := 2, unit := t * 4 + d, index := j }]) ∧
  (∀ (s : State) (x : WearUnit) (ok : Bool), (x.kind.val, x.unit) ∉ s.evo.autos → x.kind = 0 ∨ x.kind = 2 ∨ (x.kind = 3 ∧ s.evo.remapPending = none) →
    exec (.repairDone x ok) s = .next s) ∧
  (∀ (s : State) (n d p : Nat) (ok : Bool), (3, n) ∉ s.evo.autos → s.evo.remapPending = some (d, p) → dieOf n = d →
    (¬holdsAny s (fun c => dieOf c = d ∧ p ≤ c % 8) → ∃ u, exec (.repairDone { kind := 3, unit := n } ok) s = .next u ∧ u.mem = s.mem ∧
      u.evo.remapPending = none ∧ d ∉ u.evo.repairing ∧ u.evo.busy = false ∧ u.evo.result = (if ok then 0 else 3) ∧
      (mget 0 u.evo.columns d = if ok then p + 1 else mget 0 s.evo.columns d) ∧
      (ok = true → (s.evo.wear.map fun x => x.1).Nodup → ∀ t b, b < 16 → t < 4096 → dieOf (clusterOf t) = d → p ≤ clusterOf t % 8 →
        clusterOf t % 8 < 7 → mget {} u.evo.wear (4 * (t * 16 + b)) = mget {} s.evo.wear (4 * ((t + 4) * 16 + b)))) ∧
    (holdsAny s (fun c => dieOf c = d ∧ p ≤ c % 8) → exec (.repairDone { kind := 3, unit := n } ok) s = .next s)) ∧
  (∀ (s : State) (d : Nat) (force : Bool), s.evo.offlinePending = some (d, force) → d < s.dies.length →
    let o := exec (.offline s.evo.cmdSeq d force) s
    (holdsAny s (fun c => dieOf c = d) ∨ s.invals ≠ [] → o = .next (fresh s)) ∧
    (¬holdsAny s (fun c => dieOf c = d) → s.invals = [] → (∀ x ∈ s.ctxs, x.2.valid = false ∨ x.2.firmware = true) →
      ∃ u, o = .next u ∧ u.die d = .offline ∧ u.evo.offlinePending = none ∧ d ∉ u.evo.repairing ∧ u.evo.busy = false ∧ u.evo.result = 0 ∧
        u.mem = s.mem ∧ ∀ t h, h < 8 → (s.thr t h).wait = .tlbinv → (u.thr t h).run = .rotation ∧ (u.thr t h).wait = .none))

/-- Scrubbers and wear (R390-R393): a patrol read that its bank grants finds the error of a word, a row of the tile store or a burst: uncorrectable, it
poisons; single, it is corrected and counted; a counter leaks by one. -/
def ScrubAndWear : Prop :=
  ∀ (s : State),
    (∀ t b k, b < 16 → k < 8 → s.evo.scrubEn = true → s.evo.sstep ≠ 0 →
      let row := mget 0 s.scrubPos (2 * (t * 16 + b))
      let w := (spad t (1024 * row + 64 * b) + 8 * k) / 8
      let moves := fun (u : State) => mget 0 u.scrubPos (2 * (t * 16 + b)) = (row + 1) % 512
      let asked := s.ask t orderScrub b [1024 * row + 64 * b]
      row < 512 →
      (asked.1 = false → exec (.sramPatrolScrub t b) s = .next asked.2) ∧
      (asked.1 = true → s.errTag = [] →
        (noErrors s → ∃ u, exec (.sramPatrolScrub t b) s = .next u ∧ u.mem = s.mem ∧ moves u) ∧
        (s.errUnc = [w] → s.errOne = [] → ∃ u, exec (.sramPatrolScrub t b) s = .next u ∧ moves u ∧ u.errUnc = [] ∧
          u.poisoned (8 * w) = true ∧ u.val (8 * w) 8 = 1) ∧
        (s.errUnc = [] → s.errOne = [w] → (mget {} s.evo.wear (4 * (t * 16 + b))).count < 65535 →
          ∃ u, exec (.sramPatrolScrub t b) s = .next u ∧ moves u ∧ u.errOne = [] ∧ u.mem = s.mem ∧
            (mget {} u.evo.wear (4 * (t * 16 + b))).count = (mget {} s.evo.wear (4 * (t * 16 + b))).count + 1))) ∧
    (∀ t k, k < 256 → s.evo.scrubEn = true → s.evo.sstep ≠ 0 →
      let c := clusterOf t
      let key := 2 * (65536 + c)
      let row := mget 0 s.scrubPos key
      0 ∉ (s.cluster c).mending → (s.cluster c).storeUnc = [row * 256 + k] → (s.cluster c).storeOne = [] →
      ∃ u, exec (.sramPatrolScrub t 16) s = .next u ∧ u.mem = s.mem ∧ mget 0 u.scrubPos key = (row + 1) % 1024 ∧ (u.cluster c).storeUnc = [] ∧
        2 * (row * 256 + k) ∈ (u.cluster c).storePsn ∧ 2 * (row * 256 + k) + 1 ∈ (u.cluster c).storePsn) ∧
    (∀ t b, s.evo.scrubEn = false ∨ s.evo.sstep = 0 → exec (.sramPatrolScrub t b) s = .next s) ∧
    (∀ st ch, s.evo.scrubEn = false ∨ s.evo.hstep = 0 ∨ s.diePresent (dieOfStack st) = false → exec (.hbmPatrolScrub st ch) s = .next (fresh s)) ∧
    (∀ st ch k, st < 16 → ch < 32 → k < 8 → s.evo.scrubEn = true → s.evo.hstep ≠ 0 → s.diePresent (dieOfStack st) = true → noWait s →
      let n := mget 0 s.scrubPos (2 * (st * 32 + ch) + 1)
      let a := st * 2 ^ 36 + n * 2 ^ 11 + ch % 4 * 2 ^ 9 + ch / 4 * 2 ^ 6
      let moves := fun (u : State) => mget 0 u.scrubPos (2 * (st * 32 + ch) + 1) = (n + 1) % 2 ^ 25
      n < 2 ^ 25 →
      (noErrors s → ∃ u, exec (.hbmPatrolScrub st ch) s = .next u ∧ u.mem = s.mem ∧ moves u) ∧
      (s.errUnc = [a / 8 + k] → s.errOne = [] → s.errTag = [] → ∃ u, exec (.hbmPatrolScrub st ch) s = .next u ∧ moves u ∧ u.errUnc = [] ∧
        ∀ j, j < 8 → u.poisoned (a + 8 * j) = true ∧ u.val (a + 8 * j) 8 = 2)) ∧
    (∀ x : WearUnit,
      let cfg := mget {} s.evo.wearCfg x.kind.val
      let w := mget {} s.evo.wear (x.kind.val + 4 * x.unit)
      (cfg.leak = 0 → exec (.wearLeak x) s = .next s) ∧
      (cfg.leak ≠ 0 → ∃ u, exec (.wearLeak x) s = .next u ∧ u.mem = s.mem ∧
        let y := mget {} u.evo.wear (x.kind.val + 4 * x.unit)
        y.count = w.count - 1 ∧ (y.latched = true ↔ w.latched = true ∧ cfg.mark / 2 < w.count - 1)))

/-- Rectangles and fences (R394-R398): a write that leaves the mesh or overlaps another valid rectangle is ignored, one on a fenced rectangle changes nothing; unfencing
waits until no launch holds its clusters; a fence reaches every tile and every launch of its rectangle. -/
def FencesAndRectangles : Prop :=
  ∀ (s : State) (i : Fin 64),
    let x := s.rect i.val
    (∀ v : Word,
      let y : Rect := { v := v.getLsbD 63, fen := x.fen, cause := x.cause, w := (v.extractLsb' 14 4).toNat + 1, h := (v.extractLsb' 18 5).toNat + 1,
                        x0 := (v.extractLsb' 0 4).toNat, y0 := (v.extractLsb' 4 5).toNat }
      let clash := ∃ z ∈ s.rects, z.1 ≠ i.val ∧ z.2.v = true ∧ ∃ c ∈ z.2.clusters, c ∈ y.clusters
      let inside := y.x0 + y.w ≤ 16 ∧ y.y0 + y.h ≤ 32
      (¬inside ∨ (y.v = true ∧ clash) → exec (.crectWrite i v) s = .next s) ∧
      (inside → y.v = false ∨ ¬clash →
        (x.fen = false → exec (.crectWrite i v) s = .next { s with rects := mset {} s.rects i.val y }) ∧
        (x.fen = true → y ≠ x ∨ v.getLsbD 62 = false → exec (.crectWrite i v) s = .next s) ∧
        (x.fen = true → y = x → v.getLsbD 62 = true → exec (.crectWrite i v) s = exec (.crectUnfence i) s))) ∧
    (x.fen = false ∨ (∃ c ∈ x.clusters, s.holder c ≠ none) → exec (.crectUnfence i) s = .next s) ∧
    (x.fen = true → (∀ c ∈ x.clusters, s.holder c = none) → ∃ u, exec (.crectUnfence i) s = .next u ∧ u.mem = s.mem ∧ u.rect i.val = { x with fen := false } ∧
      ∀ c ∈ x.clusters, ∀ k, k < 8 → (u.tile (clusterTile c k)).fenced = false) ∧
    (∀ why, (x.v = false → exec (.fenceNotice (.crect i) why) s = .next s) ∧
      (x.v = true → ∃ u, exec (.fenceNotice (.crect i) why) s = .next u ∧
        u.rect i.val = { x with fen := true, cause := match why with | .controlState => 1 | .controlLogic => 2 | .meshLink => 3 | .command => 4 } ∧
        (∀ c ∈ x.clusters, ∀ k, k < 8 → (u.tile (clusterTile c k)).fenced = true) ∧
        ∀ l ∈ u.launches, LaunchPhase.holds l.phase = true → (∃ c ∈ l.clusters, c ∈ x.clusters) → l.fenceHit = true))

/-- Banks of the tiles of die d that stand in logical columns from p on: their counters have the numbers of the next physical column
once no remap is in force (R4, R400). -/
def unshifted (before after : SMap Wear) (d p : Nat) : Prop :=
  ∀ t b, b < 16 → t < 4096 → dieOf (clusterOf t) = d → p ≤ clusterOf t % 8 → clusterOf t % 8 < 7 →
    mget {} after (4 * ((t + 4) * 16 + b)) = mget {} before (4 * (t * 16 + b))

/-- Power and heat (R419): the duty steps down above the limit and up while the power stays 5% under it, every die below 105 degrees; 105 sets it to the
least, 115 stops placing and requeues launches not started, 125 powers off. -/
def PowerAndHeat : Prop :=
  ∀ (s : State), let e := s.evo
    (∀ w,
      (e.limit < w → exec (.powerMeasurement w) s = .next { s with evo := { e with duty := max 1 (e.duty - 1) } }) ∧
      (100 * w ≤ 95 * e.limit → (∀ x ∈ e.temps, x.2 < 105) →
        exec (.powerMeasurement w) s = .next { s with evo := { e with duty := min 16 (e.duty + 1) } }) ∧
      (w ≤ e.limit → 95 * e.limit < 100 * w ∨ (∃ x ∈ e.temps, 105 ≤ x.2) → exec (.powerMeasurement w) s = .next s)) ∧
    (∀ d c,
      (c < 115 → ∃ u, exec (.dieTemperature d c) s = .next u ∧ u.mem = s.mem ∧ mget 0 u.evo.temps d = c ∧ u.launches = s.launches ∧
        u.evo.duty = (if 105 ≤ c then 1 else e.duty) ∧ (e.veryHot = false → u.evo.veryHot = false) ∧
        (e.veryHot = true → (u.evo.veryHot = true ↔ ∃ x ∈ u.evo.temps, 95 ≤ x.2))) ∧
      (115 ≤ c → c < 125 → (∀ l ∈ s.launches, l.phase ≠ .running) → ∃ u, exec (.dieTemperature d c) s = .next u ∧ u.evo.veryHot = true ∧ u.evo.duty = 1 ∧
        ∀ l ∈ u.launches, l.phase = .placed → (s.ctxOf l.ctx).firmware = true) ∧
      (125 ≤ c → ∃ u, exec (.dieTemperature d c) s = .next u ∧ u.powered = false ∧ u.mem = [] ∧ u.tiles = [] ∧ u.launches = [] ∧ u.keys = [] ∧
        (e.columns = [] → u.evo.wear = e.wear) ∧ (∀ dd p, e.columns = [(dd, p + 1)] → (e.wear.map fun x => x.1).Nodup → unshifted e.wear u.evo.wear dd p) ∧
        u.evo.spareMap = e.spareMap ∧ u.evo.ppr = e.ppr ∧ u.evo.events = e.events ∧ u.evo.boots = e.boots ∧ u.dies = s.dies))

/-- Boot (R4, R405, R406, R409): power-on reset leaves memory clear and nothing placed, and keeps the wear counters, the spare map, the repairs in the stacks and the event
records; with firmware that does not verify Evodon stops with result 5, the device in reset; else the images are measured in order,
dies are as links and fuses have them, the map is in force where its check value holds,
and firmware context 0 exists. A counter keeps its hardware, where a column is remapped too. -/
def Boot : Prop :=
  ∀ (s : State) (b : BootReport), ∃ u, exec (.powerOnReset b) s = .next u ∧ u.mem = [] ∧ u.tiles = [] ∧ u.launches = [] ∧ u.keys = [] ∧
    u.powered = true ∧ u.evo.ready = false ∧ u.evo.ppr = s.evo.ppr ∧ u.evo.boots = s.evo.boots + 1 ∧
    (blobVerifies Config.rootKey b.firmware = false → u.evo.result = 5 ∧ u.evo.inReset = true ∧ u.evo.boot = none ∧ u.ctxs = [] ∧
      u.evo.events = s.evo.events ∧ u.evo.spareMap = s.evo.spareMap) ∧
    (blobVerifies Config.rootKey b.firmware = false ∨ mapOk s.evo.spareMap b = false ∨ (s.evo.spareMap = [] ∧ b.fusedDies = []) →
      (s.evo.columns = [] → u.evo.wear = s.evo.wear) ∧
      (∀ d p, s.evo.columns = [(d, p + 1)] → (s.evo.wear.map fun x => x.1).Nodup → unshifted s.evo.wear u.evo.wear d p)) ∧
    (blobVerifies Config.rootKey b.firmware = true →
      u.evo.inReset = false ∧
      (∀ x, x ∈ u.evo.spareMap ↔ x ∈ s.evo.spareMap ∨
        ∃ d ∈ b.fusedDies, x = { kind := 4, unit := d } ∧ ∀ y ∈ s.evo.spareMap, ¬(y.kind = 4 ∧ y.unit = d)) ∧
      u.ctxOf 0 = { valid := true, firmware := true } ∧ (∀ k, k ≠ 0 → (u.ctxOf k).valid = false) ∧
      u.evo.chain = extendChain (extendChain (extendChain [] (shake256 b.firmware)) (shake256 b.spareMap)) (shake256 b.trainingImage) ∧
      (∀ d, d < 4 → u.die d = if s.die d = .absent then .absent
        else if d ∈ b.fusedDies ∨ ∃ x ∈ s.evo.spareMap, x.kind = 4 ∧ x.unit = d then .fusedOff
        else if d ∈ b.failedDies then .offline else .present) ∧
      (∃ x, u.evo.boot = some x ∧ x.active = [] ∧ x.failed = [] ∧ ∀ c, c ∈ x.left ↔ c < 512 ∧ u.diePresent (dieOfStack (c / 32)) = true) ∧
      (mapOk s.evo.spareMap b = false → u.evo.spares = [] ∧ u.evo.columns = [] ∧ u.evo.evHead = 1) ∧
      (∀ d p, mapOk s.evo.spareMap b = true → p < 9 → s.evo.spareMap = [{ kind := 6, unit := 9 * d + p }] → b.fusedDies = [] →
        u.evo.spares = s.evo.spareMap ∧ mget 0 u.evo.columns d = p + 1 ∧ u.evo.evHead = 0 ∧
        (s.evo.columns = [(d, p + 1)] → (s.evo.wear.map fun x => x.1).Nodup → ∀ t b, b < 16 → t < 4096 → dieOf (clusterOf t) = d →
          p ≤ clusterOf t % 8 → clusterOf t % 8 < 7 → mget {} u.evo.wear (4 * (t * 16 + b)) = mget {} s.evo.wear (4 * (t * 16 + b)))) ∧
      (∀ x : Spare, mapOk s.evo.spareMap b = true → x.kind = 6 → x.index = 0 → s.evo.spareMap = [x, x] → b.fusedDies = [] → u.evo.spares = [x] ∧ u.evo.evHead = 1))

/-- The end of a boot (R405, R408, R413-R415): a channel is trained when its launch is DONE with no thread halted under R187 and TRRES0 is all ones, and has failed otherwise; with all tried,
dies with a failed stack are offline, slot 0 holds the boot's key, stacks are zero, the firmware context is gone, untrained host links
are down, and Evodon is READY. -/
def BootSteps : Prop :=
  ∀ (s : State) (b : Sys2Proof.Machine.Boot), s.evo.boot = some b →
    (∀ id c rest, b.active = (id, c) :: rest → s.launch id = none → (∀ y ∈ rest, y.1 ≠ id) →
      ∃ x, s.bootTurn.evo.boot = some x ∧ x.active = rest ∧ x.left = b.left ∧
        (c ∈ x.failed ↔ c ∈ b.failed ∨ ¬((∃ y ∈ s.fwStatus, y.1 = id ∧ y.2.1 = 3 ∧ y.2.2 = 0) ∧ (s.train c).res0 = -1))) ∧
    (b.left = [] → b.active = [] →
      let u := s.bootTurn
      u.evo.ready = true ∧ u.evo.boot = none ∧ u.ctxOf 0 = {} ∧ u.evo.linksDown = b.report.downLinks ∧
      u.keys = [(0, { load := 0, dataKey := Config.bootDataKey s.evo.boots % 2 ^ 256, tweakKey := Config.bootTweakKey s.evo.boots % 2 ^ 256 })] ∧
      (∀ a, a < 2 ^ 44 → u.byte a = 0 ∧ u.poisoned a = false) ∧
      (∀ d, d < s.dies.length → u.die d = if s.die d = .present ∧ ((∃ c ∈ b.failed, dieOfStack (c / 32) = d) ∨ d ∈ b.report.badDies) then .offline
        else s.die d) ∧
      ∀ p : Fin 64, p.val ∈ b.report.downPorts → (mget {} u.atwald p.val).down = true)

/-- Checkpoints (R415-R418): CKPT halts every running region; the layout in the tier, the regions go on, but one being saved, and RESULT is 0 with the
duration; RESTORE brings a tier's memory back under the same keys, and waits while a die is too hot. -/
def Checkpoints : Prop :=
  ∀ (s : State),
    (∀ (q : BitVec 16) base len, s.mailBusy = false → s.evo.ready = true → (∀ l ∈ s.launches, l.phase ≠ .running ∧ l.phase ≠ .halting ∧ l.phase ≠ .settled) →
      (len < 2 ^ 40 + 2 ^ 31 + 0x1000 → replied s q 5 1 [] (exec (.ckpt q base len) s)) ∧
      (2 ^ 40 + 2 ^ 31 + 0x1000 ≤ len → begun { s with ckpt := some (q, base) } q 5 (exec (.ckpt q base len) s))) ∧
    (∀ (q : BitVec 16) base len l, s.mailBusy = false → s.evo.ready = true → s.launches = [l] → l.phase = .running →
      let need := 2 ^ 40 + 2 ^ 31 + 0x1000 + l.w * l.h * 0x701000
      (len < need → replied s q 5 1 [] (exec (.ckpt q base len) s)) ∧
      (need ≤ len → begun { s with ckpt := some (q, base), launches := [{ l with phase := .halting }] } q 5 (exec (.ckpt q base len) s))) ∧
    (∀ us, s.ckpt = none → exec (.checkpointWriteDone us) s = .next (fresh s)) ∧
    (∀ us q base, s.ckpt = some (q, base) →
      ((∃ l ∈ s.launches, l.phase = .running ∨ l.phase = .halting) → exec (.checkpointWriteDone us) s = .next (fresh s)) ∧
      (noWait s → (∀ l ∈ s.launches, l.phase ≠ .running ∧ l.phase ≠ .halting) → ∃ u, exec (.checkpointWriteDone us) s = .next u ∧ u.ckpt = none ∧
        ((∀ l ∈ s.launches, l.phase ≠ .settled) → u.mem = s.mem) ∧
        u.evo.busy = false ∧ u.evo.result = 0 ∧ u.evo.seq = s.evo.cmdSeq ∧ u.evo.response = natLe 8 us ∧ (∀ l ∈ u.launches, l.phase = .settled → l.dirEntry ≠ 0) ∧
        ∃ k ∈ u.tier, k.base = base ∧ k.magic = 0x544B5043 ∧ leNat ((List.range 8).map k.byteAt) = 0x544B5043 ∧ k.images = (s.launches.filter fun l => l.phase == .settled).length ∧
          k.part = Config.partId ∧ k.digest = s.keyDigest ∧ k.hbm = s.mem.filter fun c => !isSpad c.1)) ∧
    (∀ (q : BitVec 16) base, s.mailBusy = false → s.evo.ready = true →
      ((∀ k ∈ s.tier, k.base ≠ base) → replied s q 6 1 [] (exec (.restore q base) s)) ∧
      (∀ k, (s.tier.find? fun c => c.base == base) = some k →
        k.magic ≠ 0x544B5043 ∨ k.part ≠ Config.partId ∨ k.digest ≠ s.keyDigest ∨ (∃ l ∈ s.launches, LaunchPhase.holds l.phase = true) →
        replied s q 6 1 [] (exec (.restore q base) s)) ∧
      (∀ k, (s.tier.find? fun c => c.base == base) = some k → k.magic = 0x544B5043 → k.part = Config.partId → k.digest = s.keyDigest →
        (∀ l ∈ s.launches, LaunchPhase.holds l.phase = false) →
        (s.evo.veryHot = true → begun { s with evo := { s.evo with restorePending := some base } } q 6 (exec (.restore q base) s)) ∧
        (s.evo.veryHot = false → k.regions = [] →
          ∃ u, exec (.restore q base) s = .next u ∧ u.mem = k.hbm ++ s.mem.filter (fun x => isSpad x.1) ∧ u.keyOf = k.keyOf ∧ u.evo.result = 0 ∧ u.evo.seq = q ∧ u.evo.busy = false)))

end Sys2Proof.Claims

/-- Commands of the mailbox. The model's choices in it: logs 13 (a key is known by its value), 19 (a repair that fails answers NOSPARE), 55
(FENCE of a rectangle that is not valid) and 101 (BADARG for a row, a context or a die that is not there). -/
def Obligations.MailboxCommands : Prop :=
  Sys2Proof.Claims.MailboxGate ∧ Sys2Proof.Claims.UnknownCommands ∧ Sys2Proof.Claims.KeyCommands ∧ Sys2Proof.Claims.ServiceCommands ∧ Sys2Proof.Claims.RepairEnds

/-- Service life. The model's choices: logs 6 (wear units), 20 (the duty), 54, 57 (what power-off keeps; the tier) and 84. -/
def Obligations.ServiceLife : Prop :=
  Sys2Proof.Claims.ScrubAndWear ∧ Sys2Proof.Claims.FencesAndRectangles ∧ Sys2Proof.Claims.PowerAndHeat ∧ Sys2Proof.Claims.Boot ∧ Sys2Proof.Claims.BootSteps ∧
  Sys2Proof.Claims.Checkpoints

/-- The canonical form of memory is an invariant: a step from a state whose memory, and those of its checkpoints, are in canonical form (rising addresses, no byte equal
to what an unlisted address reads as) leaves it so. -/
def Obligations.MemoryStaysCanonical : Prop :=
  ∀ (s t : Sys2Proof.Machine.State), s.memoryOk = true → Sys2Proof.Machine.step s = .next t → t.memoryOk = true

/-! # Forms that complete, and the checker and replay mode -/

open Sys2Proof Sys2Proof.Machine Sys2Proof.Claims in
/-- VSEL, VPERM, VMOVG, VMOVL and VBCAST complete in every state (R151-R153): exec answers the state in which the instruction has
retired with its destination written. Element values are given where FTZ asks for no flush, so that nothing rests on log 69. -/
def Sys2Proof.Claims.VectorMovesComplete : Prop :=
  ∀ (s : State) (ty : ElemTy) (k : KIx) (d : VIx) (g a b : GIx) (e : Fin 64),
    let w := ty.width
    let old := s.cur.rv d
    (∃ q, exec (.vsel k d a b) s = .next (atRetire s (s.cur.wv d q)) ∧ ∀ j, j < 16 →
      (laneActive s k j → a.val < 8 → sameLane q (s.cur.rv (vReg a.val)) j) ∧
      (¬laneActive s k j → b.val < 8 → sameLane q (s.cur.rv (vReg b.val)) j)) ∧
    (ty.isF = true ∨ ty.isI = true →
      (∃ q, exec (.vperm ty k d a b) s = .next (atRetire s (s.cur.wv d q)) ∧
        (∀ j, j < 16 → ¬laneActive s k j → sameLane q old j) ∧
        (w = 32 → s.cur.ftz = false → ∀ j, j < 16 → laneActive s k j → srcBad s b j = none → srcElt s 32 b j < 2 ^ 31 →
          srcBad s a (srcElt s 32 b j % 16) = none → vElt q 32 j = srcElt s 32 a (srcElt s 32 b j % 16))) ∧
      (e.val < 512 / w →
        (∃ r, exec (.vmovg ty e g a) s = .next (atRetire s (s.cur.wr g r)) ∧
          (srcBad s a (e * w / 32) = none → s.cur.ftz = false → r = dataReg (BitVec.ofInt 64 (ival ty (srcElt s w a e))))) ∧
        (∃ q, exec (.vmovl ty e d a) s = .next (atRetire s (s.cur.wv d q)) ∧
          (∀ j, j < 16 → j ≠ e * w / 32 → sameLane q old j) ∧
          ((s.cur.rd a).tag ≠ .poison → vBad old (e * w / 32) = false → s.cur.ftz = false →
            vElt q w e = (s.cur.rd a).low.toNat % 2 ^ w)) ∧
        (∃ q, exec (.vbcast ty e k d a) s = .next (atRetire s (s.cur.wv d q)) ∧
          (∀ j, j < 16 → ¬laneActive s k j → sameLane q old j) ∧
          (srcBad s a (e * w / 32) = none → s.cur.ftz = false → ∀ j e', j < 16 → laneActive s k j → e' * w / 32 = j →
            vElt q w e' = srcElt s w a e))))

open Sys2Proof Sys2Proof.Machine Sys2Proof.Claims in
/-- ERET, PDRAIN and TLBINV complete in supervisor mode (R188, R201, R203): ERET with a code capability in ECAP; PDRAIN with no posted
operation of its thread outstanding; TLBINV while neither OFFLINE nor ONLINE is in progress. -/
def Sys2Proof.Claims.PrivilegedFormsComplete : Prop :=
  ∀ (s : State), s.cur.priv = true →
    (s.cur.ecap.tag = .cap → s.cur.ecap.upper.getLsbD 58 = true → wovenCap s.cur.ecap = false → isTile s.cur.ecap = true →
      ∃ t, exec .eret s = .next t ∧ t.cur.pc = s.cur.epc ∧ t.cur.code = some s.cur.ecap.upper ∧ t.cur.priv = s.cur.ppriv ∧
        t.cur.exl = false ∧ t.cur.retired = s.cur.retired + 1 ∧ t.mem = s.mem) ∧
    ((∀ p ∈ s.curT.posted, ¬awaited s.curThr p) →
      ∃ t, exec .pdrain s = .next t ∧ t.cur.pc = s.cur.succ ∧ t.cur.retired = s.cur.retired + 1 ∧ t.mem = s.mem) ∧
    (∀ (a : GIx) (scope : InvScope), s.evo.offlinePending = none → s.evo.onlinePending = none →
      scope = .context ∨ ((s.cur.rd a).tag = .cap ∧ wovenCap (s.cur.rd a) = false ∧ space (s.cur.rd a) = 1) →
      ∃ t, exec (.tlbinv a 0 scope) s = .next t ∧ t.cur.pc = s.cur.succ ∧ t.cur.retired = s.cur.retired + 1 ∧ t.mem = s.mem ∧
        t.invals.length = s.invals.length + 1)

open Sys2Proof Sys2Proof.Machine Sys2Proof.Claims in
/-- The crown forms complete (R293, R294, R342): PBARA, PBARW and PBAR of a thread that is in step with a barrier bound to its context, PBAR
then waiting for the release, where it does not stand at one that a halt has ended (R295); an arrival that reaches the root; the release that a full barrier starts; binding and unbinding. -/
def Sys2Proof.Claims.CrownFormsComplete : Prop :=
  ∀ (s : State) (id : Fin 64),
    let b := id.val
    let c := s.crown b
    (s.cur.afp = false → mayUse c s.curT.ctx s.curTile → c.poison = 0 → mget 0 s.cur.crownDone b ≤ c.episode →
      (∃ t, exec (.pbara id) s = .next t ∧ t.cur.pc = s.cur.succ ∧ t.cur.retired = s.cur.retired + 1 ∧ t.mem = s.mem) ∧
      (∀ d, ∃ t, exec (.pbarw d id) s = .next t ∧ t = atRetire s (s.cur.wr d {})) ∧
      (∀ d, s.cur.limbo ≠ some (s.cur.pc.toNat % 2 ^ 19, .crown (.pbar d id) b) →
        ∃ t, exec (.pbar d id) s = .next t ∧ t.cur.run = .reissue ∧ t.cur.wait = .crown (.pbar d id) b ∧ t.cur.pc = s.cur.pc ∧
        c.episode < mget 0 t.cur.crownDone b ∧ t.mem = s.mem)) ∧
    (∀ t, t ∈ c.flying → ∃ u, exec (.crownRootArrival t id) s = .next u ∧ t ∈ (u.crown b).arrived ∧ t ∉ (u.crown b).flying) ∧
    (c.releasing = true → c.bound = true → c.saved = [] →
      ∃ u, exec (.crownRelease id) s = .next u ∧ (u.crown b).episode = c.episode + 1 ∧ (u.crown b).arrived = []) ∧
    (∀ v : Word, v.getLsbD 63 = true →
      (∀ c', crownFields c' v → c'.x0 + c'.w ≤ 64 ∧ c'.y0 + c'.h ≤ 64 ∧ ∀ t, mayUse { c' with bound := true } c'.ctx t →
        ∃ l, s.holder (clusterOf t) = some l ∧ l.ctx = c'.ctx) →
      ∃ u, exec (.crownBind id v .host) s = .next u ∧ (u.crown b).bound = true ∧ crownFields (u.crown b) v) ∧
    (∀ v : Word, v.getLsbD 63 = false → ∃ u, exec (.crownUnbind id v .host) s = .next u ∧ (u.crown b).bound = false)

/-- Completion of forms whose results VectorMoves, PrivilegedOperations and CrownBarriers give: VectorMovesComplete, PrivilegedFormsComplete, CrownFormsComplete. Each says that exec answers a
next state for every state and operands that meet the conditions named. -/
def Obligations.MovesSystemAndCrownFormsComplete : Prop :=
  Sys2Proof.Claims.VectorMovesComplete ∧ Sys2Proof.Claims.PrivilegedFormsComplete ∧ Sys2Proof.Claims.CrownFormsComplete

namespace Sys2Proof.Claims
open Sys2Proof Sys2Proof.Machine

/-- Instructions that produce a control value: a target, a skip decision, a k register, a system register or a mode (Table 1.3). -/
def givesControl (i : Instr) : Prop :=
  match i with
  | .j .. | .jl .. | .jr .. | .jlr .. | .cmp .. | .cmpi .. | .tstb .. | .tstg .. | .fcmp .. | .vcmp .. | .kand .. | .kor .. | .knot ..
  | .eret | .syswr .. => True
  | _ => False

/-- Instructions that produce the address of an access (R21). -/
def givesAddress (i : Instr) : Prop :=
  match i with
  | .ld .. | .st .. | .ldv .. | .stv .. | .ldvs .. | .stvs .. | .vgath .. | .vscat .. | .ldcap .. | .stcap .. | .putf .. | .putvf ..
  | .radd .. | .rmin .. | .rmax .. | .rand .. | .ror .. | .rxor .. | .rfadd .. | .rcas .. | .rswap .. | .ldc .. | .stp .. | .feset ..
  | .fsig .. | .scrub .. | .poison .. => True
  | _ => False

/-- Instructions that write gD, and those that write vD, and produce neither. -/
def givesG (d : GIx) (i : Instr) : Prop :=
  (∃ f ∈ twoSource, ∃ a b, i = f.1 d a b) ∨ (∃ a, i = .mov d a) ∨ (∃ w, i = .movi d w) ∨ (∃ rm a b, i = .fadd rm d a b) ∨
  (∃ rm a b, i = .fmul rm d a b) ∨ ∃ a, i = .kpop d a
def givesVec (d : VIx) (i : Instr) : Prop :=
  (∃ ty rm k a b, i = .vadd ty rm k d a b) ∨ (∃ ty rm k a b, i = .vmul ty rm k d a b) ∨ (∃ ty k a b, i = .viadd ty k d a b) ∨
  (∃ ty k a b, i = .vxor ty k d a b) ∨ (∃ k a b, i = .vsel k d a b) ∨ ∃ ty rm k a, i = .vsum ty rm k d a

/-- Class 0x07 of the checker, with the tile's number (Table 1.3). -/
def mismatchValue (s : State) : GReg := { tag := .poison, body := BitVec.ofNat 64 s.curTile ++ 7#64 }

/-- The state goes on as v with one more event, a machine check of class 0x07 at the cluster of the current tile (R23, R404). -/
def machineCheck (s v : State) (e : Evodon) : Prop :=
  v.evo = e ∧ e.evHead = s.evo.evHead + 1 ∧
  (mget [] e.events (s.evo.evHead % 1024)).getD 0 0 = BitVec.ofNat 64 (1 + 3 * 2 ^ 8 + 7 * 2 ^ 16 + clusterOf s.curTile % 2 ^ 24 * 2 ^ 24 +
    (mget {} s.evo.wear (wearKey 3 (clusterOf s.curTile))).count % 2 ^ 16 * 2 ^ 48)

/-- The instruction that leaves u of s has reached W: it has not given up its slot (R17). -/
def reachedW (s u : State) : Prop :=
  ¬(u.cur.run = .rotation ∧ u.cur.pc = s.cur.pc ∧ u.cur.retired = s.cur.retired ∧ u.cur.exl = s.cur.exl)

end Sys2Proof.Claims

open Sys2Proof Sys2Proof.Machine Sys2Proof.Claims in
/-- The first mismatch (R23, R422): an instruction that reaches W on a tile whose checker is to fail commits nothing and is not counted as retired;
its second execution is outstanding, and the cluster's wear counter counts. A second execution that passes is the instruction's own. -/
def Sys2Proof.Claims.FirstMismatch : Prop :=
  ∀ (s : State) (i : Instr),
    (s.cur.recheck = .no → s.curT.mismatch ≠ .no → ∀ u, exec i s = .next u →
      (reachedW s u → ∃ v, s.checked i = .next v ∧ v.cur = { s.cur with recheck := s.curT.mismatch } ∧ v.curT.mismatch = .no ∧ v.mem = s.mem ∧
        (∀ t h, ¬(t = s.curTile ∧ h = s.curThr) → v.thr t h = s.thr t h) ∧
        (mget {} v.evo.wear (wearKey 3 (clusterOf s.curTile))).count =
          min 65535 ((mget {} s.evo.wear (wearKey 3 (clusterOf s.curTile))).count + 1)) ∧
      (¬reachedW s u → s.checked i = .next u)) ∧
    (s.cur.recheck = .passes → s.checked i = exec i (s.setCur { s.cur with recheck := .no }))

open Sys2Proof Sys2Proof.Machine Sys2Proof.Claims in
/-- The second mismatch (R23, Table 1.3, R303, R422), f what failed: a control value traps "poison consumed in control" with class 0x07; a failed address
performs and sends nothing, and is logged with the address; else the instruction executes, a g result that failed committed poisoned, and
of a v result the lanes that failed; failed store data poisons the word, or goes out poisoned. Each raises a machine check. A
synchronising instruction samples its pending bit first. -/
def Sys2Proof.Claims.SecondMismatch : Prop :=
  ∀ (s : State) (i : Instr) (f : Faulty), s.cur.recheck = .fails f →
    let s1 := s.setCur { s.cur with recheck := .no }
    (s.cur.afp = true → (∃ ty d a b off, i = .rfadd ty d a b off) ∨ (∃ d a off, i = .ldc d a off) ∨ (∃ d a off, i = .stp d a off) →
      s.checked i = (s1.setCur { s1.cur with afp := false }).trap 0x0E (asyncEval s.curT)) ∧
    (s.cur.afp = false → s.cur.run = .rotation →
      (givesControl i → f.ctl = true → ∃ v e, machineCheck s v e ∧ v = { s1 with evo := e } ∧ s.checked i = v.trap 0x08 7) ∧
      (givesAddress i → f.addr = true → s.curT.halt = .running → s.curT.flog.length < 8 →
        ∃ v e l, machineCheck s v e ∧ s.checked i = .next v ∧ v.mem = s.mem ∧ v.psn = s.psn ∧ v.full = s.full ∧
          (v.tile s.curTile).injA = s.curT.injA ∧ (v.tile s.curTile).posted = s.curT.posted ∧
          v.cur = { (atRetire s1 s1.cur).cur with afp := true } ∧ (v.tile s.curTile).flog = s.curT.flog ++ [l] ∧
          l.h = true ∧ l.thr = s.curThr ∧ l.origin = s.curTile ∧ reasonCode l.reason = 0 ∧ l.cls = 7 ∧ l.pc = s.cur.pc ∧
          ∀ sz d a m o, i = .st sz d a m → names s a (dispM m) o → ownAccess s a 0 o 1 → l.addr = BitVec.ofNat 64 (gaSpad s.curTile o)) ∧
      (∀ d, givesG d i → ∃ u v e, exec i s1 = .next u ∧ machineCheck s v e ∧ s.checked i = .next v ∧ v.mem = s.mem ∧
        v.cur = if f.result then u.cur.wr d (mismatchValue s) else u.cur) ∧
      (∀ d, givesVec d i → ∃ u v e q, exec i s1 = .next u ∧ machineCheck s v e ∧ s.checked i = .next v ∧ v.mem = s.mem ∧
        v.cur = u.cur.wv d q ∧ ∀ j, j < 16 →
          (f.lanes.getLsbD j = true → poisonedLane q j 7) ∧ (f.lanes.getLsbD j = false → sameLane q (u.cur.rv d) j)) ∧
      (∀ sz d a m o, i = .st sz d a m → m.getLsbD 19 = false → f.addr = false → f.data = true → names s a (dispM m) o →
        (ownAccess s a 2 o (2 ^ sz.val) → free s [o] → s.refusing [o] = s1.refusing [o] → noErr s (spad s.curTile o) →
          ∃ v e, machineCheck s v e ∧ s.checked i = .next v ∧ v.cur.pc = s.cur.succ ∧ v.cur.retired = s.cur.retired + 1 ∧
            poisonWord v (spad s.curTile o / 8 * 8) 7 ∧ keepsOutside s v (spad s.curTile o / 8 * 8) (spad s.curTile o / 8 * 8 + 8)) ∧
        (∀ t, farAccess s a 2 t o (2 ^ sz.val) → s.cur.served = [] → s.retryRoom s.curTile 1 = true →
          ∃ v e g, machineCheck s v e ∧ s.checked i = .next v ∧ asked s v t o g ∧ g.op = .store ∧ g.psn = [8])))

open Sys2Proof Sys2Proof.Machine Sys2Proof.Claims in
/-- Slots of replay mode (R364-R366), in a cycle of the core of a placed tile: a slot that a halt ran ahead of is left idle, and so is that of
an owner that is parked or halted, and the pointer moves on; an owner whose line is absent keeps its slot; one in a skip walk spends it on one annulled instruction; a ready owner
issues, as in the other mode but without prefetch. While a halt is requested and every thread is at a boundary no slot is given and the
pointer stands still. -/
def Sys2Proof.Claims.ReplaySlots : Prop :=
  ∀ (s : State) (rest : List Turn) (t : Nat), s.powered = true → s.evo.inReset = false → s.agenda = .core t :: rest →
    let x := s.tile t
    x.region ≠ none → x.fenced = false → x.replay = true → (∀ k i h, k < 8 → (s.thr t k).wait ≠ .ctx i h) →
    let h := x.rot % 8
    let th := s.thr t h
    let stays := fun (u : State) => u.mem = s.mem ∧ (u.tile t).cycle = x.cycle + 1 ∧ ∀ k, k < 8 → k ≠ h → u.thr t k = s.thr t k
    (x.halt = .halting → (∀ k, k < 8 → (s.thr t k).skip = 0 ∧ (s.thr t k).served = []) →
      ∃ u, step s = .next u ∧ stays u ∧ u.thr t h = th ∧ (u.tile t).rot = x.rot) ∧
    (x.halt = .running → th.owed ≠ 0 →
      ∃ u, step s = .next u ∧ stays u ∧ u.thr t h = { th with owed := th.owed - 1 } ∧ (u.tile t).rot = (h + 1) % 8) ∧
    (x.halt = .running → th.owed = 0 →
      (th.run ≠ .rotation → ∃ u, step s = .next u ∧ stays u ∧ u.thr t h = th ∧ (u.tile t).rot = (h + 1) % 8) ∧
      (th.run = .rotation → th.fetchable s.pkg t = true →
        (th.line th.pc = none → ∃ u, step s = .next u ∧ stays u ∧ u.thr t h = th ∧ (u.tile t).rot = x.rot) ∧
        (∀ l, th.line th.pc = some l → lineMalformed l = false →
          (th.skip ≠ 0 → ∃ u, step s = .next u ∧ stays u ∧ u.thr t h = { th with pc := th.succ, skip := th.skip - 1 } ∧
            (u.tile t).rot = (h + 1) % 8) ∧
          (th.skip = 0 → th.breaks = false →
            let s0 : State := { s with agenda := rest, stalled := false }
            let s1 := (s0.tick t).updTile t Tile.nextCycle
            let s2 : State := { s1.updTile t (fun y => { y with rot := (h + 1) % 8 }) with curTile := t, curThr := h }
            let k := th.pc.toNat / 2 % 32
            ∀ i, th.pc.toNat % 2 = 0 → 1 ≤ k → k ≤ lineHeads l → decode (lineHead l k) (lineTail l k) = some i →
              th.recheck = .no → x.mismatch = .no →
              let s3 := atIssue s2
              step s = match exec i s3 with
                | .next s4 =>
                  let s5 := (s2.afterIssue (s3.grantRows s4 i)).endCycle t
                  .next (if s5.stalled then s0 else s5)
                | stop => stop))))

/-- The checker of the core, and the slots of replay mode: FirstMismatch, SecondMismatch, ReplaySlots. Which instructions produce what is as
Table 1.3 and R21 have it; what the checker finds wrong is the model's field Faulty (log 29). -/
def Obligations.CheckerAndReplay : Prop :=
  Sys2Proof.Claims.FirstMismatch ∧ Sys2Proof.Claims.SecondMismatch ∧ Sys2Proof.Claims.ReplaySlots
end

