-- ==== Sys2Proof/Laws/Digest.lean ====
section
/-! SUPPORT. What SHAKE256 gives in length, and the spare map that Evodon stores passes its check. -/
namespace Sys2Proof.Machine
open Sys2Proof

theorem keccakRound_length (a : List Nat) (w : Nat) : (keccakRound a w).length = 25 := by simp [keccakRound]

theorem foldl_keccakRound_length (ws a : List Nat) (h : a.length = 25) : (ws.foldl keccakRound a).length = 25 := by
  induction ws generalizing a with
  | nil => exact h
  | cons w ws ih => exact ih _ (keccakRound_length a w)

theorem absorb_length (n : Nat) (a : List Nat) (m : List Byte) (h : a.length = 25) : (absorb n a m).length = 25 := by
  induction n generalizing a m with
  | zero => exact h
  | succ n ih => exact ih _ _ (foldl_keccakRound_length _ _ (by simp))

@[simp] theorem shake256_length (m : List Byte) : (shake256 m).length = 64 := by
  simp [shake256, List.length_flatMap, absorb_length]

/-- The bytes that Evodon's repairs have stored are the map that its next boot reads (R406). -/
theorem mapOk_mapStore (m : List Spare) (b : BootReport) (h : b.spareMap = mapStore m) : mapOk m b = true := by
  simp [mapOk, h, mapStore]

end Sys2Proof.Machine
end

