-- ==== Sys2Proof/Laws/State.lean ====
section
/-! SUPPORT. One lemma per field per update of the state, of a tile and of a thread. -/
namespace Sys2Proof.Machine

@[simp] theorem State.setTile_agenda (s : State) (t : Nat) (x : Tile) : (s.setTile t x).agenda = s.agenda := rfl
@[simp] theorem State.setTile_free (s : State) (t : Nat) (x : Tile) : (s.setTile t x).free = s.free := rfl
@[simp] theorem State.setTile_curTile (s : State) (t : Nat) (x : Tile) : (s.setTile t x).curTile = s.curTile := rfl
@[simp] theorem State.setTile_curThr (s : State) (t : Nat) (x : Tile) : (s.setTile t x).curThr = s.curThr := rfl
@[simp] theorem State.setTile_rr (s : State) (t : Nat) (x : Tile) : (s.setTile t x).rr = s.rr := rfl
@[simp] theorem State.setTile_beat (s : State) (t : Nat) (x : Tile) : (s.setTile t x).beat = s.beat := rfl
@[simp] theorem State.setTile_powered (s : State) (t : Nat) (x : Tile) : (s.setTile t x).powered = s.powered := rfl
@[simp] theorem State.setTile_pkg (s : State) (t : Nat) (x : Tile) : (s.setTile t x).pkg = s.pkg := rfl
@[simp] theorem State.setTile_dies (s : State) (t : Nat) (x : Tile) : (s.setTile t x).dies = s.dies := rfl
@[simp] theorem State.setTile_mem (s : State) (t : Nat) (x : Tile) : (s.setTile t x).mem = s.mem := rfl
@[simp] theorem State.setTile_full (s : State) (t : Nat) (x : Tile) : (s.setTile t x).full = s.full := rfl
@[simp] theorem State.setTile_psn (s : State) (t : Nat) (x : Tile) : (s.setTile t x).psn = s.psn := rfl
@[simp] theorem State.setTile_tagged (s : State) (t : Nat) (x : Tile) : (s.setTile t x).tagged = s.tagged := rfl
@[simp] theorem State.setTile_errUnc (s : State) (t : Nat) (x : Tile) : (s.setTile t x).errUnc = s.errUnc := rfl
@[simp] theorem State.setTile_errOne (s : State) (t : Nat) (x : Tile) : (s.setTile t x).errOne = s.errOne := rfl
@[simp] theorem State.setTile_errTag (s : State) (t : Nat) (x : Tile) : (s.setTile t x).errTag = s.errTag := rfl
@[simp] theorem State.setTile_keyOf (s : State) (t : Nat) (x : Tile) : (s.setTile t x).keyOf = s.keyOf := rfl
@[simp] theorem State.setTile_keys (s : State) (t : Nat) (x : Tile) : (s.setTile t x).keys = s.keys := rfl
@[simp] theorem State.setTile_keyLoads (s : State) (t : Nat) (x : Tile) : (s.setTile t x).keyLoads = s.keyLoads := rfl
@[simp] theorem State.setTile_keyUsed (s : State) (t : Nat) (x : Tile) : (s.setTile t x).keyUsed = s.keyUsed := rfl
@[simp] theorem State.setTile_stalled (s : State) (t : Nat) (x : Tile) : (s.setTile t x).stalled = s.stalled := rfl
@[simp] theorem State.setTile_batch (s : State) (t : Nat) (x : Tile) : (s.setTile t x).batch = s.batch := rfl
@[simp] theorem State.setTile_clusters (s : State) (t : Nat) (x : Tile) : (s.setTile t x).clusters = s.clusters := rfl
@[simp] theorem State.setTile_routers (s : State) (t : Nat) (x : Tile) : (s.setTile t x).routers = s.routers := rfl
@[simp] theorem State.setTile_ports (s : State) (t : Nat) (x : Tile) : (s.setTile t x).ports = s.ports := rfl
@[simp] theorem State.setTile_portsB (s : State) (t : Nat) (x : Tile) : (s.setTile t x).portsB = s.portsB := rfl
@[simp] theorem State.setTile_portSlots (s : State) (t : Nat) (x : Tile) : (s.setTile t x).portSlots = s.portSlots := rfl
@[simp] theorem State.setTile_sigWaits (s : State) (t : Nat) (x : Tile) : (s.setTile t x).sigWaits = s.sigWaits := rfl
@[simp] theorem State.setTile_agentRetries (s : State) (t : Nat) (x : Tile) : (s.setTile t x).agentRetries = s.agentRetries := rfl
@[simp] theorem State.setTile_tags (s : State) (t : Nat) (x : Tile) : (s.setTile t x).tags = s.tags := rfl
@[simp] theorem State.setTile_lflags (s : State) (t : Nat) (x : Tile) : (s.setTile t x).lflags = s.lflags := rfl
@[simp] theorem State.setTile_ctxs (s : State) (t : Nat) (x : Tile) : (s.setTile t x).ctxs = s.ctxs := rfl
@[simp] theorem State.setTile_subs (s : State) (t : Nat) (x : Tile) : (s.setTile t x).subs = s.subs := rfl
@[simp] theorem State.setTile_crowns (s : State) (t : Nat) (x : Tile) : (s.setTile t x).crowns = s.crowns := rfl
@[simp] theorem State.setTile_launches (s : State) (t : Nat) (x : Tile) : (s.setTile t x).launches = s.launches := rfl
@[simp] theorem State.setTile_launchIds (s : State) (t : Nat) (x : Tile) : (s.setTile t x).launchIds = s.launchIds := rfl
@[simp] theorem State.setTile_orders (s : State) (t : Nat) (x : Tile) : (s.setTile t x).orders = s.orders := rfl
@[simp] theorem State.setTile_firsts (s : State) (t : Nat) (x : Tile) : (s.setTile t x).firsts = s.firsts := rfl
@[simp] theorem State.setTile_images (s : State) (t : Nat) (x : Tile) : (s.setTile t x).images = s.images := rfl
@[simp] theorem State.setTile_held (s : State) (t : Nat) (x : Tile) : (s.setTile t x).held = s.held := rfl
@[simp] theorem State.setTile_invals (s : State) (t : Nat) (x : Tile) : (s.setTile t x).invals = s.invals := rfl
@[simp] theorem State.setTile_training (s : State) (t : Nat) (x : Tile) : (s.setTile t x).training = s.training := rfl
@[simp] theorem State.setTile_hostctx (s : State) (t : Nat) (x : Tile) : (s.setTile t x).hostctx = s.hostctx := rfl
@[simp] theorem State.setTile_io (s : State) (t : Nat) (x : Tile) : (s.setTile t x).io = s.io := rfl
@[simp] theorem State.setTile_atwald (s : State) (t : Nat) (x : Tile) : (s.setTile t x).atwald = s.atwald := rfl
@[simp] theorem State.setTile_eth (s : State) (t : Nat) (x : Tile) : (s.setTile t x).eth = s.eth := rfl
@[simp] theorem State.setTile_rects (s : State) (t : Nat) (x : Tile) : (s.setTile t x).rects = s.rects := rfl
@[simp] theorem State.setTile_loneFences (s : State) (t : Nat) (x : Tile) : (s.setTile t x).loneFences = s.loneFences := rfl
@[simp] theorem State.setTile_scrubPos (s : State) (t : Nat) (x : Tile) : (s.setTile t x).scrubPos = s.scrubPos := rfl
@[simp] theorem State.setTile_evo (s : State) (t : Nat) (x : Tile) : (s.setTile t x).evo = s.evo := rfl
@[simp] theorem State.setTile_ckpt (s : State) (t : Nat) (x : Tile) : (s.setTile t x).ckpt = s.ckpt := rfl
@[simp] theorem State.setTile_tier (s : State) (t : Nat) (x : Tile) : (s.setTile t x).tier = s.tier := rfl
@[simp] theorem State.setTile_replies (s : State) (t : Nat) (x : Tile) : (s.setTile t x).replies = s.replies := rfl
@[simp] theorem State.setTile_deferred (s : State) (t : Nat) (x : Tile) : (s.setTile t x).deferred = s.deferred := rfl
@[simp] theorem State.setTile_hostWaits (s : State) (t : Nat) (x : Tile) : (s.setTile t x).hostWaits = s.hostWaits := rfl
@[simp] theorem State.setTile_fwStatus (s : State) (t : Nat) (x : Tile) : (s.setTile t x).fwStatus = s.fwStatus := rfl

@[simp] theorem State.setCluster_agenda (s : State) (c : Nat) (x : Cluster) : (s.setCluster c x).agenda = s.agenda := rfl
@[simp] theorem State.setCluster_free (s : State) (c : Nat) (x : Cluster) : (s.setCluster c x).free = s.free := rfl
@[simp] theorem State.setCluster_curTile (s : State) (c : Nat) (x : Cluster) : (s.setCluster c x).curTile = s.curTile := rfl
@[simp] theorem State.setCluster_curThr (s : State) (c : Nat) (x : Cluster) : (s.setCluster c x).curThr = s.curThr := rfl
@[simp] theorem State.setCluster_rr (s : State) (c : Nat) (x : Cluster) : (s.setCluster c x).rr = s.rr := rfl
@[simp] theorem State.setCluster_beat (s : State) (c : Nat) (x : Cluster) : (s.setCluster c x).beat = s.beat := rfl
@[simp] theorem State.setCluster_powered (s : State) (c : Nat) (x : Cluster) : (s.setCluster c x).powered = s.powered := rfl
@[simp] theorem State.setCluster_pkg (s : State) (c : Nat) (x : Cluster) : (s.setCluster c x).pkg = s.pkg := rfl
@[simp] theorem State.setCluster_dies (s : State) (c : Nat) (x : Cluster) : (s.setCluster c x).dies = s.dies := rfl
@[simp] theorem State.setCluster_mem (s : State) (c : Nat) (x : Cluster) : (s.setCluster c x).mem = s.mem := rfl
@[simp] theorem State.setCluster_full (s : State) (c : Nat) (x : Cluster) : (s.setCluster c x).full = s.full := rfl
@[simp] theorem State.setCluster_psn (s : State) (c : Nat) (x : Cluster) : (s.setCluster c x).psn = s.psn := rfl
@[simp] theorem State.setCluster_tagged (s : State) (c : Nat) (x : Cluster) : (s.setCluster c x).tagged = s.tagged := rfl
@[simp] theorem State.setCluster_errUnc (s : State) (c : Nat) (x : Cluster) : (s.setCluster c x).errUnc = s.errUnc := rfl
@[simp] theorem State.setCluster_errOne (s : State) (c : Nat) (x : Cluster) : (s.setCluster c x).errOne = s.errOne := rfl
@[simp] theorem State.setCluster_errTag (s : State) (c : Nat) (x : Cluster) : (s.setCluster c x).errTag = s.errTag := rfl
@[simp] theorem State.setCluster_keyOf (s : State) (c : Nat) (x : Cluster) : (s.setCluster c x).keyOf = s.keyOf := rfl
@[simp] theorem State.setCluster_keys (s : State) (c : Nat) (x : Cluster) : (s.setCluster c x).keys = s.keys := rfl
@[simp] theorem State.setCluster_keyLoads (s : State) (c : Nat) (x : Cluster) : (s.setCluster c x).keyLoads = s.keyLoads := rfl
@[simp] theorem State.setCluster_keyUsed (s : State) (c : Nat) (x : Cluster) : (s.setCluster c x).keyUsed = s.keyUsed := rfl
@[simp] theorem State.setCluster_stalled (s : State) (c : Nat) (x : Cluster) : (s.setCluster c x).stalled = s.stalled := rfl
@[simp] theorem State.setCluster_batch (s : State) (c : Nat) (x : Cluster) : (s.setCluster c x).batch = s.batch := rfl
@[simp] theorem State.setCluster_tiles (s : State) (c : Nat) (x : Cluster) : (s.setCluster c x).tiles = s.tiles := rfl
@[simp] theorem State.setCluster_routers (s : State) (c : Nat) (x : Cluster) : (s.setCluster c x).routers = s.routers := rfl
@[simp] theorem State.setCluster_ports (s : State) (c : Nat) (x : Cluster) : (s.setCluster c x).ports = s.ports := rfl
@[simp] theorem State.setCluster_portsB (s : State) (c : Nat) (x : Cluster) : (s.setCluster c x).portsB = s.portsB := rfl
@[simp] theorem State.setCluster_portSlots (s : State) (c : Nat) (x : Cluster) : (s.setCluster c x).portSlots = s.portSlots := rfl
@[simp] theorem State.setCluster_sigWaits (s : State) (c : Nat) (x : Cluster) : (s.setCluster c x).sigWaits = s.sigWaits := rfl
@[simp] theorem State.setCluster_agentRetries (s : State) (c : Nat) (x : Cluster) : (s.setCluster c x).agentRetries = s.agentRetries := rfl
@[simp] theorem State.setCluster_tags (s : State) (c : Nat) (x : Cluster) : (s.setCluster c x).tags = s.tags := rfl
@[simp] theorem State.setCluster_lflags (s : State) (c : Nat) (x : Cluster) : (s.setCluster c x).lflags = s.lflags := rfl
@[simp] theorem State.setCluster_ctxs (s : State) (c : Nat) (x : Cluster) : (s.setCluster c x).ctxs = s.ctxs := rfl
@[simp] theorem State.setCluster_subs (s : State) (c : Nat) (x : Cluster) : (s.setCluster c x).subs = s.subs := rfl
@[simp] theorem State.setCluster_crowns (s : State) (c : Nat) (x : Cluster) : (s.setCluster c x).crowns = s.crowns := rfl
@[simp] theorem State.setCluster_launches (s : State) (c : Nat) (x : Cluster) : (s.setCluster c x).launches = s.launches := rfl
@[simp] theorem State.setCluster_launchIds (s : State) (c : Nat) (x : Cluster) : (s.setCluster c x).launchIds = s.launchIds := rfl
@[simp] theorem State.setCluster_orders (s : State) (c : Nat) (x : Cluster) : (s.setCluster c x).orders = s.orders := rfl
@[simp] theorem State.setCluster_firsts (s : State) (c : Nat) (x : Cluster) : (s.setCluster c x).firsts = s.firsts := rfl
@[simp] theorem State.setCluster_images (s : State) (c : Nat) (x : Cluster) : (s.setCluster c x).images = s.images := rfl
@[simp] theorem State.setCluster_held (s : State) (c : Nat) (x : Cluster) : (s.setCluster c x).held = s.held := rfl
@[simp] theorem State.setCluster_invals (s : State) (c : Nat) (x : Cluster) : (s.setCluster c x).invals = s.invals := rfl
@[simp] theorem State.setCluster_training (s : State) (c : Nat) (x : Cluster) : (s.setCluster c x).training = s.training := rfl
@[simp] theorem State.setCluster_hostctx (s : State) (c : Nat) (x : Cluster) : (s.setCluster c x).hostctx = s.hostctx := rfl
@[simp] theorem State.setCluster_io (s : State) (c : Nat) (x : Cluster) : (s.setCluster c x).io = s.io := rfl
@[simp] theorem State.setCluster_atwald (s : State) (c : Nat) (x : Cluster) : (s.setCluster c x).atwald = s.atwald := rfl
@[simp] theorem State.setCluster_eth (s : State) (c : Nat) (x : Cluster) : (s.setCluster c x).eth = s.eth := rfl
@[simp] theorem State.setCluster_rects (s : State) (c : Nat) (x : Cluster) : (s.setCluster c x).rects = s.rects := rfl
@[simp] theorem State.setCluster_loneFences (s : State) (c : Nat) (x : Cluster) : (s.setCluster c x).loneFences = s.loneFences := rfl
@[simp] theorem State.setCluster_scrubPos (s : State) (c : Nat) (x : Cluster) : (s.setCluster c x).scrubPos = s.scrubPos := rfl
@[simp] theorem State.setCluster_evo (s : State) (c : Nat) (x : Cluster) : (s.setCluster c x).evo = s.evo := rfl
@[simp] theorem State.setCluster_ckpt (s : State) (c : Nat) (x : Cluster) : (s.setCluster c x).ckpt = s.ckpt := rfl
@[simp] theorem State.setCluster_tier (s : State) (c : Nat) (x : Cluster) : (s.setCluster c x).tier = s.tier := rfl
@[simp] theorem State.setCluster_replies (s : State) (c : Nat) (x : Cluster) : (s.setCluster c x).replies = s.replies := rfl
@[simp] theorem State.setCluster_deferred (s : State) (c : Nat) (x : Cluster) : (s.setCluster c x).deferred = s.deferred := rfl
@[simp] theorem State.setCluster_hostWaits (s : State) (c : Nat) (x : Cluster) : (s.setCluster c x).hostWaits = s.hostWaits := rfl
@[simp] theorem State.setCluster_fwStatus (s : State) (c : Nat) (x : Cluster) : (s.setCluster c x).fwStatus = s.fwStatus := rfl

@[simp] theorem State.setRouter_agenda (s : State) (t : Nat) (x : Router) : (s.setRouter t x).agenda = s.agenda := rfl
@[simp] theorem State.setRouter_free (s : State) (t : Nat) (x : Router) : (s.setRouter t x).free = s.free := rfl
@[simp] theorem State.setRouter_curTile (s : State) (t : Nat) (x : Router) : (s.setRouter t x).curTile = s.curTile := rfl
@[simp] theorem State.setRouter_curThr (s : State) (t : Nat) (x : Router) : (s.setRouter t x).curThr = s.curThr := rfl
@[simp] theorem State.setRouter_rr (s : State) (t : Nat) (x : Router) : (s.setRouter t x).rr = s.rr := rfl
@[simp] theorem State.setRouter_beat (s : State) (t : Nat) (x : Router) : (s.setRouter t x).beat = s.beat := rfl
@[simp] theorem State.setRouter_powered (s : State) (t : Nat) (x : Router) : (s.setRouter t x).powered = s.powered := rfl
@[simp] theorem State.setRouter_pkg (s : State) (t : Nat) (x : Router) : (s.setRouter t x).pkg = s.pkg := rfl
@[simp] theorem State.setRouter_dies (s : State) (t : Nat) (x : Router) : (s.setRouter t x).dies = s.dies := rfl
@[simp] theorem State.setRouter_mem (s : State) (t : Nat) (x : Router) : (s.setRouter t x).mem = s.mem := rfl
@[simp] theorem State.setRouter_full (s : State) (t : Nat) (x : Router) : (s.setRouter t x).full = s.full := rfl
@[simp] theorem State.setRouter_psn (s : State) (t : Nat) (x : Router) : (s.setRouter t x).psn = s.psn := rfl
@[simp] theorem State.setRouter_tagged (s : State) (t : Nat) (x : Router) : (s.setRouter t x).tagged = s.tagged := rfl
@[simp] theorem State.setRouter_errUnc (s : State) (t : Nat) (x : Router) : (s.setRouter t x).errUnc = s.errUnc := rfl
@[simp] theorem State.setRouter_errOne (s : State) (t : Nat) (x : Router) : (s.setRouter t x).errOne = s.errOne := rfl
@[simp] theorem State.setRouter_errTag (s : State) (t : Nat) (x : Router) : (s.setRouter t x).errTag = s.errTag := rfl
@[simp] theorem State.setRouter_keyOf (s : State) (t : Nat) (x : Router) : (s.setRouter t x).keyOf = s.keyOf := rfl
@[simp] theorem State.setRouter_keys (s : State) (t : Nat) (x : Router) : (s.setRouter t x).keys = s.keys := rfl
@[simp] theorem State.setRouter_keyLoads (s : State) (t : Nat) (x : Router) : (s.setRouter t x).keyLoads = s.keyLoads := rfl
@[simp] theorem State.setRouter_keyUsed (s : State) (t : Nat) (x : Router) : (s.setRouter t x).keyUsed = s.keyUsed := rfl
@[simp] theorem State.setRouter_stalled (s : State) (t : Nat) (x : Router) : (s.setRouter t x).stalled = s.stalled := rfl
@[simp] theorem State.setRouter_batch (s : State) (t : Nat) (x : Router) : (s.setRouter t x).batch = s.batch := rfl
@[simp] theorem State.setRouter_tiles (s : State) (t : Nat) (x : Router) : (s.setRouter t x).tiles = s.tiles := rfl
@[simp] theorem State.setRouter_clusters (s : State) (t : Nat) (x : Router) : (s.setRouter t x).clusters = s.clusters := rfl
@[simp] theorem State.setRouter_ports (s : State) (t : Nat) (x : Router) : (s.setRouter t x).ports = s.ports := rfl
@[simp] theorem State.setRouter_portsB (s : State) (t : Nat) (x : Router) : (s.setRouter t x).portsB = s.portsB := rfl
@[simp] theorem State.setRouter_portSlots (s : State) (t : Nat) (x : Router) : (s.setRouter t x).portSlots = s.portSlots := rfl
@[simp] theorem State.setRouter_sigWaits (s : State) (t : Nat) (x : Router) : (s.setRouter t x).sigWaits = s.sigWaits := rfl
@[simp] theorem State.setRouter_agentRetries (s : State) (t : Nat) (x : Router) : (s.setRouter t x).agentRetries = s.agentRetries := rfl
@[simp] theorem State.setRouter_tags (s : State) (t : Nat) (x : Router) : (s.setRouter t x).tags = s.tags := rfl
@[simp] theorem State.setRouter_lflags (s : State) (t : Nat) (x : Router) : (s.setRouter t x).lflags = s.lflags := rfl
@[simp] theorem State.setRouter_ctxs (s : State) (t : Nat) (x : Router) : (s.setRouter t x).ctxs = s.ctxs := rfl
@[simp] theorem State.setRouter_subs (s : State) (t : Nat) (x : Router) : (s.setRouter t x).subs = s.subs := rfl
@[simp] theorem State.setRouter_crowns (s : State) (t : Nat) (x : Router) : (s.setRouter t x).crowns = s.crowns := rfl
@[simp] theorem State.setRouter_launches (s : State) (t : Nat) (x : Router) : (s.setRouter t x).launches = s.launches := rfl
@[simp] theorem State.setRouter_launchIds (s : State) (t : Nat) (x : Router) : (s.setRouter t x).launchIds = s.launchIds := rfl
@[simp] theorem State.setRouter_orders (s : State) (t : Nat) (x : Router) : (s.setRouter t x).orders = s.orders := rfl
@[simp] theorem State.setRouter_firsts (s : State) (t : Nat) (x : Router) : (s.setRouter t x).firsts = s.firsts := rfl
@[simp] theorem State.setRouter_images (s : State) (t : Nat) (x : Router) : (s.setRouter t x).images = s.images := rfl
@[simp] theorem State.setRouter_held (s : State) (t : Nat) (x : Router) : (s.setRouter t x).held = s.held := rfl
@[simp] theorem State.setRouter_invals (s : State) (t : Nat) (x : Router) : (s.setRouter t x).invals = s.invals := rfl
@[simp] theorem State.setRouter_training (s : State) (t : Nat) (x : Router) : (s.setRouter t x).training = s.training := rfl
@[simp] theorem State.setRouter_hostctx (s : State) (t : Nat) (x : Router) : (s.setRouter t x).hostctx = s.hostctx := rfl
@[simp] theorem State.setRouter_io (s : State) (t : Nat) (x : Router) : (s.setRouter t x).io = s.io := rfl
@[simp] theorem State.setRouter_atwald (s : State) (t : Nat) (x : Router) : (s.setRouter t x).atwald = s.atwald := rfl
@[simp] theorem State.setRouter_eth (s : State) (t : Nat) (x : Router) : (s.setRouter t x).eth = s.eth := rfl
@[simp] theorem State.setRouter_rects (s : State) (t : Nat) (x : Router) : (s.setRouter t x).rects = s.rects := rfl
@[simp] theorem State.setRouter_loneFences (s : State) (t : Nat) (x : Router) : (s.setRouter t x).loneFences = s.loneFences := rfl
@[simp] theorem State.setRouter_scrubPos (s : State) (t : Nat) (x : Router) : (s.setRouter t x).scrubPos = s.scrubPos := rfl
@[simp] theorem State.setRouter_evo (s : State) (t : Nat) (x : Router) : (s.setRouter t x).evo = s.evo := rfl
@[simp] theorem State.setRouter_ckpt (s : State) (t : Nat) (x : Router) : (s.setRouter t x).ckpt = s.ckpt := rfl
@[simp] theorem State.setRouter_tier (s : State) (t : Nat) (x : Router) : (s.setRouter t x).tier = s.tier := rfl
@[simp] theorem State.setRouter_replies (s : State) (t : Nat) (x : Router) : (s.setRouter t x).replies = s.replies := rfl
@[simp] theorem State.setRouter_deferred (s : State) (t : Nat) (x : Router) : (s.setRouter t x).deferred = s.deferred := rfl
@[simp] theorem State.setRouter_hostWaits (s : State) (t : Nat) (x : Router) : (s.setRouter t x).hostWaits = s.hostWaits := rfl
@[simp] theorem State.setRouter_fwStatus (s : State) (t : Nat) (x : Router) : (s.setRouter t x).fwStatus = s.fwStatus := rfl

@[simp] theorem State.setCtx_agenda (s : State) (c : Nat) (x : Ctx) : (s.setCtx c x).agenda = s.agenda := rfl
@[simp] theorem State.setCtx_free (s : State) (c : Nat) (x : Ctx) : (s.setCtx c x).free = s.free := rfl
@[simp] theorem State.setCtx_curTile (s : State) (c : Nat) (x : Ctx) : (s.setCtx c x).curTile = s.curTile := rfl
@[simp] theorem State.setCtx_curThr (s : State) (c : Nat) (x : Ctx) : (s.setCtx c x).curThr = s.curThr := rfl
@[simp] theorem State.setCtx_rr (s : State) (c : Nat) (x : Ctx) : (s.setCtx c x).rr = s.rr := rfl
@[simp] theorem State.setCtx_beat (s : State) (c : Nat) (x : Ctx) : (s.setCtx c x).beat = s.beat := rfl
@[simp] theorem State.setCtx_powered (s : State) (c : Nat) (x : Ctx) : (s.setCtx c x).powered = s.powered := rfl
@[simp] theorem State.setCtx_pkg (s : State) (c : Nat) (x : Ctx) : (s.setCtx c x).pkg = s.pkg := rfl
@[simp] theorem State.setCtx_dies (s : State) (c : Nat) (x : Ctx) : (s.setCtx c x).dies = s.dies := rfl
@[simp] theorem State.setCtx_mem (s : State) (c : Nat) (x : Ctx) : (s.setCtx c x).mem = s.mem := rfl
@[simp] theorem State.setCtx_full (s : State) (c : Nat) (x : Ctx) : (s.setCtx c x).full = s.full := rfl
@[simp] theorem State.setCtx_psn (s : State) (c : Nat) (x : Ctx) : (s.setCtx c x).psn = s.psn := rfl
@[simp] theorem State.setCtx_tagged (s : State) (c : Nat) (x : Ctx) : (s.setCtx c x).tagged = s.tagged := rfl
@[simp] theorem State.setCtx_errUnc (s : State) (c : Nat) (x : Ctx) : (s.setCtx c x).errUnc = s.errUnc := rfl
@[simp] theorem State.setCtx_errOne (s : State) (c : Nat) (x : Ctx) : (s.setCtx c x).errOne = s.errOne := rfl
@[simp] theorem State.setCtx_errTag (s : State) (c : Nat) (x : Ctx) : (s.setCtx c x).errTag = s.errTag := rfl
@[simp] theorem State.setCtx_keyOf (s : State) (c : Nat) (x : Ctx) : (s.setCtx c x).keyOf = s.keyOf := rfl
@[simp] theorem State.setCtx_keys (s : State) (c : Nat) (x : Ctx) : (s.setCtx c x).keys = s.keys := rfl
@[simp] theorem State.setCtx_keyLoads (s : State) (c : Nat) (x : Ctx) : (s.setCtx c x).keyLoads = s.keyLoads := rfl
@[simp] theorem State.setCtx_keyUsed (s : State) (c : Nat) (x : Ctx) : (s.setCtx c x).keyUsed = s.keyUsed := rfl
@[simp] theorem State.setCtx_stalled (s : State) (c : Nat) (x : Ctx) : (s.setCtx c x).stalled = s.stalled := rfl
@[simp] theorem State.setCtx_batch (s : State) (c : Nat) (x : Ctx) : (s.setCtx c x).batch = s.batch := rfl
@[simp] theorem State.setCtx_tiles (s : State) (c : Nat) (x : Ctx) : (s.setCtx c x).tiles = s.tiles := rfl
@[simp] theorem State.setCtx_clusters (s : State) (c : Nat) (x : Ctx) : (s.setCtx c x).clusters = s.clusters := rfl
@[simp] theorem State.setCtx_routers (s : State) (c : Nat) (x : Ctx) : (s.setCtx c x).routers = s.routers := rfl
@[simp] theorem State.setCtx_ports (s : State) (c : Nat) (x : Ctx) : (s.setCtx c x).ports = s.ports := rfl
@[simp] theorem State.setCtx_portsB (s : State) (c : Nat) (x : Ctx) : (s.setCtx c x).portsB = s.portsB := rfl
@[simp] theorem State.setCtx_portSlots (s : State) (c : Nat) (x : Ctx) : (s.setCtx c x).portSlots = s.portSlots := rfl
@[simp] theorem State.setCtx_sigWaits (s : State) (c : Nat) (x : Ctx) : (s.setCtx c x).sigWaits = s.sigWaits := rfl
@[simp] theorem State.setCtx_agentRetries (s : State) (c : Nat) (x : Ctx) : (s.setCtx c x).agentRetries = s.agentRetries := rfl
@[simp] theorem State.setCtx_tags (s : State) (c : Nat) (x : Ctx) : (s.setCtx c x).tags = s.tags := rfl
@[simp] theorem State.setCtx_lflags (s : State) (c : Nat) (x : Ctx) : (s.setCtx c x).lflags = s.lflags := rfl
@[simp] theorem State.setCtx_subs (s : State) (c : Nat) (x : Ctx) : (s.setCtx c x).subs = s.subs := rfl
@[simp] theorem State.setCtx_crowns (s : State) (c : Nat) (x : Ctx) : (s.setCtx c x).crowns = s.crowns := rfl
@[simp] theorem State.setCtx_launches (s : State) (c : Nat) (x : Ctx) : (s.setCtx c x).launches = s.launches := rfl
@[simp] theorem State.setCtx_launchIds (s : State) (c : Nat) (x : Ctx) : (s.setCtx c x).launchIds = s.launchIds := rfl
@[simp] theorem State.setCtx_orders (s : State) (c : Nat) (x : Ctx) : (s.setCtx c x).orders = s.orders := rfl
@[simp] theorem State.setCtx_firsts (s : State) (c : Nat) (x : Ctx) : (s.setCtx c x).firsts = s.firsts := rfl
@[simp] theorem State.setCtx_images (s : State) (c : Nat) (x : Ctx) : (s.setCtx c x).images = s.images := rfl
@[simp] theorem State.setCtx_held (s : State) (c : Nat) (x : Ctx) : (s.setCtx c x).held = s.held := rfl
@[simp] theorem State.setCtx_invals (s : State) (c : Nat) (x : Ctx) : (s.setCtx c x).invals = s.invals := rfl
@[simp] theorem State.setCtx_training (s : State) (c : Nat) (x : Ctx) : (s.setCtx c x).training = s.training := rfl
@[simp] theorem State.setCtx_hostctx (s : State) (c : Nat) (x : Ctx) : (s.setCtx c x).hostctx = s.hostctx := rfl
@[simp] theorem State.setCtx_io (s : State) (c : Nat) (x : Ctx) : (s.setCtx c x).io = s.io := rfl
@[simp] theorem State.setCtx_atwald (s : State) (c : Nat) (x : Ctx) : (s.setCtx c x).atwald = s.atwald := rfl
@[simp] theorem State.setCtx_eth (s : State) (c : Nat) (x : Ctx) : (s.setCtx c x).eth = s.eth := rfl
@[simp] theorem State.setCtx_rects (s : State) (c : Nat) (x : Ctx) : (s.setCtx c x).rects = s.rects := rfl
@[simp] theorem State.setCtx_loneFences (s : State) (c : Nat) (x : Ctx) : (s.setCtx c x).loneFences = s.loneFences := rfl
@[simp] theorem State.setCtx_scrubPos (s : State) (c : Nat) (x : Ctx) : (s.setCtx c x).scrubPos = s.scrubPos := rfl
@[simp] theorem State.setCtx_evo (s : State) (c : Nat) (x : Ctx) : (s.setCtx c x).evo = s.evo := rfl
@[simp] theorem State.setCtx_ckpt (s : State) (c : Nat) (x : Ctx) : (s.setCtx c x).ckpt = s.ckpt := rfl
@[simp] theorem State.setCtx_tier (s : State) (c : Nat) (x : Ctx) : (s.setCtx c x).tier = s.tier := rfl
@[simp] theorem State.setCtx_replies (s : State) (c : Nat) (x : Ctx) : (s.setCtx c x).replies = s.replies := rfl
@[simp] theorem State.setCtx_deferred (s : State) (c : Nat) (x : Ctx) : (s.setCtx c x).deferred = s.deferred := rfl
@[simp] theorem State.setCtx_hostWaits (s : State) (c : Nat) (x : Ctx) : (s.setCtx c x).hostWaits = s.hostWaits := rfl
@[simp] theorem State.setCtx_fwStatus (s : State) (c : Nat) (x : Ctx) : (s.setCtx c x).fwStatus = s.fwStatus := rfl

@[simp] theorem State.setIo_agenda (s : State) (d : Nat) (x : IoDie) : (s.setIo d x).agenda = s.agenda := rfl
@[simp] theorem State.setIo_free (s : State) (d : Nat) (x : IoDie) : (s.setIo d x).free = s.free := rfl
@[simp] theorem State.setIo_curTile (s : State) (d : Nat) (x : IoDie) : (s.setIo d x).curTile = s.curTile := rfl
@[simp] theorem State.setIo_curThr (s : State) (d : Nat) (x : IoDie) : (s.setIo d x).curThr = s.curThr := rfl
@[simp] theorem State.setIo_rr (s : State) (d : Nat) (x : IoDie) : (s.setIo d x).rr = s.rr := rfl
@[simp] theorem State.setIo_beat (s : State) (d : Nat) (x : IoDie) : (s.setIo d x).beat = s.beat := rfl
@[simp] theorem State.setIo_powered (s : State) (d : Nat) (x : IoDie) : (s.setIo d x).powered = s.powered := rfl
@[simp] theorem State.setIo_pkg (s : State) (d : Nat) (x : IoDie) : (s.setIo d x).pkg = s.pkg := rfl
@[simp] theorem State.setIo_dies (s : State) (d : Nat) (x : IoDie) : (s.setIo d x).dies = s.dies := rfl
@[simp] theorem State.setIo_mem (s : State) (d : Nat) (x : IoDie) : (s.setIo d x).mem = s.mem := rfl
@[simp] theorem State.setIo_full (s : State) (d : Nat) (x : IoDie) : (s.setIo d x).full = s.full := rfl
@[simp] theorem State.setIo_psn (s : State) (d : Nat) (x : IoDie) : (s.setIo d x).psn = s.psn := rfl
@[simp] theorem State.setIo_tagged (s : State) (d : Nat) (x : IoDie) : (s.setIo d x).tagged = s.tagged := rfl
@[simp] theorem State.setIo_errUnc (s : State) (d : Nat) (x : IoDie) : (s.setIo d x).errUnc = s.errUnc := rfl
@[simp] theorem State.setIo_errOne (s : State) (d : Nat) (x : IoDie) : (s.setIo d x).errOne = s.errOne := rfl
@[simp] theorem State.setIo_errTag (s : State) (d : Nat) (x : IoDie) : (s.setIo d x).errTag = s.errTag := rfl
@[simp] theorem State.setIo_keyOf (s : State) (d : Nat) (x : IoDie) : (s.setIo d x).keyOf = s.keyOf := rfl
@[simp] theorem State.setIo_keys (s : State) (d : Nat) (x : IoDie) : (s.setIo d x).keys = s.keys := rfl
@[simp] theorem State.setIo_keyLoads (s : State) (d : Nat) (x : IoDie) : (s.setIo d x).keyLoads = s.keyLoads := rfl
@[simp] theorem State.setIo_keyUsed (s : State) (d : Nat) (x : IoDie) : (s.setIo d x).keyUsed = s.keyUsed := rfl
@[simp] theorem State.setIo_stalled (s : State) (d : Nat) (x : IoDie) : (s.setIo d x).stalled = s.stalled := rfl
@[simp] theorem State.setIo_batch (s : State) (d : Nat) (x : IoDie) : (s.setIo d x).batch = s.batch := rfl
@[simp] theorem State.setIo_tiles (s : State) (d : Nat) (x : IoDie) : (s.setIo d x).tiles = s.tiles := rfl
@[simp] theorem State.setIo_clusters (s : State) (d : Nat) (x : IoDie) : (s.setIo d x).clusters = s.clusters := rfl
@[simp] theorem State.setIo_routers (s : State) (d : Nat) (x : IoDie) : (s.setIo d x).routers = s.routers := rfl
@[simp] theorem State.setIo_ports (s : State) (d : Nat) (x : IoDie) : (s.setIo d x).ports = s.ports := rfl
@[simp] theorem State.setIo_portsB (s : State) (d : Nat) (x : IoDie) : (s.setIo d x).portsB = s.portsB := rfl
@[simp] theorem State.setIo_portSlots (s : State) (d : Nat) (x : IoDie) : (s.setIo d x).portSlots = s.portSlots := rfl
@[simp] theorem State.setIo_sigWaits (s : State) (d : Nat) (x : IoDie) : (s.setIo d x).sigWaits = s.sigWaits := rfl
@[simp] theorem State.setIo_agentRetries (s : State) (d : Nat) (x : IoDie) : (s.setIo d x).agentRetries = s.agentRetries := rfl
@[simp] theorem State.setIo_tags (s : State) (d : Nat) (x : IoDie) : (s.setIo d x).tags = s.tags := rfl
@[simp] theorem State.setIo_lflags (s : State) (d : Nat) (x : IoDie) : (s.setIo d x).lflags = s.lflags := rfl
@[simp] theorem State.setIo_ctxs (s : State) (d : Nat) (x : IoDie) : (s.setIo d x).ctxs = s.ctxs := rfl
@[simp] theorem State.setIo_subs (s : State) (d : Nat) (x : IoDie) : (s.setIo d x).subs = s.subs := rfl
@[simp] theorem State.setIo_crowns (s : State) (d : Nat) (x : IoDie) : (s.setIo d x).crowns = s.crowns := rfl
@[simp] theorem State.setIo_launches (s : State) (d : Nat) (x : IoDie) : (s.setIo d x).launches = s.launches := rfl
@[simp] theorem State.setIo_launchIds (s : State) (d : Nat) (x : IoDie) : (s.setIo d x).launchIds = s.launchIds := rfl
@[simp] theorem State.setIo_orders (s : State) (d : Nat) (x : IoDie) : (s.setIo d x).orders = s.orders := rfl
@[simp] theorem State.setIo_firsts (s : State) (d : Nat) (x : IoDie) : (s.setIo d x).firsts = s.firsts := rfl
@[simp] theorem State.setIo_images (s : State) (d : Nat) (x : IoDie) : (s.setIo d x).images = s.images := rfl
@[simp] theorem State.setIo_held (s : State) (d : Nat) (x : IoDie) : (s.setIo d x).held = s.held := rfl
@[simp] theorem State.setIo_invals (s : State) (d : Nat) (x : IoDie) : (s.setIo d x).invals = s.invals := rfl
@[simp] theorem State.setIo_training (s : State) (d : Nat) (x : IoDie) : (s.setIo d x).training = s.training := rfl
@[simp] theorem State.setIo_hostctx (s : State) (d : Nat) (x : IoDie) : (s.setIo d x).hostctx = s.hostctx := rfl
@[simp] theorem State.setIo_atwald (s : State) (d : Nat) (x : IoDie) : (s.setIo d x).atwald = s.atwald := rfl
@[simp] theorem State.setIo_eth (s : State) (d : Nat) (x : IoDie) : (s.setIo d x).eth = s.eth := rfl
@[simp] theorem State.setIo_rects (s : State) (d : Nat) (x : IoDie) : (s.setIo d x).rects = s.rects := rfl
@[simp] theorem State.setIo_loneFences (s : State) (d : Nat) (x : IoDie) : (s.setIo d x).loneFences = s.loneFences := rfl
@[simp] theorem State.setIo_scrubPos (s : State) (d : Nat) (x : IoDie) : (s.setIo d x).scrubPos = s.scrubPos := rfl
@[simp] theorem State.setIo_evo (s : State) (d : Nat) (x : IoDie) : (s.setIo d x).evo = s.evo := rfl
@[simp] theorem State.setIo_ckpt (s : State) (d : Nat) (x : IoDie) : (s.setIo d x).ckpt = s.ckpt := rfl
@[simp] theorem State.setIo_tier (s : State) (d : Nat) (x : IoDie) : (s.setIo d x).tier = s.tier := rfl
@[simp] theorem State.setIo_replies (s : State) (d : Nat) (x : IoDie) : (s.setIo d x).replies = s.replies := rfl
@[simp] theorem State.setIo_deferred (s : State) (d : Nat) (x : IoDie) : (s.setIo d x).deferred = s.deferred := rfl
@[simp] theorem State.setIo_hostWaits (s : State) (d : Nat) (x : IoDie) : (s.setIo d x).hostWaits = s.hostWaits := rfl
@[simp] theorem State.setIo_fwStatus (s : State) (d : Nat) (x : IoDie) : (s.setIo d x).fwStatus = s.fwStatus := rfl

@[simp] theorem State.setByte_agenda (s : State) (a : Nat) (b : Byte) : (s.setByte a b).agenda = s.agenda := rfl
@[simp] theorem State.setByte_free (s : State) (a : Nat) (b : Byte) : (s.setByte a b).free = s.free := rfl
@[simp] theorem State.setByte_curTile (s : State) (a : Nat) (b : Byte) : (s.setByte a b).curTile = s.curTile := rfl
@[simp] theorem State.setByte_curThr (s : State) (a : Nat) (b : Byte) : (s.setByte a b).curThr = s.curThr := rfl
@[simp] theorem State.setByte_rr (s : State) (a : Nat) (b : Byte) : (s.setByte a b).rr = s.rr := rfl
@[simp] theorem State.setByte_beat (s : State) (a : Nat) (b : Byte) : (s.setByte a b).beat = s.beat := rfl
@[simp] theorem State.setByte_powered (s : State) (a : Nat) (b : Byte) : (s.setByte a b).powered = s.powered := rfl
@[simp] theorem State.setByte_pkg (s : State) (a : Nat) (b : Byte) : (s.setByte a b).pkg = s.pkg := rfl
@[simp] theorem State.setByte_dies (s : State) (a : Nat) (b : Byte) : (s.setByte a b).dies = s.dies := rfl
@[simp] theorem State.setByte_full (s : State) (a : Nat) (b : Byte) : (s.setByte a b).full = s.full := rfl
@[simp] theorem State.setByte_psn (s : State) (a : Nat) (b : Byte) : (s.setByte a b).psn = s.psn := rfl
@[simp] theorem State.setByte_tagged (s : State) (a : Nat) (b : Byte) : (s.setByte a b).tagged = s.tagged := rfl
@[simp] theorem State.setByte_errUnc (s : State) (a : Nat) (b : Byte) : (s.setByte a b).errUnc = s.errUnc := rfl
@[simp] theorem State.setByte_errOne (s : State) (a : Nat) (b : Byte) : (s.setByte a b).errOne = s.errOne := rfl
@[simp] theorem State.setByte_errTag (s : State) (a : Nat) (b : Byte) : (s.setByte a b).errTag = s.errTag := rfl
@[simp] theorem State.setByte_keyOf (s : State) (a : Nat) (b : Byte) : (s.setByte a b).keyOf = s.keyOf := rfl
@[simp] theorem State.setByte_keys (s : State) (a : Nat) (b : Byte) : (s.setByte a b).keys = s.keys := rfl
@[simp] theorem State.setByte_keyLoads (s : State) (a : Nat) (b : Byte) : (s.setByte a b).keyLoads = s.keyLoads := rfl
@[simp] theorem State.setByte_keyUsed (s : State) (a : Nat) (b : Byte) : (s.setByte a b).keyUsed = s.keyUsed := rfl
@[simp] theorem State.setByte_stalled (s : State) (a : Nat) (b : Byte) : (s.setByte a b).stalled = s.stalled := rfl
@[simp] theorem State.setByte_batch (s : State) (a : Nat) (b : Byte) : (s.setByte a b).batch = s.batch := rfl
@[simp] theorem State.setByte_tiles (s : State) (a : Nat) (b : Byte) : (s.setByte a b).tiles = s.tiles := rfl
@[simp] theorem State.setByte_clusters (s : State) (a : Nat) (b : Byte) : (s.setByte a b).clusters = s.clusters := rfl
@[simp] theorem State.setByte_routers (s : State) (a : Nat) (b : Byte) : (s.setByte a b).routers = s.routers := rfl
@[simp] theorem State.setByte_ports (s : State) (a : Nat) (b : Byte) : (s.setByte a b).ports = s.ports := rfl
@[simp] theorem State.setByte_portsB (s : State) (a : Nat) (b : Byte) : (s.setByte a b).portsB = s.portsB := rfl
@[simp] theorem State.setByte_portSlots (s : State) (a : Nat) (b : Byte) : (s.setByte a b).portSlots = s.portSlots := rfl
@[simp] theorem State.setByte_sigWaits (s : State) (a : Nat) (b : Byte) : (s.setByte a b).sigWaits = s.sigWaits := rfl
@[simp] theorem State.setByte_agentRetries (s : State) (a : Nat) (b : Byte) : (s.setByte a b).agentRetries = s.agentRetries := rfl
@[simp] theorem State.setByte_tags (s : State) (a : Nat) (b : Byte) : (s.setByte a b).tags = s.tags := rfl
@[simp] theorem State.setByte_lflags (s : State) (a : Nat) (b : Byte) : (s.setByte a b).lflags = s.lflags := rfl
@[simp] theorem State.setByte_ctxs (s : State) (a : Nat) (b : Byte) : (s.setByte a b).ctxs = s.ctxs := rfl
@[simp] theorem State.setByte_subs (s : State) (a : Nat) (b : Byte) : (s.setByte a b).subs = s.subs := rfl
@[simp] theorem State.setByte_crowns (s : State) (a : Nat) (b : Byte) : (s.setByte a b).crowns = s.crowns := rfl
@[simp] theorem State.setByte_launches (s : State) (a : Nat) (b : Byte) : (s.setByte a b).launches = s.launches := rfl
@[simp] theorem State.setByte_launchIds (s : State) (a : Nat) (b : Byte) : (s.setByte a b).launchIds = s.launchIds := rfl
@[simp] theorem State.setByte_orders (s : State) (a : Nat) (b : Byte) : (s.setByte a b).orders = s.orders := rfl
@[simp] theorem State.setByte_firsts (s : State) (a : Nat) (b : Byte) : (s.setByte a b).firsts = s.firsts := rfl
@[simp] theorem State.setByte_images (s : State) (a : Nat) (b : Byte) : (s.setByte a b).images = s.images := rfl
@[simp] theorem State.setByte_held (s : State) (a : Nat) (b : Byte) : (s.setByte a b).held = s.held := rfl
@[simp] theorem State.setByte_invals (s : State) (a : Nat) (b : Byte) : (s.setByte a b).invals = s.invals := rfl
@[simp] theorem State.setByte_training (s : State) (a : Nat) (b : Byte) : (s.setByte a b).training = s.training := rfl
@[simp] theorem State.setByte_hostctx (s : State) (a : Nat) (b : Byte) : (s.setByte a b).hostctx = s.hostctx := rfl
@[simp] theorem State.setByte_io (s : State) (a : Nat) (b : Byte) : (s.setByte a b).io = s.io := rfl
@[simp] theorem State.setByte_atwald (s : State) (a : Nat) (b : Byte) : (s.setByte a b).atwald = s.atwald := rfl
@[simp] theorem State.setByte_eth (s : State) (a : Nat) (b : Byte) : (s.setByte a b).eth = s.eth := rfl
@[simp] theorem State.setByte_rects (s : State) (a : Nat) (b : Byte) : (s.setByte a b).rects = s.rects := rfl
@[simp] theorem State.setByte_loneFences (s : State) (a : Nat) (b : Byte) : (s.setByte a b).loneFences = s.loneFences := rfl
@[simp] theorem State.setByte_scrubPos (s : State) (a : Nat) (b : Byte) : (s.setByte a b).scrubPos = s.scrubPos := rfl
@[simp] theorem State.setByte_evo (s : State) (a : Nat) (b : Byte) : (s.setByte a b).evo = s.evo := rfl
@[simp] theorem State.setByte_ckpt (s : State) (a : Nat) (b : Byte) : (s.setByte a b).ckpt = s.ckpt := rfl
@[simp] theorem State.setByte_tier (s : State) (a : Nat) (b : Byte) : (s.setByte a b).tier = s.tier := rfl
@[simp] theorem State.setByte_replies (s : State) (a : Nat) (b : Byte) : (s.setByte a b).replies = s.replies := rfl
@[simp] theorem State.setByte_deferred (s : State) (a : Nat) (b : Byte) : (s.setByte a b).deferred = s.deferred := rfl
@[simp] theorem State.setByte_hostWaits (s : State) (a : Nat) (b : Byte) : (s.setByte a b).hostWaits = s.hostWaits := rfl
@[simp] theorem State.setByte_fwStatus (s : State) (a : Nat) (b : Byte) : (s.setByte a b).fwStatus = s.fwStatus := rfl

@[simp] theorem State.setFe_agenda (s : State) (a : Nat) (b : Bool) : (s.setFe a b).agenda = s.agenda := rfl
@[simp] theorem State.setFe_free (s : State) (a : Nat) (b : Bool) : (s.setFe a b).free = s.free := rfl
@[simp] theorem State.setFe_curTile (s : State) (a : Nat) (b : Bool) : (s.setFe a b).curTile = s.curTile := rfl
@[simp] theorem State.setFe_curThr (s : State) (a : Nat) (b : Bool) : (s.setFe a b).curThr = s.curThr := rfl
@[simp] theorem State.setFe_rr (s : State) (a : Nat) (b : Bool) : (s.setFe a b).rr = s.rr := rfl
@[simp] theorem State.setFe_beat (s : State) (a : Nat) (b : Bool) : (s.setFe a b).beat = s.beat := rfl
@[simp] theorem State.setFe_powered (s : State) (a : Nat) (b : Bool) : (s.setFe a b).powered = s.powered := rfl
@[simp] theorem State.setFe_pkg (s : State) (a : Nat) (b : Bool) : (s.setFe a b).pkg = s.pkg := rfl
@[simp] theorem State.setFe_dies (s : State) (a : Nat) (b : Bool) : (s.setFe a b).dies = s.dies := rfl
@[simp] theorem State.setFe_mem (s : State) (a : Nat) (b : Bool) : (s.setFe a b).mem = s.mem := rfl
@[simp] theorem State.setFe_psn (s : State) (a : Nat) (b : Bool) : (s.setFe a b).psn = s.psn := rfl
@[simp] theorem State.setFe_tagged (s : State) (a : Nat) (b : Bool) : (s.setFe a b).tagged = s.tagged := rfl
@[simp] theorem State.setFe_errUnc (s : State) (a : Nat) (b : Bool) : (s.setFe a b).errUnc = s.errUnc := rfl
@[simp] theorem State.setFe_errOne (s : State) (a : Nat) (b : Bool) : (s.setFe a b).errOne = s.errOne := rfl
@[simp] theorem State.setFe_errTag (s : State) (a : Nat) (b : Bool) : (s.setFe a b).errTag = s.errTag := rfl
@[simp] theorem State.setFe_keyOf (s : State) (a : Nat) (b : Bool) : (s.setFe a b).keyOf = s.keyOf := rfl
@[simp] theorem State.setFe_keys (s : State) (a : Nat) (b : Bool) : (s.setFe a b).keys = s.keys := rfl
@[simp] theorem State.setFe_keyLoads (s : State) (a : Nat) (b : Bool) : (s.setFe a b).keyLoads = s.keyLoads := rfl
@[simp] theorem State.setFe_keyUsed (s : State) (a : Nat) (b : Bool) : (s.setFe a b).keyUsed = s.keyUsed := rfl
@[simp] theorem State.setFe_stalled (s : State) (a : Nat) (b : Bool) : (s.setFe a b).stalled = s.stalled := rfl
@[simp] theorem State.setFe_batch (s : State) (a : Nat) (b : Bool) : (s.setFe a b).batch = s.batch := rfl
@[simp] theorem State.setFe_tiles (s : State) (a : Nat) (b : Bool) : (s.setFe a b).tiles = s.tiles := rfl
@[simp] theorem State.setFe_clusters (s : State) (a : Nat) (b : Bool) : (s.setFe a b).clusters = s.clusters := rfl
@[simp] theorem State.setFe_routers (s : State) (a : Nat) (b : Bool) : (s.setFe a b).routers = s.routers := rfl
@[simp] theorem State.setFe_ports (s : State) (a : Nat) (b : Bool) : (s.setFe a b).ports = s.ports := rfl
@[simp] theorem State.setFe_portsB (s : State) (a : Nat) (b : Bool) : (s.setFe a b).portsB = s.portsB := rfl
@[simp] theorem State.setFe_portSlots (s : State) (a : Nat) (b : Bool) : (s.setFe a b).portSlots = s.portSlots := rfl
@[simp] theorem State.setFe_sigWaits (s : State) (a : Nat) (b : Bool) : (s.setFe a b).sigWaits = s.sigWaits := rfl
@[simp] theorem State.setFe_agentRetries (s : State) (a : Nat) (b : Bool) : (s.setFe a b).agentRetries = s.agentRetries := rfl
@[simp] theorem State.setFe_tags (s : State) (a : Nat) (b : Bool) : (s.setFe a b).tags = s.tags := rfl
@[simp] theorem State.setFe_lflags (s : State) (a : Nat) (b : Bool) : (s.setFe a b).lflags = s.lflags := rfl
@[simp] theorem State.setFe_ctxs (s : State) (a : Nat) (b : Bool) : (s.setFe a b).ctxs = s.ctxs := rfl
@[simp] theorem State.setFe_subs (s : State) (a : Nat) (b : Bool) : (s.setFe a b).subs = s.subs := rfl
@[simp] theorem State.setFe_crowns (s : State) (a : Nat) (b : Bool) : (s.setFe a b).crowns = s.crowns := rfl
@[simp] theorem State.setFe_launches (s : State) (a : Nat) (b : Bool) : (s.setFe a b).launches = s.launches := rfl
@[simp] theorem State.setFe_launchIds (s : State) (a : Nat) (b : Bool) : (s.setFe a b).launchIds = s.launchIds := rfl
@[simp] theorem State.setFe_orders (s : State) (a : Nat) (b : Bool) : (s.setFe a b).orders = s.orders := rfl
@[simp] theorem State.setFe_firsts (s : State) (a : Nat) (b : Bool) : (s.setFe a b).firsts = s.firsts := rfl
@[simp] theorem State.setFe_images (s : State) (a : Nat) (b : Bool) : (s.setFe a b).images = s.images := rfl
@[simp] theorem State.setFe_held (s : State) (a : Nat) (b : Bool) : (s.setFe a b).held = s.held := rfl
@[simp] theorem State.setFe_invals (s : State) (a : Nat) (b : Bool) : (s.setFe a b).invals = s.invals := rfl
@[simp] theorem State.setFe_training (s : State) (a : Nat) (b : Bool) : (s.setFe a b).training = s.training := rfl
@[simp] theorem State.setFe_hostctx (s : State) (a : Nat) (b : Bool) : (s.setFe a b).hostctx = s.hostctx := rfl
@[simp] theorem State.setFe_io (s : State) (a : Nat) (b : Bool) : (s.setFe a b).io = s.io := rfl
@[simp] theorem State.setFe_atwald (s : State) (a : Nat) (b : Bool) : (s.setFe a b).atwald = s.atwald := rfl
@[simp] theorem State.setFe_eth (s : State) (a : Nat) (b : Bool) : (s.setFe a b).eth = s.eth := rfl
@[simp] theorem State.setFe_rects (s : State) (a : Nat) (b : Bool) : (s.setFe a b).rects = s.rects := rfl
@[simp] theorem State.setFe_loneFences (s : State) (a : Nat) (b : Bool) : (s.setFe a b).loneFences = s.loneFences := rfl
@[simp] theorem State.setFe_scrubPos (s : State) (a : Nat) (b : Bool) : (s.setFe a b).scrubPos = s.scrubPos := rfl
@[simp] theorem State.setFe_evo (s : State) (a : Nat) (b : Bool) : (s.setFe a b).evo = s.evo := rfl
@[simp] theorem State.setFe_ckpt (s : State) (a : Nat) (b : Bool) : (s.setFe a b).ckpt = s.ckpt := rfl
@[simp] theorem State.setFe_tier (s : State) (a : Nat) (b : Bool) : (s.setFe a b).tier = s.tier := rfl
@[simp] theorem State.setFe_replies (s : State) (a : Nat) (b : Bool) : (s.setFe a b).replies = s.replies := rfl
@[simp] theorem State.setFe_deferred (s : State) (a : Nat) (b : Bool) : (s.setFe a b).deferred = s.deferred := rfl
@[simp] theorem State.setFe_hostWaits (s : State) (a : Nat) (b : Bool) : (s.setFe a b).hostWaits = s.hostWaits := rfl
@[simp] theorem State.setFe_fwStatus (s : State) (a : Nat) (b : Bool) : (s.setFe a b).fwStatus = s.fwStatus := rfl

@[simp] theorem State.setPoisoned_agenda (s : State) (a : Nat) (b : Bool) : (s.setPoisoned a b).agenda = s.agenda := rfl
@[simp] theorem State.setPoisoned_free (s : State) (a : Nat) (b : Bool) : (s.setPoisoned a b).free = s.free := rfl
@[simp] theorem State.setPoisoned_curTile (s : State) (a : Nat) (b : Bool) : (s.setPoisoned a b).curTile = s.curTile := rfl
@[simp] theorem State.setPoisoned_curThr (s : State) (a : Nat) (b : Bool) : (s.setPoisoned a b).curThr = s.curThr := rfl
@[simp] theorem State.setPoisoned_rr (s : State) (a : Nat) (b : Bool) : (s.setPoisoned a b).rr = s.rr := rfl
@[simp] theorem State.setPoisoned_beat (s : State) (a : Nat) (b : Bool) : (s.setPoisoned a b).beat = s.beat := rfl
@[simp] theorem State.setPoisoned_powered (s : State) (a : Nat) (b : Bool) : (s.setPoisoned a b).powered = s.powered := rfl
@[simp] theorem State.setPoisoned_pkg (s : State) (a : Nat) (b : Bool) : (s.setPoisoned a b).pkg = s.pkg := rfl
@[simp] theorem State.setPoisoned_dies (s : State) (a : Nat) (b : Bool) : (s.setPoisoned a b).dies = s.dies := rfl
@[simp] theorem State.setPoisoned_mem (s : State) (a : Nat) (b : Bool) : (s.setPoisoned a b).mem = s.mem := rfl
@[simp] theorem State.setPoisoned_full (s : State) (a : Nat) (b : Bool) : (s.setPoisoned a b).full = s.full := rfl
@[simp] theorem State.setPoisoned_tagged (s : State) (a : Nat) (b : Bool) : (s.setPoisoned a b).tagged = s.tagged := rfl
@[simp] theorem State.setPoisoned_errUnc (s : State) (a : Nat) (b : Bool) : (s.setPoisoned a b).errUnc = s.errUnc := rfl
@[simp] theorem State.setPoisoned_errOne (s : State) (a : Nat) (b : Bool) : (s.setPoisoned a b).errOne = s.errOne := rfl
@[simp] theorem State.setPoisoned_errTag (s : State) (a : Nat) (b : Bool) : (s.setPoisoned a b).errTag = s.errTag := rfl
@[simp] theorem State.setPoisoned_keyOf (s : State) (a : Nat) (b : Bool) : (s.setPoisoned a b).keyOf = s.keyOf := rfl
@[simp] theorem State.setPoisoned_keys (s : State) (a : Nat) (b : Bool) : (s.setPoisoned a b).keys = s.keys := rfl
@[simp] theorem State.setPoisoned_keyLoads (s : State) (a : Nat) (b : Bool) : (s.setPoisoned a b).keyLoads = s.keyLoads := rfl
@[simp] theorem State.setPoisoned_keyUsed (s : State) (a : Nat) (b : Bool) : (s.setPoisoned a b).keyUsed = s.keyUsed := rfl
@[simp] theorem State.setPoisoned_stalled (s : State) (a : Nat) (b : Bool) : (s.setPoisoned a b).stalled = s.stalled := rfl
@[simp] theorem State.setPoisoned_batch (s : State) (a : Nat) (b : Bool) : (s.setPoisoned a b).batch = s.batch := rfl
@[simp] theorem State.setPoisoned_tiles (s : State) (a : Nat) (b : Bool) : (s.setPoisoned a b).tiles = s.tiles := rfl
@[simp] theorem State.setPoisoned_clusters (s : State) (a : Nat) (b : Bool) : (s.setPoisoned a b).clusters = s.clusters := rfl
@[simp] theorem State.setPoisoned_routers (s : State) (a : Nat) (b : Bool) : (s.setPoisoned a b).routers = s.routers := rfl
@[simp] theorem State.setPoisoned_ports (s : State) (a : Nat) (b : Bool) : (s.setPoisoned a b).ports = s.ports := rfl
@[simp] theorem State.setPoisoned_portsB (s : State) (a : Nat) (b : Bool) : (s.setPoisoned a b).portsB = s.portsB := rfl
@[simp] theorem State.setPoisoned_portSlots (s : State) (a : Nat) (b : Bool) : (s.setPoisoned a b).portSlots = s.portSlots := rfl
@[simp] theorem State.setPoisoned_sigWaits (s : State) (a : Nat) (b : Bool) : (s.setPoisoned a b).sigWaits = s.sigWaits := rfl
@[simp] theorem State.setPoisoned_agentRetries (s : State) (a : Nat) (b : Bool) : (s.setPoisoned a b).agentRetries = s.agentRetries := rfl
@[simp] theorem State.setPoisoned_tags (s : State) (a : Nat) (b : Bool) : (s.setPoisoned a b).tags = s.tags := rfl
@[simp] theorem State.setPoisoned_lflags (s : State) (a : Nat) (b : Bool) : (s.setPoisoned a b).lflags = s.lflags := rfl
@[simp] theorem State.setPoisoned_ctxs (s : State) (a : Nat) (b : Bool) : (s.setPoisoned a b).ctxs = s.ctxs := rfl
@[simp] theorem State.setPoisoned_subs (s : State) (a : Nat) (b : Bool) : (s.setPoisoned a b).subs = s.subs := rfl
@[simp] theorem State.setPoisoned_crowns (s : State) (a : Nat) (b : Bool) : (s.setPoisoned a b).crowns = s.crowns := rfl
@[simp] theorem State.setPoisoned_launches (s : State) (a : Nat) (b : Bool) : (s.setPoisoned a b).launches = s.launches := rfl
@[simp] theorem State.setPoisoned_launchIds (s : State) (a : Nat) (b : Bool) : (s.setPoisoned a b).launchIds = s.launchIds := rfl
@[simp] theorem State.setPoisoned_orders (s : State) (a : Nat) (b : Bool) : (s.setPoisoned a b).orders = s.orders := rfl
@[simp] theorem State.setPoisoned_firsts (s : State) (a : Nat) (b : Bool) : (s.setPoisoned a b).firsts = s.firsts := rfl
@[simp] theorem State.setPoisoned_images (s : State) (a : Nat) (b : Bool) : (s.setPoisoned a b).images = s.images := rfl
@[simp] theorem State.setPoisoned_held (s : State) (a : Nat) (b : Bool) : (s.setPoisoned a b).held = s.held := rfl
@[simp] theorem State.setPoisoned_invals (s : State) (a : Nat) (b : Bool) : (s.setPoisoned a b).invals = s.invals := rfl
@[simp] theorem State.setPoisoned_training (s : State) (a : Nat) (b : Bool) : (s.setPoisoned a b).training = s.training := rfl
@[simp] theorem State.setPoisoned_hostctx (s : State) (a : Nat) (b : Bool) : (s.setPoisoned a b).hostctx = s.hostctx := rfl
@[simp] theorem State.setPoisoned_io (s : State) (a : Nat) (b : Bool) : (s.setPoisoned a b).io = s.io := rfl
@[simp] theorem State.setPoisoned_atwald (s : State) (a : Nat) (b : Bool) : (s.setPoisoned a b).atwald = s.atwald := rfl
@[simp] theorem State.setPoisoned_eth (s : State) (a : Nat) (b : Bool) : (s.setPoisoned a b).eth = s.eth := rfl
@[simp] theorem State.setPoisoned_rects (s : State) (a : Nat) (b : Bool) : (s.setPoisoned a b).rects = s.rects := rfl
@[simp] theorem State.setPoisoned_loneFences (s : State) (a : Nat) (b : Bool) : (s.setPoisoned a b).loneFences = s.loneFences := rfl
@[simp] theorem State.setPoisoned_scrubPos (s : State) (a : Nat) (b : Bool) : (s.setPoisoned a b).scrubPos = s.scrubPos := rfl
@[simp] theorem State.setPoisoned_evo (s : State) (a : Nat) (b : Bool) : (s.setPoisoned a b).evo = s.evo := rfl
@[simp] theorem State.setPoisoned_ckpt (s : State) (a : Nat) (b : Bool) : (s.setPoisoned a b).ckpt = s.ckpt := rfl
@[simp] theorem State.setPoisoned_tier (s : State) (a : Nat) (b : Bool) : (s.setPoisoned a b).tier = s.tier := rfl
@[simp] theorem State.setPoisoned_replies (s : State) (a : Nat) (b : Bool) : (s.setPoisoned a b).replies = s.replies := rfl
@[simp] theorem State.setPoisoned_deferred (s : State) (a : Nat) (b : Bool) : (s.setPoisoned a b).deferred = s.deferred := rfl
@[simp] theorem State.setPoisoned_hostWaits (s : State) (a : Nat) (b : Bool) : (s.setPoisoned a b).hostWaits = s.hostWaits := rfl
@[simp] theorem State.setPoisoned_fwStatus (s : State) (a : Nat) (b : Bool) : (s.setPoisoned a b).fwStatus = s.fwStatus := rfl

@[simp] theorem State.setTagAt_agenda (s : State) (a : Nat) (b : Bool) : (s.setTagAt a b).agenda = s.agenda := rfl
@[simp] theorem State.setTagAt_free (s : State) (a : Nat) (b : Bool) : (s.setTagAt a b).free = s.free := rfl
@[simp] theorem State.setTagAt_curTile (s : State) (a : Nat) (b : Bool) : (s.setTagAt a b).curTile = s.curTile := rfl
@[simp] theorem State.setTagAt_curThr (s : State) (a : Nat) (b : Bool) : (s.setTagAt a b).curThr = s.curThr := rfl
@[simp] theorem State.setTagAt_rr (s : State) (a : Nat) (b : Bool) : (s.setTagAt a b).rr = s.rr := rfl
@[simp] theorem State.setTagAt_beat (s : State) (a : Nat) (b : Bool) : (s.setTagAt a b).beat = s.beat := rfl
@[simp] theorem State.setTagAt_powered (s : State) (a : Nat) (b : Bool) : (s.setTagAt a b).powered = s.powered := rfl
@[simp] theorem State.setTagAt_pkg (s : State) (a : Nat) (b : Bool) : (s.setTagAt a b).pkg = s.pkg := rfl
@[simp] theorem State.setTagAt_dies (s : State) (a : Nat) (b : Bool) : (s.setTagAt a b).dies = s.dies := rfl
@[simp] theorem State.setTagAt_mem (s : State) (a : Nat) (b : Bool) : (s.setTagAt a b).mem = s.mem := rfl
@[simp] theorem State.setTagAt_full (s : State) (a : Nat) (b : Bool) : (s.setTagAt a b).full = s.full := rfl
@[simp] theorem State.setTagAt_psn (s : State) (a : Nat) (b : Bool) : (s.setTagAt a b).psn = s.psn := rfl
@[simp] theorem State.setTagAt_errUnc (s : State) (a : Nat) (b : Bool) : (s.setTagAt a b).errUnc = s.errUnc := rfl
@[simp] theorem State.setTagAt_errOne (s : State) (a : Nat) (b : Bool) : (s.setTagAt a b).errOne = s.errOne := rfl
@[simp] theorem State.setTagAt_keyOf (s : State) (a : Nat) (b : Bool) : (s.setTagAt a b).keyOf = s.keyOf := rfl
@[simp] theorem State.setTagAt_keys (s : State) (a : Nat) (b : Bool) : (s.setTagAt a b).keys = s.keys := rfl
@[simp] theorem State.setTagAt_keyLoads (s : State) (a : Nat) (b : Bool) : (s.setTagAt a b).keyLoads = s.keyLoads := rfl
@[simp] theorem State.setTagAt_keyUsed (s : State) (a : Nat) (b : Bool) : (s.setTagAt a b).keyUsed = s.keyUsed := rfl
@[simp] theorem State.setTagAt_stalled (s : State) (a : Nat) (b : Bool) : (s.setTagAt a b).stalled = s.stalled := rfl
@[simp] theorem State.setTagAt_batch (s : State) (a : Nat) (b : Bool) : (s.setTagAt a b).batch = s.batch := rfl
@[simp] theorem State.setTagAt_tiles (s : State) (a : Nat) (b : Bool) : (s.setTagAt a b).tiles = s.tiles := rfl
@[simp] theorem State.setTagAt_clusters (s : State) (a : Nat) (b : Bool) : (s.setTagAt a b).clusters = s.clusters := rfl
@[simp] theorem State.setTagAt_routers (s : State) (a : Nat) (b : Bool) : (s.setTagAt a b).routers = s.routers := rfl
@[simp] theorem State.setTagAt_ports (s : State) (a : Nat) (b : Bool) : (s.setTagAt a b).ports = s.ports := rfl
@[simp] theorem State.setTagAt_portsB (s : State) (a : Nat) (b : Bool) : (s.setTagAt a b).portsB = s.portsB := rfl
@[simp] theorem State.setTagAt_portSlots (s : State) (a : Nat) (b : Bool) : (s.setTagAt a b).portSlots = s.portSlots := rfl
@[simp] theorem State.setTagAt_sigWaits (s : State) (a : Nat) (b : Bool) : (s.setTagAt a b).sigWaits = s.sigWaits := rfl
@[simp] theorem State.setTagAt_agentRetries (s : State) (a : Nat) (b : Bool) : (s.setTagAt a b).agentRetries = s.agentRetries := rfl
@[simp] theorem State.setTagAt_tags (s : State) (a : Nat) (b : Bool) : (s.setTagAt a b).tags = s.tags := rfl
@[simp] theorem State.setTagAt_lflags (s : State) (a : Nat) (b : Bool) : (s.setTagAt a b).lflags = s.lflags := rfl
@[simp] theorem State.setTagAt_ctxs (s : State) (a : Nat) (b : Bool) : (s.setTagAt a b).ctxs = s.ctxs := rfl
@[simp] theorem State.setTagAt_subs (s : State) (a : Nat) (b : Bool) : (s.setTagAt a b).subs = s.subs := rfl
@[simp] theorem State.setTagAt_crowns (s : State) (a : Nat) (b : Bool) : (s.setTagAt a b).crowns = s.crowns := rfl
@[simp] theorem State.setTagAt_launches (s : State) (a : Nat) (b : Bool) : (s.setTagAt a b).launches = s.launches := rfl
@[simp] theorem State.setTagAt_launchIds (s : State) (a : Nat) (b : Bool) : (s.setTagAt a b).launchIds = s.launchIds := rfl
@[simp] theorem State.setTagAt_orders (s : State) (a : Nat) (b : Bool) : (s.setTagAt a b).orders = s.orders := rfl
@[simp] theorem State.setTagAt_firsts (s : State) (a : Nat) (b : Bool) : (s.setTagAt a b).firsts = s.firsts := rfl
@[simp] theorem State.setTagAt_images (s : State) (a : Nat) (b : Bool) : (s.setTagAt a b).images = s.images := rfl
@[simp] theorem State.setTagAt_held (s : State) (a : Nat) (b : Bool) : (s.setTagAt a b).held = s.held := rfl
@[simp] theorem State.setTagAt_invals (s : State) (a : Nat) (b : Bool) : (s.setTagAt a b).invals = s.invals := rfl
@[simp] theorem State.setTagAt_training (s : State) (a : Nat) (b : Bool) : (s.setTagAt a b).training = s.training := rfl
@[simp] theorem State.setTagAt_hostctx (s : State) (a : Nat) (b : Bool) : (s.setTagAt a b).hostctx = s.hostctx := rfl
@[simp] theorem State.setTagAt_io (s : State) (a : Nat) (b : Bool) : (s.setTagAt a b).io = s.io := rfl
@[simp] theorem State.setTagAt_atwald (s : State) (a : Nat) (b : Bool) : (s.setTagAt a b).atwald = s.atwald := rfl
@[simp] theorem State.setTagAt_eth (s : State) (a : Nat) (b : Bool) : (s.setTagAt a b).eth = s.eth := rfl
@[simp] theorem State.setTagAt_rects (s : State) (a : Nat) (b : Bool) : (s.setTagAt a b).rects = s.rects := rfl
@[simp] theorem State.setTagAt_loneFences (s : State) (a : Nat) (b : Bool) : (s.setTagAt a b).loneFences = s.loneFences := rfl
@[simp] theorem State.setTagAt_scrubPos (s : State) (a : Nat) (b : Bool) : (s.setTagAt a b).scrubPos = s.scrubPos := rfl
@[simp] theorem State.setTagAt_evo (s : State) (a : Nat) (b : Bool) : (s.setTagAt a b).evo = s.evo := rfl
@[simp] theorem State.setTagAt_ckpt (s : State) (a : Nat) (b : Bool) : (s.setTagAt a b).ckpt = s.ckpt := rfl
@[simp] theorem State.setTagAt_tier (s : State) (a : Nat) (b : Bool) : (s.setTagAt a b).tier = s.tier := rfl
@[simp] theorem State.setTagAt_replies (s : State) (a : Nat) (b : Bool) : (s.setTagAt a b).replies = s.replies := rfl
@[simp] theorem State.setTagAt_deferred (s : State) (a : Nat) (b : Bool) : (s.setTagAt a b).deferred = s.deferred := rfl
@[simp] theorem State.setTagAt_hostWaits (s : State) (a : Nat) (b : Bool) : (s.setTagAt a b).hostWaits = s.hostWaits := rfl
@[simp] theorem State.setTagAt_fwStatus (s : State) (a : Nat) (b : Bool) : (s.setTagAt a b).fwStatus = s.fwStatus := rfl

@[simp] theorem State.updTile_agenda (s : State) (t : Nat) (f : Tile → Tile) : (s.updTile t f).agenda = s.agenda := rfl
@[simp] theorem State.updTile_free (s : State) (t : Nat) (f : Tile → Tile) : (s.updTile t f).free = s.free := rfl
@[simp] theorem State.updTile_curTile (s : State) (t : Nat) (f : Tile → Tile) : (s.updTile t f).curTile = s.curTile := rfl
@[simp] theorem State.updTile_curThr (s : State) (t : Nat) (f : Tile → Tile) : (s.updTile t f).curThr = s.curThr := rfl
@[simp] theorem State.updTile_rr (s : State) (t : Nat) (f : Tile → Tile) : (s.updTile t f).rr = s.rr := rfl
@[simp] theorem State.updTile_beat (s : State) (t : Nat) (f : Tile → Tile) : (s.updTile t f).beat = s.beat := rfl
@[simp] theorem State.updTile_powered (s : State) (t : Nat) (f : Tile → Tile) : (s.updTile t f).powered = s.powered := rfl
@[simp] theorem State.updTile_pkg (s : State) (t : Nat) (f : Tile → Tile) : (s.updTile t f).pkg = s.pkg := rfl
@[simp] theorem State.updTile_dies (s : State) (t : Nat) (f : Tile → Tile) : (s.updTile t f).dies = s.dies := rfl
@[simp] theorem State.updTile_mem (s : State) (t : Nat) (f : Tile → Tile) : (s.updTile t f).mem = s.mem := rfl
@[simp] theorem State.updTile_full (s : State) (t : Nat) (f : Tile → Tile) : (s.updTile t f).full = s.full := rfl
@[simp] theorem State.updTile_psn (s : State) (t : Nat) (f : Tile → Tile) : (s.updTile t f).psn = s.psn := rfl
@[simp] theorem State.updTile_tagged (s : State) (t : Nat) (f : Tile → Tile) : (s.updTile t f).tagged = s.tagged := rfl
@[simp] theorem State.updTile_errUnc (s : State) (t : Nat) (f : Tile → Tile) : (s.updTile t f).errUnc = s.errUnc := rfl
@[simp] theorem State.updTile_errOne (s : State) (t : Nat) (f : Tile → Tile) : (s.updTile t f).errOne = s.errOne := rfl
@[simp] theorem State.updTile_errTag (s : State) (t : Nat) (f : Tile → Tile) : (s.updTile t f).errTag = s.errTag := rfl
@[simp] theorem State.updTile_keyOf (s : State) (t : Nat) (f : Tile → Tile) : (s.updTile t f).keyOf = s.keyOf := rfl
@[simp] theorem State.updTile_keys (s : State) (t : Nat) (f : Tile → Tile) : (s.updTile t f).keys = s.keys := rfl
@[simp] theorem State.updTile_keyLoads (s : State) (t : Nat) (f : Tile → Tile) : (s.updTile t f).keyLoads = s.keyLoads := rfl
@[simp] theorem State.updTile_keyUsed (s : State) (t : Nat) (f : Tile → Tile) : (s.updTile t f).keyUsed = s.keyUsed := rfl
@[simp] theorem State.updTile_stalled (s : State) (t : Nat) (f : Tile → Tile) : (s.updTile t f).stalled = s.stalled := rfl
@[simp] theorem State.updTile_batch (s : State) (t : Nat) (f : Tile → Tile) : (s.updTile t f).batch = s.batch := rfl
@[simp] theorem State.updTile_clusters (s : State) (t : Nat) (f : Tile → Tile) : (s.updTile t f).clusters = s.clusters := rfl
@[simp] theorem State.updTile_routers (s : State) (t : Nat) (f : Tile → Tile) : (s.updTile t f).routers = s.routers := rfl
@[simp] theorem State.updTile_ports (s : State) (t : Nat) (f : Tile → Tile) : (s.updTile t f).ports = s.ports := rfl
@[simp] theorem State.updTile_portsB (s : State) (t : Nat) (f : Tile → Tile) : (s.updTile t f).portsB = s.portsB := rfl
@[simp] theorem State.updTile_portSlots (s : State) (t : Nat) (f : Tile → Tile) : (s.updTile t f).portSlots = s.portSlots := rfl
@[simp] theorem State.updTile_sigWaits (s : State) (t : Nat) (f : Tile → Tile) : (s.updTile t f).sigWaits = s.sigWaits := rfl
@[simp] theorem State.updTile_agentRetries (s : State) (t : Nat) (f : Tile → Tile) : (s.updTile t f).agentRetries = s.agentRetries := rfl
@[simp] theorem State.updTile_tags (s : State) (t : Nat) (f : Tile → Tile) : (s.updTile t f).tags = s.tags := rfl
@[simp] theorem State.updTile_lflags (s : State) (t : Nat) (f : Tile → Tile) : (s.updTile t f).lflags = s.lflags := rfl
@[simp] theorem State.updTile_ctxs (s : State) (t : Nat) (f : Tile → Tile) : (s.updTile t f).ctxs = s.ctxs := rfl
@[simp] theorem State.updTile_subs (s : State) (t : Nat) (f : Tile → Tile) : (s.updTile t f).subs = s.subs := rfl
@[simp] theorem State.updTile_crowns (s : State) (t : Nat) (f : Tile → Tile) : (s.updTile t f).crowns = s.crowns := rfl
@[simp] theorem State.updTile_launches (s : State) (t : Nat) (f : Tile → Tile) : (s.updTile t f).launches = s.launches := rfl
@[simp] theorem State.updTile_launchIds (s : State) (t : Nat) (f : Tile → Tile) : (s.updTile t f).launchIds = s.launchIds := rfl
@[simp] theorem State.updTile_orders (s : State) (t : Nat) (f : Tile → Tile) : (s.updTile t f).orders = s.orders := rfl
@[simp] theorem State.updTile_firsts (s : State) (t : Nat) (f : Tile → Tile) : (s.updTile t f).firsts = s.firsts := rfl
@[simp] theorem State.updTile_images (s : State) (t : Nat) (f : Tile → Tile) : (s.updTile t f).images = s.images := rfl
@[simp] theorem State.updTile_held (s : State) (t : Nat) (f : Tile → Tile) : (s.updTile t f).held = s.held := rfl
@[simp] theorem State.updTile_invals (s : State) (t : Nat) (f : Tile → Tile) : (s.updTile t f).invals = s.invals := rfl
@[simp] theorem State.updTile_training (s : State) (t : Nat) (f : Tile → Tile) : (s.updTile t f).training = s.training := rfl
@[simp] theorem State.updTile_hostctx (s : State) (t : Nat) (f : Tile → Tile) : (s.updTile t f).hostctx = s.hostctx := rfl
@[simp] theorem State.updTile_io (s : State) (t : Nat) (f : Tile → Tile) : (s.updTile t f).io = s.io := rfl
@[simp] theorem State.updTile_atwald (s : State) (t : Nat) (f : Tile → Tile) : (s.updTile t f).atwald = s.atwald := rfl
@[simp] theorem State.updTile_eth (s : State) (t : Nat) (f : Tile → Tile) : (s.updTile t f).eth = s.eth := rfl
@[simp] theorem State.updTile_rects (s : State) (t : Nat) (f : Tile → Tile) : (s.updTile t f).rects = s.rects := rfl
@[simp] theorem State.updTile_loneFences (s : State) (t : Nat) (f : Tile → Tile) : (s.updTile t f).loneFences = s.loneFences := rfl
@[simp] theorem State.updTile_scrubPos (s : State) (t : Nat) (f : Tile → Tile) : (s.updTile t f).scrubPos = s.scrubPos := rfl
@[simp] theorem State.updTile_evo (s : State) (t : Nat) (f : Tile → Tile) : (s.updTile t f).evo = s.evo := rfl
@[simp] theorem State.updTile_ckpt (s : State) (t : Nat) (f : Tile → Tile) : (s.updTile t f).ckpt = s.ckpt := rfl
@[simp] theorem State.updTile_tier (s : State) (t : Nat) (f : Tile → Tile) : (s.updTile t f).tier = s.tier := rfl
@[simp] theorem State.updTile_replies (s : State) (t : Nat) (f : Tile → Tile) : (s.updTile t f).replies = s.replies := rfl
@[simp] theorem State.updTile_deferred (s : State) (t : Nat) (f : Tile → Tile) : (s.updTile t f).deferred = s.deferred := rfl
@[simp] theorem State.updTile_hostWaits (s : State) (t : Nat) (f : Tile → Tile) : (s.updTile t f).hostWaits = s.hostWaits := rfl
@[simp] theorem State.updTile_fwStatus (s : State) (t : Nat) (f : Tile → Tile) : (s.updTile t f).fwStatus = s.fwStatus := rfl

@[simp] theorem State.updCluster_agenda (s : State) (c : Nat) (f : Cluster → Cluster) : (s.updCluster c f).agenda = s.agenda := rfl
@[simp] theorem State.updCluster_free (s : State) (c : Nat) (f : Cluster → Cluster) : (s.updCluster c f).free = s.free := rfl
@[simp] theorem State.updCluster_curTile (s : State) (c : Nat) (f : Cluster → Cluster) : (s.updCluster c f).curTile = s.curTile := rfl
@[simp] theorem State.updCluster_curThr (s : State) (c : Nat) (f : Cluster → Cluster) : (s.updCluster c f).curThr = s.curThr := rfl
@[simp] theorem State.updCluster_rr (s : State) (c : Nat) (f : Cluster → Cluster) : (s.updCluster c f).rr = s.rr := rfl
@[simp] theorem State.updCluster_beat (s : State) (c : Nat) (f : Cluster → Cluster) : (s.updCluster c f).beat = s.beat := rfl
@[simp] theorem State.updCluster_powered (s : State) (c : Nat) (f : Cluster → Cluster) : (s.updCluster c f).powered = s.powered := rfl
@[simp] theorem State.updCluster_pkg (s : State) (c : Nat) (f : Cluster → Cluster) : (s.updCluster c f).pkg = s.pkg := rfl
@[simp] theorem State.updCluster_dies (s : State) (c : Nat) (f : Cluster → Cluster) : (s.updCluster c f).dies = s.dies := rfl
@[simp] theorem State.updCluster_mem (s : State) (c : Nat) (f : Cluster → Cluster) : (s.updCluster c f).mem = s.mem := rfl
@[simp] theorem State.updCluster_full (s : State) (c : Nat) (f : Cluster → Cluster) : (s.updCluster c f).full = s.full := rfl
@[simp] theorem State.updCluster_psn (s : State) (c : Nat) (f : Cluster → Cluster) : (s.updCluster c f).psn = s.psn := rfl
@[simp] theorem State.updCluster_tagged (s : State) (c : Nat) (f : Cluster → Cluster) : (s.updCluster c f).tagged = s.tagged := rfl
@[simp] theorem State.updCluster_errUnc (s : State) (c : Nat) (f : Cluster → Cluster) : (s.updCluster c f).errUnc = s.errUnc := rfl
@[simp] theorem State.updCluster_errOne (s : State) (c : Nat) (f : Cluster → Cluster) : (s.updCluster c f).errOne = s.errOne := rfl
@[simp] theorem State.updCluster_errTag (s : State) (c : Nat) (f : Cluster → Cluster) : (s.updCluster c f).errTag = s.errTag := rfl
@[simp] theorem State.updCluster_keyOf (s : State) (c : Nat) (f : Cluster → Cluster) : (s.updCluster c f).keyOf = s.keyOf := rfl
@[simp] theorem State.updCluster_keys (s : State) (c : Nat) (f : Cluster → Cluster) : (s.updCluster c f).keys = s.keys := rfl
@[simp] theorem State.updCluster_keyLoads (s : State) (c : Nat) (f : Cluster → Cluster) : (s.updCluster c f).keyLoads = s.keyLoads := rfl
@[simp] theorem State.updCluster_keyUsed (s : State) (c : Nat) (f : Cluster → Cluster) : (s.updCluster c f).keyUsed = s.keyUsed := rfl
@[simp] theorem State.updCluster_stalled (s : State) (c : Nat) (f : Cluster → Cluster) : (s.updCluster c f).stalled = s.stalled := rfl
@[simp] theorem State.updCluster_batch (s : State) (c : Nat) (f : Cluster → Cluster) : (s.updCluster c f).batch = s.batch := rfl
@[simp] theorem State.updCluster_tiles (s : State) (c : Nat) (f : Cluster → Cluster) : (s.updCluster c f).tiles = s.tiles := rfl
@[simp] theorem State.updCluster_routers (s : State) (c : Nat) (f : Cluster → Cluster) : (s.updCluster c f).routers = s.routers := rfl
@[simp] theorem State.updCluster_ports (s : State) (c : Nat) (f : Cluster → Cluster) : (s.updCluster c f).ports = s.ports := rfl
@[simp] theorem State.updCluster_portsB (s : State) (c : Nat) (f : Cluster → Cluster) : (s.updCluster c f).portsB = s.portsB := rfl
@[simp] theorem State.updCluster_portSlots (s : State) (c : Nat) (f : Cluster → Cluster) : (s.updCluster c f).portSlots = s.portSlots := rfl
@[simp] theorem State.updCluster_sigWaits (s : State) (c : Nat) (f : Cluster → Cluster) : (s.updCluster c f).sigWaits = s.sigWaits := rfl
@[simp] theorem State.updCluster_agentRetries (s : State) (c : Nat) (f : Cluster → Cluster) : (s.updCluster c f).agentRetries = s.agentRetries := rfl
@[simp] theorem State.updCluster_tags (s : State) (c : Nat) (f : Cluster → Cluster) : (s.updCluster c f).tags = s.tags := rfl
@[simp] theorem State.updCluster_lflags (s : State) (c : Nat) (f : Cluster → Cluster) : (s.updCluster c f).lflags = s.lflags := rfl
@[simp] theorem State.updCluster_ctxs (s : State) (c : Nat) (f : Cluster → Cluster) : (s.updCluster c f).ctxs = s.ctxs := rfl
@[simp] theorem State.updCluster_subs (s : State) (c : Nat) (f : Cluster → Cluster) : (s.updCluster c f).subs = s.subs := rfl
@[simp] theorem State.updCluster_crowns (s : State) (c : Nat) (f : Cluster → Cluster) : (s.updCluster c f).crowns = s.crowns := rfl
@[simp] theorem State.updCluster_launches (s : State) (c : Nat) (f : Cluster → Cluster) : (s.updCluster c f).launches = s.launches := rfl
@[simp] theorem State.updCluster_launchIds (s : State) (c : Nat) (f : Cluster → Cluster) : (s.updCluster c f).launchIds = s.launchIds := rfl
@[simp] theorem State.updCluster_orders (s : State) (c : Nat) (f : Cluster → Cluster) : (s.updCluster c f).orders = s.orders := rfl
@[simp] theorem State.updCluster_firsts (s : State) (c : Nat) (f : Cluster → Cluster) : (s.updCluster c f).firsts = s.firsts := rfl
@[simp] theorem State.updCluster_images (s : State) (c : Nat) (f : Cluster → Cluster) : (s.updCluster c f).images = s.images := rfl
@[simp] theorem State.updCluster_held (s : State) (c : Nat) (f : Cluster → Cluster) : (s.updCluster c f).held = s.held := rfl
@[simp] theorem State.updCluster_invals (s : State) (c : Nat) (f : Cluster → Cluster) : (s.updCluster c f).invals = s.invals := rfl
@[simp] theorem State.updCluster_training (s : State) (c : Nat) (f : Cluster → Cluster) : (s.updCluster c f).training = s.training := rfl
@[simp] theorem State.updCluster_hostctx (s : State) (c : Nat) (f : Cluster → Cluster) : (s.updCluster c f).hostctx = s.hostctx := rfl
@[simp] theorem State.updCluster_io (s : State) (c : Nat) (f : Cluster → Cluster) : (s.updCluster c f).io = s.io := rfl
@[simp] theorem State.updCluster_atwald (s : State) (c : Nat) (f : Cluster → Cluster) : (s.updCluster c f).atwald = s.atwald := rfl
@[simp] theorem State.updCluster_eth (s : State) (c : Nat) (f : Cluster → Cluster) : (s.updCluster c f).eth = s.eth := rfl
@[simp] theorem State.updCluster_rects (s : State) (c : Nat) (f : Cluster → Cluster) : (s.updCluster c f).rects = s.rects := rfl
@[simp] theorem State.updCluster_loneFences (s : State) (c : Nat) (f : Cluster → Cluster) : (s.updCluster c f).loneFences = s.loneFences := rfl
@[simp] theorem State.updCluster_scrubPos (s : State) (c : Nat) (f : Cluster → Cluster) : (s.updCluster c f).scrubPos = s.scrubPos := rfl
@[simp] theorem State.updCluster_evo (s : State) (c : Nat) (f : Cluster → Cluster) : (s.updCluster c f).evo = s.evo := rfl
@[simp] theorem State.updCluster_ckpt (s : State) (c : Nat) (f : Cluster → Cluster) : (s.updCluster c f).ckpt = s.ckpt := rfl
@[simp] theorem State.updCluster_tier (s : State) (c : Nat) (f : Cluster → Cluster) : (s.updCluster c f).tier = s.tier := rfl
@[simp] theorem State.updCluster_replies (s : State) (c : Nat) (f : Cluster → Cluster) : (s.updCluster c f).replies = s.replies := rfl
@[simp] theorem State.updCluster_deferred (s : State) (c : Nat) (f : Cluster → Cluster) : (s.updCluster c f).deferred = s.deferred := rfl
@[simp] theorem State.updCluster_hostWaits (s : State) (c : Nat) (f : Cluster → Cluster) : (s.updCluster c f).hostWaits = s.hostWaits := rfl
@[simp] theorem State.updCluster_fwStatus (s : State) (c : Nat) (f : Cluster → Cluster) : (s.updCluster c f).fwStatus = s.fwStatus := rfl

@[simp] theorem State.setThr_agenda (s : State) (t h : Nat) (x : Thread) : (s.setThr t h x).agenda = s.agenda := rfl
@[simp] theorem State.setThr_free (s : State) (t h : Nat) (x : Thread) : (s.setThr t h x).free = s.free := rfl
@[simp] theorem State.setThr_curTile (s : State) (t h : Nat) (x : Thread) : (s.setThr t h x).curTile = s.curTile := rfl
@[simp] theorem State.setThr_curThr (s : State) (t h : Nat) (x : Thread) : (s.setThr t h x).curThr = s.curThr := rfl
@[simp] theorem State.setThr_rr (s : State) (t h : Nat) (x : Thread) : (s.setThr t h x).rr = s.rr := rfl
@[simp] theorem State.setThr_beat (s : State) (t h : Nat) (x : Thread) : (s.setThr t h x).beat = s.beat := rfl
@[simp] theorem State.setThr_powered (s : State) (t h : Nat) (x : Thread) : (s.setThr t h x).powered = s.powered := rfl
@[simp] theorem State.setThr_pkg (s : State) (t h : Nat) (x : Thread) : (s.setThr t h x).pkg = s.pkg := rfl
@[simp] theorem State.setThr_dies (s : State) (t h : Nat) (x : Thread) : (s.setThr t h x).dies = s.dies := rfl
@[simp] theorem State.setThr_mem (s : State) (t h : Nat) (x : Thread) : (s.setThr t h x).mem = s.mem := rfl
@[simp] theorem State.setThr_full (s : State) (t h : Nat) (x : Thread) : (s.setThr t h x).full = s.full := rfl
@[simp] theorem State.setThr_psn (s : State) (t h : Nat) (x : Thread) : (s.setThr t h x).psn = s.psn := rfl
@[simp] theorem State.setThr_tagged (s : State) (t h : Nat) (x : Thread) : (s.setThr t h x).tagged = s.tagged := rfl
@[simp] theorem State.setThr_errUnc (s : State) (t h : Nat) (x : Thread) : (s.setThr t h x).errUnc = s.errUnc := rfl
@[simp] theorem State.setThr_errOne (s : State) (t h : Nat) (x : Thread) : (s.setThr t h x).errOne = s.errOne := rfl
@[simp] theorem State.setThr_errTag (s : State) (t h : Nat) (x : Thread) : (s.setThr t h x).errTag = s.errTag := rfl
@[simp] theorem State.setThr_keyOf (s : State) (t h : Nat) (x : Thread) : (s.setThr t h x).keyOf = s.keyOf := rfl
@[simp] theorem State.setThr_keys (s : State) (t h : Nat) (x : Thread) : (s.setThr t h x).keys = s.keys := rfl
@[simp] theorem State.setThr_keyLoads (s : State) (t h : Nat) (x : Thread) : (s.setThr t h x).keyLoads = s.keyLoads := rfl
@[simp] theorem State.setThr_keyUsed (s : State) (t h : Nat) (x : Thread) : (s.setThr t h x).keyUsed = s.keyUsed := rfl
@[simp] theorem State.setThr_stalled (s : State) (t h : Nat) (x : Thread) : (s.setThr t h x).stalled = s.stalled := rfl
@[simp] theorem State.setThr_batch (s : State) (t h : Nat) (x : Thread) : (s.setThr t h x).batch = s.batch := rfl
@[simp] theorem State.setThr_clusters (s : State) (t h : Nat) (x : Thread) : (s.setThr t h x).clusters = s.clusters := rfl
@[simp] theorem State.setThr_routers (s : State) (t h : Nat) (x : Thread) : (s.setThr t h x).routers = s.routers := rfl
@[simp] theorem State.setThr_ports (s : State) (t h : Nat) (x : Thread) : (s.setThr t h x).ports = s.ports := rfl
@[simp] theorem State.setThr_portsB (s : State) (t h : Nat) (x : Thread) : (s.setThr t h x).portsB = s.portsB := rfl
@[simp] theorem State.setThr_portSlots (s : State) (t h : Nat) (x : Thread) : (s.setThr t h x).portSlots = s.portSlots := rfl
@[simp] theorem State.setThr_sigWaits (s : State) (t h : Nat) (x : Thread) : (s.setThr t h x).sigWaits = s.sigWaits := rfl
@[simp] theorem State.setThr_agentRetries (s : State) (t h : Nat) (x : Thread) : (s.setThr t h x).agentRetries = s.agentRetries := rfl
@[simp] theorem State.setThr_tags (s : State) (t h : Nat) (x : Thread) : (s.setThr t h x).tags = s.tags := rfl
@[simp] theorem State.setThr_lflags (s : State) (t h : Nat) (x : Thread) : (s.setThr t h x).lflags = s.lflags := rfl
@[simp] theorem State.setThr_ctxs (s : State) (t h : Nat) (x : Thread) : (s.setThr t h x).ctxs = s.ctxs := rfl
@[simp] theorem State.setThr_subs (s : State) (t h : Nat) (x : Thread) : (s.setThr t h x).subs = s.subs := rfl
@[simp] theorem State.setThr_crowns (s : State) (t h : Nat) (x : Thread) : (s.setThr t h x).crowns = s.crowns := rfl
@[simp] theorem State.setThr_launches (s : State) (t h : Nat) (x : Thread) : (s.setThr t h x).launches = s.launches := rfl
@[simp] theorem State.setThr_launchIds (s : State) (t h : Nat) (x : Thread) : (s.setThr t h x).launchIds = s.launchIds := rfl
@[simp] theorem State.setThr_orders (s : State) (t h : Nat) (x : Thread) : (s.setThr t h x).orders = s.orders := rfl
@[simp] theorem State.setThr_firsts (s : State) (t h : Nat) (x : Thread) : (s.setThr t h x).firsts = s.firsts := rfl
@[simp] theorem State.setThr_images (s : State) (t h : Nat) (x : Thread) : (s.setThr t h x).images = s.images := rfl
@[simp] theorem State.setThr_held (s : State) (t h : Nat) (x : Thread) : (s.setThr t h x).held = s.held := rfl
@[simp] theorem State.setThr_invals (s : State) (t h : Nat) (x : Thread) : (s.setThr t h x).invals = s.invals := rfl
@[simp] theorem State.setThr_training (s : State) (t h : Nat) (x : Thread) : (s.setThr t h x).training = s.training := rfl
@[simp] theorem State.setThr_hostctx (s : State) (t h : Nat) (x : Thread) : (s.setThr t h x).hostctx = s.hostctx := rfl
@[simp] theorem State.setThr_io (s : State) (t h : Nat) (x : Thread) : (s.setThr t h x).io = s.io := rfl
@[simp] theorem State.setThr_atwald (s : State) (t h : Nat) (x : Thread) : (s.setThr t h x).atwald = s.atwald := rfl
@[simp] theorem State.setThr_eth (s : State) (t h : Nat) (x : Thread) : (s.setThr t h x).eth = s.eth := rfl
@[simp] theorem State.setThr_rects (s : State) (t h : Nat) (x : Thread) : (s.setThr t h x).rects = s.rects := rfl
@[simp] theorem State.setThr_loneFences (s : State) (t h : Nat) (x : Thread) : (s.setThr t h x).loneFences = s.loneFences := rfl
@[simp] theorem State.setThr_scrubPos (s : State) (t h : Nat) (x : Thread) : (s.setThr t h x).scrubPos = s.scrubPos := rfl
@[simp] theorem State.setThr_evo (s : State) (t h : Nat) (x : Thread) : (s.setThr t h x).evo = s.evo := rfl
@[simp] theorem State.setThr_ckpt (s : State) (t h : Nat) (x : Thread) : (s.setThr t h x).ckpt = s.ckpt := rfl
@[simp] theorem State.setThr_tier (s : State) (t h : Nat) (x : Thread) : (s.setThr t h x).tier = s.tier := rfl
@[simp] theorem State.setThr_replies (s : State) (t h : Nat) (x : Thread) : (s.setThr t h x).replies = s.replies := rfl
@[simp] theorem State.setThr_deferred (s : State) (t h : Nat) (x : Thread) : (s.setThr t h x).deferred = s.deferred := rfl
@[simp] theorem State.setThr_hostWaits (s : State) (t h : Nat) (x : Thread) : (s.setThr t h x).hostWaits = s.hostWaits := rfl
@[simp] theorem State.setThr_fwStatus (s : State) (t h : Nat) (x : Thread) : (s.setThr t h x).fwStatus = s.fwStatus := rfl

@[simp] theorem State.updThr_agenda (s : State) (t h : Nat) (f : Thread → Thread) : (s.updThr t h f).agenda = s.agenda := rfl
@[simp] theorem State.updThr_free (s : State) (t h : Nat) (f : Thread → Thread) : (s.updThr t h f).free = s.free := rfl
@[simp] theorem State.updThr_curTile (s : State) (t h : Nat) (f : Thread → Thread) : (s.updThr t h f).curTile = s.curTile := rfl
@[simp] theorem State.updThr_curThr (s : State) (t h : Nat) (f : Thread → Thread) : (s.updThr t h f).curThr = s.curThr := rfl
@[simp] theorem State.updThr_rr (s : State) (t h : Nat) (f : Thread → Thread) : (s.updThr t h f).rr = s.rr := rfl
@[simp] theorem State.updThr_beat (s : State) (t h : Nat) (f : Thread → Thread) : (s.updThr t h f).beat = s.beat := rfl
@[simp] theorem State.updThr_powered (s : State) (t h : Nat) (f : Thread → Thread) : (s.updThr t h f).powered = s.powered := rfl
@[simp] theorem State.updThr_pkg (s : State) (t h : Nat) (f : Thread → Thread) : (s.updThr t h f).pkg = s.pkg := rfl
@[simp] theorem State.updThr_dies (s : State) (t h : Nat) (f : Thread → Thread) : (s.updThr t h f).dies = s.dies := rfl
@[simp] theorem State.updThr_mem (s : State) (t h : Nat) (f : Thread → Thread) : (s.updThr t h f).mem = s.mem := rfl
@[simp] theorem State.updThr_full (s : State) (t h : Nat) (f : Thread → Thread) : (s.updThr t h f).full = s.full := rfl
@[simp] theorem State.updThr_psn (s : State) (t h : Nat) (f : Thread → Thread) : (s.updThr t h f).psn = s.psn := rfl
@[simp] theorem State.updThr_tagged (s : State) (t h : Nat) (f : Thread → Thread) : (s.updThr t h f).tagged = s.tagged := rfl
@[simp] theorem State.updThr_errUnc (s : State) (t h : Nat) (f : Thread → Thread) : (s.updThr t h f).errUnc = s.errUnc := rfl
@[simp] theorem State.updThr_errOne (s : State) (t h : Nat) (f : Thread → Thread) : (s.updThr t h f).errOne = s.errOne := rfl
@[simp] theorem State.updThr_errTag (s : State) (t h : Nat) (f : Thread → Thread) : (s.updThr t h f).errTag = s.errTag := rfl
@[simp] theorem State.updThr_keyOf (s : State) (t h : Nat) (f : Thread → Thread) : (s.updThr t h f).keyOf = s.keyOf := rfl
@[simp] theorem State.updThr_keys (s : State) (t h : Nat) (f : Thread → Thread) : (s.updThr t h f).keys = s.keys := rfl
@[simp] theorem State.updThr_keyLoads (s : State) (t h : Nat) (f : Thread → Thread) : (s.updThr t h f).keyLoads = s.keyLoads := rfl
@[simp] theorem State.updThr_keyUsed (s : State) (t h : Nat) (f : Thread → Thread) : (s.updThr t h f).keyUsed = s.keyUsed := rfl
@[simp] theorem State.updThr_stalled (s : State) (t h : Nat) (f : Thread → Thread) : (s.updThr t h f).stalled = s.stalled := rfl
@[simp] theorem State.updThr_batch (s : State) (t h : Nat) (f : Thread → Thread) : (s.updThr t h f).batch = s.batch := rfl
@[simp] theorem State.updThr_clusters (s : State) (t h : Nat) (f : Thread → Thread) : (s.updThr t h f).clusters = s.clusters := rfl
@[simp] theorem State.updThr_routers (s : State) (t h : Nat) (f : Thread → Thread) : (s.updThr t h f).routers = s.routers := rfl
@[simp] theorem State.updThr_ports (s : State) (t h : Nat) (f : Thread → Thread) : (s.updThr t h f).ports = s.ports := rfl
@[simp] theorem State.updThr_portsB (s : State) (t h : Nat) (f : Thread → Thread) : (s.updThr t h f).portsB = s.portsB := rfl
@[simp] theorem State.updThr_portSlots (s : State) (t h : Nat) (f : Thread → Thread) : (s.updThr t h f).portSlots = s.portSlots := rfl
@[simp] theorem State.updThr_sigWaits (s : State) (t h : Nat) (f : Thread → Thread) : (s.updThr t h f).sigWaits = s.sigWaits := rfl
@[simp] theorem State.updThr_agentRetries (s : State) (t h : Nat) (f : Thread → Thread) : (s.updThr t h f).agentRetries = s.agentRetries := rfl
@[simp] theorem State.updThr_tags (s : State) (t h : Nat) (f : Thread → Thread) : (s.updThr t h f).tags = s.tags := rfl
@[simp] theorem State.updThr_lflags (s : State) (t h : Nat) (f : Thread → Thread) : (s.updThr t h f).lflags = s.lflags := rfl
@[simp] theorem State.updThr_ctxs (s : State) (t h : Nat) (f : Thread → Thread) : (s.updThr t h f).ctxs = s.ctxs := rfl
@[simp] theorem State.updThr_subs (s : State) (t h : Nat) (f : Thread → Thread) : (s.updThr t h f).subs = s.subs := rfl
@[simp] theorem State.updThr_crowns (s : State) (t h : Nat) (f : Thread → Thread) : (s.updThr t h f).crowns = s.crowns := rfl
@[simp] theorem State.updThr_launches (s : State) (t h : Nat) (f : Thread → Thread) : (s.updThr t h f).launches = s.launches := rfl
@[simp] theorem State.updThr_launchIds (s : State) (t h : Nat) (f : Thread → Thread) : (s.updThr t h f).launchIds = s.launchIds := rfl
@[simp] theorem State.updThr_orders (s : State) (t h : Nat) (f : Thread → Thread) : (s.updThr t h f).orders = s.orders := rfl
@[simp] theorem State.updThr_firsts (s : State) (t h : Nat) (f : Thread → Thread) : (s.updThr t h f).firsts = s.firsts := rfl
@[simp] theorem State.updThr_images (s : State) (t h : Nat) (f : Thread → Thread) : (s.updThr t h f).images = s.images := rfl
@[simp] theorem State.updThr_held (s : State) (t h : Nat) (f : Thread → Thread) : (s.updThr t h f).held = s.held := rfl
@[simp] theorem State.updThr_invals (s : State) (t h : Nat) (f : Thread → Thread) : (s.updThr t h f).invals = s.invals := rfl
@[simp] theorem State.updThr_training (s : State) (t h : Nat) (f : Thread → Thread) : (s.updThr t h f).training = s.training := rfl
@[simp] theorem State.updThr_hostctx (s : State) (t h : Nat) (f : Thread → Thread) : (s.updThr t h f).hostctx = s.hostctx := rfl
@[simp] theorem State.updThr_io (s : State) (t h : Nat) (f : Thread → Thread) : (s.updThr t h f).io = s.io := rfl
@[simp] theorem State.updThr_atwald (s : State) (t h : Nat) (f : Thread → Thread) : (s.updThr t h f).atwald = s.atwald := rfl
@[simp] theorem State.updThr_eth (s : State) (t h : Nat) (f : Thread → Thread) : (s.updThr t h f).eth = s.eth := rfl
@[simp] theorem State.updThr_rects (s : State) (t h : Nat) (f : Thread → Thread) : (s.updThr t h f).rects = s.rects := rfl
@[simp] theorem State.updThr_loneFences (s : State) (t h : Nat) (f : Thread → Thread) : (s.updThr t h f).loneFences = s.loneFences := rfl
@[simp] theorem State.updThr_scrubPos (s : State) (t h : Nat) (f : Thread → Thread) : (s.updThr t h f).scrubPos = s.scrubPos := rfl
@[simp] theorem State.updThr_evo (s : State) (t h : Nat) (f : Thread → Thread) : (s.updThr t h f).evo = s.evo := rfl
@[simp] theorem State.updThr_ckpt (s : State) (t h : Nat) (f : Thread → Thread) : (s.updThr t h f).ckpt = s.ckpt := rfl
@[simp] theorem State.updThr_tier (s : State) (t h : Nat) (f : Thread → Thread) : (s.updThr t h f).tier = s.tier := rfl
@[simp] theorem State.updThr_replies (s : State) (t h : Nat) (f : Thread → Thread) : (s.updThr t h f).replies = s.replies := rfl
@[simp] theorem State.updThr_deferred (s : State) (t h : Nat) (f : Thread → Thread) : (s.updThr t h f).deferred = s.deferred := rfl
@[simp] theorem State.updThr_hostWaits (s : State) (t h : Nat) (f : Thread → Thread) : (s.updThr t h f).hostWaits = s.hostWaits := rfl
@[simp] theorem State.updThr_fwStatus (s : State) (t h : Nat) (f : Thread → Thread) : (s.updThr t h f).fwStatus = s.fwStatus := rfl

@[simp] theorem State.setCur_agenda (s : State) (x : Thread) : (s.setCur x).agenda = s.agenda := rfl
@[simp] theorem State.setCur_free (s : State) (x : Thread) : (s.setCur x).free = s.free := rfl
@[simp] theorem State.setCur_curTile (s : State) (x : Thread) : (s.setCur x).curTile = s.curTile := rfl
@[simp] theorem State.setCur_curThr (s : State) (x : Thread) : (s.setCur x).curThr = s.curThr := rfl
@[simp] theorem State.setCur_rr (s : State) (x : Thread) : (s.setCur x).rr = s.rr := rfl
@[simp] theorem State.setCur_beat (s : State) (x : Thread) : (s.setCur x).beat = s.beat := rfl
@[simp] theorem State.setCur_powered (s : State) (x : Thread) : (s.setCur x).powered = s.powered := rfl
@[simp] theorem State.setCur_pkg (s : State) (x : Thread) : (s.setCur x).pkg = s.pkg := rfl
@[simp] theorem State.setCur_dies (s : State) (x : Thread) : (s.setCur x).dies = s.dies := rfl
@[simp] theorem State.setCur_mem (s : State) (x : Thread) : (s.setCur x).mem = s.mem := rfl
@[simp] theorem State.setCur_full (s : State) (x : Thread) : (s.setCur x).full = s.full := rfl
@[simp] theorem State.setCur_psn (s : State) (x : Thread) : (s.setCur x).psn = s.psn := rfl
@[simp] theorem State.setCur_tagged (s : State) (x : Thread) : (s.setCur x).tagged = s.tagged := rfl
@[simp] theorem State.setCur_errUnc (s : State) (x : Thread) : (s.setCur x).errUnc = s.errUnc := rfl
@[simp] theorem State.setCur_errOne (s : State) (x : Thread) : (s.setCur x).errOne = s.errOne := rfl
@[simp] theorem State.setCur_errTag (s : State) (x : Thread) : (s.setCur x).errTag = s.errTag := rfl
@[simp] theorem State.setCur_keyOf (s : State) (x : Thread) : (s.setCur x).keyOf = s.keyOf := rfl
@[simp] theorem State.setCur_keys (s : State) (x : Thread) : (s.setCur x).keys = s.keys := rfl
@[simp] theorem State.setCur_keyLoads (s : State) (x : Thread) : (s.setCur x).keyLoads = s.keyLoads := rfl
@[simp] theorem State.setCur_keyUsed (s : State) (x : Thread) : (s.setCur x).keyUsed = s.keyUsed := rfl
@[simp] theorem State.setCur_stalled (s : State) (x : Thread) : (s.setCur x).stalled = s.stalled := rfl
@[simp] theorem State.setCur_batch (s : State) (x : Thread) : (s.setCur x).batch = s.batch := rfl
@[simp] theorem State.setCur_clusters (s : State) (x : Thread) : (s.setCur x).clusters = s.clusters := rfl
@[simp] theorem State.setCur_routers (s : State) (x : Thread) : (s.setCur x).routers = s.routers := rfl
@[simp] theorem State.setCur_ports (s : State) (x : Thread) : (s.setCur x).ports = s.ports := rfl
@[simp] theorem State.setCur_portsB (s : State) (x : Thread) : (s.setCur x).portsB = s.portsB := rfl
@[simp] theorem State.setCur_portSlots (s : State) (x : Thread) : (s.setCur x).portSlots = s.portSlots := rfl
@[simp] theorem State.setCur_sigWaits (s : State) (x : Thread) : (s.setCur x).sigWaits = s.sigWaits := rfl
@[simp] theorem State.setCur_agentRetries (s : State) (x : Thread) : (s.setCur x).agentRetries = s.agentRetries := rfl
@[simp] theorem State.setCur_tags (s : State) (x : Thread) : (s.setCur x).tags = s.tags := rfl
@[simp] theorem State.setCur_lflags (s : State) (x : Thread) : (s.setCur x).lflags = s.lflags := rfl
@[simp] theorem State.setCur_ctxs (s : State) (x : Thread) : (s.setCur x).ctxs = s.ctxs := rfl
@[simp] theorem State.setCur_subs (s : State) (x : Thread) : (s.setCur x).subs = s.subs := rfl
@[simp] theorem State.setCur_crowns (s : State) (x : Thread) : (s.setCur x).crowns = s.crowns := rfl
@[simp] theorem State.setCur_launches (s : State) (x : Thread) : (s.setCur x).launches = s.launches := rfl
@[simp] theorem State.setCur_launchIds (s : State) (x : Thread) : (s.setCur x).launchIds = s.launchIds := rfl
@[simp] theorem State.setCur_orders (s : State) (x : Thread) : (s.setCur x).orders = s.orders := rfl
@[simp] theorem State.setCur_firsts (s : State) (x : Thread) : (s.setCur x).firsts = s.firsts := rfl
@[simp] theorem State.setCur_images (s : State) (x : Thread) : (s.setCur x).images = s.images := rfl
@[simp] theorem State.setCur_held (s : State) (x : Thread) : (s.setCur x).held = s.held := rfl
@[simp] theorem State.setCur_invals (s : State) (x : Thread) : (s.setCur x).invals = s.invals := rfl
@[simp] theorem State.setCur_training (s : State) (x : Thread) : (s.setCur x).training = s.training := rfl
@[simp] theorem State.setCur_hostctx (s : State) (x : Thread) : (s.setCur x).hostctx = s.hostctx := rfl
@[simp] theorem State.setCur_io (s : State) (x : Thread) : (s.setCur x).io = s.io := rfl
@[simp] theorem State.setCur_atwald (s : State) (x : Thread) : (s.setCur x).atwald = s.atwald := rfl
@[simp] theorem State.setCur_eth (s : State) (x : Thread) : (s.setCur x).eth = s.eth := rfl
@[simp] theorem State.setCur_rects (s : State) (x : Thread) : (s.setCur x).rects = s.rects := rfl
@[simp] theorem State.setCur_loneFences (s : State) (x : Thread) : (s.setCur x).loneFences = s.loneFences := rfl
@[simp] theorem State.setCur_scrubPos (s : State) (x : Thread) : (s.setCur x).scrubPos = s.scrubPos := rfl
@[simp] theorem State.setCur_evo (s : State) (x : Thread) : (s.setCur x).evo = s.evo := rfl
@[simp] theorem State.setCur_ckpt (s : State) (x : Thread) : (s.setCur x).ckpt = s.ckpt := rfl
@[simp] theorem State.setCur_tier (s : State) (x : Thread) : (s.setCur x).tier = s.tier := rfl
@[simp] theorem State.setCur_replies (s : State) (x : Thread) : (s.setCur x).replies = s.replies := rfl
@[simp] theorem State.setCur_deferred (s : State) (x : Thread) : (s.setCur x).deferred = s.deferred := rfl
@[simp] theorem State.setCur_hostWaits (s : State) (x : Thread) : (s.setCur x).hostWaits = s.hostWaits := rfl
@[simp] theorem State.setCur_fwStatus (s : State) (x : Thread) : (s.setCur x).fwStatus = s.fwStatus := rfl

@[simp] theorem Thread.count_g (t : Thread)  : (t.count).g = t.g := rfl
@[simp] theorem Thread.count_v (t : Thread)  : (t.count).v = t.v := rfl
@[simp] theorem Thread.count_k (t : Thread)  : (t.count).k = t.k := rfl
@[simp] theorem Thread.count_pc (t : Thread)  : (t.count).pc = t.pc := rfl
@[simp] theorem Thread.count_code (t : Thread)  : (t.count).code = t.code := rfl
@[simp] theorem Thread.count_mode (t : Thread)  : (t.count).mode = t.mode := rfl
@[simp] theorem Thread.count_priv (t : Thread)  : (t.count).priv = t.priv := rfl
@[simp] theorem Thread.count_ppriv (t : Thread)  : (t.count).ppriv = t.ppriv := rfl
@[simp] theorem Thread.count_exl (t : Thread)  : (t.count).exl = t.exl := rfl
@[simp] theorem Thread.count_be (t : Thread)  : (t.count).be = t.be := rfl
@[simp] theorem Thread.count_wakep (t : Thread)  : (t.count).wakep = t.wakep := rfl
@[simp] theorem Thread.count_bskip (t : Thread)  : (t.count).bskip = t.bskip := rfl
@[simp] theorem Thread.count_run (t : Thread)  : (t.count).run = t.run := rfl
@[simp] theorem Thread.count_wait (t : Thread)  : (t.count).wait = t.wait := rfl
@[simp] theorem Thread.count_rm (t : Thread)  : (t.count).rm = t.rm := rfl
@[simp] theorem Thread.count_ftz (t : Thread)  : (t.count).ftz = t.ftz := rfl
@[simp] theorem Thread.count_ovf (t : Thread)  : (t.count).ovf = t.ovf := rfl
@[simp] theorem Thread.count_seed (t : Thread)  : (t.count).seed = t.seed := rfl
@[simp] theorem Thread.count_tvec (t : Thread)  : (t.count).tvec = t.tvec := rfl
@[simp] theorem Thread.count_epc (t : Thread)  : (t.count).epc = t.epc := rfl
@[simp] theorem Thread.count_walkBit (t : Thread)  : (t.count).walkBit = t.walkBit := rfl
@[simp] theorem Thread.count_cause (t : Thread)  : (t.count).cause = t.cause := rfl
@[simp] theorem Thread.count_eval (t : Thread)  : (t.count).eval = t.eval := rfl
@[simp] theorem Thread.count_ecap (t : Thread)  : (t.count).ecap = t.ecap := rfl
@[simp] theorem Thread.count_bpc (t : Thread)  : (t.count).bpc = t.bpc := rfl
@[simp] theorem Thread.count_skip (t : Thread)  : (t.count).skip = t.skip := rfl
@[simp] theorem Thread.count_owed (t : Thread)  : (t.count).owed = t.owed := rfl
@[simp] theorem Thread.count_fbuf (t : Thread)  : (t.count).fbuf = t.fbuf := rfl
@[simp] theorem Thread.count_wanted (t : Thread)  : (t.count).wanted = t.wanted := rfl
@[simp] theorem Thread.count_recheck (t : Thread)  : (t.count).recheck = t.recheck := rfl
@[simp] theorem Thread.count_limbo (t : Thread)  : (t.count).limbo = t.limbo := rfl
@[simp] theorem Thread.count_badBase (t : Thread)  : (t.count).badBase = t.badBase := rfl
@[simp] theorem Thread.count_afp (t : Thread)  : (t.count).afp = t.afp := rfl
@[simp] theorem Thread.count_crownDone (t : Thread)  : (t.count).crownDone = t.crownDone := rfl
@[simp] theorem Thread.count_readyAt (t : Thread)  : (t.count).readyAt = t.readyAt := rfl
@[simp] theorem Thread.count_wfwSince (t : Thread)  : (t.count).wfwSince = t.wfwSince := rfl
@[simp] theorem Thread.count_halt187 (t : Thread)  : (t.count).halt187 = t.halt187 := rfl

@[simp] theorem Thread.retire_g (t : Thread)  : (t.retire).g = t.g := rfl
@[simp] theorem Thread.retire_v (t : Thread)  : (t.retire).v = t.v := rfl
@[simp] theorem Thread.retire_k (t : Thread)  : (t.retire).k = t.k := rfl
@[simp] theorem Thread.retire_code (t : Thread)  : (t.retire).code = t.code := rfl
@[simp] theorem Thread.retire_mode (t : Thread)  : (t.retire).mode = t.mode := rfl
@[simp] theorem Thread.retire_priv (t : Thread)  : (t.retire).priv = t.priv := rfl
@[simp] theorem Thread.retire_ppriv (t : Thread)  : (t.retire).ppriv = t.ppriv := rfl
@[simp] theorem Thread.retire_exl (t : Thread)  : (t.retire).exl = t.exl := rfl
@[simp] theorem Thread.retire_be (t : Thread)  : (t.retire).be = t.be := rfl
@[simp] theorem Thread.retire_wakep (t : Thread)  : (t.retire).wakep = t.wakep := rfl
@[simp] theorem Thread.retire_bskip (t : Thread)  : (t.retire).bskip = t.bskip := rfl
@[simp] theorem Thread.retire_run (t : Thread)  : (t.retire).run = t.run := rfl
@[simp] theorem Thread.retire_wait (t : Thread)  : (t.retire).wait = t.wait := rfl
@[simp] theorem Thread.retire_rm (t : Thread)  : (t.retire).rm = t.rm := rfl
@[simp] theorem Thread.retire_ftz (t : Thread)  : (t.retire).ftz = t.ftz := rfl
@[simp] theorem Thread.retire_ovf (t : Thread)  : (t.retire).ovf = t.ovf := rfl
@[simp] theorem Thread.retire_seed (t : Thread)  : (t.retire).seed = t.seed := rfl
@[simp] theorem Thread.retire_tvec (t : Thread)  : (t.retire).tvec = t.tvec := rfl
@[simp] theorem Thread.retire_epc (t : Thread)  : (t.retire).epc = t.epc := rfl
@[simp] theorem Thread.retire_walkBit (t : Thread)  : (t.retire).walkBit = t.walkBit := rfl
@[simp] theorem Thread.retire_cause (t : Thread)  : (t.retire).cause = t.cause := rfl
@[simp] theorem Thread.retire_eval (t : Thread)  : (t.retire).eval = t.eval := rfl
@[simp] theorem Thread.retire_ecap (t : Thread)  : (t.retire).ecap = t.ecap := rfl
@[simp] theorem Thread.retire_bpc (t : Thread)  : (t.retire).bpc = t.bpc := rfl
@[simp] theorem Thread.retire_skip (t : Thread)  : (t.retire).skip = t.skip := rfl
@[simp] theorem Thread.retire_owed (t : Thread)  : (t.retire).owed = t.owed := rfl
@[simp] theorem Thread.retire_fbuf (t : Thread)  : (t.retire).fbuf = t.fbuf := rfl
@[simp] theorem Thread.retire_wanted (t : Thread)  : (t.retire).wanted = t.wanted := rfl
@[simp] theorem Thread.retire_recheck (t : Thread)  : (t.retire).recheck = t.recheck := rfl
@[simp] theorem Thread.retire_limbo (t : Thread)  : (t.retire).limbo = t.limbo := rfl
@[simp] theorem Thread.retire_badBase (t : Thread)  : (t.retire).badBase = t.badBase := rfl
@[simp] theorem Thread.retire_afp (t : Thread)  : (t.retire).afp = t.afp := rfl
@[simp] theorem Thread.retire_crownDone (t : Thread)  : (t.retire).crownDone = t.crownDone := rfl
@[simp] theorem Thread.retire_readyAt (t : Thread)  : (t.retire).readyAt = t.readyAt := rfl
@[simp] theorem Thread.retire_wfwSince (t : Thread)  : (t.retire).wfwSince = t.wfwSince := rfl
@[simp] theorem Thread.retire_halt187 (t : Thread)  : (t.retire).halt187 = t.halt187 := rfl

@[simp] theorem Thread.wv_g (t : Thread) (v : VIx) (x : VReg) : (t.wv v x).g = t.g := rfl
@[simp] theorem Thread.wv_k (t : Thread) (v : VIx) (x : VReg) : (t.wv v x).k = t.k := rfl
@[simp] theorem Thread.wv_pc (t : Thread) (v : VIx) (x : VReg) : (t.wv v x).pc = t.pc := rfl
@[simp] theorem Thread.wv_code (t : Thread) (v : VIx) (x : VReg) : (t.wv v x).code = t.code := rfl
@[simp] theorem Thread.wv_mode (t : Thread) (v : VIx) (x : VReg) : (t.wv v x).mode = t.mode := rfl
@[simp] theorem Thread.wv_priv (t : Thread) (v : VIx) (x : VReg) : (t.wv v x).priv = t.priv := rfl
@[simp] theorem Thread.wv_ppriv (t : Thread) (v : VIx) (x : VReg) : (t.wv v x).ppriv = t.ppriv := rfl
@[simp] theorem Thread.wv_exl (t : Thread) (v : VIx) (x : VReg) : (t.wv v x).exl = t.exl := rfl
@[simp] theorem Thread.wv_be (t : Thread) (v : VIx) (x : VReg) : (t.wv v x).be = t.be := rfl
@[simp] theorem Thread.wv_wakep (t : Thread) (v : VIx) (x : VReg) : (t.wv v x).wakep = t.wakep := rfl
@[simp] theorem Thread.wv_bskip (t : Thread) (v : VIx) (x : VReg) : (t.wv v x).bskip = t.bskip := rfl
@[simp] theorem Thread.wv_run (t : Thread) (v : VIx) (x : VReg) : (t.wv v x).run = t.run := rfl
@[simp] theorem Thread.wv_wait (t : Thread) (v : VIx) (x : VReg) : (t.wv v x).wait = t.wait := rfl
@[simp] theorem Thread.wv_rm (t : Thread) (v : VIx) (x : VReg) : (t.wv v x).rm = t.rm := rfl
@[simp] theorem Thread.wv_ftz (t : Thread) (v : VIx) (x : VReg) : (t.wv v x).ftz = t.ftz := rfl
@[simp] theorem Thread.wv_ovf (t : Thread) (v : VIx) (x : VReg) : (t.wv v x).ovf = t.ovf := rfl
@[simp] theorem Thread.wv_seed (t : Thread) (v : VIx) (x : VReg) : (t.wv v x).seed = t.seed := rfl
@[simp] theorem Thread.wv_tvec (t : Thread) (v : VIx) (x : VReg) : (t.wv v x).tvec = t.tvec := rfl
@[simp] theorem Thread.wv_epc (t : Thread) (v : VIx) (x : VReg) : (t.wv v x).epc = t.epc := rfl
@[simp] theorem Thread.wv_walkBit (t : Thread) (v : VIx) (x : VReg) : (t.wv v x).walkBit = t.walkBit := rfl
@[simp] theorem Thread.wv_cause (t : Thread) (v : VIx) (x : VReg) : (t.wv v x).cause = t.cause := rfl
@[simp] theorem Thread.wv_eval (t : Thread) (v : VIx) (x : VReg) : (t.wv v x).eval = t.eval := rfl
@[simp] theorem Thread.wv_ecap (t : Thread) (v : VIx) (x : VReg) : (t.wv v x).ecap = t.ecap := rfl
@[simp] theorem Thread.wv_bpc (t : Thread) (v : VIx) (x : VReg) : (t.wv v x).bpc = t.bpc := rfl
@[simp] theorem Thread.wv_retired (t : Thread) (v : VIx) (x : VReg) : (t.wv v x).retired = t.retired := rfl
@[simp] theorem Thread.wv_skip (t : Thread) (v : VIx) (x : VReg) : (t.wv v x).skip = t.skip := rfl
@[simp] theorem Thread.wv_owed (t : Thread) (v : VIx) (x : VReg) : (t.wv v x).owed = t.owed := rfl
@[simp] theorem Thread.wv_fbuf (t : Thread) (v : VIx) (x : VReg) : (t.wv v x).fbuf = t.fbuf := rfl
@[simp] theorem Thread.wv_wanted (t : Thread) (v : VIx) (x : VReg) : (t.wv v x).wanted = t.wanted := rfl
@[simp] theorem Thread.wv_recheck (t : Thread) (v : VIx) (x : VReg) : (t.wv v x).recheck = t.recheck := rfl
@[simp] theorem Thread.wv_limbo (t : Thread) (v : VIx) (x : VReg) : (t.wv v x).limbo = t.limbo := rfl
@[simp] theorem Thread.wv_badBase (t : Thread) (v : VIx) (x : VReg) : (t.wv v x).badBase = t.badBase := rfl
@[simp] theorem Thread.wv_retryBanks (t : Thread) (v : VIx) (x : VReg) : (t.wv v x).retryBanks = t.retryBanks := rfl
@[simp] theorem Thread.wv_served (t : Thread) (v : VIx) (x : VReg) : (t.wv v x).served = t.served := rfl
@[simp] theorem Thread.wv_walkEnds (t : Thread) (v : VIx) (x : VReg) : (t.wv v x).walkEnds = t.walkEnds := rfl
@[simp] theorem Thread.wv_afp (t : Thread) (v : VIx) (x : VReg) : (t.wv v x).afp = t.afp := rfl
@[simp] theorem Thread.wv_crownDone (t : Thread) (v : VIx) (x : VReg) : (t.wv v x).crownDone = t.crownDone := rfl
@[simp] theorem Thread.wv_readyAt (t : Thread) (v : VIx) (x : VReg) : (t.wv v x).readyAt = t.readyAt := rfl
@[simp] theorem Thread.wv_wfwSince (t : Thread) (v : VIx) (x : VReg) : (t.wv v x).wfwSince = t.wfwSince := rfl
@[simp] theorem Thread.wv_halt187 (t : Thread) (v : VIx) (x : VReg) : (t.wv v x).halt187 = t.halt187 := rfl

@[simp] theorem Thread.abandon_g (t : Thread)  : (t.abandon).g = t.g := rfl
@[simp] theorem Thread.abandon_v (t : Thread)  : (t.abandon).v = t.v := rfl
@[simp] theorem Thread.abandon_k (t : Thread)  : (t.abandon).k = t.k := rfl
@[simp] theorem Thread.abandon_pc (t : Thread)  : (t.abandon).pc = t.pc := rfl
@[simp] theorem Thread.abandon_code (t : Thread)  : (t.abandon).code = t.code := rfl
@[simp] theorem Thread.abandon_mode (t : Thread)  : (t.abandon).mode = t.mode := rfl
@[simp] theorem Thread.abandon_priv (t : Thread)  : (t.abandon).priv = t.priv := rfl
@[simp] theorem Thread.abandon_ppriv (t : Thread)  : (t.abandon).ppriv = t.ppriv := rfl
@[simp] theorem Thread.abandon_exl (t : Thread)  : (t.abandon).exl = t.exl := rfl
@[simp] theorem Thread.abandon_be (t : Thread)  : (t.abandon).be = t.be := rfl
@[simp] theorem Thread.abandon_wakep (t : Thread)  : (t.abandon).wakep = t.wakep := rfl
@[simp] theorem Thread.abandon_bskip (t : Thread)  : (t.abandon).bskip = t.bskip := rfl
@[simp] theorem Thread.abandon_run (t : Thread)  : (t.abandon).run = t.run := rfl
@[simp] theorem Thread.abandon_wait (t : Thread)  : (t.abandon).wait = t.wait := rfl
@[simp] theorem Thread.abandon_rm (t : Thread)  : (t.abandon).rm = t.rm := rfl
@[simp] theorem Thread.abandon_ftz (t : Thread)  : (t.abandon).ftz = t.ftz := rfl
@[simp] theorem Thread.abandon_ovf (t : Thread)  : (t.abandon).ovf = t.ovf := rfl
@[simp] theorem Thread.abandon_seed (t : Thread)  : (t.abandon).seed = t.seed := rfl
@[simp] theorem Thread.abandon_tvec (t : Thread)  : (t.abandon).tvec = t.tvec := rfl
@[simp] theorem Thread.abandon_epc (t : Thread)  : (t.abandon).epc = t.epc := rfl
@[simp] theorem Thread.abandon_walkBit (t : Thread)  : (t.abandon).walkBit = t.walkBit := rfl
@[simp] theorem Thread.abandon_cause (t : Thread)  : (t.abandon).cause = t.cause := rfl
@[simp] theorem Thread.abandon_eval (t : Thread)  : (t.abandon).eval = t.eval := rfl
@[simp] theorem Thread.abandon_ecap (t : Thread)  : (t.abandon).ecap = t.ecap := rfl
@[simp] theorem Thread.abandon_bpc (t : Thread)  : (t.abandon).bpc = t.bpc := rfl
@[simp] theorem Thread.abandon_retired (t : Thread)  : (t.abandon).retired = t.retired := rfl
@[simp] theorem Thread.abandon_owed (t : Thread)  : (t.abandon).owed = t.owed := rfl
@[simp] theorem Thread.abandon_fbuf (t : Thread)  : (t.abandon).fbuf = t.fbuf := rfl
@[simp] theorem Thread.abandon_wanted (t : Thread)  : (t.abandon).wanted = t.wanted := rfl
@[simp] theorem Thread.abandon_limbo (t : Thread)  : (t.abandon).limbo = t.limbo := rfl
@[simp] theorem Thread.abandon_afp (t : Thread)  : (t.abandon).afp = t.afp := rfl
@[simp] theorem Thread.abandon_crownDone (t : Thread)  : (t.abandon).crownDone = t.crownDone := rfl
@[simp] theorem Thread.abandon_readyAt (t : Thread)  : (t.abandon).readyAt = t.readyAt := rfl
@[simp] theorem Thread.abandon_wfwSince (t : Thread)  : (t.abandon).wfwSince = t.wfwSince := rfl
@[simp] theorem Thread.abandon_halt187 (t : Thread)  : (t.abandon).halt187 = t.halt187 := rfl

@[simp] theorem Thread.wr_v (t : Thread) (r : GIx) (x : GReg) : (t.wr r x).v = t.v := by unfold Thread.wr; split <;> rfl
@[simp] theorem Thread.wr_k (t : Thread) (r : GIx) (x : GReg) : (t.wr r x).k = t.k := by unfold Thread.wr; split <;> rfl
@[simp] theorem Thread.wr_pc (t : Thread) (r : GIx) (x : GReg) : (t.wr r x).pc = t.pc := by unfold Thread.wr; split <;> rfl
@[simp] theorem Thread.wr_code (t : Thread) (r : GIx) (x : GReg) : (t.wr r x).code = t.code := by unfold Thread.wr; split <;> rfl
@[simp] theorem Thread.wr_mode (t : Thread) (r : GIx) (x : GReg) : (t.wr r x).mode = t.mode := by unfold Thread.wr; split <;> rfl
@[simp] theorem Thread.wr_priv (t : Thread) (r : GIx) (x : GReg) : (t.wr r x).priv = t.priv := by unfold Thread.wr; split <;> rfl
@[simp] theorem Thread.wr_ppriv (t : Thread) (r : GIx) (x : GReg) : (t.wr r x).ppriv = t.ppriv := by unfold Thread.wr; split <;> rfl
@[simp] theorem Thread.wr_exl (t : Thread) (r : GIx) (x : GReg) : (t.wr r x).exl = t.exl := by unfold Thread.wr; split <;> rfl
@[simp] theorem Thread.wr_be (t : Thread) (r : GIx) (x : GReg) : (t.wr r x).be = t.be := by unfold Thread.wr; split <;> rfl
@[simp] theorem Thread.wr_wakep (t : Thread) (r : GIx) (x : GReg) : (t.wr r x).wakep = t.wakep := by unfold Thread.wr; split <;> rfl
@[simp] theorem Thread.wr_bskip (t : Thread) (r : GIx) (x : GReg) : (t.wr r x).bskip = t.bskip := by unfold Thread.wr; split <;> rfl
@[simp] theorem Thread.wr_run (t : Thread) (r : GIx) (x : GReg) : (t.wr r x).run = t.run := by unfold Thread.wr; split <;> rfl
@[simp] theorem Thread.wr_wait (t : Thread) (r : GIx) (x : GReg) : (t.wr r x).wait = t.wait := by unfold Thread.wr; split <;> rfl
@[simp] theorem Thread.wr_rm (t : Thread) (r : GIx) (x : GReg) : (t.wr r x).rm = t.rm := by unfold Thread.wr; split <;> rfl
@[simp] theorem Thread.wr_ftz (t : Thread) (r : GIx) (x : GReg) : (t.wr r x).ftz = t.ftz := by unfold Thread.wr; split <;> rfl
@[simp] theorem Thread.wr_ovf (t : Thread) (r : GIx) (x : GReg) : (t.wr r x).ovf = t.ovf := by unfold Thread.wr; split <;> rfl
@[simp] theorem Thread.wr_seed (t : Thread) (r : GIx) (x : GReg) : (t.wr r x).seed = t.seed := by unfold Thread.wr; split <;> rfl
@[simp] theorem Thread.wr_tvec (t : Thread) (r : GIx) (x : GReg) : (t.wr r x).tvec = t.tvec := by unfold Thread.wr; split <;> rfl
@[simp] theorem Thread.wr_epc (t : Thread) (r : GIx) (x : GReg) : (t.wr r x).epc = t.epc := by unfold Thread.wr; split <;> rfl
@[simp] theorem Thread.wr_walkBit (t : Thread) (r : GIx) (x : GReg) : (t.wr r x).walkBit = t.walkBit := by unfold Thread.wr; split <;> rfl
@[simp] theorem Thread.wr_cause (t : Thread) (r : GIx) (x : GReg) : (t.wr r x).cause = t.cause := by unfold Thread.wr; split <;> rfl
@[simp] theorem Thread.wr_eval (t : Thread) (r : GIx) (x : GReg) : (t.wr r x).eval = t.eval := by unfold Thread.wr; split <;> rfl
@[simp] theorem Thread.wr_ecap (t : Thread) (r : GIx) (x : GReg) : (t.wr r x).ecap = t.ecap := by unfold Thread.wr; split <;> rfl
@[simp] theorem Thread.wr_bpc (t : Thread) (r : GIx) (x : GReg) : (t.wr r x).bpc = t.bpc := by unfold Thread.wr; split <;> rfl
@[simp] theorem Thread.wr_retired (t : Thread) (r : GIx) (x : GReg) : (t.wr r x).retired = t.retired := by unfold Thread.wr; split <;> rfl
@[simp] theorem Thread.wr_skip (t : Thread) (r : GIx) (x : GReg) : (t.wr r x).skip = t.skip := by unfold Thread.wr; split <;> rfl
@[simp] theorem Thread.wr_owed (t : Thread) (r : GIx) (x : GReg) : (t.wr r x).owed = t.owed := by unfold Thread.wr; split <;> rfl
@[simp] theorem Thread.wr_fbuf (t : Thread) (r : GIx) (x : GReg) : (t.wr r x).fbuf = t.fbuf := by unfold Thread.wr; split <;> rfl
@[simp] theorem Thread.wr_wanted (t : Thread) (r : GIx) (x : GReg) : (t.wr r x).wanted = t.wanted := by unfold Thread.wr; split <;> rfl
@[simp] theorem Thread.wr_recheck (t : Thread) (r : GIx) (x : GReg) : (t.wr r x).recheck = t.recheck := by unfold Thread.wr; split <;> rfl
@[simp] theorem Thread.wr_limbo (t : Thread) (r : GIx) (x : GReg) : (t.wr r x).limbo = t.limbo := by unfold Thread.wr; split <;> rfl
@[simp] theorem Thread.wr_badBase (t : Thread) (r : GIx) (x : GReg) : (t.wr r x).badBase = t.badBase := by unfold Thread.wr; split <;> rfl
@[simp] theorem Thread.wr_retryBanks (t : Thread) (r : GIx) (x : GReg) : (t.wr r x).retryBanks = t.retryBanks := by unfold Thread.wr; split <;> rfl
@[simp] theorem Thread.wr_served (t : Thread) (r : GIx) (x : GReg) : (t.wr r x).served = t.served := by unfold Thread.wr; split <;> rfl
@[simp] theorem Thread.wr_walkEnds (t : Thread) (r : GIx) (x : GReg) : (t.wr r x).walkEnds = t.walkEnds := by unfold Thread.wr; split <;> rfl
@[simp] theorem Thread.wr_afp (t : Thread) (r : GIx) (x : GReg) : (t.wr r x).afp = t.afp := by unfold Thread.wr; split <;> rfl
@[simp] theorem Thread.wr_crownDone (t : Thread) (r : GIx) (x : GReg) : (t.wr r x).crownDone = t.crownDone := by unfold Thread.wr; split <;> rfl
@[simp] theorem Thread.wr_readyAt (t : Thread) (r : GIx) (x : GReg) : (t.wr r x).readyAt = t.readyAt := by unfold Thread.wr; split <;> rfl
@[simp] theorem Thread.wr_wfwSince (t : Thread) (r : GIx) (x : GReg) : (t.wr r x).wfwSince = t.wfwSince := by unfold Thread.wr; split <;> rfl
@[simp] theorem Thread.wr_halt187 (t : Thread) (r : GIx) (x : GReg) : (t.wr r x).halt187 = t.halt187 := by unfold Thread.wr; split <;> rfl

@[simp] theorem Thread.wk_g (t : Thread) (r : KIx) (x : BitVec 16) : (t.wk r x).g = t.g := by unfold Thread.wk; split <;> rfl
@[simp] theorem Thread.wk_v (t : Thread) (r : KIx) (x : BitVec 16) : (t.wk r x).v = t.v := by unfold Thread.wk; split <;> rfl
@[simp] theorem Thread.wk_pc (t : Thread) (r : KIx) (x : BitVec 16) : (t.wk r x).pc = t.pc := by unfold Thread.wk; split <;> rfl
@[simp] theorem Thread.wk_code (t : Thread) (r : KIx) (x : BitVec 16) : (t.wk r x).code = t.code := by unfold Thread.wk; split <;> rfl
@[simp] theorem Thread.wk_mode (t : Thread) (r : KIx) (x : BitVec 16) : (t.wk r x).mode = t.mode := by unfold Thread.wk; split <;> rfl
@[simp] theorem Thread.wk_priv (t : Thread) (r : KIx) (x : BitVec 16) : (t.wk r x).priv = t.priv := by unfold Thread.wk; split <;> rfl
@[simp] theorem Thread.wk_ppriv (t : Thread) (r : KIx) (x : BitVec 16) : (t.wk r x).ppriv = t.ppriv := by unfold Thread.wk; split <;> rfl
@[simp] theorem Thread.wk_exl (t : Thread) (r : KIx) (x : BitVec 16) : (t.wk r x).exl = t.exl := by unfold Thread.wk; split <;> rfl
@[simp] theorem Thread.wk_be (t : Thread) (r : KIx) (x : BitVec 16) : (t.wk r x).be = t.be := by unfold Thread.wk; split <;> rfl
@[simp] theorem Thread.wk_wakep (t : Thread) (r : KIx) (x : BitVec 16) : (t.wk r x).wakep = t.wakep := by unfold Thread.wk; split <;> rfl
@[simp] theorem Thread.wk_bskip (t : Thread) (r : KIx) (x : BitVec 16) : (t.wk r x).bskip = t.bskip := by unfold Thread.wk; split <;> rfl
@[simp] theorem Thread.wk_run (t : Thread) (r : KIx) (x : BitVec 16) : (t.wk r x).run = t.run := by unfold Thread.wk; split <;> rfl
@[simp] theorem Thread.wk_wait (t : Thread) (r : KIx) (x : BitVec 16) : (t.wk r x).wait = t.wait := by unfold Thread.wk; split <;> rfl
@[simp] theorem Thread.wk_rm (t : Thread) (r : KIx) (x : BitVec 16) : (t.wk r x).rm = t.rm := by unfold Thread.wk; split <;> rfl
@[simp] theorem Thread.wk_ftz (t : Thread) (r : KIx) (x : BitVec 16) : (t.wk r x).ftz = t.ftz := by unfold Thread.wk; split <;> rfl
@[simp] theorem Thread.wk_ovf (t : Thread) (r : KIx) (x : BitVec 16) : (t.wk r x).ovf = t.ovf := by unfold Thread.wk; split <;> rfl
@[simp] theorem Thread.wk_seed (t : Thread) (r : KIx) (x : BitVec 16) : (t.wk r x).seed = t.seed := by unfold Thread.wk; split <;> rfl
@[simp] theorem Thread.wk_tvec (t : Thread) (r : KIx) (x : BitVec 16) : (t.wk r x).tvec = t.tvec := by unfold Thread.wk; split <;> rfl
@[simp] theorem Thread.wk_epc (t : Thread) (r : KIx) (x : BitVec 16) : (t.wk r x).epc = t.epc := by unfold Thread.wk; split <;> rfl
@[simp] theorem Thread.wk_walkBit (t : Thread) (r : KIx) (x : BitVec 16) : (t.wk r x).walkBit = t.walkBit := by unfold Thread.wk; split <;> rfl
@[simp] theorem Thread.wk_cause (t : Thread) (r : KIx) (x : BitVec 16) : (t.wk r x).cause = t.cause := by unfold Thread.wk; split <;> rfl
@[simp] theorem Thread.wk_eval (t : Thread) (r : KIx) (x : BitVec 16) : (t.wk r x).eval = t.eval := by unfold Thread.wk; split <;> rfl
@[simp] theorem Thread.wk_ecap (t : Thread) (r : KIx) (x : BitVec 16) : (t.wk r x).ecap = t.ecap := by unfold Thread.wk; split <;> rfl
@[simp] theorem Thread.wk_bpc (t : Thread) (r : KIx) (x : BitVec 16) : (t.wk r x).bpc = t.bpc := by unfold Thread.wk; split <;> rfl
@[simp] theorem Thread.wk_retired (t : Thread) (r : KIx) (x : BitVec 16) : (t.wk r x).retired = t.retired := by unfold Thread.wk; split <;> rfl
@[simp] theorem Thread.wk_skip (t : Thread) (r : KIx) (x : BitVec 16) : (t.wk r x).skip = t.skip := by unfold Thread.wk; split <;> rfl
@[simp] theorem Thread.wk_owed (t : Thread) (r : KIx) (x : BitVec 16) : (t.wk r x).owed = t.owed := by unfold Thread.wk; split <;> rfl
@[simp] theorem Thread.wk_fbuf (t : Thread) (r : KIx) (x : BitVec 16) : (t.wk r x).fbuf = t.fbuf := by unfold Thread.wk; split <;> rfl
@[simp] theorem Thread.wk_wanted (t : Thread) (r : KIx) (x : BitVec 16) : (t.wk r x).wanted = t.wanted := by unfold Thread.wk; split <;> rfl
@[simp] theorem Thread.wk_recheck (t : Thread) (r : KIx) (x : BitVec 16) : (t.wk r x).recheck = t.recheck := by unfold Thread.wk; split <;> rfl
@[simp] theorem Thread.wk_limbo (t : Thread) (r : KIx) (x : BitVec 16) : (t.wk r x).limbo = t.limbo := by unfold Thread.wk; split <;> rfl
@[simp] theorem Thread.wk_badBase (t : Thread) (r : KIx) (x : BitVec 16) : (t.wk r x).badBase = t.badBase := by unfold Thread.wk; split <;> rfl
@[simp] theorem Thread.wk_retryBanks (t : Thread) (r : KIx) (x : BitVec 16) : (t.wk r x).retryBanks = t.retryBanks := by unfold Thread.wk; split <;> rfl
@[simp] theorem Thread.wk_served (t : Thread) (r : KIx) (x : BitVec 16) : (t.wk r x).served = t.served := by unfold Thread.wk; split <;> rfl
@[simp] theorem Thread.wk_walkEnds (t : Thread) (r : KIx) (x : BitVec 16) : (t.wk r x).walkEnds = t.walkEnds := by unfold Thread.wk; split <;> rfl
@[simp] theorem Thread.wk_afp (t : Thread) (r : KIx) (x : BitVec 16) : (t.wk r x).afp = t.afp := by unfold Thread.wk; split <;> rfl
@[simp] theorem Thread.wk_crownDone (t : Thread) (r : KIx) (x : BitVec 16) : (t.wk r x).crownDone = t.crownDone := by unfold Thread.wk; split <;> rfl
@[simp] theorem Thread.wk_readyAt (t : Thread) (r : KIx) (x : BitVec 16) : (t.wk r x).readyAt = t.readyAt := by unfold Thread.wk; split <;> rfl
@[simp] theorem Thread.wk_wfwSince (t : Thread) (r : KIx) (x : BitVec 16) : (t.wk r x).wfwSince = t.wfwSince := by unfold Thread.wk; split <;> rfl
@[simp] theorem Thread.wk_halt187 (t : Thread) (r : KIx) (x : BitVec 16) : (t.wk r x).halt187 = t.halt187 := by unfold Thread.wk; split <;> rfl

@[simp] theorem Tile.setThread_region (x : Tile) (h : Nat) (y : Thread) : (x.setThread h y).region = x.region := rfl
@[simp] theorem Tile.setThread_ctx (x : Tile) (h : Nat) (y : Thread) : (x.setThread h y).ctx = x.ctx := rfl
@[simp] theorem Tile.setThread_replay (x : Tile) (h : Nat) (y : Thread) : (x.setThread h y).replay = x.replay := rfl
@[simp] theorem Tile.setThread_imageSize (x : Tile) (h : Nat) (y : Thread) : (x.setThread h y).imageSize = x.imageSize := rfl
@[simp] theorem Tile.setThread_rot (x : Tile) (h : Nat) (y : Thread) : (x.setThread h y).rot = x.rot := rfl
@[simp] theorem Tile.setThread_cycle (x : Tile) (h : Nat) (y : Thread) : (x.setThread h y).cycle = x.cycle := rfl
@[simp] theorem Tile.setThread_injstall (x : Tile) (h : Nat) (y : Thread) : (x.setThread h y).injstall = x.injstall := rfl
@[simp] theorem Tile.setThread_throttleCnt (x : Tile) (h : Nat) (y : Thread) : (x.setThread h y).throttleCnt = x.throttleCnt := rfl
@[simp] theorem Tile.setThread_matwt (x : Tile) (h : Nat) (y : Thread) : (x.setThread h y).matwt = x.matwt := rfl
@[simp] theorem Tile.setThread_taken (x : Tile) (h : Nat) (y : Thread) : (x.setThread h y).taken = x.taken := rfl
@[simp] theorem Tile.setThread_late (x : Tile) (h : Nat) (y : Thread) : (x.setThread h y).late = x.late := rfl
@[simp] theorem Tile.setThread_written (x : Tile) (h : Nat) (y : Thread) : (x.setThread h y).written = x.written := rfl
@[simp] theorem Tile.setThread_reserved (x : Tile) (h : Nat) (y : Thread) : (x.setThread h y).reserved = x.reserved := rfl
@[simp] theorem Tile.setThread_waits (x : Tile) (h : Nat) (y : Thread) : (x.setThread h y).waits = x.waits := rfl
@[simp] theorem Tile.setThread_passedA (x : Tile) (h : Nat) (y : Thread) : (x.setThread h y).passedA = x.passedA := rfl
@[simp] theorem Tile.setThread_passedB (x : Tile) (h : Nat) (y : Thread) : (x.setThread h y).passedB = x.passedB := rfl
@[simp] theorem Tile.setThread_mending (x : Tile) (h : Nat) (y : Thread) : (x.setThread h y).mending = x.mending := rfl
@[simp] theorem Tile.setThread_copyq (x : Tile) (h : Nat) (y : Thread) : (x.setThread h y).copyq = x.copyq := rfl
@[simp] theorem Tile.setThread_copySeq (x : Tile) (h : Nat) (y : Thread) : (x.setThread h y).copySeq = x.copySeq := rfl
@[simp] theorem Tile.setThread_copyAge (x : Tile) (h : Nat) (y : Thread) : (x.setThread h y).copyAge = x.copyAge := rfl
@[simp] theorem Tile.setThread_matq (x : Tile) (h : Nat) (y : Thread) : (x.setThread h y).matq = x.matq := rfl
@[simp] theorem Tile.setThread_windows (x : Tile) (h : Nat) (y : Thread) : (x.setThread h y).windows = x.windows := rfl
@[simp] theorem Tile.setThread_slots (x : Tile) (h : Nat) (y : Thread) : (x.setThread h y).slots = x.slots := rfl
@[simp] theorem Tile.setThread_ejA (x : Tile) (h : Nat) (y : Thread) : (x.setThread h y).ejA = x.ejA := rfl
@[simp] theorem Tile.setThread_ejB (x : Tile) (h : Nat) (y : Thread) : (x.setThread h y).ejB = x.ejB := rfl
@[simp] theorem Tile.setThread_injA (x : Tile) (h : Nat) (y : Thread) : (x.setThread h y).injA = x.injA := rfl
@[simp] theorem Tile.setThread_injB (x : Tile) (h : Nat) (y : Thread) : (x.setThread h y).injB = x.injB := rfl
@[simp] theorem Tile.setThread_queueA (x : Tile) (h : Nat) (y : Thread) : (x.setThread h y).queueA = x.queueA := rfl
@[simp] theorem Tile.setThread_queueB (x : Tile) (h : Nat) (y : Thread) : (x.setThread h y).queueB = x.queueB := rfl
@[simp] theorem Tile.setThread_turnA (x : Tile) (h : Nat) (y : Thread) : (x.setThread h y).turnA = x.turnA := rfl
@[simp] theorem Tile.setThread_turnB (x : Tile) (h : Nat) (y : Thread) : (x.setThread h y).turnB = x.turnB := rfl
@[simp] theorem Tile.setThread_monitors (x : Tile) (h : Nat) (y : Thread) : (x.setThread h y).monitors = x.monitors := rfl
@[simp] theorem Tile.setThread_withdrawn (x : Tile) (h : Nat) (y : Thread) : (x.setThread h y).withdrawn = x.withdrawn := rfl
@[simp] theorem Tile.setThread_flog (x : Tile) (h : Nat) (y : Thread) : (x.setThread h y).flog = x.flog := rfl
@[simp] theorem Tile.setThread_spilled (x : Tile) (h : Nat) (y : Thread) : (x.setThread h y).spilled = x.spilled := rfl
@[simp] theorem Tile.setThread_lateLog (x : Tile) (h : Nat) (y : Thread) : (x.setThread h y).lateLog = x.lateLog := rfl
@[simp] theorem Tile.setThread_spawn (x : Tile) (h : Nat) (y : Thread) : (x.setThread h y).spawn = x.spawn := rfl
@[simp] theorem Tile.setThread_barriers (x : Tile) (h : Nat) (y : Thread) : (x.setThread h y).barriers = x.barriers := rfl
@[simp] theorem Tile.setThread_crownCnt (x : Tile) (h : Nat) (y : Thread) : (x.setThread h y).crownCnt = x.crownCnt := rfl
@[simp] theorem Tile.setThread_crownHeld (x : Tile) (h : Nat) (y : Thread) : (x.setThread h y).crownHeld = x.crownHeld := rfl
@[simp] theorem Tile.setThread_posted (x : Tile) (h : Nat) (y : Thread) : (x.setThread h y).posted = x.posted := rfl
@[simp] theorem Tile.setThread_retries (x : Tile) (h : Nat) (y : Thread) : (x.setThread h y).retries = x.retries := rfl
@[simp] theorem Tile.setThread_wfwNext (x : Tile) (h : Nat) (y : Thread) : (x.setThread h y).wfwNext = x.wfwNext := rfl
@[simp] theorem Tile.setThread_halt (x : Tile) (h : Nat) (y : Thread) : (x.setThread h y).halt = x.halt := rfl
@[simp] theorem Tile.setThread_fenced (x : Tile) (h : Nat) (y : Thread) : (x.setThread h y).fenced = x.fenced := rfl
@[simp] theorem Tile.setThread_wiped (x : Tile) (h : Nat) (y : Thread) : (x.setThread h y).wiped = x.wiped := rfl
@[simp] theorem Tile.setThread_mismatch (x : Tile) (h : Nat) (y : Thread) : (x.setThread h y).mismatch = x.mismatch := rfl
@[simp] theorem Tile.setThread_scoreBase (x : Tile) (h : Nat) (y : Thread) : (x.setThread h y).scoreBase = x.scoreBase := rfl
@[simp] theorem Tile.setThread_score (x : Tile) (h : Nat) (y : Thread) : (x.setThread h y).score = x.score := rfl
@[simp] theorem Tile.setThread_scoreEnd (x : Tile) (h : Nat) (y : Thread) : (x.setThread h y).scoreEnd = x.scoreEnd := rfl

end Sys2Proof.Machine
end

