-- ==== Sys2Proof/Laws/Maps.lean ====
section
/-! SUPPORT. Keyed collections: reading after writing, and the canonical form kept by every operation. -/
namespace Sys2Proof.Machine

variable {α : Type}

/-! ## Reading after writing -/

@[simp] theorem mget_mdel_self (d : α) (m : SMap α) (k : Nat) : mget d (mdel m k) k = d := by
  induction m with
  | nil => rfl
  | cons x m ih =>
    obtain ⟨j, v⟩ := x
    by_cases h : j = k <;> simp [mdel, mget, h, ih]

theorem mget_mdel_other (d : α) (m : SMap α) {k j : Nat} (h : j ≠ k) : mget d (mdel m k) j = mget d m j := by
  induction m with
  | nil => rfl
  | cons x m ih =>
    obtain ⟨i, v⟩ := x
    by_cases hi : i = k
    · subst hi; simp [mdel, mget, ih, Ne.symm h]
    · by_cases hj : i = j
      · subst hj; simp [mdel, mget, hi]
      · simp [mdel, mget, hi, hj, ih]

theorem mget_mins_self (d : α) (m : SMap α) (k : Nat) (v : α) (h : ∀ x ∈ m, x.1 ≠ k) : mget d (mins m k v) k = v := by
  induction m with
  | nil => simp [mins, mget]
  | cons x m ih =>
    obtain ⟨j, w⟩ := x
    have hj : j ≠ k := h (j, w) (by simp)
    by_cases hk : k < j
    · simp [mins, mget, hk]
    · simp only [mins, hk, if_false, mget, hj]
      exact ih fun x hx => h x (by simp [hx])

theorem mget_mins_other (d : α) (m : SMap α) {k j : Nat} (v : α) (h : j ≠ k) : mget d (mins m k v) j = mget d m j := by
  induction m with
  | nil => simp [mins, mget, Ne.symm h]
  | cons x m ih =>
    obtain ⟨i, w⟩ := x
    by_cases hk : k < i
    · simp [mins, mget, hk, Ne.symm h]
    · by_cases hj : i = j
      · subst hj; simp [mins, mget, hk]
      · simp [mins, mget, hk, hj, ih]

theorem mdel_keys (m : SMap α) (k : Nat) : ∀ x ∈ mdel m k, x.1 ≠ k := by
  induction m with
  | nil => simp [mdel]
  | cons y m ih =>
    obtain ⟨j, w⟩ := y
    by_cases h : j = k
    · simpa [mdel, h] using ih
    · intro x hx
      simp only [mdel, h, if_false, List.mem_cons] at hx
      rcases hx with rfl | hx
      · exact h
      · exact ih x hx

@[simp] theorem mget_mput_self (d : α) (m : SMap α) (k : Nat) (v : α) : mget d (mput m k v) k = v :=
  mget_mins_self d _ k v (mdel_keys m k)

theorem mget_mput_other (d : α) (m : SMap α) {k j : Nat} (v : α) (h : j ≠ k) : mget d (mput m k v) j = mget d m j := by
  rw [mput, mget_mins_other d _ v h, mget_mdel_other d m h]

@[simp] theorem mget_mset_self [DecidableEq α] (d : α) (m : SMap α) (k : Nat) (v : α) : mget d (mset d m k v) k = v := by
  unfold mset; split <;> simp_all

theorem mget_mset_other [DecidableEq α] (d : α) (m : SMap α) {k j : Nat} (v : α) (h : j ≠ k) :
    mget d (mset d m k v) j = mget d m j := by
  unfold mset; split
  · exact mget_mdel_other d m h
  · exact mget_mput_other d m v h

/-- What a collection reads after a write, at every key. -/
theorem mget_mset [DecidableEq α] (d : α) (m : SMap α) (k j : Nat) (v : α) :
    mget d (mset d m k v) j = if j = k then v else mget d m j := by
  split
  · subst_vars; simp
  · exact mget_mset_other d m v ‹_›

/-! ## The canonical form -/

theorem risingFrom_le {lo hi : Nat} {m : SMap α} (h : risingFrom hi m = true) (hl : lo ≤ hi) : risingFrom lo m = true := by
  cases m with
  | nil => rfl
  | cons x m =>
    obtain ⟨k, v⟩ := x
    simp only [risingFrom, Bool.and_eq_true, decide_eq_true_eq] at *
    exact ⟨by omega, h.2⟩

theorem risingFrom_mdel {lo : Nat} {m : SMap α} (k : Nat) (h : risingFrom lo m = true) : risingFrom lo (mdel m k) = true := by
  induction m generalizing lo with
  | nil => rfl
  | cons x m ih =>
    obtain ⟨j, v⟩ := x
    simp only [risingFrom, Bool.and_eq_true, decide_eq_true_eq] at h
    by_cases hj : j = k
    · simp only [mdel, hj, if_true]
      exact risingFrom_le (ih h.2) (by omega)
    · simp only [mdel, hj, if_false, risingFrom, Bool.and_eq_true, decide_eq_true_eq]
      exact ⟨h.1, ih h.2⟩

theorem risingFrom_mins {lo : Nat} {m : SMap α} {k : Nat} (v : α) (hk : lo ≤ k) (hm : ∀ x ∈ m, x.1 ≠ k)
    (h : risingFrom lo m = true) : risingFrom lo (mins m k v) = true := by
  induction m generalizing lo with
  | nil => simpa [mins, risingFrom] using hk
  | cons x m ih =>
    obtain ⟨j, w⟩ := x
    have hj : j ≠ k := hm (j, w) (by simp)
    simp only [risingFrom, Bool.and_eq_true, decide_eq_true_eq] at h
    by_cases hlt : k < j
    · simp only [mins, hlt, if_true, risingFrom, Bool.and_eq_true, decide_eq_true_eq]
      exact ⟨hk, hlt, h.2⟩
    · simp only [mins, hlt, if_false, risingFrom, Bool.and_eq_true, decide_eq_true_eq]
      exact ⟨h.1, ih (by omega) (fun x hx => hm x (by simp [hx])) h.2⟩

theorem all_mdel {m : SMap α} {p : Nat × α → Bool} (k : Nat) (h : m.all p = true) : (mdel m k).all p = true := by
  induction m with
  | nil => rfl
  | cons x m ih =>
    obtain ⟨j, v⟩ := x
    simp only [List.all_cons, Bool.and_eq_true] at h
    by_cases hj : j = k
    · simpa [mdel, hj] using ih h.2
    · simp only [mdel, hj, if_false, List.all_cons, Bool.and_eq_true]
      exact ⟨h.1, ih h.2⟩

theorem all_mins {m : SMap α} {p : Nat × α → Bool} {k : Nat} {v : α} (hv : p (k, v) = true) (h : m.all p = true) :
    (mins m k v).all p = true := by
  induction m with
  | nil => simpa [mins] using hv
  | cons x m ih =>
    obtain ⟨j, w⟩ := x
    simp only [List.all_cons, Bool.and_eq_true] at h
    by_cases hlt : k < j
    · simp only [mins, hlt, if_true, List.all_cons, Bool.and_eq_true]
      exact ⟨hv, h.1, h.2⟩
    · simp only [mins, hlt, if_false, List.all_cons, Bool.and_eq_true]
      exact ⟨h.1, ih h.2⟩

/-- Writing keeps the canonical form. -/
theorem wf_mset [DecidableEq α] (d : α) {m : SMap α} (k : Nat) (v : α) (h : SMap.wf d m = true) :
    SMap.wf d (mset d m k v) = true := by
  simp only [SMap.wf, Bool.and_eq_true] at *
  unfold mset
  split
  · exact ⟨risingFrom_mdel k h.1, all_mdel k h.2⟩
  · exact ⟨risingFrom_mins v (by omega) (mdel_keys m k) (risingFrom_mdel k h.1), all_mins (by simpa using ‹_›) (all_mdel k h.2)⟩

theorem risingFrom_filter {lo : Nat} {m : SMap α} (p : Nat × α → Bool) (h : risingFrom lo m = true) :
    risingFrom lo (m.filter p) = true := by
  induction m generalizing lo with
  | nil => rfl
  | cons x m ih =>
    obtain ⟨j, v⟩ := x
    simp only [risingFrom, Bool.and_eq_true, decide_eq_true_eq] at h
    by_cases hp : p (j, v) = true
    · simp only [List.filter_cons, hp, if_true, risingFrom, Bool.and_eq_true, decide_eq_true_eq]
      exact ⟨h.1, ih h.2⟩
    · simp only [List.filter_cons, hp]
      exact risingFrom_le (ih h.2) (by omega)

theorem all_filter {m : List α} {p q : α → Bool} (h : m.all q = true) : (m.filter p).all q = true := by
  simp only [List.all_eq_true, List.mem_filter] at *
  exact fun x hx => h x hx.1

/-- Dropping entries keeps the canonical form. -/
theorem wf_filter [DecidableEq α] (d : α) {m : SMap α} (p : Nat × α → Bool) (h : SMap.wf d m = true) :
    SMap.wf d (m.filter p) = true := by
  simp only [SMap.wf, Bool.and_eq_true] at *
  exact ⟨risingFrom_filter p h.1, all_filter h.2⟩

/-! ## Sets -/

theorem mem_nins (l : List Nat) (k j : Nat) : j ∈ nins l k ↔ j = k ∨ j ∈ l := by
  induction l with
  | nil => simp [nins]
  | cons x l ih => by_cases h : k < x <;> simp [nins, h, ih, or_left_comm]

theorem mem_ndel (l : List Nat) (k j : Nat) : j ∈ ndel l k ↔ j ≠ k ∧ j ∈ l := by
  simp [ndel, and_comm]

/-- Membership after a write of a set. -/
theorem mem_nset (l : List Nat) (k j : Nat) (b : Bool) : j ∈ nset l k b ↔ if j = k then b = true else j ∈ l := by
  unfold nset
  cases b <;> by_cases h : j = k <;> simp [mem_nins, mem_ndel, h]

theorem contains_nset (l : List Nat) (k j : Nat) (b : Bool) : (nset l k b).contains j = if j = k then b else l.contains j := by
  rw [Bool.eq_iff_iff, List.contains_iff_mem, mem_nset]
  split <;> simp

end Sys2Proof.Machine
end

