-- ==== Sys2Proof/Laws/Memory.lean ====
section
/-! SUPPORT. Laws of memory: reading a byte after a write, little-endian values, and the canonical form, which every memory
operation keeps. -/
namespace Sys2Proof.Machine

/-! ## Bytes -/

@[simp] theorem setByte_byte_self (s : State) (a : Nat) (b : Byte) : (s.setByte a b).byte a = b := by
  simp [State.byte, State.setByte]

theorem setByte_byte_other (s : State) {a c : Nat} (b : Byte) (h : c ≠ a) : (s.setByte a b).byte c = s.byte c := by
  simp [State.byte, State.setByte, mget_mset_other _ _ _ h]

/-- A byte outside the written range reads as before. -/
theorem setBytes_byte_other (bs : List Byte) (s : State) {a c : Nat} (h : c < a ∨ a + bs.length ≤ c) :
    (s.setBytes a bs).byte c = s.byte c := by
  induction bs generalizing s a with
  | nil => rfl
  | cons b bs ih =>
    simp only [List.length_cons] at h
    rw [State.setBytes, ih _ (by omega), setByte_byte_other _ _ (by omega)]

/-- A byte inside the written range reads as written. -/
theorem setBytes_byte_in (bs : List Byte) (s : State) {a i : Nat} (h : i < bs.length) :
    (s.setBytes a bs).byte (a + i) = bs[i] := by
  induction bs generalizing s a i with
  | nil => simp at h
  | cons b bs ih =>
    rw [State.setBytes]
    cases i with
    | zero => rw [setBytes_byte_other _ _ (by omega)]; simp
    | succ i =>
      have := ih (s.setByte a b) (a := a + 1) (i := i) (by simpa using h)
      simpa [Nat.add_assoc, Nat.add_comm 1 i] using this

@[simp] theorem natLe_length (n v : Nat) : (natLe n v).length = n := by
  induction n generalizing v with
  | zero => rfl
  | succ n ih => simp [natLe, ih]

theorem leNat_natLe (n v : Nat) : leNat (natLe n v) = v % 256 ^ n := by
  induction n generalizing v with
  | zero => simp [natLe, leNat, Nat.mod_one]
  | succ n ih =>
    have h : v % 256 ^ (n + 1) = v % 256 + 256 * (v / 256 % 256 ^ n) := by rw [Nat.pow_succ', Nat.mod_mul]
    rw [natLe, leNat, ih, BitVec.toNat_ofNat, h]

theorem bytes_length (s : State) (a n : Nat) : (s.bytes a n).length = n := by
  induction n generalizing a with
  | zero => rfl
  | succ n ih => simp [State.bytes, ih]

theorem bytes_setBytes (bs : List Byte) (s : State) (a : Nat) : (s.setBytes a bs).bytes a bs.length = bs := by
  induction bs generalizing s a with
  | nil => rfl
  | cons b bs ih =>
    simp only [State.setBytes, List.length_cons, State.bytes, ih]
    rw [setBytes_byte_other _ _ (by omega), setByte_byte_self]

/-- A value reads back as its low bytes. -/
theorem val_setVal (s : State) (a n v : Nat) : (s.setVal a n v).val a n = v % 256 ^ n := by
  have := bytes_setBytes (natLe n v) s a
  rw [natLe_length] at this
  rw [State.val, State.setVal, this, leNat_natLe]

/-! ## The canonical form -/

theorem setByte_wf {s : State} (a : Nat) (b : Byte) (h : Memory.wf s.mem = true) : Memory.wf (s.setByte a b).mem = true :=
  wf_mset 0 a b h

theorem setBytes_wf (bs : List Byte) {s : State} (a : Nat) (h : Memory.wf s.mem = true) :
    Memory.wf (s.setBytes a bs).mem = true := by
  induction bs generalizing s a with
  | nil => exact h
  | cons b bs ih => exact ih (a + 1) (setByte_wf a b h)

theorem setVal_wf {s : State} (a n v : Nat) (h : Memory.wf s.mem = true) : Memory.wf (s.setVal a n v).mem = true :=
  setBytes_wf _ _ h

theorem eraseSpad_wf {s : State} (h : Memory.wf s.mem = true) (p : Nat × Byte → Bool) : Memory.wf (s.mem.filter p) = true :=
  wf_filter 0 p h

theorem reset_wf : Memory.wf State.reset.mem = true := rfl

theorem reset_memoryOk : State.reset.memoryOk = true := rfl

end Sys2Proof.Machine
end

