-- ==== Sys2Proof/Tests/Slice0.lean ====
section
/-! SUPPORT. Tests: words of the manual's encodings, ill-formed instructions, single steps, and a witness for the hypotheses
of every statement. -/
namespace Sys2Proof.Tests
open Sys2Proof Sys2Proof.Machine Sys2Proof.Claims
set_option Elab.async false

/-! ## Words written out from the encodings of chapter 4 and of each instruction's entry -/

theorem test_decode_nop : decode 0b0000000_00_0000_000 0 = some (.nop) := by decide
theorem test_decode_sub : decode 0b0000001_01_0011_001 0b0001_0010_00000000 = some (.sub 3 1 2) := by decide
theorem test_decode_maxu : decode 0b0000010_01_1111_100 0b1000_0111_00000000 = some (.maxu 15 8 7) := by decide
theorem test_decode_remu : decode 0b0000011_01_0100_110 0b0101_0110_00000000 = some (.remu 4 5 6) := by decide
theorem test_decode_zext : decode 0b0000100_01_0001_100 0b0010_0000_00011111 = some (.zext 1 2 31) := by decide
theorem test_decode_bfi : decode 0b0000101_10_0001_001 0b0010_0000_0000_00000000_001111_110000 = some (.bfi 1 2 15 48) := by decide
theorem test_decode_addi : decode 0b0000110_10_0010_000 0b0011_0000_0000_11111111111111111111 = some (.addi 2 3 (-1)) := by decide
theorem test_decode_movi : decode 0b0000111_11_1001_000 0b100000000000000000000000000000000000000000000001 = some (.movi 9 0x8000_0000_0001) := by decide
theorem test_decode_cmp : decode 0b0001000_01_0011_100 0b0100_0101_00000000 = some (.cmp 3 .ltu 4 5) := by decide
theorem test_decode_cmpi : decode 0b0001001_10_0001_011 0b0100_0000_0000_00000000000000000111 = some (.cmpi 1 .ge 4 7) := by decide
theorem test_decode_tstb : decode 0b0001010_01_0010_001 0b0110_0000_00111111 = some (.tstb 2 true 6 63) := by decide
theorem test_decode_tstg : decode 0b0001011_01_0001_000 0b0110_0000_00000010 = some (.tstg 1 false 6 2) := by decide
theorem test_decode_jl : decode 0b0001100_10_0000_001 0b0000_0000_0000_111111111111110_00101 = some (.jl (-2) 5) := by decide
theorem test_decode_jr : decode 0b0001101_01_0000_000 0b1111_0000_00000000 = some (.jr 15) := by decide
theorem test_decode_capget : decode 0b0001110_01_0001_000 0b0010_0000_00000100 = some (.capget 1 2 .w) := by decide
theorem test_decode_capchk : decode 0b0001111_10_0001_001 0b0010_0011_0000_0000000000_1000000011 = some (.capchk 1 2 3 0x203) := by decide
theorem test_decode_ld : decode 0b0100000_10_0001_110 0b0010_0000_0000_1_1111111111111111000 = some (.ld true 2 1 2 0xFFFF8) := by decide
theorem test_decode_st : decode 0b0100001_10_0001_011 0b0010_0000_0000_0_0000000000000010000 = some (.st 3 1 2 16) := by decide
theorem test_decode_stv : decode 0b0100010_10_0111_001 0b0010_0000_0001_0_0000000000001000000 = some (.stv 7 2 1 64) := by decide
theorem test_decode_ldvs : decode 0b0100011_10_0101_100 0b0010_0011_0000_0_0000000000000000000 = some (.ldvs .b 5 2 3 0 0) := by decide
theorem test_decode_vscat : decode 0b0100100_10_0101_001 0b0010_0100_0011_0_0000000000000001000 = some (.vscat 5 2 4 3 8) := by decide
theorem test_decode_ldcap : decode 0b0100101_10_0101_000 0b0010_0000_0000_0_0000000000000010000 = some (.ldcap 5 2 16) := by decide
theorem test_decode_putf : decode 0b0100110_10_0101_001 0b0010_0000_0100_0_0000000000000000010 = some (.putf 1 5 2 4 2) := by decide
theorem test_decode_putvf : decode 0b0100111_10_0101_000 0b0010_0011_0100_0_0000000000001000000 = some (.putvf 5 2 3 4 64) := by decide
theorem test_decode_rmax : decode 0b0101000_10_0000_010 0b0010_0011_0100_0010_1111111111111100 = some (.rmax .n32 2 3 4 0xFFFC) := by decide
theorem test_decode_rcas : decode 0b0101001_10_0001_001 0b0010_0011_0100_0001_0000000000001000 = some (.rcas .i64 1 2 3 4 8) := by decide
theorem test_decode_feset : decode 0b0101010_10_0001_010 0b0010_0000_0000_0_0000000000000001000 = some (.feset true 2 8) := by decide
theorem test_decode_fwait : decode 0b0101011_10_0001_001 0b0010_0000_0000_000000000000_0100_0101 = some (.fwait 1 2 5 4) := by decide
theorem test_decode_wfw : decode 0b0101100_00_0000_000 0 = some (.wfw) := by decide
theorem test_decode_tspawn : decode 0b0101101_10_0000_000 0b0001_0010_0000_0000000000000000000_1 = some (.tspawn 1 2 true) := by decide
theorem test_decode_gcset : decode 0b0101110_10_0000_000 0b0001_0010_0011_00000000000000000_111 = some (.gcset 7 1 2 3) := by decide
theorem test_decode_pbarw : decode 0b0101111_01_0011_010 0b0000_0000_00111111 = some (.pbarw 3 63) := by decide
theorem test_decode_flogrd : decode 0b0110000_10_0011_010 0b0000_0000_0000_000000000000000_10_111 = some (.flogrd 3 7 2) := by decide
theorem test_decode_ffma : decode 0b1000000_10_0001_011 0b0010_0011_0100_00000000000000000_010 = some (.ffma .rup 1 2 3 4) := by decide
theorem test_decode_fcvt : decode 0b1000001_10_0001_010 0b0010_0000_0000_00000000_0111_0000_0_001 = some (.fcvt .f32 .i64 .rz 1 2) := by decide
theorem test_decode_fcmp : decode 0b1000010_01_0001_010 0b0010_0011_00000000 = some (.fcmp 1 .lt 2 3) := by decide
theorem test_decode_vfma : decode 0b1000100_10_0001_011 0b1001_0011_0100_10_0010_011_0000_0000000 = some (.vfma .bf16 .rdn 2 1 9 3 4) := by decide
theorem test_decode_vcvt : decode 0b1000101_10_0001_100 0b0010_0000_0000_00_0000_000_0100_0000011 = some (.vcvt .f32 .i8 .rne 0 3 1 2) := by decide
theorem test_decode_vimul : decode 0b1000110_10_0010_010 0b0011_0100_0000_01_0110_000_0000_0000000 = some (.vimul .n32 1 2 3 4) := by decide
theorem test_decode_vsra : decode 0b1000111_10_0010_000 0b0011_0100_0000_01_0001_000_0000_0000000 = some (.vsra .i32 1 2 3 4) := by decide
theorem test_decode_vmovg : decode 0b1001000_10_0010_011 0b0011_0000_0000_00_0011_000_0000_0011111 = some (.vmovg .f16 31 2 3) := by decide
theorem test_decode_kpop : decode 0b1001001_01_1001_011 0b0011_0000_00000000 = some (.kpop 9 3) := by decide
theorem test_decode_copym : decode 0b1100000_11_0001_010 0b0010_0011_0100_0101_0110_0111_10000001_0000000000000000 = some (.copym 1 3 2 4 5 6 7 0x81) := by decide
theorem test_decode_copytTo : decode 0b1100000_11_0001_011 0b0010_0000_0011_0000_0000_0100_00000000_0000000000_0_11111 = some (.copytTo 1 2 3 0 0 4 31) := by decide
theorem test_decode_copys : decode 0b1100001_01_0001_000 0b0010_0000_00000000 = some (.copys 1 2) := by decide
theorem test_decode_mma : decode 0b1100100_11_0000_110 0b11111_0010_0011_0100_0101_0110_1111_0000000000000000000 = some (.mma .i8 31 2 3 4 5 6 15) := by decide
theorem test_decode_mmas : decode 0b1100101_11_0000_000 0b00001_0010_0011_0100_0101_0110_0000_10_0111_0000000000000 = some (.mmas .e4m3 .four 1 2 3 7 4 5 6 0) := by decide
theorem test_decode_tzero : decode 0b1100110_10_0000_001 0b0001_0010_0011_000000000000000_01001 = some (.tzero 9 1 2 3) := by decide
theorem test_decode_tcvt : decode 0b1100111_11_0000_000 0b01001_0001_0010_0011_0100_1001_100_00000000000000000000 = some (.tcvt .e5m2 .sr 9 1 2 3 4) := by decide
theorem test_decode_tscl : decode 0b1101000_11_0000_000 0b01001_0001_0010_0011_0100_0101_1_0000000000000000000000 = some (.tsclCol 9 1 2 3 4 5) := by decide
theorem test_decode_pdrain : decode 0b1110000_00_0000_011 0 = some (.pdrain) := by decide
theorem test_decode_trap : decode 0b1110001_01_0000_000 0b0000_0000_10100101 = some (.trap 0xA5) := by decide
theorem test_decode_syswr : decode 0b1110010_10_0000_001 0b0011_0000_0000_00000000_000000001000 = some (.syswr .tvec 3) := by decide
theorem test_decode_wake : decode 0b1110011_01_0000_000 0b0011_0000_00000000 = some (.wake 3) := by decide
theorem test_decode_ctxld : decode 0b1110100_10_0000_001 0b0011_0100_0000_00000000000000000000 = some (.ctxld 3 4) := by decide
theorem test_decode_tlbinv : decode 0b1110101_10_0000_000 0b0011_0100_0000_000000000000000000_01 = some (.tlbinv 3 4 .range) := by decide
/-- 0x10 is unassigned (R94). -/
theorem test_illegal_0 : decode 0b0010000_00_0000_000 0 = none := by decide
/-- ADD with an L tail (R94). -/
theorem test_illegal_1 : decode 0b0000001_10_0011_000 0b0001_0010_0000_00000000000000000000 = none := by decide
/-- ADD with F8 not zero (R94). -/
theorem test_illegal_2 : decode 0b0000001_01_0011_000 0b0001_0010_00000001 = none := by decide
/-- major 0x02, F3 6 (R94). -/
theorem test_illegal_3 : decode 0b0000010_01_0011_110 0b0001_0010_00000000 = none := by decide
/-- CMP with a skip count of 0 (R94). -/
theorem test_illegal_4 : decode 0b0001000_01_0000_000 0b0001_0010_00000000 = none := by decide
/-- LDV with D 8 (R94). -/
theorem test_illegal_5 : decode 0b0100010_10_1000_000 0b0001_0000_0000_0_0000000000000000000 = none := by decide
/-- SYSRD of a number absent from Table 8.2 (R94). -/
theorem test_illegal_6 : decode 0b1110010_10_0001_000 0b0000_0000_0000_00000000_000000000100 = none := by decide

/-! ## Ill-formed instructions, one for each condition of Instr.wf -/

theorem test_wf_bfx : (Instr.bfx 1 2 8 56).wf = false ∧ (Instr.bfi 1 2 63 1).wf = false := by decide
theorem test_wf_skip : (Instr.cmp 0 .eq 1 2).wf = false ∧ (Instr.cmpi 0 .eq 1 2).wf = false ∧ (Instr.tstb 0 true 1 2).wf = false ∧
    (Instr.tstg 0 true 1 2).wf = false ∧ (Instr.fcmp 0 .eq 1 2).wf = false := by decide
theorem test_wf_jump : (Instr.j 5 0).wf = false ∧ (Instr.jl 5 0).wf = false := by decide
theorem test_wf_ld : (Instr.ld true 3 1 2 0).wf = false := by decide
theorem test_wf_posted : (Instr.radd .n32 1 2 0 0).wf = false ∧ (Instr.rmin .bf16x2 1 2 0 0).wf = false ∧ (Instr.rmax .bf16x2 1 2 0 0).wf = false ∧
    (Instr.rand .f32 1 2 0 0).wf = false ∧ (Instr.ror .n32 1 2 0 0).wf = false ∧ (Instr.rxor .bf16x2 1 2 0 0).wf = false := by decide
theorem test_wf_returning : (Instr.rfadd .n32 1 2 3 0).wf = false ∧ (Instr.rcas .f32 1 2 3 4 0).wf = false ∧
    (Instr.rswap .f32 1 2 3 0).wf = false := by decide
theorem test_wf_fwait : (Instr.fwait 1 2 0 0).wf = false := by decide
theorem test_wf_fcvt : (Instr.fcvt .i8 .i64 .rne 1 2).wf = false := by decide
theorem test_wf_vfloat : (Instr.vadd .i8 .rne 0 1 2 3).wf = false ∧ (Instr.vsum .i32 .rne 0 1 2).wf = false ∧
    (Instr.vrmax .n8 0 1 2).wf = false ∧ (Instr.vfma .e4m3 .rne 0 1 2 3 4).wf = false := by decide
theorem test_wf_vcvt : (Instr.vcvt .i64 .f32 .rne 0 0 1 2).wf = false ∧ (Instr.vcvt .f32 .i64 .rne 0 0 1 2).wf = false ∧
    (Instr.vcvt .f32 .f16 .rne 0 2 1 2).wf = false := by decide
theorem test_wf_vcvtMx : (Instr.vcvtMx .f32 .f16 .rne 0 1 2 3).wf = false ∧ (Instr.vcvtMx .f16 .e4m3 .rne 0 1 2 3).wf = false ∧
    (Instr.vcvtMx .e4m3 .f16 .rne 1 1 2 0).wf = false := by decide
theorem test_wf_vdot : (Instr.vdot .i8 .rz 0 1 2 3 4).wf = false ∧ (Instr.vdot .i32 .rne 0 1 2 3 4).wf = false := by decide
theorem test_wf_vint : (Instr.viadd .f32 0 1 2 3).wf = false ∧ (Instr.vsra .n8 0 1 2 3).wf = false := by decide
theorem test_wf_vcmp : (Instr.vcmp .ltu .f32 0 0 1 2 3).wf = false ∧ (Instr.vcmp .eq .i8 0 0 1 2 3).wf = true ∧
    (Instr.vcmp .eq .f16 2 0 1 2 3).wf = false ∧ (Instr.vcmp .eq .e4m3 0 0 1 2 3).wf = false := by decide
theorem test_wf_vmove : (Instr.vperm .i64 0 1 2 3).wf = false ∧ (Instr.vmovg .f32 16 1 2).wf = false ∧ (Instr.vmovl .f16 32 1 2).wf = false ∧
    (Instr.vbcast .i64 0 0 1 2).wf = false := by decide
theorem test_wf_copy : (Instr.copy 1 2 3 4 0 6 7).wf = false ∧ (Instr.copym 1 2 3 4 5 6 7 0).wf = false ∧ (Instr.copytTo 1 2 3 0 5 6 0).wf = false := by
  decide
theorem test_wf_matrix : (Instr.tzero 0 0 1 2).wf = false ∧ (Instr.mma .i8 0 1 2 0 4 5 0).wf = false ∧ (Instr.tsclRow 0 1 2 0 4 5).wf = false ∧
    (Instr.tcvt .i64 .rne 0 1 0 0 2).wf = false := by decide
theorem test_wf_tlbinv : (Instr.tlbinv 1 2 .context).wf = false := by decide

/-! ## Small states -/

/-- Data, poison, and capabilities: plain on a tile, plain in HBM or MMIO (space 1 or 2), woven. -/
def num (n : Nat) : GReg := dataReg (BitVec.ofNat 64 n)
def bad (c : Nat) : GReg := poisonVal c 7
def cap (perm base len tile off : Nat) : GReg :=
  { tag := .cap, body := BitVec.ofNat 128 (perm * 2 ^ 117 + base * 2 ^ 98 + len * 2 ^ 78 + gaSpad tile off) }
def far (perm space hbase exp mant addr : Nat) : GReg :=
  { tag := .cap, body := BitVec.ofNat 128 (perm * 2 ^ 117 + hbase * 2 ^ 79 + exp * 2 ^ 75 + mant * 2 ^ 64 + 2 ^ 63 + space * 2 ^ 44 + addr) }
def wove (perm w h wlo wlen idx : Nat) : GReg :=
  { tag := .cap, body := BitVec.ofNat 128 (2 ^ 127 + perm * 2 ^ 117 + w * 2 ^ 102 + h * 2 ^ 96 + wlo * 2 ^ 78 + wlen * 2 ^ 64 + idx) }
/-- A tile capability with every right over the whole scratchpad. -/
def full (tile off : Nat) : GReg := cap 0x3FF 0 0x80000 tile off

/-- A line of n NOPs, with malformed ones beside it: no head, and a parcel that nothing names. -/
def nops (n : Nat) : List Parcel := BitVec.ofNat 16 n :: List.replicate 31 0
def noHead : List Parcel := List.replicate 32 0
def stray : List Parcel := 1 :: 0 :: 1 :: List.replicate 29 0

/-- A thread in user mode at head 1 of a line of eight NOPs, and the package with that thread on tile 0. -/
def thr0 (g : List (Nat × GReg)) : Thread :=
  { g := g, pc := 0x8000000000000002, code := some (imageCode 0x1000), run := .rotation, fbuf := [(0, nops 8)] }
def one (x : Thread) : State := { tiles := [(0, { region := some 0, threads := [(0, x)] })] }
/-- The same with another thread beside it. -/
def two (x y : Thread) : State := { tiles := [(0, { region := some 0, threads := [(0, x), (1, y)] })] }
def regs (g : List (Nat × GReg)) : State := one (thr0 g)
/-- The bytes of the number v of n bytes at flat address a, as memory lists them. -/
def cells (a n v : Nat) : Memory := (natLe n v).zipIdx.filterMap fun x => if x.1 = 0 then none else some (a + x.2, x.1)


/-! ## Single steps: a word fetched after reset, and what it does (expected results by hand) -/

/-- The thread after the first step of a package that fetches the word w, the head in its high 16 bits. -/
def first (nbits w : Nat) (s : State := .reset) : Thread :=
  match step (s.withFetchWord nbits w) with
  | .next t => t.thr 0 0
  | _ => {}

/-- R194, R86: NOP retires; the line has one head, so the next PC is head 1 of the next line. -/
theorem test_step_nop : (first 16 0).pc = 0x8000000000000042 ∧ (first 16 0).retired = 1 := by decide
/-- R111: MOVI g3, -7, the head 0000111 11 0011 000 before a 48-bit tail. -/
theorem test_step_movi : ((first 64 (0xF98 * 2 ^ 48 + (2 ^ 48 - 7))).rd 3).low = -7 := by decide
/-- R104, R105: ADDI g1, g0, 5, the head 0000110 10 0001 000 before a 32-bit tail; g0 is 0 at reset. -/
theorem test_step_addi : ((first 48 (0xD08 * 2 ^ 32 + 5)).rd 1).low = 5 := by decide
/-- R94, R187: major 0x7F is no instruction's; the trap finds TVEC 0 and the thread halts. -/
theorem test_step_unnamed : (first 16 0xFE00).run ≠ .rotation := by decide

/-- The substitution of FIPS 197, Figure 7 and Figure 14 (R354 names the cipher). -/
theorem test_aes_substitution : [subByte 0x00, subByte 0x53, unsubByte 0x16, unsubByte 0x63] = [0x63, 0xed, 0xff, 0x00] := by decide +kernel
/-! ## Witnesses: for each statement with hypotheses, a state and operands that meet them -/

theorem witness_DecodeAfterEncode : (Instr.copym 1 3 2 4 5 6 7 0x81).wf = true ∧
    encode (.copym 1 3 2 4 5 6 7 0x81) = some (0b1100000_11_0001_010, 0b0010_0011_0100_0101_0110_0111_10000001_0000000000000000) := by decide
theorem witness_EncodeAfterDecode : decode 0b1110010_10_0000_001 0b0011_0000_0000_00000000_000000001000 = some (.syswr .tvec 3) := by decide
theorem witness_CodeLine : lineMalformed (nops 31) = false ∧ lineMalformed noHead = true ∧ lineMalformed stray = true := by decide

/-- The first step after reset, its line given. -/
def placed : State := State.reset.withFetchWord 16 0
def placed1 : State := (({ placed with agenda := [], stalled := false } : State).tick 0).updTile 0 fun x => x.walkAll placed.pkg 0
def placed2 : State := { placed1.updTile 0 (fun x => { x with rot := 0 }) with curTile := 0, curThr := 0 }
theorem witness_StepRunsDecoded : placed.powered = true ∧ placed.evo.inReset = false ∧ placed.agenda = [.core 0] ∧ (placed.tile 0).region ≠ none ∧ (placed.tile 0).fenced = false ∧
    (placed.tile 0).halt = .running ∧ (placed.tile 0).replay = false ∧ (placed1.tile 0).choose placed.pkg 0 = some 0 ∧
    placed2.cur.fetchable placed.pkg 0 = true ∧ placed2.cur.line placed2.cur.pc = some (nops 1) ∧ lineMalformed (nops 1) = false ∧
    placed2.cur.breaks = false ∧ placed2.cur.pc.toNat % 2 = 0 ∧ placed2.cur.pc.toNat / 2 % 32 = 1 ∧ lineHeads (nops 1) = 1 ∧
    decode (lineHead (nops 1) 1) (lineTail (nops 1) 1) = some .nop ∧ placed2.cur.recheck = .no ∧ placed2.curT.mismatch = .no := by decide

def broken : State := one { thr0 [] with be := true, bpc := 0x8000000000000002 }
theorem witness_FetchTraps_malformed : lineMalformed stray = true ∧ (regs []).cur.skip = 0 := by decide
theorem witness_FetchTraps_break : lineMalformed (nops 8) = false ∧ broken.cur.breaks = true := by decide
theorem witness_FetchTraps_align : lineMalformed (nops 8) = false ∧ (one { thr0 [] with pc := 0x8000000000000000 }).cur.breaks = false ∧
    (one { thr0 [] with pc := 0x8000000000000000 }).cur.pc.toNat / 2 % 32 = 0 := by decide
theorem witness_FetchTraps_head : lineMalformed (nops 1) = false ∧ (one { thr0 [] with pc := 0x8000000000000004 }).cur.breaks = false ∧
    lineHeads (nops 1) < 0x8000000000000004 / 2 % 32 := by decide
theorem witness_FetchTraps_illegal : lineMalformed (1 :: 1 :: List.replicate 30 0) = false ∧ (regs []).cur.breaks = false ∧
    decode (lineHead (1 :: 1 :: List.replicate 30 0) 1) (lineTail (1 :: 1 :: List.replicate 30 0) 1) = none := by decide
theorem witness_OnlyPowerOffStops : State.reset.powered = true ∧ ({ powered := false } : State).powered = false ∧
    (∀ b rest, ({ powered := false } : State).agenda ≠ .event (.powerOnReset b) :: rest) := ⟨rfl, rfl, fun _ _ h => by cases h⟩
theorem witness_OnlyPowerOffStops_reset : ∃ b rest, ({ powered := false, agenda := [.event (.powerOnReset ⟨[], [], [], [], [], [], [], [], []⟩)] } : State).agenda =
    .event (.powerOnReset b) :: rest := ⟨_, _, rfl⟩
theorem witness_MemoryAndMetadata : 7 < 8 ∧ (8 < 9 ∨ 9 + 8 ≤ 8) := by decide

/-! ### Integer, control -/

theorem witness_IntegerResults : (.remu, fun x y => if y = 0 then x else .ofNat 64 (x.toNat % y.toNat)) ∈ twoSource ∧ (55 : Fin 64).val + (8 : Fin 64).val + 1 ≤ 64 := by
  simp [twoSource]
theorem witness_Moves : ((regs [(1, full 0 0)]).cur.rd 1).tag = .cap ∧ ((regs []).cur.rd 1).tag ≠ .cap := by decide
theorem witness_CompareSkip : ((regs [(1, bad 3)]).cur.rd 1).tag = .poison ∧
    ((regs [(2, bad 3)]).cur.rd 1).tag ≠ .poison ∧ ((regs [(2, bad 3)]).cur.rd 2).tag = .poison ∧
    ((regs [(1, num 5), (2, num 6)]).cur.rd 1).tag ≠ .poison ∧ ((regs [(1, num 5), (2, num 6)]).cur.rd 2).tag ≠ .poison := by decide
/-- The skip of three over buffered lines, and where the line after the buffered one is not there. -/
theorem witness_CompareSkip_walk : passable (regs []) (regs []).cur (succN (regs []).cur 1) ∧ passable (regs []) (regs []).cur (succN (regs []).cur 7) ∧
    ¬passable (regs []) (regs []).cur (succN (regs []).cur 8) := by
  refine ⟨⟨nops 8, by decide⟩, ⟨nops 8, by decide⟩, ?_⟩
  rintro ⟨l, h, -⟩
  revert h
  have : (regs []).cur.line (succN (regs []).cur 8) = none := by decide
  simp [this]

theorem witness_JumpByLine : (regs []).cur.code = some (imageCode 0x1000) ∧ inLine (regs []) (some (imageCode 0x1000)) (regs []).cur.pc ∧
    inLine (regs []) (some (imageCode 0x1000)) 0x8000000000000FC2 ∧ ¬inLine (regs []) (some (imageCode 0x1000)) 0x8000000000001002 := by
  unfold inLine; decide
/-- gA of JR: poison; capabilities without EX, of another tile, misaligned, out of bounds, in order; data likewise. -/
def jr (r : GReg) : State := regs [(1, r)]
theorem witness_JumpByRegister_poison : ((jr (bad 1)).cur.rd 1).tag = .poison := by decide
theorem witness_JumpByRegister_cap :
    (let r := (jr (cap 0x01 0 0x1000 0 2)).cur.rd 1; r.tag = .cap ∧ r.upper.getLsbD 58 = false) ∧
    (let r := (jr (cap 0x21 0 0x1000 1 2)).cur.rd 1; r.tag = .cap ∧ r.upper.getLsbD 58 = true ∧ r.namesTile 0 0 = false) ∧
    (let r := (jr (cap 0x21 0 0x1000 0 0)).cur.rd 1; r.tag = .cap ∧ r.upper.getLsbD 58 = true ∧ r.namesTile 0 0 = true ∧ r.low.toNat / 2 % 32 = 0) ∧
    (let r := (jr (cap 0x21 0 0x1000 0 0x1002)).cur.rd 1; r.namesTile 0 0 = true ∧ r.low.toNat % 2 = 0 ∧ r.low.toNat / 2 % 32 = 1 ∧
      lineAllowed (some r.upper) 0 0 r.low = false) ∧
    (let r := (jr (cap 0x21 0 0x1000 0 0xFC2)).cur.rd 1; r.namesTile 0 0 = true ∧ r.low.toNat % 2 = 0 ∧ r.low.toNat / 2 % 32 = 1 ∧
      lineAllowed (some r.upper) 0 0 r.low = true) := by decide
theorem witness_JumpByRegister_data :
    (let r := (jr (num 0x8000000000000001)).cur.rd 1; r.tag = .data ∧ r.low.toNat % 2 = 1) ∧
    (let r := (jr (num 0x8000000000080002)).cur.rd 1; r.tag = .data ∧ r.low.toNat / 2 % 32 = 1 ∧
      r.low.toNat / 2 ^ 19 ≠ (jr (num 0x8000000000080002)).cur.pc.toNat / 2 ^ 19) ∧
    (let r := (jr (num 0x8000000000000042)).cur.rd 1; r.tag = .data ∧ r.low.toNat / 2 % 32 = 1 ∧
      r.low.toNat / 2 ^ 19 = (jr (num 0x8000000000000042)).cur.pc.toNat / 2 ^ 19 ∧ lineAllowed (some (imageCode 0x1000)) 0 0 r.low = true) := by decide


/-! ### Capabilities, floats, vectors -/

/-- Bounds that end at 2^44 exactly, a woven capability, and length 0 and 64 against a bound of 64. -/
theorem witness_CapabilityNarrowing :
    (let r := far 0x3FF 1 (2 ^ 38 - 1) 0 1 (2 ^ 44 - 64); wovenCap r = false ∧ isTile r = false ∧ inBounds r 64 ∧ ¬inBounds r 65 ∧
      r.low.toNat % 2 ^ movable r ≤ 2 ^ 44 - 64 ∧ (baseLen r).1 + (baseLen r).2 ≤ 2 ^ 44) ∧
    (let r := full 0 0x7FFE0; wovenCap r = false ∧ isTile r = true ∧ inBounds r 0 ∧ inBounds r 32 ∧ ¬inBounds r 33 ∧
      r.low.toNat % 2 ^ movable r ≤ 2 ^ 44 - 64 ∧ (baseLen r).1 + (baseLen r).2 ≤ 2 ^ 44) ∧
    (let r := wove 0x3FF 3 3 0 1 5; wovenCap r = true ∧ r.low.toNat % 2 ^ movable r ≤ 2 ^ 44 - 64 ∧
      (baseLen r).1 + (baseLen r).2 ≤ 2 ^ 44) := by unfold inBounds; decide
/-- A 4 x 4 rectangle of the whole window; one that leaves the mesh; one that a woven gA does not hold; and MMIO. -/
theorem witness_CapabilityWeaving : isTile (full 0 0) = true ∧ isTile (wove 0x3FF 3 3 0 1 5) = false ∧ wovenCap (wove 0x3FF 3 3 0 1 5) = true ∧
    isTile (far 0x3FF 2 0 0 1 0) = false ∧ wovenCap (far 0x3FF 2 0 0 1 0) = false := by decide
theorem witness_CapabilityWeaving_fits : weaveFits (full 0 0) (3 * 2 ^ 16 + 3 * 2 ^ 24) (0x3FFF * 2 ^ 16) ∧
    weaveFits (full 0 0) (60 + 3 * 2 ^ 16) 0 ∧ weaveFits (wove 0x3FF 3 3 0 1 5) (1 * 2 ^ 16) 0 := by simp only [weaveFits]; decide
theorem witness_CapabilityWeaving_not : ¬weaveFits (full 0 0) (61 + 3 * 2 ^ 16) 0 ∧ ¬weaveFits (wove 0x3FF 3 3 0 1 5) (4 * 2 ^ 16) 0 := by
  simp only [weaveFits]; decide
theorem witness_CapabilityCheckCode :
    (num 1).tag = .data ∧ (bad 3).tag = .poison ∧ (full 0 0).tag = .cap ∧
    (∃ i, i < 10 ∧ (0x200 : BitVec 10).getLsbD i = true ∧ (cap 1 0 64 0 0).body.getLsbD (117 + i) = false) ∧
    (∀ i, i < 10 → (0x3FF : BitVec 10).getLsbD i = true → (full 0 0).body.getLsbD (117 + i) = true) ∧
    (isMmio (far 0x3FF 2 0 0 1 0) = true ∧ (regs []).cur.priv = false) ∧ ¬(isMmio (full 0 0) = true ∧ (regs []).cur.priv = false) ∧
    inBounds (full 0 0) 1 ∧ inBounds (full 0 0) 0x80000 ∧ ¬inBounds (full 0 1) 0x80000 ∧
    (let r := wove 0x3FF 3 3 0 0 0; wovenCap r = true ∧ r.reach (regs []).pkg 0 32 = .ok (gaSpad 0 0) ∧ r.reach (regs []).pkg 0 64 = .crosses) ∧
    (wove 0x3FF 3 3 0 0 511).reach (regs []).pkg 0 2 = .bounds := by
  refine ⟨by decide, by decide, by decide, ⟨9, by decide⟩, by decide, by decide, by decide, ?_, ?_, ?_, by decide, by decide⟩ <;> unfold inBounds <;> decide

theorem witness_RoundingIsNearestOrDirected : fmtE2M1 ∈ formats ∧ 0 < 7 ∧ 0 < 2 := by decide
/-- 7/2 in E2M1, in units of half: between 3 and 4, the codes 5 and 6. -/
theorem witness_RoundingIsNearestOrDirected_between : magValue fmtE2M1.mb 5 * 2 ≤ 7 * 2 ^ (fmtE2M1.bias + fmtE2M1.mb - 1) ∧
    7 * 2 ^ (fmtE2M1.bias + fmtE2M1.mb - 1) < magValue fmtE2M1.mb 6 * 2 := by decide
/-- A mode of its own, and stochastic rounding through RM. -/
def sr : State := one { thr0 [] with rm := 4, seed := 9 }
theorem witness_ScalarFloatArithmetic : Rm.rz ≠ .dyn ∧ (sr.srnd .dyn).mode = .sr := by decide
theorem witness_ScalarFloatCodes : isNan32 (f32 (num 0x7F800001)) ∧ ¬isNan32 (f32 (num 0xFF800000)) ∧
    (!(ElemTy.f32.isInt && ElemTy.i8.isInt)) = true ∧ (!(ElemTy.i32.isInt && ElemTy.f16.isInt)) = true := by unfold isNan32; decide

/-- v1 clean, v2 with lanes 1 and 3 poisoned; k1 = lanes 0, 1 and 15. -/
def vecs : State := one { thr0 [(1, num 5), (9, bad 2)] with v := [(1, { val := 0x80000001 }), (2, { val := 3 * 2 ^ 32 + 4 * 2 ^ 96, pmask := 0xA })], k := [(1, 0x8003)] }
theorem witness_VectorInteger : ElemTy.n8.isI = true ∧ ElemTy.i32.isI = true := by decide +kernel
theorem witness_VectorFloat : ElemTy.bf16.isF = true ∧ ElemTy.f32.isF = true := by decide +kernel
/-- Inactive and active lanes, clean and poisoned, of v registers and of a broadcast register. -/
theorem witness_elementwise : laneActive vecs 1 15 ∧ ¬laneActive vecs 1 14 ∧ srcBad vecs 2 1 = some 3 ∧ srcBad vecs 2 0 = none ∧
    srcBad vecs 9 7 = some 2 ∧ srcBad vecs 10 7 = none ∧ (∀ a ∈ [(1 : GIx), 2], srcBad vecs a 0 = none) := by unfold laneActive; decide +kernel
theorem witness_VectorReductions : ElemTy.f16.isF = true ∧
    (laneActive vecs 1 1 ∧ srcBad vecs 2 1 = some 3 ∧ ∀ j', j' < 1 → laneActive vecs 1 j' → srcBad vecs 2 j' = none) ∧
    (∀ j, j < 16 → laneActive vecs 1 j → srcBad vecs 1 j = none) := by unfold laneActive; decide +kernel
theorem witness_VectorConversion : (Instr.vcvt .f32 .f16 .dyn 1 1 3 2).wf = true ∧ (Instr.vcvt .e4m3 .f32 .dyn 1 3 3 2).wf = true ∧
    (0 < 16 ∧ laneActive vecs 1 (0 * 32 / 32)) ∧ cvtDst 32 16 1 0 * 16 / 32 = 8 ∧ srcBad vecs 2 (cvtSrc 32 16 1 1) = some 3 ∧
    srcBad vecs 2 (cvtSrc 32 16 1 0) = none := by unfold laneActive; decide +kernel
theorem witness_VectorBlockConversion : (Instr.vcvtMx .f32 .e4m3 .dyn 0 3 1 1).wf = true ∧ (Instr.vcvtMx .e4m3 .f32 .dyn 1 3 1 0).wf = true ∧
    (((List.range 16).map (srcBad vecs 2) ++ (List.range 16).map (srcBad vecs 1)).filterMap id).head? = some 3 ∧
    (∀ x ∈ (List.range 16).map (srcBad vecs 1) ++ (List.range 16).map (srcBad vecs 1), x = none) := by decide +kernel
theorem witness_VectorMoves : (1 : Nat) < 8 ∧ (8 : Nat) ≤ 9 ∧ ElemTy.f16.isF = true ∧ (31 : Fin 64).val < 512 / ElemTy.f16.width ∧
    srcBad vecs 2 (3 * 16 / 32) = some 3 ∧ srcBad vecs 1 (31 * 16 / 32) = none ∧ (vecs.cur.rd 9).tag = .poison ∧ (vecs.cur.rd 1).tag ≠ .poison ∧
    vBad (vecs.cur.rv 2) (3 * 16 / 32) = true ∧ vBad (vecs.cur.rv 1) 0 = false ∧
    (srcElt vecs 32 1 0 < 2 ^ 31 ∨ 2 ^ 31 ≤ srcElt vecs 32 1 0) := by decide +kernel
theorem witness_VectorCompare : (Instr.vcmp .ltu .n8 3 1 2 1 2).wf = true ∧ (Instr.vcmp .ge .f16 1 1 2 1 1).wf = true ∧
    (1 < 16 ∧ laneActive vecs 1 1 ∧ srcBad vecs 2 1 = some 3 ∧ ∀ j', j' < 1 → laneActive vecs 1 j' → srcBad vecs 2 j' = none) ∧
    (∀ j, j < 16 → laneActive vecs 1 j → srcBad vecs 1 j = none) := by unfold laneActive; decide +kernel


/-! ### Operations at the home, accesses to the own tile -/

/-- Tile 0 holds 5 in the word at 64; the word at 72 is poisoned with class 2; the word at 80 has an uncorrectable error, that at 88 a
correctable one; the words at 64 and 96 are full; the pair at 112 is tagged. -/
def mem0 (x : Thread) : State :=
  { one x with
    mem := [(spad 0 64, 5), (spad 0 72, 2)], psn := [spad 0 72 / 8], errUnc := [spad 0 80 / 8], errOne := [spad 0 88 / 8],
    full := [spad 0 64 / 8, spad 0 96 / 8], tagged := [spad 0 112 / 16] }
def m0 : State := mem0 (thr0 [])

theorem witness_HomeReads : isSpad (spad 0 64) = true ∧ isSpad (spad 16383 0x7FFFF) = true ∧ noErr m0 (spad 0 64) ∧
    m0.errUnc.contains (spad 0 80 / 8) = true := by unfold noErr; decide
theorem witness_HomeStore : spad 0 79 % 8 + 1 ≤ 8 ∧ spad 0 64 % 8 + 8 ≤ 8 ∧ noErr m0 (spad 0 79) ∧ m0.poisoned (spad 0 64) = false ∧
    m0.poisoned (spad 0 79) = true ∧ isSpad (spad 0 79) = true := by unfold noErr; decide
theorem witness_HomeRowStore : isSpad (spad 0 0) = true ∧ spad 0 0 % 64 = 0 ∧ (List.replicate 64 (3 : Byte)).length = 64 ∧ (∀ m ∈ [0, 256, 0, 0, 0, 0, 0, 1], m ≤ 256) ∧
    (∀ i, i < 8 → noErr m0 (spad 0 0 + 8 * i)) ∧ 0xFF0F / 2 ^ (8 * 1) % 256 ≠ 0 ∧ 0xFF0F / 2 ^ (8 * 2) % 256 = 0 := by
  unfold noErr; decide
/-- Words of a row that are clean and poisoned; the poisoned one at 72. -/
theorem witness_HomeRowStore_words : (mem0 (thr0 [])).poisoned (spad 0 72) = true ∧ (mem0 (thr0 [])).poisoned (spad 0 64) = false ∧
    (∀ i, i < 8 → noErr { m0 with errUnc := [], errOne := [] } (spad 0 64 + 8 * i)) := by unfold noErr; decide
theorem witness_AtomicFunctions : atomTyped .add .bf16x2 ∧ atomTyped .min .n32 ∧ atomTyped .cas .i64 ∧ 0xFFFFFFFF < 256 ^ atomWidth .n32 := by
  unfold atomTyped; decide
theorem witness_HomeAtomic : spad 0 68 % atomWidth .i32 = 0 ∧ noErr m0 (spad 0 68) ∧ m0.poisoned (spad 0 68) = false ∧
    spad 0 72 % atomWidth .i64 = 0 ∧ noErr m0 (spad 0 72) ∧ m0.poisoned (spad 0 72) = true ∧ AtomFn.add ≠ .cas ∧
    m0.val (spad 0 64) 8 = 5 % 256 ^ 8 ∧ m0.val (spad 0 64) 8 ≠ 6 % 256 ^ 8 := by unfold noErr; decide
theorem witness_HomeMetadataOperations : noFeWaiter m0 (spad 0 64) ∧ (∀ i, i < 8 → noFeWaiter m0 (spad 0 64 + 8 * i)) ∧ spad 0 64 % 64 = 0 ∧
    spad 0 72 % 8 = 0 ∧ noErr m0 (spad 0 72) := by unfold noFeWaiter noErr; decide
/-- A flag word of COUNT 2^40 - 1 without a class, one with class 1, and a poisoned one. -/
def flags0 : State := { regs [] with mem := [(spad 0 64, 255), (spad 0 65, 255), (spad 0 66, 255), (spad 0 67, 255), (spad 0 68, 255), (spad 0 77, 1)], psn := [spad 0 80 / 8] }
theorem witness_FlagSignal : spad 0 64 % 8 = 0 ∧ noErr flags0 (spad 0 64) ∧ flags0.poisoned (spad 0 64) = false ∧ flags0.val (spad 0 64) 8 = 2 ^ 40 - 1 ∧
    flags0.val (spad 0 72) 8 / 2 ^ 40 % 256 ≠ 0 ∧ flags0.val (spad 0 64) 8 / 2 ^ 40 % 256 = 0 ∧ flags0.poisoned (spad 0 80) = true := by
  unfold noErr; decide

/-- g1 the whole scratchpad at 64, g2 its last 16 bytes; v2 = 0, 64 and so on; k1 = lanes 0 and 1, k2 none. -/
def user : Thread :=
  { thr0 [(1, full 0 64), (2, full 0 0x7FFF0), (3, num 4), (4, full 0 96), (5, full 0 0)] with v := [(2, { val := 64 * 2 ^ 32 })], k := [(1, 3), (2, 0)] }
def u0 : State := mem0 user
theorem witness_LoadsAtOwnTile :
    (names u0 1 (dispM 0x80008) 64 ∧ (Instr.ld false 3 6 1 0x80008).wf = true ∧ ownAccess u0 1 1 64 (2 ^ 3) ∧ ownAccess u0 1 1 64 16 ∧ free u0 [64]) ∧
    (names u0 2 (dispM 8) 0x7FFF8 ∧ ownAccess u0 2 1 0x7FFF8 (2 ^ 3) ∧ free u0 [0x7FFF8]) ∧
    (names u0 1 (dispM 15) 79 ∧ (Instr.ld false 0 6 1 15).wf = true ∧ ownAccess u0 1 1 79 (2 ^ 0) ∧ free u0 [79]) := by
  simp only [names, ownAccess, free]; decide +kernel
theorem witness_VectorLoadsAtOwnTile :
    (names u0 1 (dispM 0) 64 ∧ ownRow u0 1 1 1 64 ∧ free u0 [64]) ∧ (names u0 1 (dispM 0x7FFC0) 0 ∧ ownRow u0 1 2 1 0 ∧ free u0 [0]) ∧
    ((u0.cur.rd 1).tag = .cap ∧ (u0.cur.rd 1).grants 1 = true ∧ (u0.cur.rd 1).namesTile u0.pkg u0.curTile = true ∧ free u0 []) := by
  simp only [names, ownRow, free, laneActive]; decide +kernel
theorem witness_someLane : someLane u0 1 ∧ ¬someLane u0 2 := by
  refine ⟨⟨1, by decide, by unfold laneActive; decide +kernel⟩, ?_⟩
  rintro ⟨j, hj, h⟩
  revert h j
  unfold laneActive; decide +kernel
theorem witness_ElementsAtOwnTile : (u0.cur.rd 3).tag ≠ .poison ∧ ownElts u0 1 1 32 3 (fun e => 64 + 4 * e) ∧
    (∀ e ∈ activeElts u0 1 32, names u0 1 (dispM 0 + e * (u0.cur.rd 3).low.toInt) (64 + 4 * e)) := by
  simp only [ownElts, names, ownAccess, free, noErr]; decide +kernel
theorem witness_IndexedAtOwnTile : (∀ j, j < 16 → laneActive u0 1 j → vBad (u0.cur.rv 2) j = false) ∧ ownElts u0 5 1 32 3 (fun e => 64 * e + 4) ∧
    (∀ e ∈ activeElts u0 1 32, names u0 5 ((4 : BitVec 19).toInt + (BitVec.ofNat 32 (vElt (u0.cur.rv 2) 32 e)).toInt) (64 * e + 4)) := by
  simp only [ownElts, names, ownAccess, free, noErr, laneActive]; decide +kernel
/-- A poisoned element among those loaded. -/
theorem witness_eltsLoaded : u0.poisoned (spad 0 (64 + 4 * 2)) = true ∧ u0.poisoned (spad 0 (64 + 4 * 1)) = false := by decide
theorem witness_StoresAtOwnTile :
    (names u0 1 (dispM 0) 64 ∧ free u0 [64] ∧ ownAccess u0 1 2 64 (2 ^ 3) ∧ ownAccess u0 1 2 64 16 ∧ ownRow u0 1 1 2 64) ∧
    (names u0 2 (dispM 0x7FFFF) 0x7FFEF ∧ free u0 [0x7FFEF] ∧ ownAccess u0 2 2 0x7FFEF (2 ^ 0)) := by
  simp only [names, ownAccess, ownRow, free, laneActive]; decide +kernel
theorem witness_flagReady : flagReady u0 0 ∧ flagReady u0 4 := by
  refine ⟨.inl rfl, .inr ⟨96, ?_⟩⟩
  simp only [names, ownAccess]; decide +kernel
theorem witness_PutsAndPostedAtomicsAtOwnTile : names u0 1 (dispM 0) 64 ∧ free u0 [64] ∧ ownAccess u0 1 2 64 (2 ^ 3) ∧ ownRow u0 1 1 2 64 ∧
    names u0 1 (0 : BitVec 16).toInt 64 ∧ ownAccess u0 1 4 64 (atomWidth .i64) ∧ ownAccess u0 1 4 64 (atomWidth .bf16x2) := by
  simp only [names, ownAccess, ownRow, free, laneActive]; decide +kernel
theorem witness_ReturningAtomicsAtOwnTile : u0.cur.afp = false ∧ (mem0 { user with afp := true }).cur.afp = true ∧
    names u0 1 (0 : BitVec 16).toInt 64 ∧ ownAccess u0 1 7 64 (atomWidth .n32) ∧ free u0 [64] := by
  simp only [names, ownAccess, free]; decide +kernel
theorem witness_FullEmptyAtOwnTile : names u0 1 (0 : BitVec 19).toInt 64 ∧ free u0 [64] ∧ ownAccess u0 1 16 64 8 ∧ u0.cur.afp = false ∧
    u0.fe (spad 0 64) = true ∧ names u0 1 (8 : BitVec 19).toInt 72 ∧ free u0 [72] ∧ ownAccess u0 1 16 72 8 ∧ u0.fe (spad 0 72) = false ∧
    ownAccess u0 1 18 64 64 ∧ ownAccess u0 1 2 64 8 := by
  simp only [names, ownAccess, free]; decide +kernel


/-! ### Traps and system instructions -/

theorem witness_TrapEntry : 0xFF < 256 ∧ (u0.tile 0).imageSize < 2 ^ 20 ∧ (regs []).cur.exl = false ∧ (regs []).cur.tvec = 0 ∧
    (one { thr0 [] with tvec := 0x8000000000000042 }).cur.tvec ≠ 0 ∧ (one { thr0 [] with exl := true }).cur.exl = true := by decide
theorem witness_TrapInstruction : (one { thr0 [] with tvec := 0x8000000000000042 }).curT.imageSize < 2 ^ 20 ∧ (1 : BitVec 3) ≠ 0 ∧
    (one { thr0 [] with tvec := 0x8000000000000042 }).cur.exl = false ∧ (one { thr0 [] with exl := true }).cur.exl = true := by decide
theorem witness_NopRule : 511 < 512 ∧ 511 ≠ 0 := by decide

/-- A supervisor whose ECAP holds a capability, and one whose ECAP holds data; posted operations of threads 0 and 1. -/
def sup (x : Thread) : State := one { x with priv := true }
def posts (t : Tile) (ks : List PostKind) : Tile := { t with posted := ks.map fun k => { tag := 0, kind := k, flit := { op := .store, src := .tile 0 }, addr := 0, pc := 0, head := 0, opnd := 0 } }
def waitsFor (ks : List PostKind) : State := (sup (thr0 [])).updTile 0 fun t => posts t ks
theorem witness_PrivilegedInstructions : (regs []).cur.priv = false ∧ (sup (thr0 [])).cur.priv = true ∧ (sup (thr0 [])).cur.ecap.tag ≠ .cap ∧
    (sup { thr0 [] with ecap := full 0 2 }).cur.ecap.tag = .cap := by decide
theorem witness_PrivilegedInstructions_pdrain : (∀ p ∈ (waitsFor [.posted 1, .signal 0 false]).curT.posted, ¬awaited (waitsFor [.posted 1, .signal 0 false]).curThr p) ∧
    (∃ p ∈ (waitsFor [.posted 1, .signal 0 true]).curT.posted, awaited (waitsFor [.posted 1, .signal 0 true]).curThr p) := by
  unfold awaited; decide
theorem witness_SystemRegisters : ((regs []).cur.priv = false ∧ Sys2Proof.Claims.hidden .ecap) ∧ ¬((regs []).cur.priv = false ∧ Sys2Proof.Claims.hidden .cycle) ∧
    ((regs []).cur.priv = false ∧ ¬userMayWrite .tileid) ∧ ¬((sup (thr0 [])).cur.priv = false ∧ ¬userMayWrite .matwt) ∧
    ((regs [(1, bad 2)]).cur.rd 1).tag = .poison ∧ ((regs []).cur.rd 1).tag ≠ .poison ∧ ¬((regs []).cur.priv = false ∧ ¬userMayWrite .seed) := by
  simp only [Sys2Proof.Claims.hidden, userMayWrite]; decide
/-- WAKE targets: a poisoned one, one of space 1, thread 1 and thread 0 of the own tile. -/
theorem witness_YieldHaltRdcntWake : (regs []).cur.wakep = false ∧ (one { thr0 [] with wakep := true }).cur.wakep = true ∧
    (let x := num (2 ^ 44); x.tag ≠ .poison ∧ ¬(x.low.extractLsb' 44 2 = 0#2 ∧ x.low.extractLsb' 3 16 = 0#16)) ∧
    (let x := num (2 ^ 63 + 1); x.low.extractLsb' 44 2 = 0#2 ∧ x.low.extractLsb' 3 16 = 0#16 ∧ x.low.getLsbD 63 = true ∧
      (x.low.extractLsb' 32 12).toNat = (regs []).curTile ∧ (x.low.extractLsb' 0 3).toNat ≠ (regs []).curThr) ∧
    (let x := num 0; (x.low.extractLsb' 46 17).toNat = (regs []).pkg ∧ (x.low.extractLsb' 0 3).toNat = (regs []).curThr ∧
      (regs []).cur.run = .rotation ∧ (regs []).cur.wait = .none) := by decide


/-! ### Images, logs, flags, tasks, chunks, barriers -/

/-- A supervisor with g1 the scratchpad at 128 and at its last image, and g2, g3, g4 the thread numbers 1, 8 and 0. -/
def imager (at' : Nat) : State := sup (thr0 [(1, full 0 at'), (2, num 1), (3, num 8), (4, num 0)])
theorem witness_ThreadImages : (imager 128).cur.priv = true ∧ (imager 128).cur.run = .rotation ∧ ((imager 128).cur.rd 2).tag ≠ .poison ∧
    imageClean (imager 128) 128 ∧ imageAccess (imager 128) 1 2 128 ∧ imageAccess (imager 128) 1 1 128 ∧
    ((imager 128).cur.rd 2).low.toNat < 8 ∧ ((imager 128).cur.rd 2).low.toNat ≠ (imager 128).curThr ∧
    ((imager 128).thr 0 1).run = .halted ∧ ((imager 128).thr 0 1).wait = .none ∧
    8 ≤ ((imager 128).cur.rd 3).low.toNat ∧ ((imager 128).cur.rd 4).low.toNat = (imager 128).curThr ∧
    imageAccess (imager 0x7FC80) 1 3 0x7FC80 := by
  simp only [imageClean, imageAccess, noErr]; decide +kernel

theorem witness_TlbInvalidate : (sup (thr0 [(1, full 0 0)])).cur.priv = true ∧ flagReady (sup (thr0 [])) 0 ∧
    (let r := (sup (thr0 [(1, full 0 0)])).cur.rd 1; r.tag = .cap ∧ (wovenCap r = true ∨ space r ≠ 1)) ∧
    (let r := (sup (thr0 [(1, far 0x3FF 1 0 0 1 0)])).cur.rd 1; r.tag = .cap ∧ wovenCap r = false ∧ space r = 1) :=
  ⟨by decide, .inl rfl, by decide, by decide⟩
/-- With a flag in gB. -/
theorem witness_TlbInvalidate_flag : (4 : GIx) ≠ 0 ∧ flagReady (sup user) 4 ∧ names (sup user) 4 0 96 := by
  refine ⟨by decide, .inr ⟨96, ?_⟩, ?_⟩ <;> simp only [names, ownAccess] <;> decide +kernel

def entry0 : LogEntry := { h := true, thr := 1, origin := 5, reason := .slot, head := 0, cls := 3, addr := 8, opnd := 0, pc := 0 }
def logged : State := (regs []).updTile 0 fun t => { t with flog := [entry0, entry0] }
theorem witness_FaultLogRead : logged.curT.flog.length ≤ (2 : Fin 8).val ∧ logged.curT.flog[(1 : Fin 8).val]? = some entry0 ∧ (3 : Fin 4) ≠ 0 := by decide
theorem witness_FlogclrRule : (0 : BitVec 4) ≠ 0 ∨ (1 : BitVec 24) ≠ 0 := by decide
theorem witness_FlogclrRule_kept : (0x01 : BitVec 8) ≠ 0 ∧
    ((logged.curT.flog.zipIdx.filter fun x => !(0x01 : BitVec 8).getLsbD x.2).map fun x => x.1) = [entry0] := by decide

def pending (x : Thread) : State := one { x with afp := true }
theorem witness_SynchronisingInstructions : (pending user).cur.afp = true ∧ ∃ d n, Instr.pbarw 3 5 = .pbarw d n := ⟨by decide, 3, 5, rfl⟩
theorem witness_WfwRule : (regs []).cur.afp = false ∧ (pending user).cur.afp = true ∧ ((0 : BitVec 2) ≠ 0 ∨ (0 : BitVec 4) ≠ 0 ∨ (7 : BitVec 3) ≠ 0) := by decide

/-- Monitors 0 to 3 watch the words at 64 (COUNT 3), 72 (0, class 2), 80 (poisoned) and 88 (0), for 4, 0, 0 and 0, or 1. -/
def watching (timeout : GReg) (t3 : Nat) : State :=
  { regs [(1, timeout), (4, full 0 64), (5, num 4), (6, full 0 72), (7, num 9), (8, full 0 80), (9, num 9), (10, full 0 88), (11, num t3)] with
    mem := [(spad 0 64, 3), (spad 0 77, 2)], psn := [spad 0 80 / 8] }
def watched (j : Nat) : Nat := 64 + 8 * j
theorem witness_FlagsAtOwnTile : names (watching (num 0) 1) 4 (0 : BitVec 19).toInt 64 ∧ ownAccess (watching (num 0) 1) 4 8 64 8 ∧ free (watching (num 0) 1) [64] ∧
    (watching (num 0) 1).cur.afp = false ∧ (watching (num 0) 1).cur.run = .rotation ∧
    (watching (num 0) 1).cur.wait = .none ∧ ((watching (bad 1) 1).cur.rd 1).tag = .poison ∧ ((watching (num 0) 1).cur.rd 1).tag ≠ .poison ∧
    ((watching (num 0) 1).cur.rd 1).low = 0 ∧ ((watching (num 7) 1).cur.rd 1).low ≠ 0 := by
  simp only [names, ownAccess, free]; decide +kernel
theorem witness_FlagsAtOwnTile_monitors : ownMonitors (watching (num 0) 1) 0xF watched := by
  unfold ownMonitors names ownAccess noErr; decide +kernel
/-- Of the monitors, 0 is not decided, 1 has a class, 2 a poisoned word, and 3 is met for threshold 0, not for 1. -/
theorem witness_FlagsAtOwnTile_decided :
    ¬satisfied (watching (num 0) 1) 0 watched 0 ∧ flagClass (watching (num 0) 1) (spad 0 64) = none ∧
    flagClass (watching (num 0) 1) (spad 0 72) = some 2 ∧ flagClass (watching (num 0) 1) (spad 0 80) = some 0 ∧
    satisfied (watching (num 0) 0) 0 watched 3 ∧ satisfied (watching (num 0) 0) 0xF watched 3 ∧ ¬satisfied (watching (num 0) 1) 0 watched 3 ∧
    flagClass (watching (num 0) 1) (spad 0 88) = none := by
  simp only [satisfied]; decide +kernel

/-- A record at 64 and a pending block at 128 with the record at 192; STATE st and NPRED n. -/
def spawner (st n : Nat) : State :=
  { regs [(1, full 0 64), (2, full 0 128), (3, num (2 ^ 63 + 0)), (4, full 0 0x7FFC0)] with
    mem := (natLe 8 st).zipIdx.filterMap (fun x => if x.1 = 0 then none else some (spad 0 128 + x.2, x.1)) ++
      (natLe 8 n).zipIdx.filterMap (fun x => if x.1 = 0 then none else some (spad 0 184 + x.2, x.1)) }
def crowd (n : Nat) : State := (spawner 0 1).updTile 0 fun t => { t with spawn := List.replicate n { r := {}, thr := 0, tag := 1 } }
def filled (n : Nat) : State := (spawner 0 1).updCluster 0 fun c =>
  { c with bank := List.replicate n { r := {}, ring := 0, level := 0, stamp := 0, block := none, order := 0, pushed := 0 } }
theorem witness_SpawnAtOwnTile : names (spawner 0 1) 1 0 64 ∧ ownAccess (spawner 0 1) 1 1 64 64 ∧ spawnsHere (spawner 0 1) 0 ∧ spawnsHere (spawner 0 1) 3 ∧
    (spawner 0 1).refusing [64] = [] ∧ recordClean (spawner 0 1) (spad 0 64) ∧ (spawner 0 1).curT.spawn.length < 8 ∧ bankRoom (spawner 0 1) ∧
    names (spawner 0 1) 4 0 0x7FFC0 ∧ ownAccess (spawner 0 1) 4 1 0x7FFC0 64 ∧ recordClean (spawner 0 1) (spad 0 0x7FFC0) := by
  simp only [names, ownAccess, spawnsHere, recordClean, noErr, bankRoom]; decide +kernel
theorem witness_SpawnAtOwnTile_held : 8 ≤ (crowd 8).curT.spawn.length ∧ (crowd 7).curT.spawn.length < 8 ∧ bankRoom (filled 1023) ∧ ¬bankRoom (filled 1024) ∧
    ((filled 1024).cluster 0).cuff = none := by unfold bankRoom; decide +kernel
theorem witness_PendingBlocks : names (spawner 0 1) 2 0 128 ∧ ownAccess (spawner 0 1) 2 4 128 128 ∧ (spawner 0 1).cur.wait = .none ∧
    recordClean (spawner 0 1) (spad 0 128) ∧ recordClean (spawner 0 1) (spad 0 128 + 64) ∧ (spawner 0 1).refusing [128, 128 + 64] = [] ∧
    bankRoom (spawner 0 1) ∧ free (spawner 0 1) [128] := by
  simp only [names, ownAccess, recordClean, noErr, bankRoom, free]; decide +kernel
theorem witness_PendingBlocks_state : (spawner 0 1).val (spad 0 128) 8 = 0 ∧ (spawner 0 1).val (spad 0 128 + 56) 8 = 1 ∧
    (spawner 1 7).val (spad 0 128) 8 = 1 ∧ (spawner 0 0).val (spad 0 128 + 56) 8 = 0 ∧ (spawner 5 1).val (spad 0 128) 8 = 5 := by decide +kernel

/-- Counter 0 clean, counter 7 with a class; counter 3 accessed in this cycle. -/
def counters : State := (regs [(1, num 9), (2, bad 3)]).updCluster 0 fun c =>
  { c with chunks := [(0, { next := 5, endv := 40, p := 4, minc := 2 }), (7, { cls := 6, origin := 9 })], chunkTaken := [3] }
/-- Barrier 31 with threads 1 and 2 arrived, of a count n. -/
def barred (n : Nat) (x : GReg) : State :=
  ((two (thr0 [(1, x)]) { thr0 [] with run := .reissue, wait := .bar 31 }).setThr 0 2 { thr0 [] with run := .reissue, wait := .bar 31 }).updTile 0
    fun t => { t with barriers := [(31, { count := n, arrived := [1, 2] })] }
theorem witness_ChunksAndBarriers : chunkReady counters 0 ∧ chunkReady counters 7 ∧ (counterOf counters 0).cls = 0 ∧ (counterOf counters 7).cls ≠ 0 ∧
    ([num 9, bad 3, num 1].find? fun r => r.tag = .poison) = some (bad 3) ∧ ([num 9, num 0, num 1].find? fun r => r.tag = .poison) = none ∧
    (counters.cluster (clusterOf counters.curTile)).chunkTaken.contains (3 : Fin 8).val = true := by
  simp only [chunkReady]; decide +kernel
theorem witness_ChunksAndBarriers_bar : (barred 3 (num 3)).cur.afp = false ∧ ((barred 3 (bad 1)).cur.rd 1).tag = .poison ∧
    ((barred 3 (num 3)).cur.rd 1).tag ≠ .poison ∧ (barred 3 (num 3)).curThr ∉ (barrierOf (barred 3 (num 3)) 31).arrived ∧
    (barrierOf (barred 3 (num 3)) 31).arrived.length + 1 = 3 ∧ (barrierOf (barred 4 (num 3)) 31).arrived.length + 1 ≠ 4 ∧
    (∀ h ∈ (barrierOf (barred 3 (num 3)) 31).arrived, ((barred 3 (num 3)).thr 0 h).wait = .bar 31) ∧ (barrierOf (barred 3 (num 3)) 30).arrived = [] := by decide +kernel


/-! ### Checks, remote accesses, the crown -/

/-- The tests of `checkTraps` in order, each passed by the next register: tag, poison, rights, mode, space, bounds, alignment. -/
theorem witness_AccessChecks :
    (let s := regs [(1, num 3)]; (s.cur.rd 1).tag = .data) ∧
    (let s := regs [(1, bad 3)]; (s.cur.rd 1).tag = .poison) ∧
    (let s := regs [(1, cap 2 0 64 0 0)]; (s.cur.rd 1).tag = .cap ∧ wovenCap (s.cur.rd 1) = false ∧ (s.cur.rd 1).grants 1 = false) ∧
    (let s := regs [(1, far 0x3FF 2 0 0 1 0)]; (s.cur.rd 1).grants 1 = true ∧ isMmio (s.cur.rd 1) = true ∧ s.cur.priv = false) := by decide
/-- Spaces: an MMIO register, the last launch flag and the word after it, and HBM. -/
theorem witness_AccessChecks_space :
    (let s := sup (thr0 [(1, far 0x3FF 2 0 0 1 0)]); ¬(isMmio (s.cur.rd 1) = true ∧ s.cur.priv = false)) ∧
    ¬spaceAllowed (regs []) .withMmio (far 0x3FF 2 0 0 1 0) 0 2 ∧ spaceAllowed (regs []) .withMmio (far 0x3FF 2 0 0 1 0) 0 8 ∧
    ¬spaceAllowed (regs []) .flags (far 0x3FF 2 0 0 1 0) 0 8 ∧ spaceAllowed (regs []) .flags (far 0x3FF 2 0 8 64 0x01001FF8) 0 8 ∧
    ¬spaceAllowed (regs []) .flags (far 0x3FF 2 0 8 64 0x01001FF8) 8 8 ∧
    spaceAllowed (regs []) .scratchHbm (far 0x3FF 1 0 0 1 0) 0 16 ∧ ¬spaceAllowed (regs []) .scratch (far 0x3FF 1 0 0 1 0) 0 8 := by
  have h : space (far 0x3FF 2 0 0 1 0) = 2 := by decide
  have h' : space (far 0x3FF 2 0 8 64 0x01001FF8) = 2 := by decide
  have h'' : space (far 0x3FF 1 0 0 1 0) = 1 := by decide
  simp only [spaceAllowed, h, h', h'']
  decide
theorem witness_AccessChecks_bounds :
    (let r := cap 0x3FF 64 64 0 64
     let off := fun (disp : Int) => ((r.low.toNat % 2 ^ movable r : Nat) : Int) + disp
     (off (-1) < (baseLen r).1 ∨ (baseLen r).1 + (baseLen r).2 < off (-1) + 8) ∧
     (off 57 < (baseLen r).1 ∨ (baseLen r).1 + (baseLen r).2 < off 57 + 8) ∧
     ¬(off 56 < (baseLen r).1 ∨ (baseLen r).1 + (baseLen r).2 < off 56 + 8) ∧ off 56 % 8 = 0 ∧
     ¬(off 55 < (baseLen r).1 ∨ (baseLen r).1 + (baseLen r).2 < off 55 + 8) ∧ off 55 % 8 ≠ 0) ∧ (regs []).cur.afp = false := by decide
def afar : State := regs [(1, full 1 64), (2, full 4095 0x7FFF8), (3, num 7), (4, num (2 ^ 63 + 1 * 2 ^ 32 + 5))]
theorem witness_RemoteAccesses : afar.cur.served = [] ∧ afar.curT.retries.length < 256 ∧ names afar 1 (dispM 0) 64 ∧ farAccess afar 1 7 1 64 (2 ^ 3) ∧
    names afar 2 (dispM 0) 0x7FFF8 ∧ farAccess afar 2 7 4095 0x7FFF8 (2 ^ 3) ∧ names afar 1 (0 : BitVec 16).toInt 64 ∧
    farAccess afar 1 4 1 64 (atomWidth .i64) ∧ afar.cur.afp = false ∧ farAccess afar 1 16 1 64 8 := by
  simp only [names, farAccess]; decide +kernel
theorem witness_RemoteAccesses_wake : (let x := afar.cur.rd 4; x.tag ≠ .poison ∧ x.low.getLsbD 63 = true ∧ x.low.extractLsb' 44 2 = 0#2 ∧
    x.low.extractLsb' 3 16 = 0#16 ∧ (x.low.extractLsb' 32 12).toNat = 1 ∧ 1 ≠ afar.curTile) := by decide

/-- Barrier 3 on tiles 0 and 1, of n threads a tile: free, poisoned, ahead of a thread, with tile 0 on its way, and releasing with waiters. -/
def crown (n : Nat) (c : Crown) : Crown := { c with bound := true, t := n, w := 2, h := 1 }
def crowned (c : Crown) (x : Thread := thr0 []) : State := { two x (thr0 []) with crowns := [(3, c)] }
theorem witness_CrownBarriers_use : (crowned (crown 1 {})).cur.afp = false ∧ mayUse ((crowned (crown 1 {})).crown 3) 0 0 ∧
    ¬mayUse ((crowned (crown 1 {})).crown 4) 0 0 ∧ ¬mayUse ((crowned (crown 1 {})).crown 3) 0 2 ∧ ¬mayUse ((crowned (crown 1 {})).crown 3) 1 0 ∧
    ((crowned (crown 1 { poison := 6 })).crown 3).poison ≠ 0 ∧ ((crowned (crown 1 {})).crown 3).poison = 0 ∧
    ((crowned (crown 1 {}) { thr0 [] with crownDone := [(3, 1)] }).crown 3).episode < mget 0 (crowned (crown 1 {}) { thr0 [] with crownDone := [(3, 1)] }).cur.crownDone 3 ∧
    mget 0 (crowned (crown 1 {})).cur.crownDone 3 ≤ ((crowned (crown 1 {})).crown 3).episode := by
  simp only [mayUse]; decide
theorem witness_CrownBarriers_counts : 1 ∈ ((crowned (crown 2 { arrived := [0], flying := [1] })).crown 3).flying ∧ 0 + 1 < (crown 2 {}).t ∧ (crown 1 {}).t ≤ 0 + 1 := by decide
def releasing : State :=
  { (crowned (crown 1 { arrived := [0, 1], releasing := true }) { thr0 [] with run := .reissue, wait := .crown (.pbar 5 3) 3, crownDone := [(3, 1)] }) with
    tiles := [(0, { region := some 0, crownHeld := [(3, 1)], threads := [(0, { thr0 [] with run := .reissue, wait := .crown (.pbar 5 3) 3, crownDone := [(3, 1)] }),
      (1, { thr0 [] with run := .reissue, wait := .crown (.pbara 3) 3 })] })] }
theorem witness_CrownBarriers_release : (releasing.crown 3).releasing = true ∧ (releasing.crown 3).bound = true ∧ (releasing.crown 3).saved = [] ∧
    (releasing.crown 3).x0 + (releasing.crown 3).w ≤ 64 ∧ mayUse (releasing.crown 3) 0 0 ∧
    mget 0 (releasing.thr 0 0).crownDone 3 ≤ (releasing.crown 3).episode + 1 ∧ 0 < mget 0 (releasing.tile 0).crownHeld 3 := by
  simp only [mayUse]; decide
/-- A launch of context 0 that holds cluster 0 (tiles 0 to 3 of rows 0 and 1), and the word that binds those eight tiles. -/
def holding (x : Launch := { id := 0, ctx := 0, status := none, record := [] }) : State :=
  { regs [] with launches := [{ x with phase := .running }] }
def bindWord : Word := 0x8000000043000000
theorem witness_CrownBarriers_bind : bindWord.getLsbD 63 = true ∧ (∀ k, Writer.device 0 = .device k → (bindWord.extractLsb' 40 6).toNat = k) ∧
    (0 : Word).getLsbD 63 = false ∧ (((holding).crown 3).x0 + ((holding).crown 3).w ≤ 64) := by
  refine ⟨by decide, ?_, by decide, by decide⟩
  intro k h
  cases h
  decide
theorem witness_CrownBarriers_set : ∀ c', crownFields c' bindWord → c'.x0 + c'.w ≤ 64 ∧ c'.y0 + c'.h ≤ 64 ∧ ∀ t, mayUse { c' with bound := true } c'.ctx t →
    ∃ l, (holding).holder (clusterOf t) = some l ∧ l.ctx = c'.ctx := by
  rintro c' ⟨-, hctx, hh, hw, hy, hx⟩
  have e1 : (bindWord.extractLsb' 40 6).toNat = 0 := by decide
  have e2 : (bindWord.extractLsb' 30 6).toNat = 1 := by decide
  have e3 : (bindWord.extractLsb' 24 6).toNat = 3 := by decide
  have e4 : (bindWord.extractLsb' 8 6).toNat = 0 := by decide
  have e5 : (bindWord.extractLsb' 0 6).toNat = 0 := by decide
  rw [e1] at hctx; rw [e2] at hh; rw [e3] at hw; rw [e4] at hy; rw [e5] at hx
  refine ⟨by omega, by omega, fun t h => ?_⟩
  obtain ⟨-, -, -, h1, -, h2⟩ := h
  simp only [hx, hw, hy, hh] at h1 h2
  have : clusterOf t = 0 := by unfold clusterOf tileX tileY at *; omega
  rw [this, hctx]
  exact ⟨{ id := 0, ctx := 0, status := none, record := [], phase := .running }, by decide, rfl⟩


/-! ### Copy and matrix commands -/

/-- A shape record of one dimension of n elements of 8 bytes, both strides 8 (Tables 10.1, 10.2). -/
def vectorShape (n : Nat) : Nat :=
  7 + 2 ^ 6 + 2 ^ 12 + 2 * 2 ^ 15 + 3 * 2 ^ 18 + 4 * 2 ^ 21 + (n + 2 ^ 16 + 2 ^ 32 + 2 ^ 48 + 2 ^ 64) * 2 ^ 64 + 8 * 2 ^ 160 + 8 * 2 ^ 160 * 2 ^ 160
/-- g1 source, g2 and g4 destinations on the next tile and in HBM, g3 the record, g5 a flag, g6 a woven destination. -/
def copier (shape : Nat) : State :=
  { regs [(1, full 0 0x1000), (2, full 1 0x2000), (3, full 0 64), (4, far 0x3FF 1 0 1 1024 0x3000), (5, full 0 96), (6, wove 0x3FF 1 1 0 63 0)] with
    mem := cells (spad 0 64) 64 shape }
def queue (s : State) (q : SMap CopyCmd) : State := s.updTile 0 fun t => { t with copyq := q }
def busyQueue : SMap CopyCmd := (List.range 32).map fun e => (e, { state := .active })
theorem witness_CopyIssue : (copier (vectorShape 16)).curT.copySeq < 2048 ∧
    copyFrom (copier (vectorShape 16)) (full 0 0x1000) ∧ copyTo (copier (vectorShape 16)) .copy (full 1 0x2000) ∧
    copyTo (copier (vectorShape 16)) .copy (far 0x3FF 1 0 1 1024 0x3000) ∧ copyTo (copier (vectorShape 16)) .copyp (wove 0x3FF 1 1 0 63 0) ∧
    copyTo (copier (vectorShape 16)) .copym (full 1 0x2000) ∧ ¬copyTo (copier (vectorShape 16)) .copym (full 4 0x2000) ∧
    copyTo (copier (vectorShape 16)) .tileFrom (full 1 0x2000) := by
  refine ⟨by decide +kernel, ?_, ?_, ?_, ?_, ?_, ?_, ?_⟩ <;> (simp only [copyFrom, copyTo]; decide +kernel)
theorem witness_copyOperands : copyOperands (copier (vectorShape 16)) 3 0 0 0 64 ∧ copyOperands (copier (vectorShape 16)) 3 5 0 5 64 := by
  have h5 : flagGiven (copier (vectorShape 16)) 5 := by
    refine .inr ⟨⟨by decide +kernel, by decide +kernel, gaSpad 0 96, by decide +kernel, by decide +kernel⟩, .inr ⟨?_, by decide +kernel⟩⟩
    have h : space ((copier (vectorShape 16)).cur.rd 5) = 0 := by decide +kernel
    simp only [spaceAllowed, h]
  have hn : names (copier (vectorShape 16)) 3 0 64 := by simp only [names]; decide +kernel
  have ha : ownAccess (copier (vectorShape 16)) 3 1 64 64 := by simp only [ownAccess]; decide +kernel
  have hr : recordClean (copier (vectorShape 16)) (spad 0 64) := by simp only [recordClean, noErr]; decide +kernel
  exact ⟨⟨hn, ha, hr, by decide +kernel, .inl rfl, .inl rfl, by decide +kernel⟩, hn, ha, hr, by decide +kernel, h5, h5, by decide +kernel⟩
/-- The record's own faults (Table 10.2), a footprint out of bounds, and neither. -/
theorem witness_copyIssued :
    (let s := copier (vectorShape 16); let h := Shape.ofNat (s.val (spad 0 64) 64)
     h.fault (sidesOf s .copy (some (full 0 0x1000)) (some (full 1 0x2000)) 0) (full 0 0x1000) (full 1 0x2000) = none ∧
     h.boundsFault (sidesOf s .copy (some (full 0 0x1000)) (some (full 1 0x2000)) 0) s.pkg (full 0 0x1000) (full 1 0x2000) = none ∧
     h.boundsFault (sidesOf s .copy (some (full 0 0x1000)) (some (full 1 0x7FF88)) 0) s.pkg (full 0 0x1000) (full 1 0x7FF88) ≠ none ∧
     h.fault (sidesOf s .copy (some (full 0 0x1001)) (some (full 1 0x2000)) 0) (full 0 0x1001) (full 1 0x2000) = some 2) ∧
    (let s := copier (vectorShape 16 + 2 ^ 29); let h := Shape.ofNat (s.val (spad 0 64) 64)
     h.fault (sidesOf s .copy (some (full 0 0x1000)) (some (full 1 0x2000)) 0) (full 0 0x1000) (full 1 0x2000) = some 3) := by decide +kernel
theorem witness_copyIssued_queue :
    entryFree (copier (vectorShape 16)).curT.copyq 0 ∧ (∀ k, k < 0 → ¬entryFree (copier (vectorShape 16)).curT.copyq k) ∧
    (∀ e, e < 32 → ¬entryFree busyQueue e) ∧ entryFree [(0, { state := .active }), (1, { state := .cancelled })] 1 ∧
    (∀ k, k < 1 → ¬entryFree [(0, { state := .active }), (1, { state := .cancelled })] k) := by
  have busy : ∀ e, e < 32 → mfind busyQueue e = some { state := .active } := by decide +kernel
  refine ⟨fun c h => ?_, by simp, fun e he h => ?_, fun c h => ?_, fun k hk h => ?_⟩
  · have : mfind (copier (vectorShape 16)).curT.copyq 0 = none := by decide +kernel
    simp [this] at h
  · simpa using h _ (busy e he)
  · have : mfind [(0, ({ state := .active } : CopyCmd)), (1, { state := .cancelled })] 1 = some { state := .cancelled } := by decide
    rw [this] at h
    cases h
    simp
  · have h0 : k = 0 := by omega
    subst h0
    simpa using h { state := .active } (by decide)

/-- A descriptor of 16 rows and columns of F32 at the origin. -/
def word16 : Word := 0x800000003C0F0000
/-- The cluster with it set in descriptor 2. -/
def set2 (s : State) : State := s.updCluster 0 fun c => { c with desc := [(2, word16)] }
/-- A shape record of 16 by 16 elements of 4 bytes, row after row on one side. -/
def planeShape (src : Bool) : Nat :=
  3 + 2 * 2 ^ 6 + 2 ^ 12 + 2 * 2 ^ 15 + 3 * 2 ^ 18 + 4 * 2 ^ 21 + (16 + 16 * 2 ^ 16 + 2 ^ 32 + 2 ^ 48 + 2 ^ 64) * 2 ^ 64 +
    (4 + 64 * 2 ^ 32) * (if src then 2 ^ 160 else 2 ^ 160 * 2 ^ 160)
theorem witness_tileCopyIssued :
    (let s := set2 (copier (planeShape true)); let h := Shape.ofNat (s.val (spad 0 64) 64); let word := mget 0 (s.cluster 0).desc 2
     word.getLsbD 63 = true ∧ mfind (s.cluster 0).closing 2 = none ∧
     s.curT.matq.length + ((s.cluster 0).staging.filter fun x => x.tile == inCluster s.curTile).length < 16 ∧
     h.fault (sidesOf s .tileTo (some (full 0 0x1000)) none word) (full 0 0x1000) {} = none ∧
     h.boundsFault (sidesOf s .tileTo (some (full 0 0x1000)) none word) s.pkg (full 0 0x1000) {} = none) ∧
    (let s := set2 (copier (planeShape false)); let h := Shape.ofNat (s.val (spad 0 64) 64); let word := mget 0 (s.cluster 0).desc 2
     h.fault (sidesOf s .tileFrom none (some (full 1 0x2000)) word) {} (full 1 0x2000) = none ∧
     h.boundsFault (sidesOf s .tileFrom none (some (full 1 0x2000)) word) s.pkg {} (full 1 0x2000) = none) ∧
    (let s := copier (planeShape true); let h := Shape.ofNat (s.val (spad 0 64) 64)
     (mget 0 (s.cluster 0).desc 2).getLsbD 63 = false ∧ h.fault (sidesOf s .tileTo (some (full 0 0x1000)) none 0) (full 0 0x1000) {} = none) := by
  decide +kernel

/-- Commands in entry 3, and ids that name them, that name none, and a poisoned one. -/
def killer (c : CopyCmd) (id : GReg) : State := queue (regs [(1, id)]) [(3, c)]
def streaming : CopyCmd := { state := .active, seq := 5, next := 2, flying := [1], shape := Shape.ofNat (vectorShape 16) }
theorem witness_CopyStatusAndKill : ((killer {} (bad 1)).cur.rd 1).tag = .poison ∧ ((killer {} (num 3)).cur.rd 1).tag ≠ .poison ∧
    (let s := killer {} (num 3); mfind s.curT.copyq 3 = some {} ∧ ({} : CopyCmd).seq = ((s.cur.rd 1).low.extractLsb' 5 59).toNat ∧
      ({} : CopyCmd).tgrant = false ∧ ({} : CopyCmd).stopCls = 0 ∧ ({} : CopyCmd).sf = 0 ∧
      (∀ h, h < 8 → (s.thr s.curTile h).wait ≠ .copyQueue ∧ (s.thr s.curTile h).wait ≠ .matrixQueue) ∧
      (∀ p ∈ s.curT.posted, p.kind ≠ .arm (8 + 3))) ∧
    (∀ c, ¬(mfind (killer {} (num 2)).curT.copyq 2 = some c)) := by
  refine ⟨by decide, by decide, by decide +kernel, fun c h => ?_⟩
  have h2 : mfind (killer {} (num 2)).curT.copyq 2 = none := by decide +kernel
  rw [h2] at h
  cases h
theorem witness_CopyStatusAndKill_active : (let s := killer streaming (num (3 + 5 * 32)); mfind s.curT.copyq 3 = some streaming ∧
    streaming.seq = ((s.cur.rd 1).low.extractLsb' 5 59).toNat ∧ streaming.state = .active ∧ streaming.tgrant = false ∧ streaming.stopCls = 0 ∧
    streaming.kind ≠ .tileTo ∧ streaming.resend = [] ∧ streaming.next < ceilDiv streaming.shape.nb 32 ∧ streaming.flying ≠ [] ∧
    streaming.ending = false ∧ (∀ r ∈ s.curT.retries, r.flit.op ≠ .granule)) ∧
    ceilDiv streaming.shape.nb 32 ≤ ({ streaming with next := 4 } : CopyCmd).next := by decide +kernel

/-- g1 to g3 operands in tile 1 of the cluster; descriptor 2 set. -/
def mats : State := set2 (regs [(1, full 1 0), (2, full 1 0x4000), (3, full 1 0x8000), (4, num word16.toNat), (5, bad 2), (6, num 1)])
theorem witness_MatrixIssue : matReady mats 2 0 0 0 word16 ∧ mmaWord .e4m3 word16 ∧ typeOf word16 = 0 :=
  ⟨⟨by decide +kernel, by decide, by decide +kernel, by decide +kernel, .inl rfl, .inl rfl, by decide +kernel⟩, ⟨by decide, by decide, by decide⟩, by decide⟩
theorem witness_MatrixIssue_operands : matOperand mats (full 1 0) (16 * 16 * (4 * mtyBits .bf16 + mtyScale .bf16)) 32 ∧
    matOperand mats (full 1 0x8000) (4 * 16 * 16) 32 ∧ matOperand mats (full 1 0) (16 * 16 * ((tcvtForm .i64).1 / 8)) 32 ∧
    matOperand mats (full 1 0) (4 * 16) 4 := by
  refine ⟨⟨⟨by decide, by decide, gaSpad 1 0, ?_, ?_⟩, ?_⟩, ⟨⟨by decide, by decide, gaSpad 1 0x8000, ?_, ?_⟩, ?_⟩,
    ⟨⟨by decide, by decide, gaSpad 1 0, ?_, ?_⟩, ?_⟩, ⟨⟨by decide, by decide, gaSpad 1 0, ?_, ?_⟩, ?_⟩⟩ <;> decide +kernel
theorem witness_TileConfiguration : (mats.cur.rd 5).tag = .poison ∧ (mats.cur.rd 4).tag ≠ .poison ∧ tileWord (mats.cur.rd 4).low ∧
    ¬tileWord (mats.cur.rd 6).low ∧ (∀ k ∈ (mats.cluster 0).closing, k.1 ≠ 2) ∧ mget 0 (mats.cluster 0).desc 2 = (mats.cur.rd 4).low ∧
    mget 0 (mats.cluster 0).desc 3 ≠ (mats.cur.rd 4).low ∧
    (∃ k ∈ ((mats.updCluster 0 fun c => { c with closing := [(2, 1)] }).cluster 0).closing, k.1 = 2) := by
  unfold tileWord; decide +kernel


/-! ### Engine steps -/

/-- An own-tile copy of four granules, in entry 2, with source bytes 1 to 8 at 0x1000. -/
def moving : CopyCmd := { src := full 0 0x1000, dst := full 0 0x2040, shape := Shape.ofNat (vectorShape 16), age := 4 }
def engine (c : CopyCmd) : State := { queue (regs []) [(2, c)] with mem := cells (spad 0 64) 8 6 ++ cells (spad 0 0x1000) 8 0x0807060504030201 }
theorem witness_CopyEngine : ((engine moving).tile 0).halt = .running ∧ noErrors (engine moving) ∧ 0 < 4096 ∧ nextInLine ((engine moving).tile 0).copyq 2 moving ∧
    0 < streamBytes moving.shape ∧ moving.wf = 0 := by unfold noErrors nextInLine; decide +kernel
/-- The same with a wait flag whose COUNT is 6, for 6 and for 7. -/
def waiting (n : Nat) : CopyCmd := { moving with wf := gaSpad 0 64, wn := n }
theorem witness_CopyEngine_flag : nextInLine ((engine (waiting 7)).tile 0).copyq 2 (waiting 7) ∧ (waiting 7).wf = gaSpad 0 64 ∧
    (engine (waiting 7)).poisoned (spad 0 64) = false ∧ (engine (waiting 7)).val (spad 0 64) 8 / 2 ^ 40 % 256 = 0 ∧
    (waiting 6).wn ≤ (engine (waiting 6)).val (spad 0 64) 8 % 2 ^ 40 ∧ ¬(waiting 7).wn ≤ (engine (waiting 7)).val (spad 0 64) 8 % 2 ^ 40 := by
  unfold nextInLine; decide +kernel
def active2 : CopyCmd := { moving with state := .active, chan := true, next := 0 }
theorem witness_CopyEngine_granule : mfind ((engine active2).tile 0).copyq 2 = some active2 ∧ active2.state = .active ∧ active2.stopCls = 0 ∧
    active2.resend = [] ∧ active2.flying = [] ∧ ((engine active2).cluster (clusterOf 0)).walks = [] ∧ 32 * (active2.next + 1) < streamBytes active2.shape := by
  decide +kernel
theorem witness_granuleMoves : granuleMoves (engine active2) 0 active2 0 (fun i => 0x1000 + i) 0x2040 := by
  unfold granuleMoves
  refine ⟨by decide, by decide, by decide, by decide, by decide, by decide, by decide, by decide, by decide, by decide +kernel, by decide,
    by decide, by decide, by decide, by decide +kernel, by decide +kernel⟩

/-- Commands of tiles 0 and 1 waiting for the engine, the arbiter last at tile 1 with no grant left. -/
def mma1 : MatCmd := { kind := .mma .i8 1, t := 2, desc := word16 ||| 0x1000000000, a := full 0 0, b := full 1 0x4000 }
def arbiter (m0 m1 : List MatCmd) : State :=
  let s : State := { regs [] with tiles := [(0, { region := some 0, matq := m0 }), (1, { region := some 0, matq := m1, matwt := 3 })] }
  s.updCluster 0 fun c => { c with arbP := 0 }
theorem witness_MatrixEngine_grant : noErrors (arbiter [mma1] [mma1]) ∧ ((arbiter [mma1] [mma1]).cluster 0).arbP < 8 ∧
    ((arbiter [mma1] [mma1]).cluster 0).staging.length < 2 ∧ ((arbiter [mma1] [mma1]).cluster 0).clearing = [] ∧
    ((arbiter [mma1] [mma1]).tile (clusterTile 0 1)).matq = [mma1] ∧ mma1.a.tag = .cap ∧ mma1.b.tag = .cap := by unfold noErrors; decide +kernel
theorem witness_granted : granted (arbiter [mma1] [mma1]) 0 1 := by
  unfold granted
  refine ⟨by decide, by decide, ?_⟩
  rw [if_neg (by decide)]
  exact ⟨0, by decide, by decide, by intro j hj; omega⟩
theorem witness_headsFree : headsFree (arbiter [mma1] [mma1]) 0 := by
  intro k m r hk h
  have hall : ∀ k, k < 8 → ((arbiter [mma1] [mma1]).tile (clusterTile 0 k)).matq ≠ [] →
      ((arbiter [mma1] [mma1]).tile (clusterTile 0 k)).matq = [mma1] ∧ ((arbiter [mma1] [mma1]).tile (clusterTile 0 k)).halt = .running := by decide
  obtain ⟨h1, h2⟩ := hall k hk (by rw [h]; simp)
  rw [h1] at h
  obtain ⟨rfl, -⟩ := List.cons.inj h
  exact ⟨h2, rfl, rfl, fun e => ⟨by simp [mma1], by simp [mma1]⟩⟩

/-- A staged command: TZERO, an I8 product of K = 32, and one that has been executed. -/
def staged (x : Staging) : State := (regs []).updCluster 0 fun c => { c with staging := [x], store := [(5, 9)], storePsn := [] }
def clears : Staging := { tile := 0, cmd := { kind := .tzero, desc := word16 } }
def product : Staging := { tile := 0, cmd := mma1, opA := { bytes := List.replicate 512 2 }, opB := { bytes := List.replicate 512 (-3) } }
def written : Staging := { clears with executed := true, writes := [{ addr := 5, val := 7 }, { addr := 6, val := 8 }] }
theorem witness_MatrixEngine_execute : ((staged clears).cluster 0).staging = [clears] ∧ clears.executed = false ∧ clears.flag = 0 ∧ clears.cmd.cancelled = false ∧
    ((staged clears).cluster 0).residue = none ∧ clears.cmd.kind = .tzero ∧ tileWord clears.cmd.desc ∧
    product.cmd.kind = .mma .i8 1 ∧ mmaWord .i8 product.cmd.desc ∧ product.opA.marks = [] ∧ ((staged product).cluster 0).storePsn = [] ∧
    product.opA.bytes.length = 1 * rowsOf product.cmd.desc * 32 ∧ product.opB.bytes.length = 1 * colsOf product.cmd.desc * 32 := by
  unfold tileWord mmaWord; decide +kernel
theorem witness_MatrixEngine_complete : ((staged written).cluster 0).staging = [written] ∧ written.executed = true ∧ written.cmd.sf = 0 ∧ written.spad = [] ∧
    (∀ v ∈ written.writes, v.mark = 0 ∧ v.bmask = 15) ∧ (written.writes.map fun v => v.addr).Nodup := by decide +kernel
theorem witness_MatrixEngine_kind : ∀ e, written.cmd.kind ≠ .copyTo e := by intro e; simp [written, clears]

/-- Descriptor 2 closing under thread 3 of tile 1, with its new word, and its rectangle being cleared. -/
def closing (w : Word) : State :=
  (two (thr0 []) (thr0 [])).updCluster 0 fun c => { c with desc := [(2, word16)], newWord := [(2, w)], closing := [(2, 12)], store := [(3, 5), (2 ^ 18, 9)], storePsn := [3] }
def clearing : State := (closing word16).updCluster 0 fun c => { c with clearing := [2] }
theorem witness_DescriptorClosing : mfind ((closing word16).cluster 0).newWord 2 = some word16 ∧ 2 ∉ ((closing word16).cluster 0).clearing ∧
    (∀ x ∈ ((closing word16).cluster 0).staging, x.cmd.t ≠ 2) ∧ (∀ k, k < 8 → ∀ m ∈ ((closing word16).tile (clusterTile 0 k)).matq, m.t ≠ 2) ∧
    mfind ((closing 0).cluster 0).newWord 2 = some 0 ∧ (0 : Word).getLsbD 63 = false ∧ word16.getLsbD 63 = true ∧
    2 ∈ (clearing.cluster 0).clearing ∧ (clearing.cluster 0).staging = [] ∧ word16 = mget 0 (clearing.cluster 0).desc 2 ∧ tileWord word16 := by
  unfold tileWord; decide +kernel
theorem witness_inRectangle : inRectangle word16 15 ∧ ¬inRectangle word16 16 ∧ inRectangle word16 (15 * 512) ∧ ¬inRectangle word16 (16 * 512) := by
  unfold inRectangle; decide


/-! ### Requests at their homes -/

/-- A flit of tile 9 and context 3 at tile 5, behind it another; the tile as given. -/
def ask (op : Op) (off : Nat) : Flit := { op := op, ctx := 3, ga := gaSpad 5 off, tag := 77, src := .tile 9 }
def inbox (f : Flit) (x : Tile := {}) : State :=
  { tiles := [(5, { x with region := some 0, ctx := 3, ejA := [f, ask .wake 0] })],
    mem := cells (spad 5 64) 8 0x00020000000005 ++ [(spad 5 72, 4), (spad 5 80, 1)], psn := [spad 5 72 / 8], full := [spad 5 64 / 8] }
theorem witness_arrives : arrives (inbox (ask .load 64)) 5 (ask .load 64) [ask .wake 0] ∧ banksGiven (inbox (ask .load 64)) 5 (ask .load 64) := by
  unfold arrives banksGiven; decide +kernel
theorem witness_RequestsRefused : ((inbox (ask .load 64)).tile 5).ejA = [ask .load 64, ask .wake 0] ∧ ((inbox (ask .load 64)).tile 5).passedA = false ∧ requestEvent .load (.tile 5) = some (.load (.tile 5)) ∧
    ((inbox (ask .load 64) { fenced := true }).tile 5).fenced = true ∧
    ({ inbox (ask .load 64) with dies := [.absent, .present, .present, .present] } : State).diePresent (dieOf (clusterOf 5)) = false ∧
    ((inbox (ask .load 64) { halt := .settled }).tile 5).halt = .settled ∧ ((inbox { ask .load 64 with ctx := 4 }).tile 5).ctx ≠ 4 ∧
    ((inbox { ask .storev 64 with flast := 1 }).tile 5).slots = [] := by decide +kernel
theorem witness_RequestsRefused_wiped : (let x := ({ inbox (ask .arm 64) with tiles := [(5, { wiped := true, ejA := [ask .arm 64] })] } : State).tile 5
    x.region = none ∧ x.wiped = true ∧ (ask .arm 64).op = .arm) ∧ bankOpen (inbox (ask .push 64)) 5 (ask .push 64) := by unfold bankOpen; decide
theorem witness_DataRequests : (ask .load 64).flast = 0 ∧ noErr (inbox (ask .load 64)) (spad 5 64) ∧ spad 5 67 % 8 + 5 ≤ 8 ∧ spad 5 64 % 16 = 0 ∧
    noErr (inbox (ask .loadcap 64)) (spad 5 64 + 8) ∧ (inbox (ask .loadcap 80)).poisoned (spad 5 80) = false ∧
    (inbox (ask .loadcap 80)).poisoned (spad 5 80 + 8) = false ∧ (∀ k, k < 8 → noErr (inbox (ask .loadv 64)) (spad 5 64 + 8 * k)) := by
  unfold noErr; decide +kernel
/-- A message of two flits, its first part in a slot. -/
def part (op : Op) (i : Nat) : Flit := { ask op 64 with flast := 1, fidx := i, data := List.replicate 32 7, bmask := 2 ^ 64 - 1, psn := [0, 0, 0, 0] }
theorem witness_secondPart : secondPart (inbox (part .storev 1) { slots := [{ flits := [part .storev 0] }] }) 5 (part .storev 0) (part .storev 1) ∧
    secondPart (inbox (part .push 1) { slots := [{ flits := [part .push 0] }] }) 5 (part .push 0) (part .push 1) ∧
    (part .push 1).data.length = 32 ∧ (part .push 1).psn = [0, 0, 0, 0] := by unfold secondPart banksGiven; decide +kernel
/-- A withdrawal of the LDC that arrives has come before it. -/
theorem witness_SyncRequests_withdrawn : (let x : Tile := { withdrawn := [ask .withdraw 64] }
    (inbox (ask .ldc 64) x).withdrew (.tile 5) (ask .ldc 64) = true ∧ banksGiven (inbox (ask .ldc 64) x) 5 (ask .ldc 64) ∧
    requestEvent .ldc (.tile 5) = some (.ldcRequest (.tile 5)) ∧ (inbox (ask .ldc 64)).withdrew (.tile 5) (ask .ldc 64) = false ∧
    (∀ g ∈ ((inbox (ask .withdraw 64)).tile 5).monitors, ¬(g.src = (ask .withdraw 64).src ∧ g.tag = (ask .withdraw 64).tag))) := by
  unfold banksGiven; decide +kernel
def monitors (n : Nat) : Tile := { monitors := List.replicate n (ask .arm 64) }
theorem witness_SyncRequests : noErr (inbox (ask .ldc 64)) (spad 5 64) ∧ noFeWaiter (inbox (ask .ldc 64)) (spad 5 64) ∧ gaSpad 5 64 % 8 = 0 ∧
    (inbox (ask .ldc 64)).fe (spad 5 64) = true ∧ (inbox (ask .ldc 72)).fe (spad 5 72) = false ∧
    ((inbox (ask .ldc 72) (monitors 63)).tile 5).monitors.length < 64 ∧ 64 ≤ ((inbox (ask .ldc 72) (monitors 64)).tile 5).monitors.length ∧
    gaSpad 5 64 % 64 = 0 ∧ (∀ k, k < 8 → noFeWaiter (inbox (ask .scrub 64)) (spad 5 64 + 8 * k)) ∧
    (inbox (ask .arm 64)).poisoned (spad 5 64) = false ∧ (inbox (ask .arm 80)).val (spad 5 80) 8 / 2 ^ 40 % 256 = 0 := by
  unfold noErr noFeWaiter; decide +kernel
theorem witness_SyncRequests_arm : (if ({ ask .arm 80 with opnd := 1 } : Flit).cmp = 1 then (inbox (ask .arm 80)).val (spad 5 80) 8 % 2 ^ 40 = 1 else 1 ≤ (inbox (ask .arm 80)).val (spad 5 80) 8 % 2 ^ 40) ∧
    ¬(if ({ ask .arm 80 with cmp := 1, opnd := 0 } : Flit).cmp = 1 then (inbox (ask .arm 80)).val (spad 5 80) 8 % 2 ^ 40 = 0 else 0 ≤ (inbox (ask .arm 80)).val (spad 5 80) 8 % 2 ^ 40) ∧
    (∃ g ∈ ((inbox (ask .withdraw 64) (monitors 2)).tile 5).monitors, g.src = (ask .withdraw 64).src ∧ g.tag = (ask .withdraw 64).tag) := by decide +kernel
def granule0 : Flit := { ask .granule 0x1000 with data := List.replicate 32 6, bmask := 2 ^ 32 - 1, psn := [0, 0, 0, 0], nb := 32 }
def streamEnd : Flit := { ask .streamend 0 with wpen := true, wpoff := 64, nb := 2 ^ 40 + 9 }
theorem witness_StreamRequests : gaSpad 5 0x1000 % 32 = 0 ∧ (∀ k, k < 4 → noErr (inbox granule0) (spad 5 0x1000 + 8 * k)) ∧ granule0.data.length = 32 ∧
    (∀ w ∈ ((inbox granule0).tile 5).windows, ¬(w.src = granule0.src ∧ w.tag = granule0.tag)) ∧ ((inbox granule0).tile 5).windows.length < 16 ∧
    (∀ k, k < 4 → (inbox granule0).poisoned (spad 5 0x1000 + 8 * k) = false) ∧
    noErr (inbox streamEnd) (spad 5 64) ∧ (inbox streamEnd).poisoned (spad 5 64) = false ∧ streamEnd.wpoff % 8 = 0 := by
  unfold noErr; decide +kernel
theorem witness_TaskRequests : ((inbox (part .push 1)).cluster (clusterOf 5)).bank.length < 1024 ∧ gaSpad 5 128 % 128 = 0 ∧
    (((inbox (part .push 1)).updCluster (clusterOf 5) fun c => { c with bank := ((filled 1024).cluster 0).bank }).cluster (clusterOf 5)).bank.length = 1024 ∧
    noErr (inbox (ask .tcancel 128)) (spad 5 128) ∧ (inbox (ask .tcancel 128)).poisoned (spad 5 128) = false ∧
    ((inbox (ask .tdec 128)).tdec (spad 5 128) false).1 = true := by unfold noErr; decide +kernel
/-- A decrement that no bank can take: NPRED 1, and the bank full. -/
theorem witness_TaskRequests_full :
    (({ inbox (ask .tdec 256) with mem := [(spad 5 312, 1)] }.updCluster (clusterOf 5) fun c => { c with bank := ((filled 1024).cluster 0).bank }).tdec (spad 5 256) false).1 = false := by
  decide +kernel

/-- A request at memory port 4, and one at the registers of I/O die 0. -/
def port4 (f : Flit) : State := { ports := [(4, [f])], mem := [(4096, 3)] }
def hbm (op : Op) : Flit := { op := op, ctx := 3, ga := 4098, tag := 7, src := .tile 9, size := 4, psn := [0], data := [1, 2, 3, 4] }
def mmio (op : Op) (a : Nat) : Flit := { op := op, ctx := 3, ga := a, tag := 7, src := .tile 9, size := 8, data := natLe 8 1 }
def io0 (f : Flit) : State := { io := [(0, { inq := [f] })] }
theorem witness_PortRequests : mget [] (port4 (hbm .load)).ports 4 = [hbm .load] ∧ (port4 (hbm .load)).channelWaits (channelOf 4098) = false ∧ (hbm .load).guarded = false ∧
    (port4 (hbm .load)).diePresent (dieOfStack (4098 / 2 ^ 36 % 16)) = true ∧ 4098 % 8 + 4 ≤ 8 ∧ (∀ k, k < 8 → noErr (port4 (hbm .load)) (4098 / 64 * 64 + 8 * k)) ∧
    (port4 (hbm .load)).poisoned 4098 = false ∧ mfind (port4 (hbm .load)).keys 0 = none ∧ mget 0 (port4 (hbm .load)).keyOf (4098 / 64) = 0 := by
  unfold noErr; decide +kernel
/-- Launch flag 48 is of context 3, launch flag 0 is not. -/
theorem witness_RegisterRequests : ((io0 (mmio .load 0x01000180)).ioDie 0).inq = [mmio .load 0x01000180] ∧ regAt (0x01000180 % 2 ^ 44) = some (.lflag 48) ∧
    (io0 (mmio .load 0x01000180)).regOpen (.lflag 48) false (.device 3) = true ∧ regAt (0x01000000 % 2 ^ 44) = some (.lflag 0) ∧
    (io0 (mmio .store 0x01000000)).regOpen (.lflag 0) true (.device 3) = false ∧ Reg.ofSequencer (.crect 0) = false ∧ Reg.ofSequencer (.lflag 48) = true ∧ launchFlag 0x01000180 = some 48 ∧ decided ((io0 (mmio .arm 0x01000180)).lflagAt 48) false 1 = false ∧
    ((io0 (mmio .arm 0x01000180)).ioDie 0).monitors.length < 64 := by
  decide +kernel


/-! ### Answers and timers -/

/-- An operation of thread 0 of tile 0 outstanding under tag 77, and the answer at the head of plane B. -/
def sent (k : PostKind) (op : Op) : Posted := { tag := 77, kind := k, flit := { op := op, ctx := 3, tag := 77 }, addr := gaSpad 9 64, pc := 0x8000000000000002, head := 5, opnd := 0 }
def reply (op : Op) : Flit := { op := op, ctx := 3, tag := 77, src := .tile 9, ans := .store }
def back (f : Flit) (p : Posted) (x : Thread) : State :=
  { tiles := [(0, { region := some 0, ctx := 3, cycle := 500, ejB := [f, reply .ack], posted := [p], threads := [(0, x)] })] }
def asleep (w : Wait) : Thread := { thr0 [] with run := .reissue, wait := w }
def ld64 : Instr := .ld true 3 6 1 8
def dataBack (m : Nat) : Flit := { reply .resp with data := natLe 8 (2 ^ 64 - 1), psn := [m] }
theorem witness_comesBack : comesBack (back (dataBack 0) (sent (.request 0) .load) (asleep (.resp ld64 [0]))) 0 (dataBack 0) [reply .ack] := by
  unfold comesBack; decide
theorem witness_outstanding : outstanding (back (dataBack 0) (sent (.request 0) .load) (asleep (.resp ld64 [0]))) 0 (dataBack 0) (sent (.request 0) .load) := by
  refine ⟨by decide, by decide, fun k i x hk => ?_⟩
  have hall : ∀ k, k < 8 → ((back (dataBack 0) (sent (.request 0) .load) (asleep (.resp ld64 [0]))).thr 0 k).wait = .resp ld64 [0] ∨
      ((back (dataBack 0) (sent (.request 0) .load) (asleep (.resp ld64 [0]))).thr 0 k).wait = .none := by decide
  rcases hall k hk with h | h <;> simp [h]
theorem witness_DataAnswers : (sent (.request 0) .load).flit.idx = 0 ∧ (asleep (.resp ld64 [0])).served = [] ∧ (dataBack 0).data = natLe 8 (2 ^ 64 - 1) ∧
    2 ^ 64 - 1 < 256 ^ (2 ^ (3 : Fin 4).val) ∧ (dataBack 0).tags = 0 ∧ (dataBack 256).psn = [255 + 1] ∧
    ((back (dataBack 0) (sent (.request 0) .load) (asleep (.resp ld64 [0]))).thr 0 0).wait = .resp (.ld true 3 6 1 8) [0] := by decide
/-- The two parts of an LDV's answer. -/
def lanes (i : Nat) : Flit := { reply .respv with flast := 1, fidx := i, data := List.replicate 32 (BitVec.ofNat 8 (i + 1)), psn := [0, 0, 0, 0] }
def lanesBack : State := (back (lanes 1) (sent (.request 0) .loadv) (asleep (.resp (.ldv 3 1 0 0) [0]))).updTile 0 fun t => { t with slots := [{ flits := [lanes 0] }] }
theorem witness_DataAnswers_vector : comesBack lanesBack 0 (lanes 1) [reply .ack] ∧ secondPart lanesBack 0 (lanes 0) (lanes 1) ∧
    (lanesBack.thr 0 0).wait = .resp (.ldv 3 1 0 0) [0] ∧ (lanes 1).data.length = 32 := by unfold comesBack secondPart banksGiven; decide +kernel
def refusal (r : Reason) : Flit := { reply .nak with reason := r, cls := 5, origin := 9 }
theorem witness_PostedAnswers : (reply .ack).ans = (sent (.posted 0) .store).flit.op ∧ Op.store ∈ [Op.store, .storev, .storecap, .put, .putv, .atomic, .feset, .scrub, .poison, .wake] ∧
    ((back (reply .ack) (sent (.posted 0) .store) (asleep .pdrain)).thr 0 0).wait = .pdrain ∧
    (∀ q ∈ ((back (reply .ack) (sent (.posted 0) .store) (asleep .pdrain)).tile 0).posted, q.tag = (reply .ack).tag) ∧
    Reason.fenced ∈ [Reason.fenced, .cap, .guard, .link] ∧ ((back (refusal .fenced) (sent (.posted 0) .store) (thr0 [])).tile 0).flog.length < 8 ∧
    Reason.window ∈ [Reason.slot, .window] ∧ (refusal .slot).count = 0 ∧ (sent (.posted 0) .store).flit.flast = 0 ∧
    65535 = mget 0 ({ sent (.posted 0) .store with tries := [(0, 65535)] } : Posted).tries 0 ∧ 65535 < 65536 ∧
    ((back (refusal .slot) (sent (.posted 0) .store) (thr0 [])).tile 0).retries.length < 256 ∧ (asleep (.resp ld64 [0])).badBase = none := by decide
def held : Retry := { flit := (sent (.posted 0) .store).flit, k := 2, due := 500 }
theorem witness_PostedAnswers_retry :
    (let s := (back (reply .ack) (sent (.posted 0) .store) (thr0 [])).updTile 0 fun t => { t with retries := [held] }
     (s.tile 0).retries[0]? = some held ∧ (s.tile 0).halt = .running ∧ held.due ≤ (s.tile 0).cycle ∧ planeB held.flit.op = false) := by decide
def signal1 : Flit := { op := .signal, ctx := 3, ga := gaSpad 0 64, tag := 5, src := .tile 9, opnd := 1 }
def mon2 : WaitMon := { idx := 2, flag := gaSpad 9 64, threshold := 4, eq := false, own := false, armed := true, tag := 77 }
def fired : Flit := { reply .fire with found := true }
theorem witness_WaitAnswers :
    (let s := back signal1 (sent (.posted 0) .store) (thr0 []); (s.tile 0).ejB = [signal1, reply .ack] ∧ (s.tile 0).fenced = false ∧
      s.diePresent (dieOf (clusterOf 0)) = true ∧ (s.tile 0).region.isSome = true ∧ (s.tile 0).halt ≠ .settled ∧ (s.tile 0).ctx = signal1.ctx) ∧
    (let s := back fired (sent (.arm 0) .arm) (asleep (.fwait 3 [mon2] 0 none)); (s.thr 0 0).wait = .fwait 3 [mon2] 0 none ∧
      ([mon2].find? fun x => x.tag == fired.tag && x.armed) = some mon2) ∧
    ((back (reply .notreg) (sent (.request 0) .ldc) (asleep (.resp (.ldc 3 1 0) [0]))).thr 0 0).wait = .resp (.ldc 3 1 0) [0] ∧
    (let s := back (reply .ack) (sent (.request 0) .ldc) (asleep (.rearm (.ldc 3 1 0) 500 (sent (.request 0) .ldc).flit));
      (s.thr 0 0).wait = .rearm (.ldc 3 1 0) 500 (sent (.request 0) .ldc).flit ∧ 500 ≤ (s.tile 0).cycle ∧ planeB Op.ldc = false) ∧
    (let s := back (reply .ack) (sent (.arm 0) .arm) (asleep (.fwait 3 [mon2] 100 (some 400)));
      (s.thr 0 0).wait = .fwait 3 [mon2] 100 (some 400) ∧ 100 + 400 ≤ (s.tile 0).cycle) := by decide


/-! ### Contexts, rings and launches -/

/-- Context 3 with one leaf that maps its first gigabyte to the second gigabyte of HBM, and words there. -/
def world (words : Memory) : State :=
  { ctxs := [(3, { valid := true, ptroot := 0x1000 })], keys := [(0, { load := 0, dataKey := 0, tweakKey := 0 })],
    mem := cells 0x1000 8 (2 ^ 63 + 0x2000) ++ cells 0x2000 8 (0xF8 * 2 ^ 56 + 2 ^ 30) ++ words }
/-- Flat address of a virtual one. -/
def at3 (va : Nat) : Nat := 2 ^ 30 + va

theorem witness_Contexts : (0x8000000000004000 : Word).getLsbD 63 = true ∧ (({} : State).ctxOf 3).valid = false ∧ noErrors {} ∧ mfind ({} : State).keys 0 = none ∧
    mget 0 ({} : State).keyOf (((0x8000000000004000 : Word).extractLsb' 6 38).toNat * 64 / 64) = 0 ∧ (0 : Word).getLsbD 63 = false ∧
    ((world []).ctxOf 3).valid = true ∧ (∀ l ∈ (world []).launches, l.ctx ≠ 3) ∧
    (∀ x ∈ (world []).subs, x.2.mapped = true → x.2.ctx ≠ 3) := by unfold noErrors; decide

/-- A ring descriptor at 0x4000: RBASE 0x8000, SBASE 0x9000, LOG2 6, HEAD 2, TAIL 5. -/
def ringMem : Memory := cells (at3 0x4000) 8 0x8000 ++ cells (at3 0x4008) 8 0x9000 ++ cells (at3 0x4010) 8 (6 + 3 * 2 ^ 8) ++ cells (at3 0x4018) 8 (2 + 5 * 2 ^ 32)
def ringWord : Word := 0x0000300000004001
theorem witness_Rings_map : ((world ringMem).sub 7).mapped = false ∧ ((world ringMem).ctxOf (ringWord.extractLsb' 44 6).toNat).valid = true ∧ ringWord.getLsbD 0 = true ∧
    (fresh (world ringMem)).vreads (ringWord.extractLsb' 44 6).toNat ((ringWord.extractLsb' 6 38).toNat * 64) 8 [] =
      (.ok [0x8000, 0x9000, 6 + 3 * 2 ^ 8, 2 + 5 * 2 ^ 32, 0, 0, 0, 0], world ringMem) ∧ (world ringMem).stalled = false :=
  ⟨by decide, by decide, by decide, by decide +kernel, rfl⟩
def mappedSlot : SubSlot := { ctx := 3, daddr := 0x4000, mapBit := true, mapped := true, rbase := 0x8000, sbase := 0x9000, log2 := 6, head := 2, tail := 5 }
def ringing (words : Memory) : State := { world (ringMem ++ words) with subs := [(7, mappedSlot)] }
theorem witness_Rings : ((ringing []).sub 7).mapped = true ∧ (({} : State).ctxOf 0).valid = false ∧ (0 : Word).getLsbD 0 = false ∧
    (((66 : Word).toNat % 2 ^ 32 + 2 ^ 32 - 2) % 2 ^ 32 ≤ 2 ^ 6) ∧ 2 ^ 6 < ((67 : Word).toNat % 2 ^ 32 + 2 ^ 32 - 2) % 2 ^ 32 := by decide

/-- A record at HEAD with an image at 0x10000 of one line, one cluster on die 0; a done flag of context 3. -/
def recordMem (bad : Nat) : Memory :=
  cells (at3 0x8080) 8 0x10000 ++ cells (at3 0x8098) 8 (2 ^ 9 + 2 ^ 18 + 49 * 2 ^ 19) ++ cells (at3 0x80A0) 8 bad
def header : List Nat := [0x31464F56 + 2 ^ 32, 2, 0, 64, 0, 0x80, 0, 0]
def imageMem : Memory := (header.zipIdx.flatMap fun x => cells (at3 0x10000 + 8 * x.2) 8 x.1) ++ cells (at3 0x10040) 8 1
def acceptable : State := ringing (recordMem 0 ++ imageMem)
theorem witness_Acceptance : ((acceptable).sub 7).mapped = true ∧ (acceptable.sub 7).head ≠ (acceptable.sub 7).tail ∧ acceptable.ckpt = none ∧
    (acceptable.launches.filter fun l => l.phase == .waiting || l.phase == .queued).length < 4096 ∧
    badField 3 [0x10000, 0, 0, 2 ^ 9 + 2 ^ 18 + 49 * 2 ^ 19, 0, 0, 0, 0] = none ∧
    badField 3 [0x10000, 0, 0, 2 ^ 9 + 2 ^ 18 + 49 * 2 ^ 19, 2 ^ 44, 0, 0, 0] = some 0x20 := by decide
theorem witness_Acceptance_record :
    let s0 := acceptable.setSub 7 { mappedSlot with head := 3 }
    s0.vreads 3 0x8080 8 [] = (.ok [0x10000, 0, 0, 2 ^ 9 + 2 ^ 18 + 49 * 2 ^ 19, 0, 0, 0, 0], s0) := by decide +kernel
theorem witness_Acceptance_image :
    let s0 := acceptable.setSub 7 { mappedSlot with head := 3 }
    let s2 : State := { s0 with launchIds := s0.launchIds + 1, orders := s0.orders + 1 }
    s2.vreads 3 0x10000 8 [] = (.ok header, s2) ∧ (Vof.ofWords header).isSome = true ∧
    (∀ vof, Vof.ofWords header = some vof → tileFits vof (bit (2 ^ 9 + 2 ^ 18 + 49 * 2 ^ 19) 17) 0 = true) ∧
    (∃ d, d < 4 ∧ bit (2 ^ 9 + 2 ^ 18 + 49 * 2 ^ 19) (9 + d) = true ∧ s2.diePresent d = true) ∧
    (placeAt ((2 ^ 9 + 2 ^ 18 + 49 * 2 ^ 19) % 16 + 1) ((2 ^ 9 + 2 ^ 18 + 49 * 2 ^ 19) / 16 % 32 + 1) (s2.onDies ((2 ^ 9 + 2 ^ 18 + 49 * 2 ^ 19) / 2 ^ 9 % 16))).isSome = true := by
  refine ⟨by decide +kernel, by decide, fun vof h => ?_, ⟨0, by decide⟩, by decide +kernel⟩
  have hv : Vof.ofWords header = some { entry := 2, codesz := 64, reloff := 0x80 } := by decide
  rw [hv] at h
  cases h
  decide

/-- A launch of context 3 with start conditions 0 and 1 on launch flags 48 and 49, the second already observed. -/
def launch0 : Launch :=
  { id := 9, ctx := 3, status := none, record := [0, 0, 0, 2 ^ 9 + 2 ^ 18 + 49 * 2 ^ 19, 0, 0, BitVec.ofNat 64 (48 + 2 ^ 10 + 5 * 2 ^ 11 + (49 + 2 ^ 10 + 9 * 2 ^ 11) * 2 ^ 32), 0],
    metConds := [1] }
def launching (l : Launch) : State := { world [] with launches := [l], lflags := [(48, 5)] }
theorem witness_launchIs : launchIs (launching launch0) 9 launch0 := ⟨by decide, rfl⟩
theorem witness_Conditions : launch0.phase = .waiting ∧ ∀ j, j < 4 → bit (condition launch0 j) 10 = true → j ∉ launch0.metConds →
    (let w := Sys2Proof.Claims.flagWord (launching launch0) (condition launch0 j % 2 ^ 10)
     w / 2 ^ 40 % 256 = 0 ∧ condition launch0 j / 2 ^ 11 ≤ w % 2 ^ 40) := by unfold condition Sys2Proof.Claims.flagWord; decide
/-- A launch of 2 clusters by 1 at the head of the queue; a region of launch 1 holds cluster 0. -/
def wide : Launch := { launch0 with record := [0, 0, 0, 1 + 2 ^ 9], phase := .queued }
def placing : State := { world [] with launches := [{ id := 1, ctx := 3, status := none, record := [], phase := .running }, wide] }
theorem witness_Placement : launchIs placing wide.id wide ∧ placing.queueHead = some wide ∧ placing.ckpt = none ∧ placing.evo.veryHot = false ∧
    placing.evo.remapPending = none ∧ placing.evo.offlinePending = none := ⟨⟨by decide, rfl⟩, by decide, rfl, rfl, rfl, rfl⟩
/-- The first place that fits it: clusters 1 and 2. -/
theorem witness_Placement_fits :
    let fits := fun (x y : Nat) => x + wide.w ≤ 16 ∧ y + wide.h ≤ 32 ∧ ∀ i j, i < wide.w → j < wide.h →
      let c := (y + j) * 16 + x + i
      placing.holder c = none ∧ (placing.tile (clusterTile c 0)).fenced = false ∧ placing.diePresent (dieOf c) = true ∧ bit wide.dieMask (dieOf c) = true
    fits 1 0 ∧ ∀ x y, y < 0 ∨ (y = 0 ∧ x < 1) → ¬fits x y := by
  have hw : wide.w = 2 := by decide
  have hh : wide.h = 1 := by decide
  refine ⟨⟨by decide, by decide, ?_⟩, ?_⟩
  · intro i j hi hj
    rw [hw] at hi
    rw [hh] at hj
    have : j = 0 := by omega
    subst this
    rcases i with _ | _ | i
    · decide
    · decide
    · omega
  · rintro x y (h | ⟨rfl, h⟩) ⟨-, -, hf⟩
    · omega
    · have : x = 0 := by omega
      subst this
      have := (hf 0 0 (by decide) (by decide)).1
      revert this
      decide

/-- A placed launch of the image above, on cluster 1. -/
def placedLaunch : Launch := { launch0 with phase := .placed, cx := 1, record := [0x10000, 0, 0, 2 ^ 9], vof := { entry := 2, codesz := 64, reloff := 0x80 } }
def loading : State := { world imageMem with launches := [placedLaunch] }
theorem witness_LoadingAndStarting : launchIs loading 9 placedLaunch ∧ placedLaunch.vof.nreloc = 0 ∧ placedLaunch.vof.region = 0 ∧ (loading.ctxOf 3).signed = false ∧
    (loading.ctxOf 3).firmware = false ∧ placedLaunch.vof.codesz < 2 ^ 20 ∧ placedLaunch.vof.entry < 2 ^ 19 ∧ placedLaunch.cx + placedLaunch.w ≤ 16 ∧
    placedLaunch.cy + placedLaunch.h ≤ 32 := ⟨⟨by decide, rfl⟩, by decide⟩
theorem witness_LoadingAndStarting_image : loading.readImage placedLaunch 64 64 = (.ok (1 :: List.replicate 63 0), loading) ∧
    loading.readImage placedLaunch 0x80 0 = (.ok [], loading) := ⟨by decide +kernel, by decide +kernel⟩

/-- A region of launch 9 on cluster 1, all of its threads done. -/
def runningLaunch (p : LaunchPhase) : Launch := { launch0 with phase := p, cx := 1 }
def ended (p : LaunchPhase) : State :=
  { world [] with launches := [runningLaunch p],
                  tiles := (runningLaunch p).tiles.map fun t => (t, { region := some 9, ctx := 3, threads := [(0, { run := .halted }), (1, { run := .wfw })] }) }
theorem witness_CompletionAndKill : launchIs (ended .running) 9 (runningLaunch .running) ∧ (runningLaunch .running).fenceHit = false ∧
    (ended .running).recordsWait (runningLaunch .running) = false ∧
    (∀ t ∈ (runningLaunch .running).tiles, ((ended .running).tile t).finished = true) ∧ (∀ c ∈ (runningLaunch .running).clusters, ((ended .running).cluster c).finished = true) ∧
    ((ended .running).launches.find? fun m => m.id % 2 ^ 24 == (9 : Word).toNat % 2 ^ 24) = some (runningLaunch .running) ∧ (runningLaunch .running).ctx = 3 :=
  ⟨⟨by decide +kernel, rfl⟩, rfl, rfl, by decide +kernel, by decide +kernel, by decide +kernel, rfl⟩

theorem witness_Preemption : launchIs (ended .halting) 9 (runningLaunch .halting) ∧ (∀ t ∈ (runningLaunch .halting).tiles, ((ended .halting).tile t).halt = .running) ∧
    (let s := (ended .halting).updTile 4 fun t => { t with halt := .halting }
     (s.tile 4).halt = .halting ∧ (s.tile 4).ejA = [] ∧ ∀ y ∈ (s.tile 4).threads, y.2.run = .rotation → y.2.skip = 0 ∧ y.2.served = []) :=
  ⟨⟨by decide +kernel, rfl⟩, by decide +kernel, by decide +kernel⟩
/-- A launch saved from cluster 1, its image without tiles. -/
def savedLaunch : Launch := { launch0 with phase := .saved, cx := 1, area := 0x100000 }
def image0 : RegionImage := { id := 9, cx := 1, cy := 0, tiles := [], clusters := [] }
def saved : State := { world [] with launches := [savedLaunch], images := [image0] }
theorem witness_Preemption_restore : launchIs saved 9 savedLaunch ∧ saved.queueHead = some savedLaunch ∧ saved.ckpt = none ∧ saved.evo.veryHot = false ∧
    saved.findPlace [] savedLaunch = some (0, 0) ∧ (saved.images.find? fun x => x.id == savedLaunch.id) = some image0 ∧
    saved.restoreRegion { savedLaunch with cx := 0, cy := 0 } image0 (.hbm 3 0x100000) = some saved :=
  ⟨⟨by decide, rfl⟩, by decide, rfl, rfl, by decide +kernel, by decide, by decide +kernel⟩
theorem witness_Preemption_move :
    (let m : Move := { pkg := 0, x0 := 4, y0 := 0, w := 4, h := 2, dx := -4, dy := 6 }; let r := full 69 0x100
     r.tag = .cap ∧ isTile r = true ∧ r.low.getLsbD 63 = true ∧ (r.low.extractLsb' 32 6).toNat = 5 ∧ (r.low.extractLsb' 38 6).toNat = 1 ∧
     m.x0 ≤ 5 ∧ 5 < m.x0 + m.w ∧ m.y0 ≤ 1 ∧ 1 < m.y0 + m.h ∧ (5 : Int) + m.dx = (1 : Nat) ∧ (1 : Int) + m.dy = (7 : Nat)) := by decide


/-! ### A save that succeeds -/

/-- The page table of `world` and everything a walk looks at, and the launches. -/
structure Mapped (ls : List Launch) (s : State) : Prop where
  ctxs : s.ctxs = (world []).ctxs
  keys : s.keys = (world []).keys
  dies : s.dies = ({} : State).dies
  errs : s.errUnc = [] ∧ s.errOne = [] ∧ s.errTag = []
  idle : s.training = [] ∧ s.evo.repairing = []
  psn : s.psn = []
  keyOf : s.keyOf = []
  launches : s.launches = ls
  bytes : ∀ a, a < 0x3000 → s.byte a = (world []).byte a

theorem mapped_detect {ls : List Launch} {s : State} (h : Mapped ls s) (a : Nat) : s.detect a = s := by
  simp [State.detect, h.errs]

theorem mapped_meet {ls : List Launch} {s : State} (h : Mapped ls s) (a : Nat) : s.meet a = s := by
  have : s.channelWaits (wearUnitOf a).2 = false := by simp [State.channelWaits, State.repairing, h.idle, mget]
  simp [State.meet, this]

theorem mapped_keyed {ls : List Launch} {s : State} (h : Mapped ls s) {a : Nat} (n : Nat) (ha : a + n ≤ 0x3000) :
    s.keyedBytes 0 a n = (world []).bytes a n := by
  induction n generalizing a with
  | zero => rfl
  | succ n ih =>
    have h2 := h.bytes a (by omega)
    have h3 : s.keyedByte 0 a = s.byte a := by
      unfold State.keyedByte
      simp [h.keyOf, mget]
    simp only [State.keyedBytes, State.bytes, h3, h2]
    rw [ih (by omega)]

theorem mapped_entry {ls : List Launch} {s : State} (h : Mapped ls s) {a : Nat} (ha : a + 8 ≤ 0x3000) :
    s.entryRead a = ((leNat ((world []).bytes a 8), none), s) := by
  have hd : s.detect a = s := mapped_detect h a
  have hl : s.slotLoad 0 = 0 := by simp [State.slotLoad, h.keys, world, mfind]
  have hp : s.poisoned a = false := by simp [State.poisoned, h.psn]
  simp [State.entryRead, mapped_meet h, hd, hl, hp, mapped_keyed h 8 ha]

theorem mapped_walk {ls : List Launch} {s : State} (h : Mapped ls s) {va : Nat} (hv : va < 2 ^ 30) :
    s.walk 3 va { write := true, read := false, user := false } = ((.ok (at3 va) 0 false, some (2, 0xF8 * 2 ^ 56 + 2 ^ 30)), s) := by
  have hc : s.ctxOf 3 = { valid := true, ptroot := 0x1000 } := by
    have : s.ctxOf 3 = (world []).ctxOf 3 := by simp [State.ctxOf, h.ctxs]
    rw [this]; decide
  have i3 : levelIndex 3 va = 0 := by simp [levelIndex, bits]; omega
  have i2 : levelIndex 2 va = 0 := by simp [levelIndex, bits]; omega
  have w3 : leNat ((world []).bytes 0x1000 8) = 2 ^ 63 + 0x2000 := by decide +kernel
  have w2 : leNat ((world []).bytes 0x2000 8) = 0xF8 * 2 ^ 56 + 2 ^ 30 := by decide +kernel
  have hdie : s.die (dieOfStack 0) = .present := by simp only [State.die, h.dies]; decide
  have hk : mfind s.keys 0 = some { load := 0, dataKey := 0, tweakKey := 0 } := by rw [h.keys]; rfl
  have e3 := mapped_entry h (a := 0x1000) (by omega)
  have e2 := mapped_entry h (a := 0x2000) (by omega)
  rw [w3] at e3
  rw [w2] at e2
  have hleaf : s.leafCheck 3 va { write := true, read := false, user := false } 2 0x2000 (0xF8 * 2 ^ 56 + 2 ^ 30) = .ok (at3 va) 0 false := by
    simp only [State.leafCheck, hc]
    have : bits (0xF8 * 2 ^ 56 + 2 ^ 30) 39 36 = 0 := by decide
    rw [this, hdie]
    have : bits (0xF8 * 2 ^ 56 + 2 ^ 30) 56 44 = 0 := by decide
    rw [this]
    have hm : va % 1073741824 = va := Nat.mod_eq_of_lt hv
    have h60 : bit (0xF8 * 2 ^ 56 + 2 ^ 30) 60 = true := by decide
    have h57 : bit (0xF8 * 2 ^ 56 + 2 ^ 30) 57 = false := by decide
    have h58 : bit (0xF8 * 2 ^ 56 + 2 ^ 30) 58 = false := by decide
    have h30 : bits (0xF8 * 2 ^ 56 + 2 ^ 30) 39 16 * 2 ^ 16 / 2 ^ pageBits 2 * 2 ^ pageBits 2 + va % 2 ^ pageBits 2 = at3 va := by
      rw [show bits (0xF8 * 2 ^ 56 + 2 ^ 30) 39 16 * 2 ^ 16 / 2 ^ pageBits 2 * 2 ^ pageBits 2 = 2 ^ 30 by decide, show 2 ^ pageBits 2 = 1073741824 by decide, hm]
      rfl
    simp only [h60, h57, h58, h30, if_true, hk]
    rfl
  have m3 : bit (2 ^ 63 + 0x2000) 63 = true ∧ bit (2 ^ 63 + 0x2000) 62 = false ∧ entryMalformed 3 (2 ^ 63 + 0x2000) = false ∧
    bits (2 ^ 63 + 0x2000) 39 8 * 256 = 0x2000 := by decide
  have m2 : bit (0xF8 * 2 ^ 56 + 2 ^ 30) 63 = true ∧ bit (0xF8 * 2 ^ 56 + 2 ^ 30) 62 = true ∧ entryMalformed 2 (0xF8 * 2 ^ 56 + 2 ^ 30) = false := by decide
  have d3 : dieOfStack (0x1000 / 2 ^ 36) = dieOfStack 0 := rfl
  have d2 : dieOfStack (0x2000 / 2 ^ 36) = dieOfStack 0 := rfl
  simp only [State.walk, hc]
  simp only [State.walkFrom, i3, i2, Nat.mul_zero, Nat.add_zero, e3, e2, hdie, d3, d2, m3, m2, hleaf]
  rfl

theorem mapped_put {ls : List Launch} {s : State} (h : Mapped ls s) {a : Nat} (w : Nat) (ha : 0x3000 ≤ a) (hs : a < 2 ^ 40) : Mapped ls (s.putWord 0 a w) := by
  have hp : isSpad a = false := decide_eq_false (by unfold spadBase; omega)
  have hd : s.detect a = s := mapped_detect h a
  have hr : s.rekey 0 a = s := by simp [State.rekey, hp, h.keyOf, mget]
  have hq : (s.setTagAt a false).poisoned a = false := by simp [State.poisoned, State.setTagAt, h.psn]
  have e : s.putWord 0 a w = (s.setTagAt a false).setVal (a / 8 * 8) 8 w := by
    simp [State.putWord, mapped_meet h, hp, hd, hr, hq]
  have keep : ∀ (bs : List Byte) (u : State) (b : Nat), ∃ m, u.setBytes b bs = { u with mem := m } := by
    intro bs
    induction bs with
    | nil => exact fun u b => ⟨u.mem, rfl⟩
    | cons x bs ih => exact fun u b => ih (u.setByte b x) (b + 1)
  obtain ⟨m, hm⟩ := keep (natLe 8 w) (s.setTagAt a false) (a / 8 * 8)
  rw [e]
  refine ⟨?_, ?_, ?_, ?_, ?_, ?_, ?_, ?_, fun c hc => ?_⟩
  case refine_9 =>
    rw [State.setVal, setBytes_byte_other _ _ (.inl (by omega))]
    exact h.bytes c hc
  all_goals rw [State.setVal, hm]
  exacts [h.ctxs, h.keys, h.dies, ⟨h.errs.1, h.errs.2.1, by simp [State.setTagAt, h.errs.2.2, ndel]⟩, h.idle, h.psn, h.keyOf, h.launches]

theorem mapped_writes {ls : List Launch} (ws : List Nat) {s : State} (h : Mapped ls s) {va : Nat} (hv : va + 8 * ws.length ≤ 2 ^ 30) :
    ∃ u, s.vwrites 3 va ws = (true, u) ∧ Mapped ls u := by
  induction ws generalizing s va with
  | nil => exact ⟨s, rfl, h⟩
  | cons w ws ih =>
    simp only [List.length_cons] at hv
    have hl : s.slotLoad 0 = 0 := by simp [State.slotLoad, h.keys, world, mfind]
    obtain ⟨u, hu, hm⟩ := ih (mapped_put h w (a := at3 va) (by simp [at3]; omega) (by simp [at3]; omega)) (va := va + 8) (by omega)
    refine ⟨u, ?_, hm⟩
    simp only [State.vwrites, mapped_walk h (va := va) (by omega), hl]
    exact hu

theorem mapped_words {ls : List Launch} (n : Nat) {s : State} (h : Mapped ls s) {va : Nat} (f : Nat → Nat) (hv : va + 8 * n ≤ 2 ^ 30) :
    ∃ u, s.saveWords 3 va f n = (true, u) ∧ Mapped ls u := by
  induction n with
  | zero => exact ⟨s, rfl, h⟩
  | succ n ih =>
    obtain ⟨u, hu, hm⟩ := ih (by omega)
    obtain ⟨v, hv', hm'⟩ := mapped_writes [f n] hm (va := va + 8 * n) (by simp; omega)
    refine ⟨v, ?_, hm'⟩
    simp only [State.saveWords, hu]
    exact hv'

theorem mapped_look {ls : List Launch} {s : State} (h : Mapped ls s) (n a : Nat) : s.lookWords a n = s := by
  induction n generalizing a with
  | zero => rfl
  | succ n ih =>
    have hl : s.look a = s := by simp [State.look, mapped_detect h]
    simp only [State.lookWords, hl, ih]

def settledLaunch : Launch := { launch0 with phase := .settled, cx := 1, area := 0x100000 }
def savingLaunch : Launch := { settledLaunch with saves := 1 }
def settled : State := { world [] with launches := [settledLaunch] }
theorem mapped_settled : Mapped [settledLaunch] settled :=
  ⟨rfl, rfl, rfl, ⟨rfl, rfl, rfl⟩, ⟨rfl, rfl⟩, rfl, rfl, rfl, fun _ _ => rfl⟩
/-- Nothing of the region holds a stored error, so that the read before the save changes nothing. -/
theorem settled_look : settledLaunch.clusters.foldl (fun s c => s.lookCluster c) (fresh settled) = settled := by
  have hc : settledLaunch.clusters = [1] := by decide
  have hw : ∀ ts : List Nat, ts.foldl (fun s t => s.lookWords (spad t 0) 0x1_0000) settled = settled := by
    intro ts
    induction ts with
    | nil => rfl
    | cons t ts ih => simp only [List.foldl_cons, mapped_look mapped_settled, ih]
  have hs : ∀ l, settled.lookStore 1 l = settled := by
    intro l
    have h1 : (settled.cluster 1).storeUnc = [] := by decide
    have h2 : (settled.cluster 1).storeOne = [] := by decide
    simp [State.lookStore, h1, h2]
  have hb : ∀ l : List Nat, l.foldl (fun s i => s.lookBankRow 1 i) settled = settled := by
    intro l
    induction l with
    | nil => rfl
    | cons i l ih =>
      have h1 : (settled.cluster 1).bank = [] := by decide
      have : settled.lookBankRow 1 i = settled := by simp [State.lookBankRow, h1]
      simp only [List.foldl_cons, this, ih]
  have hf : fresh settled = settled := rfl
  simp only [hc, hf, List.foldl_cons, List.foldl_nil, State.lookCluster, hw, hs, hb]

/-- The words of the region's image are all written. -/
theorem witness_Preemption_save : launchIs settled 9 settledLaunch ∧ settledLaunch.phase = .settled ∧ settled.ckpt = none ∧ noWait settled ∧
    ∃ s0 s1 s2 s3 : State, settledLaunch.clusters.foldl (fun s c => s.lookCluster c) (fresh settled) = s0 ∧
      { s0 with free := s0.free + 1 }.vwrites settledLaunch.ctx settledLaunch.area (savingLaunch.header ++ List.replicate 501 0) = (true, s1) ∧
      s1.saveClusters s0.free savingLaunch savingLaunch.clusters.zipIdx = (true, s2) ∧
      s2.vwrites settledLaunch.ctx (settledLaunch.area + 0x58) [1] = (true, s3) ∧ launchIs s3 9 settledLaunch := by
  have h0 : Mapped [settledLaunch] { settled with free := settled.free + 1 } :=
    ⟨rfl, rfl, rfl, ⟨rfl, rfl, rfl⟩, ⟨rfl, rfl⟩, rfl, rfl, rfl, fun _ _ => rfl⟩
  obtain ⟨s1, e1, h1⟩ := mapped_writes (savingLaunch.header ++ List.replicate 501 0) h0 (va := 0x100000) (by decide +kernel)
  obtain ⟨s2, e2, h2⟩ := mapped_words 0xE0000 h1 (va := 0x101000) (fun i => s1.clusterWord settled.free 1 i) (by decide)
  obtain ⟨s3, e3, h3⟩ := mapped_writes [1] h2 (va := 0x100058) (by decide)
  refine ⟨⟨by decide, rfl⟩, rfl, rfl, fun c => ?_, settled, s1, s2, s3, settled_look, e1, ?_, e3, ?_, rfl⟩
  · simp [State.channelWaits, State.repairing, mapped_settled.idle, mget]
  · have hc : savingLaunch.clusters.zipIdx = [(1, 0)] := by decide
    rw [hc]
    have e2' : s1.saveWords 3 (0x100000 + 0x1000 + 0 * 0x700000) (fun i => s1.clusterWord settled.free 1 i) 0xE0000 = (true, s2) := e2
    simp only [State.saveClusters, savingLaunch, settledLaunch, launch0, e2']
    rfl
  · rw [h3.launches]
    rfl

/-! ### Tile agents and routers -/

/-- Tile 5 with a thread whose line is not in its fetch buffer; the line holds NOPs. -/
def fetching (x : Tile) : State :=
  { tiles := [(5, { x with region := some 0, threads := [(0, { run := .rotation, pc := BitVec.ofNat 64 (gaSpad 5 66) })] })],
    routers := [(5, { throttle := 1 })], mem := cells (spad 5 64) 2 2 }
theorem witness_TileAgents :
    (let s := fetching {}; let th := s.thr 5 0
     th.wanted = [] ∧ th.run = .rotation ∧ th.line th.pc = none ∧ noErrors s ∧ (s.tile 5).replay = false ∧ (s.tile 5).halt = .running ∧
     Config.bankOf (pcLine th.pc) ∉ (s.tile 5).taken ∧ (s.router 5).throttle = 1) ∧
    (let s := fetching { taken := [Config.bankOf 64], cycle := 2048, scoreEnd := 1024, injstall := 9, throttleCnt := 5, scoreBase := 3 }; let x := s.tile 5
     Config.bankOf (pcLine (s.thr 5 0).pc) ∈ x.taken ∧ x.cycle % 1024 = 0 ∧ x.cycle ≠ x.scoreEnd ∧
     x.scoreBase ≤ x.injstall.toNat + x.throttleCnt.toNat ∧ x.injstall.toNat + x.throttleCnt.toNat < 2 ^ 64) := by
  unfold noErrors; decide

/-- A flit for tile (dx, dy) that tile 5 injects, or that has come in at it from the west. -/
def bound (dx dy : Nat) : Flit := { op := .load, dx := dx, dy := dy, tag := 4, age := 3 }
def sending (f : Flit) (thr : Nat) : State := { tiles := [(5, { injA := [f, bound 0 0] })], routers := [(5, { throttle := thr })] }
def incoming (f : Flit) : State := { routers := [(5, { inA := [(3, 0, f)] })] }
theorem witness_RouterCycles :
    (let s := sending (bound 5 0) 0
     quiet s 5 ∧ (s.router 5).throttle = 0 ∧ (s.tile 5).injA = bound 5 0 :: [bound 0 0] ∧ (bound 5 0).exit = 0 ∧ (bound 5 0).dx = tileX 5 ∧ (bound 5 0).dy = tileY 5 ∧
     (bound 5 0).op ≠ .reserved ∧ (s.tile 5).ejA.length < 16) ∧
    (let s := sending (bound 9 3) 0
     quiet s 5 ∧ ((bound 9 3).dx ≠ tileX 5 ∨ (bound 9 3).dy ≠ tileY 5) ∧ neighbour 5 (firstPort 5 (bound 9 3)) = some 6 ∧
     firstPort 5 (bound 9 3) ∉ (s.router 5).lost ∧ (s.router 5).crcNext = []) ∧
    (let s := incoming (bound 5 0); let r := s.router 5
     r.inA = [(3, 0, bound 5 0)] ∧ r.inB = [] ∧ r.brimA = [] ∧ r.brimB = [] ∧ r.resend = [] ∧ (s.tile 5).injA = [] ∧ (s.tile 5).injB = [] ∧
     (bound 5 0).crcBad = false ∧ (s.tile 5).ejA.length < 16) ∧
    quiet (sending (bound 9 3) 7) 5 ∧ 1 < ((sending (bound 9 3) 7).router 5).throttle := by
  unfold quiet; decide

/-! ### Dispenser, cuff and memory port -/

/-- A record, and it in a bank: its ring, level, order and block. -/
def rec0 : TaskRec := { prio := 2, entry := 128, taskid := 77, slots := [(0, 9), (2, 10), (1, 11), (1, 12), (0, 13), (0, 14)], builder := 3 }
def inBank (ring level order : Nat) (block : Option Nat := none) : BankRec := { r := rec0, ring := ring, level := level, stamp := 100, block := block, order := order, pushed := order }
/-- Cluster 0 with a bank, its tile 2 with thread 1 waiting. -/
def waitingBank (bank : List BankRec) : State :=
  { tiles := [(2, { region := some 0, imageSize := 4096, threads := [(0, { run := .rotation }), (1, { run := .wfw, wait := .none, pc := 0x8000000200000042 })] })],
    clusters := [(0, { bank := bank, counter := 70000, bankOrder := 50 })], mem := [(spad 2 4096, 2)] }
def poisonedCtrl : BankRec := { inBank 8 2 3 with r := { rec0 with ctrlMark := 6 } }
theorem onlyWaiter_waitingBank (bank : List BankRec) : onlyWaiter (waitingBank bank) 0 2 1 := by
  refine ⟨rfl, ?_⟩
  intro j g hj hg
  have : ∀ j, j < 8 → ∀ g, g < 8 → (((waitingBank []).thr (clusterTile 0 j) g).run = .wfw ↔ j = 2 ∧ g = 1) := by decide
  exact this j hj g hg
/-- The tile's ring before the cluster's, the higher level first, and the older of two. -/
theorem witness_Dispensing : 0 < 512 ∧ 1 ∉ ((waitingBank [inBank 8 2 3]).cluster 0).mending := by decide
theorem witness_Dispensing_clean :
    firstFor ((waitingBank [inBank 8 2 3, inBank 2 2 9, inBank 2 2 12, inBank 2 1 1]).cluster 0).bank 2 (inBank 2 2 9) ∧ (inBank 2 2 9).block = none ∧ (inBank 2 2 9).r.ctrlMark = 0 := by
  unfold firstFor; decide +kernel
theorem witness_Dispensing_poison : firstFor ((waitingBank [poisonedCtrl]).cluster 0).bank 2 poisonedCtrl ∧ poisonedCtrl.block = none ∧ poisonedCtrl.r.ctrlMark ≠ 0 := by
  unfold firstFor; decide +kernel
def blocked : BankRec := inBank 8 2 3 (some (gaSpad 2 4096))
theorem witness_Dispensing_block : firstFor ((waitingBank [blocked]).cluster 0).bank 2 blocked ∧ blocked.block = some (gaSpad 2 4096) ∧ gaSpad 2 4096 % 8 = 0 ∧ noErrors (waitingBank [blocked]) ∧
    (waitingBank [blocked]).poisoned (spad (gaSpad 2 4096 / 2 ^ 32 % 2 ^ 12) (gaSpad 2 4096 % 2 ^ 19)) = false := by
  unfold firstFor noErrors; decide +kernel
theorem witness_Dispensing_promotion :
    let b := inBank 8 1 3; let s := waitingBank [inBank 8 3 1, b, inBank 8 0 2]
    (s.cluster 0).bank = [inBank 8 3 1] ++ b :: [inBank 8 0 2] ∧ (∀ y ∈ [inBank 8 3 1], y.level = 3 ∨ (s.cluster 0).counter < y.stamp + 65536) ∧
    b.level < 3 ∧ b.stamp + 65536 ≤ (s.cluster 0).counter := by decide +kernel

/-- Cluster 0 of context 3 with a bank and a cuff at a virtual address. -/
def spilling (bank : List BankRec) (k : Cuff) (words : Memory := []) : State :=
  { world words with tiles := (List.range 8).map fun j => (clusterTile 0 j, { region := some 9, ctx := 3 }),
                     clusters := [(0, { bank := bank, cuff := some k, counter := 70000, bankOrder := 50 })] }
def newest : BankRec := inBank 2 1 7 (some (gaSpad 2 4096))
def crowded : List BankRec := newest :: List.replicate 896 (inBank 8 0 3)
def cuff0 (base : Nat) (entries : List BankRec) : Cuff := { base := base, log2 := 7, entries := entries, head := 5 }
def writing (s : State) (c : Nat) : State := s.setCluster c { s.cluster c with bank := (s.cluster c).bank.filter fun y => y.pushed != newest.pushed }
theorem witness_SpillEngine_mapped :
    let k := cuff0 0x8000 [inBank 8 0 1]; let s := spilling crowded k
    (s.tile (clusterTile 0 0)).halt = .running ∧ (s.cluster 0).mending = [] ∧ (s.cluster 0).cuff = some k ∧ k.stopped = false ∧ 896 < (s.cluster 0).bank.length ∧
    k.entries.length < 2 ^ k.log2 ∧ newest ∈ (s.cluster 0).bank ∧ (∀ y ∈ (s.cluster 0).bank, y ≠ newest → y.pushed < newest.pushed) ∧ newest.r.ctrlMark = 0 := by
  refine ⟨by decide, rfl, rfl, rfl, by decide +kernel, by decide, .head _, ?_, rfl⟩
  intro y hy hn
  rcases List.mem_cons.mp hy with h | h
  · exact absurd h hn
  · rw [(List.mem_replicate.mp h).2]; decide
set_option maxRecDepth 20000 in
theorem witness_SpillEngine_writes :
    let k := cuff0 0x8000 [inBank 8 0 1]; let s := spilling crowded k
    s.walk 3 (k.place 1) { write := true, read := false, user := false } = ((.ok (at3 (0x8000 + 128 * 6)) 0 false, some (2, 0xF8 * 2 ^ 56 + 2 ^ 30)), s) ∧
    ∃ s1, (writing s 0).vwrites 3 (k.place 1) (recWords newest.r ++ stampWords newest) = (true, s1) := by
  have h (r : Bool × State) (e : r.1 = true) : ∃ s1, r = (true, s1) := ⟨r.2, by rw [← e]⟩
  exact ⟨by rfl, h _ (by decide +kernel)⟩
set_option maxRecDepth 20000 in
/-- The second gigabyte of the context has no leaf. -/
theorem witness_SpillEngine_unmapped :
    let k := cuff0 (2 ^ 30) [inBank 8 0 1]; let s := spilling crowded k
    s.walk 3 (k.place 1) { write := true, read := false, user := false } = ((.fault 2 1 0x2008, none), s) := by rfl
def cuffWords : Memory := (recWords rec0).zipIdx.flatMap fun x => cells (at3 (0x8000 + 128 * 5) + 8 * x.2) 8 x.1
set_option maxRecDepth 20000 in
theorem witness_SpillEngine_refill :
    let b := inBank 8 1 7; let k := cuff0 0x8000 [b, inBank 8 0 1]; let s := spilling [inBank 8 0 3] k cuffWords
    (s.cluster 0).bank.length < 512 ∧ k.entries = b :: [inBank 8 0 1] ∧ b.void = false ∧ { b with void := true }.void = true ∧
    s.walk 3 (k.place 0) { write := false, read := true, user := false } = ((.ok (at3 (0x8000 + 128 * 5)) 0 false, some (2, 0xF8 * 2 ^ 56 + 2 ^ 30)), s) ∧
    s.entryWords (s.slotLoad 0) (at3 (0x8000 + 128 * 5)) 8 = ((recWords rec0).map fun w => (w, 0), s) ∧ b.r.ctrlMark = 0 :=
  ⟨by decide, rfl, rfl, rfl, by rfl, by decide +kernel, rfl⟩

/-- Thread 1 of tile 2 waits for the walk of a virtual address, through port 0. -/
def walking (ctx va : Nat) : State :=
  { world [] with tiles := [(2, { region := some 9, ctx := 3, threads := [(1, { run := .halted, wait := .walk, pc := 0x8000000200000042 })] })],
                  clusters := [(0, { walks := [{ agent := .thread 2 1, ctx := ctx, va := va, write := true, read := false, user := true }] })] }
def unheld (s : State) : State := { s.setCluster 0 { s.cluster 0 with walks := [] } with held := [] }
set_option maxRecDepth 20000 in
theorem witness_PageWalks :
    ((walking 3 0x5008).cluster 0).walks = { agent := .thread 2 1, ctx := 3, va := 0x5008, write := true, read := false, user := true } :: [] ∧ ((walking 3 0x5008).thr 2 1).wait = .walk ∧
    (unheld (walking 3 0x5008)).walk 3 0x5008 { write := true, read := false, user := true } =
      ((.ok (at3 0x5008) 0 false, some (2, 0xF8 * 2 ^ 56 + 2 ^ 30)), unheld (walking 3 0x5008)) ∧
    (unheld (walking 3 (2 ^ 30))).walk 3 (2 ^ 30) { write := true, read := false, user := true } = ((.fault 2 1 0x2008, none), unheld (walking 3 (2 ^ 30))) ∧
    (unheld (walking 4 0x5008)).walk 4 0x5008 { write := true, read := false, user := true } = ((.refused, none), unheld (walking 4 0x5008)) :=
  ⟨rfl, by decide, by rfl, by rfl, by rfl⟩

/-- A held record for the supervisor queue of context 3, at virtual address 0x6000: 64 places, the indices as given. -/
def queued (wr rd : Nat) : State :=
  { world (cells (at3 0x6000) 8 0x7000 ++ cells (at3 0x6008) 8 6 ++ cells (at3 0x6010) 8 wr ++ cells (at3 0x6018) 8 rd) with
    ctxs := [(3, { valid := true, ptroot := 0x1000, supq := 0x6000 })], held := [{ ctx := 3, tile := 2, words := [1, 2, 3, 4, 5, 6, 7, 8] }] }
def emptied (s : State) : State := { s with held := [] }
set_option maxRecDepth 20000 in
theorem witness_SupervisorQueue : ((queued 9 7).ctxOf 3).valid = true ∧ ((queued 9 7).ctxOf 3).firmware = false ∧
    (emptied (queued 9 7)).vreads 3 ((queued 9 7).ctxOf 3).supq 5 [] = (.ok [0x7000, 6, 9, 7, 0], emptied (queued 9 7)) ∧
    (emptied (queued 71 7)).vreads 3 ((queued 71 7).ctxOf 3).supq 5 [] = (.ok [0x7000, 6, 71, 7, 0], emptied (queued 71 7)) ∧ 6 ≤ 6 % 32 ∧ 6 % 32 ≤ 20 ∧
    2 ^ (6 % 32) ≤ (71 + 2 ^ 64 - 7) % 2 ^ 64 ∧ (9 + 2 ^ 64 - 7) % 2 ^ 64 < 2 ^ (6 % 32) ∧
    ∃ s1, (emptied (queued 9 7)).vwrites 3 (0x7000 + 64 * (9 % 2 ^ (6 % 32))) ([1, 2, 3, 4, 5, 6, 7, 8].map fun (x : Word) => x.toNat) = (true, s1) := by
  have h (r : Bool × State) (e : r.1 = true) : ∃ s1, r = (true, s1) := ⟨r.2, by rw [← e]⟩
  exact ⟨by decide, by decide, by decide +kernel, by decide +kernel, by decide, by decide, by decide, by decide, h _ (by decide +kernel)⟩

/-- A TLBINV of a page of context 3 at port 0, and one that has waited for its accesses. -/
def shoot : Flit := { op := .tlbinv, ctx := 3, ga := 2 ^ 30 + 0x10000, len := 0x10000, scope := 1, tag := 12, src := .tile 9 }
def tlb0 : List TlbEntry := [{ ctx := 3, level := 2, page := 1, leaf := 0 }, { ctx := 3, level := 2, page := 0, leaf := 0 }, { ctx := 4, level := 2, page := 1, leaf := 0 }]
def shooting : State :=
  { tiles := [(0, { ejA := [shoot, ask .wake 0] })],
    clusters := [(0, { tlb := tlb0, tlbWork := [{ flit := shoot, ops := [], granules := [] }],
                       parked := [{ agent := .cuff, ctx := 3, va := 0, write := true, read := false, user := false }, { agent := .copy 1 0, ctx := 4, va := 0, write := true, read := false, user := false }] })],
    invals := [{ tag := 12, ctx := 3, flag := 0, tile := 9, left := [0, 1] }] }
theorem witness_Shootdowns : (shooting.tile (clusterTile 0 0)).ejA = shoot :: [ask .wake 0] ∧ shoot.op = .tlbinv ∧
    (∀ j, j < 8 → (shooting.tile (clusterTile 0 j)).posted = [] ∧ (shooting.tile (clusterTile 0 j)).copyq = []) ∧
    (∀ w ∈ (shooting.cluster 0).tlbWork, w.ops = [] ∧ w.granules = [] ∧ w.flit.flag = 0) := by decide +kernel

/-! ### The host, other packages, registers -/

/-- The BAR2 window of link 2, with HOSTCTX as given. -/
def hosted (h : Word) (words : Memory := []) : State := { world words with hostctx := [(2, h)] }
def flatWindow : Word := 0xC000000000000000
def ctxWindow : Word := 0x8000000000000003
/-- Whether windows are shut, decided. -/
theorem shut_iff (s : State) : shut s ↔ s.windowsShut = true := by
  unfold shut State.windowsShut
  simp
theorem open_window {s : State} (h : s.windowsShut = false) : ¬shut s := by rw [shut_iff, h]; decide
/-- Without a checkpoint every window and port is open. -/
theorem witness_open {s : State} (h : s.ckpt = none) : ¬shut s := fun x => by simpa [h] using x.1
theorem witness_HostWindow_links : linkClean (hosted flatWindow) 2 ∧ (2 : Fin 4).val ∈ ({ evo := { linksDown := [2] } } : State).evo.linksDown ∧
    (2 : Fin 4).val ∉ ({ evo := { linksDown := [1], linkErrors := [2] } } : State).evo.linksDown ∧
    (2 : Fin 4).val ∈ ({ evo := { linksDown := [1], linkErrors := [2] } } : State).evo.linkErrors := by unfold linkClean; decide
theorem calm_hosted (h : Word) (words : Memory) : calm (hosted h words) := ⟨⟨rfl, rfl, rfl⟩, rfl, fun _ => rfl⟩
set_option maxRecDepth 20000 in
theorem reaches_read : reaches (hosted ctxWindow) 3 false 0x5000 (at3 0x5000) := ⟨0, false, some (2, 0xF8 * 2 ^ 56 + 2 ^ 30), by rfl, by decide⟩
set_option maxRecDepth 20000 in
theorem reaches_write : reaches (hosted ctxWindow) 3 true 0x5000 (at3 0x5000) := ⟨0, false, some (2, 0xF8 * 2 ^ 56 + 2 ^ 30), by rfl, by decide⟩
/-- The last bytes of HBM, and 16 bytes of a page, read and written. -/
theorem witness_HostWindow_flat (write : Bool) : hostPlace (hosted flatWindow) 2 write (2 ^ 40 - 16) 16 (2 ^ 40 - 16) := by
  refine ⟨by decide, open_window rfl, by decide, .inl ⟨by decide, rfl, by decide, by decide, fun a h1 h2 => ?_⟩⟩
  have : a / 2 ^ 36 = 15 := by omega
  rw [this]
  rfl
theorem witness_HostWindow_context : hostPlace (hosted ctxWindow) 2 false 0x5000 16 (at3 0x5000) ∧ hostPlace (hosted ctxWindow) 2 true 0x5000 16 (at3 0x5000) := by
  refine ⟨⟨by decide, open_window rfl, by decide, .inr ⟨by decide, by decide, by decide, ?_⟩⟩, ⟨by decide, open_window rfl, by decide, .inr ⟨by decide, by decide, by decide, ?_⟩⟩⟩
  · exact reaches_read
  · exact reaches_write
set_option maxRecDepth 20000 in
theorem witness_HostWindow_stops : (mget 0 (hosted 0).hostctx 2).getLsbD 63 = false ∧ shut { hosted flatWindow with ckpt := some (1, 0) } ∧
    (hosted ctxWindow).walk ((mget 0 (hosted ctxWindow).hostctx 2).toNat % 64) (2 ^ 30) { write := false, read := true, user := false } =
      ((.fault 2 1 0x2008, none), hosted ctxWindow) ∧ (hosted ctxWindow).hostWaits = [] ∧ ¬shut (hosted ctxWindow) :=
  ⟨by decide, (shut_iff _).2 rfl, by rfl, rfl, open_window rfl⟩
/-- A write of link 2 waits. -/
def hostBusy : State := { hosted flatWindow with hostWaits := [{ link := 2, bar2 := true, addr := 64, acc := .write [1] }] }
theorem witness_HostWindow_waits : ∃ v ∈ hostBusy.hostWaits, v.link = (2 : Fin 4).val ∧ accessWrites v.acc = true := by decide
theorem witness_HostRegisters : regAt 0x1020400 = some .kill ∧ Reg.ofSequencer .kill = true ∧ regAt 0x1100010 = some (.hostctx 2) ∧ 0x1100010 < 2 ^ 26 ∧
    0x1100010 % 8 = 0 ∧ mailboxBase + 0xFFF = mailboxBase + 0xFFF ∧ 0xFFF < 0x1000 ∧ [(0 : Byte), 0, 0, 0].length ≠ 8 := by decide

/-- A flit at I/O die 0 for package p from package q. -/
def crossing (p q : Nat) (f : Flit) (route : SMap Word) (table : SMap Word := []) : State :=
  { io := [(0, { out := [({ f with dpkg := some p }, q, 1)], route := route, admitTab := table }), (1, { route := [(7, 2)] })] }
def wanted : Flit := { op := .load, ctx := 5, ga := gaSpad 9 64, tag := 33, src := .tile 4, size := 8 }
/-- Entry 0 admits package 6 with context 5 to the scratchpad of tile 9, as context 3, to load. -/
def admits0 : SMap Word := [(0, BitVec.ofNat 64 (6 + 5 * 2 ^ 18 + 3 * 2 ^ 25 + 2 ^ 31 + 2 ^ 32)), (1, BitVec.ofNat 64 (gaSpad 9 0)), (2, 0x80000)]
theorem witness_Outbound :
    (let s := crossing 7 0 wanted [(7, 4)]
     (s.ioDie 0).inqB = [] ∧ (s.ioDie 0).out = ({ wanted with dpkg := some 7 }, 0, 1) :: [] ∧ 7 ≠ s.pkg ∧
     (s.upPorts 0 7)[Config.portHash 0 (hashSource wanted.src) wanted.tag % (s.upPorts 0 7).length]? = some 2) ∧
    (let s := crossing 7 0 wanted [(7, 2 ^ 32)]
     s.upPorts 0 7 = [] ∧ (mget 0 (s.ioDie 0).route 7).getLsbD 32 = true) ∧
    (let s := crossing 7 6 wanted []
     s.upPorts 0 7 = [] ∧ (mget 0 (s.ioDie 0).route 7).getLsbD 32 = false ∧ 6 ≠ s.pkg ∧ wanted.op ≠ .nak) := by
  refine ⟨⟨by decide, by decide, by decide, ?_⟩, by decide⟩
  have : (crossing 7 0 wanted [(7, 4)]).upPorts 0 7 = [2] := by decide
  rw [this, List.length_singleton, Nat.mod_one]
  rfl
theorem witness_Outbound_home :
    let g : Flit := { wanted with dpkg := some 0, tags := 0, ga := 2 ^ 63 + wanted.ga % 2 ^ 46 }
    0 = (crossing 0 6 wanted []).pkg ∧ 6 ≠ (crossing 0 6 wanted []).pkg ∧ planeB wanted.op = false ∧ wanted.op ≠ .reserved ∧ (crossing 0 6 wanted []).ckpt = none ∧
    (crossing 0 6 wanted []).admission 0 6 g = none ∧ (crossing 0 6 wanted [] admits0).admission 0 6 g = some 3 ∧ wanted.flast = 0 ∧ wanted.ga / 2 ^ 44 % 4 = 0 ∧
    ((crossing 0 6 wanted [] admits0).ioDie 0).proxies = [] := by decide +kernel

/-- Port 40 as given. -/
def linked (x : Port) : State := { atwald := [(40, x)] }
theorem witness_AtwaldPorts :
    (let x := mget {} (linked { rseq := 65535, outbox := [(8, 0, 7, 1, wanted), (9, 0, 7, 1, wanted)] }).atwald 40
     x.down = false ∧ x.spareUsed = false ∧ 65535 % 2 ^ 16 = x.rseq ∧ 3 % 2 ^ 16 ≠ x.rseq ∧ x.outbox = (8, 0, 7, 1, wanted) :: [(9, 0, 7, 1, wanted)] ∧ 8 = 8 % 2 ^ 16 ∧
     ∀ y ∈ [((9, 0, 7, 1, wanted) : Nat × Nat × Nat × Nat × Flit)], y.1 ≠ 8) ∧
    (mget {} (linked {}).atwald 40).outbox = [] ∧ 7 ≠ (linked {}).pkg ∧ 253 < 254 ∧
    
    (mget {} (linked { spareUsed := true, outbox := [(8, 6, 7, 1, wanted)] }).atwald 40).outbox = [(8, 6, 7, 1, wanted)] ∧ planeB wanted.op = false ∧ 6 ≠ (linked {}).pkg ∧
    (mget {} (linked { spareUsed := true }).atwald 40).spareUsed = true ∧ (mget {} (linked { down := true }).atwald 40).down = true := by decide

/-- Ethernet port 5 of context 3 with one descriptor in each ring: 64 bytes at 0xA000. -/
def ether (x : Eth) : State :=
  { world (cells (at3 0x8000) 8 0xA000 ++ cells (at3 0x8008) 8 64 ++ cells (at3 0xA000) 8 0x77) with
    eth := [(5, { x with en := true, ctx := 3, txBase := 0x8000, txLog2 := 6, rxBase := 0x8000, rxLog2 := 6 })] }
def sentBytes : List Byte := (ether { txTail := 1 }).bytes (at3 0xA000) 64
def afterSend : State := (ether { txTail := 1 }).setEth 5 { (ether { txTail := 1 }).ethPort 5 with sent := [sentBytes ++ natLe 4 (frameCheck sentBytes).toNat], txHead := 1 }
theorem calm_ether (x : Eth) : calm (ether x) := ⟨⟨rfl, rfl, rfl⟩, rfl, fun _ => rfl⟩
set_option maxRecDepth 20000 in
theorem witness_EthernetRings_send :
    let s := ether { txTail := 1 }; let x := s.ethPort 5
    x.en = true ∧ x.txHead ≠ x.txTail ∧ s.ckpt = none ∧ (x.txBase + 32 * (x.txHead % 2 ^ x.txLog2)) % 64 = 0 ∧ reaches s x.ctx false 0x8000 (at3 0x8000) ∧
    ethWords s (at3 0x8000) 0xA000 64 ∧ reaches s x.ctx false 0xA000 (at3 0xA000) ∧ (∀ i, i < 64 → s.poisoned (at3 0xA000 + i) = false) ∧
    reaches afterSend x.ctx true (0x8000 + 24) (at3 0x8018) ∧ at3 0x8018 % 8 = 0 ∧ s.poisoned (at3 0x8018) = false :=
  ⟨by decide, by decide, rfl, by decide, ⟨0, false, some (2, 0xF8 * 2 ^ 56 + 2 ^ 30), by rfl, by decide⟩, by unfold ethWords; decide +kernel,
   ⟨0, false, some (2, 0xF8 * 2 ^ 56 + 2 ^ 30), by rfl, by decide⟩, fun _ _ => rfl, ⟨0, false, some (2, 0xF8 * 2 ^ 56 + 2 ^ 30), by rfl, by decide⟩, by decide, rfl⟩
/-- A frame that arrives for the same descriptor. -/
def frame : List Byte := List.replicate 64 9
def afterStore : State := ((ether { rxTail := 1 }).writeRange 0 (at3 0xA000) (frame.take 64)).setEth 5 { (ether { rxTail := 1 }).ethPort 5 with rxHead := 1 }
set_option maxRecDepth 20000 in
theorem witness_EthernetRings_receive :
    let s := ether { rxTail := 1 }; let x := s.ethPort 5
    x.en = true ∧ x.rxHead ≠ x.rxTail ∧ s.ckpt = none ∧ 64 ≤ frame.length ∧ frame.length ≤ 9216 ∧ (x.rxBase + 32 * (x.rxHead % 2 ^ x.rxLog2)) % 64 = 0 ∧
    reaches s x.ctx false 0x8000 (at3 0x8000) ∧ ethWords s (at3 0x8000) 0xA000 64 ∧ reaches s x.ctx true 0xA000 (at3 0xA000) ∧
    (∀ i, i < 64 → s.poisoned (at3 0xA000 + i) = false) ∧ reaches afterStore x.ctx true (0x8000 + 24) (at3 0x8018) ∧ at3 0x8018 + 8 ≤ at3 0xA000 :=
  ⟨by decide, by decide, rfl, by decide, by decide, by decide, ⟨0, false, some (2, 0xF8 * 2 ^ 56 + 2 ^ 30), by rfl, by decide⟩, by unfold ethWords; decide +kernel,
   ⟨0, false, some (2, 0xF8 * 2 ^ 56 + 2 ^ 30), by rfl, by decide⟩, fun _ _ => rfl,
   ⟨0, false, some (2, 0xF8 * 2 ^ 56 + 2 ^ 30), by decide +kernel, by decide +kernel⟩, by decide⟩
theorem witness_EthernetRings_stops : (({} : State).ethPort 5).en = false ∧ ((ether {}).ethPort 5).rxHead = ((ether {}).ethPort 5).rxTail ∧
    ∃ c, c ≠ frameCheck frame := ⟨by decide, by decide, frameCheck frame + 1, by simp⟩
theorem witness_EthernetRegisters :
    (let x := (ether { txTail := 2 }).ethPort 5; x.en = true ∧ x.txHead ≠ x.txTail ∧ (64 + 2 ^ 32 - x.txHead) % 2 ^ 32 ≤ 2 ^ x.txLog2 ∧ 2 ^ x.rxLog2 < (65 + 2 ^ 32 - x.rxHead) % 2 ^ 32) ∧
    (let x := (({} : State).ethPort 5); x.en = false ∧ x.txHead = x.txTail ∧ x.rxHead = x.rxTail) ∧
    ((({} : State).setEth 5 { txTail := 1 }).ethPort 5).en = false ∧ ((({} : State).setEth 5 { txTail := 1 }).ethPort 5).txHead ≠ ((({} : State).setEth 5 { txTail := 1 }).ethPort 5).txTail := by decide
theorem witness_RegisterFile : (0x8000000000000001 : Word).getLsbD 63 = true ∧ (0x8000000000000001 : Word).getLsbD 0 = true ∧ (0 : Word).getLsbD 63 = false ∧ (0 : Word).getLsbD 0 = false ∧
    1023 < 1024 ∧ 1 < 2 ∧ 2 ^ 17 - 1 < 2 ^ 17 ∧ 4095 < 4096 ∧ regAt 0x01030000 = some (.ctxdesc 0) ∧ ({} : State).regOpen (.ctxdesc 0) true (.device 3) = false ∧ 1023 / 16 ≠ 3 := by decide
theorem witness_ChannelTraining : 31 < 32 ∧ (∀ f ∈ (({} : State).ioDie 0).inq, f.op ≠ .load) ∧ (0x8000000000000180 : Word).getLsbD 7 = true ∧ (0 : Word).getLsbD 7 = false := by decide

/-! ### Evodon and service life -/

def evodon (e : Evodon) : State := { evo := e }
def ready : Evodon := { ready := true, cmdSeq := 4 }
theorem witness_MailboxGate : commandOf (.pwrlim 7 2000) = some (7, 0x07) ∧ 0x07 ≠ 1 ∧ (evodon {}).evo.offlinePending = none ∧ (evodon {}).evo.onlinePending = none ∧
    (evodon { busy := true }).mailBusy = true ∧ (evodon {}).mailBusy = false ∧ (evodon {}).evo.ready = false := by decide
theorem witness_UnknownCommands : (evodon ready).mailBusy = false ∧ (evodon ready).evo.ready = true ∧ (0x70011 : Word).toNat % 256 ∉ commandCodes ∧
    (2 : Word).getLsbD 1 = true ∧ (0x70017 : Word).toNat % 256 ∈ commandCodes ∧
    ({ deferred := [.event (.pwrlim 1 2000)] } : State).mailBusy = true := by decide
/-- A key pair that a slot has held, and one that none has. -/
def keyed : State := { evodon ready with keyUsed := [{ load := 1, dataKey := 5, tweakKey := 6 }] }
theorem witness_KeyCommands_load : (keyed.keyUsed.find? fun r => r.dataKey == 5 % 2 ^ 256 && r.tweakKey == 6 % 2 ^ 256) = some { load := 1, dataKey := 5, tweakKey := 6 } ∧
    (keyed.keyUsed.find? fun r => r.dataKey == 5 % 2 ^ 256 && r.tweakKey == 7 % 2 ^ 256) = none := by decide
/-- Slot 1 holds a key that verifies every signature that anything verifies; slot 15 is the last. -/
theorem witness_KeyCommands : (evodon ready).mailBusy = false ∧ (evodon ready).evo.ready = true ∧ (63 : Byte).toNat < 64 ∧ 64 ≤ (64 : Byte).toNat ∧ (64 : Byte) ≠ 0xFF ∧ (64 : Byte) ≠ 1 ∧
    1 ≤ 8191 ∧ 8191 < 8192 ∧ 15 < 16 ∧ mfind (evodon { ready with verifyKeys := [] }).evo.verifyKeys 2 = none := by decide
theorem witness_KeyCommands_signer (k sig m : List Byte) : (∀ x, mfind (evodon { ready with verifyKeys := [(1, k)] }).evo.verifyKeys 1 = some x → Config.falconVerify x m sig = true) ∨
    (∀ x, mfind (evodon { ready with verifyKeys := [(1, k)] }).evo.verifyKeys 1 = some x → Config.falconVerify x m sig = false) := by
  have h : mfind (evodon { ready with verifyKeys := [(1, k)] }).evo.verifyKeys 1 = some k := rfl
  simp only [h, Option.some.injEq, forall_eq']
  cases Config.falconVerify k m sig
  · exact .inr rfl
  · exact .inl rfl

/-- Nothing placed; a rectangle; dies 1 offline and 2 in repair. -/
def serviced : State :=
  { evo := { ready with repairing := [2, 1024 + 40], columns := [(3, 4)] }, dies := [.present, .offline, .present, .offline], rects := [(63, { v := true })] }
theorem not_holdsAny (s : State) (p : Nat → Prop) (h : s.launches = []) : ¬holdsAny s p := by
  rintro ⟨l, hl, -⟩
  rw [h] at hl
  cases hl
theorem witness_ServiceCommands : serviced.mailBusy = false ∧ serviced.evo.ready = true ∧ (serviced.rect 63).v = true ∧ (serviced.rect 0).v = false ∧ 66559 < unitsOf 0 ∧ unitsOf 1 ≤ 512 ∧
    neighbour 0 1 ≠ none ∧ neighbour 0 0 = none ∧ serviced.invals = [] ∧ serviced.die 1 = .offline ∧ 1 ∉ serviced.evo.repairing ∧ serviced.die 0 = .present ∧
    serviced.evo.offlinePending = none ∧ 0 ∉ serviced.evo.repairing ∧ 2 ∈ serviced.evo.repairing ∧ mget 0 serviced.evo.columns 0 = 0 ∧ mget 0 serviced.evo.columns 3 ≠ 0 ∧
    serviced.diePresent (dieOfStack 0) = true ∧ 1024 + (1 * 32 + 8) ∈ serviced.evo.repairing ∧ 1024 + (1 * 32 + 9) ∉ serviced.evo.repairing ∧ dieOfStack 1 ∉ serviced.evo.repairing := by decide
theorem witness_ServiceCommands_repair : ¬holdsAny serviced (fun c => dieOf c = 0) ∧ ¬holdsAny serviced (fun c => dieOf c = 0 ∧ 5 ≤ c % 8) := ⟨not_holdsAny _ _ rfl, not_holdsAny _ _ rfl⟩
/-- The number of spare rows is open: a repair finds one, or none is left. -/
theorem witness_ServiceCommands_rows : Config.hbmSpareRows ≤ mget 0 serviced.evo.ppr (1 * 32 + 9) ∨ mget 0 serviced.evo.ppr (1 * 32 + 9) < Config.hbmSpareRows := by omega

/-- HBMPPR, REMAP and OFFLINE in progress; automatic repairs of a bank, a channel, a link and an engine. -/
def repairs : State :=
  { evo := { ready with busy := true, cmdCode := 0x13, repairing := [1024 + 40], remapPending := some (1, 3), autos := [(0, 37), (1, 41), (2, 31 * 4 + 1), (3, 9)] } }
def going : State := { evo := { ready with busy := true, cmdCode := 0x14, repairing := [1], offlinePending := some (1, true) } }
theorem witness_RepairEnds : (0, 37) ∈ repairs.evo.autos ∧ (1, 41) ∈ repairs.evo.autos ∧ (1, 40) ∉ repairs.evo.autos ∧ 1024 + 40 ∈ repairs.evo.repairing ∧
    repairs.evo.busy = true ∧ repairs.evo.cmdCode = 0x13 ∧ 1024 + 42 ∉ repairs.evo.repairing ∧ (2, 31 * 4 + 1) ∈ repairs.evo.autos ∧ neighbour 31 1 = some 32 ∧
    (0, 38) ∉ repairs.evo.autos ∧ (3, 16) ∉ repairs.evo.autos ∧ repairs.evo.remapPending = some (1, 3) ∧ dieOf 8 = 1 ∧ (3, 8) ∉ repairs.evo.autos ∧
    (repairs.evo.wear.map fun x => x.1).Nodup ∧ going.evo.offlinePending = some (1, true) ∧ 1 < going.dies.length ∧ going.invals = [] ∧
    going.evo.remapPending = none := by decide
theorem witness_RepairEnds_channel : (mget 0 (repairs.train 41).rep 0).getLsbD 63 = false ∧ ∀ i, i < 0 → (mget 0 (repairs.train 41).rep i).getLsbD 63 = true := by decide
theorem witness_RepairEnds_free : ¬holdsAny repairs (fun c => dieOf c = 1 ∧ 3 ≤ c % 8) ∧ ¬holdsAny going (fun c => dieOf c = 1) ∧ (∀ x ∈ going.ctxs, x.2.valid = false ∨ x.2.firmware = true) :=
  ⟨not_holdsAny _ _ rfl, not_holdsAny _ _ rfl, by decide⟩
theorem witness_RepairEnds_held : holdsAny { repairs with launches := [{ launch0 with phase := .running, cx := 12 }] } (fun c => dieOf c = 1 ∧ 3 ≤ c % 8) :=
  ⟨_, .head _, rfl, 12, by decide, by decide⟩

theorem witness_ScrubAndWear :
    (let s : State := { scrubPos := [(2 * (5 * 16 + 3), 511)], errOne := [(spad 5 (1024 * 511 + 64 * 3) + 8 * 7) / 8] }
     s.evo.scrubEn = true ∧ s.evo.sstep ≠ 0 ∧ s.errTag = [] ∧ (s.ask 5 orderScrub 3 [1024 * 511 + 64 * 3]).1 = true ∧ mget 0 s.scrubPos (2 * (5 * 16 + 3)) = 511 ∧ s.errUnc = [] ∧
     s.errOne = [(spad 5 (1024 * mget 0 s.scrubPos (2 * (5 * 16 + 3)) + 64 * 3) + 8 * 7) / 8] ∧ (mget {} s.evo.wear (4 * (5 * 16 + 3))).count < 65535) ∧
    (let s : State := { scrubPos := [(2 * (2 * 32 + 9) + 1, 2 ^ 25 - 1)] }
     noErrors s ∧ s.evo.hstep ≠ 0 ∧ s.diePresent (dieOfStack 2) = true ∧ mget 0 s.scrubPos (2 * (2 * 32 + 9) + 1) < 2 ^ 25) ∧
    (mget {} (evodon { wearCfg := [(1, { leak := 0 })] }).evo.wearCfg 1).leak = 0 ∧ (mget {} (evodon {}).evo.wearCfg 1).leak ≠ 0 := by unfold noErrors; decide +kernel
/-- The scrubber's bank is taken in this cycle; a word of the tile store with an uncorrectable error. -/
theorem witness_ScrubAndWear_asks : (let s : State := { tiles := [(5, { region := some 0, late := [3] })] }; (s.ask 5 orderScrub 3 [64 * 3]).1 = false) ∧
    (let s : State := { clusters := [(clusterOf 5, { storeUnc := [7] })] }; (s.cluster (clusterOf 5)).storeUnc = [mget 0 s.scrubPos (2 * (65536 + clusterOf 5)) * 256 + 7] ∧
      (s.cluster (clusterOf 5)).storeOne = [] ∧ 0 ∉ (s.cluster (clusterOf 5)).mending) := by decide +kernel

/-- Rectangle 63 of 2 by 2 clusters at the corner, fenced; a launch on cluster 0. -/
def cornered (fen : Bool) : State := { rects := [(1, { v := true, fen := fen }), (63, { v := true, fen := fen, w := 2, h := 2, x0 := 14, y0 := 30 })], launches := [{ launch0 with phase := .running }] }
theorem witness_FencesAndRectangles :
    (let x := (cornered true).rect 63
     x.fen = true ∧ x.v = true ∧ ((cornered false).rect 63).fen = false ∧ ((cornered false).rect 0).v = false ∧ ∀ c ∈ x.clusters, (cornered true).holder c = none) ∧
    ∃ c ∈ ((cornered true).rect 1).clusters, (cornered true).holder c ≠ none := by decide +kernel
theorem witness_PowerAndHeat :
    (let e : Evodon := { limit := 3600, temps := [(1, 104)] }
     e.limit < 3601 ∧ 100 * 3420 ≤ 95 * e.limit ∧ (∀ x ∈ e.temps, x.2 < 105) ∧ 3421 ≤ e.limit ∧ 95 * e.limit < 100 * 3421) ∧
    (∀ l ∈ (evodon {}).launches, l.phase ≠ .running) ∧ 114 < 115 ∧ 115 ≤ 124 ∧ 124 < 125 ∧ (evodon { veryHot := true }).evo.veryHot = true := by decide
def bootReport : BootReport :=
  { firmware := [1], spareMap := [2], trainingImage := [3], failedDies := [1], badDies := [], fusedDies := [2], spareLanePorts := [4], downPorts := [63] }
/-- What signatures and digests verify is open: either way a boot has its case. -/
theorem witness_Boot : (blobVerifies Config.rootKey bootReport.firmware = true ∨ blobVerifies Config.rootKey bootReport.firmware = false) ∧
    (mapOk (evodon {}).evo.spareMap bootReport = true ∨ mapOk (evodon {}).evo.spareMap bootReport = false) ∧ 8 < 9 := by
  refine ⟨?_, ?_, by decide⟩
  · cases blobVerifies Config.rootKey bootReport.firmware <;> simp
  · cases mapOk (evodon {}).evo.spareMap bootReport <;> simp
/-- A die with a column remapped out, the entry that does it, alone and twice, and a report that leads to no new entry. -/
theorem witness_Boot_columns : (let e : Evodon := { columns := [(1, 3 + 1)], wear := [(4 * 5, { count := 2 })], spareMap := [{ kind := 6, unit := 9 * 1 + 3 }] }
    e.columns = [(1, 3 + 1)] ∧ (e.wear.map fun x => x.1).Nodup ∧ e.spareMap = [{ kind := 6, unit := 9 * 1 + 3 }]) ∧
    ({ kind := 6, unit := 3 } : Spare).index = 0 ∧ { bootReport with fusedDies := [] }.fusedDies = [] ∧ ({} : Evodon).columns = [] ∧ ({} : Evodon).spareMap = [] := by decide
/-- A report with the map as Evodon's store holds it passes the check. -/
theorem witness_Boot_map (m : List Spare) (b : BootReport) : mapOk m { b with spareMap := mapStore m } = true := mapOk_mapStore _ _ rfl
/-- A boot whose training launch 5 of channel 40 has gone, one of whose channels are all tried. -/
def booting (x : Sys2Proof.Machine.Boot) : State := { evo := { boot := some x } }
theorem witness_BootSteps : (let x : Sys2Proof.Machine.Boot := { report := bootReport, left := [41], active := [(5, 40), (6, 72)] }
    (booting x).evo.boot = some x ∧ x.active = (5, 40) :: [(6, 72)] ∧ (booting x).launch 5 = none ∧ ∀ y ∈ [((6, 72) : Nat × Nat)], y.1 ≠ 5) ∧
    (let x : Sys2Proof.Machine.Boot := { report := bootReport, left := [] }; (booting x).evo.boot = some x ∧ x.left = [] ∧ x.active = [] ∧
      (63 : Fin 64).val ∈ x.report.downPorts) := by decide

/-- A checkpoint in the tier, made under the keys of reset; CKPT in progress over a settled region. -/
def kept : Checkpoint :=
  { base := 0x1000, part := Config.partId, pkg := 0, chain := [], digest := (evodon ready).keyDigest, hbm := [(5, 6)], hbmPsn := [], keyOf := [], keyUsed := [], regions := [] }
def tiered : State := { evo := ready, tier := [kept] }
def checkpointing (p : LaunchPhase) : State := { evo := { ready with busy := true }, ckpt := some (4, 0x2000), launches := [{ launch0 with phase := p }] }
theorem witness_Checkpoints : (∀ l ∈ tiered.launches, l.phase ≠ .running ∧ l.phase ≠ .halting ∧ l.phase ≠ .settled) ∧ tiered.ckpt = none ∧
    (checkpointing .settled).ckpt = some (4, 0x2000) ∧ (∃ l ∈ (checkpointing .halting).launches, l.phase = .running ∨ l.phase = .halting) ∧
    (∀ l ∈ (checkpointing .settled).launches, l.phase ≠ .running ∧ l.phase ≠ .halting) ∧ (∀ k ∈ tiered.tier, k.base ≠ 0x2000) ∧
    (tiered.tier.find? fun c => c.base == 0x1000) = some kept ∧ kept.magic = 0x544B5043 ∧ kept.part = Config.partId ∧ kept.digest = tiered.keyDigest ∧ kept.regions = [] ∧ tiered.evo.veryHot = false ∧
    (∀ l ∈ tiered.launches, LaunchPhase.holds l.phase = false) :=
  ⟨fun _ h => (List.not_mem_nil h).elim, rfl, rfl, ⟨_, .head _, .inr rfl⟩, by decide, by simp [tiered, kept], by simp [tiered, kept], rfl, rfl,
    by simp only [kept, tiered, State.keyDigest, evodon], rfl, rfl, fun _ h => (List.not_mem_nil h).elim⟩
theorem witness_Checkpoints_running : ({ evo := ready, launches := [{ launch0 with phase := .running }] } : State).launches = [{ launch0 with phase := .running }] ∧
    ({ launch0 with phase := .running } : Launch).phase = .running := ⟨rfl, rfl⟩

theorem witness_MemoryStaysCanonical : State.reset.memoryOk = true ∧ ∃ t, step State.reset = .next t := by
  have h (o : Host.Outcome State Fault Refusal) (h : (match o with | .next _ => true | _ => false) = true) : ∃ t, o = .next t := by
    cases o with
    | next t => exact ⟨t, rfl⟩
    | fault _ => cases h
    | refused _ => cases h
  exact ⟨by decide, h _ (by decide +kernel)⟩

/-! ### Forms that complete, the checker, replay mode -/

theorem witness_VectorMovesComplete : ElemTy.f32.isF = true ∧ ElemTy.f32.width = 32 ∧ vecs.cur.ftz = false ∧ laneActive vecs 1 0 ∧ srcBad vecs 2 0 = none ∧
    srcElt vecs 32 2 0 < 2 ^ 31 ∧ srcBad vecs 1 (srcElt vecs 32 2 0 % 16) = none ∧ (15 : Fin 64).val < 512 / 32 ∧ (vecs.cur.rd 1).tag ≠ .poison ∧
    vBad (vecs.cur.rv 1) 15 = false := by unfold laneActive; decide +kernel
/-- A supervisor whose ECAP is a code capability, with nothing posted that PDRAIN awaits, and an HBM capability in g1. -/
def sysReady : State := sup { thr0 [(1, far 0x3FF 1 0 0 1 0)] with ecap := full 0 2, epc := 0x8000000000000042 }
theorem witness_PrivilegedFormsComplete : sysReady.cur.priv = true ∧ sysReady.cur.ecap.tag = .cap ∧ sysReady.cur.ecap.upper.getLsbD 58 = true ∧
    wovenCap sysReady.cur.ecap = false ∧ isTile sysReady.cur.ecap = true ∧ (∀ p ∈ sysReady.curT.posted, ¬awaited sysReady.curThr p) ∧
    sysReady.evo.offlinePending = none ∧ sysReady.evo.onlinePending = none ∧ (sysReady.cur.rd 1).tag = .cap ∧
    wovenCap (sysReady.cur.rd 1) = false ∧ space (sysReady.cur.rd 1) = 1 := by unfold awaited; decide
/-- A barrier bound to the context, a thread in step with it, a tile on its way, and one releasing. -/
theorem witness_CrownFormsComplete : (let s := crowned (crown 1 { flying := [1] }); s.cur.afp = false ∧ (s.crown 3).poison = 0 ∧
      mget 0 s.cur.crownDone 3 ≤ (s.crown 3).episode ∧ s.cur.limbo ≠ some (s.cur.pc.toNat % 2 ^ 19, .crown (.pbar 6 3) 3) ∧ 1 ∈ (s.crown 3).flying) ∧
    (releasing.crown 3).releasing = true ∧ (releasing.crown 3).bound = true ∧ (releasing.crown 3).saved = [] ∧ bindWord.getLsbD 63 = true ∧
    (0 : Word).getLsbD 63 = false := by decide

/-- Thread 0 of tile 0 as in `u0`, its tile about to be hit; a second execution that fails in f. -/
def hit (r : Recheck) : State := u0.updTile 0 fun x => { x with mismatch := r }
def refails (f : Faulty) (x : Thread := user) : State := mem0 { x with recheck := .fails f }
def retired0 (s : State) : Bool := match exec (.addi 1 3 7) s with | .next u => u.cur.retired == s.cur.retired + 1 | _ => false
theorem witness_FirstMismatch : (hit .passes).cur.recheck = .no ∧ (hit .passes).curT.mismatch ≠ .no ∧ (hit (.fails .all)).curT.mismatch ≠ .no ∧
    retired0 (hit .passes) = true ∧ (mem0 { user with recheck := .passes }).cur.recheck = .passes := by decide +kernel
/-- An instruction that reaches W, and one whose bank has gone to another, which gives up its slot. -/
def banked : State := hit .passes |>.updTile 0 fun x => { x with taken := [Config.bankOf 64] }
theorem witness_FirstMismatch_reached :
    (∃ u, exec .nop (hit .passes) = .next u ∧ reachedW (hit .passes) u) ∧ ∃ u, exec (.ld false 3 6 1 0) banked = .next u ∧ ¬reachedW banked u := by
  have h (o : Host.Outcome State Fault Refusal) (p : State → Bool) (e : (match o with | .next u => p u | _ => false) = true) : ∃ u, o = .next u ∧ p u = true := by
    cases o with
    | next u => exact ⟨u, rfl, e⟩
    | fault => simp at e
    | refused => simp at e
  obtain ⟨u, hu, hp⟩ := h (exec .nop (hit .passes)) (fun u => u.cur.retired == (hit .passes).cur.retired + 1) (by decide +kernel)
  obtain ⟨w, hw, hq⟩ := h (exec (.ld false 3 6 1 0) banked)
    (fun w => decide (w.cur.run = .rotation ∧ w.cur.pc = banked.cur.pc ∧ w.cur.retired = banked.cur.retired ∧ w.cur.exl = banked.cur.exl)) (by decide +kernel)
  refine ⟨⟨u, hu, ?_⟩, w, hw, ?_⟩
  · rintro ⟨-, -, h3, -⟩
    have := eq_of_beq hp
    rw [h3] at this
    exact absurd this (by decide)
  · exact fun h => h (of_decide_eq_true hq)
theorem witness_SecondMismatch : (refails .all).cur.recheck = .fails .all ∧ (refails .all { user with afp := true }).cur.afp = true ∧
    (refails .all).cur.afp = false ∧ (refails .all).cur.run = .rotation ∧ givesControl (.j 0 0) ∧ Faulty.all.ctl = true ∧ givesAddress (.st 3 6 1 0) ∧
    Faulty.all.addr = true ∧ (refails .all).curT.halt = .running ∧ (refails .all).curT.flog.length < 8 := by
  refine ⟨by decide, by decide, by decide, by decide, trivial, rfl, trivial, rfl, by decide, by decide⟩
theorem witness_SecondMismatch_values : givesG 6 (.movi 6 5) ∧ givesVec 2 (.vsel 1 2 2 2) ∧ ({ lanes := 2 } : Faulty).lanes.getLsbD 1 = true ∧
    ({ lanes := 2 } : Faulty).lanes.getLsbD 0 = false := ⟨by simp [givesG], by simp [givesVec], by decide, by decide⟩
/-- A store that is to fail in its data, to the own tile and to another. -/
def badData : Faulty := { data := true }
theorem witness_SecondMismatch_store :
    (let s := refails badData; names s 1 (dispM 0) 64 ∧ ownAccess s 1 2 64 (2 ^ 3) ∧ free s [64] ∧
      s.refusing [64] = (s.setCur { s.cur with recheck := .no }).refusing [64] ∧ noErr s (spad 0 64)) ∧
    (let s := refails badData (thr0 [(1, full 1 64)]); names s 1 (dispM 0) 64 ∧ farAccess s 1 2 1 64 (2 ^ 3) ∧ s.cur.served = [] ∧
      s.retryRoom s.curTile 1 = true) := by simp only [names, ownAccess, farAccess, free, noErr]; decide +kernel

/-- Tile 0 in replay mode, the slot at thread 0. -/
def replaying (x : Thread) (hlt : HaltPhase := .running) : State :=
  { tiles := [(0, { region := some 0, replay := true, rot := 8, halt := hlt, threads := [(0, x)] })], agenda := [.core 0] }
theorem witness_ReplaySlots : (replaying (thr0 [])).powered = true ∧ (replaying (thr0 [])).evo.inReset = false ∧
    ((replaying { thr0 [] with owed := 2 }).thr 0 0).owed ≠ 0 ∧ ((replaying (thr0 [])).thr 0 0).owed = 0 ∧ ((replaying (thr0 [])).tile 0).region ≠ none ∧ ((replaying (thr0 [])).tile 0).fenced = false ∧
    ((replaying (thr0 [])).tile 0).replay = true ∧ ((replaying (thr0 []) .halting).tile 0).halt = .halting ∧
    (∀ k, k < 8 → ((replaying (thr0 []) .halting).thr 0 k).skip = 0 ∧ ((replaying (thr0 []) .halting).thr 0 k).served = []) ∧
    ((replaying { thr0 [] with run := .halted }).thr 0 0).run ≠ .rotation ∧
    ((replaying { thr0 [] with fbuf := [] }).thr 0 0).line 0x8000000000000002 = none ∧ ((replaying { thr0 [] with skip := 3 }).thr 0 0).skip ≠ 0 ∧
    ((replaying (thr0 [])).thr 0 0).fetchable 0 0 = true ∧ ((replaying (thr0 [])).thr 0 0).line 0x8000000000000002 = some (nops 8) ∧
    lineMalformed (nops 8) = false ∧ ((replaying (thr0 [])).thr 0 0).breaks = false ∧ ((replaying (thr0 [])).thr 0 0).recheck = .no ∧
    ((replaying (thr0 [])).tile 0).mismatch = .no ∧ decode (lineHead (nops 8) 1) (lineTail (nops 8) 1) = some .nop := by decide +kernel
theorem witness_ReplaySlots_wait : ∀ k, k < 8 → ((replaying (thr0 [])).thr 0 k).wait = .none := by decide

/-! ### Other boundary cases -/

/-- A PC outside the code capability, in a skip walk and out of one; a stray line in a skip walk. -/
theorem witness_FetchTraps_bounds : (one { thr0 [] with pc := 0x8000000000001002 }).cur.fetchable 0 0 = false ∧
    (one { thr0 [] with pc := 0x8000000000001002 }).cur.skip = 0 ∧ (one { thr0 [] with pc := 0x8000000000001002, skip := 2 }).cur.fetchable 0 0 = false ∧
    (one { thr0 [] with pc := 0x8000000000001002, skip := 2 }).cur.skip ≠ 0 ∧ (one { thr0 [] with skip := 2, fbuf := [(0, stray)] }).cur.fetchable 0 0 = true ∧
    (one { thr0 [] with skip := 2, fbuf := [(0, stray)] }).cur.line 0x8000000000000002 = some stray := by decide
/-- A refused half of a 64-byte response. -/
def respNak : Flit := { reply .nak with ans := .respv, reason := .slot, count := 2, tries := 3, data := List.replicate 32 5 }
theorem witness_ResponseRetries : comesBack (back respNak (sent (.posted 0) .store) (thr0 [])) 0 respNak [reply .ack] ∧ respNak.op = .nak ∧
    respNak.ans = .respv ∧ respNak.reason = .slot := by unfold comesBack; decide
/-- A monitor that no answer names, and one whose FIRE is at the head of plane B as the time runs out. -/
theorem witness_WaitAnswers_answering : ((back (reply .ack) (sent (.arm 0) .arm) (asleep (.fwait 3 [mon2] 100 (some 400)))).tile 0).answering [mon2] = none ∧
    ((back fired (sent (.arm 0) .arm) (asleep (.fwait 3 [mon2] 100 (some 400)))).tile 0).answering [mon2] = some mon2 ∧
    ((back signal1 (sent (.posted 0) .store) (thr0 [])).askHome (.tile 0) 1 [signal1.ga % 2 ^ 19]).1 = true := by decide +kernel
/-- No channel of a state without training or repair waits. -/
theorem noWait_calm {s : State} (ht : s.training = []) (hr : s.evo.repairing = []) : noWait s := by
  intro c
  simp [State.channelWaits, State.repairing, ht, hr, mget]
theorem witness_noWait : noWait (checkpointing .settled) ∧ noWait (world []) ∧ noWait (walking 3 0x5008) ∧ noWait (queued 9 7) ∧ noWait acceptable :=
  ⟨noWait_calm rfl rfl, noWait_calm rfl rfl, noWait_calm rfl rfl, noWait_calm rfl rfl, noWait_calm rfl rfl⟩
/-- A tag's parity that is wrong, and an uncorrectable word of another pair. -/
theorem witness_HomeReads_tag : ({ m0 with errTag := [spad 0 112 / 16] }).errTag.contains (spad 0 112 / 16) = true ∧
    ({ m0 with errTag := [spad 0 112 / 16] }).errTag.contains (spad 0 80 / 16) = false := by decide
theorem witness_CopyEngine_banks : granuleGranted (engine active2) 0 2 active2.next ∧ gatherGranted (arbiter [mma1] [mma1]) mma1 := by
  unfold granuleGranted gatherGranted; decide +kernel
/-- Room for two more retries, and none. -/
theorem witness_SpawnAtOwnTile_room : (filled 1024).retryRoom 0 2 = true ∧
    ((filled 1024).updTile 0 fun t => { t with posted := List.replicate 255 (sent (.posted 0) .store) }).retryRoom 0 2 = false ∧ afar.retryRoom afar.curTile 1 = true := by
  decide +kernel
/-- The queue bank copies a row to its spare, and does not. -/
theorem witness_SpawnAtOwnTile_mending : bankIdle (spawner 0 1) ∧ ¬bankIdle ((spawner 0 1).updCluster 0 fun c => { c with mending := [1] }) := by
  unfold bankIdle; decide +kernel
/-- A thread whose wait at barrier 31, or at crown barrier 3, a halt has ended: before and after the release. -/
theorem witness_waits_after_halt :
    ((barred 3 (num 3)).setCur { (barred 3 (num 3)).cur with limbo := some (2, .bar 31) }).cur.limbo = some ((barred 3 (num 3)).cur.pc.toNat % 2 ^ 19, .bar 31) ∧
    ((barred 3 (num 3)).updTile 0 fun t => { t with barriers := [(31, { count := 3, arrived := [0] })] }).curThr ∈
      (barrierOf ((barred 3 (num 3)).updTile 0 fun t => { t with barriers := [(31, { count := 3, arrived := [0] })] }) 31).arrived ∧
    (crowned (crown 1 {}) { thr0 [] with limbo := some (2, .crown (.pbar 6 3) 3) }).cur.limbo = some (2, .crown (.pbar 6 3) 3) := by decide
/-- A tile cursor within its bounds, and one with bit 19 set, beyond them; a cursor of HBM. -/
theorem witness_CapabilityBounds_reach : inReach (full 0 64) 8 ∧ ¬inReach { full 0 64 with body := (full 0 64).body ||| 0x80000 } 8 ∧
    inReach (far 0x3FF 1 0 1 1024 0x3000) 8 := by unfold inReach; decide
/-- A context word whose descriptor is on a missing die, and one that is read. -/
theorem witness_Contexts_unreadable : ({ dies := [.absent, .present, .present, .present] } : State).descReadable 0x4000 = false ∧
    ({} : State).diePresent (dieOfStack (0x4000 / 2 ^ 36)) = true ∧ (∀ i, i < 8 → ({} : State).poisoned (0x4000 + 8 * i) = false) := by decide
/-- A ring whose unmapping is under way. -/
theorem witness_Rings_busy : ({ ringing [] with subs := [(7, { mappedSlot with busy := true, latched := some 9 })] } : State).sub 7 =
    { mappedSlot with busy := true, latched := some 9 } ∧ (mappedSlot.busy = false) := by decide
/-- A record whose CTRL word has an uncorrectable error in the bank. -/
def erred : BankRec := { inBank 8 2 3 with unc := [0] }
theorem witness_Dispensing_unc : firstFor ((waitingBank [erred]).cluster 0).bank 2 erred ∧ erred.block = none ∧ 0 ∈ erred.unc := by
  unfold firstFor; decide +kernel
/-- The check value of the 802.3 sequence over "123456789" (IEEE 802.3; log 85). -/
theorem test_frameCheck : frameCheck [0x31, 0x32, 0x33, 0x34, 0x35, 0x36, 0x37, 0x38, 0x39] = 0xCBF43926 := by decide +kernel

end Sys2Proof.Tests
end

namespace Sys2Proof.Machine

/-! ## Bytes of a little-endian value (R6) -/

/-- Byte k of a little-endian value is its base-256 digit k. -/
theorem natLe_getElem_toNat {n k : Nat} (v : Nat) (h : k < (natLe n v).length) :
    (natLe n v)[k].toNat = v / 256 ^ k % 256 := by
  induction n generalizing v k with
  | zero => simp [natLe] at h
  | succ n ih =>
    cases k with
    | zero => simp [natLe]
    | succ k =>
      have hk : k < (natLe n (v / 256)).length := by simpa using h
      calc (natLe n (v / 256))[k].toNat
          _ = v / 256 / 256 ^ k % 256 := ih _ hk
          _ = v / 256 ^ (k + 1) % 256 := by rw [Nat.div_div_eq_div_mul, ← Nat.pow_succ']

/-- A byte of a value written reads as that digit of the value. -/
theorem setVal_byte_toNat (s : State) (a v : Nat) {n k : Nat} (h : k < n) :
    ((s.setVal a n v).byte (a + k)).toNat = v / 256 ^ k % 256 := by
  have hk : k < (natLe n v).length := by simpa using h
  rw [State.setVal, setBytes_byte_in _ _ hk, natLe_getElem_toNat]

/-- A byte outside a value written reads as before. -/
theorem setVal_byte_other (s : State) (v : Nat) {a n c : Nat} (h : c < a ∨ a + n ≤ c) :
    (s.setVal a n v).byte c = s.byte c :=
  setBytes_byte_other _ s (by simpa using h)

/-! ## Writing bytes leaves the bits of words and pairs (R205) -/

@[simp] theorem setBytes_full (bs : List Byte) (s : State) (a : Nat) : (s.setBytes a bs).full = s.full := by
  induction bs generalizing s a with
  | nil => rfl
  | cons b bs ih => rw [State.setBytes, ih, State.setByte_full]

@[simp] theorem setBytes_psn (bs : List Byte) (s : State) (a : Nat) : (s.setBytes a bs).psn = s.psn := by
  induction bs generalizing s a with
  | nil => rfl
  | cons b bs ih => rw [State.setBytes, ih, State.setByte_psn]

@[simp] theorem setBytes_tagged (bs : List Byte) (s : State) (a : Nat) : (s.setBytes a bs).tagged = s.tagged := by
  induction bs generalizing s a with
  | nil => rfl
  | cons b bs ih => rw [State.setBytes, ih, State.setByte_tagged]

@[simp] theorem setVal_fe (s : State) (a n v c : Nat) : (s.setVal a n v).fe c = s.fe c := by
  simp [State.fe, State.setVal]

@[simp] theorem setVal_poisoned (s : State) (a n v c : Nat) : (s.setVal a n v).poisoned c = s.poisoned c := by
  simp [State.poisoned, State.setVal]

@[simp] theorem setVal_tagAt (s : State) (a n v c : Nat) : (s.setVal a n v).tagAt c = s.tagAt c := by
  simp [State.tagAt, State.setVal]

/-! ## Reading the bits of words and pairs after a write (R205) -/

theorem setFe_fe (s : State) (a c : Nat) (b : Bool) :
    (s.setFe a b).fe c = if c / 8 = a / 8 then b else s.fe c :=
  contains_nset s.full (a / 8) (c / 8) b

theorem setPoisoned_poisoned (s : State) (a c : Nat) (b : Bool) :
    (s.setPoisoned a b).poisoned c = if c / 8 = a / 8 then b else s.poisoned c :=
  contains_nset s.psn (a / 8) (c / 8) b

theorem setTagAt_tagAt (s : State) (a c : Nat) (b : Bool) :
    (s.setTagAt a b).tagAt c = if c / 16 = a / 16 then b else s.tagAt c :=
  contains_nset s.tagged (a / 16) (c / 16) b

/-! ## The obligation -/

theorem memoryBytes : Claims.MemoryBytes := by
  intro s a n v
  refine ⟨?_, fun k hk => setVal_byte_toNat s a v hk, fun c hc => setVal_byte_other s v hc,
    fun c => ⟨setVal_fe s a n v c, setVal_poisoned s a n v c, setVal_tagAt s a n v c⟩⟩
  have hpow : 2 ^ (8 * n) = 256 ^ n := Nat.pow_mul 2 8 n
  rw [val_setVal, hpow]

theorem wordMetadata : Claims.WordMetadata := fun s a c b =>
  ⟨setFe_fe s a c b, setPoisoned_poisoned s a c b, setTagAt_tagAt s a c b,
    State.setFe_mem s a b, State.setPoisoned_mem s a b, State.setTagAt_mem s a b⟩

/-- Settles O12: bytes by induction over the bytes written, bits by the law of set membership after a write. -/
theorem memoryAndMetadata : Obligations.MemoryAndMetadata :=
  ⟨memoryBytes, wordMetadata⟩

end Sys2Proof.Machine

namespace Sys2Proof.Machine

/-! ## Reading a tile, a thread and the current thread after a write -/

@[simp] theorem setTile_tile_self (s : State) (t : Nat) (x : Tile) : (s.setTile t x).tile t = x :=
  mget_mset_self _ _ _ _

theorem setTile_tile_other (s : State) (x : Tile) {t u : Nat} (h : u ≠ t) : (s.setTile t x).tile u = s.tile u :=
  mget_mset_other _ _ _ h

@[simp] theorem updTile_tile_self (s : State) (t : Nat) (f : Tile → Tile) : (s.updTile t f).tile t = f (s.tile t) :=
  setTile_tile_self s t _

theorem updTile_tile_other (s : State) (f : Tile → Tile) {t u : Nat} (h : u ≠ t) : (s.updTile t f).tile u = s.tile u :=
  setTile_tile_other s _ h

@[simp] theorem setThread_thread_self (x : Tile) (h : Nat) (y : Thread) : (x.setThread h y).thread h = y :=
  mget_mset_self _ _ _ _

theorem setThread_thread_other (x : Tile) (y : Thread) {h k : Nat} (hk : k ≠ h) :
    (x.setThread h y).thread k = x.thread k :=
  mget_mset_other _ _ _ hk

theorem setThr_tile_self (s : State) (t h : Nat) (x : Thread) : (s.setThr t h x).tile t = (s.tile t).setThread h x :=
  setTile_tile_self s t _

@[simp] theorem setThr_thr_self (s : State) (t h : Nat) (x : Thread) : (s.setThr t h x).thr t h = x := by
  simp [State.thr, setThr_tile_self]

theorem setThr_thr_other (s : State) (x : Thread) {t u h k : Nat} (hne : ¬(u = t ∧ k = h)) :
    (s.setThr t h x).thr u k = s.thr u k := by
  by_cases ht : u = t
  · subst ht
    rw [State.thr, setThr_tile_self, setThread_thread_other _ _ fun hk => hne ⟨rfl, hk⟩, State.thr]
  · rw [State.thr, State.setThr, setTile_tile_other _ _ ht, State.thr]

/-- Updating a tile without its threads leaves every thread. -/
theorem updTile_thr (s : State) (t u h : Nat) {f : Tile → Tile} (hf : (f (s.tile t)).threads = (s.tile t).threads) :
    (s.updTile t f).thr u h = s.thr u h := by
  by_cases ht : u = t
  · subst ht
    simp [State.thr, Tile.thread, hf]
  · rw [State.thr, updTile_tile_other _ _ ht, State.thr]

@[simp] theorem setCur_cur (s : State) (x : Thread) : (s.setCur x).cur = x := setThr_thr_self s s.curTile s.curThr x

theorem setCur_curT (s : State) (x : Thread) : (s.setCur x).curT = s.curT.setThread s.curThr x :=
  setThr_tile_self s s.curTile s.curThr x
end Sys2Proof.Machine

namespace Sys2Proof.Machine
open Sys2Proof.Claims

/-! ## A turn of a core (R11-R16, R84-R88) -/

/-- What follows a state that an outcome goes on to. -/
def mapNext (f : State → State) : Host.Outcome State Fault Refusal → Host.Outcome State Fault Refusal
  | .next s => .next (f s)
  | .fault r => .fault r
  | .refused r => .refused r

@[simp] theorem mapNext_next (f : State → State) (s : State) : mapNext f (.next s) = .next (f s) := rfl
@[simp] theorem mapNext_fault (f : State → State) (r : Fault) : mapNext f (.fault r) = .fault r := rfl
@[simp] theorem mapNext_refused (f : State → State) (r : Refusal) : mapNext f (.refused r) = .refused r := rfl

/-- A turn that has met a channel in training leaves the state w. -/
def unlessStalled (w u : State) : State := if u.stalled then w else u

/-- The state in which the head of the agenda is taken. -/
def State.takes (s : State) (rest : List Turn) : State := { s with agenda := rest, stalled := false }

theorem step_core {s : State} {rest : List Turn} {t : Nat} (hpow : s.powered = true) (hreset : s.evo.inReset = false)
    (hagenda : s.agenda = .core t :: rest) :
    step s = mapNext (unlessStalled (s.takes rest)) ((s.takes rest).coreTurn t) := by
  have hlive : s.live = true := by simp [State.live, hpow]
  simp only [step, hlive, State.takeTurn, hagenda, State.agendaTurn, State.turnOr, hreset, State.turn, State.fresh]
  cases h : (s.takes rest).coreTurn t <;> simp [State.takes] at h <;> simp [h, mapNext, unlessStalled, State.takes]

/-- A placed tile that is not fenced and has not settled takes its cycle, in the mode that it is in. -/
theorem coreTurn_placed {s : State} {t : Nat} (hregion : (s.tile t).region ≠ none) (hfence : (s.tile t).fenced = false)
    (hhalt : (s.tile t).halt ≠ .settled) :
    s.coreTurn t = mapNext (fun u => u.endCycle t) (if (s.tile t).replay then ((s.tick t).updTile t Tile.nextCycle).replaySlot t
      else (s.tick t).normalCycle t) := by
  have hsome : (s.tile t).region.isNone = false := by cases h : (s.tile t).region <;> simp_all
  simp only [State.coreTurn, hsome, hfence, Bool.or_self, beq_eq_false_iff_ne.mpr hhalt, Bool.false_eq_true, if_false]
  generalize (if (s.tile t).replay then ((s.tick t).updTile t Tile.nextCycle).replaySlot t else (s.tick t).normalCycle t) = o
  cases o <;> rfl

@[simp] theorem atIssue_recheck (s : State) : (atIssue s).cur.recheck = s.cur.recheck := by
  unfold atIssue; split <;> simp

@[simp] theorem atIssue_mismatch (s : State) : (atIssue s).curT.mismatch = s.curT.mismatch := by
  unfold atIssue; split <;> simp [setCur_curT]

/-- The head at the PC of a line decodes to an instruction, and nothing of fetch or decode traps there (R185). -/
structure DecodesAt (th : Thread) (l : List Parcel) (i : Instr) : Prop where
  sound : lineMalformed l = false
  goesOn : th.breaks = false
  even : th.pc.toNat % 2 = 0
  pos : 1 ≤ th.pc.toNat / 2 % 32
  within : th.pc.toNat / 2 % 32 ≤ lineHeads l
  decoded : decode (lineHead l (th.pc.toNat / 2 % 32)) (lineTail l (th.pc.toNat / 2 % 32)) = some i

/-- An instruction that decodes at the PC issues, where no checker mismatch is outstanding. -/
theorem issueFrom_decoded {s : State} {l : List Parcel} {i : Instr} (hat : DecodesAt s.cur l i)
    (hre : s.cur.recheck = .no) (hmis : s.curT.mismatch = .no) :
    s.issueFrom l = mapNext (fun u => (atIssue s).grantRows u i) (exec i (atIssue s)) := by
  have hissue : (if (s.cur.bskip && s.cur.pc == s.cur.bpc) = true then s.setCur { s.cur with bskip := false } else s) = atIssue s := by
    simp [atIssue]
  have heven := hat.even
  have hpos := hat.pos
  have hwithin := hat.within
  simp only [State.issueFrom, hat.sound, hat.goesOn, hissue, hat.decoded, Bool.false_eq_true, if_false]
  rw [if_neg (by omega), if_neg (by omega)]
  simp only [State.checked, atIssue_recheck, atIssue_mismatch, hre, hmis, if_true]
  cases exec i (atIssue s) <;> rfl

theorem fetched_decoded {s : State} {l : List Parcel} {i : Instr} (hfetch : s.cur.fetchable s.pkg s.curTile = true)
    (hline : s.cur.line s.cur.pc = some l) (hat : DecodesAt s.cur l i) (hre : s.cur.recheck = .no)
    (hmis : s.curT.mismatch = .no) :
    s.fetched = mapNext (fun u => (atIssue s).grantRows u i) (exec i (atIssue s)) := by
  simp only [State.fetched, hfetch, hline, issueFrom_decoded hat hre hmis, Bool.not_true, Bool.false_eq_true, if_false]

/-- The state in which thread h of tile t takes a slot. -/
def State.atThread (s : State) (t h : Nat) : State := { s with curTile := t, curThr := h }

/-- A slot goes to a thread: what its fetch comes to, and what the thread does around it. -/
theorem issue_eq (s : State) (t h : Nat) : s.issue t h = mapNext (s.atThread t h).afterIssue (s.atThread t h).fetched := by
  change (match (s.atThread t h).fetched with
    | Host.Outcome.next s' => Host.Outcome.next ((s.atThread t h).afterIssue s')
    | o => o) = _
  cases (s.atThread t h).fetched <;> rfl

@[simp] theorem atThread_pkg (s : State) (t h : Nat) : (s.atThread t h).pkg = s.pkg := rfl
@[simp] theorem atThread_curTile (s : State) (t h : Nat) : (s.atThread t h).curTile = t := rfl

/-- A slot whose thread has an instruction at hand executes it. -/
theorem issue_decoded {s : State} {t h p : Nat} {l : List Parcel} {i : Instr} (hpkg : s.pkg = p)
    (hfetch : (s.atThread t h).cur.fetchable p t = true)
    (hline : (s.atThread t h).cur.line (s.atThread t h).cur.pc = some l) (hat : DecodesAt (s.atThread t h).cur l i)
    (hre : (s.atThread t h).cur.recheck = .no) (hmis : (s.atThread t h).curT.mismatch = .no) :
    s.issue t h = mapNext (fun u => (s.atThread t h).afterIssue ((atIssue (s.atThread t h)).grantRows u i))
      (exec i (atIssue (s.atThread t h))) := by
  subst hpkg
  rw [issue_eq, fetched_decoded (by simpa using hfetch) hline hat hre hmis]
  cases exec i (atIssue (s.atThread t h)) <;> simp only [mapNext_next, mapNext_fault, mapNext_refused]

/-- The cycle of a core gives its slot to the thread that the rotation chooses (R11). -/
theorem normalCycle_chosen {s : State} {t h p : Nat} (hpkg : s.pkg = p)
    (hchoose : ((s.updTile t fun x => x.walkAll p t).tile t).choose p t = some h) :
    s.normalCycle t = ((s.updTile t fun x => x.walkAll p t).updTile t fun x => { x with rot := h }).issue t h := by
  unfold State.normalCycle
  dsimp only
  rw [State.updTile_pkg, hpkg, hchoose]

@[simp] theorem tick_pkg (s : State) (t : Nat) : (s.tick t).pkg = s.pkg := by
  unfold State.tick; dsimp only; split <;> rfl

/-- The turn of a core whose cycle comes to one thing or another by what its instruction gives. -/
theorem step_core_of_exec {s : State} {rest : List Turn} {t : Nat} {f : State → State}
    {o : Host.Outcome State Fault Refusal} (hpow : s.powered = true) (hreset : s.evo.inReset = false)
    (hagenda : s.agenda = .core t :: rest) (hturn : (s.takes rest).coreTurn t = mapNext (fun u => u.endCycle t) (mapNext f o)) :
    step s = mapNext (fun u => unlessStalled (s.takes rest) ((f u).endCycle t)) o := by
  rw [step_core hpow hreset hagenda, hturn]
  cases o <;> simp only [mapNext_next, mapNext_fault, mapNext_refused]

/-- The state in which the cycle of a core outside replay mode gives its slot to thread h. -/
def State.slotFor (s : State) (t h p : Nat) : State :=
  ((s.updTile t fun x => x.walkAll p t).updTile t fun x => { x with rot := h }).atThread t h

/-- The thread that the rotation chooses executes the instruction at its PC. -/
theorem normalCycle_decoded {s : State} {t h p : Nat} {l : List Parcel} {i : Instr} (hpkg : s.pkg = p)
    (hchoose : ((s.updTile t fun x => x.walkAll p t).tile t).choose p t = some h)
    (hfetch : (s.slotFor t h p).cur.fetchable p t = true)
    (hline : (s.slotFor t h p).cur.line (s.slotFor t h p).cur.pc = some l)
    (hat : DecodesAt (s.slotFor t h p).cur l i) (hre : (s.slotFor t h p).cur.recheck = .no)
    (hmis : (s.slotFor t h p).curT.mismatch = .no) :
    s.normalCycle t = mapNext (fun u => (s.slotFor t h p).afterIssue ((atIssue (s.slotFor t h p)).grantRows u i))
      (exec i (atIssue (s.slotFor t h p))) := by
  rw [normalCycle_chosen hpkg hchoose]
  exact issue_decoded (by simpa using hpkg) hfetch hline hat hre hmis

theorem coreTurn_normal {s : State} {t : Nat} (hregion : (s.tile t).region ≠ none) (hfence : (s.tile t).fenced = false)
    (hhalt : (s.tile t).halt = .running) (hnormal : (s.tile t).replay = false) :
    s.coreTurn t = mapNext (fun u => u.endCycle t) ((s.tick t).normalCycle t) := by
  rw [coreTurn_placed hregion hfence (by simp [hhalt]), hnormal, if_neg Bool.false_ne_true]

/-- Settles O5: the turn of the core, its cycle, its slot and its fetch each give way to what comes next. -/
theorem stepRunsDecoded : Obligations.StepRunsDecoded := by
  intro s rest t h l i hpow hreset hagenda hregion hfence hhalt hreplay s0 s1 hchoose s2 hfetch hline hsound hbreaks
    k heven hpos hheads hdec hre hmis s3
  have hcycle : (s0.tick t).normalCycle t = mapNext (fun u => s2.afterIssue (s3.grantRows u i)) (exec i s3) :=
    normalCycle_decoded (tick_pkg s0 t) hchoose hfetch hline ⟨hsound, hbreaks, heven, hpos, hheads, hdec⟩ hre hmis
  have hturn : (s.takes rest).coreTurn t = mapNext (fun u => u.endCycle t)
      (mapNext (fun u => s2.afterIssue (s3.grantRows u i)) (exec i s3)) := by
    rw [← hcycle]
    exact coreTurn_normal hregion hfence hhalt hreplay
  have hstep := step_core_of_exec hpow hreset hagenda hturn
  rw [hstep]
  cases exec i s3 with
  | next s4 => rfl
  | fault r => rfl
  | refused r => rfl
end Sys2Proof.Machine

namespace Sys2Proof.Machine
open Sys2Proof.Claims

/-! ## A REMOVED for a thread in PDRAIN (R178, R201) -/

/-- A REMOVED that answers the blocking request with tag 5. -/
def removedAnswer : Flit := { op := .removed, tag := 5 }

/-- The operation outstanding under that tag, a blocking request of thread 0. -/
def removedRequest : Posted := { tag := 5, kind := .request 0, flit := { op := .ldc }, addr := 0, pc := 0, head := 0, opnd := 0 }

/-- Thread 0 of tile 0 waits in PDRAIN while a blocking request stands under its name, whose REMOVED has come. -/
def drainingAtRemoved : State :=
  { tiles := [(0, { threads := [(0, { wait := .pdrain })], ejB := [removedAnswer], posted := [removedRequest] })] }

theorem comesBack_drainingAtRemoved : comesBack drainingAtRemoved 0 removedAnswer [] := by
  unfold comesBack; decide

theorem drainingAtRemoved_wait : ∀ k, k < 8 → (drainingAtRemoved.thr 0 k).wait = .none ∨ (drainingAtRemoved.thr 0 k).wait = .pdrain := by
  decide

theorem outstanding_drainingAtRemoved : outstanding drainingAtRemoved 0 removedAnswer removedRequest := by
  refine ⟨by decide, rfl, fun k i x hk hw => ?_⟩
  rcases drainingAtRemoved_wait k hk with h | h <;> simp [h] at hw

/-- The RETIRED count of thread 0 of tile 0 where an outcome goes on. -/
def retiredAfter : Host.Outcome State Fault Refusal → Word
  | .next u => (u.thr 0 0).retired
  | _ => 0

theorem removed_retires_draining : retiredAfter (exec (.removed 0) drainingAtRemoved) = 1 := by decide +kernel

theorem not_waitAnswers : ¬ WaitAnswers := by
  intro hall
  obtain ⟨-, hanswer, -⟩ := hall drainingAtRemoved 0 0 removedAnswer [] (by decide)
  obtain ⟨-, -, hremoved⟩ := hanswer removedRequest comesBack_drainingAtRemoved outstanding_drainingAtRemoved
  obtain ⟨u, hexec, -, -, -, -, hretired⟩ := hremoved rfl rfl
  have hcount := removed_retires_draining
  rw [hexec, retiredAfter, hretired] at hcount
  exact absurd hcount (by decide)

/-- Refutes O50: in WaitAnswers, a REMOVED ends a blocking request that stands under the name of a thread in PDRAIN, which then
retires: nothing that it awaits is outstanding. The clause promises the PC and the RETIRED count of such a thread unchanged. -/
theorem not_answersAndTimers : ¬ Obligations.AnswersAndTimers := fun h => not_waitAnswers h.2.2.2
end Sys2Proof.Machine

namespace Sys2Proof.Machine
open Sys2Proof.Claims

/-! ## Walks of one copy command for two pages (R347, R350) -/

/-- The walk of thread 0 of tile 0 for the page at 0 of context 0, which is not valid. -/
def threadMiss : WalkReq := { agent := .thread 0 0, ctx := 0, va := 0, write := false, read := true, user := true }

/-- The walks of copy entry 0 of tile 0, for the same page and for the next one. -/
def copyMiss : WalkReq := { threadMiss with agent := .copy 0 0 }
def nextPageMiss : WalkReq := { copyMiss with va := 2 ^ 16 }

/-- A port at which the thread and the active copy command miss on one page, and the command on a second page too. -/
def sharedMiss : State :=
  { tiles := [(0, { threads := [(0, { wait := .walk })], copyq := [(0, { state := .active })] })]
    clusters := [(0, { walks := [threadMiss, copyMiss, nextPageMiss] })] }

theorem sharedMiss_noWait : noWait sharedMiss := by
  intro c
  simp [State.channelWaits, State.repairing, sharedMiss, mget]

/-- The walks that a port of cluster 0 still has to make where an outcome goes on. -/
def walksAfter : Host.Outcome State Fault Refusal → List WalkReq
  | .next u => (u.cluster 0).walks
  | _ => []

theorem pageWalk_drops_stopped_copy : walksAfter (exec (.pageWalk 0) sharedMiss) = [] := by decide +kernel

theorem not_pageWalks : ¬ PageWalks := by
  intro hall
  obtain ⟨⟨u, hexec, hwalks⟩, -⟩ := hall sharedMiss 0 0 0 threadMiss [copyMiss, nextPageMiss] (.refused, none) (by decide) rfl (by decide) sharedMiss_noWait
  have hnone := pageWalk_drops_stopped_copy
  rw [hexec, walksAfter, hwalks] at hnone
  exact absurd hnone (by decide)

/-- Refutes O53: in PageWalks, a walk that is refused for good for a copy command that shares it stops the command, and with it
goes the walk that the command still has to make for another page. The clause promises that only walks of the shared page go. -/
theorem not_agentAndPortSteps : ¬ Obligations.AgentAndPortSteps := fun h => not_pageWalks h.2.1
end Sys2Proof.Machine

namespace Sys2Proof.Machine
open Sys2Proof.Claims

/-! ## A wear counter leaves the rest of the package (R392) -/

/-- What charging a wear unit leaves: everything but Evodon's state. -/
theorem charge_frame (s : State) (k u a : Nat) :
    ∃ e, s.charge k u a = { s with evo := e } ∧
      (mget {} e.wear (wearKey k u)).count = min 65535 ((mget {} s.evo.wear (wearKey k u)).count + 1) := by
  unfold State.charge
  dsimp only
  split
  · exact ⟨_, rfl, by simp⟩
  · exact ⟨_, rfl, by simp⟩

/-! ## The first mismatch (R23, R422) -/

theorem forfeited_iff_not_reachedW (s u : State) : forfeited s.cur u.cur = true ↔ ¬reachedW s u := by
  simp [forfeited, reachedW, and_assoc]

theorem checked_passes {s : State} (h : s.cur.recheck = .passes) (i : Instr) :
    s.checked i = exec i (s.setCur { s.cur with recheck := .no }) := by
  simp only [State.checked, h]

theorem checked_mismatch {s u : State} {i : Instr} (hre : s.cur.recheck = .no) (hmis : s.curT.mismatch ≠ .no)
    (hexec : exec i s = .next u) (hw : ¬reachedW s u) : s.checked i = .next u := by
  simp only [State.checked, hre, hmis, hexec, if_false, (forfeited_iff_not_reachedW s u).mpr hw, if_true]

/-- The tile after the first mismatch: the one to come has been taken. -/
def State.mismatchTaken (s : State) : State := s.updTile s.curTile fun x => { x with mismatch := .no }

theorem mismatchTaken_thr (s : State) (t h : Nat) : s.mismatchTaken.thr t h = s.thr t h := updTile_thr s s.curTile t h rfl

/-- The state after a first mismatch: the second execution is outstanding, the wear counter has counted. -/
def State.rechecking (s : State) (e : Evodon) : State :=
  ({ s.mismatchTaken with evo := e } : State).setCur { s.cur with recheck := s.curT.mismatch }

theorem checked_first {s u : State} {i : Instr} (hre : s.cur.recheck = .no) (hmis : s.curT.mismatch ≠ .no)
    (hexec : exec i s = .next u) (hw : reachedW s u) :
    ∃ e, s.checked i = .next (s.rechecking e) ∧ (mget {} e.wear (wearKey 3 (clusterOf s.curTile))).count =
      min 65535 ((mget {} s.evo.wear (wearKey 3 (clusterOf s.curTile))).count + 1) := by
  have hgone : forfeited s.cur u.cur = false := by
    simpa using (forfeited_iff_not_reachedW s u).not.mpr (not_not.mpr hw)
  obtain ⟨e, hcharge, hcount⟩ := charge_frame s.mismatchTaken 3 (clusterOf s.curTile) 0
  refine ⟨e, ?_, hcount⟩
  have hcur : ({ s.mismatchTaken with evo := e } : State).cur = s.cur := mismatchTaken_thr s _ _
  have hstep : s.checked i = .next ((s.mismatchTaken.charge 3 (clusterOf s.curTile)).setCur
      { (s.mismatchTaken.charge 3 (clusterOf s.curTile)).cur with recheck := s.curT.mismatch }) := by
    simp only [State.checked, hre, hmis, hexec, if_false, hgone, Bool.false_eq_true]
    rfl
  rw [hstep, hcharge, hcur, State.rechecking]

theorem rechecking_mismatch (s : State) (e : Evodon) : ((s.rechecking e).tile s.curTile).mismatch = .no := by
  have hcur : ({ s.mismatchTaken with evo := e } : State).curT = { s.curT with mismatch := .no } :=
    (show _ = s.mismatchTaken.tile s.curTile from rfl).trans (updTile_tile_self s s.curTile _)
  have h : (s.rechecking e).curT.mismatch = .no := by
    rw [State.rechecking, setCur_curT, hcur]
    rfl
  exact h

theorem rechecking_thr_other (s : State) (e : Evodon) {t h : Nat} (hne : ¬(t = s.curTile ∧ h = s.curThr)) :
    (s.rechecking e).thr t h = s.thr t h :=
  (setThr_thr_other { s.mismatchTaken with evo := e } _ hne).trans (mismatchTaken_thr s t h)

theorem firstMismatch : FirstMismatch := by
  intro s i
  refine ⟨fun hre hmis u hexec => ⟨fun hw => ?_, checked_mismatch hre hmis hexec⟩, fun hp => checked_passes hp i⟩
  obtain ⟨e, hv, hcount⟩ := checked_first hre hmis hexec hw
  exact ⟨_, hv, setCur_cur _ _, rechecking_mismatch s e, rfl, fun t h hne => rechecking_thr_other s e hne, hcount⟩
end Sys2Proof.Machine

namespace Sys2Proof.Machine
open Sys2Proof.Claims

/-! ## The end of a cycle (R16, R202) -/

theorem foldl_range_fixed {α : Type} {f : α → Nat → α} {a : α} {n : Nat} (h : ∀ k, k < n → f a k = a) :
    (List.range n).foldl f a = a := by
  induction n with
  | zero => rfl
  | succ n ih => rw [List.range_succ, List.foldl_append, ih fun k hk => h k (by omega), List.foldl_cons, List.foldl_nil, h n (by omega)]

/-- No thread of the tile waits for another that it stops. -/
def State.noCtxWait (s : State) (t : Nat) : Prop := ∀ k, k < 8 → ∀ i h, (s.thr t k).wait ≠ .ctx i h

theorem ctxCheck_of_no_ctx {s : State} {t h : Nat} (hw : ∀ i k, (s.thr t h).wait ≠ .ctx i k) : s.ctxCheck t h = s := by
  unfold State.ctxCheck
  split
  · next i k heq => exact absurd heq (hw i k)
  · rfl

theorem ctxChecks_of_noCtxWait {s : State} {t : Nat} (hw : s.noCtxWait t) : s.ctxChecks t = s :=
  foldl_range_fixed fun k hk => ctxCheck_of_no_ctx (hw k hk)

/-- The end of a cycle in replay mode writes a tile back as it stands. -/
theorem endCycle_replay {s : State} {t : Nat} (hreplay : (s.tile t).replay = true) (hw : s.noCtxWait t) :
    s.endCycle t = s.setTile t (s.tile t) := by
  have hsame : (s.updTile t fun x => if x.replay then x else x.nextCycle) = s.setTile t (s.tile t) := by
    simp only [State.updTile, hreplay, if_true]
  have hw' : (s.setTile t (s.tile t)).noCtxWait t := fun k hk => by
    rw [State.thr, setTile_tile_self]
    exact hw k hk
  rw [State.endCycle, hsame, ctxChecks_of_noCtxWait hw']

/-! ## Slots of replay mode (R364-R366) -/

/-- The state in which a cycle of a tile in replay mode gives its slot. -/
def State.replayCycle (s : State) (t : Nat) : State := (s.tick t).updTile t Tile.nextCycle

theorem coreTurn_replay {s : State} {t : Nat} (hregion : (s.tile t).region ≠ none) (hfence : (s.tile t).fenced = false)
    (hhalt : (s.tile t).halt ≠ .settled) (hreplay : (s.tile t).replay = true) :
    s.coreTurn t = mapNext (fun u => u.endCycle t) ((s.replayCycle t).replaySlot t) := by
  rw [coreTurn_placed hregion hfence hhalt, hreplay, if_pos rfl]
  rfl

theorem updCluster_tile (s : State) (c t : Nat) (f : Cluster → Cluster) : (s.updCluster c f).tile t = s.tile t := by
  rw [State.tile, State.updCluster_tiles, State.tile]

@[simp] theorem tick_tile (s : State) (t : Nat) : (s.tick t).tile t = { s.tile t with cycle := (s.tile t).cycle + 1 } := by
  unfold State.tick
  dsimp only
  split
  · rw [updCluster_tile, updTile_tile_self]
  · rw [updTile_tile_self]

@[simp] theorem tick_mem (s : State) (t : Nat) : (s.tick t).mem = s.mem := by
  unfold State.tick; dsimp only; split <;> rfl

@[simp] theorem tick_stalled (s : State) (t : Nat) : (s.tick t).stalled = s.stalled := by
  unfold State.tick; dsimp only; split <;> rfl

theorem replayCycle_tile (s : State) (t : Nat) :
    (s.replayCycle t).tile t = Tile.nextCycle { s.tile t with cycle := (s.tile t).cycle + 1 } := by
  rw [State.replayCycle, updTile_tile_self, tick_tile]

/-- The rotation pointer of a tile stands at q. -/
def State.pointAt (s : State) (t q : Nat) : State := s.updTile t fun x => { x with rot := q }

/-- What a cycle that gives its slot to thread h has come to: thread h is y, the pointer stands at r, and nothing else of the
threads has changed. -/
structure SlotGiven (s v : State) (t h : Nat) (y : Thread) (r : Nat) : Prop where
  mem : v.mem = s.mem
  pkg : v.pkg = s.pkg
  stalled : v.stalled = s.stalled
  replay : (v.tile t).replay = (s.tile t).replay
  halt : (v.tile t).halt = (s.tile t).halt
  mismatch : (v.tile t).mismatch = (s.tile t).mismatch
  cycle : (v.tile t).cycle = (s.tile t).cycle + 1
  rot : (v.tile t).rot = r
  own : v.thr t h = y
  others : ∀ k, k ≠ h → v.thr t k = s.thr t k

@[simp] theorem replayCycle_thr (s : State) (t k : Nat) : (s.replayCycle t).thr t k = s.thr t k := by
  rw [State.thr, replayCycle_tile]
  rfl

theorem slotGiven_replayCycle (s : State) (t h : Nat) : SlotGiven s (s.replayCycle t) t h (s.thr t h) (s.tile t).rot := by
  refine ⟨?_, ?_, ?_, ?_, ?_, ?_, ?_, ?_, replayCycle_thr s t h, fun k _ => replayCycle_thr s t k⟩
  · exact tick_mem s t
  · exact tick_pkg s t
  · exact tick_stalled s t
  · rw [replayCycle_tile]; rfl
  · rw [replayCycle_tile]; rfl
  · rw [replayCycle_tile]; rfl
  · rw [replayCycle_tile]; rfl
  · rw [replayCycle_tile]; rfl

section
variable {s v : State} {t h r : Nat} {y : Thread}

theorem SlotGiven.setThr (hv : SlotGiven s v t h y r) (z : Thread) : SlotGiven s (v.setThr t h z) t h z r := by
  have ht : (v.setThr t h z).tile t = (v.tile t).setThread h z := setThr_tile_self v t h z
  refine ⟨hv.mem, hv.pkg, hv.stalled, ?_, ?_, ?_, ?_, ?_, setThr_thr_self v t h z, fun k hk => ?_⟩
  · rw [ht]; exact hv.replay
  · rw [ht]; exact hv.halt
  · rw [ht]; exact hv.mismatch
  · rw [ht]; exact hv.cycle
  · rw [ht]; exact hv.rot
  · rw [setThr_thr_other v z (fun hne => hk hne.2), hv.others k hk]

theorem SlotGiven.pointAt (hv : SlotGiven s v t h y r) (q : Nat) : SlotGiven s (v.pointAt t q) t h y q := by
  have hthr (k : Nat) : (v.pointAt t q).thr t k = v.thr t k := updTile_thr v t t k rfl
  refine ⟨hv.mem, hv.pkg, hv.stalled, ?_, ?_, ?_, ?_, ?_, (hthr h).trans hv.own, fun k hk => (hthr k).trans (hv.others k hk)⟩
  · rw [State.pointAt, updTile_tile_self]; exact hv.replay
  · rw [State.pointAt, updTile_tile_self]; exact hv.halt
  · rw [State.pointAt, updTile_tile_self]; exact hv.mismatch
  · rw [State.pointAt, updTile_tile_self]; exact hv.cycle
  · rw [State.pointAt, updTile_tile_self]

/-- Writing a tile back as it stands changes nothing that is said of the slot. -/
theorem SlotGiven.same (hv : SlotGiven s v t h y r) : SlotGiven s (v.setTile t (v.tile t)) t h y r := by
  have hthr (k : Nat) : (v.setTile t (v.tile t)).thr t k = v.thr t k := by rw [State.thr, setTile_tile_self, State.thr]
  refine ⟨hv.mem, hv.pkg, hv.stalled, ?_, ?_, ?_, ?_, ?_, (hthr h).trans hv.own, fun k hk => (hthr k).trans (hv.others k hk)⟩
  · rw [setTile_tile_self]; exact hv.replay
  · rw [setTile_tile_self]; exact hv.halt
  · rw [setTile_tile_self]; exact hv.mismatch
  · rw [setTile_tile_self]; exact hv.cycle
  · rw [setTile_tile_self]; exact hv.rot

end

/-- The next turn is a cycle of the core of a placed tile in replay mode. -/
structure ReplayTurn (s : State) (rest : List Turn) (t : Nat) : Prop where
  powered : s.powered = true
  running : s.evo.inReset = false
  agenda : s.agenda = .core t :: rest
  placed : (s.tile t).region ≠ none
  unfenced : (s.tile t).fenced = false
  replay : (s.tile t).replay = true
  noCtx : s.noCtxWait t

/-- A step leaves thread h of tile t as y and the pointer at r, and nothing else of the threads or of memory changed. -/
def StepGives (s : State) (t h : Nat) (y : Thread) (r : Nat) : Prop :=
  ∃ u, step s = .next u ∧ (u.mem = s.mem ∧ (u.tile t).cycle = (s.tile t).cycle + 1 ∧
    ∀ k, k < 8 → k ≠ h → u.thr t k = s.thr t k) ∧ u.thr t h = y ∧ (u.tile t).rot = r

/-- The cycle that the turn begins. -/
def State.began (s : State) (rest : List Turn) (t : Nat) : State := (s.takes rest).replayCycle t

theorem slotGiven_began (s : State) (rest : List Turn) (t h : Nat) :
    SlotGiven (s.takes rest) (s.began rest t) t h (s.thr t h) (s.tile t).rot := slotGiven_replayCycle (s.takes rest) t h

theorem began_thr (s : State) (rest : List Turn) (t k : Nat) : (s.began rest t).thr t k = s.thr t k :=
  replayCycle_thr (s.takes rest) t k

/-- A cycle whose slot comes to one state ends there. -/
theorem ReplayTurn.step_of_slot {s v : State} {rest : List Turn} {t h r : Nat} {y : Thread} (hs : ReplayTurn s rest t)
    (hhalt : (s.tile t).halt ≠ .settled) (hy : y.wait = (s.thr t h).wait)
    (hslot : (s.began rest t).replaySlot t = .next v) (hv : SlotGiven (s.takes rest) v t h y r) : StepGives s t h y r := by
  have hturn : (s.takes rest).coreTurn t = .next (v.endCycle t) := by
    rw [coreTurn_replay (s := s.takes rest) hs.placed hs.unfenced hhalt hs.replay]
    exact congrArg (mapNext fun u => u.endCycle t) hslot
  have hwait : v.noCtxWait t := fun k hk i j => by
    by_cases hkh : k = h
    · rw [hkh, hv.own, hy, ← hkh]
      exact hs.noCtx k hk i j
    · rw [hv.others k hkh]
      exact hs.noCtx k hk i j
  have hend : v.endCycle t = v.setTile t (v.tile t) := endCycle_replay (hv.replay.trans hs.replay) hwait
  have hu := hv.same
  refine ⟨v.setTile t (v.tile t), ?_, ⟨hu.mem, hu.cycle, fun k _ hk => hu.others k hk⟩, hu.own, hu.rot⟩
  rw [step_core hs.powered hs.running hs.agenda, hturn, mapNext_next, unlessStalled, hend, hu.stalled, State.takes,
    if_neg Bool.false_ne_true]

/-! ### What a slot comes to -/

/-- No thread of the tile stands within a skip walk or an access of several passes. -/
def Tile.idle (x : Tile) : Prop := ∀ k, k < 8 → (x.thread k).skip = 0 ∧ (x.thread k).served = []

theorem walkOwing_of_idle {x : Tile} (hx : x.idle) (p t : Nat) : x.walkOwing p t = x := by
  have hwalk : x.walkAll p t = x := foldl_range_fixed fun k hk => by simp [(hx k hk).1]
  rw [Tile.walkOwing, hwalk]
  exact foldl_range_fixed fun k _ => by simp

theorem unfinished_of_idle {x : Tile} (hx : x.idle) (p t : Nat) : x.unfinished p t = none := by
  rw [Tile.unfinished, List.find?_eq_none]
  intro k hk
  obtain ⟨hskip, hserved⟩ := hx k (List.mem_range.mp hk)
  simp [Thread.atBoundary, hskip, hserved]

/-- While every thread is at a boundary a halt gives no slot. -/
theorem replayHalt_of_idle {s : State} {t : Nat} (hidle : (s.tile t).idle) : s.replayHalt t = .next (s.setTile t (s.tile t)) := by
  have hsame : (s.updTile t fun x => x.walkOwing s.pkg t) = s.setTile t (s.tile t) := by
    rw [show (s.updTile t fun x => x.walkOwing s.pkg t) = s.setTile t ((s.tile t).walkOwing s.pkg t) from rfl,
      walkOwing_of_idle hidle]
  have hnone : ((s.setTile t (s.tile t)).tile t).unfinished (s.setTile t (s.tile t)).pkg t = none := by
    rw [setTile_tile_self]
    exact unfinished_of_idle hidle _ _
  unfold State.replayHalt
  dsimp only
  rw [hsame, hnone]

theorem stopping_of_no_ctx {x : Tile} (hx : ∀ k, k < 8 → ∀ i j, (x.thread k).wait ≠ .ctx i j) (h : Nat) :
    x.stopping h = false := by
  rw [Tile.stopping, List.any_eq_false]
  intro k hk
  split
  · next i j heq => exact absurd heq (hx k (List.mem_range.mp hk) i j)
  · exact Bool.false_ne_true

/-- A skip walk of a slot passes one annulled instruction. -/
theorem walkSkips_one {th : Thread} {p t : Nat} {l : List Parcel} (hskip : th.skip ≠ 0) (hline : th.line th.pc = some l)
    (hfetch : th.fetchable p t = true) (hsound : lineMalformed l = false) :
    th.walkSkips p t 1 = { th with pc := th.succ, skip := th.skip - 1 } := by
  rw [Thread.fetchable] at hfetch
  simp [Thread.walkSkips, hskip, hline, hfetch, hsound]

theorem replaySlot_halting {s : State} {t : Nat} (hhalt : (s.tile t).halt ≠ .running) : s.replaySlot t = s.replayHalt t := by
  simp [State.replaySlot, hhalt]

section
variable {s : State} {t h : Nat} (hrot : (s.tile t).rot % 8 = h) (hhalt : (s.tile t).halt = .running)
include hrot hhalt

theorem replaySlot_owed (howed : (s.thr t h).owed ≠ 0) :
    s.replaySlot t = .next ((s.setThr t h { s.thr t h with owed := (s.thr t h).owed - 1 }).pointAt t ((h + 1) % 8)) := by
  rw [State.thr] at howed
  simp [State.replaySlot, State.pointAt, hrot, hhalt, howed, State.thr]

theorem replaySlot_parked (howed : (s.thr t h).owed = 0) (hrun : (s.thr t h).run ≠ .rotation) :
    s.replaySlot t = .next (s.pointAt t ((h + 1) % 8)) := by
  rw [State.thr] at howed hrun
  simp [State.replaySlot, State.pointAt, hrot, hhalt, howed, hrun]

variable (howed : (s.thr t h).owed = 0) (hrun : (s.thr t h).run = .rotation) (hstop : (s.tile t).stopping h = false)
include howed hrun hstop

theorem replaySlot_no_line (hline : (s.thr t h).hasLine s.pkg t = false) : s.replaySlot t = .next s := by
  rw [State.thr] at howed hrun hline
  simp [State.replaySlot, hrot, hhalt, howed, hrun, hstop, hline]

theorem replaySlot_walk {y : Thread} (hline : (s.thr t h).hasLine s.pkg t = true) (hskip : (s.thr t h).skip ≠ 0)
    (hy : (s.thr t h).walkSkips s.pkg t 1 = y) (hpassed : y.skip ≠ (s.thr t h).skip) :
    s.replaySlot t = .next ((s.setThr t h y).pointAt t ((h + 1) % 8)) := by
  rw [State.thr] at howed hrun hline hskip hy hpassed
  simp [State.replaySlot, State.pointAt, hrot, hhalt, howed, hrun, hstop, hline, hskip, hy, hpassed]

theorem replaySlot_issue (hline : (s.thr t h).hasLine s.pkg t = true) (hskip : (s.thr t h).skip = 0) :
    s.replaySlot t = (s.pointAt t ((h + 1) % 8)).issue t h := by
  rw [State.thr] at howed hrun hline hskip
  simp [State.replaySlot, State.pointAt, hrot, hhalt, howed, hrun, hstop, hline, hskip]

end

/-- The slot of an owner that has an instruction at hand executes it. -/
theorem replaySlot_decoded {s v : State} {t h r : Nat} {l : List Parcel} {i : Instr} (hv : SlotGiven s v t h (s.thr t h) r)
    (hslot : v.replaySlot t = (v.pointAt t ((h + 1) % 8)).issue t h) (hfetch : (s.thr t h).fetchable s.pkg t = true)
    (hline : (s.thr t h).line (s.thr t h).pc = some l) (hat : DecodesAt (s.thr t h) l i)
    (hre : (s.thr t h).recheck = .no) (hmis : (s.tile t).mismatch = .no) :
    v.replaySlot t = mapNext (fun u => ((v.pointAt t ((h + 1) % 8)).atThread t h).afterIssue
      ((atIssue ((v.pointAt t ((h + 1) % 8)).atThread t h)).grantRows u i))
        (exec i (atIssue ((v.pointAt t ((h + 1) % 8)).atThread t h))) := by
  have hp := hv.pointAt ((h + 1) % 8)
  have hcur : ((v.pointAt t ((h + 1) % 8)).atThread t h).cur = s.thr t h := hp.own
  have hcurT : ((v.pointAt t ((h + 1) % 8)).atThread t h).curT.mismatch = .no := hp.mismatch.trans hmis
  rw [hslot]
  exact issue_decoded (l := l) hp.pkg (by rwa [hcur]) (by rwa [hcur]) (by rwa [hcur]) (by rwa [hcur]) hcurT

/-! ### The turn, case by case -/

theorem ReplayTurn.stops_not {s : State} {rest : List Turn} {t : Nat} (hs : ReplayTurn s rest t) (h : Nat) :
    ((s.began rest t).tile t).stopping h = false := by
  refine stopping_of_no_ctx (fun k hk i j => ?_) h
  rw [← State.thr, began_thr]
  exact hs.noCtx k hk i j

theorem began_hasLine {s : State} {rest : List Turn} {t h : Nat} {l : List Parcel} (hrun : (s.thr t h).run = .rotation)
    (hline : (s.thr t h).line (s.thr t h).pc = some l) :
    ((s.began rest t).thr t h).hasLine (s.began rest t).pkg t = true := by
  rw [began_thr]
  simp [Thread.hasLine, hline, hrun]

section
variable {s : State} {rest : List Turn} {t h : Nat} (hs : ReplayTurn s rest t)
include hs

theorem ReplayTurn.halting (hhalt : (s.tile t).halt = .halting) (hidle : (s.tile t).idle) :
    StepGives s t h (s.thr t h) (s.tile t).rot := by
  have hb := slotGiven_began s rest t h
  have hhalt' : ((s.began rest t).tile t).halt = .halting := hb.halt.trans hhalt
  have hidle' : ((s.began rest t).tile t).idle := fun k hk => by
    have hk' := hidle k hk
    rwa [← State.thr, ← began_thr s rest] at hk'
  refine hs.step_of_slot (by simp [hhalt]) rfl ?_ hb.same
  rw [replaySlot_halting (by simp [hhalt']), replayHalt_of_idle hidle']

variable (hrot : (s.tile t).rot % 8 = h) (hhalt : (s.tile t).halt = .running)
include hrot hhalt

theorem ReplayTurn.owed (howed : (s.thr t h).owed ≠ 0) :
    StepGives s t h { s.thr t h with owed := (s.thr t h).owed - 1 } ((h + 1) % 8) := by
  have hb := slotGiven_began s rest t h
  have hslot := replaySlot_owed (s := s.began rest t) ((congrArg (· % 8) hb.rot).trans hrot) (hb.halt.trans hhalt)
    (by rwa [began_thr])
  rw [began_thr] at hslot
  exact hs.step_of_slot (by simp [hhalt]) rfl hslot ((hb.setThr _).pointAt _)

variable (howed : (s.thr t h).owed = 0)
include howed

theorem ReplayTurn.parked (hrun : (s.thr t h).run ≠ .rotation) : StepGives s t h (s.thr t h) ((h + 1) % 8) := by
  have hb := slotGiven_began s rest t h
  have hslot := replaySlot_parked (s := s.began rest t) ((congrArg (· % 8) hb.rot).trans hrot) (hb.halt.trans hhalt)
    (by rwa [began_thr]) (by rwa [began_thr])
  exact hs.step_of_slot (by simp [hhalt]) rfl hslot (hb.pointAt _)

variable (hrun : (s.thr t h).run = .rotation)
include hrun

variable (hfetch : (s.thr t h).fetchable s.pkg t = true)
include hfetch

theorem ReplayTurn.lineless (hline : (s.thr t h).line (s.thr t h).pc = none) : StepGives s t h (s.thr t h) (s.tile t).rot := by
  have hb := slotGiven_began s rest t h
  have hslot := replaySlot_no_line (s := s.began rest t) ((congrArg (· % 8) hb.rot).trans hrot) (hb.halt.trans hhalt)
    (by rwa [began_thr]) (by rwa [began_thr]) (hs.stops_not h)
    (by rw [began_thr, hb.pkg]; simp [Thread.hasLine, hline, State.takes, hfetch])
  exact hs.step_of_slot (by simp [hhalt]) rfl hslot hb

variable {l : List Parcel} (hline : (s.thr t h).line (s.thr t h).pc = some l)
include hline

theorem ReplayTurn.walks (hsound : lineMalformed l = false) (hskip : (s.thr t h).skip ≠ 0) :
    StepGives s t h { s.thr t h with pc := (s.thr t h).succ, skip := (s.thr t h).skip - 1 } ((h + 1) % 8) := by
  have hb := slotGiven_began s rest t h
  have hpkg : (s.began rest t).pkg = s.pkg := hb.pkg
  have hslot := replaySlot_walk (s := s.began rest t) ((congrArg (· % 8) hb.rot).trans hrot) (hb.halt.trans hhalt)
    (by rwa [began_thr]) (by rwa [began_thr]) (hs.stops_not h) (began_hasLine hrun hline)
    (by rwa [began_thr]) (by rw [began_thr, hpkg, walkSkips_one hskip hline hfetch hsound]) (by rw [began_thr]; show _ - 1 ≠ _; omega)
  exact hs.step_of_slot (by simp [hhalt]) rfl hslot ((hb.setThr _).pointAt _)

/-- The state in which the owner of the slot issues. -/
theorem ReplayTurn.issues {i : Instr} (hat : DecodesAt (s.thr t h) l i) (hskip : (s.thr t h).skip = 0)
    (hre : (s.thr t h).recheck = .no) (hmis : (s.tile t).mismatch = .no) :
    step s = mapNext (fun u => unlessStalled (s.takes rest)
      (((((s.began rest t).pointAt t ((h + 1) % 8)).atThread t h).afterIssue
        ((atIssue (((s.began rest t).pointAt t ((h + 1) % 8)).atThread t h)).grantRows u i)).endCycle t))
      (exec i (atIssue (((s.began rest t).pointAt t ((h + 1) % 8)).atThread t h))) := by
  have hb := slotGiven_began s rest t h
  have hslot := replaySlot_issue (s := s.began rest t) ((congrArg (· % 8) hb.rot).trans hrot) (hb.halt.trans hhalt)
    (by rwa [began_thr]) (by rwa [began_thr]) (hs.stops_not h) (began_hasLine hrun hline)
    (by rwa [began_thr])
  have hcycle := replaySlot_decoded (s := s.takes rest) hb hslot hfetch hline hat hre hmis
  have hnot : (s.tile t).halt ≠ .settled := by simp [hhalt]
  refine step_core_of_exec hs.powered hs.running hs.agenda ?_
  rw [coreTurn_replay (s := s.takes rest) hs.placed hs.unfenced hnot hs.replay]
  exact congrArg (mapNext fun u => u.endCycle t) hcycle

end

theorem replaySlots : ReplaySlots := by
  intro s rest t hpow hreset hagenda x hregion hfence hreplay hctx h th stays
  have hs : ReplayTurn s rest t := ⟨hpow, hreset, hagenda, hregion, hfence, hreplay, fun k hk i j => hctx k i j hk⟩
  refine ⟨fun hhalt hidle => hs.halting hhalt hidle, fun hhalt howed => hs.owed rfl hhalt howed, fun hhalt howed =>
    ⟨fun hrun => hs.parked rfl hhalt howed hrun, fun hrun hfetch => ⟨fun hline => hs.lineless rfl hhalt howed hrun hfetch hline,
      fun l hline hsound => ⟨fun hskip => hs.walks rfl hhalt howed hrun hfetch hline hsound hskip, fun hskip hbreaks => ?_⟩⟩⟩⟩
  intro s0 s1 s2 k i heven hpos hheads hdec hre hmis s3
  rw [hs.issues rfl hhalt howed hrun hfetch hline ⟨hsound, hbreaks, heven, hpos, hheads, hdec⟩ hskip hre hmis]
  show mapNext (fun u => unlessStalled s0 ((s2.afterIssue (s3.grantRows u i)).endCycle t)) (exec i s3) = _
  cases exec i s3 with
  | next s4 => rfl
  | fault r => rfl
  | refused r => rfl
end Sys2Proof.Machine

namespace Sys2Proof.Machine
open Sys2Proof.Claims

/-! ## The second mismatch (R23, Table 1.3) -/

theorem machineCheck_mismatchEvent {s v : State} (hevo : v.evo = s.evo) (htile : v.curTile = s.curTile) :
    machineCheck s v.mismatchEvent v.mismatchEvent.evo := by
  refine ⟨rfl, ?_, ?_⟩
  · show v.evo.evHead + 1 = _
    rw [hevo]
  · simp only [State.mismatchEvent, State.event, mget_mput_self, hevo, htile]
    simp

theorem machineCheck_of_evo {s v w : State} {e : Evodon} (hv : machineCheck s v e) (hevo : w.evo = v.evo) : machineCheck s w e :=
  ⟨hevo.trans hv.1, hv.2⟩

/-- The state in which the second execution runs. -/
def State.secondRun (s : State) : State := s.setCur { s.cur with recheck := .no }

@[simp] theorem secondRun_cur (s : State) : s.secondRun.cur = { s.cur with recheck := .no } := setCur_cur _ _
@[simp] theorem secondRun_evo (s : State) : s.secondRun.evo = s.evo := rfl
@[simp] theorem secondRun_mem (s : State) : s.secondRun.mem = s.mem := rfl
theorem secondRun_curT (s : State) : s.secondRun.curT = s.curT.setThread s.curThr { s.cur with recheck := .no } := setCur_curT _ _

/-- The log entry of an address that has failed. -/
def State.addressEntry (s : State) (i : Instr) : LogEntry :=
  { h := true, thr := s.curThr, origin := originTile s.curTile, reason := .none, head := s.curHead, cls := 7,
    addr := BitVec.ofNat 64 (addressComputed s.pkg s.cur i), opnd := 0, pc := s.cur.pc }

/-- The state in which the entry of a failed address is logged. -/
def State.addressLogged (s : State) (i : Instr) : State :=
  s.mismatchEvent.logFault s.curTile (s.mismatchEvent.addressEntry i)

/-- A synchronising instruction samples its pending bit before the mismatch is acted on (R303). -/
theorem checked_pending {s : State} {i : Instr} {f : Faulty} (hre : s.cur.recheck = .fails f) (hafp : s.cur.afp = true)
    (hsync : synchronises i = true) :
    s.checked i = (s.secondRun.setCur { s.secondRun.cur with afp := false }).trap 0x0E (asyncEval s.curT) := by
  have hafp' : s.secondRun.cur.afp = true := by simp [hafp]
  have heval : asyncEval s.secondRun.curT = asyncEval s.curT := by rw [secondRun_curT]; rfl
  simp only [State.checked, hre, State.secondMismatch, hsync, if_true]
  rw [← State.secondRun]
  simp only [State.synchronising, hafp', if_true, heval]
  rfl

/-- The rows of Table 1.3, in their order. -/
theorem checked_fails {s : State} {i : Instr} {f : Faulty} (hre : s.cur.recheck = .fails f) (hafp : s.cur.afp = false) :
    s.checked i =
      if f.ctl && producesControl i then s.secondRun.mismatchEvent.trap causePoison 7
      else if f.addr && producesAddress i then (s.secondRun.addressLogged i).done (s.secondRun.addressLogged i).cur
      else s.secondRun.commitFailed i f := by
  have hafp' : s.secondRun.cur.afp = false := by simp [hafp]
  simp only [State.checked, hre, State.secondMismatch]
  rw [← State.secondRun]
  simp only [State.synchronising, hafp', Bool.false_eq_true, if_false, ite_self]
  rfl

theorem synchronises_of_pending {i : Instr} (hi : (∃ ty d a b off, i = .rfadd ty d a b off) ∨ (∃ d a off, i = .ldc d a off) ∨
    (∃ d a off, i = .stp d a off)) : synchronises i = true := by
  obtain ⟨_, _, _, _, _, rfl⟩ | ⟨_, _, _, rfl⟩ | ⟨_, _, _, rfl⟩ := hi <;> rfl

theorem producesControl_of_gives {i : Instr} (hi : givesControl i) : producesControl i = true := by
  cases i
  case j | jl | jr | jlr | cmp | cmpi | tstb | tstg | fcmp | vcmp | kand | kor | knot | eret | syswr => rfl
  all_goals exact hi.elim

theorem producesAddress_of_gives {i : Instr} (hi : givesAddress i) : producesAddress i = true ∧ producesControl i = false := by
  cases i
  case ld | st | ldv | stv | ldvs | stvs | vgath | vscat | ldcap | stcap | putf | putvf | radd | rmin | rmax | rand | ror | rxor
    | rfadd | rcas | rswap | ldc | stp | feset | fsig | scrub | poison => exact ⟨rfl, rfl⟩
  all_goals exact hi.elim

/-! ### A failed control value -/

theorem secondMismatch_control {s : State} {i : Instr} {f : Faulty} (hre : s.cur.recheck = .fails f) (hafp : s.cur.afp = false)
    (hi : givesControl i) (hf : f.ctl = true) :
    ∃ v e, machineCheck s v e ∧ v = { s.secondRun with evo := e } ∧ s.checked i = v.trap 0x08 7 := by
  refine ⟨s.secondRun.mismatchEvent, _, machineCheck_mismatchEvent rfl rfl, rfl, ?_⟩
  rw [checked_fails hre hafp, hf, producesControl_of_gives hi]
  rfl

/-! ### The log entry of a failed address -/

/-- A log with room takes an entry of a thread, whose pending bit it sets (R301-R303). -/
theorem logFault_roomy {s : State} {t : Nat} {e : LogEntry} (hhalt : (s.tile t).halt = .running)
    (hroom : (s.tile t).flog.length < 8) (he : e.h = true) :
    s.logFault t e = (s.updTile t fun x => { x with flog := x.flog ++ [e] }).updThr t e.thr fun th => { th with afp := true } := by
  simp only [State.logFault, hhalt, reduceCtorEq, if_false, State.logNow, he, if_true]
  cases hl : (s.tile t).flog with
  | nil => rfl
  | cons o rest =>
    have hlt : (o :: rest).length < 8 := hl ▸ hroom
    simp only [hlt, if_true]
end Sys2Proof.Machine

namespace Sys2Proof.Machine
open Sys2Proof.Claims

/-! ## A plain tile capability reaches its bytes (R50, R51, R55) -/

theorem low_toNat (r : GReg) : r.low.toNat = r.body.toNat % 2 ^ 64 := by
  simp [GReg.low, BitVec.toNat_setWidth]

theorem upper_toNat (r : GReg) : r.upper.toNat = r.body.toNat / 2 ^ 64 := by
  have := r.body.isLt
  simp only [GReg.upper, BitVec.extractLsb'_toNat, Nat.shiftRight_eq_div_pow]
  omega

theorem field_eq (r : GReg) (lo w : Nat) : field r lo w = r.body.toNat / 2 ^ lo % 2 ^ w := by
  simp [field, BitVec.extractLsb'_toNat, Nat.shiftRight_eq_div_pow]

theorem kind_eq_tile {r : GReg} (hk : r.kind = .tile) : bit r.upper.toNat 63 = false ∧ gaSpace r.low.toNat = 0 := by
  unfold GReg.kind at hk
  split at hk
  · simp at hk
  · next hw =>
    refine ⟨by simpa using hw, ?_⟩
    split at hk
    · assumption
    all_goals simp at hk

theorem wovenCap_of_tile {r : GReg} (hk : r.kind = .tile) : wovenCap r = false := by
  have hw := (kind_eq_tile hk).1
  rw [bit, upper_toNat] at hw
  rw [wovenCap, BitVec.getLsbD, Nat.testBit_eq_decide_div_mod_eq]
  simp only [beq_eq_false_iff_ne, decide_eq_false_iff_not] at *
  omega

theorem space_of_tile {r : GReg} (hk : r.kind = .tile) : space r = 0 := by
  have hs := (kind_eq_tile hk).2
  simp only [gaSpace, bits, low_toNat] at hs
  rw [show space r = field r 44 2 from rfl, field_eq]
  omega

theorem bounds_of_tile {r : GReg} (hk : r.kind = .tile) : r.bounds = baseLen r := by
  have := r.body.isLt
  rw [GReg.bounds, hk, baseLen, wovenCap_of_tile hk, space_of_tile hk]
  simp only [tileBase, tileLen, bits, upper_toNat, field_eq, Bool.false_eq_true, if_false, if_true, Nat.div_div_eq_div_mul,
    Prod.mk.injEq]
  refine ⟨by norm_num, by norm_num⟩

/-- A plain tile capability with the bounds of an access reaches the bytes of the tile that it names. -/
theorem reach_of_names {r : GReg} {pkg t o n : Nat} {disp : Int} (hnames : r.namesTile pkg t = true) (h13 : field r 19 13 = 0)
    (hlo : (baseLen r).1 ≤ o) (hhi : o + n ≤ (baseLen r).1 + (baseLen r).2) (htop : o + n ≤ 2 ^ 19) (hn : 0 < n)
    (hdisp : ((r.low.toNat % 2 ^ 19 : Nat) : Int) + disp = o) : r.reach pkg disp n = .ok (gaSpad t o) := by
  simp only [GReg.namesTile, Bool.and_eq_true, Bool.or_eq_true, beq_iff_eq] at hnames
  obtain ⟨⟨hk, hpkg⟩, htile⟩ := hnames
  have hspace := (kind_eq_tile hk).2
  have hlow := low_toNat r
  have hlt := r.low.isLt
  have hcur : r.low.toNat % 2 ^ 32 = r.low.toNat % 2 ^ 19 := by
    rw [field_eq] at h13
    omega
  rw [GReg.reach, hk]
  simp only [CapKind.offsetWidth, bounds_of_tile hk, hcur, hdisp]
  rw [if_neg (by omega)]
  congr 1
  have hbase : (r.low.toNat / 2 ^ 32 * 2 ^ 32 + o) % 2 ^ 46 = tileY t * 2 ^ 38 + tileX t * 2 ^ 32 + o := by
    simp only [gaTile, gaSpace, bits, tileX, tileY] at *
    omega
  have hlocal : localise pkg (r.low.toNat / 2 ^ 32 * 2 ^ 32 + o) = 2 ^ 63 + (r.low.toNat / 2 ^ 32 * 2 ^ 32 + o) % 2 ^ 46 := by
    rw [localise]
    split_ifs with hl hp
    · rfl
    · rfl
    · exfalso
      simp only [gaLocal, gaPkg, bit, bits, beq_iff_eq] at hl hp hpkg
      omega
  rw [Int.toNat_natCast, hlocal, hbase, gaSpad]
  omega
end Sys2Proof.Machine

namespace Sys2Proof.Machine
open Sys2Proof.Claims

/-! ### A failed address performs nothing and is logged (R23, R303) -/

@[simp] theorem mismatchEvent_cur (s : State) : s.mismatchEvent.cur = s.cur := rfl

/-- The current tile's log with one more entry. -/
def State.flogged (s : State) (e : LogEntry) : State := s.updTile s.curTile fun x => { x with flog := x.flog ++ [e] }

theorem flogged_curT (s : State) (e : LogEntry) : (s.flogged e).curT = { s.curT with flog := s.curT.flog ++ [e] } :=
  updTile_tile_self s s.curTile _

@[simp] theorem flogged_cur (s : State) (e : LogEntry) : (s.flogged e).cur = s.cur := updTile_thr s s.curTile _ _ rfl

theorem addressLogged_eq {s : State} (i : Instr) (hhalt : s.curT.halt = .running) (hroom : s.curT.flog.length < 8) :
    s.addressLogged i = (s.mismatchEvent.flogged (s.mismatchEvent.addressEntry i)).setCur { s.cur with afp := true } := by
  have hlog := logFault_roomy (s := s.mismatchEvent) (t := s.curTile) (e := s.mismatchEvent.addressEntry i) hhalt hroom rfl
  have hcur : (s.mismatchEvent.flogged (s.mismatchEvent.addressEntry i)).cur = s.cur := flogged_cur _ _
  rw [State.addressLogged, hlog, ← hcur]
  rfl

theorem setCur_tile_of_eq {s : State} {t : Nat} (ht : s.curTile = t) (x : Thread) :
    (s.setCur x).tile t = (s.tile t).setThread s.curThr x := by
  subst ht
  exact setCur_curT s x

/-- What retiring leaves of the tile besides its threads and its log. -/
theorem flogged_retired {s : State} {e : LogEntry} {y z : Thread} {u v : State} (hu : u = (s.flogged e).setCur y) (hv : v = u.setCur z) :
    v.mem = s.mem ∧ v.psn = s.psn ∧ v.full = s.full ∧ v.evo = s.evo ∧ v.cur = z ∧ (v.tile s.curTile).injA = s.curT.injA ∧
      (v.tile s.curTile).posted = s.curT.posted ∧ (v.tile s.curTile).flog = s.curT.flog ++ [e] := by
  have hlog : (s.flogged e).tile s.curTile = { s.curT with flog := s.curT.flog ++ [e] } := flogged_curT s e
  have hut : u.tile s.curTile = Tile.setThread { s.curT with flog := s.curT.flog ++ [e] } (s.flogged e).curThr y := by
    have hc : (s.flogged e).curTile = s.curTile := rfl
    rw [hu, setCur_tile_of_eq hc, hlog]
  have hucur : u.curTile = s.curTile := by rw [hu]; rfl
  have htile : v.tile s.curTile = (u.tile s.curTile).setThread u.curThr z := by rw [hv, setCur_tile_of_eq hucur]
  rw [hut] at htile
  refine ⟨?_, ?_, ?_, ?_, ?_, ?_, ?_, ?_⟩
  · rw [hv, State.setCur_mem, hu, State.setCur_mem]; rfl
  · rw [hv, State.setCur_psn, hu, State.setCur_psn]; rfl
  · rw [hv, State.setCur_full, hu, State.setCur_full]; rfl
  · rw [hv, State.setCur_evo, hu, State.setCur_evo]; rfl
  · rw [hv, setCur_cur]
  · rw [htile]; rfl
  · rw [htile]; rfl
  · rw [htile]; rfl

theorem memPi_eq (m : BitVec 20) : memPi m = m.getLsbD 19 := by
  rw [memPi, bit, BitVec.getLsbD, Nat.testBit_eq_decide_div_mod_eq]
  rfl

theorem mOff_eq_dispM (m : BitVec 20) : mOff m = dispM m := by
  simp only [mOff, dispM, memPi_eq]
  split_ifs
  · rfl
  · simp only [memOff, sgn, BitVec.toInt_eq_toNat_cond, BitVec.toNat_setWidth]

theorem atRetire_cur (s : State) (t : Thread) : (atRetire s t).cur =
    { t with pc := s.cur.succ, retired := s.cur.retired + 1, served := [], retryBanks := [], walkEnds := [] } := setCur_cur _ _

/-- The address that a scalar store computes on its own tile. -/
theorem addressComputed_st {s : State} {sz : Fin 4} {d a : GIx} {m : BitVec 20} {o : Nat} {th : Thread}
    (hrd : th.rd a = s.cur.rd a) (hnames : names s a (dispM m) o) (hown : ownAccess s a 0 o 1) :
    addressComputed s.pkg th (.st sz d a m) = gaSpad s.curTile o := by
  obtain ⟨-, hto, -, h13, hlo, hhi, htop, -⟩ := hown
  have hreach : (s.cur.rd a).reach s.pkg (mOff m) 1 = .ok (gaSpad s.curTile o) := by
    rw [mOff_eq_dispM]
    exact reach_of_names hto h13 hlo hhi htop Nat.one_pos hnames
  simp only [addressComputed, addressOpnd, hrd, hreach]

/-- What a failed address leaves: nothing performed or sent, the address in the log. -/
theorem secondMismatch_address {s : State} {i : Instr} {f : Faulty} (hre : s.cur.recheck = .fails f) (hafp : s.cur.afp = false)
    (hi : givesAddress i) (hf : f.addr = true) (hhalt : s.curT.halt = .running) (hroom : s.curT.flog.length < 8) :
    ∃ v e l, machineCheck s v e ∧ s.checked i = .next v ∧ v.mem = s.mem ∧ v.psn = s.psn ∧ v.full = s.full ∧
      (v.tile s.curTile).injA = s.curT.injA ∧ (v.tile s.curTile).posted = s.curT.posted ∧
      v.cur = { (atRetire s.secondRun s.secondRun.cur).cur with afp := true } ∧ (v.tile s.curTile).flog = s.curT.flog ++ [l] ∧
      l.h = true ∧ l.thr = s.curThr ∧ l.origin = s.curTile ∧ reasonCode l.reason = 0 ∧ l.cls = 7 ∧ l.pc = s.cur.pc ∧
      ∀ sz d a m o, i = .st sz d a m → names s a (dispM m) o → ownAccess s a 0 o 1 → l.addr = BitVec.ofNat 64 (gaSpad s.curTile o) := by
  obtain ⟨haddr, hctl⟩ := producesAddress_of_gives hi
  have hT := secondRun_curT s
  have hlog := addressLogged_eq (s := s.secondRun) i (by rw [hT]; exact hhalt) (by rw [hT]; exact hroom)
  have hchecked : s.checked i = (s.secondRun.addressLogged i).done (s.secondRun.addressLogged i).cur := by
    rw [checked_fails hre hafp]
    simp only [hctl, haddr, hf, Bool.and_false, Bool.and_true, Bool.false_eq_true, if_false, if_true]
  have hcur : (s.secondRun.addressLogged i).cur = { s.secondRun.cur with afp := true } := by rw [hlog, setCur_cur]
  obtain ⟨hmem, hpsn, hfull, hevo, hv, hinj, hposted, hflog⟩ := flogged_retired hlog rfl
  rw [show s.secondRun.mismatchEvent.curT = _ from hT] at hinj hposted hflog
  rw [State.done, hcur] at hchecked
  refine ⟨_, _, s.secondRun.mismatchEvent.addressEntry i,
    machineCheck_of_evo (machineCheck_mismatchEvent (s := s) (v := s.secondRun) rfl rfl) hevo, hchecked,
    hmem, hpsn, hfull, hinj, hposted, ?_, hflog, rfl, rfl, rfl, rfl, rfl, ?_, ?_⟩
  · rw [hv, atRetire_cur]
    rfl
  · show s.secondRun.cur.pc = _
    rw [secondRun_cur]
  · rintro sz d a m o rfl hnames hown
    have hrd : s.secondRun.cur.rd a = s.cur.rd a := by rw [secondRun_cur]; rfl
    exact congrArg (BitVec.ofNat 64) (addressComputed_st (s := s) hrd hnames hown)
end Sys2Proof.Machine

namespace Sys2Proof.Machine
open Sys2Proof.Claims

/-! ### Failed results -/

/-- What a second mismatch makes of the results of a retired instruction: those that failed are poisoned. -/
def Thread.spoiled (th : Thread) (i : Instr) (f : Faulty) (t : Nat) : Thread :=
  let x := match (match resultG i with | some d => some d | none => baseG i) with
    | some d => if f.result then th.wr d (tilePoison 7 t) else th
    | none => th
  match resultV i with
  | some d => x.wv d (spoilLanes (x.rv d) f.lanes)
  | none => x

theorem spoiled_resultG {i : Instr} {d : GIx} (hg : resultG i = some d) (hv : resultV i = none) (th : Thread) (f : Faulty) (t : Nat) :
    th.spoiled i f t = if f.result then th.wr d (tilePoison 7 t) else th := by
  simp only [Thread.spoiled, hg, hv]

theorem spoiled_resultV {i : Instr} {d : VIx} (hg : resultG i = none) (hb : baseG i = none) (hv : resultV i = some d)
    (th : Thread) (f : Faulty) (t : Nat) : th.spoiled i f t = th.wv d (spoilLanes (th.rv d) f.lanes) := by
  simp only [Thread.spoiled, hg, hb, hv]

theorem spoiled_none {i : Instr} (hg : resultG i = none) (hb : baseG i = none) (hv : resultV i = none)
    (th : Thread) (f : Faulty) (t : Nat) : th.spoiled i f t = th := by
  simp only [Thread.spoiled, hg, hb, hv]

/-- An instruction that retired at its second execution commits its results as the checker leaves them. -/
theorem commitFailed_retired {s u : State} {i : Instr} {f : Faulty} {th : Thread} (hexec : s.execSpoiled i f = .next u)
    (hth : u.thr s.curTile s.curThr = th) (hrun : th.run = .rotation) (hret : th.retired ≠ s.cur.retired) :
    s.commitFailed i f = .next ((u.setThr s.curTile s.curThr (th.spoiled i f s.curTile)).mismatchEvent) := by
  have hreached : forfeited s.cur th = false := by simp [forfeited, hret]
  have hperformed : th.undone = false := by simp [Thread.undone, hrun]
  have hdone : (th.retired != s.cur.retired) = true := by simp [hret]
  simp only [State.commitFailed, hexec, hth, hreached, hperformed, hdone, Bool.or_self, Bool.false_eq_true, if_false, Bool.true_and,
    Bool.not_true, Bool.false_and, if_true]
  refine congrArg (fun x => Host.Outcome.next (u.setThr s.curTile s.curThr x).mismatchEvent) ?_
  split <;> rfl

theorem word_succ_ne (x : Word) : x + 1 ≠ x := by simp

@[simp] theorem mismatchEvent_mem (s : State) : s.mismatchEvent.mem = s.mem := rfl

theorem setThr_cur {s : State} {t h : Nat} (ht : s.curTile = t) (hh : s.curThr = h) (x : Thread) : (s.setThr t h x).cur = x := by
  subst ht hh
  exact setCur_cur s x

/-- An instruction that only retires commits its results as the checker leaves them. -/
theorem commitFailed_done {s : State} {i : Instr} {f : Faulty} {y : Thread} (hexec : s.execSpoiled i f = .next (s.setCur y.retire))
    (hrun : y.run = .rotation) (hret : y.retired = s.cur.retired) :
    ∃ v e, machineCheck s v e ∧ s.commitFailed i f = .next v ∧ v.mem = s.mem ∧ v.cur = y.retire.spoiled i f s.curTile := by
  have hthr : (s.setCur y.retire).thr s.curTile s.curThr = y.retire := setCur_cur s _
  have hstep : y.retire.retired = s.cur.retired + 1 := by rw [← hret]; rfl
  refine ⟨_, _, machineCheck_mismatchEvent ?_ ?_, commitFailed_retired hexec hthr hrun (by rw [hstep]; exact word_succ_ne _), ?_, ?_⟩
  · rw [State.setThr_evo, State.setCur_evo]
  · rw [State.setThr_curTile, State.setCur_curTile]
  · rw [mismatchEvent_mem, State.setThr_mem, State.setCur_mem]
  · rw [mismatchEvent_cur, setThr_cur (State.setCur_curTile s _) (State.setCur_curThr s _)]

theorem machineCheck_secondRun {s v : State} {e : Evodon} (h : machineCheck s.secondRun v e) : machineCheck s v e := h

/-- A second execution whose control value and address are sound commits. -/
theorem checked_commits {s : State} {i : Instr} {f : Faulty} (hre : s.cur.recheck = .fails f) (hafp : s.cur.afp = false)
    (hctl : (f.ctl && producesControl i) = false) (haddr : (f.addr && producesAddress i) = false) :
    s.checked i = s.secondRun.commitFailed i f := by
  rw [checked_fails hre hafp, hctl, haddr]
  simp only [Bool.false_eq_true, if_false]

theorem execSpoiled_of_no_data {i : Instr} (hg : dataG i = none) (hv : dataV i = none) (s : State) (f : Faulty) :
    s.execSpoiled i f = exec i s := by
  simp only [State.execSpoiled, hg, hv]

/-! An instruction that writes one register and produces nothing else retires. -/

theorem int2_writes (s : State) (d a b : GIx) (g : Word → Word → Word) : ∃ r, s.int2 d a b g = s.doneG d r := by
  unfold State.int2
  dsimp only
  split <;> exact ⟨_, rfl⟩

theorem fp2_writes (s : State) (d a b : GIx) (g : Nat → Nat → Nat) : ∃ r, s.fp2 d a b g = s.doneG d r := by
  unfold State.fp2
  dsimp only
  split <;> exact ⟨_, rfl⟩

/-- The model's operations on two registers, in the order of Table 5.1 and R107. -/
def int2Ops : List ((GIx → GIx → GIx → Instr) × (GIx → GIx → GIx → State → Host.Outcome State Fault Refusal)) :=
  [(.add, execAdd), (.sub, execSub), (.and, execAnd), (.or, execOr), (.xor, execXor), (.andn, execAndn), (.shl, execShl),
   (.shr, execShr), (.sra, execSra), (.min, execMin), (.max, execMax), (.minu, execMinu), (.maxu, execMaxu), (.mul, execMul),
   (.mulh, execMulh), (.mulhu, execMulhu), (.div, execDiv), (.divu, execDivu), (.rem, execRem), (.remu, execRemu)]

theorem twoSource_fst : twoSource.map Prod.fst = int2Ops.map Prod.fst := rfl

theorem exec_int2Ops : ∀ f ∈ int2Ops, ∀ d a b s, exec (f.1 d a b) s = f.2 d a b s := by
  simp only [int2Ops, List.forall_mem_cons, List.not_mem_nil, false_imp_iff, implies_true, and_true]
  refine ⟨?_, ?_, ?_, ?_, ?_, ?_, ?_, ?_, ?_, ?_, ?_, ?_, ?_, ?_, ?_, ?_, ?_, ?_, ?_, ?_⟩ <;> intro d a b s <;> rfl

theorem int2Ops_write : ∀ f ∈ int2Ops, ∀ d a b s, ∃ r, f.2 d a b s = s.doneG d r := by
  simp only [int2Ops, List.forall_mem_cons, List.not_mem_nil, false_imp_iff, implies_true, and_true]
  refine ⟨?_, ?_, ?_, ?_, ?_, ?_, ?_, ?_, ?_, ?_, ?_, ?_, ?_, ?_, ?_, ?_, ?_, ?_, ?_, ?_⟩ <;> intro d a b s <;>
    exact int2_writes s d a b _
theorem exec_givesG {i : Instr} {d : GIx} (hi : givesG d i) (s : State) : ∃ r, exec i s = s.doneG d r := by
  obtain ⟨f, hf, a, b, rfl⟩ | ⟨a, rfl⟩ | ⟨w, rfl⟩ | ⟨rm, a, b, rfl⟩ | ⟨rm, a, b, rfl⟩ | ⟨a, rfl⟩ := hi
  · obtain ⟨g, hg, hgf⟩ := List.mem_map.mp (twoSource_fst ▸ List.mem_map_of_mem hf)
    rw [← hgf, exec_int2Ops g hg]
    exact int2Ops_write g hg d a b s
  · exact ⟨s.cur.rd a, rfl⟩
  · exact ⟨dataReg (w.signExtend 64), rfl⟩
  · exact fp2_writes s d a b (f32Add (s.srnd rm))
  · exact fp2_writes s d a b (f32Mul (s.srnd rm))
  · exact ⟨dataReg (BitVec.ofNat 64 (maskCount (s.cur.rk a))), rfl⟩

theorem vreduce_writes (s : State) (ty : ElemTy) (k : KIx) (d : VIx) (a : GIx) (z : Nat) (g : Nat → Nat → Nat → Nat) :
    ∃ q, s.vreduce ty k d a z g = s.doneV d q := by
  unfold State.vreduce
  dsimp only
  split <;> exact ⟨_, rfl⟩

theorem exec_givesVec {i : Instr} {d : VIx} (hi : givesVec d i) (s : State) : ∃ q, exec i s = s.doneV d q := by
  obtain ⟨ty, rm, k, a, b, rfl⟩ | ⟨ty, rm, k, a, b, rfl⟩ | ⟨ty, k, a, b, rfl⟩ | ⟨ty, k, a, b, rfl⟩ | ⟨k, a, b, rfl⟩ |
    ⟨ty, rm, k, a, rfl⟩ := hi
  · exact ⟨_, rfl⟩
  · exact ⟨_, rfl⟩
  · exact ⟨_, rfl⟩
  · exact ⟨_, rfl⟩
  · exact ⟨_, rfl⟩
  · exact vreduce_writes s ty k d a _ _
end Sys2Proof.Machine

namespace Sys2Proof.Machine
open Sys2Proof.Claims

/-- An instruction that produces results alone: neither a control value, nor an address, nor store data. -/
structure ResultsOnly (i : Instr) : Prop where
  control : producesControl i = false
  address : producesAddress i = false
  dataG : dataG i = none
  dataV : dataV i = none

theorem twoSource_results : ∀ f ∈ twoSource, ∀ d a b,
    ResultsOnly (f.1 d a b) ∧ resultG (f.1 d a b) = some d ∧ resultV (f.1 d a b) = none := by
  simp only [twoSource, List.forall_mem_cons, List.not_mem_nil, false_imp_iff, implies_true, and_true]
  refine ⟨?_, ?_, ?_, ?_, ?_, ?_, ?_, ?_, ?_, ?_, ?_, ?_, ?_, ?_, ?_, ?_, ?_, ?_, ?_, ?_⟩ <;> intro d a b <;>
    exact ⟨⟨rfl, rfl, rfl, rfl⟩, rfl, rfl⟩

theorem givesG_results {i : Instr} {d : GIx} (hi : givesG d i) : ResultsOnly i ∧ resultG i = some d ∧ resultV i = none := by
  obtain ⟨f, hf, a, b, rfl⟩ | ⟨_, rfl⟩ | ⟨_, rfl⟩ | ⟨_, _, _, rfl⟩ | ⟨_, _, _, rfl⟩ | ⟨_, rfl⟩ := hi
  · exact twoSource_results f hf d a b
  all_goals exact ⟨⟨rfl, rfl, rfl, rfl⟩, rfl, rfl⟩

theorem givesVec_results {i : Instr} {d : VIx} (hi : givesVec d i) :
    ResultsOnly i ∧ resultG i = none ∧ baseG i = none ∧ resultV i = some d := by
  obtain ⟨_, _, _, _, _, rfl⟩ | ⟨_, _, _, _, _, rfl⟩ | ⟨_, _, _, _, rfl⟩ | ⟨_, _, _, _, rfl⟩ | ⟨_, _, _, rfl⟩ | ⟨_, _, _, _, rfl⟩ := hi <;>
    exact ⟨⟨rfl, rfl, rfl, rfl⟩, rfl, rfl, rfl⟩

/-- An instruction of results alone that retires commits them as the checker leaves them. -/
theorem ResultsOnly.commits {s : State} {i : Instr} {f : Faulty} {y : Thread} (hi : ResultsOnly i) (hre : s.cur.recheck = .fails f)
    (hafp : s.cur.afp = false) (hexec : exec i s.secondRun = s.secondRun.done y) (hrun : y.run = .rotation)
    (hret : y.retired = s.cur.retired) :
    ∃ u v e, exec i s.secondRun = .next u ∧ u.cur = y.retire ∧ machineCheck s v e ∧ s.checked i = .next v ∧ v.mem = s.mem ∧
      v.cur = y.retire.spoiled i f s.curTile := by
  have hspoiled : s.secondRun.execSpoiled i f = .next (s.secondRun.setCur y.retire) :=
    (execSpoiled_of_no_data hi.dataG hi.dataV _ f).trans hexec
  have hret' : y.retired = s.secondRun.cur.retired := by rw [secondRun_cur, hret]
  obtain ⟨v, e, hcheck, hv, hmem, hcur⟩ := commitFailed_done hspoiled hrun hret'
  refine ⟨_, v, e, hexec, setCur_cur _ _, machineCheck_secondRun hcheck, ?_, hmem, hcur⟩
  rw [checked_commits hre hafp (by rw [hi.control, Bool.and_false]) (by rw [hi.address, Bool.and_false]), hv]

theorem secondMismatch_result {s : State} {i : Instr} {f : Faulty} {d : GIx} (hre : s.cur.recheck = .fails f) (hafp : s.cur.afp = false)
    (hrun : s.cur.run = .rotation) (hi : givesG d i) :
    ∃ u v e, exec i s.secondRun = .next u ∧ machineCheck s v e ∧ s.checked i = .next v ∧ v.mem = s.mem ∧
      v.cur = if f.result then u.cur.wr d (mismatchValue s) else u.cur := by
  obtain ⟨honly, hg, hv⟩ := givesG_results hi
  obtain ⟨r, hr⟩ := exec_givesG hi s.secondRun
  obtain ⟨u, v, e, hexec, hu, hcheck, hchecked, hmem, hcur⟩ := honly.commits hre hafp hr
    (by rw [Thread.wr_run, secondRun_cur, hrun]) (by rw [Thread.wr_retired, secondRun_cur])
  refine ⟨u, v, e, hexec, hcheck, hchecked, hmem, ?_⟩
  rw [hcur, spoiled_resultG hg hv, hu]
  rfl

/-! ### The lanes of a register made lane by lane (R44) -/

theorem lanesVal_lane : ∀ (ls : List (Nat × Bool)) (j : Nat) (hj : j < ls.length),
    lanesVal ls / 2 ^ (32 * j) % 2 ^ 32 = ls[j].1 % 2 ^ 32
  | l :: ls, 0, _ => by simp [lanesVal]
  | l :: ls, j + 1, hj => by
    have ih := lanesVal_lane ls j (by simpa using hj)
    have hdiv : lanesVal (l :: ls) / 2 ^ (32 * (j + 1)) = lanesVal ls / 2 ^ (32 * j) := by
      rw [show 32 * (j + 1) = 32 + 32 * j by ring, pow_add, ← Nat.div_div_eq_div_mul]
      congr 1
      rw [lanesVal]
      omega
    rw [hdiv, ih, List.getElem_cons_succ]

theorem lanesMask_lane : ∀ (ls : List (Nat × Bool)) (j : Nat) (hj : j < ls.length), (lanesMask ls).testBit j = ls[j].2
  | l :: ls, 0, _ => by cases hl : l.2 <;> simp [lanesMask, boolNat, hl, Nat.testBit_zero]
  | l :: ls, j + 1, hj => by
    have hdiv : lanesMask (l :: ls) / 2 = lanesMask ls := by
      rw [lanesMask]
      have := boolNat_lt l.2
      omega
    rw [Nat.testBit_succ, hdiv, lanesMask_lane ls j (by simpa using hj), List.getElem_cons_succ]

theorem extractLsb'_ofNat_toNat {n k w : Nat} (h : k + w ≤ n) (x : Nat) :
    ((BitVec.ofNat n x).extractLsb' k w).toNat = x / 2 ^ k % 2 ^ w := by
  obtain ⟨m, rfl⟩ := Nat.exists_eq_add_of_le (Nat.le_of_add_right_le h)
  rw [BitVec.extractLsb'_toNat, Nat.shiftRight_eq_div_pow, BitVec.toNat_ofNat, pow_add, Nat.mod_mul_right_div_self,
    Nat.mod_mod_of_dvd _ (pow_dvd_pow 2 (by omega))]

theorem vElt_mkVReg (f : Nat → Nat × Bool) {j : Nat} (hj : j < 16) : vElt (mkVReg f) 32 j = (f j).1 % 2 ^ 32 := by
  rw [vElt, mkVReg, extractLsb'_ofNat_toNat (by omega), lanesVal_lane _ j (by simpa using hj)]
  simp

theorem vBad_mkVReg (f : Nat → Nat × Bool) {j : Nat} (hj : j < 16) : vBad (mkVReg f) j = (f j).2 := by
  simp only [vBad, mkVReg, BitVec.getLsbD_ofNat, hj, decide_true, Bool.true_and]
  rw [lanesMask_lane _ j (by simpa using hj)]
  simp

theorem lane_eq (v : VReg) (j : Nat) : v.lane j = (vElt v 32 j, vBad v j) := by
  have hbad : v.bad j = vBad v j := by
    rw [VReg.bad, bit, vBad, BitVec.getLsbD, Nat.testBit_eq_decide_div_mod_eq]
    rfl
  rw [VReg.lane, hbad, VReg.elt, vElt, BitVec.extractLsb'_toNat, Nat.shiftRight_eq_div_pow]

theorem spoilLanes_failed {v : VReg} {lanes : BitVec 16} {j : Nat} (hj : j < 16) (hl : lanes.getLsbD j = true) :
    poisonedLane (spoilLanes v lanes) j 7 := by
  rw [poisonedLane, spoilLanes, vElt_mkVReg _ hj, vBad_mkVReg _ hj, hl, if_pos rfl]
  exact ⟨rfl, rfl⟩

theorem spoilLanes_sound {v : VReg} {lanes : BitVec 16} {j : Nat} (hj : j < 16) (hl : lanes.getLsbD j = false) :
    sameLane (spoilLanes v lanes) v j := by
  rw [sameLane, spoilLanes, vElt_mkVReg _ hj, vBad_mkVReg _ hj, hl, if_neg Bool.false_ne_true, lane_eq]
  exact ⟨Nat.mod_eq_of_lt (v.val.extractLsb' (32 * j) 32).isLt, rfl⟩
theorem secondMismatch_lanes {s : State} {i : Instr} {f : Faulty} {d : VIx} (hre : s.cur.recheck = .fails f) (hafp : s.cur.afp = false)
    (hrun : s.cur.run = .rotation) (hi : givesVec d i) :
    ∃ u v e q, exec i s.secondRun = .next u ∧ machineCheck s v e ∧ s.checked i = .next v ∧ v.mem = s.mem ∧ v.cur = u.cur.wv d q ∧
      ∀ j, j < 16 → (f.lanes.getLsbD j = true → poisonedLane q j 7) ∧ (f.lanes.getLsbD j = false → sameLane q (u.cur.rv d) j) := by
  obtain ⟨honly, hg, hb, hv⟩ := givesVec_results hi
  obtain ⟨r, hr⟩ := exec_givesVec hi s.secondRun
  obtain ⟨u, v, e, hexec, hu, hcheck, hchecked, hmem, hcur⟩ := honly.commits hre hafp hr
    (by rw [Thread.wv_run, secondRun_cur, hrun]) (by rw [Thread.wv_retired, secondRun_cur])
  refine ⟨u, v, e, spoilLanes (u.cur.rv d) f.lanes, hexec, hcheck, hchecked, hmem, ?_, fun j hj => ⟨spoilLanes_failed hj, spoilLanes_sound hj⟩⟩
  rw [hcur, spoiled_resultV hg hb hv, hu]
end Sys2Proof.Machine

namespace Sys2Proof.Machine
open Sys2Proof.Claims

/-! ## The checks of an access to a tile's scratchpad (R155, R156) -/

theorem gaOff_gaSpad (t : Nat) {k : Nat} (hk : k < 2 ^ 19) : gaOff (gaSpad t k) = k := by
  simp only [gaOff, bits, gaSpad, tileY, tileX]
  omega

section
variable {t k : Nat} (ht : t < 4096) (hk : k < 2 ^ 19)
include ht hk

theorem gaLocal_gaSpad : gaLocal (gaSpad t k) = true := by
  simp only [gaLocal, bit, gaSpad, tileY, tileX, beq_iff_eq]
  omega

theorem gaSpace_gaSpad : gaSpace (gaSpad t k) = 0 := by
  simp only [gaSpace, bits, gaSpad, tileY, tileX]
  omega

theorem gaTile_gaSpad : gaTile (gaSpad t k) = t := by
  simp only [gaTile, bits, gaSpad, tileY, tileX]
  omega

theorem homeOf_gaSpad (p row : Nat) : homeOf p row (gaSpad t k) = (.tile t, none) := by
  rw [homeOf, gaLocal_gaSpad ht hk, gaSpace_gaSpad ht hk, gaTile_gaSpad ht hk]
  rfl

theorem ownGa_gaSpad (s : State) : s.ownGa (gaSpad t k) = decide (t = s.curTile) := by
  rw [State.ownGa, homeOf_gaSpad ht hk]
  by_cases h : t = s.curTile <;> simp [h]

theorem hbmGa_gaSpad (s : State) : s.hbmGa (gaSpad t k) = false := by
  rw [State.hbmGa, gaSpace_gaSpad ht hk]
  rfl
end

/-- gA grants an access of n bytes to the bytes from offset k of tile t. -/
structure Reaches (s : State) (a : GIx) (need t k n : Nat) (disp : Int) : Prop where
  cap : (s.cur.rd a).tag = .cap
  tile : (s.cur.rd a).namesTile s.pkg t = true
  grants : (s.cur.rd a).grants need = true
  plain : field (s.cur.rd a) 19 13 = 0
  lower : (baseLen (s.cur.rd a)).1 ≤ k
  upper : k + n ≤ (baseLen (s.cur.rd a)).1 + (baseLen (s.cur.rd a)).2
  within : k + n ≤ 2 ^ 19
  aligned : k % n = 0
  cursor : names s a disp k

section
variable {s : State} {a : GIx} {need t k n : Nat} {disp : Int}

theorem Reaches.tile_lt (h : Reaches s a need t k n disp) : t < 4096 := by
  have htile := h.tile
  simp only [GReg.namesTile, Bool.and_eq_true, beq_iff_eq, gaTile, bits] at htile
  omega

theorem Reaches.kind (h : Reaches s a need t k n disp) : (s.cur.rd a).kind = .tile := by
  have htile := h.tile
  simp only [GReg.namesTile, Bool.and_eq_true, beq_iff_eq] at htile
  exact htile.1.1

theorem Reaches.reach (h : Reaches s a need t k n disp) (hn : 0 < n) : (s.cur.rd a).reach s.pkg disp n = .ok (gaSpad t k) :=
  reach_of_names h.tile h.plain h.lower h.upper h.within hn h.cursor

/-- The checks find the target of such an access. -/
theorem Reaches.checks (h : Reaches s a need t k n disp) (hn : n ∣ 2 ^ 32) {sp : Spaces} (hsp : sp.scratch = true) :
    s.checks [addrOpnd s.cur a need sp n disp] none = .ok [[({ off := disp, size := n }, gaSpad t k)]] := by
  have hpos : 0 < n := Nat.pos_of_dvd_of_pos hn (by norm_num)
  have halign : gaSpad t k % 2 ^ 44 % n = 0 := by
    have h44 : n ∣ 2 ^ 44 := hn.trans (pow_dvd_pow 2 (by norm_num))
    obtain ⟨c, hc⟩ := hn
    rw [Nat.mod_mod_of_dvd _ h44, gaSpad, show 2 ^ 63 + tileY t * 2 ^ 38 + tileX t * 2 ^ 32 + k =
      k + n * (c * (2 ^ 31 + tileY t * 2 ^ 6 + tileX t)) by rw [← mul_assoc, ← hc]; ring, Nat.add_mul_mod_self_left, h.aligned]
  have htag : tagFault [addrOpnd s.cur a need sp n disp] = none := by
    simp [tagFault, addrOpnd, GReg.isPoison, GReg.isCap, h.cap]
  have hspace : (addrOpnd s.cur a need sp n disp).spaceOk s.pkg = true := by
    simp only [Opnd.spaceOk, addrOpnd, h.kind, hsp]
  have htargets : targetsAll s.pkg [addrOpnd s.cur a need sp n disp] = .ok [[({ off := disp, size := n }, gaSpad t k, false)]] := by
    simp only [targetsAll, Opnd.targets, addrOpnd, h.reach hpos, halign, Nat.zero_mod, bne_self_eq_false]
  have hgrants : ((addrOpnd s.cur a need sp n disp).reg.grants (addrOpnd s.cur a need sp n disp).need) = true := h.grants
  have hkind : ((addrOpnd s.cur a need sp n disp).reg.kind == .mmio) = false := by
    rw [show (addrOpnd s.cur a need sp n disp).reg.kind = _ from h.kind]; rfl
  simp [State.checks, htag, hspace, htargets, hgrants, hkind, misaligned]
end
end Sys2Proof.Machine

namespace Sys2Proof.Machine
open Sys2Proof.Claims

/-! ## A posted operation of one access (R157, R158) -/

@[simp] theorem passOf_singleton (x : Elem × Nat) : passOf [x] = [x] := by simp [passOf]

section
variable {s : State} {o : Opnd} {opnd : Word} {msg : Nat → Flit} {fin : Thread → Thread} {e : Elem} {ga : Nat}
  (hchecks : s.checks [o] none = .ok [[(e, ga)]]) (hhbm : s.hbmGa ga = false)
include hchecks hhbm

/-- An access to the own tile is performed at once. -/
theorem posted_own {u : State} (hperform : (s.performFlit 0 (spad s.curTile (gaOff ga)) (msg e.idx)).2 = u)
    (hown : s.ownGa ga = true) (hstays : u.ownGa ga = true) (hserved : s.cur.served = []) (hfree : s.refusing [gaOff ga] = []) :
    s.posted o none none opnd msg fin = .next (u.setCur (fin u.cur)) := by
  have hchecks' : s.checks (o :: (none : Option Opnd).toList) none = .ok [[(e, ga)]] := hchecks
  unfold State.posted
  rw [hchecks']
  simp [hown, hhbm, hserved, hfree, hstays, hperform, State.performStores, State.sendStores]

/-- An access to another home is sent. -/
theorem posted_far {u : State} (hsend : s.post s.curTile (.posted s.curThr) s.cur.pc s.curHead opnd ga none
      { msg e.idx with idx := e.idx, flag := 0, thr := s.curThr, sup := s.cur.priv } = u)
    (hown : s.ownGa ga = false) (hroom : s.retryRoom s.curTile ((msg e.idx).flast + 1) = true) :
    s.posted o none none opnd msg fin = .next (u.setCur (fin u.cur)) := by
  have hchecks' : s.checks (o :: (none : Option Opnd).toList) none = .ok [[(e, ga)]] := hchecks
  have hbanks : s.refusing [] = [] := rfl
  unfold State.posted
  rw [hchecks']
  simp [hown, hhbm, hroom, hbanks, hsend, State.performStores, State.sendStores, passOf]

end
end Sys2Proof.Machine

namespace Sys2Proof.Machine
open Sys2Proof.Claims

/-! ## What a write does to those who wait on the word leaves memory and the thread itself (R174, R178, R210) -/

/-- Nothing of memory, of Evodon, of the turn or of thread h of tile t differs. -/
structure Unseen (t h : Nat) (s u : State) : Prop where
  mem : u.mem = s.mem
  psn : u.psn = s.psn
  tagged : u.tagged = s.tagged
  evo : u.evo = s.evo
  pkg : u.pkg = s.pkg
  curTile : u.curTile = s.curTile
  curThr : u.curThr = s.curThr
  thr : u.thr t h = s.thr t h

section
variable {t h : Nat} {s v : State}

theorem Unseen.refl : Unseen t h s s := ⟨rfl, rfl, rfl, rfl, rfl, rfl, rfl, rfl⟩

theorem Unseen.trans {u : State} (hv : Unseen t h s v) (hu : Unseen t h v u) : Unseen t h s u :=
  ⟨hu.mem.trans hv.mem, hu.psn.trans hv.psn, hu.tagged.trans hv.tagged, hu.evo.trans hv.evo, hu.pkg.trans hv.pkg,
    hu.curTile.trans hv.curTile, hu.curThr.trans hv.curThr, hu.thr.trans hv.thr⟩

theorem Unseen.foldl {α : Type} {f : State → α → State} (hf : ∀ u x, Unseen t h s u → Unseen t h s (f u x)) (l : List α)
    (hv : Unseen t h s v) : Unseen t h s (l.foldl f v) := by
  induction l generalizing v with
  | nil => exact hv
  | cons x l ih => exact ih (hf v x hv)

/-- A tile updated but for its threads. -/
theorem Unseen.updTile (hv : Unseen t h s v) (k : Nat) {f : Tile → Tile} (hf : (f (v.tile k)).threads = (v.tile k).threads) :
    Unseen t h s (v.updTile k f) :=
  hv.trans ⟨rfl, rfl, rfl, rfl, rfl, rfl, rfl, updTile_thr v k t h hf⟩

theorem Unseen.setRouter (hv : Unseen t h s v) (r : Nat) (x : Router) : Unseen t h s (v.setRouter r x) :=
  hv.trans ⟨rfl, rfl, rfl, rfl, rfl, rfl, rfl, rfl⟩

/-- Another thread updated. -/
theorem Unseen.setThr (hv : Unseen t h s v) {k j : Nat} (hne : ¬(t = k ∧ h = j)) (x : Thread) : Unseen t h s (v.setThr k j x) :=
  hv.trans ⟨rfl, rfl, rfl, rfl, rfl, rfl, rfl, setThr_thr_other v x hne⟩

theorem Unseen.inject (hv : Unseen t h s v) (src : Home) (f : Flit) : Unseen t h s (v.inject src f) := by
  unfold State.inject
  split
  · refine hv.updTile _ ?_
    split <;> rfl
  · exact hv.setRouter _ _

theorem Unseen.sendHome (hv : Unseen t h s v) (src dst : Home) (f : Flit) : Unseen t h s (v.sendHome src dst f) :=
  Unseen.foldl (fun _ g hu => hu.inject src g) _ hv

theorem Unseen.sendGa (hv : Unseen t h s v) (src : Home) (ga : Nat) (f : Flit) : Unseen t h s (v.sendGa src ga f) :=
  hv.sendHome _ _ _

theorem Unseen.answer (hv : Unseen t h s v) (src : Home) (f r : Flit) : Unseen t h s (v.answer src f r) :=
  hv.sendHome _ _ _

theorem Unseen.fireArms (hv : Unseen t h s v) (k a : Nat) : Unseen t h s (v.fireArms k a) := by
  unfold State.fireArms
  exact Unseen.foldl (fun _ f hu => hu.answer _ f _) _ (hv.updTile k (f := fun x => { x with monitors := _ }) rfl)

theorem Unseen.fwaitEnd (hv : Unseen t h s v) {k j : Nat} (hne : ¬(t = k ∧ h = j)) (r : GReg) : Unseen t h s (v.fwaitEnd k j r) := by
  unfold State.fwaitEnd
  split
  · dsimp only
    refine Unseen.setThr (Unseen.updTile (Unseen.foldl (fun _ m hu => hu.sendGa _ _ _) _ hv) k rfl) hne _
  · exact hv

theorem Unseen.wakeBy (hv : Unseen t h s v) {k j : Nat} (hne : ¬(t = k ∧ h = j)) (m : WaitMon) (cls : Option Nat) :
    Unseen t h s (v.wakeBy k j m cls) := by
  unfold State.wakeBy
  split
  · split
    · split
      · exact hv
      · exact hv.fwaitEnd hne _
    · exact hv.fwaitEnd hne _
  · exact hv

theorem wakeOwn_of_no_wait (hwait : (v.thr t h).wait = .none) (a : Nat) : v.wakeOwn t a h = v := by
  simp only [State.wakeOwn, hwait]

theorem Unseen.wakeOwn (hwait : (s.thr t h).wait = .none) (hv : Unseen t h s v) (k a j : Nat) : Unseen t h s (v.wakeOwn k a j) := by
  by_cases hself : t = k ∧ h = j
  · obtain ⟨rfl, rfl⟩ := hself
    rw [wakeOwn_of_no_wait (hv.thr ▸ hwait)]
    exact hv
  · unfold State.wakeOwn
    split
    · split
      · exact hv
      · dsimp only
        split
        · split
          · exact hv.wakeBy hself _ _
          · exact hv.trans ⟨rfl, rfl, rfl, rfl, rfl, rfl, rfl, rfl⟩
        · exact hv
    · exact hv

theorem Unseen.watchHead (hv : Unseen t h s v) (k : Nat) : Unseen t h s (v.watchHead k) := by
  unfold State.watchHead
  split
  · exact hv.updTile k rfl
  · exact hv

theorem Unseen.watchEngines (hv : Unseen t h s v) (k a : Nat) : Unseen t h s (v.watchEngines k a) := by
  unfold State.watchEngines
  split
  · exact hv
  · dsimp only
    generalize hu : (if ((v.tile k).copyq.any fun x => x.2.wf != 0 && gaOff x.2.wf / 8 == a % 2 ^ 19 / 8) = true then _ else v) = u
    have hseen : Unseen t h s u := by
      subst hu
      split
      · exact hv.updTile k rfl
      · exact hv
    split
    · split
      · exact hseen.watchHead k
      · exact hseen
    · exact hseen

theorem Unseen.touch (hwait : (s.thr t h).wait = .none) (hv : Unseen t h s v) (a : Nat) : Unseen t h s (v.touch a) := by
  unfold State.touch
  split
  · exact (Unseen.foldl (fun _ j hu => hu.wakeOwn hwait _ a j) _ (hv.fireArms _ a)).watchEngines _ a
  · exact hv

end
end Sys2Proof.Machine

namespace Sys2Proof.Machine
open Sys2Proof.Claims

/-! ## Poison written to a word of a scratchpad (R161, R206) -/

theorem val_of_mem {s u : State} (hmem : u.mem = s.mem) (a n : Nat) : u.val a n = s.val a n := by
  have hbytes : ∀ n a, u.bytes a n = s.bytes a n := by
    intro n
    induction n with
    | zero => exact fun _ => rfl
    | succ n ih => exact fun a => by rw [State.bytes, State.bytes, ih, State.byte, State.byte, hmem]
  rw [State.val, hbytes, State.val]

theorem setBytes_eq (bs : List Byte) (s : State) (a : Nat) : ∃ m, s.setBytes a bs = { s with mem := m } := by
  induction bs generalizing s a with
  | nil => exact ⟨s.mem, rfl⟩
  | cons b bs ih =>
    obtain ⟨m, hm⟩ := ih (s.setByte a b) (a + 1)
    exact ⟨m, hm⟩

theorem detect_of_noErr {s : State} {a : Nat} (hspad : isSpad a = true) (herr : noErr s a) : s.detect a = s := by
  obtain ⟨hunc, hone, htag⟩ := herr
  have hany : s.errOne.any (checkedWith a) = false := by
    rw [List.any_eq_false]
    intro w hw hwa
    rw [checkedWith, hspad, if_pos rfl, beq_iff_eq] at hwa
    subst hwa
    simp [hw] at hone
  simp only [State.detect, htag, hunc, hany, Bool.false_eq_true, if_false]

/-- What a poisoned write to a scratchpad word without a stored error comes to. -/
theorem put_poison_eq {s : State} {a : Nat} (hspad : isSpad a = true) (herr : noErr s a) (n v c : Nat) :
    ∃ uncs ones, s.put 0 a n v (c + 1) = (({ s with errUnc := uncs, errOne := ones } : State).setTagAt a false).markPoison a c := by
  have hpre : ∃ uncs ones, s.prewrite 0 a (n == 8) = ({ s with errUnc := uncs, errOne := ones } : State).setTagAt a false := by
    unfold State.prewrite
    rw [hspad, Bool.and_true, detect_of_noErr hspad herr]
    split
    · exact ⟨_, _, by rw [State.rekey, hspad, if_pos rfl, State.forgetErr]⟩
    · exact ⟨s.errUnc, s.errOne, by rw [State.rekey, hspad, if_pos rfl]⟩
  obtain ⟨uncs, ones, hx⟩ := hpre
  refine ⟨uncs, ones, ?_⟩
  rw [State.put, hx, if_pos (Nat.succ_ne_zero c), Nat.add_sub_cancel]

section
variable (s : State) (a c : Nat)

theorem markPoison_byte_other {b : Nat} (hb : b < a / 8 * 8 ∨ a / 8 * 8 + 8 ≤ b) : (s.markPoison a c).byte b = s.byte b := by
  rw [State.markPoison, State.byte, State.setPoisoned_mem]
  exact setVal_byte_other s _ hb

theorem markPoison_poisoned (b : Nat) : (s.markPoison a c).poisoned b = if b / 8 = a / 8 then true else s.poisoned b := by
  rw [State.markPoison, setPoisoned_poisoned, setVal_poisoned]

theorem markPoison_tagAt (b : Nat) : (s.markPoison a c).tagAt b = s.tagAt b := by
  rw [State.markPoison, State.tagAt, State.setPoisoned_tagged]
  exact setVal_tagAt s _ _ _ b

theorem markPoison_val : (s.markPoison a c).val (a / 8 * 8) 8 = c % 256 := by
  rw [State.markPoison, val_of_mem (State.setPoisoned_mem _ _ _), val_setVal]
  exact Nat.mod_eq_of_lt ((Nat.mod_lt c (by norm_num)).trans (by norm_num))

theorem markPoison_eq : ∃ m p, s.markPoison a c = { s with mem := m, psn := p } := by
  obtain ⟨m, hm⟩ := setBytes_eq (natLe 8 (c % 256)) s (a / 8 * 8)
  exact ⟨m, _, by rw [State.markPoison, State.setVal, hm, State.setPoisoned]⟩

end

/-- A poisoned write to a scratchpad word, with its waiters, seen from thread h of tile t: the word is poisoned, and nothing
outside it and its pair's tag has changed. -/
theorem store_poison {s u : State} {t h a n v c : Nat} (hspad : isSpad a = true) (herr : noErr s a) (hwait : (s.thr t h).wait = .none)
    (hu : s.store 0 a n v (c + 1) = u) :
    poisonWord u (a / 8 * 8) c ∧ keepsOutside s u (a / 8 * 8) (a / 8 * 8 + 8) ∧ u.evo = s.evo ∧ u.pkg = s.pkg ∧ u.curTile = s.curTile ∧
      u.curThr = s.curThr ∧ u.thr t h = s.thr t h := by
  obtain ⟨uncs, ones, hput⟩ := put_poison_eq hspad herr n v c
  obtain ⟨m, p, hmark⟩ := markPoison_eq (({ s with errUnc := uncs, errOne := ones } : State).setTagAt a false) a c
  have hstore : u = (s.put 0 a n v (c + 1)).touch a := by
    rw [← hu, State.store, State.touchPair, herr.2.2]
    rfl
  have hthr : (s.put 0 a n v (c + 1)).thr t h = s.thr t h := by rw [hput, hmark]; rfl
  have hseen : Unseen t h (s.put 0 a n v (c + 1)) u := hstore ▸ Unseen.touch (hthr ▸ hwait) .refl a
  have hpoison (b : Nat) : u.poisoned b = if b / 8 = a / 8 then true else s.poisoned b := by
    rw [State.poisoned, hseen.psn, hput]
    exact markPoison_poisoned _ a c b
  have htag (b : Nat) : u.tagAt b = if b / 16 = a / 16 then false else s.tagAt b := by
    rw [State.tagAt, hseen.tagged, hput]
    exact (markPoison_tagAt _ a c b).trans (setTagAt_tagAt _ a b false)
  have hbyte {b : Nat} (hb : b < a / 8 * 8 ∨ a / 8 * 8 + 8 ≤ b) : u.byte b = s.byte b := by
    rw [State.byte, hseen.mem, hput]
    exact markPoison_byte_other _ a c hb
  have hval : u.val (a / 8 * 8) 8 = c % 256 := by
    rw [val_of_mem hseen.mem, hput]
    exact markPoison_val _ a c
  refine ⟨⟨?_, hval⟩, fun b hb => ⟨hbyte hb, fun hb8 => ?_, fun hb16 => ?_⟩, ?_, ?_, ?_, ?_, hseen.thr.trans hthr⟩
  · rw [hpoison, if_pos (by omega)]
  · rw [hpoison, if_neg (by omega)]
  · rw [htag, if_neg (by omega)]
  · rw [hseen.evo, hput, hmark]; rfl
  · rw [hseen.pkg, hput, hmark]; rfl
  · rw [hseen.curTile, hput, hmark]; rfl
  · rw [hseen.curThr, hput, hmark]; rfl
end Sys2Proof.Machine

namespace Sys2Proof.Machine
open Sys2Proof.Claims

/-! ### Failed store data -/

theorem spareG_free : ∀ d a : GIx, spareG [d, a] ≠ 0 ∧ spareG [d, a] ≠ a := by decide

theorem rd_wr_self {th : Thread} {r : GIx} (hr : r ≠ 0) (x : GReg) : (th.wr r x).rd r = x := by
  simp [Thread.rd, Thread.wr, hr]

theorem rd_wr_other {th : Thread} {r a : GIx} (ha : a ≠ r) (x : GReg) : (th.wr r x).rd a = th.rd a := by
  have hval : (a : Nat) ≠ r := fun h => ha (Fin.ext h)
  by_cases hr : r = 0
  · rw [Thread.wr, if_pos hr]
  · rw [Thread.wr, if_neg hr, Thread.rd, Thread.rd]
    dsimp only
    rw [mget_mset_other _ _ _ hval]

theorem tilePoison_mark (c t : Nat) : (tilePoison c t).mark = c % 256 + 1 := by
  have hbody : (BitVec.ofNat 64 t ++ BitVec.ofNat 64 (c % 256)).toNat % 256 = c % 256 := by
    rw [BitVec.toNat_append, ← Nat.shiftLeft_add_eq_or_of_lt (BitVec.isLt _), Nat.shiftLeft_eq, BitVec.toNat_ofNat, BitVec.toNat_ofNat]
    omega
  simp only [GReg.mark, GReg.cls, tilePoison, poisonVal, GReg.isPoison, beq_self_eq_true, if_true, hbody]

theorem wr_succ (th : Thread) (r : GIx) (x : GReg) : (th.wr r x).succ = th.succ := by
  simp [Thread.succ, Thread.heads, Thread.line]

/-- The state in which a store with failed data executes: a spare register holds the poison that it stores. -/
def State.spoilData (s : State) (r : GIx) : State := s.secondRun.setCur (s.secondRun.cur.wr r (tilePoison 7 s.curTile))

theorem spoilData_cur (s : State) (r : GIx) : (s.spoilData r).cur = s.secondRun.cur.wr r (tilePoison 7 s.curTile) := setCur_cur _ _
@[simp] theorem spoilData_curTile (s : State) (r : GIx) : (s.spoilData r).curTile = s.curTile := rfl
@[simp] theorem spoilData_curThr (s : State) (r : GIx) : (s.spoilData r).curThr = s.curThr := rfl

theorem execSpoiled_st {s : State} {sz : Fin 4} {d a : GIx} {m : BitVec 20} {f : Faulty} {u : State} (hf : f.data = true)
    (hexec : exec (.st sz (spareG [d, a]) a m) (s.spoilData (spareG [d, a])) = .next u) :
    s.secondRun.execSpoiled (.st sz d a m) f =
      .next (u.updThr s.curTile s.curThr fun th => th.wr (spareG [d, a]) (s.secondRun.cur.rd (spareG [d, a]))) := by
  have hexec' : exec (.st sz (spareG [d, a]) a m) (s.secondRun.setCur (s.secondRun.cur.wr (spareG [d, a])
    (tilePoison 7 s.secondRun.curTile))) = .next u := hexec
  simp only [State.execSpoiled, dataG, dataV, hf, isAtomic, Bool.not_true, Bool.false_and, Bool.or_self, Bool.false_eq_true, if_false, hexec']
  rfl

theorem postInc_of_plain {m : BitVec 20} (hm : m.getLsbD 19 = false) (th : Thread) (a : GIx) : th.postInc a m = th := by
  rw [Thread.postInc, memPi_eq, hm, if_neg Bool.false_ne_true]

/-- The flit of a store whose data is poison of the checker. -/
def spoiledStore (n : Nat) (x : GReg) : Flit := { op := .store, size := n, data := dataOf n x.low.toNat, psn := [8] }

theorem exec_st_spoiled {s : State} {sz : Fin 4} {d a : GIx} {m : BitVec 20} (hm : m.getLsbD 19 = false) :
    exec (.st sz (spareG [d, a]) a m) (s.spoilData (spareG [d, a])) =
      (s.spoilData (spareG [d, a])).posted (addrOpnd (s.spoilData (spareG [d, a])).cur a permST loadStore (2 ^ sz.val) (dispM m)) none none
        (tilePoison 7 s.curTile).low (fun _ => spoiledStore (2 ^ sz.val) (tilePoison 7 s.curTile)) Thread.retire := by
  have hdata : ((s.spoilData (spareG [d, a])).cur.postInc a m).rd (spareG [d, a]) = tilePoison 7 s.curTile := by
    rw [postInc_of_plain hm, spoilData_cur, rd_wr_self (spareG_free d a).1]
  have hfin : (fun th : Thread => (th.postInc a m).retire) = Thread.retire := funext fun th => by rw [postInc_of_plain hm]
  change execSt sz (spareG [d, a]) a m (s.spoilData (spareG [d, a])) = _
  unfold execSt
  rw [hdata, hfin, mOff_eq_dispM]
  dsimp only
  rw [tilePoison_mark]
  rfl

theorem spoilData_rd (s : State) (d a : GIx) : (s.spoilData (spareG [d, a])).cur.rd a = s.cur.rd a := by
  rw [spoilData_cur, rd_wr_other (spareG_free d a).2.symm, secondRun_cur]
  rfl

/-- An access that the address register grants before its data failed it grants after. -/
theorem Reaches.of_spoilData {s : State} {d a : GIx} {need t k n : Nat} {disp : Int} (h : Reaches s a need t k n disp) :
    Reaches (s.spoilData (spareG [d, a])) a need t k n disp := by
  have hrd := spoilData_rd s d a
  refine ⟨?_, ?_, ?_, ?_, ?_, ?_, h.within, h.aligned, ?_⟩
  · rw [hrd]; exact h.cap
  · rw [hrd]; exact h.tile
  · rw [hrd]; exact h.grants
  · rw [hrd]; exact h.plain
  · rw [hrd]; exact h.lower
  · rw [hrd]; exact h.upper
  · rw [names, hrd]; exact h.cursor

theorem reaches_of_own {s : State} {a : GIx} {need k n : Nat} {disp : Int} (hnames : names s a disp k) (hown : ownAccess s a need k n) :
    Reaches s a need s.curTile k n disp := by
  obtain ⟨hcap, htile, hgrants, hplain, hlo, hhi, htop, halign⟩ := hown
  exact ⟨hcap, htile, hgrants, hplain, hlo, hhi, htop, halign, hnames⟩

theorem reaches_of_far {s : State} {a : GIx} {need t k n : Nat} {disp : Int} (hnames : names s a disp k) (hfar : farAccess s a need t k n) :
    Reaches s a need t k n disp := by
  obtain ⟨-, -, hcap, htile, hgrants, hplain, hlo, hhi, htop, halign⟩ := hfar
  exact ⟨hcap, htile, hgrants, hplain, hlo, hhi, htop, halign, hnames⟩

theorem size_dvd (sz : Fin 4) : 2 ^ sz.val ∣ 2 ^ 32 := pow_dvd_pow 2 (by omega)

theorem Reaches.lt {s : State} {a : GIx} {need t k : Nat} {sz : Fin 4} {disp : Int} (h : Reaches s a need t k (2 ^ sz.val) disp) :
    k < 2 ^ 19 := by
  have hpos : 0 < 2 ^ sz.val := Nat.two_pow_pos _
  have hwithin := h.within
  omega

/-- The store with failed data executes on the own tile. -/
theorem exec_st_own {s : State} {sz : Fin 4} {d a : GIx} {m : BitVec 20} {k : Nat} {u : State} (hm : m.getLsbD 19 = false)
    (h : Reaches s a permST s.curTile k (2 ^ sz.val) (dispM m)) (hserved : s.cur.served = [])
    (hfree : (s.spoilData (spareG [d, a])).refusing [k] = [])
    (hu : (s.spoilData (spareG [d, a])).store 0 (spad s.curTile k) (2 ^ sz.val)
      (leNat (dataOf (2 ^ sz.val) (tilePoison 7 s.curTile).low.toNat)) 8 = u)
    (htile : u.curTile = s.curTile) :
    exec (.st sz (spareG [d, a]) a m) (s.spoilData (spareG [d, a])) = .next (u.setCur u.cur.retire) := by
  have ht := h.tile_lt
  have hoff := gaOff_gaSpad s.curTile h.lt
  have hperform : ((s.spoilData (spareG [d, a])).performFlit 0 (spad (s.spoilData (spareG [d, a])).curTile (gaOff (gaSpad s.curTile k)))
      (spoiledStore (2 ^ sz.val) (tilePoison 7 s.curTile))).2 = u := by
    rw [hoff, ← hu]
    rfl
  rw [exec_st_spoiled hm]
  refine posted_own ((h.of_spoilData (d := d)).checks (size_dvd sz) rfl) (hbmGa_gaSpad ht h.lt _) hperform ?_ ?_ ?_ ?_
  · rw [ownGa_gaSpad ht h.lt]; exact decide_eq_true rfl
  · rw [ownGa_gaSpad ht h.lt, htile]; exact decide_eq_true rfl
  · rw [spoilData_cur, Thread.wr_served, secondRun_cur]; exact hserved
  · rw [hoff]; exact hfree

theorem refusing_setCur {s : State} {x : Thread} (hx : x.retryBanks = s.cur.retryBanks) (offs : List Nat) :
    (s.setCur x).refusing offs = s.refusing offs := by
  have hstanding (b : Nat) : (s.curT.setThread s.curThr x).standing b = s.curT.standing b := rfl
  simp only [State.refusing, setCur_cur, setCur_curT, hx, hstanding, Tile.setThread_mending, Tile.setThread_replay, Tile.setThread_taken]

theorem refusing_secondRun (s : State) (offs : List Nat) : s.secondRun.refusing offs = s.refusing offs :=
  refusing_setCur (s := s) (x := { s.cur with recheck := .no }) rfl offs

theorem refusing_spoilData (s : State) (r : GIx) (offs : List Nat) : (s.spoilData r).refusing offs = s.refusing offs := by
  rw [State.spoilData, refusing_setCur (Thread.wr_retryBanks _ _ _), refusing_secondRun]

theorem noErr_spoilData {s : State} {a : Nat} (h : noErr s a) (r : GIx) : noErr (s.spoilData r) a := by
  simpa only [noErr, State.spoilData, State.secondRun, State.setCur_errUnc, State.setCur_errOne, State.setCur_errTag] using h

theorem retire_pc (th : Thread) : th.retire.pc = th.succ := rfl
theorem retire_retired (th : Thread) : th.retire.retired = th.retired + 1 := rfl

/-- The thread that has made a store with failed data. -/
def State.storer (s : State) (r : GIx) : Thread := (s.spoilData r).cur.retire.wr r (s.secondRun.cur.rd r)

theorem storer_run (s : State) (r : GIx) : (s.storer r).run = s.cur.run := by
  rw [State.storer, Thread.wr_run, Thread.retire_run, spoilData_cur, Thread.wr_run, secondRun_cur]

theorem storer_retired (s : State) (r : GIx) : (s.storer r).retired = s.cur.retired + 1 := by
  rw [State.storer, Thread.wr_retired, retire_retired, spoilData_cur, Thread.wr_retired, secondRun_cur]

theorem storer_pc (s : State) (r : GIx) : (s.storer r).pc = s.cur.succ := by
  rw [State.storer, Thread.wr_pc, retire_pc, spoilData_cur, wr_succ, secondRun_cur]
  rfl

theorem setCur_thr_of_eq {u : State} {t h : Nat} (ht : u.curTile = t) (hh : u.curThr = h) (x : Thread) : (u.setCur x).thr t h = x := by
  subst ht hh
  exact setCur_cur u x

/-- The state in which a store with failed data has retired: the spare register holds again what it held. -/
def State.storeRetired (u : State) (t h : Nat) (th : Thread) : State := ((u.setCur u.cur.retire).setThr t h th).setThr t h th

/-- A thread written leaves the queues of every tile. -/
theorem setThr_queues (u : State) (t h : Nat) (x : Thread) (k : Nat) :
    ((u.setThr t h x).tile k).injA = (u.tile k).injA ∧ ((u.setThr t h x).tile k).posted = (u.tile k).posted := by
  by_cases hk : k = t
  · subst hk
    rw [setThr_tile_self, Tile.setThread_injA, Tile.setThread_posted]
    exact ⟨rfl, rfl⟩
  · rw [State.setThr, setTile_tile_other _ _ hk]
    exact ⟨rfl, rfl⟩

theorem storeRetired_queues (u : State) (t h : Nat) (th : Thread) (k : Nat) :
    ((u.storeRetired t h th).tile k).injA = (u.tile k).injA ∧ ((u.storeRetired t h th).tile k).posted = (u.tile k).posted := by
  obtain ⟨hinj₁, hpost₁⟩ := setThr_queues ((u.setCur u.cur.retire).setThr t h th) t h th k
  obtain ⟨hinj₂, hpost₂⟩ := setThr_queues (u.setCur u.cur.retire) t h th k
  obtain ⟨hinj₃, hpost₃⟩ := setThr_queues u u.curTile u.curThr u.cur.retire k
  exact ⟨hinj₁.trans (hinj₂.trans hinj₃), hpost₁.trans (hpost₂.trans hpost₃)⟩

theorem storeRetired_mem (u : State) (t h : Nat) (th : Thread) : (u.storeRetired t h th).mem = u.mem := by
  rw [State.storeRetired, State.setThr_mem, State.setThr_mem, State.setCur_mem]
theorem storeRetired_psn (u : State) (t h : Nat) (th : Thread) : (u.storeRetired t h th).psn = u.psn := by
  rw [State.storeRetired, State.setThr_psn, State.setThr_psn, State.setCur_psn]
theorem storeRetired_tagged (u : State) (t h : Nat) (th : Thread) : (u.storeRetired t h th).tagged = u.tagged := by
  rw [State.storeRetired, State.setThr_tagged, State.setThr_tagged, State.setCur_tagged]
theorem storeRetired_evo (u : State) (t h : Nat) (th : Thread) : (u.storeRetired t h th).evo = u.evo := by
  rw [State.storeRetired, State.setThr_evo, State.setThr_evo, State.setCur_evo]
theorem storeRetired_curTile (u : State) (t h : Nat) (th : Thread) : (u.storeRetired t h th).curTile = u.curTile := by
  rw [State.storeRetired, State.setThr_curTile, State.setThr_curTile, State.setCur_curTile]
theorem storeRetired_cur {u : State} {t h : Nat} (ht : u.curTile = t) (hh : u.curThr = h) (th : Thread) :
    (u.storeRetired t h th).cur = th :=
  setThr_cur (by rw [State.setThr_curTile, State.setCur_curTile, ht]) (by rw [State.setThr_curThr, State.setCur_curThr, hh]) th

/-- A store whose data failed and that retires commits as it stands. -/
theorem checked_st {s u : State} {sz : Fin 4} {d a : GIx} {m : BitVec 20} {f : Faulty} (hre : s.cur.recheck = .fails f)
    (hafp : s.cur.afp = false) (hrun : s.cur.run = .rotation) (hm : m.getLsbD 19 = false) (haddr : f.addr = false) (hdata : f.data = true)
    (htile : u.curTile = s.curTile) (hthr : u.curThr = s.curThr) (hcur : u.cur = (s.spoilData (spareG [d, a])).cur)
    (hexec : exec (.st sz (spareG [d, a]) a m) (s.spoilData (spareG [d, a])) = .next (u.setCur u.cur.retire)) :
    s.checked (.st sz d a m) = .next (u.storeRetired s.curTile s.curThr (s.storer (spareG [d, a]))).mismatchEvent := by
  have hspoiled := execSpoiled_st hdata hexec
  have hown : (u.setCur u.cur.retire).thr s.curTile s.curThr = (s.spoilData (spareG [d, a])).cur.retire := by
    rw [setCur_thr_of_eq htile hthr, hcur]
  rw [State.updThr, hown] at hspoiled
  have hbase : baseG (.st sz d a m) = none := by rw [baseG, memPi_eq, hm, if_neg Bool.false_ne_true]
  have hcommit := commitFailed_retired (s := s.secondRun) (f := f) (th := s.storer (spareG [d, a])) hspoiled (setThr_thr_self _ _ _ _)
    (by rw [storer_run, hrun]) (by rw [storer_retired, secondRun_cur]; exact word_succ_ne _)
  rw [spoiled_none rfl hbase rfl] at hcommit
  rw [checked_commits hre hafp (Bool.and_false _) (by rw [haddr, Bool.false_and]), hcommit]
  rfl

@[simp] theorem mismatchEvent_psn (s : State) : s.mismatchEvent.psn = s.psn := rfl
@[simp] theorem mismatchEvent_tagged (s : State) : s.mismatchEvent.tagged = s.tagged := rfl

theorem machineCheck_storeRetired {s u : State} (hevo : u.evo = s.evo) (htile : u.curTile = s.curTile) (t h : Nat) (th : Thread) :
    machineCheck s (u.storeRetired t h th).mismatchEvent (u.storeRetired t h th).mismatchEvent.evo :=
  machineCheck_mismatchEvent ((storeRetired_evo u t h th).trans hevo) ((storeRetired_curTile u t h th).trans htile)

theorem poisonWord_congr {u v : State} (hmem : v.mem = u.mem) (hpsn : v.psn = u.psn) {w c : Nat} (h : poisonWord u w c) :
    poisonWord v w c := by
  obtain ⟨hp, hval⟩ := h
  rw [State.poisoned, ← hpsn] at hp
  exact ⟨hp, (val_of_mem hmem w 8).trans hval⟩

theorem keepsOutside_congr {s r u v : State} (hrmem : r.mem = s.mem) (hrpsn : r.psn = s.psn) (hrtag : r.tagged = s.tagged)
    (hmem : v.mem = u.mem) (hpsn : v.psn = u.psn) (htag : v.tagged = u.tagged) {lo hi : Nat} (h : keepsOutside r u lo hi) :
    keepsOutside s v lo hi := by
  intro c hc
  obtain ⟨hb, hp, ht⟩ := h c hc
  simp only [State.byte, State.poisoned, State.tagAt, hmem, hpsn, htag, hrmem, hrpsn, hrtag] at hb hp ht ⊢
  exact ⟨hb, hp, ht⟩

theorem isSpad_spad (t k : Nat) : isSpad (spad t k) = true := by simp [isSpad, spad, Nat.add_assoc]

theorem spoilData_mem (s : State) (r : GIx) : (s.spoilData r).mem = s.mem := by rw [State.spoilData, State.setCur_mem, secondRun_mem]
theorem spoilData_psn (s : State) (r : GIx) : (s.spoilData r).psn = s.psn := by
  rw [State.spoilData, State.setCur_psn, State.secondRun, State.setCur_psn]
theorem spoilData_tagged (s : State) (r : GIx) : (s.spoilData r).tagged = s.tagged := by
  rw [State.spoilData, State.setCur_tagged, State.secondRun, State.setCur_tagged]
theorem spoilData_evo (s : State) (r : GIx) : (s.spoilData r).evo = s.evo := by rw [State.spoilData, State.setCur_evo, secondRun_evo]

/-- Failed store data poisons the word on the own tile. -/
theorem secondMismatch_store_own {s : State} {sz : Fin 4} {d a : GIx} {m : BitVec 20} {f : Faulty} {k : Nat}
    (hre : s.cur.recheck = .fails f) (hafp : s.cur.afp = false) (hrun : s.cur.run = .rotation) (hm : m.getLsbD 19 = false)
    (haddr : f.addr = false) (hdata : f.data = true) (hnames : names s a (dispM m) k) (hown : ownAccess s a 2 k (2 ^ sz.val))
    (hfree : free s [k]) (herr : noErr s (spad s.curTile k)) :
    ∃ v e, machineCheck s v e ∧ s.checked (.st sz d a m) = .next v ∧ v.cur.pc = s.cur.succ ∧ v.cur.retired = s.cur.retired + 1 ∧
      poisonWord v (spad s.curTile k / 8 * 8) 7 ∧ keepsOutside s v (spad s.curTile k / 8 * 8) (spad s.curTile k / 8 * 8 + 8) := by
  obtain ⟨hserved, hwait, hbanks⟩ := hfree
  have hreach : Reaches s a permST s.curTile k (2 ^ sz.val) (dispM m) := reaches_of_own hnames hown
  have hwait' : ((s.spoilData (spareG [d, a])).thr s.curTile s.curThr).wait = .none := by
    show (s.spoilData (spareG [d, a])).cur.wait = .none
    rw [spoilData_cur, Thread.wr_wait, secondRun_cur]
    exact hwait
  obtain ⟨hpoison, hkeeps, hevo, -, htile, hthr, hown'⟩ := store_poison (isSpad_spad s.curTile k)
    (noErr_spoilData herr (spareG [d, a])) hwait' (n := 2 ^ sz.val) (v := leNat (dataOf (2 ^ sz.val) (tilePoison 7 s.curTile).low.toNat))
    (c := 7) rfl
  generalize hu : (s.spoilData (spareG [d, a])).store 0 (spad s.curTile k) (2 ^ sz.val)
    (leNat (dataOf (2 ^ sz.val) (tilePoison 7 s.curTile).low.toNat)) (7 + 1) = u at hpoison hkeeps hevo htile hthr hown'
  rw [spoilData_curTile] at htile
  rw [spoilData_curThr] at hthr
  rw [spoilData_evo] at hevo
  have hcur : u.cur = (s.spoilData (spareG [d, a])).cur := by
    rw [State.cur, htile, hthr, hown']
    rfl
  have hexec := exec_st_own hm hreach hserved (by rw [refusing_spoilData, hbanks]) hu htile
  have hchecked := checked_st hre hafp hrun hm haddr hdata htile hthr hcur hexec
  have hstorer := storeRetired_cur htile hthr (s.storer (spareG [d, a]))
  have hmem := (mismatchEvent_mem _).trans (storeRetired_mem u s.curTile s.curThr (s.storer (spareG [d, a])))
  have hpsn := (mismatchEvent_psn _).trans (storeRetired_psn u s.curTile s.curThr (s.storer (spareG [d, a])))
  have htagged := (mismatchEvent_tagged _).trans (storeRetired_tagged u s.curTile s.curThr (s.storer (spareG [d, a])))
  refine ⟨_, _, machineCheck_storeRetired hevo htile _ _ _, hchecked, ?_, ?_, ?_, ?_⟩
  · rw [mismatchEvent_cur, hstorer, storer_pc]
  · rw [mismatchEvent_cur, hstorer, storer_retired]
  · exact poisonWord_congr hmem hpsn hpoison
  · exact keepsOutside_congr (spoilData_mem s _) (spoilData_psn s _) (spoilData_tagged s _) hmem hpsn htagged hkeeps
end Sys2Proof.Machine

namespace Sys2Proof.Machine
open Sys2Proof.Claims

/-! ### Failed store data sent to another tile -/

/-- A message queued for plane A injection at a tile, with the operation outstanding. -/
def State.posting (s : State) (t : Nat) (q : Posted) (g : Flit) : State :=
  (({ s with tags := s.tags + 1 } : State).updTile t fun x => { x with posted := x.posted ++ [q] }).updTile t
    fun x => { x with injA := x.injA ++ [g] }

/-- The message of a store from tile src to offset k of tile t. -/
def State.storeMessage (s : State) (src t k : Nat) (f : Flit) : Flit :=
  place (tileX src) (.tile t)
    { f with tag := s.tags + 1, ctx := (s.tile src).ctx, src := .tile src, ga := gaSpad t k % 2 ^ 46, dpkg := none }

/-- Its one flit. -/
def storeFlit (f : Flit) : Flit := { f with fidx := 0, data := f.data.take 32, psn := f.psn.take 4 }

theorem flitsOf_single {f : Flit} (hlast : f.flast = 0) : flitsOf f = [storeFlit f] := by
  simp [flitsOf, hlast, storeFlit]

theorem inject_store {f : Flit} (hop : f.op = .store) (s : State) (src : Nat) :
    s.inject (.tile src) f = s.updTile src fun x => { x with injA := x.injA ++ [f] } := by
  simp only [State.inject, planeB, hop, Bool.false_eq_true, if_false]

theorem post_store (s : State) {src t k : Nat} (ht : t < 4096) (hk : k < 2 ^ 19) (kind : PostKind) (pc : Word) (head : Nat) (opnd : Word)
    {f : Flit} (hop : f.op = .store) (hlast : f.flast = 0) :
    s.post src kind pc head opnd (gaSpad t k) none f =
      s.posting src { tag := s.tags + 1, kind := kind, flit := s.storeMessage src t k f, addr := gaSpad t k, pc := pc, head := head, opnd := opnd }
        (storeFlit (s.storeMessage src t k f)) := by
  have hflits : flitsOf (s.storeMessage src t k f) = [storeFlit (s.storeMessage src t k f)] := flitsOf_single hlast
  have hinject := inject_store (f := storeFlit (s.storeMessage src t k f)) hop
  unfold State.post
  rw [homeOf_gaSpad ht hk]
  change (flitsOf (s.storeMessage src t k f)).foldl (fun s g => s.inject (.tile src) g)
    (({ s with tags := s.tags + 1 } : State).updTile src fun x => { x with posted := x.posted ++
      [{ tag := s.tags + 1, kind := kind, flit := s.storeMessage src t k f, addr := gaSpad t k, pc := pc, head := head, opnd := opnd }] }) = _
  rw [hflits]
  exact hinject _ src

theorem posting_tile (s : State) (t : Nat) (q : Posted) (g : Flit) :
    (s.posting t q g).tile t = { s.tile t with posted := (s.tile t).posted ++ [q], injA := (s.tile t).injA ++ [g] } := by
  rw [State.posting, updTile_tile_self, updTile_tile_self]
  rfl

theorem posting_thr (s : State) (t : Nat) (q : Posted) (g : Flit) (u h : Nat) : (s.posting t q g).thr u h = s.thr u h := by
  rw [State.posting, updTile_thr _ _ _ _ rfl, updTile_thr _ _ _ _ rfl]
  rfl

@[simp] theorem posting_curTile (s : State) (t : Nat) (q : Posted) (g : Flit) : (s.posting t q g).curTile = s.curTile := rfl
@[simp] theorem posting_curThr (s : State) (t : Nat) (q : Posted) (g : Flit) : (s.posting t q g).curThr = s.curThr := rfl
@[simp] theorem posting_evo (s : State) (t : Nat) (q : Posted) (g : Flit) : (s.posting t q g).evo = s.evo := rfl
@[simp] theorem posting_mem (s : State) (t : Nat) (q : Posted) (g : Flit) : (s.posting t q g).mem = s.mem := rfl
@[simp] theorem mismatchEvent_tile (s : State) (t : Nat) : s.mismatchEvent.tile t = s.tile t := rfl

theorem spoilData_posted (s : State) (r : GIx) : ((s.spoilData r).tile s.curTile).posted = s.curT.posted := by
  have hsecond := (setThr_queues s s.curTile s.curThr { s.cur with recheck := .no } s.curTile).2
  exact (setThr_queues s.secondRun s.curTile s.curThr _ s.curTile).2.trans hsecond

theorem retryRoom_setCur (s : State) (x : Thread) (t n : Nat) : (s.setCur x).retryRoom t n = s.retryRoom t n := by
  have htile : ∃ l, (s.setCur x).tile t = { s.tile t with threads := l } := by
    by_cases ht : s.curTile = t
    · rw [setCur_tile_of_eq ht]
      exact ⟨_, rfl⟩
    · rw [State.setCur, State.setThr, setTile_tile_other _ _ (Ne.symm ht)]
      exact ⟨_, rfl⟩
  obtain ⟨l, hl⟩ := htile
  have hload : (s.setCur x).retryLoad t = s.retryLoad t := by
    simp only [State.retryLoad, hl, State.setCur_sigWaits]
  rw [State.retryRoom, hload, State.retryRoom]

theorem retryRoom_spoilData (s : State) (r : GIx) (t n : Nat) : (s.spoilData r).retryRoom t n = s.retryRoom t n := by
  rw [State.spoilData, retryRoom_setCur, State.secondRun, retryRoom_setCur]

theorem storeMessage_place (s : State) {src t k : Nat} (hk : k < 2 ^ 19) (f : Flit) :
    (storeFlit (s.storeMessage src t k f)).home = .tile t ∧ (storeFlit (s.storeMessage src t k f)).ga % 2 ^ 19 = k ∧
      (storeFlit (s.storeMessage src t k f)).tag = s.tags + 1 ∧ (storeFlit (s.storeMessage src t k f)).src = .tile src := by
  refine ⟨rfl, ?_, rfl, rfl⟩
  show gaSpad t k % 2 ^ 46 % 2 ^ 19 = k
  simp only [gaSpad]
  omega

/-- Failed store data goes out poisoned to another tile. -/
theorem secondMismatch_store_far {s : State} {sz : Fin 4} {d a : GIx} {m : BitVec 20} {f : Faulty} {t k : Nat}
    (hre : s.cur.recheck = .fails f) (hafp : s.cur.afp = false) (hrun : s.cur.run = .rotation) (hm : m.getLsbD 19 = false)
    (haddr : f.addr = false) (hdata : f.data = true) (hnames : names s a (dispM m) k) (hfar : farAccess s a 2 t k (2 ^ sz.val))
    (hroom : s.retryRoom s.curTile 1 = true) :
    ∃ v e g, machineCheck s v e ∧ s.checked (.st sz d a m) = .next v ∧ asked s v t k g ∧ g.op = .store ∧ g.psn = [8] := by
  have hreach : Reaches s a permST t k (2 ^ sz.val) (dispM m) := reaches_of_far hnames hfar
  have hother : t ≠ s.curTile := hfar.1
  have ht := hreach.tile_lt
  have hown : (s.spoilData (spareG [d, a])).ownGa (gaSpad t k) = false := by
    rw [ownGa_gaSpad ht hreach.lt]
    exact decide_eq_false hother
  obtain ⟨q, g, hpost, hg⟩ : ∃ q g, (s.spoilData (spareG [d, a])).post s.curTile (.posted s.curThr) (s.spoilData (spareG [d, a])).cur.pc
      (s.spoilData (spareG [d, a])).curHead (tilePoison 7 s.curTile).low (gaSpad t k) none
      { spoiledStore (2 ^ sz.val) (tilePoison 7 s.curTile) with
        idx := 0, flag := 0, thr := s.curThr, sup := (s.spoilData (spareG [d, a])).cur.priv } =
        (s.spoilData (spareG [d, a])).posting s.curTile q g ∧ (g.home = .tile t ∧ g.ga % 2 ^ 19 = k ∧
          g.tag = (s.spoilData (spareG [d, a])).tags + 1 ∧ g.src = .tile s.curTile) ∧ g.op = .store ∧ g.psn = [8] :=
    ⟨_, _, post_store _ ht hreach.lt _ _ _ _ rfl rfl, storeMessage_place _ hreach.lt _, rfl, rfl⟩
  obtain ⟨⟨hhome, hga, htag, hsrc⟩, hop, hpsn⟩ := hg
  generalize hu : (s.spoilData (spareG [d, a])).posting s.curTile q g = u at hpost
  have hexec : exec (.st sz (spareG [d, a]) a m) (s.spoilData (spareG [d, a])) = .next (u.setCur u.cur.retire) := by
    rw [exec_st_spoiled hm]
    exact posted_far ((hreach.of_spoilData (d := d)).checks (size_dvd sz) rfl) (hbmGa_gaSpad ht hreach.lt _) hpost hown
      ((retryRoom_spoilData s _ _ _).trans hroom)
  have htile : u.curTile = s.curTile := by rw [← hu, posting_curTile, spoilData_curTile]
  have hthr : u.curThr = s.curThr := by rw [← hu, posting_curThr, spoilData_curThr]
  have hevo : u.evo = s.evo := by rw [← hu, posting_evo, spoilData_evo]
  have hmem : u.mem = s.mem := by rw [← hu, posting_mem, spoilData_mem]
  have hcur : u.cur = (s.spoilData (spareG [d, a])).cur := by
    rw [State.cur, htile, hthr, ← hu, posting_thr, State.cur, spoilData_curTile, spoilData_curThr]
  have hqueue : u.tile s.curTile = _ := hu ▸ posting_tile _ _ q g
  obtain ⟨hinj, hposted⟩ := storeRetired_queues u s.curTile s.curThr (s.storer (spareG [d, a])) s.curTile
  refine ⟨_, _, g, machineCheck_storeRetired hevo htile _ _ _, checked_st hre hafp hrun hm haddr hdata htile hthr hcur hexec,
    ⟨?_, hhome, hga, htag, hsrc, ?_, ?_⟩, hop, hpsn⟩
  · rw [mismatchEvent_tile, hinj, hqueue]
    exact List.mem_append_right _ (List.mem_singleton_self g)
  · rw [mismatchEvent_tile, hposted, hqueue]
    show ((((s.spoilData (spareG [d, a])).tile s.curTile).posted ++ [q]).length) = _
    rw [List.length_append, spoilData_posted]
    rfl
  · rw [mismatchEvent_mem, storeRetired_mem, hmem]
end Sys2Proof.Machine

namespace Sys2Proof.Machine
open Sys2Proof.Claims

theorem secondMismatch : SecondMismatch := by
  intro s i f hre s1
  refine ⟨fun hafp hi => checked_pending hre hafp (synchronises_of_pending hi), fun hafp hrun => ⟨fun hi hf => ?_, fun hi hf hhalt hroom => ?_,
    fun d hi => ?_, fun d hi => ?_, fun sz d a m o hi hm haddr hdata hnames => ⟨fun hown hfree _ herr => ?_, fun t hfar _ hroom => ?_⟩⟩⟩
  · exact secondMismatch_control hre hafp hi hf
  · exact secondMismatch_address hre hafp hi hf hhalt hroom
  · exact secondMismatch_result hre hafp hrun hi
  · exact secondMismatch_lanes hre hafp hrun hi
  · subst hi
    exact secondMismatch_store_own hre hafp hrun hm haddr hdata hnames hown hfree herr
  · subst hi
    exact secondMismatch_store_far hre hafp hrun hm haddr hdata hnames hfar hroom

/-- Settles O60: the first mismatch, the second, and the slots of replay mode, each by what the checker or the slot comes to. -/
theorem checkerAndReplay : Obligations.CheckerAndReplay := ⟨firstMismatch, secondMismatch, replaySlots⟩
end Sys2Proof.Machine

namespace Sys2Proof.Machine
open Sys2Proof.Claims

/-! ## The register files (R41, R44, R46) -/

theorem wr_zero (th : Thread) (v : GReg) : th.wr 0 v = th := rfl

theorem wk_zero (th : Thread) (x : BitVec 16) : th.wk 0 x = th := rfl

theorem rd_wr (th : Thread) (d r : GIx) (v : GReg) : (th.wr d v).rd r = if r = d ∧ d ≠ 0 then v else th.rd r := by
  split
  · next h => rw [h.1, rd_wr_self h.2]
  · next h =>
    by_cases hr : r = d
    · obtain rfl : d = 0 := by_contra fun hd => h ⟨hr, hd⟩
      rw [wr_zero]
    · exact rd_wr_other hr v

theorem rk_wk (th : Thread) (d r : KIx) (x : BitVec 16) : (th.wk d x).rk r = if r = d ∧ d ≠ 0 then x else th.rk r := by
  by_cases hd : d = 0
  · subst hd
    rw [wk_zero, if_neg fun h => h.2 rfl]
  · simp only [Thread.wk, hd, if_false, Thread.rk, mget_mset, Fin.val_inj, ne_eq, not_false_eq_true, and_true]
    by_cases hr : r = d
    · simp [hr, hd]
    · simp [hr]

theorem rv_wv (th : Thread) (d r : VIx) (v : VReg) : (th.wv d v).rv r = if r = d then v else th.rv r := by
  simp only [Thread.wv, Thread.rv, mget_mset, Fin.val_inj]

theorem registerFile : RegisterFile := fun th =>
  ⟨⟨rfl, rfl⟩, wr_zero th, wk_zero th, fun d v r => rd_wr th d r v, fun d x r => rk_wk th d r x, fun d v r => rv_wv th d r v⟩

/-! ## The separateness of threads (R40, R189) -/

theorem setThr_thr (s : State) (t h t' h' : Nat) (x : Thread) :
    (s.setThr t h x).thr t' h' = if t' = t ∧ h' = h then x else s.thr t' h' := by
  split
  · next heq => rw [heq.1, heq.2, setThr_thr_self]
  · next hne => exact setThr_thr_other s x hne

theorem threadsSeparate : ThreadsSeparate := by
  intro s t h t' h' x
  refine ⟨setThr_thr s t h t' h' x, State.setThr_mem s t h x, fun hne => setTile_tile_other s _ hne, ?_⟩
  rw [setThr_tile_self]
  rfl

/-- Settles O11: the files by the law of reading a keyed collection after a write, the threads by the same law twice, for the
tile and for the thread in it. -/
theorem registers : Obligations.Registers := ⟨registerFile, threadsSeparate⟩
end Sys2Proof.Machine

namespace Sys2Proof.Machine
open Sys2Proof.Claims

/-! ## The fields of a capability (R49-R56, Tables 2.5-2.8) -/

theorem field_of_low (r : GReg) {lo w : Nat} (h : lo + w ≤ 64) : field r lo w = r.low.toNat / 2 ^ lo % 2 ^ w := by
  rw [field_eq, low_toNat, ← Nat.add_sub_of_le (Nat.le_of_add_right_le h), Nat.pow_add, Nat.mod_mul_right_div_self,
    Nat.mod_mod_of_dvd _ (pow_dvd_pow 2 (by omega))]

theorem field_of_upper (r : GReg) (lo w : Nat) : field r (lo + 64) w = r.upper.toNat / 2 ^ lo % 2 ^ w := by
  rw [field_eq, upper_toNat, Nat.div_div_eq_div_mul, Nat.add_comm lo, Nat.pow_add]

theorem wfield_eq (x : Word) (lo w : Nat) : wfield x lo w = x.toNat / 2 ^ lo % 2 ^ w := by
  rw [wfield, BitVec.extractLsb'_toNat, Nat.shiftRight_eq_div_pow]

theorem wovenCap_eq (r : GReg) : wovenCap r = bit r.upper.toNat 63 := by
  rw [wovenCap, bit, upper_toNat, BitVec.getLsbD, Nat.testBit_eq_decide_div_mod_eq, Nat.div_div_eq_div_mul, ← Nat.pow_add,
    Bool.beq_eq_decide_eq]

theorem space_eq (r : GReg) : space r = gaSpace r.low.toNat := field_of_low r (lo := 44) (w := 2) (by norm_num)

theorem perm_eq_field (r : GReg) : r.perm = field r 117 10 := (field_of_upper r 53 10).symm

theorem perm_lt (r : GReg) : r.perm < 1024 := Nat.mod_lt _ (by norm_num)

theorem kind_of_woven {r : GReg} (hw : wovenCap r = true) : r.kind = .woven := by
  rw [GReg.kind, ← wovenCap_eq, if_pos hw]

/-- The kind of a plain capability by the space of its cursor (Table 2.6). -/
def kindOfSpace : Nat → CapKind
  | 0 => .tile
  | 1 => .hbm
  | 2 => .mmio
  | _ => .bad

theorem kindOfSpace_ne_woven : ∀ n, kindOfSpace n ≠ .woven
  | 0 | 1 | 2 | _ + 3 => CapKind.noConfusion

theorem kindOfSpace_eq_mmio : ∀ {n}, kindOfSpace n = .mmio → n = 2
  | 2, _ => rfl

theorem movable_kindOfSpace : ∀ n, (kindOfSpace n).movable = if n = 0 then 19 else 44
  | 0 | 1 | 2 | _ + 3 => rfl

theorem kind_of_plain {r : GReg} (hw : wovenCap r = false) : r.kind = kindOfSpace (space r) := by
  rw [GReg.kind, ← wovenCap_eq, hw, if_neg Bool.false_ne_true, space_eq]
  rfl

theorem kind_eq_woven_iff (r : GReg) : r.kind = .woven ↔ wovenCap r = true := by
  refine ⟨fun hk => ?_, kind_of_woven⟩
  by_contra hw
  rw [kind_of_plain (Bool.eq_false_of_not_eq_true hw)] at hk
  exact kindOfSpace_ne_woven _ hk

theorem kind_eq_tile_iff (r : GReg) : r.kind = .tile ↔ isTile r = true := by
  rw [isTile, Bool.and_eq_true, Bool.not_eq_true', beq_iff_eq]
  refine ⟨fun hk => ⟨wovenCap_of_tile hk, space_of_tile hk⟩, fun ⟨hw, hs⟩ => ?_⟩
  rw [kind_of_plain hw, hs]
  rfl

theorem kind_eq_mmio_iff (r : GReg) : r.kind = .mmio ↔ isMmio r = true := by
  rw [isMmio, Bool.and_eq_true, Bool.not_eq_true', beq_iff_eq]
  refine ⟨fun hk => ?_, fun ⟨hw, hs⟩ => by rw [kind_of_plain hw, hs]; rfl⟩
  have hw : wovenCap r = false := by
    by_contra hw
    rw [kind_of_woven (Bool.eq_true_of_not_eq_false hw)] at hk
    cases hk
  rw [kind_of_plain hw] at hk
  exact ⟨hw, kindOfSpace_eq_mmio hk⟩

theorem movable_of_kind (r : GReg) : r.kind.movable = movable r := by
  cases hw : wovenCap r
  · rw [kind_of_plain hw, movable, hw, movable_kindOfSpace]
    rfl
  · rw [kind_of_woven hw, movable, hw]
    rfl

theorem offset_eq (r : GReg) : r.offset = r.low.toNat % 2 ^ movable r := by rw [GReg.offset, movable_of_kind]

theorem bounds_eq (r : GReg) : r.bounds = baseLen r := by
  have hbase : wBase r.upper.toNat = field r 78 14 := (field_of_upper r 14 14).symm
  have hext : wExt r.upper.toNat = field r 64 14 := by rw [field_of_upper r 0 14]; rfl
  have hplain : (hBase r.upper.toNat * 64, hMant r.upper.toNat * 2 ^ (2 * hExp r.upper.toNat + 6)) =
      (64 * field r 79 38, field r 64 11 * 2 ^ (2 * field r 75 4 + 6)) := by
    rw [Nat.mul_comm, field_of_upper r 15 38, field_of_upper r 0 11, field_of_upper r 11 4]
    rfl
  by_cases ht : r.kind = .tile
  · exact bounds_of_tile ht
  cases hw : wovenCap r
  · have hs : space r ≠ 0 := fun hs => ht ((kind_eq_tile_iff r).mpr (by rw [isTile, hw, hs]; rfl))
    have hk : r.kind ≠ .woven := fun hk => by rw [kind_eq_woven_iff, hw] at hk; cases hk
    rw [baseLen, hw, if_neg Bool.false_ne_true, if_neg hs, ← hplain, GReg.bounds]
    generalize r.kind = k at ht hk ⊢
    cases k with
    | tile => exact absurd rfl ht
    | woven => exact absurd rfl hk
    | hbm | mmio | bad => rfl
  · rw [GReg.bounds, kind_of_woven hw, baseLen, hw, if_pos rfl, ← hbase, ← hext]

theorem getLsbD_perm (r : GReg) {i : Nat} (hi : i < 10) : r.body.getLsbD (117 + i) = r.perm.testBit i := by
  rw [perm_eq_field, field_eq, Nat.testBit_mod_two_pow, Nat.testBit_div_two_pow, decide_eq_true hi, Bool.true_and, BitVec.getLsbD,
    Nat.add_comm]

theorem grants_GR (r : GReg) : r.grants permGR = r.body.getLsbD 126 := by
  have hand : r.perm &&& permGR = (r.perm.testBit 9).toNat * 2 ^ 9 := Nat.and_two_pow r.perm 9
  rw [getLsbD_perm r (i := 9) (by norm_num), GReg.grants, hand]
  cases r.perm.testBit 9 <;> rfl

/-! ## A capability put together from its halves -/

theorem capReg_low (u c : Word) : (capReg u c).low = c := by
  rw [capReg, GReg.low]
  exact BitVec.setWidth_append_eq_right

theorem capReg_upper (u c : Word) : (capReg u c).upper = u := by
  rw [capReg, GReg.upper]
  exact BitVec.extractLsb'_append_eq_left

/-! ## The checks of R120 in their order -/

theorem cls_of_poison {r : GReg} (h : r.tag = .poison) : r.cls = classOf r := by
  simp [GReg.cls, GReg.isPoison, h, classOf, BitVec.extractLsb'_toNat]

theorem firstPoison_eq (l : List GReg) : firstPoison l = l.find? fun x => x.tag = .poison := by
  induction l with
  | nil => rfl
  | cons r l ih => by_cases h : r.tag = .poison <;> simp [firstPoison, GReg.isPoison, h, ih]

theorem firstPoison_cap {r : GReg} (h : r.tag = .cap) (l : List GReg) : firstPoison (r :: l) = firstPoison l := by
  simp [firstPoison, GReg.isPoison, h]

theorem doneG_eq_writes (s : State) (d : GIx) (r : GReg) : s.doneG d r = writes s d r := by
  rw [State.doneG, State.done, Thread.retire, Thread.count, wr_succ, Thread.wr_retired]
  rfl

/-- What a capability instruction does that has passed its checks. -/
def State.capResult (s : State) (d : GIx) : Except (Nat × Nat) GReg → Host.Outcome State Fault Refusal
  | .ok r => writes s d r
  | .error (c, v) => s.trap c v

/-- The checks of a capability instruction are those of R120, and its result follows them. -/
theorem capOp_eq_guarded (s : State) (d a : GIx) (others : List GIx) (mmio gr : Bool) (f : GReg → Except (Nat × Nat) GReg) :
    s.capOp d a others mmio gr f = guarded s a others mmio gr (s.capResult d (f (s.cur.rd a))) := by
  unfold State.capOp capCheck guarded
  simp only
  generalize hr : s.cur.rd a = r
  cases htag : r.tag with
  | data => simp [GReg.isCap, GReg.isPoison, htag]; rfl
  | poison =>
    simp [GReg.isCap, GReg.isPoison, htag, firstPoison, cls_of_poison]; rfl
  | cap =>
    have hcap : (!r.isCap && !r.isPoison) = false := by simp [GReg.isCap, htag]
    rw [hcap, if_neg Bool.false_ne_true, firstPoison_cap htag, firstPoison_eq]
    cases hp : (others.map s.cur.rd).find? fun x => x.tag = .poison with
    | some p =>
      have hpoison : p.tag = .poison := by simpa using List.find?_some hp
      show s.trap causePoison p.cls = s.trap 0x08 (classOf p)
      rw [cls_of_poison hpoison]
      rfl
    | none =>
      have hmmio : (mmio && !s.cur.priv && r.kind == .mmio) = true ↔ mmio = true ∧ isMmio r = true ∧ s.cur.priv = false := by
        rw [Bool.and_eq_true, Bool.and_eq_true, beq_iff_eq, kind_eq_mmio_iff, Bool.not_eq_true']
        tauto
      have hgr : (gr && !r.grants permGR) = true ↔ gr = true ∧ r.body.getLsbD 126 = false := by
        rw [grants_GR, Bool.and_eq_true, Bool.not_eq_true']
      simp only [hmmio, hgr]
      by_cases h1 : mmio = true ∧ isMmio r = true ∧ s.cur.priv = false
      · rw [if_pos h1, if_pos h1]; rfl
      · rw [if_neg h1, if_neg h1]
        by_cases h2 : gr = true ∧ r.body.getLsbD 126 = false
        · rw [if_pos h2, if_pos h2]; rfl
        · rw [if_neg h2, if_neg h2]
          cases f r with
          | ok q => exact doneG_eq_writes s d q
          | error e => rfl
end Sys2Proof.Machine

namespace Sys2Proof.Machine
open Sys2Proof.Claims

/-! ## The smallest exponent of a length (R52) -/

theorem le_expFor (len fuel e : Nat) : e ≤ expFor len fuel e := by
  induction fuel generalizing e with
  | zero => exact Nat.le_refl e
  | succ fuel ih =>
    rw [expFor]
    split
    · exact Nat.le_refl e
    · exact (Nat.le_succ e).trans (ih (e + 1))

theorem expFor_le (len fuel e : Nat) : expFor len fuel e ≤ e + fuel := by
  induction fuel generalizing e with
  | zero => exact Nat.le_refl e
  | succ fuel ih =>
    rw [expFor]
    split
    · exact Nat.le_add_right e _
    · exact (ih (e + 1)).trans (by omega)

/-- No smaller exponent will do. -/
theorem expFor_least (len fuel e : Nat) {k : Nat} (he : e ≤ k) (hk : k < expFor len fuel e) : 2047 < len / 2 ^ (2 * k + 6) := by
  induction fuel generalizing e with
  | zero => exact absurd (he.trans_lt hk) (Nat.lt_irrefl e)
  | succ fuel ih =>
    rw [expFor] at hk
    split at hk
    · omega
    · next hbig =>
      obtain rfl | hlt := he.eq_or_lt
      · exact Nat.lt_of_not_le hbig
      · exact ih (e + 1) hlt hk

/-- The exponent will do where the last one tried would. -/
theorem expFor_fits (len fuel e : Nat) (h : len / 2 ^ (2 * (e + fuel) + 6) ≤ 2047) : len / 2 ^ (2 * expFor len fuel e + 6) ≤ 2047 := by
  induction fuel generalizing e with
  | zero => exact h
  | succ fuel ih =>
    rw [expFor]
    split
    · assumption
    · exact ih (e + 1) (by rwa [Nat.add_right_comm, Nat.add_assoc])

/-! ## CAPBND (R53, R124) -/

theorem permField_capReg (u c : Word) {p : Nat} (hp : p < 1024) (hu : u.toNat / 2 ^ 53 = p) :
    field (capReg u c) 117 10 = p ∧ wovenCap (capReg u c) = false := by
  rw [field_of_upper _ 53 10, wovenCap_eq, capReg_upper, hu, bit, beq_eq_false_iff_ne]
  omega

theorem capBound_tile {r : GReg} {len f : Nat} (ht : isTile r = true) (hin : inBounds r len) : tileBounded r (capBound r len f) len := by
  have hk := (kind_eq_tile_iff r).mpr ht
  have hw := wovenCap_of_tile hk
  have hs := space_of_tile hk
  have hlen : len < 2 ^ 20 := by
    have : field r 78 20 < 2 ^ 20 := Nat.mod_lt _ (by norm_num)
    simp only [inBounds, baseLen, hw, hs, Bool.false_eq_true, if_false, if_true] at hin
    omega
  have hoff : r.offset = r.low.toNat % 2 ^ 19 := by rw [GReg.offset, hk]; rfl
  have hp := perm_lt r
  have hupper : (tileUpper r.perm r.offset len).toNat = r.perm * 2 ^ 53 + r.low.toNat % 2 ^ 19 * 2 ^ 34 + len * 2 ^ 14 := by
    rw [tileUpper, hoff, BitVec.toNat_ofNat]
    omega
  have hq : capBound r len f = capReg (tileUpper r.perm r.offset len) r.low := by rw [capBound, hk]
  obtain ⟨hperm, hplain⟩ := permField_capReg (tileUpper r.perm r.offset len) r.low hp (by omega)
  rw [hq]
  refine ⟨rfl, capReg_low _ _, hplain, hperm.trans (perm_eq_field r), ?_, ?_, ?_⟩
  · rw [field_of_upper _ 34 19, capReg_upper]
    omega
  · rw [field_of_upper _ 14 20, capReg_upper]
    omega
  · rw [field_of_upper _ 0 14, capReg_upper]
    omega

theorem plainInward_low {base : Nat} (h : base ≤ 2 ^ 44 - 64) (old len f : Nat) :
    plainInward old base len f = ((base + 63) / 64 * 64, base + len - (base + 63) / 64 * 64) := by
  rw [plainInward, ceilDiv]
  exact if_pos (by omega)

/-- The mantissa that the smallest exponent leaves, and the upper half that holds both (R52). -/
theorem plainUpper_toNat {perm base len : Nat} (hperm : perm < 1024) (hbase : base < 2 ^ 44) (hlen : len ≤ 2 ^ 44) :
    len / 2 ^ (2 * expFor len 15 0 + 6) ≤ 2047 ∧ (plainUpper perm base len).toNat =
      perm * 2 ^ 53 + base / 64 * 2 ^ 15 + expFor len 15 0 * 2 ^ 11 + len / 2 ^ (2 * expFor len 15 0 + 6) := by
  have hfits : len / 2 ^ (2 * expFor len 15 0 + 6) ≤ 2047 := expFor_fits len 15 0 (by omega)
  have hexp : expFor len 15 0 ≤ 15 := expFor_le len 15 0
  refine ⟨hfits, ?_⟩
  rw [plainUpper, BitVec.toNat_ofNat]
  generalize len / 2 ^ (2 * expFor len 15 0 + 6) = m at hfits ⊢
  omega

theorem capBound_plain {r : GReg} {len f : Nat} (ht : isTile r = false) (hw : wovenCap r = false)
    (hlow : r.low.toNat % 2 ^ movable r ≤ 2 ^ 44 - 64) (htop : (baseLen r).1 + (baseLen r).2 ≤ 2 ^ 44) (hin : inBounds r len) :
    plainBounded r (capBound r len f) len := by
  have hs : space r ≠ 0 := fun hs => by simp [isTile, hw, hs] at ht
  have hmov : movable r = 44 := by rw [movable, hw, if_neg Bool.false_ne_true, if_neg hs]
  have hkind : r.kind ≠ .tile := fun hk => by simp [(kind_eq_tile_iff r).mp hk] at ht
  have hq : capBound r len f =
      capReg (plainUpper r.perm (plainInward r.bounds.1 r.offset len f).1 (plainInward r.bounds.1 r.offset len f).2)
        (BitVec.ofNat 64 (r.low.toNat / 2 ^ movable r * 2 ^ movable r + (plainInward r.bounds.1 r.offset len f).1)) := by
    rw [capBound, ← movable_of_kind]
    generalize r.kind = k at hkind
    cases k with
    | tile => exact absurd rfl hkind
    | hbm | mmio | woven | bad => rfl
  rw [offset_eq, plainInward_low hlow, hmov] at hq
  obtain ⟨hbase, hend⟩ := hin
  rw [hmov] at hlow hbase hend
  have hlt := r.low.isLt
  have hp := perm_lt r
  generalize ho : r.low.toNat % 2 ^ 44 = o at *
  generalize hb : (o + 63) / 64 * 64 = b at *
  generalize hn : o + len - b = n at *
  have hleast : ∀ e', e' < expFor n 15 0 → 2047 < n / 2 ^ (2 * e' + 6) := fun e' he => expFor_least n 15 0 (Nat.zero_le e') he
  have hexp : expFor n 15 0 ≤ 15 := expFor_le n 15 0
  obtain ⟨hfits, hupper⟩ := plainUpper_toNat hp (base := b) (len := n) (by omega) (by omega)
  generalize expFor n 15 0 = e at hleast hexp hfits hupper
  generalize hm : n / 2 ^ (2 * e + 6) = m at hfits hupper
  obtain ⟨hperm, hplain⟩ := permField_capReg (plainUpper r.perm b n) (BitVec.ofNat 64 (r.low.toNat / 2 ^ 44 * 2 ^ 44 + b)) hp (by omega)
  rw [← hq] at hperm hplain
  have hu : (capBound r len f).upper = plainUpper r.perm b n := by rw [hq, capReg_upper]
  have hfield (lo w : Nat) := field_of_upper (capBound r len f) lo w
  rw [hu, hupper] at hfield
  have he : field (capBound r len f) 75 4 = e := (hfield 11 4).trans (by omega)
  have hmant : field (capBound r len f) 64 11 = m := (hfield 0 11).trans (by omega)
  have hbase' : field (capBound r len f) 79 38 = b / 64 := (hfield 15 38).trans (by omega)
  have hcursor : (capBound r len f).low.toNat = r.low.toNat / 2 ^ 44 * 2 ^ 44 + b := by
    rw [hq, capReg_low, BitVec.toNat_ofNat]
    omega
  refine ⟨by rw [hq]; rfl, ?_⟩
  simp only [ho, hb, hn, he, hmant, hbase', hm]
  exact ⟨hcursor, hplain, hperm.trans (perm_eq_field r), by omega, trivial, hfits, hleast⟩

theorem inBounds_iff (r : GReg) (len : Nat) :
    inBounds r len ↔ ¬(r.offset < r.bounds.1 ∨ r.offset + len > r.bounds.1 + r.bounds.2) := by
  simp only [inBounds, offset_eq, bounds_eq]
  omega

theorem capabilityNarrowing : CapabilityNarrowing := by
  intro s d a b r len hlow htop
  have hexec : exec (.capbnd d a b) s = guarded s a [b] true true (s.capResult d
      (if r.kind = .woven then .error (causePerm, r.low.toNat)
       else if r.offset < r.bounds.1 ∨ r.offset + len > r.bounds.1 + r.bounds.2 then .error (causeBounds, r.low.toNat)
       else .ok (capBound r len s.draw.1.toNat))) := by
    have hopen : ¬r.offset > 2 ^ 44 - 64 := by rw [offset_eq]; omega
    show execCapbnd d a b s = _
    rw [execCapbnd, if_neg hopen]
    exact capOp_eq_guarded s d a [b] true true _
  refine ⟨capBound r len s.draw.1.toNat, fun hw hin => ?_, fun hw => ?_, fun hw hin => ?_, fun hw hin => ?_⟩
  · split
    · next ht => exact capBound_tile ht hin
    · next ht => exact capBound_plain (Bool.eq_false_of_not_eq_true ht) hw hlow htop hin
  · rw [hexec, if_pos (kind_of_woven hw)]
    rfl
  · rw [hexec, if_neg (by rw [kind_eq_woven_iff, hw]; exact Bool.false_ne_true), if_pos (not_not.mp ((inBounds_iff r len).not.mp hin))]
    rfl
  · rw [hexec, if_neg (by rw [kind_eq_woven_iff, hw]; exact Bool.false_ne_true), if_neg ((inBounds_iff r len).mp hin)]
    rfl

/-! ## CAPWV (R127) -/

theorem weave_unwoven {r : GReg} (ht : isTile r = false) (hw : wovenCap r = false) (b c : Nat) :
    weave r b c = .error (causePerm, r.low.toNat) := by
  have hk : r.kind ≠ .tile ∧ r.kind ≠ .woven := by
    rw [ne_eq, ne_eq, kind_eq_tile_iff, kind_eq_woven_iff, ht, hw]
    exact ⟨Bool.false_ne_true, Bool.false_ne_true⟩
  rw [weave, if_pos hk]

theorem kind_granting {r : GReg} (h : isTile r = true ∨ wovenCap r = true) : ¬(r.kind ≠ .tile ∧ r.kind ≠ .woven) := by
  rw [ne_eq, ne_eq, kind_eq_tile_iff, kind_eq_woven_iff]
  tauto

/-- The woven capability that R127 derives. -/
def wovenFrom (r : GReg) (b c : Nat) : GReg :=
  capReg (wovenUpper (r.perm &&& bits c 41 32) (bits b 21 16 + 1) (bits b 29 24 + 1) (bits b 35 32 + 5) (bits c 13 0) (bits c 29 16))
    (BitVec.ofNat 64 (bits b 13 8 * 2 ^ 58 + bits b 5 0 * 2 ^ 52))

theorem bits_toNat (x : Word) (hi lo : Nat) : bits x.toNat hi lo = wfield x lo (hi + 1 - lo) := (wfield_eq x lo _).symm

theorem wovenCursor (r : GReg) : wX0 r.low.toNat = field r 52 6 ∧ wY0 r.low.toNat = field r 58 6 :=
  ⟨(field_of_low r (lo := 52) (w := 6) (by norm_num)).symm, (field_of_low r (lo := 58) (w := 6) (by norm_num)).symm⟩

theorem wovenSize (r : GReg) : wW r.upper.toNat = field r 102 6 + 1 ∧ wH r.upper.toNat = field r 96 6 + 1 :=
  ⟨congrArg (· + 1) (field_of_upper r 38 6).symm, congrArg (· + 1) (field_of_upper r 32 6).symm⟩

/-- The bounds tests of CAPWV, in the order in which they are made. -/
theorem weaveFits_iff {r : GReg} (h : isTile r = true ∨ wovenCap r = true) (b c : Word) :
    weaveFits r b c ↔
      ¬(bits b.toNat 5 0 + (bits b.toNat 21 16 + 1) > 64 ∨ bits b.toNat 13 8 + (bits b.toNat 29 24 + 1) > 64 ∨
        32 * (bits c.toNat 13 0 + bits c.toNat 29 16 + 1) > 0x80000) ∧
      ¬(r.kind = .tile ∧ (32 * bits c.toNat 13 0 < r.bounds.1 ∨
        32 * (bits c.toNat 13 0 + bits c.toNat 29 16 + 1) > r.bounds.1 + r.bounds.2)) ∧
      ¬(r.kind = .woven ∧ (bits b.toNat 5 0 < wX0 r.low.toNat ∨ bits b.toNat 13 8 < wY0 r.low.toNat ∨
        bits b.toNat 5 0 + (bits b.toNat 21 16 + 1) > wX0 r.low.toNat + wW r.upper.toNat ∨
        bits b.toNat 13 8 + (bits b.toNat 29 24 + 1) > wY0 r.low.toNat + wH r.upper.toNat ∨
        32 * bits c.toNat 13 0 < r.bounds.1 ∨
        32 * (bits c.toNat 13 0 + bits c.toNat 29 16 + 1) > r.bounds.1 + r.bounds.2)) := by
  obtain ⟨hx, hy⟩ := wovenCursor r
  obtain ⟨hwidth, hheight⟩ := wovenSize r
  rw [kind_eq_tile_iff, kind_eq_woven_iff, bounds_eq]
  simp only [hx, hy, hwidth, hheight, bits_toNat, Nat.reduceAdd, Nat.reduceSub, weaveFits]
  obtain ht | hw := h
  · have hw : wovenCap r = false := wovenCap_of_tile ((kind_eq_tile_iff r).mpr ht)
    simp only [ht, hw, Bool.false_eq_true, false_and, true_and, not_false_eq_true, false_implies, and_true]
    omega
  · have ht : isTile r = false := by rw [isTile, hw]; rfl
    simp only [ht, hw, Bool.false_eq_true, false_and, true_and, not_false_eq_true, forall_const]
    omega

section
variable {r : GReg} {b c : Word} (h : isTile r = true ∨ wovenCap r = true)
include h

theorem weave_fits (hfits : weaveFits r b c) : weave r b.toNat c.toNat = .ok (wovenFrom r b.toNat c.toNat) := by
  obtain ⟨hmesh, htile, hwoven⟩ := (weaveFits_iff h b c).mp hfits
  rw [weave, if_neg (kind_granting h), if_neg hmesh, if_neg htile, if_neg hwoven]
  rfl

theorem weave_unfit (hfits : ¬weaveFits r b c) : weave r b.toNat c.toNat = .error (causeBounds, r.low.toNat) := by
  rw [weaveFits_iff h, not_and, not_and] at hfits
  rw [weave, if_neg (kind_granting h)]
  split
  · rfl
  · next hmesh =>
    split
    · rfl
    · next htile => exact if_pos (not_not.mp (hfits hmesh htile))

end

theorem bits_lt (x hi lo : Nat) : bits x hi lo < 2 ^ (hi + 1 - lo) := Nat.mod_lt _ (by positivity)

theorem testBit_rights (c : Word) {i : Nat} (hi : i < 10) : (bits c.toNat 41 32).testBit i = c.getLsbD (32 + i) := by
  rw [bits, Nat.testBit_mod_two_pow, Nat.testBit_div_two_pow, decide_eq_true (by omega), Bool.true_and, BitVec.getLsbD, Nat.add_comm]

theorem wovenUpper_toNat {p w h g base ext : Nat} (hp : p < 2 ^ 10) (hw : w < 2 ^ 6) (hh : h < 2 ^ 6) (hg : g < 2 ^ 4)
    (hbase : base < 2 ^ 14) (hext : ext < 2 ^ 14) :
    (wovenUpper p (w + 1) (h + 1) (g + 5) base ext).toNat =
      2 ^ 63 + p * 2 ^ 53 + w * 2 ^ 38 + h * 2 ^ 32 + g * 2 ^ 28 + base * 2 ^ 14 + ext := by
  rw [wovenUpper, BitVec.toNat_ofNat]
  omega

theorem woven_wovenFrom (r : GReg) (b c : Word) : woven r (wovenFrom r b.toNat c.toNat) b c := by
  have hperm : r.perm &&& bits c.toNat 41 32 < 2 ^ 10 := Nat.and_lt_two_pow _ (bits_lt _ 41 32)
  have hw : bits b.toNat 21 16 < 2 ^ 6 := bits_lt _ 21 16
  have hh : bits b.toNat 29 24 < 2 ^ 6 := bits_lt _ 29 24
  have hg : bits b.toNat 35 32 < 2 ^ 4 := bits_lt _ 35 32
  have hbase : bits c.toNat 13 0 < 2 ^ 14 := bits_lt _ 13 0
  have hext : bits c.toNat 29 16 < 2 ^ 14 := bits_lt _ 29 16
  have hy : bits b.toNat 13 8 < 2 ^ 6 := bits_lt _ 13 8
  have hx : bits b.toNat 5 0 < 2 ^ 6 := bits_lt _ 5 0
  have hlow : (wovenFrom r b.toNat c.toNat).low.toNat = bits b.toNat 13 8 * 2 ^ 58 + bits b.toNat 5 0 * 2 ^ 52 := by
    rw [wovenFrom, capReg_low, BitVec.toNat_ofNat]
    omega
  have hupper := wovenUpper_toNat hperm hw hh hg hbase hext
  rw [← capReg_upper (wovenUpper _ _ _ _ _ _), ← wovenFrom] at hupper
  have hrights : (wovenFrom r b.toNat c.toNat).perm = r.perm &&& bits c.toNat 41 32 := by
    rw [GReg.perm, hupper, bits]
    omega
  have hpermbits (i : Nat) (hi : i < 10) : (wovenFrom r b.toNat c.toNat).body.getLsbD (117 + i) =
      (r.body.getLsbD (117 + i) && c.getLsbD (32 + i)) := by
    rw [getLsbD_perm _ hi, hrights, Nat.testBit_and, testBit_rights c hi, getLsbD_perm r hi]
  have hcap : wovenCap (wovenFrom r b.toNat c.toNat) = true := by
    rw [wovenCap_eq, bit, hupper, beq_iff_eq]
    omega
  simp only [bits_toNat, Nat.reduceAdd, Nat.reduceSub] at *
  have hfield (lo w : Nat) := field_of_upper (wovenFrom r b.toNat c.toNat) lo w
  refine ⟨rfl, hcap, hpermbits, (hfield 44 9).trans ?_, (hfield 38 6).trans ?_, (hfield 32 6).trans ?_, (hfield 28 4).trans ?_,
    (hfield 14 14).trans ?_, (hfield 0 14).trans ?_, (field_of_low _ (by norm_num)).trans ?_, (field_of_low _ (by norm_num)).trans ?_,
    (field_of_low _ (by norm_num)).trans ?_⟩
  all_goals omega

theorem capabilityWeaving : CapabilityWeaving := by
  intro s d a b c r y z
  have hexec : exec (.capwv d a b c) s = guarded s a [b, c] false true (s.capResult d (weave r y.toNat z.toNat)) :=
    capOp_eq_guarded s d a [b, c] false true fun r => weave r y.toNat z.toNat
  refine ⟨fun ht hw => ?_, fun h => ⟨fun hfits => ?_, fun hfits => ⟨wovenFrom r y.toNat z.toNat, woven_wovenFrom r y z, ?_⟩⟩⟩
  · rw [hexec, weave_unwoven ht hw]
    rfl
  · rw [hexec, weave_unfit h hfits]
    rfl
  · rw [hexec, weave_fits h hfits]
    rfl

/-- Settles O18: the checks of R120 come before the result of either instruction, and what is derived is read back field by field
from the two halves that it is put together from. -/
theorem capabilityBounds : Obligations.CapabilityBounds := ⟨capabilityNarrowing, capabilityWeaving⟩

end Sys2Proof.Machine

namespace Sys2Proof.Machine
open Sys2Proof.Claims

/-! ## What wakes the waiters of a word leaves memory as it is (R174, R177, R210) -/

/-- The two states differ at most in tiles, in routers and in the monitors kept from the accesses of a cycle. -/
structure Beside (s u : State) : Prop where
  eq : ∃ ts rs l, u = { s with tiles := ts, routers := rs, batch := l }

section
variable {s u v : State}

theorem Beside.refl : Beside s s := ⟨s.tiles, s.routers, s.batch, rfl⟩

theorem Beside.trans (hu : Beside s u) (hv : Beside u v) : Beside s v := by
  obtain ⟨_, _, _, rfl⟩ := hu
  obtain ⟨ts, rs, l, rfl⟩ := hv
  exact ⟨ts, rs, l, rfl⟩

theorem Beside.mem (h : Beside s u) : u.mem = s.mem := by obtain ⟨_, _, _, rfl⟩ := h; rfl
theorem Beside.full (h : Beside s u) : u.full = s.full := by obtain ⟨_, _, _, rfl⟩ := h; rfl
theorem Beside.psn (h : Beside s u) : u.psn = s.psn := by obtain ⟨_, _, _, rfl⟩ := h; rfl
theorem Beside.tagged (h : Beside s u) : u.tagged = s.tagged := by obtain ⟨_, _, _, rfl⟩ := h; rfl
theorem Beside.errUnc (h : Beside s u) : u.errUnc = s.errUnc := by obtain ⟨_, _, _, rfl⟩ := h; rfl

theorem Beside.foldl {α : Type} {f : State → α → State} (hf : ∀ u x, Beside u (f u x)) (l : List α) : Beside s (l.foldl f s) := by
  induction l generalizing s with
  | nil => exact .refl
  | cons x l ih => exact (hf s x).trans ih

end

section
variable (s : State)

theorem beside_setTile (t : Nat) (x : Tile) : Beside s (s.setTile t x) := ⟨_, s.routers, s.batch, rfl⟩

theorem beside_updTile (t : Nat) (f : Tile → Tile) : Beside s (s.updTile t f) := beside_setTile s t _

theorem beside_setThr (t h : Nat) (x : Thread) : Beside s (s.setThr t h x) := beside_setTile s t _

theorem beside_inject (src : Home) (f : Flit) : Beside s (s.inject src f) := by
  unfold State.inject
  split
  · exact beside_updTile s _ _
  · exact ⟨s.tiles, _, s.batch, rfl⟩

theorem beside_sendHome (src dst : Home) (f : Flit) : Beside s (s.sendHome src dst f) :=
  Beside.foldl (fun u g => beside_inject u src g) _

theorem beside_sendGa (src : Home) (ga : Nat) (f : Flit) : Beside s (s.sendGa src ga f) := beside_sendHome s _ _ _

theorem beside_answer (src : Home) (f r : Flit) : Beside s (s.answer src f r) := beside_sendHome s _ _ _

theorem beside_fireArms (t a : Nat) : Beside s (s.fireArms t a) :=
  (beside_setTile s t _).trans (Beside.foldl (fun u f => beside_answer u _ f _) _)

theorem beside_fwaitEnd (t h : Nat) (r : GReg) : Beside s (s.fwaitEnd t h r) := by
  unfold State.fwaitEnd
  split
  · exact ((Beside.foldl (fun u m => beside_sendGa u _ _ _) _).trans (beside_updTile _ t _)).trans (beside_setThr _ t h _)
  · exact .refl

theorem beside_wakeBy (t h : Nat) (m : WaitMon) (cls : Option Nat) : Beside s (s.wakeBy t h m cls) := by
  unfold State.wakeBy
  split
  · split
    · split
      · exact .refl
      · exact beside_fwaitEnd s t h _
    · exact beside_fwaitEnd s t h _
  · exact .refl

theorem beside_wakeOwn (t a h : Nat) : Beside s (s.wakeOwn t a h) := by
  unfold State.wakeOwn
  split
  · split
    · exact .refl
    · dsimp only
      split
      · split
        · exact beside_wakeBy s t h _ _
        · exact ⟨s.tiles, s.routers, _, rfl⟩
      · exact .refl
  · exact .refl

theorem beside_watchHead (t : Nat) : Beside s (s.watchHead t) := by
  unfold State.watchHead
  split
  · exact beside_updTile s t _
  · exact .refl

theorem beside_watchEngines (t a : Nat) : Beside s (s.watchEngines t a) := by
  unfold State.watchEngines
  split
  · exact .refl
  · dsimp only
    generalize hu : (if ((s.tile t).copyq.any fun x => x.2.wf != 0 && gaOff x.2.wf / 8 == a % 2 ^ 19 / 8) = true then _ else s) = u
    have hbeside : Beside s u := by
      subst hu
      split
      · exact beside_updTile s t _
      · exact .refl
    split
    · split
      · exact hbeside.trans (beside_watchHead u t)
      · exact hbeside
    · exact hbeside

theorem beside_touch (a : Nat) : Beside s (s.touch a) := by
  unfold State.touch
  split
  · exact ((beside_fireArms s _ a).trans (Beside.foldl (fun u h => beside_wakeOwn u _ a h) _)).trans (beside_watchEngines _ _ a)
  · exact .refl

/-- A read changes beside the words with stored errors nothing of memory. -/
theorem beside_look (a : Nat) : Beside (s.detect a) (s.look a) := by
  have hfirst : Beside (s.detect a) (if (s.detect a).poisoned a == s.poisoned a then s.detect a else (s.detect a).touch a) := by
    split
    · exact .refl
    · exact beside_touch _ a
  unfold State.look
  dsimp only
  split
  · exact hfirst
  · exact hfirst.trans (beside_touch _ _)

end

section
variable {s u : State} (h : Beside s u)
include h

theorem Beside.byte (c : Nat) : u.byte c = s.byte c := by rw [State.byte, h.mem]; rfl
theorem Beside.val (a n : Nat) : u.val a n = s.val a n := val_of_mem h.mem a n
theorem Beside.fe (c : Nat) : u.fe c = s.fe c := by rw [State.fe, h.full]; rfl
theorem Beside.poisoned (c : Nat) : u.poisoned c = s.poisoned c := by rw [State.poisoned, h.psn]; rfl
theorem Beside.tagAt (c : Nat) : u.tagAt c = s.tagAt c := by rw [State.tagAt, h.tagged]; rfl

theorem Beside.poisonWord {w cls : Nat} (hp : poisonWord s w cls) : poisonWord u w cls := poisonWord_congr h.mem h.psn hp

theorem Beside.keepsOutside {r : State} {lo hi : Nat} (hk : keepsOutside r s lo hi) : keepsOutside r u lo hi :=
  keepsOutside_congr rfl rfl rfl h.mem h.psn h.tagged hk

end

/-! ## Reads (R160, R207) -/

theorem keyedBytes_spad (s : State) {a : Nat} (h : isSpad a = true) (n : Nat) : s.keyedBytes 0 a n = s.bytes a n := by
  induction n generalizing a with
  | zero => rfl
  | succ n ih =>
    have hnext : isSpad (a + 1) = true := by
      simp only [isSpad, decide_eq_true_eq] at h ⊢
      omega
    rw [State.keyedBytes, State.bytes, ih hnext, State.keyedByte, h, if_pos rfl]

theorem readAt_spad (s : State) {a : Nat} (h : isSpad a = true) (n : Nat) : s.readAt 0 a n = (s.val a n, s.mark a) := by
  rw [State.readAt, keyedBytes_spad s h, State.val]

theorem look_of_noErr {s : State} {a : Nat} (hspad : isSpad a = true) (herr : noErr s a) : s.look a = s := by
  simp [State.look, detect_of_noErr hspad herr]

theorem val_congr {s u : State} {a n : Nat} (h : ∀ k, k < n → u.byte (a + k) = s.byte (a + k)) : u.val a n = s.val a n := by
  have hbytes : ∀ n a, (∀ k, k < n → u.byte (a + k) = s.byte (a + k)) → u.bytes a n = s.bytes a n := by
    intro n
    induction n with
    | zero => exact fun _ _ => rfl
    | succ n ih =>
      intro a h
      have hfirst : u.byte a = s.byte a := h 0 (Nat.succ_pos n)
      rw [State.bytes, State.bytes, hfirst, ih (a + 1) fun k hk => by
        rw [Nat.add_assoc, Nat.add_comm 1 k]; exact h (k + 1) (Nat.succ_lt_succ hk)]
  rw [State.val, hbytes n a h, State.val]

theorem keepsOutside_markPoison (s : State) (a c : Nat) : keepsOutside s (s.markPoison a c) (a / 8 * 8) (a / 8 * 8 + 8) := by
  refine fun b hb => ⟨markPoison_byte_other s a c hb, fun hw => ?_, fun _ => markPoison_tagAt s a c b⟩
  rw [markPoison_poisoned, if_neg (by omega)]

theorem poisonWord_markPoison (s : State) (a c : Nat) : poisonWord (s.markPoison a c) (a / 8 * 8) c :=
  ⟨by rw [markPoison_poisoned, if_pos (by omega)], markPoison_val s a c⟩

/-- A poisoned word stands where another is made poisoned. -/
theorem poisonWord_markPoison_other {s : State} {w c : Nat} (h : poisonWord s w c) (hw : w % 8 = 0) {a : Nat} (ha : a / 8 ≠ w / 8) (k : Nat) :
    poisonWord (s.markPoison a k) w c := by
  refine ⟨by rw [markPoison_poisoned, if_neg (by omega), h.1], ?_⟩
  rw [← h.2]
  exact val_congr fun k hk => markPoison_byte_other s a _ (by omega)

theorem keepsOutside_mono {s u : State} {lo hi lo' hi' : Nat} (hlo : lo' ≤ lo) (hhi : hi ≤ hi') (h : keepsOutside s u lo hi) :
    keepsOutside s u lo' hi' := fun c hc =>
  have ⟨hb, hp, ht⟩ := h c (by omega)
  ⟨hb, fun hw => hp (by omega), fun hw => ht (by omega)⟩

theorem keepsOutside_trans {s u v : State} {lo hi : Nat} (h : keepsOutside s u lo hi) (h' : keepsOutside u v lo hi) :
    keepsOutside s v lo hi := fun c hc =>
  have ⟨hb, hp, ht⟩ := h c hc
  have ⟨hb', hp', ht'⟩ := h' c hc
  ⟨hb'.trans hb, fun hw => (hp' hw).trans (hp hw), fun hw => (ht' hw).trans (ht hw)⟩

/-- The pair of a capability whose tag parity fails (R207). -/
theorem detect_errTag {s : State} {a : Nat} (h : s.errTag.contains (a / 16) = true) :
    poisonWord (s.detect a) (a / 16 * 16) 1 ∧ poisonWord (s.detect a) (a / 16 * 16 + 8) 1 ∧ (s.detect a).tagAt a = false ∧
      keepsOutside s (s.detect a) (a / 16 * 16) (a / 16 * 16 + 16) := by
  generalize hp : a / 16 * 16 = p
  have hfirst : p / 8 * 8 = p := by omega
  have hsecond : (p + 8) / 8 * 8 = p + 8 := by omega
  have hlow := poisonWord_markPoison s p 1
  have hhigh := poisonWord_markPoison (s.markPoison p 1) (p + 8) 1
  have hkeep := keepsOutside_markPoison s p 1
  have hkeep' := keepsOutside_markPoison (s.markPoison p 1) (p + 8) 1
  rw [hfirst] at hlow hkeep
  rw [hsecond] at hhigh hkeep'
  have hboth := keepsOutside_trans (keepsOutside_mono (lo' := p) (hi' := p + 16) (by omega) (by omega) hkeep)
    (keepsOutside_mono (lo' := p) (hi' := p + 16) (by omega) (by omega) hkeep')
  have hlow' := poisonWord_markPoison_other hlow (by omega) (a := p + 8) (by omega) 1
  have hdetect : s.detect a = { ((s.markPoison p 1).markPoison (p + 8) 1).setTagAt a false with
      errUnc := s.errUnc.filter (fun w => w / 2 != a / 16), errOne := s.errOne.filter (fun w => w / 2 != a / 16) } := by
    rw [State.detect, if_pos h, hp]
  generalize (s.markPoison p 1).markPoison (p + 8) 1 = u at hhigh hboth hlow' hdetect
  rw [hdetect]
  refine ⟨hlow', hhigh, (setTagAt_tagAt u a a false).trans (if_pos rfl), fun c hc => ?_⟩
  obtain ⟨hb, hpsn, htag⟩ := hboth c hc
  exact ⟨hb, hpsn, fun hw => ((setTagAt_tagAt u a c false).trans (if_neg (by omega))).trans (htag hw)⟩

theorem detect_errUnc {s : State} {a : Nat} (hspad : isSpad a = true) (htag : s.errTag.contains (a / 16) = false)
    (hunc : s.errUnc.contains (a / 8) = true) : s.detect a = { s.markPoison a 1 with errUnc := ndel s.errUnc (a / 8) } := by
  rw [State.detect, htag, if_neg Bool.false_ne_true, if_pos hunc, if_pos hspad]

theorem homeReads : HomeReads := by
  intro s a n hspad
  have hlook := beside_look s a
  refine ⟨readAt_spad s hspad n, look_of_noErr hspad, fun htag => ?_, fun htag hunc => ?_⟩
  · obtain ⟨hlow, hhigh, hlost, hkeep⟩ := detect_errTag htag
    exact ⟨hlook.poisonWord hlow, hlook.poisonWord hhigh, (hlook.tagAt a).trans hlost, hlook.keepsOutside hkeep⟩
  · have hdetect := detect_errUnc hspad htag hunc
    rw [hdetect] at hlook
    refine ⟨hlook.poisonWord (poisonWord_markPoison s a 1), hlook.keepsOutside (keepsOutside_markPoison s a 1), ?_⟩
    rw [hlook.errUnc]
    simp [ndel]
end Sys2Proof.Machine

namespace Sys2Proof.Machine
open Sys2Proof.Claims

/-! ## Writes of one word (R58, R161) -/

theorem ndel_of_contains {l : List Nat} {k : Nat} (h : l.contains k = false) : ndel l k = l :=
  List.filter_eq_self.mpr fun j hj => by
    rw [bne_iff_ne]
    rintro rfl
    simp [hj] at h

theorem setTagAt_of_noErr {s : State} {a : Nat} (h : s.errTag.contains (a / 16) = false) (b : Bool) :
    s.setTagAt a b = { s with tagged := nset s.tagged (a / 16) b } := by
  rw [State.setTagAt, ndel_of_contains h]

/-- Before a write to a scratchpad word without a stored error its pair loses its tag, and that is all. -/
theorem prewrite_of_noErr {s : State} {a : Nat} (hspad : isSpad a = true) (herr : noErr s a) (whole : Bool) :
    s.prewrite 0 a whole = s.setTagAt a false := by
  have hforget : s.forgetErr a = s := by rw [State.forgetErr, ndel_of_contains herr.1, ndel_of_contains herr.2.1]
  rw [State.prewrite, State.rekey, hspad, if_pos rfl, Bool.and_true, hforget, detect_of_noErr hspad herr, ite_self]

theorem setTagAt_byte (s : State) (a : Nat) (b : Bool) (c : Nat) : (s.setTagAt a b).byte c = s.byte c := rfl
theorem setTagAt_poisoned (s : State) (a : Nat) (b : Bool) (c : Nat) : (s.setTagAt a b).poisoned c = s.poisoned c := rfl
theorem setTagAt_fe (s : State) (a : Nat) (b : Bool) (c : Nat) : (s.setTagAt a b).fe c = s.fe c := rfl

/-- A pair that meets the bytes written loses its tag. -/
theorem keepsOutside_setTagAt (s : State) {a lo hi : Nat} (b : Bool) (hlo : lo ≤ a) (hhi : a < hi) :
    keepsOutside s (s.setTagAt a b) lo hi := fun c _ =>
  ⟨rfl, fun _ => rfl, fun hw => (setTagAt_tagAt s a c b).trans (if_neg (by omega))⟩

theorem keepsOutside_setVal (s : State) (a n v : Nat) : keepsOutside s (s.setVal a n v) a (a + n) := fun c hc =>
  ⟨setVal_byte_other s v hc, fun _ => setVal_poisoned s a n v c, fun _ => setVal_tagAt s a n v c⟩

theorem markPoison_fe (s : State) (a k c : Nat) : (s.markPoison a k).fe c = s.fe c := by
  simp [State.markPoison, State.fe, State.setVal]

section
variable {s : State} {a n v mark : Nat} (hspad : isSpad a = true) (herr : noErr s a)
include hspad herr

theorem put_marked (hm : mark ≠ 0) : s.put 0 a n v mark = (s.setTagAt a false).markPoison a (mark - 1) := by
  rw [State.put, prewrite_of_noErr hspad herr, if_pos hm]

theorem put_clean (hp : s.poisoned a = false) : s.put 0 a n v 0 = (s.setTagAt a false).setVal a n v := by
  rw [State.put, prewrite_of_noErr hspad herr, if_neg (not_not.mpr rfl), setTagAt_poisoned, hp, if_neg Bool.false_ne_true]

theorem put_at_poison (hp : s.poisoned a = true) : s.put 0 a n v 0 = s.setTagAt a false := by
  rw [State.put, prewrite_of_noErr hspad herr, if_neg (not_not.mpr rfl), setTagAt_poisoned, hp, if_pos rfl]

theorem put_fe (c : Nat) : (s.put 0 a n v mark).fe c = s.fe c := by
  by_cases hm : mark = 0
  · subst hm
    cases hp : s.poisoned a
    · rw [put_clean hspad herr hp, setVal_fe, setTagAt_fe]
    · rw [put_at_poison hspad herr hp, setTagAt_fe]
  · rw [put_marked hspad herr hm, markPoison_fe, setTagAt_fe]

theorem put_tagAt : (s.put 0 a n v mark).tagAt a = false := by
  have hlost : (s.setTagAt a false).tagAt a = false := (setTagAt_tagAt s a a false).trans (if_pos rfl)
  by_cases hm : mark = 0
  · subst hm
    cases hp : s.poisoned a
    · rw [put_clean hspad herr hp, setVal_tagAt, hlost]
    · rw [put_at_poison hspad herr hp, hlost]
  · rw [put_marked hspad herr hm, markPoison_tagAt, hlost]

end

theorem beside_store {s : State} {a n v mark : Nat} (herr : noErr s a) : Beside (s.put 0 a n v mark) (s.store 0 a n v mark) := by
  rw [State.store, State.touchPair, herr.2.2]
  exact beside_touch _ a

theorem homeStore : HomeStore := by
  intro s a n v mark hspad hn hfit herr hmark t w
  have hstore : Beside (s.put 0 a n v mark) t := beside_store herr
  refine ⟨(hstore.tagAt a).trans (put_tagAt hspad herr), fun c => (hstore.fe c).trans (put_fe hspad herr c), fun hm hp => ?_,
    fun hm => ?_, fun hm hp => ?_⟩
  · subst hm
    rw [put_clean hspad herr hp] at hstore
    refine ⟨(hstore.val a n).trans (val_setVal _ a n v), ?_, hstore.keepsOutside ?_⟩
    · rw [hstore.poisoned, setVal_poisoned, setTagAt_poisoned, hp]
    · exact keepsOutside_trans (keepsOutside_setTagAt s false (Nat.le_refl a) (by omega)) (keepsOutside_setVal _ a n v)
  · rw [put_marked hspad herr hm] at hstore
    refine ⟨hstore.poisonWord (poisonWord_markPoison _ a (mark - 1)), hstore.keepsOutside ?_⟩
    exact keepsOutside_trans (keepsOutside_setTagAt s false (by omega) (by omega)) (keepsOutside_markPoison _ a _)
  · subst hm
    rw [put_at_poison hspad herr hp] at hstore
    exact ⟨(hstore.poisoned a).trans hp, hstore.byte⟩

/-! ## Writes of rows under byte masks (R161, R163) -/

theorem setMasked_eq (bs : List Byte) (s : State) (a mask : Nat) : ∃ m, s.setMasked a mask bs = { s with mem := m } := by
  induction bs generalizing s a mask with
  | nil => exact ⟨s.mem, rfl⟩
  | cons b bs ih =>
    rw [State.setMasked]
    split
    · obtain ⟨m, hm⟩ := ih (s.setByte a b) (a + 1) (mask / 2)
      exact ⟨m, hm⟩
    · exact ih s (a + 1) (mask / 2)

theorem setMasked_byte_other (bs : List Byte) (s : State) (mask : Nat) {a c : Nat} (h : c < a ∨ a + bs.length ≤ c) :
    (s.setMasked a mask bs).byte c = s.byte c := by
  induction bs generalizing s a mask with
  | nil => rfl
  | cons b bs ih =>
    simp only [List.length_cons] at h
    rw [State.setMasked, ih _ _ (by omega)]
    split
    · exact setByte_byte_other s b (by omega)
    · rfl

theorem setMasked_byte_in (bs : List Byte) (s : State) (a mask : Nat) {i : Nat} (h : i < bs.length) :
    (s.setMasked a mask bs).byte (a + i) = if bit mask i then bs.getD i 0 else s.byte (a + i) := by
  induction bs generalizing s a mask i with
  | nil => simp at h
  | cons b bs ih =>
    rw [State.setMasked]
    cases i with
    | zero =>
      rw [setMasked_byte_other _ _ _ (by omega)]
      split
      · exact setByte_byte_self s a b
      · rfl
    | succ i =>
      have hbit : bit (mask / 2) i = bit mask (i + 1) := by
        rw [bit, bit, Nat.div_div_eq_div_mul, Nat.pow_succ']
      have hnext := ih (if bit mask 0 then s.setByte a b else s) (a + 1) (mask / 2) (i := i) (by simpa using h)
      rw [Nat.add_assoc, Nat.add_comm 1 i, hbit] at hnext
      rw [hnext, List.getD_cons_succ]
      congr 1
      split
      · exact setByte_byte_other s b (by omega)
      · rfl

/-- What a masked write with mark k makes of the word at w, where m is its byte mask and b its bytes (R161, R163). -/
def rowWord (s t : State) (w m k : Nat) (b : Nat → Byte) : Prop :=
  (m = 0 → t.val w 8 = s.val w 8 ∧ t.poisoned w = s.poisoned w) ∧
  (m ≠ 0 → k ≠ 0 → poisonWord t w (k - 1)) ∧
  (m ≠ 0 → k = 0 → s.poisoned w = true → t.val w 8 = s.val w 8 ∧ t.poisoned w = true) ∧
  (m ≠ 0 → k = 0 → s.poisoned w = false → t.poisoned w = false ∧
    ∀ i, i < 8 → t.byte (w + i) = if bit m i then b i else s.byte (w + i))

/-- The word at w is the same in both states, its FE and tag aside. -/
def sameWord (s u : State) (w : Nat) : Prop := u.poisoned w = s.poisoned w ∧ ∀ i, i < 8 → u.byte (w + i) = s.byte (w + i)

theorem sameWord.val {s u : State} {w : Nat} (h : sameWord s u w) : u.val w 8 = s.val w 8 := val_congr h.2

theorem sameWord_of_keepsOutside {s u : State} {lo hi w : Nat} (h : keepsOutside s u lo hi) (hw : w % 8 = 0)
    (hout : w + 8 ≤ lo ∨ hi ≤ w) : sameWord s u w :=
  ⟨(h w (by omega)).2.1 (by omega), fun i _ => (h (w + i) (by omega)).1⟩

theorem rowWord_before {s u t : State} {w m k : Nat} {b : Nat → Byte} (hs : sameWord s u w) (h : rowWord u t w m k b) :
    rowWord s t w m k b := by
  obtain ⟨hzero, hmark, hstands, hclean⟩ := h
  rw [hs.1, hs.val] at *
  refine ⟨hzero, hmark, hstands, fun hm hk hp => ⟨(hclean hm hk hp).1, fun i hi => ?_⟩⟩
  rw [(hclean hm hk hp).2 i hi, hs.2 i hi]

theorem rowWord_after {s u t : State} {w m k : Nat} {b : Nat → Byte} (ht : sameWord t u w) (h : rowWord s t w m k b) :
    rowWord s u w m k b := by
  obtain ⟨hzero, hmark, hstands, hclean⟩ := h
  unfold rowWord poisonWord
  rw [ht.1, ht.val]
  refine ⟨hzero, hmark, hstands, fun hm hk hp => ⟨(hclean hm hk hp).1, fun i hi => ?_⟩⟩
  rw [ht.2 i hi, (hclean hm hk hp).2 i hi]

/-- Everything that the write of one word of a row leaves as it is. -/
structure OtherWords (s u : State) (lo hi : Nat) : Prop where
  keeps : keepsOutside s u lo hi
  fe : ∀ c, u.fe c = s.fe c
  errUnc : u.errUnc = s.errUnc
  errOne : u.errOne = s.errOne
  errTag : u.errTag = s.errTag

theorem OtherWords.noErr {s u : State} {lo hi b : Nat} (h : OtherWords s u lo hi) (herr : noErr s b) : noErr u b := by
  rw [Claims.noErr, h.errUnc, h.errOne, h.errTag]
  exact herr

theorem OtherWords.refl (s : State) (lo hi : Nat) : OtherWords s s lo hi :=
  ⟨fun _ _ => ⟨rfl, fun _ => rfl, fun _ => rfl⟩, fun _ => rfl, rfl, rfl, rfl⟩

theorem OtherWords.trans {s u v : State} {lo hi : Nat} (h : OtherWords s u lo hi) (h' : OtherWords u v lo hi) : OtherWords s v lo hi :=
  ⟨keepsOutside_trans h.keeps h'.keeps, fun c => (h'.fe c).trans (h.fe c), h'.errUnc.trans h.errUnc, h'.errOne.trans h.errOne,
    h'.errTag.trans h.errTag⟩

theorem OtherWords.mono {s u : State} {lo hi lo' hi' : Nat} (hlo : lo' ≤ lo) (hhi : hi ≤ hi') (h : OtherWords s u lo hi) :
    OtherWords s u lo' hi' := ⟨keepsOutside_mono hlo hhi h.keeps, h.fe, h.errUnc, h.errOne, h.errTag⟩

theorem otherWords_setTagAt {s : State} {a : Nat} (herr : noErr s a) (b : Bool) : OtherWords s (s.setTagAt a b) a (a + 8) := by
  refine ⟨keepsOutside_setTagAt s b (Nat.le_refl a) (by omega), fun _ => rfl, ?_, ?_, ?_⟩
  all_goals rw [setTagAt_of_noErr herr.2.2]

theorem otherWords_markPoison (s : State) {a : Nat} (ha : a % 8 = 0) (k : Nat) : OtherWords s (s.markPoison a k) a (a + 8) := by
  have hkeeps := keepsOutside_markPoison s a k
  rw [show a / 8 * 8 = a by omega] at hkeeps
  refine ⟨hkeeps, markPoison_fe s a k, ?_, ?_, ?_⟩
  all_goals
    obtain ⟨m, p, hm⟩ := markPoison_eq s a k
    rw [hm]

theorem otherWords_setMasked (s : State) (a mask : Nat) {bs : List Byte} (h : bs.length ≤ 8) :
    OtherWords s (s.setMasked a mask bs) a (a + 8) := by
  have hbyte (c : Nat) (hc : c < a ∨ a + 8 ≤ c) := setMasked_byte_other bs s mask (a := a) (c := c) (by omega)
  obtain ⟨m, hm⟩ := setMasked_eq bs s a mask
  rw [hm] at hbyte ⊢
  exact ⟨fun c hc => ⟨hbyte c hc, fun _ => rfl, fun _ => rfl⟩, fun _ => rfl, rfl, rfl, rfl⟩

section
variable {s : State} {a : Nat} (hspad : isSpad a = true) (ha : a % 8 = 0) (herr : noErr s a)
include hspad ha herr

theorem otherWords_putMasked (bytes : List Byte) (mask mark : Nat) : OtherWords s (s.putMasked 0 a bytes mask mark) a (a + 8) := by
  have htag := otherWords_setTagAt herr false
  rw [State.putMasked, prewrite_of_noErr hspad herr]
  split
  · exact .refl s _ _
  · dsimp only
    split
    · exact htag.trans (otherWords_markPoison _ ha _)
    · split
      · exact htag
      · exact htag.trans (otherWords_setMasked _ a mask (List.length_take_le 8 bytes))

theorem rowWord_putMasked {bytes : List Byte} (hlen : 8 ≤ bytes.length) (mask mark : Nat) :
    rowWord s (s.putMasked 0 a bytes mask mark) a (mask % 256) mark fun i => bytes.getD i 0 := by
  have hbit (i : Nat) (hi : i < 8) : bit mask i = bit (mask % 256) i := by
    rw [Bool.eq_iff_iff, bit, bit, beq_iff_eq, beq_iff_eq]
    interval_cases i <;> omega
  rw [State.putMasked, prewrite_of_noErr hspad herr]
  refine ⟨fun hm => ?_, fun hm hk => ?_, fun hm hk hp => ?_, fun hm hk hp => ?_⟩
  · rw [if_pos hm]
    exact ⟨rfl, rfl⟩
  · rw [if_neg hm]
    have hword := poisonWord_markPoison (s.setTagAt a false) a (mark - 1)
    rw [show a / 8 * 8 = a by omega] at hword
    rwa [if_pos hk]
  · rw [if_neg hm, if_neg (not_not.mpr hk), setTagAt_poisoned, if_pos hp]
    exact ⟨rfl, hp⟩
  · rw [if_neg hm, if_neg (not_not.mpr hk), setTagAt_poisoned, hp, if_neg Bool.false_ne_true]
    obtain ⟨m, hmem⟩ := setMasked_eq (bytes.take 8) (s.setTagAt a false) a mask
    refine ⟨by rw [hmem]; exact hp, fun i hi => ?_⟩
    rw [setMasked_byte_in _ _ _ _ (by rw [List.length_take]; omega), ← hbit i hi, setTagAt_byte]
    simp [List.getD_eq_getElem?_getD, hi]

end

/-- A row of n words written under byte masks: what becomes of each word, and of everything else. -/
theorem putWords_row {n : Nat} {s : State} {a mask : Nat} {bytes : List Byte} {marks : List Nat} (hspad : isSpad a = true) (ha : a % 8 = 0)
    (hlen : 8 * n ≤ bytes.length) (herr : ∀ i, i < n → noErr s (a + 8 * i)) :
    OtherWords s (s.putWords 0 a bytes mask marks n) a (a + 8 * n) ∧
      ∀ i, i < n → rowWord s (s.putWords 0 a bytes mask marks n) (a + 8 * i) (mask / 2 ^ (8 * i) % 256) (marks.getD i 0)
        fun b => bytes.getD (8 * i + b) 0 := by
  induction n generalizing s a mask bytes marks with
  | zero => exact ⟨.refl s _ _, fun i hi => absurd hi (Nat.not_lt_zero i)⟩
  | succ n ih =>
    have hfirst := otherWords_putMasked hspad ha (herr 0 (Nat.succ_pos n)) bytes mask (marks.headD 0)
    have hword := rowWord_putMasked hspad ha (herr 0 (Nat.succ_pos n)) (bytes := bytes) (by omega) mask (marks.headD 0)
    rw [State.putWords]
    generalize s.putMasked 0 a bytes mask (marks.headD 0) = u at hfirst hword
    have hnext : isSpad (a + 8) = true := by
      simp only [isSpad, decide_eq_true_eq] at hspad ⊢
      omega
    obtain ⟨hrest, hwords⟩ := ih (s := u) (a := a + 8) (mask := mask / 256) (bytes := bytes.drop 8) (marks := marks.drop 1) hnext (by omega)
      (by rw [List.length_drop]; omega) fun i hi => hfirst.noErr (by
        have := herr (i + 1) (Nat.succ_lt_succ hi)
        rwa [show a + 8 * (i + 1) = a + 8 + 8 * i by ring] at this)
    generalize u.putWords 0 (a + 8) (bytes.drop 8) (mask / 256) (marks.drop 1) n = t at hrest hwords
    refine ⟨(hfirst.mono (Nat.le_refl a) (by omega)).trans (hrest.mono (by omega) (by omega)), fun i hi => ?_⟩
    cases i with
    | zero =>
      have hsame := sameWord_of_keepsOutside hrest.keeps ha (Or.inl (Nat.le_refl _))
      have hmark : marks.getD 0 0 = marks.headD 0 := by cases marks <;> rfl
      rw [Nat.mul_zero, Nat.add_zero, Nat.pow_zero, Nat.div_one, hmark]
      simp only [Nat.zero_add]
      exact rowWord_after hsame hword
    | succ i =>
      have hsame : sameWord s u (a + 8 + 8 * i) := sameWord_of_keepsOutside hfirst.keeps (by omega) (Or.inr (by omega))
      have hmask : mask / 256 / 2 ^ (8 * i) = mask / 2 ^ (8 * (i + 1)) := by
        rw [Nat.div_div_eq_div_mul, Nat.mul_succ, Nat.pow_add, Nat.mul_comm]
      have hmark : (marks.drop 1).getD i 0 = marks.getD (i + 1) 0 := by
        rw [List.getD_eq_getElem?_getD, List.getElem?_drop, Nat.add_comm 1 i, List.getD_eq_getElem?_getD]
      have hbytes (b : Nat) : (bytes.drop 8).getD (8 * i + b) 0 = bytes.getD (8 * (i + 1) + b) 0 := by
        rw [List.getD_eq_getElem?_getD, List.getElem?_drop, List.getD_eq_getElem?_getD, show 8 + (8 * i + b) = 8 * (i + 1) + b by ring]
      have hrow := rowWord_before hsame (hwords i (by omega))
      rw [hmask, hmark, show a + 8 + 8 * i = a + 8 * (i + 1) by ring] at hrow
      simpa only [hbytes] using hrow

theorem homeRowStore : HomeRowStore := by
  intro s a mask bytes marks hspad ha hbytes _ _ herr t
  obtain ⟨hother, hrow⟩ := putWords_row (n := 8) (mask := mask) (bytes := bytes) (marks := marks) hspad (by omega) (by omega) herr
  refine ⟨fun c hc => ?_, hother.fe, hrow⟩
  obtain ⟨hbyte, hpoison, htag⟩ := hother.keeps c hc
  exact ⟨hbyte, hpoison (by omega), htag (by omega)⟩

end Sys2Proof.Machine

namespace Sys2Proof.Machine
open Sys2Proof.Claims

/-! ## Atomics (R170-R172, Table 7.2) -/

theorem sgn_eq_toInt (w x : Nat) : sgn w x = (BitVec.ofNat w x).toInt := by
  rw [sgn, BitVec.toInt_eq_toNat_cond, BitVec.toNat_ofNat]

theorem eq_of_toInt_ofNat_eq {w x y : Nat} (hx : x < 2 ^ w) (hy : y < 2 ^ w)
    (h : (BitVec.ofNat w x).toInt = (BitVec.ofNat w y).toInt) : x = y := by
  have hbits := congrArg BitVec.toNat (BitVec.eq_of_toInt_eq h)
  rwa [BitVec.toNat_ofNat, BitVec.toNat_ofNat, Nat.mod_eq_of_lt hx, Nat.mod_eq_of_lt hy] at hbits

/-- MIN keeps the lesser of two codes as signed integers. -/
theorem signedMin_eq {w x y : Nat} (hx : x < 2 ^ w) (hy : y < 2 ^ w) :
    (if (decide (sgn w x < sgn w y) == false) = true then y else x) =
      if (BitVec.ofNat w x).toInt ≤ (BitVec.ofNat w y).toInt then x else y := by
  have heq := eq_of_toInt_ofNat_eq hx hy
  rw [sgn_eq_toInt, sgn_eq_toInt]
  obtain hlt | hxy | hgt := lt_trichotomy (BitVec.ofNat w x).toInt (BitVec.ofNat w y).toInt
  · simp [hlt, hlt.le]
  · simp [heq hxy]
  · simp [hgt.not_gt, hgt.not_ge]

/-- MAX keeps the greater. -/
theorem signedMax_eq {w x y : Nat} (hx : x < 2 ^ w) (hy : y < 2 ^ w) :
    (if (decide (sgn w x < sgn w y) == true) = true then y else x) =
      if (BitVec.ofNat w y).toInt ≤ (BitVec.ofNat w x).toInt then x else y := by
  have heq := eq_of_toInt_ofNat_eq hx hy
  rw [sgn_eq_toInt, sgn_eq_toInt]
  obtain hlt | hxy | hgt := lt_trichotomy (BitVec.ofNat w x).toInt (BitVec.ofNat w y).toInt
  · simp [hlt, hlt.not_ge]
  · simp [heq hxy]
  · simp [hgt.not_gt, hgt.le]

theorem atomicFunctions : AtomicFunctions := by
  intro fn ty x y z htyped hx hy
  rw [← Nat.pow_mul 2 8] at hx hy
  cases fn with
  | add =>
    cases ty with
    | bf16x2 =>
      have hx' : x / 2 ^ 16 % 2 ^ 16 = x / 2 ^ 16 := by simp only [atomWidth] at hx; omega
      have hy' : y / 2 ^ 16 % 2 ^ 16 = y / 2 ^ 16 := by simp only [atomWidth] at hy; omega
      simp only [atomNew, table72, atomRnd, Nat.mul_zero, Nat.pow_zero, Nat.div_one, Nat.mul_one, hx', hy']
      rw [Nat.mul_comm (2 ^ 16)]
    | n32 => exact absurd rfl htyped
    | i32 | i64 | f32 => rfl
  | min =>
    cases ty with
    | i32 => exact signedMin_eq hx hy
    | i64 => exact signedMin_eq hx hy
    | bf16x2 => exact absurd rfl htyped
    | f32 | n32 => rfl
  | max =>
    cases ty with
    | i32 => exact signedMax_eq hx hy
    | i64 => exact signedMax_eq hx hy
    | bf16x2 => exact absurd rfl htyped
    | f32 | n32 => rfl
  | and | or | xor | swap | cas => rfl

/-- The cases of R172 at a scratchpad word without a stored error. -/
theorem atomic_spad {s : State} {a : Nat} (hspad : isSpad a = true) (herr : noErr s a) (fn : AtomFn) (ty : AtomTy) (y ym z zm : Nat) :
    s.atomic 0 a fn ty y ym z zm =
      if s.mark a ≠ 0 then
        if ym ≠ 0 ∧ fn ≠ .cas then (⟨s.val a (atomWidth ty), s.mark a, ym, true⟩, s.store 0 a (atomWidth ty) 0 ym)
        else (⟨s.val a (atomWidth ty), s.mark a, s.mark a, false⟩, s)
      else if fn = .cas ∧ zm ≠ 0 then (⟨s.val a (atomWidth ty), atTarget zm, 0, false⟩, s)
      else if fn = .cas ∧ ym = 0 ∧ s.val a (atomWidth ty) ≠ z % 256 ^ atomWidth ty then (⟨s.val a (atomWidth ty), 0, 0, false⟩, s)
      else if ym ≠ 0 then (⟨s.val a (atomWidth ty), 0, ym, true⟩, s.store 0 a (atomWidth ty) 0 ym)
      else (⟨s.val a (atomWidth ty), 0, 0, false⟩, s.store 0 a (atomWidth ty)
        (atomNew fn ty (s.val a (atomWidth ty)) (y % 256 ^ atomWidth ty) (z % 256 ^ atomWidth ty)) 0) := by
  have hpow : 2 ^ (8 * atomWidth ty) = 256 ^ atomWidth ty := Nat.pow_mul 2 8 _
  rw [State.atomic, look_of_noErr hspad herr, readAt_spad s hspad, hpow]

theorem atTarget_marked {m : Nat} (h : m ≠ 0) : atTarget m = 257 + (m - 1) % 256 := by
  rw [atTarget, if_neg h, Nat.add_comm]

theorem homeAtomic : HomeAtomic := by
  intro s a fn ty y ym z zm hspad _ herr n x r new cls
  have hr : r = _ := atomic_spad hspad herr fn ty y ym z zm
  rw [State.mark] at hr
  rw [hr]
  refine ⟨fun hp => ?_, fun hp => ?_⟩
  · rw [hp, if_pos rfl, if_pos (Nat.succ_ne_zero _)]
    refine ⟨?_, fun hy hfn => ?_, fun hy => ?_⟩
    · split <;> rfl
    · rw [if_pos ⟨hy, hfn⟩]
      exact ⟨rfl, rfl⟩
    · rw [if_neg (by tauto)]
      exact ⟨rfl, rfl⟩
  · rw [hp, if_neg Bool.false_ne_true, if_neg (not_not.mpr rfl)]
    refine ⟨?_, fun hfn hz => ?_, fun hfn hz hy hne => ?_, fun hfn hz hy heq => ?_, fun hy hfn => ?_, fun hy hfn => ?_⟩
    · split_ifs <;> rfl
    · rw [if_pos ⟨hfn, hz⟩]
      exact ⟨rfl, atTarget_marked hz⟩
    · rw [if_neg (by tauto), if_pos ⟨hfn, hy, hne⟩]
      exact ⟨rfl, rfl⟩
    · rw [if_neg (by tauto), if_neg (by tauto), if_neg (by tauto)]
      exact ⟨rfl, rfl⟩
    · rw [if_neg (by tauto), if_neg (by tauto), if_pos hy]
      exact ⟨rfl, rfl, rfl⟩
    · rw [if_neg (by tauto), if_neg (by tauto), if_neg (by tauto)]
      exact ⟨rfl, rfl, rfl⟩

/-- Settles O25: what wakes the waiters of a word lies beside memory, a write is then one of three writes of its word, a row is
written word by word, and an atomic is a read that may be followed by such a write. -/
theorem homeOperations : Obligations.HomeOperations := ⟨⟨homeReads, homeStore, homeRowStore⟩, atomicFunctions, homeAtomic⟩
end Sys2Proof.Machine

namespace Sys2Proof.Machine
open Sys2Proof.Claims

/-! ## Words of the tile store's descriptors (R47, Table 2.3) -/

theorem bit_toNat (x : Word) (i : Nat) : bit x.toNat i = x.getLsbD i := by
  rw [bit, BitVec.getLsbD, Nat.testBit_eq_decide_div_mod_eq, Bool.beq_eq_decide_eq]

theorem descSet_eq (w : Word) : descSet w = w.getLsbD 63 := bit_toNat w 63
theorem descRows_eq (w : Word) : descRows w = rowsOf w := congrArg (· + 1) (bits_toNat w 25 16)
theorem descCols_eq (w : Word) : descCols w = colsOf w := congrArg (· + 1) (bits_toNat w 35 26)
theorem descType_eq (w : Word) : descType w = typeOf w := bits_toNat w 39 36

theorem descSize_eq (w : Word) : descSize w = eltBytes w := by
  rw [descSize, eltBytes, descType_eq]
  simp only [Nat.lt_succ_iff]

theorem descValid_iff (w : Word) : descValid w = true ↔ tileWord w := by
  have hreserved : bits w.toNat 62 40 = 0 ↔ w.extractLsb' 40 23 = 0#23 := by
    rw [bits_toNat, wfield]
    exact ⟨fun h => BitVec.eq_of_toNat_eq h, fun h => by rw [h]; rfl⟩
  have hrow : descRow w = (w.extractLsb' 0 10).toNat := bits_toNat w 9 0
  have hcol : descCol w = (w.extractLsb' 10 5).toNat := bits_toNat w 14 10
  have hzero : w.toNat = 0 ↔ w = 0 := by
    rw [← BitVec.toNat_inj]
    rfl
  unfold descValid tileWord
  rw [descSet_eq]
  split
  · rw [hrow, hcol, descType_eq, descRows_eq, descCols_eq, descSize_eq]
    simp only [bit_toNat, Bool.and_eq_true, beq_iff_eq, decide_eq_true_eq, Bool.not_eq_true', hreserved, and_assoc]
  · rw [beq_iff_eq, hzero]

/-! ## TCFG (R269) -/

theorem any_fst_eq {l : SMap Nat} {k : Nat} : (l.any fun x => x.1 == k) = true ↔ ∃ x ∈ l, x.1 = k := by
  simp [List.any_eq_true]

theorem mfind_mins_self {α : Type} (m : SMap α) (k : Nat) (v : α) (h : ∀ x ∈ m, x.1 ≠ k) : mfind (mins m k v) k = some v := by
  induction m with
  | nil => simp [mins, mfind]
  | cons x m ih =>
    obtain ⟨j, w⟩ := x
    have hj : j ≠ k := h (j, w) (by simp)
    by_cases hk : k < j
    · simp [mins, mfind, hk]
    · simp only [mins, hk, if_false, mfind, hj]
      exact ih fun x hx => h x (by simp [hx])

theorem mfind_mput_self {α : Type} (m : SMap α) (k : Nat) (v : α) : mfind (mput m k v) k = some v :=
  mfind_mins_self _ k v (mdel_keys m k)

theorem setCluster_cluster_self (s : State) (c : Nat) (x : Cluster) : (s.setCluster c x).cluster c = x := mget_mset_self _ _ _ _

theorem setCur_cluster (s : State) (x : Thread) (c : Nat) : (s.setCur x).cluster c = s.cluster c := rfl

theorem done_cur (s : State) : s.done s.cur = .next (atRetire s s.cur) := rfl

theorem tileConfiguration : TileConfiguration := by
  intro s t a x c cl
  have hpoison : x.isPoison = true ↔ x.tag = .poison := by rw [GReg.isPoison, beq_iff_eq]
  have hclosing : (cl.closing.any fun k => k.1 == t.val) = true ↔ ∃ k ∈ cl.closing, k.1 = t.val := any_fst_eq
  have hexec : exec (.tcfg t a) s = if x.isPoison then s.trap causePoison x.cls
      else if !descValid x.low then s.trap causeTile t.val
      else if cl.closing.any fun k => k.1 == t.val then s.park (.closing t.val)
      else if mget 0 cl.desc t.val = x.low then s.done s.cur
      else (s.setCluster c { cl with
        closing := mput cl.closing t.val (inCluster s.curTile * 8 + s.curThr + 1), newWord := mput cl.newWord t.val x.low }).park
          (.tcfg t.val) := rfl
  refine ⟨fun hp => ?_, fun hp => ⟨fun hv => ?_, fun hv => ⟨fun hc => ?_, fun hc => ⟨fun hw => ?_, fun hw => ?_⟩⟩⟩⟩
  · rw [hexec, if_pos (hpoison.mpr hp), cls_of_poison hp]
    rfl
  all_goals rw [hexec, if_neg (mt hpoison.mp hp)]
  · rw [← descValid_iff, Bool.not_eq_true] at hv
    rw [hv]
    rfl
  all_goals rw [(descValid_iff _).mpr hv, if_neg (by simp)]
  · rw [if_pos (hclosing.mpr hc)]
    rfl
  all_goals rw [if_neg (mt hclosing.mp fun ⟨k, hk, heq⟩ => hc k hk heq)]
  · rw [if_pos hw, done_cur]
  · rw [if_neg hw]
    refine ⟨_, rfl, rfl, setCur_cur _ _, ?_⟩
    simp only [setCur_cluster]
    rw [setCluster_cluster_self]
    exact ⟨rfl, rfl, mfind_mput_self _ _ _, mfind_mput_self _ _ _⟩

/-! ## Operands of matrix commands (R155, R257) -/

theorem near_iff (r : GReg) (pkg : Nat) :
    (gaLocal r.low.toNat || gaPkg r.low.toNat == pkg) = true ↔ r.low.getLsbD 63 = true ∨ (r.low.extractLsb' 46 17).toNat = pkg := by
  have hpkg : gaPkg r.low.toNat = (r.low.extractLsb' 46 17).toNat := bits_toNat r.low 62 46
  rw [Bool.or_eq_true, beq_iff_eq, hpkg, gaLocal, bit_toNat]

/-- The operand's one access is in bounds and aligned. -/
def Opnd.lands (o : Opnd) (pkg : Nat) : Prop :=
  ∃ n ga, o.elems = [{ size := n }] ∧ o.reg.reach pkg 0 n = .ok ga ∧ ga % 2 ^ 44 % o.align = 0

/-- The targets of an operand that lands. -/
def Opnd.landing (o : Opnd) (pkg : Nat) : List (Elem × Nat × Bool) := o.elems.map fun e => (e, o.ga pkg, false)

theorem targets_of_lands {o : Opnd} {pkg : Nat} (h : o.lands pkg) : o.targets pkg o.elems = .ok (o.landing pkg) := by
  obtain ⟨n, ga, helems, hreach, halign⟩ := h
  have hga : o.ga pkg = ga := by simp [Opnd.ga, helems, hreach]
  have hodd : (ga % 2 ^ 44 % o.align != 0 % o.align) = false := by rw [halign, Nat.zero_mod]; rfl
  simp only [Opnd.landing, helems, hga, Opnd.targets, hreach, hodd, List.map_cons, List.map_nil]

theorem targetsAll_of_lands {pkg : Nat} {ops : List Opnd} (h : ∀ o ∈ ops, o.lands pkg) :
    targetsAll pkg ops = .ok (ops.map fun o => o.landing pkg) := by
  induction ops with
  | nil => rfl
  | cons o os ih =>
    rw [targetsAll, targets_of_lands (h o List.mem_cons_self), ih fun x hx => h x (List.mem_cons_of_mem _ hx)]
    rfl

theorem misaligned_landing (pkg : Nat) (ops : List Opnd) : misaligned ops (ops.map fun o => o.landing pkg) = none := by
  induction ops with
  | nil => rfl
  | cons o os ih =>
    have hfind : (o.landing pkg).find? (fun x => x.2.2) = none := by simp [Opnd.landing]
    rw [List.map_cons, misaligned, hfind]
    exact ih

theorem copyTags_none {l : List (GReg × Nat × Bool)} (h : ∀ x ∈ l, x.1.tag ≠ .poison ∧ (x.2.2 = true → x.1.tag = .cap)) :
    copyTags l = none := by
  induction l with
  | nil => rfl
  | cons x l ih =>
    obtain ⟨r, f, cap⟩ := x
    obtain ⟨hpoison, hcap⟩ := h (r, f, cap) List.mem_cons_self
    have hnot : r.isPoison = false := beq_eq_false_iff_ne.mpr hpoison
    have hgood : (cap && !r.isCap) = false := by
      cases hc : cap
      · rfl
      · rw [GReg.isCap, show r.tag = .cap from hcap hc]
        rfl
    rw [copyTags, hnot, hgood]
    exact ih fun y hy => h y (List.mem_cons_of_mem _ hy)

/-! ## Flag operands (R155, R168) -/

/-- What a flag operand that is given meets of the checks. -/
structure FlagChecked (s : State) (o : Opnd) : Prop where
  cap : o.reg.tag = .cap
  allowed : (o.reg.grants o.need && o.spaceOk s.pkg) = true
  privileged : o.reg.kind = .mmio → s.cur.priv = true
  lands : o.lands s.pkg

theorem flagOpnd_zero (th : Thread) : flagOpnd th 0 = none := rfl

theorem flagOpnd_of_ne {r : GIx} (h : r ≠ 0) (th : Thread) : flagOpnd th r = some (addrOpnd th r permFL flagSpaces 8 0) := by
  rw [flagOpnd, if_neg h]

/-- The spaces that the row of flags allows: scratchpad, and the launch flags of the own package's MMIO. -/
theorem spaceAllowed_flags {s : State} {r : GReg} (h : spaceAllowed s .flags r 0 8) :
    space r = 0 ∨ space r = 2 ∧ (gaLocal r.low.toNat || gaPkg r.low.toNat == s.pkg) = true ∧
      0x0100_0000 ≤ gaAddr r.low.toNat ∧ gaAddr r.low.toNat < 0x0100_2000 := by
  have haddr : (((r.low.toNat : Int) + 0) % 2 ^ 44).toNat = gaAddr r.low.toNat := by
    simp only [gaAddr, bits]
    omega
  unfold spaceAllowed at h
  rw [haddr, ← near_iff] at h
  dsimp only at h
  split at h
  case h_1 hs => exact Or.inl hs
  case h_5 hs => exact Or.inr ⟨hs, h⟩
  all_goals contradiction

theorem spaceOk_flag {s : State} {r : GIx} (h : wovenCap (s.cur.rd r) = true ∨ spaceAllowed s .flags (s.cur.rd r) 0 8) :
    (addrOpnd s.cur r permFL flagSpaces 8 0).spaceOk s.pkg = true := by
  have hfirst : (addrOpnd s.cur r permFL flagSpaces 8 0).first = (s.cur.rd r).low.toNat := by
    have := (s.cur.rd r).low.isLt
    simp only [Opnd.first, addrOpnd, GReg.eva, wrapInt]
    omega
  have hreg : (addrOpnd s.cur r permFL flagSpaces 8 0).reg = s.cur.rd r := rfl
  rw [Opnd.spaceOk, hfirst, hreg]
  cases hw : wovenCap (s.cur.rd r)
  · rw [kind_of_plain hw]
    obtain hs | ⟨hs, hnear, hlo, hhi⟩ := spaceAllowed_flags (h.resolve_left (by rw [hw]; exact Bool.false_ne_true))
    · rw [hs]
      rfl
    · rw [hs]
      dsimp only
      rw [hnear, decide_eq_true hlo, decide_eq_true hhi]
      rfl
  · rw [kind_of_woven hw]
    rfl

theorem flagChecked_of_given {s : State} {r : GIx} (hr : r ≠ 0) (h : flagGiven s r) :
    FlagChecked s (addrOpnd s.cur r permFL flagSpaces 8 0) := by
  obtain rfl | ⟨⟨hcap, hgrants, ga, hreach, halign⟩, hspace⟩ := h
  · exact absurd rfl hr
  have hok := spaceOk_flag (hspace.imp_right And.left)
  refine ⟨hcap, ?_, fun hk => ?_, 8, ga, rfl, hreach, halign⟩
  · rw [hok, Bool.and_true]
    exact hgrants
  · rw [kind_eq_mmio_iff] at hk
    have hplain : wovenCap (s.cur.rd r) ≠ true := fun hw => by
      change isMmio (s.cur.rd r) = true at hk
      simp [isMmio, hw] at hk
    exact (hspace.resolve_left hplain).2 hk

theorem reach_plain {r : GReg} {pkg n ga : Nat} (hw : wovenCap r = false) (h : r.reach pkg 0 n = .ok ga) :
    ga = localise pkg r.low.toNat := by
  have hk : r.kind ≠ .woven := by rw [ne_eq, kind_eq_woven_iff, hw]; exact Bool.false_ne_true
  have hcursor (w : Nat) : r.low.toNat / w * w + (((r.low.toNat % w : Nat) : Int) + 0).toNat = r.low.toNat := by
    rw [add_zero, Int.toNat_natCast, Nat.div_add_mod']
  unfold GReg.reach at h
  dsimp only at h
  split at h
  · contradiction
  · split at h
    · cases h
    · rw [hcursor] at h
      exact (Reach.ok.inj h).symm

theorem localise_eq (pkg a : Nat) : localise pkg a = if (gaLocal a || gaPkg a == pkg) = true then 2 ^ 63 + a % 2 ^ 46 else a := by
  rw [localise]
  cases gaLocal a
  · simp only [Bool.false_eq_true, if_false, Bool.false_or, beq_iff_eq]
  · rfl

theorem flagKept_eq {s : State} {r : GIx} (hr : r ≠ 0) (h : flagGiven s r) :
    flagKept s r = (addrOpnd s.cur r permFL flagSpaces 8 0).ga s.pkg := by
  obtain rfl | ⟨⟨-, -, ga, hreach, -⟩, -⟩ := h
  · exact absurd rfl hr
  have hga : (addrOpnd s.cur r permFL flagSpaces 8 0).ga s.pkg = ga := by simp [Opnd.ga, addrOpnd, hreach]
  rw [hga, flagKept, if_neg hr]
  cases hw : wovenCap (s.cur.rd r)
  · have hlow : (s.cur.rd r).low.toNat % 2 ^ 46 = ((s.cur.rd r).low.extractLsb' 0 46).toNat := by
      rw [BitVec.extractLsb'_toNat, Nat.shiftRight_zero]
    rw [reach_plain hw hreach, if_neg Bool.false_ne_true, ← hlow, localise_eq]
    exact if_congr (near_iff _ _).symm rfl rfl
  · rw [if_pos rfl, hreach]

end Sys2Proof.Machine

namespace Sys2Proof.Machine
open Sys2Proof.Claims

/-! ## A command put at the end of its tile's matrix queue (R256, R258) -/

/-- The state with a matrix command at the end of its tile's queue, whose head has looked at its flag. -/
def State.queued (s : State) (c : MatCmd) : State :=
  (s.updTile s.curTile fun y => { y with matq := y.matq ++ [c] }).watchHead s.curTile

theorem unseen_queued (s : State) (c : MatCmd) (t h : Nat) : Unseen t h s (s.queued c) :=
  (Unseen.updTile .refl s.curTile rfl).watchHead s.curTile

theorem queued_cur (s : State) (c : MatCmd) : (s.queued c).cur = s.cur := by
  have h := unseen_queued s c s.curTile s.curThr
  rw [State.cur, h.curTile, h.curThr, h.thr, State.cur]

/-- Looking at a flag changes nothing of a command but its answer, and that only where it names a flag. -/
theorem watch_eq (m : MatCmd) (s : State) (t : Nat) : ∃ x, m.watch s t = { m with met := x } ∧ (m.wf = 0 → x = m.met) := by
  rw [MatCmd.watch]
  split
  · next h =>
    refine ⟨_, rfl, fun hwf => ?_⟩
    simp [ownFlag, hwf] at h
  · exact ⟨m.met, rfl, fun _ => rfl⟩

theorem watchHead_matq {s : State} {t : Nat} {m : MatCmd} {r : List MatCmd} (h : (s.tile t).matq = m :: r) :
    ((s.watchHead t).tile t).matq = m.watch s t :: r := by
  rw [State.watchHead, h]
  dsimp only
  rw [updTile_tile_self]

/-- The queue afterwards: the commands before, but for the answer of the head, and then the new one, which has its answer at once only
where it is the head and names a flag. -/
theorem queued_matq (s : State) {c : MatCmd} (hmet : c.met = none) :
    ∃ q x, ((s.queued c).tile s.curTile).matq = q ++ [{ c with met := x }] ∧
      q.map (fun m => { m with met := none }) = s.curT.matq.map (fun m => { m with met := none }) ∧ (q ≠ [] ∨ c.wf = 0 → x = none) := by
  have hqueue : ((s.updTile s.curTile fun y => { y with matq := y.matq ++ [c] }).tile s.curTile).matq = s.curT.matq ++ [c] := by
    rw [updTile_tile_self]
    rfl
  cases hq : s.curT.matq with
  | nil =>
    rw [hq] at hqueue
    obtain ⟨x, hx, hnone⟩ := watch_eq c (s.updTile s.curTile fun y => { y with matq := y.matq ++ [c] }) s.curTile
    refine ⟨[], x, ?_, rfl, fun h => (hnone (h.resolve_left (not_not.mpr rfl))).trans hmet⟩
    rw [State.queued, watchHead_matq hqueue, hx]
    rfl
  | cons m r =>
    rw [hq] at hqueue
    obtain ⟨x, hx, -⟩ := watch_eq m (s.updTile s.curTile fun y => { y with matq := y.matq ++ [c] }) s.curTile
    refine ⟨{ m with met := x } :: r, none, ?_, rfl, fun _ => rfl⟩
    rw [State.queued, watchHead_matq hqueue, hx, ← hmet]
    rfl

theorem atRetire_matq (s : State) (th : Thread) (t : Nat) : ((atRetire s th).tile t).matq = (s.tile t).matq := by
  rw [atRetire]
  by_cases h : t = s.curTile
  · rw [h, setThr_tile_self]
    rfl
  · rw [State.setThr, setTile_tile_other _ _ h]

/-! ## The issue of a matrix command (R256, R257) -/

/-- The state that a command takes at issue (R256). -/
def State.matTaken (s : State) (t : TIx) (wf wn sf : GIx) (w : Word) : MatCmd :=
  { thr := s.curThr, pc := s.cur.pc, head := s.curHead, t := t.val, desc := w, wf := flagKept s wf, wn := (s.cur.rd wn).low.toNat,
    sf := flagKept s sf, ovf := s.cur.ovf, seed := s.cur.seed, n := s.cur.retired }

/-- A command of some kind with its operands. -/
def State.matCommand (s : State) (t : TIx) (wf wn sf : GIx) (w : Word) (kind : MatKind) (a b m : GReg) (rm : Nat) : MatCmd :=
  { s.matTaken t wf wn sf w with kind := kind, a := a, b := b, m := m, rm := rm }

theorem flagKept_zero {s : State} {r : GIx} (h : r = 0) : flagKept s r = 0 := if_pos h

theorem matIssued_queued (s : State) (t : TIx) (wf wn sf : GIx) (w : Word) (kind : MatKind) (a b m : GReg) (rm : Nat) :
    matIssued s t wf wn sf w kind a b m rm
      (.next (atRetire (s.queued (s.matCommand t wf wn sf w kind a b m rm)) s.cur)) := by
  obtain ⟨q, x, hqueue, hbare, hmet⟩ := queued_matq s (c := s.matCommand t wf wn sf w kind a b m rm) rfl
  have hseen := unseen_queued s (s.matCommand t wf wn sf w kind a b m rm) s.curTile s.curThr
  have hcur := queued_cur s (s.matCommand t wf wn sf w kind a b m rm)
  refine ⟨_, q, _, rfl, ?_, ?_, (atRetire_matq _ _ _).trans hqueue, hbare, rfl, rfl, rfl, rfl, rfl, rfl, rfl, rfl, rfl, rfl, rfl, rfl, rfl,
    rfl, rfl, rfl, rfl, fun h => hmet (h.imp_right flagKept_zero)⟩
  · rw [atRetire_cur, atRetire_cur, hcur]
  · rw [atRetire, State.setThr_mem, hseen.mem]

/-- The flags that a command names. -/
def flagOperands (th : Thread) (wf sf : GIx) : List Opnd := (flagOpnd th wf).toList ++ (flagOpnd th sf).toList

theorem flagChecked_of_mem {s : State} {wf sf : GIx} (hwf : flagGiven s wf) (hsf : flagGiven s sf) {o : Opnd}
    (h : o ∈ flagOperands s.cur wf sf) : FlagChecked s o := by
  have hone (r : GIx) (hr : flagGiven s r) (h : o ∈ (flagOpnd s.cur r).toList) : FlagChecked s o := by
    by_cases hz : r = 0
    · subst hz
      cases h
    · rw [flagOpnd_of_ne hz, Option.toList_some, List.mem_singleton] at h
      exact h ▸ flagChecked_of_given hz hr
  rw [flagOperands, List.mem_append] at h
  exact h.elim (hone wf hwf) (hone sf hsf)

/-- Step 2 of R257 for the flags. -/
theorem flags_allowed {s : State} {wf sf : GIx} (hwf : flagGiven s wf) (hsf : flagGiven s sf) :
    (flagOperands s.cur wf sf).find? (fun o => !(o.reg.grants o.need && o.spaceOk s.pkg)) = none :=
  List.find?_eq_none.mpr fun o ho => by simp [(flagChecked_of_mem hwf hsf ho).allowed]

theorem flags_privileged {s : State} {wf sf : GIx} (hwf : flagGiven s wf) (hsf : flagGiven s sf) :
    (!s.cur.priv && (flagOperands s.cur wf sf).any fun o => o.reg.kind == .mmio) = false := by
  by_contra h
  rw [Bool.not_eq_false, Bool.and_eq_true, Bool.not_eq_true', List.any_eq_true] at h
  obtain ⟨hp, o, ho, hk⟩ := h
  rw [(flagChecked_of_mem hwf hsf ho).privileged (beq_iff_eq.mp hk)] at hp
  cases hp

/-- The words that the flags of a command name are those that the command keeps. -/
theorem flagTargets_eq {s : State} {wf sf : GIx} (hwf : flagGiven s wf) (hsf : flagGiven s sf) :
    flagTargets ((flagOperands s.cur wf sf).map fun o => o.landing s.pkg) (wf != 0) (sf != 0) = (flagKept s wf, flagKept s sf) := by
  have hzero : flagKept s 0 = 0 := flagKept_zero rfl
  have hkept (r : GIx) (hr : r ≠ 0) (h : flagGiven s r) := flagKept_eq hr h
  by_cases h1 : wf = 0 <;> by_cases h2 : sf = 0
  · subst h1 h2; rfl
  · subst h1
    rw [hkept sf h2 hsf, hzero, flagOperands, flagOpnd_zero, flagOpnd_of_ne h2]
    simp [flagTargets, Opnd.landing, addrOpnd, h2]
  · subst h2
    rw [hkept wf h1 hwf, hzero, flagOperands, flagOpnd_zero, flagOpnd_of_ne h1]
    simp [flagTargets, Opnd.landing, addrOpnd, h1]
  · rw [hkept wf h1 hwf, hkept sf h2 hsf, flagOperands, flagOpnd_of_ne h1, flagOpnd_of_ne h2]
    simp [flagTargets, Opnd.landing, addrOpnd, h1, h2]

theorem matOk_of_operand {s : State} {r : GReg} {n k : Nat} (h : matOperand s r n k) : matOk s.pkg s.curTile r = true := by
  obtain ⟨⟨-, hgrants, -⟩, hw, hs, hnear, hcluster⟩ := h
  have hkind : r.kind = .tile := (kind_eq_tile_iff r).mpr (by rw [isTile, hw, hs]; rfl)
  have htile : gaTile r.low.toNat = (r.low.extractLsb' 32 12).toNat := bits_toNat r.low 43 32
  have hg : r.grants permMT = true := hgrants
  rw [matOk, hg, hkind, (near_iff r s.pkg).mpr hnear, htile, hcluster]
  simp

/-- The operands' footprints, and the flags, as the checks take them. -/
def matOpnds (th : Thread) (all : List MatOpnd) : List Opnd :=
  all.map fun o =>
    { reg := th.rd o.field, field := o.field.val, need := permMT, sp := onlyScratch, elems := [{ size := o.bytes }], align := o.align }

theorem lands_of_operand {s : State} {o : MatOpnd} (h : matOperand s (s.cur.rd o.field) o.bytes o.align) :
    ({ reg := s.cur.rd o.field, field := o.field.val, need := permMT, sp := onlyScratch, elems := [{ size := o.bytes }],
       align := o.align } : Opnd).lands s.pkg := by
  obtain ⟨⟨-, -, ga, hreach, halign⟩, -⟩ := h
  exact ⟨o.bytes, ga, rfl, hreach, halign⟩

section
variable {s : State} {t : TIx} {pre post : List MatOpnd} {wf wn sf : GIx} {w : Word} {tileOk : Word → Bool}
  {sizes : Word → List MatOpnd → List MatOpnd} {mk : MatCmd → MatCmd}

/-- Step 1 of R257: every operand has the tag that its field asks for. -/
theorem copyTags_ready (hready : matReady s t wf wn sf w)
    (hcaps : ∀ o ∈ pre ++ post, (s.cur.rd o.field).tag = .cap) :
    copyTags (pre.map (fun o => (s.cur.rd o.field, o.field.val, true)) ++ capArg s.cur (flagField wf) ++ [(s.cur.rd wn, wn.val, false)] ++
      capArg s.cur (flagField sf) ++ post.map fun o => (s.cur.rd o.field, o.field.val, true)) = none := by
  obtain ⟨-, -, -, -, hwf, hsf, hwn⟩ := hready
  have hcap {x : GReg × Nat × Bool} (h : x.1.tag = .cap) : x.1.tag ≠ .poison ∧ (x.2.2 = true → x.1.tag = .cap) :=
    ⟨by rw [h]; exact Tag.noConfusion, fun _ => h⟩
  have hflag (r : GIx) (hr : flagGiven s r) (x : GReg × Nat × Bool) (hx : x ∈ capArg s.cur (flagField r)) : x.1.tag = .cap := by
    by_cases hz : r = 0
    · subst hz
      cases hx
    · rw [flagField, if_neg hz, capArg, List.mem_singleton] at hx
      rw [hx]
      exact (flagChecked_of_given hz hr).cap
  have hopnd (l : List MatOpnd) (hl : l ⊆ pre ++ post) (x : GReg × Nat × Bool)
      (hx : x ∈ l.map fun o => (s.cur.rd o.field, o.field.val, true)) : x.1.tag = .cap := by
    obtain ⟨o, ho, rfl⟩ := List.mem_map.mp hx
    exact hcaps o (hl ho)
  refine copyTags_none fun x hx => ?_
  simp only [List.mem_append, List.mem_singleton] at hx
  obtain (((hx | hx) | rfl) | hx) | hx := hx
  · exact hcap (hopnd pre (List.subset_append_left _ _) x hx)
  · exact hcap (hflag wf hwf x hx)
  · exact ⟨hwn, fun h => absurd h Bool.false_ne_true⟩
  · exact hcap (hflag sf hsf x hx)
  · exact hcap (hopnd post (List.subset_append_right _ _) x hx)

/-- With the operands, the descriptor and the footprints that R257 asks for, a command takes its place in the queue. -/
theorem issueMatrix_ready (hready : matReady s t wf wn sf w) (htile : tileOk w = true)
    (hfields : (sizes w (pre ++ post)).map MatOpnd.field = (pre ++ post).map MatOpnd.field)
    (hopnds : ∀ o ∈ sizes w (pre ++ post), matOperand s (s.cur.rd o.field) o.bytes o.align) :
    s.issueMatrix t pre wf wn sf post tileOk sizes mk = .next (atRetire (s.queued (mk (s.matTaken t wf wn sf w))) s.cur) := by
  have hgiven : ∀ o ∈ pre ++ post, ∃ n k, matOperand s (s.cur.rd o.field) n k := fun o ho => by
    obtain ⟨o', ho', heq⟩ := List.mem_map.mp (hfields ▸ List.mem_map_of_mem (f := MatOpnd.field) ho)
    exact ⟨o'.bytes, o'.align, heq ▸ hopnds o' ho'⟩
  have htags := copyTags_ready (pre := pre) (post := post) hready fun o ho => by
    obtain ⟨_, _, hop⟩ := hgiven o ho
    exact hop.1.1
  obtain ⟨hw, hset, hclosing, hroom, hwf, hsf, -⟩ := hready
  have hrights : (pre ++ post).find? (fun o => !matOk s.pkg s.curTile (s.cur.rd o.field)) = none :=
    List.find?_eq_none.mpr fun o ho => by
      obtain ⟨_, _, hop⟩ := hgiven o ho
      simp [matOk_of_operand hop]
  have hallowed := flags_allowed hwf hsf
  have hpriv := flags_privileged hwf hsf
  have hopen : ((s.cluster (clusterOf s.curTile)).closing.any fun k => k.1 == t.val) = false := by
    rw [← Bool.not_eq_true, any_fst_eq]
    exact fun ⟨k, hk, heq⟩ => hclosing k hk heq
  have hdesc : (!descSet w || !tileOk w) = false := by rw [descSet_eq, hset, htile]; rfl
  have hlands : ∀ o ∈ matOpnds s.cur (sizes w (pre ++ post)) ++ flagOperands s.cur wf sf, o.lands s.pkg := fun o ho => by
    obtain ho | ho := List.mem_append.mp ho
    · obtain ⟨o', ho', rfl⟩ := List.mem_map.mp ho
      exact lands_of_operand (hopnds o' ho')
    · exact (flagChecked_of_mem hwf hsf ho).lands
  have htargets := targetsAll_of_lands hlands
  have haligned := misaligned_landing s.pkg (matOpnds s.cur (sizes w (pre ++ post)) ++ flagOperands s.cur wf sf)
  have hdrop : ((matOpnds s.cur (sizes w (pre ++ post)) ++ flagOperands s.cur wf sf).map fun o => o.landing s.pkg).drop
      (sizes w (pre ++ post)).length = (flagOperands s.cur wf sf).map fun o => o.landing s.pkg := by
    rw [List.map_append, List.drop_left' (by simp [matOpnds])]
  have hcount : ¬16 ≤ s.matCount s.curTile := Nat.not_le.mpr hroom
  have hkept := flagTargets_eq hwf hsf
  have hdone : (s.queued (mk (s.matTaken t wf wn sf w))).done (s.queued (mk (s.matTaken t wf wn sf w))).cur =
      .next (atRetire (s.queued (mk (s.matTaken t wf wn sf w))) s.cur) := by rw [done_cur, queued_cur]
  simp only [matOpnds, flagOperands] at hallowed hpriv htargets haligned hdrop hkept
  unfold State.issueMatrix
  simp only [htags, hrights, hallowed, hpriv, hopen, ← hw, hdesc, htargets, haligned, hcount, hdrop, hkept, Bool.false_eq_true, if_false]
  exact hdone

theorem matIssued_of_ready {kind : MatKind} {x y z : GReg} {rm : Nat} (hready : matReady s t wf wn sf w) (htile : tileOk w = true)
    (hfields : (sizes w (pre ++ post)).map MatOpnd.field = (pre ++ post).map MatOpnd.field)
    (hopnds : ∀ o ∈ sizes w (pre ++ post), matOperand s (s.cur.rd o.field) o.bytes o.align)
    (hmk : mk (s.matTaken t wf wn sf w) = s.matCommand t wf wn sf w kind x y z rm) :
    matIssued s t wf wn sf w kind x y z rm (s.issueMatrix t pre wf wn sf post tileOk sizes mk) := by
  rw [issueMatrix_ready hready htile hfields hopnds, hmk]
  exact matIssued_queued s t wf wn sf w kind x y z rm

end
/-! ## The footprints of each command (R263, R264, R272-R274) -/

theorem denseBlock_eq (ty : MTy) : denseBlock ty + boolNat (mtyScaled ty) = 4 * mtyBits ty + mtyScale ty := by cases ty <;> rfl

theorem sparseBlock_eq (ty : MTy) (sp : SpN) :
    sparseBlock ty (spN sp) + boolNat (mtyScaled ty) = 4 * spKept sp * mtyBits ty / 8 + mtyScale ty := by
  cases sp <;> cases ty <;> rfl

theorem spN_eq (sp : SpN) : spN sp = spKept sp := by cases sp <;> rfl

theorem mmaTile_of_word {ty : MTy} {w : Word} (h : mmaWord ty w) : mmaTile ty w = true := by
  obtain ⟨htype, hrows, hcols⟩ := h
  simp only [mmaTile, descType_eq, descRows_eq, descCols_eq, Bool.and_eq_true, beq_iff_eq, List.contains_iff_mem]
  exact ⟨⟨htype, hrows⟩, hcols⟩

theorem tcvtBlocked_eq (d : ElemTy) : tcvtBlocked d = (tcvtForm d).2 := by cases d <;> rfl

theorem tcvtBytes_eq (d : ElemTy) (w : Word) :
    tcvtBytes d w = if (tcvtForm d).2 then rowsOf w * colsOf w / 32 * (4 * (tcvtForm d).1 + 1)
      else rowsOf w * colsOf w * ((tcvtForm d).1 / 8) := by
  rw [tcvtBytes, descRows_eq, descCols_eq]
  cases d <;> rfl

/-- The rounding mode that a command takes (R67, R75). -/
theorem roundingCode_eq (th : Thread) (rm : Rm) : (th.rctx rm false 0).mode.code = rmNumber rm th.rm := by
  have hbits : ∀ b : BitVec 3, (rmOfBits b).code = if b.toNat < 5 then b.toNat else 0 := by decide
  cases rm with
  | dyn => exact hbits th.rm
  | rne | rz | rup | rdn | sr => rfl

section
variable {s : State} {t : TIx} {a b m wf wn sf : GIx} {w : Word} (hready : matReady s t wf wn sf w)
include hready

theorem mma_issued {ty : MTy} {k : Fin 16} (hword : mmaWord ty w)
    (hx : matOperand s (s.cur.rd a) ((k.val + 1) * rowsOf w * (4 * mtyBits ty + mtyScale ty)) 32)
    (hy : matOperand s (s.cur.rd b) ((k.val + 1) * colsOf w * (4 * mtyBits ty + mtyScale ty)) 32) :
    matIssued s t wf wn sf w (.mma ty (k.val + 1)) (s.cur.rd a) (s.cur.rd b) {} 0 (exec (.mma ty t a b wf wn sf k) s) := by
  change matIssued s t wf wn sf w _ _ _ _ _ (execMma ty t a b wf wn sf k s)
  unfold execMma
  refine matIssued_of_ready hready (mmaTile_of_word hword) rfl (fun o ho => ?_) rfl
  simp only [List.append_nil, mmaSizes, descRows_eq, descCols_eq, denseBlock_eq, List.map_nil, List.mem_cons, List.not_mem_nil, or_false] at ho
  obtain rfl | rfl := ho
  · exact hx
  · exact hy

theorem mmas_issued {ty : MTy} {sp : SpN} {k : Fin 16} (hword : mmaWord ty w)
    (hx : matOperand s (s.cur.rd a) ((k.val + 1) * rowsOf w * (4 * mtyBits ty + mtyScale ty)) 32)
    (hy : matOperand s (s.cur.rd b) ((k.val + 1) * colsOf w * (4 * spKept sp * mtyBits ty / 8 + mtyScale ty)) 32)
    (hz : matOperand s (s.cur.rd m) (4 * (k.val + 1) * colsOf w) 32) :
    matIssued s t wf wn sf w (.mmas ty (spKept sp) (k.val + 1)) (s.cur.rd a) (s.cur.rd b) (s.cur.rd m) 0
      (exec (.mmas ty sp t a b m wf wn sf k) s) := by
  rw [← spN_eq]
  change matIssued s t wf wn sf w _ _ _ _ _ (execMmas ty sp t a b m wf wn sf k s)
  unfold execMmas
  refine matIssued_of_ready hready (mmaTile_of_word hword) rfl (fun o ho => ?_) rfl
  simp only [List.cons_append, List.nil_append, mmaSizes, descRows_eq, descCols_eq, denseBlock_eq, sparseBlock_eq, List.map_cons,
    List.map_nil, List.mem_cons, List.not_mem_nil, or_false] at ho
  obtain rfl | rfl | rfl := ho
  · exact hx
  · exact hy
  · exact hz

theorem tzero_issued : matIssued s t wf wn sf w .tzero {} {} {} 0 (exec (.tzero t wf wn sf) s) := by
  change matIssued s t wf wn sf w _ _ _ _ _ (execTzero t wf wn sf s)
  unfold execTzero
  exact matIssued_of_ready hready rfl rfl (fun _ ho => absurd ho List.not_mem_nil) rfl

theorem tcvt_issued {dty : ElemTy} {rm : Rm} (hblocks : (tcvtForm dty).2 = true → colsOf w % 32 = 0)
    (hx : matOperand s (s.cur.rd a) (if (tcvtForm dty).2 then rowsOf w * colsOf w / 32 * (4 * (tcvtForm dty).1 + 1)
      else rowsOf w * colsOf w * ((tcvtForm dty).1 / 8)) 32) :
    matIssued s t wf wn sf w (.tcvt dty) (s.cur.rd a) {} {} (rmNumber rm s.cur.rm) (exec (.tcvt dty rm t a wf wn sf) s) := by
  rw [← roundingCode_eq]
  change matIssued s t wf wn sf w _ _ _ _ _ (execTcvt dty rm t a wf wn sf s)
  unfold execTcvt
  refine matIssued_of_ready hready ?_ rfl (fun o ho => ?_) rfl
  · rw [tcvtBlocked_eq, descCols_eq, Bool.or_eq_true, Bool.not_eq_true', beq_iff_eq]
    exact (Bool.eq_false_or_eq_true (tcvtForm dty).2).symm.imp_right hblocks
  · obtain rfl := List.mem_singleton.mp ho
    rw [← tcvtBytes_eq] at hx
    exact hx

theorem tscl_issued {col : Bool} (htype : typeOf w = 0)
    (hx : matOperand s (s.cur.rd a) (4 * (if col then colsOf w else rowsOf w)) 4)
    (hy : b = 0 ∨ matOperand s (s.cur.rd b) (4 * (if col then colsOf w else rowsOf w)) 4) :
    matIssued s t wf wn sf w (.tscl col) (s.cur.rd a) (if b = 0 then {} else s.cur.rd b) {} 0 (s.issueTscl col t a b wf wn sf) := by
  refine matIssued_of_ready hready ?_ ?_ (fun o ho => ?_) rfl
  · rw [descType_eq, htype]
    rfl
  · rw [List.map_map]
    rfl
  · obtain ⟨o', ho', rfl⟩ := List.mem_map.mp ho
    rw [descRows_eq, descCols_eq]
    rw [List.append_nil] at ho'
    obtain rfl | hbias := List.mem_cons.mp ho'
    · exact hx
    · split at hbias
      · cases hbias
      · next hb =>
        obtain rfl := List.mem_singleton.mp hbias
        exact hy.resolve_left hb

end

theorem matrixIssue : MatrixIssue := by
  intro s t a b m wf wn sf w hready x y z rows cols
  exact ⟨fun ty k hword => ⟨mma_issued hready hword, fun sp => mmas_issued hready hword⟩, tzero_issued hready,
    fun dty rm => tcvt_issued hready, fun htype => ⟨tscl_issued hready (col := false) htype, tscl_issued hready (col := true) htype⟩⟩

/-- Settles O47: the checks of R257 pass operand by operand, the command stands at the end of its queue with what they found, and TCFG
goes through its cases in their order. -/
theorem matrixCommands : Obligations.MatrixCommands := ⟨matrixIssue, tileConfiguration⟩
end Sys2Proof.Machine

namespace Sys2Proof.Machine
open Sys2Proof.Claims

/-! ## The unit in which a magnitude is rounded (R68 step 4) -/

theorem log2Rat_eq (n d : Nat) :
    log2Rat n d = (Nat.log2 n : Int) - Nat.log2 d - if n * 2 ^ Nat.log2 d < d * 2 ^ Nat.log2 n then 1 else 0 := by
  unfold log2Rat
  generalize Nat.log2 n = l, Nat.log2 d = m
  obtain ⟨k, rfl⟩ | ⟨k, rfl⟩ := (Nat.le_total m l).imp Nat.exists_eq_add_of_le Nat.exists_eq_add_of_le
  · have hbelow : n * 2 ^ m < d * 2 ^ (m + k) ↔ n < d * 2 ^ k := by
      rw [pow_add, mul_left_comm, mul_comm n, Nat.mul_lt_mul_left (by positivity)]
    simp only [hbelow, Nat.cast_add, add_sub_cancel_left, Nat.cast_nonneg, if_true, Int.toNat_natCast]
    split <;> simp
  · have hbelow : n * 2 ^ (l + k) < d * 2 ^ l ↔ n * 2 ^ k < d := by
      rw [pow_add, mul_left_comm, mul_comm d, Nat.mul_lt_mul_left (by positivity)]
    have hk : 0 ≤ (l : Int) - (l + k : Nat) ↔ k = 0 := by omega
    simp only [hbelow, hk]
    by_cases h : k = 0
    · subst h
      simp only [pow_zero, mul_one, if_true, Nat.add_zero, sub_self, Int.toNat_zero]
      split <;> simp
    · simp only [h, if_false, show (-((l : Int) - (l + k : Nat))).toNat = k by omega]
      split <;> simp

/-- What the exponent of n / d says, without division: 2^(x - y) is not above n / d. -/
theorem le_log2Rat_iff {n d : Nat} (hn : 0 < n) (hd : 0 < d) (x y : Nat) :
    (x : Int) - y ≤ log2Rat n d ↔ d * 2 ^ x ≤ n * 2 ^ y := by
  have hnlo := Nat.log2_self_le hn.ne'
  have hdlo := Nat.log2_self_le hd.ne'
  have hnhi := Nat.lt_log2_self (n := n)
  have hdhi := Nat.lt_log2_self (n := d)
  rw [log2Rat_eq]
  generalize Nat.log2 n = l, Nat.log2 d = m at *
  obtain h | h | h := lt_trichotomy (x + m) (y + l)
  · refine iff_of_true (by split <;> omega) (le_of_lt ?_)
    calc d * 2 ^ x < 2 ^ (m + 1) * 2 ^ x := by gcongr
      _ = 2 ^ (m + 1 + x) := (pow_add _ _ _).symm
      _ ≤ 2 ^ (l + y) := Nat.pow_le_pow_right two_pos (by omega)
      _ = 2 ^ l * 2 ^ y := pow_add _ _ _
      _ ≤ n * 2 ^ y := by gcongr
  · have hscale : d * 2 ^ x ≤ n * 2 ^ y ↔ d * 2 ^ l ≤ n * 2 ^ m := by
      rw [← Nat.mul_le_mul_right_iff (show 0 < 2 ^ l by positivity), ← Nat.mul_le_mul_right_iff (n := d * 2 ^ l) (show 0 < 2 ^ x by positivity),
        mul_right_comm, mul_assoc n, ← pow_add, ← h, pow_add, mul_assoc n, mul_comm (2 ^ x)]
    rw [hscale, ← not_lt]
    split <;> omega
  · refine iff_of_false (by split <;> omega) (not_le_of_gt ?_)
    calc n * 2 ^ y < 2 ^ (l + 1) * 2 ^ y := by gcongr
      _ = 2 ^ (l + 1 + y) := (pow_add _ _ _).symm
      _ ≤ 2 ^ (m + x) := Nat.pow_le_pow_right two_pos (by omega)
      _ = 2 ^ m * 2 ^ x := pow_add _ _ _
      _ ≤ d * 2 ^ x := by gcongr

/-! ## Rounding to a whole number of units (R68 step 4, R77, Table 3.4) -/

theorem roundsAway_scale (m : Rm) (neg : Bool) (q k r den : Nat) {c : Nat} (hc : 0 < c) :
    roundsAway m neg q k (r * c) (den * c) = roundsAway m neg q k r den := by
  cases m with
  | rne | dyn => simp only [roundsAway, ← mul_assoc, Nat.mul_lt_mul_right hc, Nat.mul_left_inj hc.ne', beq_eq_decide]
  | rz => rfl
  | rup | rdn => simp only [roundsAway, Nat.mul_pos_iff_of_pos_right hc]
  | sr => rw [roundsAway, roundsAway, mul_right_comm, Nat.mul_div_mul_right _ _ hc]

theorem roundsAway_parity (m : Rm) (neg : Bool) (q r den : Nat) {k k' : Nat} (h : k % 2 = k' % 2) :
    roundsAway m neg q k r den = roundsAway m neg q k' r den := by
  cases m <;> simp only [roundsAway, h]

/-- n / d in units of 2^(x - y): the whole units of n 2^y over d 2^x, or one more. -/
theorem roundUnits_eq (m : Rm) (neg : Bool) (q n d x y : Nat) :
    roundUnits m neg q n d ((x : Int) - y) =
      n * 2 ^ y / (d * 2 ^ x) + boolNat (roundsAway m neg q (n * 2 ^ y / (d * 2 ^ x)) (n * 2 ^ y % (d * 2 ^ x)) (d * 2 ^ x)) := by
  have hround (a b c : Nat) (hc : 0 < c) : (if roundsAway m neg q (a / b) (a % b) b then a / b + 1 else a / b) =
      a * c / (b * c) + boolNat (roundsAway m neg q (a * c / (b * c)) (a * c % (b * c)) (b * c)) := by
    rw [Nat.mul_div_mul_right _ _ hc, Nat.mul_mod_mul_right, roundsAway_scale _ _ _ _ _ _ hc, boolNat]
    split <;> rfl
  unfold roundUnits
  obtain ⟨k, rfl⟩ | ⟨k, rfl⟩ := (Nat.le_total y x).imp Nat.exists_eq_add_of_le Nat.exists_eq_add_of_le
  · simp only [Nat.cast_add, add_sub_cancel_left, Nat.cast_nonneg, if_true, Int.toNat_natCast]
    rw [hround _ _ _ (show 0 < 2 ^ y by positivity), mul_assoc d, ← pow_add, Nat.add_comm k]
  · have hneg : ((x : Int) - (x + k : Nat)) = -(k : Int) := by push_cast; ring
    obtain rfl | hk := Nat.eq_zero_or_pos k
    · simpa using hround n d (2 ^ x) (by positivity)
    · have hlt : ¬ 0 ≤ -(k : Int) := by omega
      simp only [hneg, hlt, if_false, neg_neg, Int.toNat_natCast]
      rw [hround _ _ _ (show 0 < 2 ^ x by positivity), mul_assoc n, ← pow_add, Nat.add_comm k]

/-! ## The values of the codes (R63) -/

theorem magValue_eq {mb k j : Nat} (hk : k ≤ 2 ^ (mb + 1)) (hj : j = 0 ∨ 2 ^ mb ≤ k) : magValue mb (k + j * 2 ^ mb) = k * 2 ^ j := by
  have hpos : 0 < 2 ^ mb := by positivity
  rw [pow_succ] at hk
  obtain h | h := Nat.lt_or_ge k (2 ^ mb)
  · obtain rfl : j = 0 := hj.resolve_right (by omega)
    simp [magValue, h]
  · obtain ⟨r, rfl⟩ := Nat.exists_eq_add_of_le h
    obtain hr | rfl : r < 2 ^ mb ∨ r = 2 ^ mb := by omega
    · have hcode : 2 ^ mb + r + j * 2 ^ mb = r + 2 ^ mb * (j + 1) := by ring
      have hdiv : (r + 2 ^ mb * (j + 1)) / 2 ^ mb = j + 1 := by rw [Nat.add_mul_div_left _ _ hpos, Nat.div_eq_of_lt hr, zero_add]
      rw [hcode, magValue, if_neg (by nlinarith), Nat.add_mul_mod_self_left, Nat.mod_eq_of_lt hr, hdiv, Nat.add_sub_cancel]
    · have hcode : 2 ^ mb + 2 ^ mb + j * 2 ^ mb = 2 ^ mb * (j + 2) := by ring
      rw [hcode, magValue, if_neg (by nlinarith), Nat.mul_mod_right, Nat.mul_div_cancel_left _ hpos, Nat.add_sub_assoc (by omega)]
      ring

theorem magValue_lt_succ (mb c : Nat) : magValue mb c < magValue mb (c + 1) := by
  have hpos : 0 < 2 ^ mb := by positivity
  obtain h | h := Nat.lt_or_ge c (2 ^ mb)
  · have heq (k : Nat) (hk : k ≤ 2 ^ mb) : magValue mb k = k := by
      simpa using magValue_eq (j := 0) (show k ≤ 2 ^ (mb + 1) by rw [pow_succ]; omega) (.inl rfl)
    rw [heq c h.le, heq (c + 1) h]
    exact c.lt_succ_self
  · obtain ⟨j, hj⟩ : ∃ j, c / 2 ^ mb = j + 1 := Nat.exists_eq_add_one.mpr (Nat.div_pos h hpos)
    have hr := Nat.mod_lt c hpos
    have hc : c = 2 ^ mb + c % 2 ^ mb + j * 2 ^ mb := by
      conv_lhs => rw [← Nat.mod_add_div c (2 ^ mb), hj]
      ring
    rw [hc, Nat.add_right_comm _ _ 1, magValue_eq (by rw [pow_succ]; omega) (.inr (by omega)),
      magValue_eq (by rw [pow_succ]; omega) (.inr (by omega))]
    exact Nat.mul_lt_mul_of_pos_right (Nat.lt_succ_self _) (by positivity)

theorem magValue_strictMono (mb : Nat) : StrictMono (magValue mb) := strictMono_nat_of_lt_succ (magValue_lt_succ mb)

theorem bias_mb_pos : ∀ f ∈ formats, 0 < f.bias ∧ 0 < f.mb := by decide

/-! ## A magnitude between two codes -/

/-- A numerator in units of the format's smallest subnormal. -/
def Fmt.units (f : Fmt) (n : Nat) : Nat := n * 2 ^ (f.bias + f.mb - 1)

section
variable {f : Fmt} (hf : f ∈ formats) {n d : Nat} (hn : 0 < n) (hd : 0 < d)
include hf hn hd

/-- The unit of a rounding is 2^j smallest subnormals: the least j that leaves no more than mb + 1 bits above it. -/
theorem roundMag_unit : ∃ j : Nat,
    (∀ m neg q, f.roundMag m neg q n d = f.units n / (d * 2 ^ j) +
      boolNat (roundsAway m neg q (f.units n / (d * 2 ^ j)) (f.units n % (d * 2 ^ j)) (d * 2 ^ j)) + j * 2 ^ f.mb) ∧
      f.units n < d * 2 ^ (j + f.mb + 1) ∧ (j = 0 ∨ d * 2 ^ (j + f.mb) ≤ f.units n) := by
  obtain ⟨hbias, -⟩ := bias_mb_pos f hf
  obtain ⟨j, hj⟩ : ∃ j : Nat, max (log2Rat n d) (1 - f.bias) - (1 - f.bias) = j := Int.eq_ofNat_of_zero_le (by omega)
  have hunit : max (log2Rat n d) (1 - f.bias) - f.mb = (j : Int) - (f.bias + f.mb - 1 : Nat) := by omega
  refine ⟨j, fun m neg q => by simp only [Fmt.roundMag, hunit, hj, Int.toNat_natCast, roundUnits_eq, Fmt.units], ?_, ?_⟩
  · rw [Fmt.units, ← not_le, ← le_log2Rat_iff hn hd]
    omega
  · rw [Fmt.units, ← le_log2Rat_iff hn hd]
    omega

/-- The magnitude stands at or above a code, below the next, and rounds to one of the two by the part of the step between them that is
discarded. -/
theorem roundMag_between : ∃ c, magValue f.mb c * d ≤ f.units n ∧ f.units n < magValue f.mb (c + 1) * d ∧
    ∀ m neg q, f.roundMag m neg q n d =
      c + boolNat (roundsAway m neg q c (f.units n - magValue f.mb c * d) ((magValue f.mb (c + 1) - magValue f.mb c) * d)) := by
  obtain ⟨j, hround, hhigh, hlow⟩ := roundMag_unit hf hn hd
  generalize f.units n = N at *
  have hden : 0 < d * 2 ^ j := by positivity
  obtain ⟨k, hk⟩ : ∃ k, k = N / (d * 2 ^ j) := ⟨_, rfl⟩
  have hlo : k * 2 ^ j * d ≤ N := by rw [hk, mul_assoc, mul_comm _ d]; exact Nat.div_mul_le_self _ _
  have hhi : N < (k + 1) * 2 ^ j * d := by rw [hk, mul_assoc, mul_comm _ d, mul_comm]; exact Nat.lt_mul_div_succ _ hden
  have hkmax : k < 2 ^ (f.mb + 1) := by
    rwa [hk, Nat.div_lt_iff_lt_mul hden, mul_left_comm, ← pow_add, show f.mb + 1 + j = j + f.mb + 1 by omega]
  have hkmin : j = 0 ∨ 2 ^ f.mb ≤ k := by
    rwa [hk, Nat.le_div_iff_mul_le hden, mul_left_comm, ← pow_add, Nat.add_comm f.mb]
  have hc : magValue f.mb (k + j * 2 ^ f.mb) = k * 2 ^ j := magValue_eq hkmax.le hkmin
  have hc' : magValue f.mb (k + j * 2 ^ f.mb + 1) = (k + 1) * 2 ^ j := by
    rw [Nat.add_right_comm]
    exact magValue_eq hkmax (hkmin.imp_right Nat.le_succ_of_le)
  have hrem : N - k * 2 ^ j * d = N % (d * 2 ^ j) := by
    rw [Nat.mod_eq_sub_mul_div, ← hk]
    congr 1
    ring
  have hstep : ((k + 1) * 2 ^ j - k * 2 ^ j) * d = d * 2 ^ j := by
    rw [← Nat.sub_mul, Nat.add_sub_cancel_left, one_mul, mul_comm]
  have hparity : (k + j * 2 ^ f.mb) % 2 = k % 2 := by
    obtain ⟨b, hb⟩ := Nat.exists_eq_add_one.mpr (bias_mb_pos f hf).2
    rw [hb, pow_succ, ← mul_assoc, Nat.add_mul_mod_self_right]
  refine ⟨k + j * 2 ^ f.mb, hc ▸ hlo, hc' ▸ hhi, fun m neg q => ?_⟩
  rw [hround, hc, hc', hrem, hstep, ← hk, roundsAway_parity _ _ _ _ _ hparity, Nat.add_right_comm]

theorem roundMag_down {m : Rm} {neg : Bool} (hm : m = .rz ∨ (m = .rup ∧ neg = true) ∨ (m = .rdn ∧ neg = false)) (q : Nat) :
    magValue f.mb (f.roundMag m neg q n d) * d ≤ f.units n ∧
      f.units n < magValue f.mb (f.roundMag m neg q n d + 1) * d := by
  obtain ⟨c, hlo, hhi, hround⟩ := roundMag_between hf hn hd
  have haway (k r den : Nat) : roundsAway m neg q k r den = false := by
    obtain rfl | ⟨rfl, rfl⟩ | ⟨rfl, rfl⟩ := hm <;> rfl
  rw [hround, haway]
  exact ⟨hlo, hhi⟩

theorem roundMag_up {m : Rm} {neg : Bool} (hm : (m = .rup ∧ neg = false) ∨ (m = .rdn ∧ neg = true)) (q : Nat) :
    f.units n ≤ magValue f.mb (f.roundMag m neg q n d) * d ∧
      ∀ b, b < f.roundMag m neg q n d → magValue f.mb b * d < f.units n := by
  obtain ⟨c, hlo, hhi, hround⟩ := roundMag_between hf hn hd
  have haway (k r den : Nat) : roundsAway m neg q k r den = decide (0 < r) := by
    obtain ⟨rfl, rfl⟩ | ⟨rfl, rfl⟩ := hm <;> rfl
  have hmono := magValue_strictMono f.mb
  rw [hround, haway]
  obtain hr | hr := Nat.eq_zero_or_pos (f.units n - magValue f.mb c * d)
  · rw [hr]
    exact ⟨Nat.sub_eq_zero_iff_le.mp hr, fun b hb => lt_of_lt_of_le (Nat.mul_lt_mul_of_pos_right (hmono hb) hd) hlo⟩
  · rw [decide_eq_true hr]
    refine ⟨hhi.le, fun b hb => lt_of_le_of_lt ?_ (Nat.sub_pos_iff_lt.mp hr)⟩
    exact Nat.mul_le_mul_right _ (hmono.monotone (Nat.le_of_lt_succ hb))

theorem roundMag_nearest (neg : Bool) (q : Nat) :
    let V := magValue f.mb
    let N := f.units n
    let c := f.roundMag .rne neg q n d
    (2 * N < (V c + V (c + 1)) * d ∨ (2 * N = (V c + V (c + 1)) * d ∧ c % 2 = 0)) ∧
      (c = 0 ∨ (V (c - 1) + V c) * d < 2 * N ∨ ((V (c - 1) + V c) * d = 2 * N ∧ c % 2 = 0)) := by
  obtain ⟨c, hlo, hhi, hround⟩ := roundMag_between hf hn hd
  have hmono (b : Nat) : magValue f.mb b * d < magValue f.mb (b + 1) * d := Nat.mul_lt_mul_of_pos_right (magValue_lt_succ f.mb b) hd
  have haway : roundsAway .rne neg q c (f.units n - magValue f.mb c * d) ((magValue f.mb (c + 1) - magValue f.mb c) * d) =
      decide (magValue f.mb c * d + magValue f.mb (c + 1) * d < 2 * f.units n ∨
        (magValue f.mb c * d + magValue f.mb (c + 1) * d = 2 * f.units n ∧ c % 2 = 1)) := by
    rw [roundsAway, Nat.sub_mul, Bool.eq_iff_iff]
    simp only [Bool.or_eq_true, decide_eq_true_iff, Bool.and_eq_true, beq_iff_eq]
    omega
  dsimp only
  rw [hround, haway]
  simp only [Nat.add_mul]
  generalize f.units n = N at *
  by_cases h : magValue f.mb c * d + magValue f.mb (c + 1) * d < 2 * N ∨ (magValue f.mb c * d + magValue f.mb (c + 1) * d = 2 * N ∧ c % 2 = 1)
  · rw [decide_eq_true h, show c + boolNat true = c + 1 from rfl, Nat.add_sub_cancel]
    have := hmono (c + 1)
    omega
  · rw [decide_eq_false h, show c + boolNat false = c from rfl]
    refine ⟨by omega, ?_⟩
    cases c with
    | zero => exact .inl rfl
    | succ b =>
      have := hmono b
      rw [Nat.add_sub_cancel]
      omega

theorem roundMag_stochastic (neg : Bool) (q : Nat) {c : Nat} (hlo : magValue f.mb c * d ≤ f.units n)
    (hhi : f.units n < magValue f.mb (c + 1) * d) :
    f.roundMag .sr neg q n d = if (f.units n - magValue f.mb c * d) * 2 ^ 32 /
      ((magValue f.mb (c + 1) - magValue f.mb c) * d) + q < 2 ^ 32 then c else c + 1 := by
  obtain ⟨b, hlo', hhi', hround⟩ := roundMag_between hf hn hd
  have hle {x y : Nat} (h : magValue f.mb x * d < magValue f.mb (y + 1) * d) : x ≤ y :=
    Nat.le_of_lt_succ ((magValue_strictMono f.mb).lt_iff_lt.mp (Nat.lt_of_mul_lt_mul_right h))
  obtain rfl : c = b := le_antisymm (hle (hlo.trans_lt hhi')) (hle (hlo'.trans_lt hhi))
  rw [hround, roundsAway, boolNat]
  simp only [decide_eq_true_iff, ← not_lt (b := 2 ^ 32)]
  split <;> simp_all

end

/-- Settles O19: the magnitude stands between two neighbouring codes, and each mode takes the lower or the upper one by the part of their
distance that is discarded. -/
theorem roundingIsNearestOrDirected : Obligations.RoundingIsNearestOrDirected := fun _ hf neg _ _ q hn hd =>
  ⟨fun _ hm => roundMag_down hf hn hd hm q, fun _ hm => roundMag_up hf hn hd hm q, roundMag_nearest hf hn hd neg q,
    fun _ => roundMag_stochastic hf hn hd neg q⟩

end Sys2Proof.Machine

namespace Sys2Proof.Machine
open Sys2Proof.Claims

/-! ## Elements and lanes of a vector register (R44, R139) -/

/-- The widths of elements in a v register. -/
def EltWidth (w : Nat) : Prop := w = 8 ∨ w = 16 ∨ w = 32

theorem eltWidth_of_ne {ty : ElemTy} (h : ty ≠ .i64) : EltWidth ty.width := by
  cases ty <;> simp_all [EltWidth, ElemTy.width]

theorem elt_eq (v : VReg) (w e : Nat) : v.elt w e = vElt v w e := by
  rw [VReg.elt, vElt, BitVec.extractLsb'_toNat, Nat.shiftRight_eq_div_pow]

theorem bad_eq (v : VReg) (j : Nat) : v.bad j = vBad v j := congrArg Prod.snd (lane_eq v j)

theorem div_mod_of_mod_32 (x : Nat) {a w : Nat} (h : a + w ≤ 32) : x % 2 ^ 32 / 2 ^ a % 2 ^ w = x / 2 ^ a % 2 ^ w := by
  rw [show 2 ^ 32 = 2 ^ a * 2 ^ (32 - a) by rw [← pow_add]; congr 1; omega, Nat.mod_mul_right_div_self,
    Nat.mod_mod_of_dvd _ (pow_dvd_pow 2 (by omega))]

theorem packElts_elt (w : Nat) : ∀ (xs : List Nat) (i : Nat) (hi : i < xs.length), packElts w xs / 2 ^ (w * i) % 2 ^ w = xs[i] % 2 ^ w
  | x :: xs, 0, _ => by simp [packElts]
  | x :: xs, i + 1, hi => by
    have hdiv : packElts w (x :: xs) / 2 ^ w = packElts w xs := by
      rw [packElts, Nat.add_mul_div_left _ _ (by positivity), Nat.div_eq_of_lt (Nat.mod_lt _ (by positivity)), zero_add]
    rw [mul_add, mul_one, add_comm, pow_add, ← Nat.div_div_eq_div_mul, hdiv, packElts_elt w xs i (by simpa using hi), List.getElem_cons_succ]

section
variable {w : Nat} (hw : EltWidth w)
include hw

theorem lane_of_elt (e : Nat) : e = e * w / 32 * (32 / w) + e % (32 / w) := by
  obtain rfl | rfl | rfl := hw <;> omega

theorem elt_in_lane (e : Nat) : w * (e % (32 / w)) + w ≤ 32 := by
  obtain rfl | rfl | rfl := hw <;> omega

theorem lane_eq_iff (e j : Nat) : e * w / 32 = j ↔ j * (32 / w) ≤ e ∧ e < j * (32 / w) + 32 / w := by
  obtain rfl | rfl | rfl := hw <;> omega

theorem vElt_of_lane (v : VReg) (e : Nat) : vElt v w e = vElt v 32 (e * w / 32) / 2 ^ (w * (e % (32 / w))) % 2 ^ w := by
  have hbits : w * e = 32 * (e * w / 32) + w * (e % (32 / w)) := by obtain rfl | rfl | rfl := hw <;> omega
  rw [← elt_eq, ← elt_eq, VReg.elt, VReg.elt, div_mod_of_mod_32 _ (elt_in_lane hw e), hbits, pow_add, Nat.div_div_eq_div_mul]

theorem laneOf_elt (f : Nat → Nat) (e : Nat) : laneOf w f (e * w / 32) / 2 ^ (w * (e % (32 / w))) % 2 ^ w = f e % 2 ^ w := by
  have hi : e % (32 / w) < 32 / w := Nat.mod_lt _ (by obtain rfl | rfl | rfl := hw <;> decide)
  rw [laneOf, packElts_elt w _ _ (by simpa using hi)]
  simp [← lane_of_elt hw e]

theorem vElt_mkVReg_laneOf {g : Nat → Nat × Bool} {f : Nat → Nat} {e : Nat} (he : e * w / 32 < 16)
    (hg : (g (e * w / 32)).1 = laneOf w f (e * w / 32)) : vElt (mkVReg g) w e = f e % 2 ^ w := by
  rw [vElt_of_lane hw, vElt_mkVReg _ he, hg, div_mod_of_mod_32 _ (elt_in_lane hw e), laneOf_elt hw]

theorem vElt_mkVReg_elements (f : Nat → Nat) {e : Nat} (he : e * w / 32 < 16) :
    vElt (mkVReg fun j => (laneOf w f j, false)) w e = f e % 2 ^ w := vElt_mkVReg_laneOf hw (f := f) he rfl

end

theorem poisonedLane_mkVReg {g : Nat → Nat × Bool} {j c : Nat} (hj : j < 16) (hc : c < 256) (hg : g j = poisonLane c) :
    poisonedLane (mkVReg g) j c := by
  rw [poisonedLane, vElt_mkVReg _ hj, vBad_mkVReg _ hj, hg, poisonLane]
  exact ⟨by dsimp only; omega, rfl⟩

theorem sameLane_mkVReg {g : Nat → Nat × Bool} {j : Nat} {v : VReg} (hj : j < 16) (hg : g j = v.lane j) : sameLane (mkVReg g) v j := by
  rw [sameLane, vElt_mkVReg _ hj, vBad_mkVReg _ hj, hg, lane_eq]
  exact ⟨Nat.mod_eq_of_lt (v.val.extractLsb' (32 * j) 32).isLt, rfl⟩

theorem pmask_mkVReg {g : Nat → Nat × Bool} (hg : ∀ j, (g j).2 = false) : (mkVReg g).pmask = 0 := by
  refine BitVec.eq_of_getLsbD_eq fun j hj => ?_
  exact ((vBad_mkVReg g hj).trans (hg j)).trans BitVec.getLsbD_zero.symm

/-! ## Vector source fields (R45, R139) -/

/-- The class of a lane, where it is poisoned. -/
def VReg.laneClass (v : VReg) (j : Nat) : Option Nat := if v.bad j then some (v.cls j) else none

theorem vsrc_reg (t : Thread) (w : Nat) {a : GIx} (ha : a.val < 8) : t.vsrc w a = t.rv (vReg a.val) := if_pos ha

theorem vsrc_poison (t : Thread) (w : Nat) {a : GIx} (ha : ¬a.val < 8) (hp : (t.rd a).tag = .poison) :
    t.vsrc w a = mkVReg fun _ => poisonLane (classOf (t.rd a)) := by
  rw [Thread.vsrc, if_neg ha, if_pos (by rw [GReg.isPoison, hp]; rfl), cls_of_poison hp]

theorem vsrc_value (t : Thread) (w : Nat) {a : GIx} (ha : ¬a.val < 8) (hp : (t.rd a).tag ≠ .poison) :
    t.vsrc w a = mkVReg fun j => (laneOf w (fun _ => (t.rd a).low.toNat) j, false) := by
  rw [Thread.vsrc, if_neg ha]
  exact if_neg (by rwa [GReg.isPoison, beq_iff_eq])

theorem laneClass_vsrc (s : State) (w : Nat) (a : GIx) {j : Nat} (hj : j < 16) : (s.cur.vsrc w a).laneClass j = srcBad s a j := by
  rw [VReg.laneClass, VReg.cls, bad_eq, elt_eq, srcBad]
  by_cases ha : a.val < 8
  · rw [vsrc_reg _ _ ha, if_pos ha]
  · rw [if_neg ha]
    by_cases hp : (s.cur.rd a).tag = .poison
    · have hc : classOf (s.cur.rd a) < 256 := ((s.cur.rd a).body.extractLsb' 0 8).isLt
      obtain ⟨hval, hbad⟩ := poisonedLane_mkVReg (g := fun _ => poisonLane (classOf (s.cur.rd a))) hj hc rfl
      rw [vsrc_poison _ _ ha hp, hval, hbad, if_pos rfl, if_pos hp, Nat.mod_eq_of_lt hc]
    · rw [vsrc_value _ _ ha hp, vBad_mkVReg _ hj, if_neg hp]
      rfl

theorem srcBad_lt {s : State} {a : GIx} {j c : Nat} (h : srcBad s a j = some c) : c < 256 := by
  rw [srcBad] at h
  split at h
  · split at h
    · cases h
      exact Nat.mod_lt _ (by decide)
    · cases h
  · split at h
    · cases h
      exact ((s.cur.rd a).body.extractLsb' 0 8).isLt
    · cases h

theorem vsrc_elt {s : State} {w : Nat} (hw : EltWidth w) {a : GIx} {e : Nat} (he : e * w / 32 < 16) (hclean : srcBad s a (e * w / 32) = none) :
    (s.cur.vsrc w a).elt w e = srcElt s w a e := by
  rw [elt_eq, srcElt]
  by_cases ha : a.val < 8
  · rw [vsrc_reg _ _ ha, if_pos ha]
  · have hp : (s.cur.rd a).tag ≠ .poison := fun hp => by simp [srcBad, ha, hp] at hclean
    rw [vsrc_value _ _ ha hp, if_neg ha, vElt_mkVReg_elements hw _ he]

/-! ## VCVT between element types (R145) -/

theorem foldl_min_of_least {l x : Nat} {ls : List Nat} (hx : x ∈ l :: ls) (hleast : ∀ y ∈ l :: ls, x ≤ y) : ls.foldl Nat.min l = x := by
  have h := List.min?_eq_some_iff.mpr ⟨hx, hleast⟩
  rw [List.min?_cons'] at h
  exact Option.some.inj h

/-- The pairs that write lane j. -/
def cvtHere (dst : ElemTy) (pairs : List (Nat × Nat)) (j : Nat) : List (Nat × Nat) := pairs.filter fun q => laneIdx dst.width q.1 == j

/-- The poisoned source lanes of the pairs that write lane j. -/
def cvtBad (va : VReg) (src dst : ElemTy) (pairs : List (Nat × Nat)) (j : Nat) : List Nat :=
  ((cvtHere dst pairs j).map fun q => laneIdx src.width q.2).filter va.bad

theorem mem_cvtHere {dst : ElemTy} {pairs : List (Nat × Nat)} {j : Nat} {q : Nat × Nat} :
    q ∈ cvtHere dst pairs j ↔ q ∈ pairs ∧ laneIdx dst.width q.1 = j := by
  rw [cvtHere, List.mem_filter, beq_iff_eq]

theorem mem_cvtBad {va : VReg} {src dst : ElemTy} {pairs : List (Nat × Nat)} {j l : Nat} :
    l ∈ cvtBad va src dst pairs j ↔ ∃ q ∈ pairs, laneIdx dst.width q.1 = j ∧ laneIdx src.width q.2 = l ∧ va.bad l = true := by
  simp only [cvtBad, List.mem_filter, List.mem_map, mem_cvtHere]
  tauto

theorem cvtHere_keys {dst : ElemTy} {pairs : List (Nat × Nat)} (hkeys : (pairs.map Prod.fst).Nodup) (j : Nat) :
    ((cvtHere dst pairs j).map Prod.fst).Nodup := hkeys.sublist (List.filter_sublist.map _)

/-- A lane has as many elements as its width allows: fewer pairs write it than that exactly where some element is left. -/
theorem cvtHere_length_lt {dst : ElemTy} {pairs : List (Nat × Nat)} (hw : EltWidth dst.width) (hkeys : (pairs.map Prod.fst).Nodup) (j : Nat) :
    (cvtHere dst pairs j).length < 32 / dst.width ↔ ∃ e, laneIdx dst.width e = j ∧ ∀ q ∈ pairs, q.1 ≠ e := by
  have hlane (e : Nat) : e ∈ Finset.Ico (j * (32 / dst.width)) (j * (32 / dst.width) + 32 / dst.width) ↔ laneIdx dst.width e = j := by
    rw [Finset.mem_Ico, laneIdx, lane_eq_iff hw]
  have hmem (e : Nat) : e ∈ ((cvtHere dst pairs j).map Prod.fst).toFinset ↔ laneIdx dst.width e = j ∧ ∃ q ∈ pairs, q.1 = e := by
    simp only [List.mem_toFinset, List.mem_map, mem_cvtHere]
    constructor
    · rintro ⟨q, ⟨hq, hj⟩, rfl⟩
      exact ⟨hj, q, hq, rfl⟩
    · rintro ⟨hj, q, hq, rfl⟩
      exact ⟨q, ⟨hq, hj⟩, rfl⟩
  rw [← List.length_map Prod.fst, ← List.toFinset_card_of_nodup (cvtHere_keys hkeys j),
    ← Nat.add_sub_cancel_left (n := j * (32 / dst.width)) (m := 32 / dst.width), ← Nat.card_Ico]
  constructor
  · intro hlt
    obtain ⟨e, he, hout⟩ := Finset.exists_mem_notMem_of_card_lt_card hlt
    have hj := (hlane e).mp he
    exact ⟨e, hj, fun q hq heq => hout ((hmem e).mpr ⟨hj, q, hq, heq⟩)⟩
  · rintro ⟨e, hj, hout⟩
    refine Finset.card_lt_card ⟨fun x hx => (hlane x).mpr ((hmem x).mp hx).1, fun hsub => ?_⟩
    obtain ⟨-, q, hq, heq⟩ := (hmem e).mp (hsub ((hlane e).mpr hj))
    exact hout q hq heq

/-- An element of a lane that is written: the code of the pair that names it, what it held where none does. -/
def cvtElt (old : VReg) (dst : ElemTy) (pairs : List (Nat × Nat)) (code : Nat → Nat → Nat) (j e : Nat) : Nat :=
  ((cvtHere dst pairs j).lookup e).elim (old.elt dst.width e) (code e)

theorem lookup_of_mem {l : List (Nat × Nat)} (hkeys : (l.map Prod.fst).Nodup) {x y : Nat} (hq : (x, y) ∈ l) : l.lookup x = some y := by
  induction l with
  | nil => cases hq
  | cons p l ih =>
    rw [List.map_cons, List.nodup_cons] at hkeys
    obtain rfl | hq := List.mem_cons.mp hq
    · exact List.lookup_cons_self
    · have hne : (x == p.1) = false := beq_eq_false_iff_ne.mpr fun h => hkeys.1 (h ▸ List.mem_map_of_mem hq)
      rw [List.lookup_cons, hne]
      exact ih hkeys.2 hq

section
variable {va old : VReg} {src dst : ElemTy} {pairs : List (Nat × Nat)} {code : Nat → Nat → Nat} {j : Nat}

theorem cvtLane_untouched (h : ∀ q ∈ pairs, laneIdx dst.width q.1 ≠ j) : cvtLane va old src dst pairs code j = old.lane j := by
  have hhere : cvtHere dst pairs j = [] :=
    List.eq_nil_iff_forall_not_mem.mpr fun q hq => h q (mem_cvtHere.mp hq).1 (mem_cvtHere.mp hq).2
  exact if_pos (List.isEmpty_iff.mpr hhere)

section
variable (hsome : ∃ q ∈ pairs, laneIdx dst.width q.1 = j)
include hsome

theorem cvtHere_not_empty : ¬(cvtHere dst pairs j).isEmpty = true := by
  obtain ⟨q, hq, hj⟩ := hsome
  exact fun h => List.ne_nil_of_mem (mem_cvtHere.mpr ⟨hq, hj⟩) (List.isEmpty_iff.mp h)

theorem cvtLane_poison {l : Nat} (hl : l ∈ cvtBad va src dst pairs j) (hleast : ∀ l' ∈ cvtBad va src dst pairs j, l ≤ l') :
    cvtLane va old src dst pairs code j = poisonLane (va.cls l) := by
  refine (if_neg (cvtHere_not_empty hsome)).trans ?_
  split
  · next x xs hlanes =>
    have hlanes : cvtBad va src dst pairs j = x :: xs := hlanes
    rw [hlanes] at hl hleast
    rw [foldl_min_of_least hl hleast]
  · next hlanes => exact absurd hl ((show cvtBad va src dst pairs j = [] from hlanes) ▸ List.not_mem_nil)

variable (hclean : cvtBad va src dst pairs j = [])
include hclean

theorem cvtLane_clean : cvtLane va old src dst pairs code j =
    if old.bad j && (cvtHere dst pairs j).length < 32 / dst.width then old.lane j
    else (laneOf dst.width (cvtElt old dst pairs code j) j, false) := by
  refine (if_neg (cvtHere_not_empty hsome)).trans ?_
  split
  · next hlanes => cases hclean.symm.trans hlanes
  · unfold cvtElt cvtHere
    congr 3
    funext e
    cases List.lookup e _ <;> rfl

variable (hw : EltWidth dst.width) (hkeys : (pairs.map Prod.fst).Nodup)
include hw hkeys

theorem cvtLane_kept (hbad : old.bad j = true) (hout : ∃ e, laneIdx dst.width e = j ∧ ∀ q ∈ pairs, q.1 ≠ e) :
    cvtLane va old src dst pairs code j = old.lane j := by
  rw [cvtLane_clean hsome hclean, hbad, decide_eq_true ((cvtHere_length_lt hw hkeys j).mpr hout)]
  rfl

theorem cvtLane_written (h : old.bad j = false ∨ ∀ e, laneIdx dst.width e = j → ∃ q ∈ pairs, q.1 = e) :
    cvtLane va old src dst pairs code j = (laneOf dst.width (cvtElt old dst pairs code j) j, false) := by
  rw [cvtLane_clean hsome hclean, if_neg]
  rw [Bool.and_eq_true, decide_eq_true_iff, cvtHere_length_lt hw hkeys]
  rintro ⟨hbad, e, he, hout⟩
  obtain h | h := h
  · cases h.symm.trans hbad
  · obtain ⟨q, hq, hqe⟩ := h e he
    exact hout q hq hqe

end

theorem cvtElt_of_mem (hkeys : (pairs.map Prod.fst).Nodup) {e se : Nat} (hq : (e, se) ∈ pairs) (hj : e * dst.width / 32 = j) :
    cvtElt old dst pairs code j e = code e se := by
  rw [cvtElt, lookup_of_mem (cvtHere_keys hkeys j) (mem_cvtHere.mpr ⟨hq, hj⟩)]
  rfl

theorem cvtElt_of_not_mem {e : Nat} (h : ∀ q ∈ pairs, q.1 ≠ e) : cvtElt old dst pairs code j e = vElt old dst.width e := by
  rw [cvtElt, List.lookup_eq_none_iff.mpr fun q hq => bne_iff_ne.mpr (h q (mem_cvtHere.mp hq).1).symm, Option.elim_none, elt_eq]

end

section
variable {s : State} {src dst : ElemTy} {k : KIx} {p : Nat}

/-- The element of the wider type takes part: it lies in the register and its lane is active. -/
def cvtActive (s : State) (k : KIx) (src dst : ElemTy) (i : Nat) : Prop :=
  i < 512 / max src.width dst.width ∧ laneActive s k (i * max src.width dst.width / 32)

/-- The lanes of the elements that element i of the wider type is written to and read from. -/
def cvtDstLane (src dst : ElemTy) (p i : Nat) : Nat := cvtDst src.width dst.width p i * dst.width / 32
def cvtSrcLane (src dst : ElemTy) (p i : Nat) : Nat := cvtSrc src.width dst.width p i * src.width / 32

theorem active_iff (s : State) (k : KIx) (j : Nat) : s.cur.active k j = true ↔ laneActive s k j := by
  rw [Thread.active, bit, laneActive, BitVec.getLsbD, Nat.testBit_eq_decide_div_mod_eq, beq_eq_decide]

theorem cvtDst_eq (ws wd p i : Nat) : cvtDst ws wd p i = if wd < ws then p * (512 / max ws wd) + i else i := by
  rw [cvtDst]
  split
  · next h => rw [max_eq_left h.le]
  · rfl

theorem cvtSrc_eq (ws wd p i : Nat) : cvtSrc ws wd p i = if ws < wd then p * (512 / max ws wd) + i else i := by
  rw [cvtSrc]
  split
  · next h => rw [max_eq_right h.le]
  · rfl

theorem filterMap_if {α β : Type} (c : α → Bool) (g : α → β) (l : List α) :
    (l.filterMap fun x => if c x then some (g x) else none) = (l.filter c).map g := by
  induction l with
  | nil => rfl
  | cons x l ih => cases h : c x <;> simp [h, ih]

theorem cvtPairs_eq : cvtPairs s.cur k src dst p = ((List.range (512 / max src.width dst.width)).filter fun i =>
    s.cur.active k (i * max src.width dst.width / 32)).map fun i => (cvtDst src.width dst.width p i, cvtSrc src.width dst.width p i) := by
  simp only [cvtDst_eq, cvtSrc_eq]
  exact filterMap_if _ _ _

theorem mem_cvtPairs {q : Nat × Nat} : q ∈ cvtPairs s.cur k src dst p ↔
    ∃ i, cvtActive s k src dst i ∧ (cvtDst src.width dst.width p i, cvtSrc src.width dst.width p i) = q := by
  rw [cvtPairs_eq, List.mem_map]
  simp only [List.mem_filter, List.mem_range, active_iff, cvtActive]

theorem cvtPairs_keys : ((cvtPairs s.cur k src dst p).map Prod.fst).Nodup := by
  rw [cvtPairs_eq, List.map_map]
  refine (List.nodup_range.filter _).map fun i i' h => ?_
  simp only [Function.comp, cvtDst] at h
  split at h <;> omega

theorem srcLane_lt (hsrc : EltWidth src.width) (hdst : EltWidth dst.width) (hp : p < max src.width dst.width / min src.width dst.width) {i : Nat}
    (hi : cvtActive s k src dst i) : cvtSrcLane src dst p i < 16 := by
  obtain ⟨hn, -⟩ := hi
  revert hn hp
  unfold cvtSrcLane cvtSrc
  generalize src.width = ws, dst.width = wd at *
  obtain rfl | rfl | rfl := hsrc <;> obtain rfl | rfl | rfl := hdst <;> norm_num <;> omega

end


/-- What VCVT leaves in its destination. -/
def State.cvtResult (s : State) (src dst : ElemTy) (rm : Rm) (k : KIx) (p : Nat) (d : VIx) (a : GIx) : VReg :=
  mkVReg <| cvtLane (s.cur.vsrc src.width a) (s.cur.rv d) src dst (cvtPairs s.cur k src dst p)
    fun e se => s.vconv src dst rm e ((s.cur.vsrc src.width a).elt src.width se)

theorem givesV_of_done {s : State} {d : VIx} {i : Instr} {q : VReg} {P : VReg → Prop} (hexec : exec i s = s.doneV d q) (hq : P q) :
    givesV s d i P :=
  ⟨q, hq, hexec⟩

section
variable {s : State} {src dst : ElemTy} {rm : Rm} {k : KIx} {p : Nat} {d : VIx} {a : GIx}
variable (hsrc : EltWidth src.width) (hdst : EltWidth dst.width) (hp : p < max src.width dst.width / min src.width dst.width)
include hsrc hdst hp

variable {j : Nat}

theorem mem_cvtBad_cvtPairs {l : Nat} : l ∈ cvtBad (s.cur.vsrc src.width a) src dst (cvtPairs s.cur k src dst p) j ↔
    ∃ i, cvtActive s k src dst i ∧ cvtDstLane src dst p i = j ∧
      cvtSrcLane src dst p i = l ∧ srcBad s a l ≠ none := by
  have hclass {l : Nat} (hl : l < 16) : (s.cur.vsrc src.width a).bad l = true ↔ srcBad s a l ≠ none := by
    rw [← laneClass_vsrc s src.width a hl, VReg.laneClass]
    split <;> simp_all
  rw [mem_cvtBad]
  constructor
  · rintro ⟨q, hq, hj, rfl, hbad⟩
    obtain ⟨i, hi, rfl⟩ := mem_cvtPairs.mp hq
    exact ⟨i, hi, hj, rfl, (hclass (srcLane_lt hsrc hdst hp hi)).mp hbad⟩
  · rintro ⟨i, hi, hj, rfl, hbad⟩
    exact ⟨_, mem_cvtPairs.mpr ⟨i, hi, rfl⟩, hj, rfl, (hclass (srcLane_lt hsrc hdst hp hi)).mpr hbad⟩

theorem cvtResult_poison (hj : j < 16) {i c : Nat} (hi : cvtActive s k src dst i) (hij : cvtDstLane src dst p i = j)
    (hbad : srcBad s a (cvtSrcLane src dst p i) = some c)
    (hleast : ∀ i', cvtActive s k src dst i' → cvtDstLane src dst p i' = j →
      srcBad s a (cvtSrcLane src dst p i') ≠ none →
      cvtSrcLane src dst p i ≤ cvtSrcLane src dst p i') :
    poisonedLane (s.cvtResult src dst rm k p d a) j c := by
  have hl := srcLane_lt hsrc hdst hp hi
  refine poisonedLane_mkVReg hj (srcBad_lt hbad) ((cvtLane_poison ⟨_, mem_cvtPairs.mpr ⟨i, hi, rfl⟩, hij⟩
    ((mem_cvtBad_cvtPairs hsrc hdst hp).mpr ⟨i, hi, hij, rfl, by simp [hbad]⟩) fun l' hl' => ?_).trans ?_)
  · obtain ⟨i', hi', hij', rfl, hbad'⟩ := (mem_cvtBad_cvtPairs hsrc hdst hp).mp hl'
    exact hleast i' hi' hij' hbad'
  · rw [← laneClass_vsrc s src.width a hl, VReg.laneClass] at hbad
    split at hbad
    · rw [Option.some.inj hbad]
    · cases hbad

variable (hsome : ∃ i, cvtActive s k src dst i ∧ cvtDstLane src dst p i = j)
variable (hclean : ∀ i, cvtActive s k src dst i → cvtDstLane src dst p i = j →
  srcBad s a (cvtSrcLane src dst p i) = none)
include hsome hclean

theorem cvtPairs_clean : (∃ q ∈ cvtPairs s.cur k src dst p, laneIdx dst.width q.1 = j) ∧
    cvtBad (s.cur.vsrc src.width a) src dst (cvtPairs s.cur k src dst p) j = [] := by
  obtain ⟨i, hi, hij⟩ := hsome
  refine ⟨⟨_, mem_cvtPairs.mpr ⟨i, hi, rfl⟩, hij⟩, List.eq_nil_iff_forall_not_mem.mpr fun l hl => ?_⟩
  obtain ⟨i', hi', hij', rfl, hbad⟩ := (mem_cvtBad_cvtPairs hsrc hdst hp).mp hl
  exact hbad (hclean i' hi' hij')

variable (hj : j < 16)
include hj

theorem cvtResult_kept (hbad : vBad (s.cur.rv d) j = true)
    (hout : ∃ e, e * dst.width / 32 = j ∧ ∀ i, cvtActive s k src dst i → cvtDst src.width dst.width p i ≠ e) :
    sameLane (s.cvtResult src dst rm k p d a) (s.cur.rv d) j := by
  obtain ⟨hwritten, hnone⟩ := cvtPairs_clean hsrc hdst hp hsome hclean
  obtain ⟨e, he, hout⟩ := hout
  refine sameLane_mkVReg hj (cvtLane_kept hwritten hnone hdst cvtPairs_keys (by rw [bad_eq, hbad]) ⟨e, he, fun q hq => ?_⟩)
  obtain ⟨i, hi, rfl⟩ := mem_cvtPairs.mp hq
  exact hout i hi

theorem cvtResult_written
    (h : vBad (s.cur.rv d) j = false ∨ ∀ e, e * dst.width / 32 = j → ∃ i, cvtActive s k src dst i ∧ cvtDst src.width dst.width p i = e) :
    vBad (s.cvtResult src dst rm k p d a) j = false ∧
      (∀ i, cvtActive s k src dst i → cvtDstLane src dst p i = j →
        vElt (s.cvtResult src dst rm k p d a) dst.width (cvtDst src.width dst.width p i) =
          convert src dst (s.vrnd rm (cvtDst src.width dst.width p i)) (srcElt s src.width a (cvtSrc src.width dst.width p i) % 2 ^ tyBits src) %
            2 ^ dst.width) ∧
      (∀ e, e * dst.width / 32 = j → (∀ i, cvtActive s k src dst i → cvtDst src.width dst.width p i ≠ e) →
        vElt (s.cvtResult src dst rm k p d a) dst.width e = vElt (s.cur.rv d) dst.width e) := by
  obtain ⟨hwritten, hnone⟩ := cvtPairs_clean hsrc hdst hp hsome hclean
  have hlane := cvtLane_written (old := s.cur.rv d) (code := fun e se => s.vconv src dst rm e ((s.cur.vsrc src.width a).elt src.width se))
    hwritten hnone hdst cvtPairs_keys <| h.imp (bad_eq _ j).trans fun h e he => by
      obtain ⟨i, hi, rfl⟩ := h e he
      exact ⟨_, mem_cvtPairs.mpr ⟨i, hi, rfl⟩, rfl⟩
  refine ⟨?_, fun i hi hij => ?_, fun e he hout => ?_⟩
  · rw [State.cvtResult, vBad_mkVReg _ hj, hlane]
  · subst hij
    rw [State.cvtResult, vElt_mkVReg_laneOf hdst hj (congrArg Prod.fst hlane), 
      cvtElt_of_mem (j := cvtDstLane src dst p i) cvtPairs_keys (mem_cvtPairs.mpr ⟨i, hi, rfl⟩) rfl,
      State.vconv, eltCode, vsrc_elt hsrc (srcLane_lt hsrc hdst hp hi) (hclean i hi rfl)]
  · subst he
    rw [State.cvtResult, vElt_mkVReg_laneOf hdst hj (congrArg Prod.fst hlane), cvtElt_of_not_mem fun q hq => ?_]
    · exact Nat.mod_eq_of_lt ((s.cur.rv d).val.extractLsb' _ _).isLt
    · obtain ⟨i, hi, rfl⟩ := mem_cvtPairs.mp hq
      exact hout i hi

end

theorem wf_vcvt {src dst : ElemTy} {rm : Rm} {k : KIx} {p : Fin 4} {d : VIx} {a : GIx} (h : (Instr.vcvt src dst rm k p d a).wf = true) :
    EltWidth src.width ∧ EltWidth dst.width ∧ p.val < max src.width dst.width / min src.width dst.width := by
  simp only [Instr.wf, Bool.and_eq_true, bne_iff_ne, decide_eq_true_iff] at h
  obtain ⟨⟨hsrc, hdst⟩, hp⟩ := h
  exact ⟨eltWidth_of_ne hsrc, eltWidth_of_ne hdst, hp⟩

theorem vectorConversion : VectorConversion := by
  intro s src dst rm k p d a hwf
  obtain ⟨hsrc, hdst, hp⟩ := wf_vcvt hwf
  refine givesV_of_done (q := s.cvtResult src dst rm k p d a) rfl fun j hj => ⟨fun hout => ?_, fun i c hi => ?_, fun hsome hclean => ?_⟩
  · refine sameLane_mkVReg hj (cvtLane_untouched fun q hq => ?_)
    obtain ⟨i, hi, rfl⟩ := mem_cvtPairs.mp hq
    exact hout i hi
  · exact cvtResult_poison hsrc hdst hp hj hi
  · exact ⟨cvtResult_kept hsrc hdst hp hsome hclean hj, cvtResult_written hsrc hdst hp hsome hclean hj⟩

/-! ## VCVT with .MX (R71, R146) -/

theorem firstBad_cons (v : VReg) (n : Nat) (rest : List (VReg × Nat)) :
    firstBad ((v, n) :: rest) = ((List.range n).findSome? v.laneClass).or (firstBad rest) := by
  have hfind (l : List Nat) : l.findSome? v.laneClass = (l.find? v.bad).map v.cls := by
    induction l with
    | nil => rfl
    | cons j l ih => cases h : v.bad j <;> simp [VReg.laneClass, h, ih]
  rw [hfind, firstBad]
  cases (List.range n).find? v.bad <;> rfl

/-- The lanes that VCVT.MX reads of its sources, as their classes where they are poisoned. -/
def blockReads (s : State) (src : ElemTy) (a b : GIx) : List (Option Nat) :=
  if src.isF then (List.range 16).map (srcBad s a) ++ (if src = .f32 then (List.range 16).map (srcBad s b) else [])
  else (List.range 9).map (srcBad s a)

theorem findSome?_laneClass_vsrc (s : State) (w : Nat) (a : GIx) {n : Nat} (hn : n ≤ 16) :
    (List.range n).findSome? (s.cur.vsrc w a).laneClass = ((List.range n).map (srcBad s a)).findSome? id := by
  rw [← List.map_congr_left fun j hj => laneClass_vsrc s w a ((List.mem_range.mp hj).trans_le hn), List.findSome?_map]
  rfl

theorem firstBad_block (s : State) (src : ElemTy) (a b : GIx) (hF : src.isF = true) :
    firstBad (if src = .f32 then [(s.cur.vsrc src.width a, 16), (s.cur.vsrc 32 b, 16)] else [(s.cur.vsrc src.width a, 16)]) =
      ((blockReads s src a b).filterMap id).head? := by
  rw [List.head?_filterMap, blockReads, if_pos hF, List.findSome?_append, ← findSome?_laneClass_vsrc s src.width a le_rfl]
  split
  · rw [firstBad_cons, firstBad_cons, findSome?_laneClass_vsrc s 32 b le_rfl, firstBad, Option.or_none]
  · rw [firstBad_cons, firstBad, List.findSome?_nil]

theorem firstBad_element (s : State) (src : ElemTy) (a b : GIx) (hF : src.isF = false) :
    firstBad [(s.cur.vsrc src.width a, 9)] = ((blockReads s src a b).filterMap id).head? := by
  rw [List.head?_filterMap, blockReads, if_neg (by simp [hF]), firstBad_cons, firstBad, Option.or_none,
    findSome?_laneClass_vsrc s src.width a (by decide)]

theorem blockReads_class_lt {s : State} {src : ElemTy} {a b : GIx} {c : Nat} (h : ((blockReads s src a b).filterMap id).head? = some c) :
    c < 256 := by
  obtain ⟨x, hx, rfl⟩ := List.mem_filterMap.mp (List.mem_of_head? h)
  have hread : ∃ r j, srcBad s r j = some c := by
    rw [blockReads] at hx
    split at hx
    · obtain hx | hx := List.mem_append.mp hx
      · obtain ⟨j, -, hj⟩ := List.mem_map.mp hx
        exact ⟨a, j, hj⟩
      · split at hx
        · obtain ⟨j, -, hj⟩ := List.mem_map.mp hx
          exact ⟨b, j, hj⟩
        · cases hx
    · obtain ⟨j, -, hj⟩ := List.mem_map.mp hx
      exact ⟨a, j, hj⟩
  obtain ⟨r, j, hj⟩ := hread
  exact srcBad_lt hj

theorem exec_vcvtMx_poison {s : State} {src dst : ElemTy} {rm : Rm} {p : Fin 4} {d : VIx} {a b : GIx} {c : Nat}
    (h : ((blockReads s src a b).filterMap id).head? = some c) : exec (.vcvtMx src dst rm p d a b) s = s.doneV d (allPoison c) := by
  change execVcvtMx src dst rm p d a b s = _
  unfold execVcvtMx
  cases hF : src.isF
  · simp only [Bool.false_eq_true, if_false, firstBad_element s src a b hF, h]
  · simp only [if_true, firstBad_block s src a b hF, h]

theorem head?_filterMap_none {l : List (Option Nat)} (h : ∀ x ∈ l, x = none) : (l.filterMap id).head? = none := by
  rw [List.head?_filterMap, List.findSome?_eq_none_iff]
  exact h

section
variable {s : State} {src dst : ElemTy} {rm : Rm} {p : Fin 4} {d : VIx} {a b : GIx} (h : ∀ x ∈ blockReads s src a b, x = none)
include h

theorem exec_vcvtMx_encode (hF : src.isF = true) :
    exec (.vcvtMx src dst rm p d a b) s = s.doneV d (mxEncode s src dst rm (s.cur.vsrc src.width a) (s.cur.vsrc 32 b)) := by
  change execVcvtMx src dst rm p d a b s = _
  unfold execVcvtMx
  simp only [hF, if_true, firstBad_block s src a b hF, head?_filterMap_none h]

theorem exec_vcvtMx_decode (hF : src.isF = false) :
    exec (.vcvtMx src dst rm p d a b) s = s.doneV d (mxDecode s src dst rm p (s.cur.vsrc src.width a)) := by
  change execVcvtMx src dst rm p d a b s = _
  unfold execVcvtMx
  simp only [hF, Bool.false_eq_true, if_false, firstBad_element s src a b hF, head?_filterMap_none h]

theorem block_clean_a (hF : src.isF = true) {j : Nat} (hj : j < 16) : srcBad s a j = none := by
  refine h _ ?_
  rw [blockReads, if_pos hF]
  exact List.mem_append_left _ (List.mem_map_of_mem (List.mem_range.mpr hj))

theorem block_clean_b (hF : src = .f32) {j : Nat} (hj : j < 16) : srcBad s b j = none := by
  refine h _ ?_
  rw [blockReads, if_pos (by rw [hF]; rfl), if_pos hF]
  exact List.mem_append_right _ (List.mem_map_of_mem (List.mem_range.mpr hj))

theorem block_clean_element (hF : src.isF = false) {j : Nat} (hj : j < 9) : srcBad s a j = none := by
  refine h _ ?_
  rw [blockReads, if_neg (by simp [hF])]
  exact List.mem_map_of_mem (List.mem_range.mpr hj)

end

/-- Element e of the 32 that a block is encoded from (R146). -/
def blockCode (s : State) (src : ElemTy) (a b : GIx) (e : Nat) : Nat :=
  if src = .f32 ∧ 16 ≤ e then srcElt s 32 b (e - 16) else srcElt s src.width a e

theorem blockScale_lt (dst : ElemTy) (vs : List FVal) : blockScale dst vs < 256 := by
  unfold blockScale
  dsimp only
  split
  · decide
  · split
    · decide
    · split
      · decide
      · omega

theorem block_values {s : State} {src : ElemTy} {a b : GIx} (h : ∀ x ∈ blockReads s src a b, x = none) (hF : src.isF = true)
    {e : Nat} (he : e < 32) :
    (if src = .f32 ∧ 16 ≤ e then (s.cur.vsrc 32 b).elt 32 (e - 16) else (s.cur.vsrc src.width a).elt src.width e) = blockCode s src a b e := by
  rw [blockCode]
  split
  · next hb => exact vsrc_elt (.inr (.inr rfl)) (by omega) (block_clean_b h hb.1 (by omega))
  · next hb =>
    have hlane : e * src.width / 32 < 16 := by
      cases src with
      | f32 => simp only [ElemTy.width, true_and] at hb ⊢; omega
      | bf16 | f16 => simp only [ElemTy.width]; omega
      | _ => cases hF
    exact vsrc_elt (eltWidth_of_ne (by rintro rfl; cases hF)) hlane (block_clean_a h hF hlane)

/-- The bytes of an encoded block: the element codes, the scale code, zeros (R146). -/
def blockByte (codes : List Nat) (x e : Nat) : Nat := if e < 32 then codes.getD e 0 else if e = 32 then x else 0

section
variable {s : State} {src dst : ElemTy} {rm : Rm} {p : Fin 4} {d : VIx} {a b : GIx} (h : ∀ x ∈ blockReads s src a b, x = none)
include h

theorem mxEncode_eq (hF : src.isF = true) :
    let vals := (List.range 32).map fun e => s.fin src (blockCode s src a b e)
    mxEncode s src dst rm (s.cur.vsrc src.width a) (s.cur.vsrc 32 b) = mkVReg fun j =>
      (laneOf 8 (blockByte (blockCodes dst (blockScale dst vals) (s.vrnd rm) vals) (blockScale dst vals)) j, false) := by
  have hvals : (List.range 32).map (fun e => (fmtOf src).read ((fmtOf src).flushIn s.cur.ftz
      (if src = .f32 ∧ 16 ≤ e then (s.cur.vsrc 32 b).elt 32 (e - 16) else (s.cur.vsrc src.width a).elt src.width e))) =
      (List.range 32).map fun e => s.fin src (blockCode s src a b e) :=
    List.map_congr_left fun e he => by rw [block_values h hF (List.mem_range.mp he), State.fin, hF, Bool.and_true]
  unfold mxEncode
  simp only [hvals]
  rfl

theorem mxEncode_block (hF : src.isF = true) :
    let q := mxEncode s src dst rm (s.cur.vsrc src.width a) (s.cur.vsrc 32 b)
    let vals := (List.range 32).map fun e => s.fin src (blockCode s src a b e)
    let x := blockScale dst vals
    q.pmask = 0 ∧ (∀ e, e < 32 → vElt q 8 e = (blockCodes dst x (s.vrnd rm) vals).getD e 0 % 256) ∧
      vElt q 8 32 = x ∧ ∀ e, 32 < e → e < 64 → vElt q 8 e = 0 := by
  intro q vals x
  have hq : q = mkVReg fun j => (laneOf 8 (blockByte (blockCodes dst x (s.vrnd rm) vals) x) j, false) := mxEncode_eq h hF
  have hbyte {e : Nat} (he : e < 64) : vElt q 8 e = blockByte (blockCodes dst x (s.vrnd rm) vals) x e % 256 := by
    rw [hq]
    exact vElt_mkVReg_elements (.inl rfl) _ (by omega)
  refine ⟨hq ▸ pmask_mkVReg fun _ => rfl, fun e he => ?_, ?_, fun e hlo hhi => ?_⟩
  · rw [hbyte (by omega), blockByte, if_pos he]
  · exact (hbyte (by decide)).trans (Nat.mod_eq_of_lt (blockScale_lt _ _))
  · rw [hbyte hhi, blockByte, if_neg (by omega), if_neg (by omega)]

theorem mxDecode_block (hF : src.isF = false) (hsrc : src.width = 8) (hdst : dst.isF = true) (hp : p.val ≤ 1) :
    let q := mxDecode s src dst rm p (s.cur.vsrc src.width a)
    q.pmask = 0 ∧ ∀ e, e < 512 / dst.width → vElt q dst.width e = (fmtOf dst).round (s.vrnd rm e)
      (scaled (readVal src (srcElt s 8 a (if dst = .f32 then 16 * p + e else e) % 2 ^ tyBits src)) (srcElt s 8 a 32)).exact % 2 ^ dst.width := by
  have hread {e : Nat} (he : e ≤ 32) : (s.cur.vsrc 8 a).elt 8 e = srcElt s 8 a e :=
    vsrc_elt (.inl rfl) (by omega) (block_clean_element h hF (by omega))
  rw [hsrc]
  refine ⟨pmask_mkVReg fun _ => rfl, fun e he => ?_⟩
  have hlane : e * dst.width / 32 < 16 ∧ (if dst = .f32 then 16 * p.val + e else e) ≤ 32 := by
    cases dst with
    | f32 | bf16 | f16 => simp [ElemTy.width] at he ⊢; omega
    | _ => cases hdst
  refine (vElt_mkVReg_elements (eltWidth_of_ne (by rintro rfl; cases hdst)) _ hlane.1).trans ?_
  simp only [hread hlane.2, hread le_rfl, eltCode]

end

theorem wf_vcvtMx_decode {src dst : ElemTy} {rm : Rm} {p : Fin 4} {d : VIx} {a b : GIx} (h : (Instr.vcvtMx src dst rm p d a b).wf = true)
    (hF : src.isF = false) : src.width = 8 ∧ dst.isF = true ∧ p.val ≤ 1 := by
  simp only [Instr.wf, hF, Bool.false_and, Bool.false_or, Bool.and_eq_true, Bool.or_eq_true, beq_iff_eq] at h
  obtain ⟨⟨⟨hsrc, hdst⟩, -⟩, hp⟩ := h
  refine ⟨?_, hdst, ?_⟩
  · revert hsrc
    cases src <;> decide
  · obtain rfl | ⟨-, rfl⟩ := hp <;> decide

theorem vectorBlockConversion : VectorBlockConversion := by
  intro s src dst rm p d a b hwf
  refine ⟨fun c hc => givesV_of_done (exec_vcvtMx_poison hc) fun j hj => ?_, fun hclean => ⟨fun hF => ?_, fun hF => ?_⟩⟩
  · exact poisonedLane_mkVReg hj (blockReads_class_lt hc) rfl
  · exact givesV_of_done (exec_vcvtMx_encode hclean hF) (mxEncode_block hclean hF)
  · obtain ⟨hsrc, hdst, hp⟩ := wf_vcvtMx_decode hwf hF
    exact givesV_of_done (exec_vcvtMx_decode hclean hF) (mxDecode_block hclean hF hsrc hdst hp)

/-- Settles O24: a lane of VCVT by the pairs that write it, a block by its elements, both over the lanes and elements of the source fields. -/
theorem vectorConversions : Obligations.VectorConversions := ⟨vectorConversion, vectorBlockConversion⟩

end Sys2Proof.Machine

namespace Sys2Proof

/-! ## The fields of a word (Tables 4.1, 4.2) -/

theorem mkHead_of_fields {h : Nat} (hh : h < 65536) : mkHead (headMaj h) (headLen h) (headD h) (headF3 h) = h := by
  simp only [mkHead, headMaj, headLen, headD, headF3]
  omega

theorem tailS_of_fields {t : Nat} (ht : t < 65536) : tailS (fieldSA t) (fieldSB t) (fieldS8 t) = t := by
  simp only [tailS, fieldSA, fieldSB, fieldS8]
  omega

theorem tailL_of_fields {t : Nat} (ht : t < 2 ^ 32) : tailL (fieldLA t) (fieldLB t) (fieldLC t) (fieldL20 t) = t := by
  simp only [tailL, fieldLA, fieldLB, fieldLC, fieldL20]
  omega

/-! ## Field codes (Tables 3.4, 4.3-4.5, 5.8, 8.2, 11.2) -/

theorem Cond.code_of_ofCode {n : Nat} {c : Cond} (h : Cond.ofCode n = some c) : c.code = n := by
  unfold Cond.ofCode at h
  split at h <;> cases h <;> rfl
theorem FCond.code_of_ofCode {n : Nat} {c : FCond} (h : FCond.ofCode n = some c) : c.code = n := by
  unfold FCond.ofCode at h
  split at h <;> cases h <;> rfl
theorem ElemTy.code_of_ofCode {n : Nat} {c : ElemTy} (h : ElemTy.ofCode n = some c) : c.code = n := by
  unfold ElemTy.ofCode at h
  split at h <;> cases h <;> rfl
theorem Rm.code_of_ofCode {n : Nat} {c : Rm} (h : Rm.ofCode n = some c) : c.code = n := by
  unfold Rm.ofCode at h
  split at h <;> cases h <;> rfl
theorem AtomTy.code_of_ofCode {n : Nat} {c : AtomTy} (h : AtomTy.ofCode n = some c) : c.code = n := by
  unfold AtomTy.ofCode at h
  split at h <;> cases h <;> rfl
theorem MTy.code_of_ofCode {n : Nat} {c : MTy} (h : MTy.ofCode n = some c) : c.code = n := by
  unfold MTy.ofCode at h
  split at h <;> cases h <;> rfl
theorem SpN.code_of_ofCode {n : Nat} {c : SpN} (h : SpN.ofCode n = some c) : c.code = n := by
  unfold SpN.ofCode at h
  split at h <;> cases h <;> rfl
theorem EltW.code_of_ofCode {n : Nat} {c : EltW} (h : EltW.ofCode n = some c) : c.code = n := by
  unfold EltW.ofCode at h
  split at h <;> cases h <;> rfl
theorem CapSel.code_of_ofCode {n : Nat} {c : CapSel} (h : CapSel.ofCode n = some c) : c.code = n := by
  unfold CapSel.ofCode at h
  split at h <;> cases h <;> rfl
theorem InvScope.code_of_ofCode {n : Nat} {c : InvScope} (h : InvScope.ofCode n = some c) : c.code = n := by
  unfold InvScope.ofCode at h
  split at h <;> cases h <;> rfl
theorem SysReg.code_of_ofCode {n : Nat} {c : SysReg} (h : SysReg.ofCode n = some c) : c.code = n := by
  unfold SysReg.ofCode at h
  split at h <;> cases h <;> rfl

/-! ## What decodes encodes to the same words (R93, R94) -/

/-- i is well-formed, and w is what the encoder writes for it. -/
def Encodes (i : Instr) (w : Option (Nat × Nat)) : Prop := i.wf = true ∧ encode i = w

/-- What a decoder answers, if anything, is well-formed and encodes to w. -/
def Sound (o : Option Instr) (w : Option (Nat × Nat)) : Prop := ∀ i, o = some i → Encodes i w

section
variable {i : Instr} {c : Bool} {w : Option (Nat × Nat)}

@[simp] theorem sound_none : Sound none w := fun _ h => nomatch h

@[simp] theorem sound_some : Sound (some i) w ↔ Encodes i w :=
  ⟨fun h => h i rfl, fun h _ hj => Option.some.inj hj ▸ h⟩

@[simp] theorem sound_need : Sound (need c i) w ↔ (c = true → Encodes i w) := by
  cases c <;> simp [need]

@[simp] theorem sound_checked : Sound (checked i) w ↔ (i.wf = true → encode i = w) :=
  sound_need.trans ⟨fun h hwf => (h hwf).2, fun h hwf => ⟨hwf, h hwf⟩⟩
end


/-- A guard of the decoder: what it refuses, and what it leaves to check. -/
theorem sound_guard {p : Prop} [Decidable p] {o : Option Instr} {w : Option (Nat × Nat)} (h : ¬p → Sound o w) :
    Sound (if p then none else o) w := by
  split_ifs with hp
  · exact sound_none
  · exact h hp

theorem sound_when {p : Prop} [Decidable p] {o : Option Instr} {w : Option (Nat × Nat)} (h : p → Sound o w) :
    Sound (if p then o else none) w := by
  split_ifs with hp
  · exact h hp
  · exact sound_none

/-- The immediate that an encoder writes, put together from the parts that the decoder took it apart into. -/
theorem encL_of_imm {i : Instr} {maj d f3 a b c imm imm' : Nat} (h : encode i = encL maj d f3 a b c imm') (himm : imm' = imm) :
    encode i = encL maj d f3 a b c imm := himm ▸ h

theorem encodesL_of_imm {i : Instr} {maj d f3 a b c imm imm' : Nat} (hwf : i.wf = true) (h : encode i = encL maj d f3 a b c imm')
    (himm : imm' = imm) : Encodes i (encL maj d f3 a b c imm) := ⟨hwf, encL_of_imm h himm⟩

theorem toNat_imm20 {n : Nat} (h : n < 1048576) : (BitVec.ofNat 20 n).toNat = n := Nat.mod_eq_of_lt h
theorem toNat_imm19 {n : Nat} (h : n < 524288) : (BitVec.ofNat 19 n).toNat = n := Nat.mod_eq_of_lt h

theorem exists_boolNat {n : Nat} (h : n < 2) : ∃ z, n = boolNat z := by
  obtain rfl | rfl : n = 0 ∨ n = 1 := by omega
  · exact ⟨false, rfl⟩
  · exact ⟨true, rfl⟩

@[simp] theorem boolNat_beq_one (z : Bool) : (boolNat z == 1) = z := by cases z <;> rfl

section
variable (d a b c : GIx) (f3 f8 imm : Nat)

theorem sound_decode01 : Sound (decode01 d f3 a b f8) (encS 0x01 d f3 a b f8) := by
  unfold decode01
  refine sound_guard fun h => ?_
  obtain rfl := not_not.mp h
  split <;> simp
  all_goals exact ⟨rfl, rfl⟩

theorem sound_decode02 : Sound (decode02 d f3 a b f8) (encS 0x02 d f3 a b f8) := by
  unfold decode02
  refine sound_guard fun h => ?_
  obtain rfl := not_not.mp h
  split <;> simp
  all_goals intros; subst_vars; exact ⟨rfl, rfl⟩

theorem sound_decode03 : Sound (decode03 d f3 a b f8) (encS 0x03 d f3 a b f8) := by
  unfold decode03
  refine sound_guard fun h => ?_
  obtain rfl := not_not.mp h
  split <;> simp
  all_goals exact ⟨rfl, rfl⟩

theorem sound_decode04 : Sound (decode04 d f3 a b f8) (encS 0x04 d f3 a b f8) := by
  unfold decode04
  refine sound_guard fun h => ?_
  rw [not_not.mp h]
  split <;> simp <;> intro h8
  iterate 3
    rw [h8]
    exact ⟨rfl, rfl⟩
  all_goals
    lift f8 to Fin 64 using h8
    simp
    exact ⟨rfl, rfl⟩

theorem sound_decode05 : Sound (decode05 d f3 a b c imm) (encL 0x05 d f3 a b c imm) := by
  unfold decode05
  refine sound_guard fun h => ?_
  push Not at h
  obtain ⟨hb, hc, himm⟩ := h
  rw [hb, hc]
  split <;> simp
  all_goals exact fun _ => encL_of_imm rfl (by simp; omega)

theorem sound_decode06 (himm : imm < 1048576) : Sound (decode06 d f3 a b c imm) (encL 0x06 d f3 a b c imm) := by
  unfold decode06
  refine sound_guard fun h => ?_
  push Not at h
  rw [h.1, h.2]
  split <;> simp
  all_goals exact encodesL_of_imm rfl rfl (toNat_imm20 himm)

theorem sound_decode07 {x : Nat} (hx : x < 2 ^ 48) : Sound (decode07 d f3 x) (encX 0x07 d f3 x) := by
  unfold decode07
  have himm : (BitVec.ofNat 48 x).toNat = x := Nat.mod_eq_of_lt hx
  split <;> simp
  all_goals exact ⟨rfl, congrArg (encX 0x07 d _) himm⟩

theorem sound_decode08 (d : Nat) : Sound (decode08 d f3 a b f8) (encS 0x08 d f3 a b f8) := by
  unfold decode08
  refine sound_guard fun h => ?_
  push Not at h
  obtain ⟨rfl, hd⟩ := h
  lift d to Fin 4 using hd
  split <;> simp
  next cc hcc =>
    obtain rfl := Cond.code_of_ofCode hcc
    exact fun _ => rfl

theorem sound_decode09 (d : Nat) (himm : imm < 1048576) : Sound (decode09 d f3 a b c imm) (encL 0x09 d f3 a b c imm) := by
  unfold decode09
  refine sound_guard fun h => ?_
  push Not at h
  obtain ⟨hb, hc, hd⟩ := h
  rw [hb, hc]
  lift d to Fin 4 using hd
  split <;> simp
  next cc hcc =>
    obtain rfl := Cond.code_of_ofCode hcc
    exact fun _ => encL_of_imm rfl (toNat_imm20 himm)

theorem sound_decode0A (d : Nat) : Sound (decode0A d f3 a b f8) (encS 0x0A d f3 a b f8) := by
  unfold decode0A
  refine sound_guard fun h => ?_
  push Not at h
  obtain ⟨hb, hd, h8⟩ := h
  rw [hb]
  lift d to Fin 4 using hd
  lift f8 to Fin 64 using h8
  split <;> simp
  all_goals exact fun _ => rfl

theorem sound_decode0B (d : Nat) : Sound (decode0B d f3 a b f8) (encS 0x0B d f3 a b f8) := by
  unfold decode0B
  refine sound_guard fun h => ?_
  push Not at h
  obtain ⟨hb, hd, h8⟩ := h
  rw [hb]
  lift d to Fin 4 using hd
  lift f8 to Fin 4 using h8
  split <;> simp
  all_goals exact fun _ => rfl

theorem sound_decode0C (himm : imm < 1048576) : Sound (decode0C d f3 a b c imm) (encL 0x0C d f3 a b c imm) := by
  unfold decode0C
  refine sound_guard fun h => ?_
  push Not at h
  obtain ⟨hd, ha, hb, hc⟩ := h
  rw [hd, ha, hb, hc]
  split <;> simp
  all_goals exact fun _ => encL_of_imm rfl (by simp; omega)

theorem sound_decode0D : Sound (decode0D d f3 a b f8) (encS 0x0D d f3 a b f8) := by
  unfold decode0D
  refine sound_guard fun h => ?_
  push Not at h
  obtain ⟨hd, hb, rfl⟩ := h
  rw [hd, hb]
  split <;> simp
  all_goals exact ⟨rfl, rfl⟩

theorem sound_decode0E : Sound (decode0E d f3 a b f8) (encS 0x0E d f3 a b f8) := by
  unfold decode0E
  split
  case h_1 =>
    split <;> simp
    next sel hsel =>
      obtain rfl := CapSel.code_of_ofCode hsel
      rintro rfl
      exact ⟨rfl, rfl⟩
  all_goals simp <;> intros <;> subst_vars <;> exact ⟨rfl, rfl⟩

theorem sound_decode0F : Sound (decode0F d f3 a b c imm) (encL 0x0F d f3 a b c imm) := by
  unfold decode0F
  split <;> simp
  case h_1 =>
    rintro rfl
    exact ⟨rfl, rfl⟩
  case h_2 =>
    rintro rfl himm
    exact encodesL_of_imm rfl rfl (by simp; omega)

theorem sound_decode20 (hf3 : f3 < 8) (himm : imm < 1048576) : Sound (decode20 d f3 a b c imm) (encL 0x20 d f3 a b c imm) := by
  unfold decode20
  refine sound_guard fun h => ?_
  push Not at h
  rw [h.1, h.2]
  obtain ⟨z, sz, rfl⟩ : ∃ (z : Bool) (sz : Fin 4), f3 = boolNat z * 4 + sz := by
    refine ⟨f3 / 4 == 1, ⟨f3 % 4, Nat.mod_lt _ (by decide)⟩, ?_⟩
    obtain h | h : f3 / 4 = 0 ∨ f3 / 4 = 1 := by omega
    all_goals simp [h, boolNat]; omega
  have hz : ((boolNat z * 4 + sz) / 4 == 1) = z := by
    cases z <;> simp [boolNat]
    omega
  have hsz : Fin.ofNat 4 ((boolNat z * 4 + sz) % 4) = sz := by
    ext
    simp
  rw [hz, hsz]
  simp
  exact fun _ => encL_of_imm rfl (toNat_imm20 himm)

theorem sound_decode21 (himm : imm < 1048576) : Sound (decode21 d f3 a b c imm) (encL 0x21 d f3 a b c imm) := by
  unfold decode21
  refine sound_guard fun h => ?_
  push Not at h
  obtain ⟨hb, hc, hf⟩ := h
  rw [hb, hc]
  lift f3 to Fin 4 using hf
  simp
  exact encodesL_of_imm rfl rfl (toNat_imm20 himm)

theorem sound_decode22 (d c : Nat) (himm : imm < 1048576) : Sound (decode22 d f3 a b c imm) (encL 0x22 d f3 a b c imm) := by
  unfold decode22
  refine sound_guard fun h => ?_
  push Not at h
  obtain ⟨hb, hc, hd⟩ := h
  rw [hb]
  lift c to KIx using hc
  lift d to VIx using hd
  split <;> simp
  all_goals exact encodesL_of_imm rfl rfl (toNat_imm20 himm)

theorem sound_decode23 (d c : Nat) (himm : imm < 1048576) : Sound (decode23 d f3 a b c imm) (encL 0x23 d f3 a b c imm) := by
  unfold decode23
  refine sound_guard fun h => ?_
  push Not at h
  obtain ⟨hc, hd⟩ := h
  lift c to KIx using hc
  lift d to VIx using hd
  split
  next ew hew =>
    have hcode := EltW.code_of_ofCode hew
    split_ifs with hf <;> simp
    · obtain rfl : ew.code * 2 = f3 := by omega
      exact encodesL_of_imm rfl rfl (toNat_imm20 himm)
    · obtain rfl : ew.code * 2 + 1 = f3 := by omega
      exact encodesL_of_imm rfl rfl (toNat_imm20 himm)
  next => exact sound_none

theorem sound_decode24 (d b c : Nat) : Sound (decode24 d f3 a b c imm) (encL 0x24 d f3 a b c imm) := by
  unfold decode24
  refine sound_guard fun h => ?_
  push Not at h
  obtain ⟨hc, hd, hb, himm⟩ := h
  lift c to KIx using hc
  lift d to VIx using hd
  lift b to VIx using hb
  split <;> simp
  all_goals exact encodesL_of_imm rfl rfl (toNat_imm19 himm)

theorem sound_decode25 (himm : imm < 1048576) : Sound (decode25 d f3 a b c imm) (encL 0x25 d f3 a b c imm) := by
  unfold decode25
  refine sound_guard fun h => ?_
  push Not at h
  rw [h.1, h.2]
  split <;> simp
  all_goals exact encodesL_of_imm rfl rfl (toNat_imm20 himm)

theorem sound_decode26 (himm : imm < 1048576) : Sound (decode26 d f3 a b c imm) (encL 0x26 d f3 a b c imm) := by
  unfold decode26
  refine sound_guard fun h => ?_
  push Not at h
  obtain ⟨hb, hf⟩ := h
  rw [hb]
  lift f3 to Fin 4 using hf
  simp
  exact encodesL_of_imm rfl rfl (toNat_imm20 himm)

theorem sound_decode27 (d b : Nat) (himm : imm < 1048576) : Sound (decode27 d f3 a b c imm) (encL 0x27 d f3 a b c imm) := by
  unfold decode27
  refine sound_guard fun h => ?_
  push Not at h
  obtain ⟨rfl, hd, hb⟩ := h
  lift d to VIx using hd
  lift b to KIx using hb
  simp
  exact encodesL_of_imm rfl rfl (toNat_imm20 himm)

/-- IMM20 of an atomic from its type and its offset. -/
theorem imm_of_atomTy {ty : AtomTy} (h : AtomTy.ofCode (imm / 65536) = some ty) :
    ty.code * 65536 + (BitVec.ofNat 16 imm).toNat = imm := by
  rw [AtomTy.code_of_ofCode h, BitVec.toNat_ofNat]
  omega

theorem sound_decode28 : Sound (decode28 d f3 a b c imm) (encL 0x28 d f3 a b c imm) := by
  unfold decode28
  refine sound_guard fun h => ?_
  rw [not_not.mp h]
  split
  next ty hty =>
    split <;> simp
    all_goals exact fun _ => encL_of_imm rfl (imm_of_atomTy imm hty)
  next => exact sound_none

theorem sound_decode29 : Sound (decode29 d f3 a b c imm) (encL 0x29 d f3 a b c imm) := by
  unfold decode29
  split
  next ty hty =>
    split
    case h_1 | h_3 =>
      refine sound_when fun h => ?_
      rw [h]
      simp
      exact fun _ => encL_of_imm rfl (imm_of_atomTy imm hty)
    case h_2 =>
      simp
      exact fun _ => encL_of_imm rfl (imm_of_atomTy imm hty)
    case h_4 => exact sound_none
  next => exact sound_none

theorem sound_decode2A : Sound (decode2A d f3 a b c imm) (encL 0x2A d f3 a b c imm) := by
  unfold decode2A
  refine sound_guard fun h => ?_
  push Not at h
  obtain ⟨hb, hc, himm⟩ := h
  rw [hb, hc]
  split <;> simp
  case h_1 | h_2 => exact encodesL_of_imm rfl rfl (toNat_imm19 himm)
  case h_3 =>
    intro hd
    obtain ⟨full, hfull⟩ := exists_boolNat (Nat.lt_succ_of_le hd)
    rw [hfull, boolNat_beq_one]
    exact encodesL_of_imm rfl rfl (toNat_imm19 himm)

theorem sound_decode2B : Sound (decode2B d f3 a b c imm) (encL 0x2B d f3 a b c imm) := by
  unfold decode2B
  refine sound_guard fun h => ?_
  rw [not_not.mp h]
  split
  case h_1 =>
    simp
    rintro rfl himm
    exact encodesL_of_imm rfl rfl (toNat_imm19 himm)
  case h_2 =>
    refine sound_guard fun h => ?_
    push Not at h
    rw [h.1]
    simp
    exact fun _ => encL_of_imm rfl (by simp; omega)
  case h_3 => exact sound_none

theorem sound_decode2D : Sound (decode2D d f3 a b c imm) (encL 0x2D d f3 a b c imm) := by
  unfold decode2D
  refine sound_guard fun h => ?_
  rw [not_not.mp h]
  split <;> simp
  case h_1 =>
    rintro rfl himm
    obtain ⟨ring, rfl⟩ := exists_boolNat (Nat.lt_succ_of_le himm)
    rw [boolNat_beq_one]
    exact ⟨rfl, rfl⟩
  all_goals intros; subst_vars; exact ⟨rfl, rfl⟩

theorem sound_decode2E : Sound (decode2E d f3 a b c imm) (encL 0x2E d f3 a b c imm) := by
  unfold decode2E
  refine sound_guard fun h => ?_
  lift imm to Fin 8 using not_le.mp h
  split <;> simp
  all_goals intros; subst_vars; exact ⟨rfl, rfl⟩

theorem sound_decode2F : Sound (decode2F d f3 a b f8) (encS 0x2F d f3 a b f8) := by
  unfold decode2F
  refine sound_guard fun h => ?_
  rw [not_not.mp h]
  split <;> simp
  case h_1 =>
    rintro rfl h8
    lift f8 to Fin 32 using h8
    simp
    exact ⟨rfl, rfl⟩
  all_goals
    intros
    rename_i h8
    lift f8 to Fin 64 using h8
    subst_vars
    simp
    exact ⟨rfl, rfl⟩

theorem sound_decode30 : Sound (decode30 d f3 a b c imm) (encL 0x30 d f3 a b c imm) := by
  unfold decode30
  refine sound_guard fun h => ?_
  push Not at h
  rw [h.1, h.2]
  split <;> simp
  case h_1 | h_2 =>
    rintro rfl himm
    exact encodesL_of_imm rfl rfl (toNat_imm19 himm)
  case h_3 =>
    rintro rfl himm
    exact encodesL_of_imm rfl rfl (by simp; omega)
  case h_4 =>
    rintro rfl rfl himm
    exact encodesL_of_imm rfl rfl (Nat.mod_eq_of_lt himm)

theorem sound_decode40 : Sound (decode40 d f3 a b c imm) (encL 0x40 d f3 a b c imm) := by
  unfold decode40
  refine sound_guard fun _ => ?_
  split
  next rm hrm =>
    obtain rfl := Rm.code_of_ofCode hrm
    split <;> simp
    case h_7 | h_8 =>
      rintro rfl himm
      rw [himm]
      exact ⟨rfl, rfl⟩
    all_goals intros; subst_vars; exact ⟨rfl, rfl⟩
  next => exact sound_none

theorem sound_decode41 : Sound (decode41 d f3 a b c imm) (encL 0x41 d f3 a b c imm) := by
  unfold decode41
  refine sound_guard fun h => ?_
  push Not at h
  rw [h.1, h.2]
  split
  case h_3 =>
    refine sound_guard fun h => ?_
    push Not at h
    obtain ⟨himm, hbit⟩ := h
    split
    next src dst rm hsrc hdst hrm =>
      simp
      refine fun _ => encL_of_imm rfl ?_
      rw [ElemTy.code_of_ofCode hsrc, ElemTy.code_of_ofCode hdst, Rm.code_of_ofCode hrm]
      omega
    next => exact sound_none
  all_goals simp <;> rintro rfl <;> exact ⟨rfl, rfl⟩

theorem sound_decode42 (d : Nat) : Sound (decode42 d f3 a b f8) (encS 0x42 d f3 a b f8) := by
  unfold decode42
  refine sound_guard fun h => ?_
  push Not at h
  obtain ⟨rfl, hd⟩ := h
  lift d to Fin 4 using hd
  split <;> simp
  next cc hcc =>
    obtain rfl := FCond.code_of_ofCode hcc
    exact fun _ => rfl

theorem imm_of_vFields {v : VFields} (himm : imm < 1048576) (h : vFields imm = some v) :
    imm = immV v.km v.ty.code v.rm.code v.ty2 v.fn := by
  unfold vFields at h
  split at h
  next ty rm hty hrm =>
    cases h
    simp only [immV, Fin.val_ofNat, ElemTy.code_of_ofCode hty, Rm.code_of_ofCode hrm]
    omega
  next => contradiction

theorem sound_decode44 (d : Nat) (himm : imm < 1048576) : Sound (decode44 d f3 a b c imm) (encL 0x44 d f3 a b c imm) := by
  unfold decode44
  split
  next => exact sound_none
  next v hv =>
    obtain rfl := imm_of_vFields imm himm hv
    refine sound_guard fun h => ?_
    push Not at h
    obtain ⟨hd, hty2, hfn⟩ := h
    lift d to VIx using hd
    rw [hty2, hfn]
    split
    case h_4 =>
      simp
      exact fun _ => rfl
    case h_9 => exact sound_none
    case h_1 | h_2 | h_3 =>
      refine sound_when fun hc => ?_
      simp [hc]
      exact fun _ => rfl
    case h_5 | h_6 =>
      refine sound_when fun h => ?_
      simp [h]
      exact fun _ => rfl
    case h_7 | h_8 =>
      refine sound_when fun h => ?_
      simp [h]
      exact fun _ => rfl

theorem sound_decodeVcvt (d : VIx) (v : VFields) :
    Sound (decodeVcvt d a b c v) (encL 0x45 d 4 a b c (immV v.km v.ty.code v.rm.code v.ty2 v.fn)) := by
  unfold decodeVcvt
  refine sound_guard fun h => ?_
  rw [not_not.mp h]
  split
  next => exact sound_none
  next dst hdst =>
    rw [← ElemTy.code_of_ofCode hdst]
    split_ifs with hfn hb hmx
    · simp [hb]
      refine fun _ => encL_of_imm rfl ?_
      simp [immV]
      omega
    · exact sound_none
    · obtain ⟨hlo, hhi, hkm⟩ := hmx
      simp [hkm]
      refine fun _ => encL_of_imm rfl ?_
      simp [immV]
      omega
    · exact sound_none

theorem sound_decode45 (d : Nat) (himm : imm < 1048576) : Sound (decode45 d f3 a b c imm) (encL 0x45 d f3 a b c imm) := by
  unfold decode45
  split
  next => exact sound_none
  next v hv =>
    obtain rfl := imm_of_vFields imm himm hv
    refine sound_guard fun h => ?_
    lift d to VIx using not_le.mp h
    split
    case h_1 => exact sound_decodeVcvt a b c d v
    case h_2 =>
      refine sound_when fun h => ?_
      simp [h]
      exact fun _ => rfl
    case h_3 =>
      refine sound_guard fun h => ?_
      push Not at h
      obtain ⟨hty2, hfn, hb, hc⟩ := h
      rw [hty2, hfn, hb, hc]
      split
      case h_6 =>
        refine sound_when fun hrm => ?_
        simp [hrm]
        exact fun _ => rfl
      all_goals simp
      all_goals exact fun _ => rfl

theorem sound_decode46 (d : Nat) (himm : imm < 1048576) : Sound (decode46 d f3 a b c imm) (encL 0x46 d f3 a b c imm) := by
  unfold decode46
  split
  next => exact sound_none
  next v hv =>
    obtain rfl := imm_of_vFields imm himm hv
    refine sound_guard fun h => ?_
    push Not at h
    obtain ⟨hd, hty2, hfn, hc, hrm⟩ := h
    lift d to VIx using hd
    rw [hty2, hfn, hc, hrm]
    split <;> simp
    all_goals exact fun _ => rfl

theorem sound_decode47 (d : Nat) (himm : imm < 1048576) : Sound (decode47 d f3 a b c imm) (encL 0x47 d f3 a b c imm) := by
  unfold decode47
  split
  next => exact sound_none
  next v hv =>
    obtain rfl := imm_of_vFields imm himm hv
    refine sound_guard fun h => ?_
    push Not at h
    obtain ⟨hd, hty2, hfn, hc, hrm, rfl⟩ := h
    lift d to VIx using hd
    rw [hty2, hfn, hc, hrm]
    simp
    exact fun _ => rfl

theorem sound_decode48 (himm : imm < 1048576) : Sound (decode48 d f3 a b c imm) (encL 0x48 d f3 a b c imm) := by
  unfold decode48
  split
  next => exact sound_none
  next v hv =>
    obtain rfl := imm_of_vFields imm himm hv
    refine sound_guard fun h => ?_
    push Not at h
    obtain ⟨hty2, hc, hrm⟩ := h
    obtain ⟨d, hdlt⟩ := d
    rw [hty2, hc, hrm]
    split
    case h_1 =>
      refine sound_guard fun h => ?_
      push Not at h
      obtain ⟨hd, hfn⟩ := h
      split
      next cc hcc =>
        lift d to KIx using hd
        have hcode := Cond.code_of_ofCode hcc
        simp
        refine fun _ => encL_of_imm rfl ?_
        simp [immV, hcode, Rm.code]
        omega
      next => exact sound_none
    case h_2 =>
      refine sound_when fun h => ?_
      obtain ⟨hd, hfn, hty⟩ := h
      lift d to VIx using hd
      simp [hfn, hty]
      exact ⟨rfl, rfl⟩
    case h_3 =>
      refine sound_when fun h => ?_
      obtain ⟨hd, hfn⟩ := h
      lift d to VIx using hd
      simp [hfn]
      exact fun _ => rfl
    case h_4 =>
      refine sound_when fun h => ?_
      obtain ⟨hkm, hb, hfn⟩ := h
      lift d to GIx using hdlt
      simp [hkm, hb]
      exact fun _ => encL_of_imm rfl (by simp [immV, Rm.code, Nat.mod_eq_of_lt hfn])
    case h_5 =>
      refine sound_when fun h => ?_
      obtain ⟨hkm, hb, hfn, hd⟩ := h
      lift d to VIx using hd
      simp [hkm, hb]
      exact fun _ => encL_of_imm rfl (by simp [immV, Rm.code, Nat.mod_eq_of_lt hfn])
    case h_6 =>
      refine sound_when fun h => ?_
      obtain ⟨hb, hfn, hd⟩ := h
      lift d to VIx using hd
      simp [hb]
      exact fun _ => encL_of_imm rfl (by simp [immV, Rm.code, Nat.mod_eq_of_lt hfn])
    case h_7 => exact sound_none

theorem sound_decode49 (a b : Nat) : Sound (decode49 d f3 a b f8) (encS 0x49 d f3 a b f8) := by
  unfold decode49
  refine sound_guard fun h => ?_
  push Not at h
  obtain ⟨rfl, ha, hb⟩ := h
  lift a to KIx using ha
  lift b to KIx using hb
  obtain ⟨d, hdlt⟩ := d
  split <;> simp
  case h_1 | h_2 =>
    intro hd
    lift d to KIx using hd
    simp
    exact ⟨rfl, rfl⟩
  case h_3 =>
    rintro hd rfl
    lift d to KIx using hd
    simp
    exact ⟨rfl, rfl⟩
  case h_4 =>
    rintro rfl
    lift d to GIx using hdlt
    simp
    exact ⟨rfl, rfl⟩

theorem encX_of_tail {i : Instr} {maj d f3 x x' : Nat} (h : encode i = encX maj d f3 x') (hx : x' = x) :
    encode i = encX maj d f3 x := hx ▸ h

theorem sound_decode60 {x : Nat} (hx : x < 2 ^ 48) : Sound (decode60 d f3 x) (encX 0x60 d f3 x) := by
  unfold decode60
  dsimp only
  split
  case h_1 | h_2 | h_3 =>
    refine sound_when fun hlow => ?_
    simp
    refine fun _ => encX_of_tail rfl ?_
    simp [copyTail, fieldX]
    omega
  case h_4 =>
    split_ifs with hto hdst hfrom hsrc
    · simp
      refine fun _ => encX_of_tail rfl ?_
      simp only [fieldX] at hdst
      simp [copyTail, fieldX]
      omega
    · exact sound_none
    · simp
      refine fun _ => encX_of_tail rfl ?_
      simp only [fieldX] at hsrc
      simp [copyTail, fieldX]
      omega
    · exact sound_none
    · exact sound_none
  case h_5 => exact sound_none

theorem sound_decode61 : Sound (decode61 d f3 a b f8) (encS 0x61 d f3 a b f8) := by
  unfold decode61
  refine sound_guard fun h => ?_
  push Not at h
  obtain ⟨hb, rfl⟩ := h
  rw [hb]
  split <;> simp
  all_goals exact ⟨rfl, rfl⟩

theorem sound_decode64 {x : Nat} (hx : x < 2 ^ 48) : Sound (decode64 d f3 x) (encX 0x64 d f3 x) := by
  unfold decode64
  refine sound_guard fun h => ?_
  push Not at h
  obtain ⟨hd, hlow⟩ := h
  split
  next ty hty =>
    obtain rfl := MTy.code_of_ofCode hty
    rw [hd]
    simp
    refine fun _ => encX_of_tail rfl ?_
    simp [mmaTail, fieldX]
    omega
  next => exact sound_none

theorem sound_decode65 {x : Nat} (hx : x < 2 ^ 48) : Sound (decode65 d f3 x) (encX 0x65 d f3 x) := by
  unfold decode65
  refine sound_guard fun h => ?_
  push Not at h
  obtain ⟨hd, hlow⟩ := h
  split
  next ty n hty hn =>
    obtain rfl := MTy.code_of_ofCode hty
    have hcode := SpN.code_of_ofCode hn
    rw [hd]
    simp
    refine fun _ => encX_of_tail rfl ?_
    simp [mmaTail, fieldX, hcode]
    omega
  next => exact sound_none

theorem sound_decode66 : Sound (decode66 d f3 a b c imm) (encL 0x66 d f3 a b c imm) := by
  unfold decode66
  refine sound_guard fun h => ?_
  push Not at h
  obtain ⟨hd, himm⟩ := h
  rw [hd]
  lift imm to Fin 32 using himm
  split <;> simp
  case h_1 =>
    rintro rfl rfl
    exact ⟨rfl, rfl⟩
  case h_2 => exact fun _ => rfl

theorem sound_decode67 {x : Nat} (hx : x < 2 ^ 48) : Sound (decode67 d f3 x) (encX 0x67 d f3 x) := by
  unfold decode67
  refine sound_guard fun h => ?_
  push Not at h
  obtain ⟨hd, rfl, hlow⟩ := h
  rw [hd]
  split
  next ty rm hty hrm =>
    have hcty := ElemTy.code_of_ofCode hty
    have hcrm := Rm.code_of_ofCode hrm
    simp
    refine fun _ => encX_of_tail rfl ?_
    simp [mmaTail, fieldX, hcty, hcrm]
    omega
  next => exact sound_none

theorem sound_decode68 {x : Nat} (hx : x < 2 ^ 48) : Sound (decode68 d f3 x) (encX 0x68 d f3 x) := by
  unfold decode68
  refine sound_guard fun h => ?_
  push Not at h
  obtain ⟨hd, rfl, hlow⟩ := h
  rw [hd]
  split_ifs with hside
  all_goals
    simp
    refine fun _ => encX_of_tail rfl ?_
    simp [mmaTail, fieldX]
    omega

theorem sound_decode70 : Sound (decode70 d f3) (enc0 0x70 d f3) := by
  unfold decode70
  split <;> simp
  case h_5 => exact ⟨rfl, rfl⟩
  all_goals rintro rfl; exact ⟨rfl, rfl⟩

theorem sound_decode72 : Sound (decode72 d f3 a b c imm) (encL 0x72 d f3 a b c imm) := by
  unfold decode72
  refine sound_guard fun h => ?_
  push Not at h
  rw [h.1, h.2]
  split
  next r hr =>
    obtain rfl := SysReg.code_of_ofCode hr
    split <;> simp
    all_goals rintro rfl; exact ⟨rfl, rfl⟩
  next => exact sound_none

theorem sound_decode74 : Sound (decode74 d f3 a b c imm) (encL 0x74 d f3 a b c imm) := by
  unfold decode74
  refine sound_guard fun h => ?_
  push Not at h
  obtain ⟨hd, hc, rfl⟩ := h
  rw [hd, hc]
  split <;> simp
  all_goals exact ⟨rfl, rfl⟩

theorem sound_decode75 : Sound (decode75 d f3 a b c imm) (encL 0x75 d f3 a b c imm) := by
  unfold decode75
  refine sound_guard fun h => ?_
  push Not at h
  obtain ⟨hd, rfl, hc⟩ := h
  rw [hd, hc]
  split <;> simp
  next sc hsc =>
    obtain rfl := InvScope.code_of_ofCode hsc
    exact fun _ => rfl

end

/-! ## The decoder by tail formats -/

theorem exists_gReg {n : Nat} (h : n < 16) : ∃ r : GIx, n = r := ⟨⟨n, h⟩, rfl⟩

theorem sound_decodeNone (maj f3 : Nat) (d : GIx) : Sound (decodeNone maj d f3) (enc0 maj d f3) := by
  unfold decodeNone
  split
  case h_1 | h_2 =>
    simp
    rintro rfl rfl
    exact ⟨rfl, rfl⟩
  case h_3 => exact sound_decode70 d f3
  case h_4 => exact sound_none

theorem sound_decodeS (maj f3 t : Nat) (d : GIx) :
    Sound (decodeS maj d f3 t) (encS maj d f3 (fieldSA t) (fieldSB t) (fieldS8 t)) := by
  obtain ⟨a, ha⟩ := exists_gReg (n := fieldSA t) (Nat.mod_lt _ (by decide))
  obtain ⟨b, hb⟩ := exists_gReg (n := fieldSB t) (Nat.mod_lt _ (by decide))
  have h8 : fieldS8 t < 256 := Nat.mod_lt _ (by decide)
  unfold decodeS
  rw [ha, hb]
  generalize fieldS8 t = f8 at *
  dsimp only
  split
  case h_1 => exact sound_decode01 d a b f3 f8
  case h_2 => exact sound_decode02 d a b f3 f8
  case h_3 => exact sound_decode03 d a b f3 f8
  case h_4 => exact sound_decode04 d a b f3 f8
  case h_5 => exact sound_decode08 a b f3 f8 d
  case h_6 => exact sound_decode0A a b f3 f8 d
  case h_7 => exact sound_decode0B a b f3 f8 d
  case h_8 => exact sound_decode0D d a b f3 f8
  case h_9 => exact sound_decode0E d a b f3 f8
  case h_10 => exact sound_decode2F d a b f3 f8
  case h_11 => exact sound_decode42 a b f3 f8 d
  case h_12 => exact sound_decode49 d f3 f8 a b
  case h_13 => exact sound_decode61 d a b f3 f8
  case h_14 =>
    simp
    rintro rfl rfl rfl rfl
    exact ⟨rfl, congrArg (encS 0x71 0 0 0 0) (Nat.mod_eq_of_lt h8)⟩
  case h_15 =>
    simp
    rintro rfl rfl rfl rfl
    exact ⟨rfl, rfl⟩
  case h_16 => exact sound_none

theorem sound_decodeL (maj t : Nat) {f3 : Nat} (d : GIx) (hf3 : f3 < 8) :
    Sound (decodeL maj d f3 t) (encL maj d f3 (fieldLA t) (fieldLB t) (fieldLC t) (fieldL20 t)) := by
  obtain ⟨a, ha⟩ := exists_gReg (n := fieldLA t) (Nat.mod_lt _ (by decide))
  obtain ⟨b, hb⟩ := exists_gReg (n := fieldLB t) (Nat.mod_lt _ (by decide))
  obtain ⟨c, hc⟩ := exists_gReg (n := fieldLC t) (Nat.mod_lt _ (by decide))
  have himm : fieldL20 t < 1048576 := Nat.mod_lt _ (by decide)
  unfold decodeL
  rw [ha, hb, hc]
  generalize fieldL20 t = imm at *
  dsimp only
  split
  case h_1 => exact sound_decode05 d a b c f3 imm
  case h_2 => exact sound_decode06 d a b c f3 imm himm
  case h_3 => exact sound_decode09 a b c f3 imm d himm
  case h_4 => exact sound_decode0C d a b c f3 imm himm
  case h_5 => exact sound_decode0F d a b c f3 imm
  case h_6 => exact sound_decode20 d a b c f3 imm hf3 himm
  case h_7 => exact sound_decode21 d a b c f3 imm himm
  case h_8 => exact sound_decode22 a b f3 imm d c himm
  case h_9 => exact sound_decode23 a b f3 imm d c himm
  case h_10 => exact sound_decode24 a f3 imm d b c
  case h_11 => exact sound_decode25 d a b c f3 imm himm
  case h_12 => exact sound_decode26 d a b c f3 imm himm
  case h_13 => exact sound_decode27 a c f3 imm d b himm
  case h_14 => exact sound_decode28 d a b c f3 imm
  case h_15 => exact sound_decode29 d a b c f3 imm
  case h_16 => exact sound_decode2A d a b c f3 imm
  case h_17 => exact sound_decode2B d a b c f3 imm
  case h_18 => exact sound_decode2D d a b c f3 imm
  case h_19 => exact sound_decode2E d a b c f3 imm
  case h_20 => exact sound_decode30 d a b c f3 imm
  case h_21 => exact sound_decode40 d a b c f3 imm
  case h_22 => exact sound_decode41 d a b c f3 imm
  case h_23 => exact sound_decode44 a b c f3 imm d himm
  case h_24 => exact sound_decode45 a b c f3 imm d himm
  case h_25 => exact sound_decode46 a b c f3 imm d himm
  case h_26 => exact sound_decode47 a b c f3 imm d himm
  case h_27 => exact sound_decode48 d a b c f3 imm himm
  case h_28 => exact sound_decode66 d a b c f3 imm
  case h_29 => exact sound_decode72 d a b c f3 imm
  case h_30 => exact sound_decode74 d a b c f3 imm
  case h_31 => exact sound_decode75 d a b c f3 imm
  case h_32 => exact sound_none

theorem sound_decodeX (maj f3 : Nat) (d : GIx) {x : Nat} (hx : x < 2 ^ 48) : Sound (decodeX maj d f3 x) (encX maj d f3 x) := by
  unfold decodeX
  split
  case h_1 => exact sound_decode07 d f3 hx
  case h_2 => exact sound_decode60 d f3 hx
  case h_3 => exact sound_decode64 d f3 hx
  case h_4 => exact sound_decode65 d f3 hx
  case h_5 => exact sound_decode67 d f3 hx
  case h_6 => exact sound_decode68 d f3 hx
  case h_7 => exact sound_none

theorem sound_decode (h t : Nat) : Sound (decode h t) (some (h, t)) := by
  unfold decode
  refine sound_guard fun hbad => ?_
  push Not at hbad
  obtain ⟨hh, ht, -⟩ := hbad
  have hhead := mkHead_of_fields hh
  have hf3 : headF3 h < 8 := Nat.mod_lt _ (by decide)
  obtain ⟨d, hd⟩ := exists_gReg (n := headD h) (Nat.mod_lt _ (by decide))
  rw [hd] at hhead ⊢
  split
  case h_1 hlen =>
    obtain rfl : t = 0 := by simpa [hlen] using ht
    rw [hlen] at hhead
    simpa only [enc0, hhead] using sound_decodeNone (headMaj h) (headF3 h) d
  case h_2 hlen =>
    rw [hlen] at ht hhead
    simpa only [encS, hhead, tailS_of_fields ht] using sound_decodeS (headMaj h) (headF3 h) t d
  case h_3 hlen =>
    rw [hlen] at ht hhead
    simpa only [encL, hhead, tailL_of_fields ht] using sound_decodeL (headMaj h) t d hf3
  case h_4 h0 h1 h2 =>
    have hlen : headLen h = 3 := by
      obtain h' | h' | h' | h' : headLen h = 0 ∨ headLen h = 1 ∨ headLen h = 2 ∨ headLen h = 3 := by
        simp only [headLen]
        omega
      exacts [absurd h' h0, absurd h' h1, absurd h' h2, h']
    rw [hlen] at ht hhead
    simpa only [encX, hhead] using sound_decodeX (headMaj h) (headF3 h) d ht

/-- Settles O2: major by major, what the decoder of the major answers writes the fields that it was given. -/
theorem encodeAfterDecode : Obligations.EncodeAfterDecode := fun i h t hi => sound_decode h t i hi

end Sys2Proof

namespace Sys2Proof

/-! ## What is encoded decodes to the same instruction (R93) -/

/-- The law of every instruction, put together; the steps of the other agents have no encoding. -/
theorem roundTrip (i : Instr) : Laws.RoundTrip.Statement i := by
  cases i with
  | nop => exact Laws.RoundTrip.nop
  | add d a b => exact Laws.RoundTrip.add d a b
  | sub d a b => exact Laws.RoundTrip.sub d a b
  | and d a b => exact Laws.RoundTrip.and d a b
  | or d a b => exact Laws.RoundTrip.or d a b
  | xor d a b => exact Laws.RoundTrip.xor d a b
  | andn d a b => exact Laws.RoundTrip.andn d a b
  | shl d a b => exact Laws.RoundTrip.shl d a b
  | shr d a b => exact Laws.RoundTrip.shr d a b
  | sra d a b => exact Laws.RoundTrip.sra d a b
  | min d a b => exact Laws.RoundTrip.min d a b
  | max d a b => exact Laws.RoundTrip.max d a b
  | minu d a b => exact Laws.RoundTrip.minu d a b
  | maxu d a b => exact Laws.RoundTrip.maxu d a b
  | mov d a => exact Laws.RoundTrip.mov d a
  | mul d a b => exact Laws.RoundTrip.mul d a b
  | mulh d a b => exact Laws.RoundTrip.mulh d a b
  | mulhu d a b => exact Laws.RoundTrip.mulhu d a b
  | div d a b => exact Laws.RoundTrip.div d a b
  | divu d a b => exact Laws.RoundTrip.divu d a b
  | rem d a b => exact Laws.RoundTrip.rem d a b
  | remu d a b => exact Laws.RoundTrip.remu d a b
  | clz d a => exact Laws.RoundTrip.clz d a
  | ctz d a => exact Laws.RoundTrip.ctz d a
  | popc d a => exact Laws.RoundTrip.popc d a
  | sext d a wm1 => exact Laws.RoundTrip.sext d a wm1
  | zext d a wm1 => exact Laws.RoundTrip.zext d a wm1
  | shli d a n => exact Laws.RoundTrip.shli d a n
  | shri d a n => exact Laws.RoundTrip.shri d a n
  | srai d a n => exact Laws.RoundTrip.srai d a n
  | bfx d a wm1 pos => exact Laws.RoundTrip.bfx d a wm1 pos
  | bfi d a wm1 pos => exact Laws.RoundTrip.bfi d a wm1 pos
  | addi d a imm => exact Laws.RoundTrip.addi d a imm
  | andi d a imm => exact Laws.RoundTrip.andi d a imm
  | ori d a imm => exact Laws.RoundTrip.ori d a imm
  | xori d a imm => exact Laws.RoundTrip.xori d a imm
  | movi d x => exact Laws.RoundTrip.movi d x
  | moviShifted d x => exact Laws.RoundTrip.moviShifted d x
  | cmp k c a b => exact Laws.RoundTrip.cmp k c a b
  | cmpi k c a imm => exact Laws.RoundTrip.cmpi k c a imm
  | tstb k ne a n => exact Laws.RoundTrip.tstb k ne a n
  | tstg k ne a t => exact Laws.RoundTrip.tstg k ne a t
  | j s h => exact Laws.RoundTrip.j s h
  | jl s h => exact Laws.RoundTrip.jl s h
  | jr a => exact Laws.RoundTrip.jr a
  | jlr a => exact Laws.RoundTrip.jlr a
  | capget d a sel => exact Laws.RoundTrip.capget d a sel
  | capset d a b => exact Laws.RoundTrip.capset d a b
  | capadd d a b => exact Laws.RoundTrip.capadd d a b
  | capbnd d a b => exact Laws.RoundTrip.capbnd d a b
  | capprm d a b => exact Laws.RoundTrip.capprm d a b
  | capclr d a => exact Laws.RoundTrip.capclr d a
  | capwv d a b c => exact Laws.RoundTrip.capwv d a b c
  | capchk d a b perm => exact Laws.RoundTrip.capchk d a b perm
  | ld z sz d a m => exact Laws.RoundTrip.ld z sz d a m
  | st sz d a m => exact Laws.RoundTrip.st sz d a m
  | ldv d a k m => exact Laws.RoundTrip.ldv d a k m
  | stv d a k m => exact Laws.RoundTrip.stv d a k m
  | ldvs ew d a b k m => exact Laws.RoundTrip.ldvs ew d a b k m
  | stvs ew d a b k m => exact Laws.RoundTrip.stvs ew d a b k m
  | vgath d a b k off => exact Laws.RoundTrip.vgath d a b k off
  | vscat d a b k off => exact Laws.RoundTrip.vscat d a b k off
  | ldcap d a m => exact Laws.RoundTrip.ldcap d a m
  | stcap d a m => exact Laws.RoundTrip.stcap d a m
  | putf sz d a c m => exact Laws.RoundTrip.putf sz d a c m
  | putvf d a k c m => exact Laws.RoundTrip.putvf d a k c m
  | radd ty a b c off => exact Laws.RoundTrip.radd ty a b c off
  | rmin ty a b c off => exact Laws.RoundTrip.rmin ty a b c off
  | rmax ty a b c off => exact Laws.RoundTrip.rmax ty a b c off
  | rand ty a b c off => exact Laws.RoundTrip.rand ty a b c off
  | ror ty a b c off => exact Laws.RoundTrip.ror ty a b c off
  | rxor ty a b c off => exact Laws.RoundTrip.rxor ty a b c off
  | rfadd ty d a b off => exact Laws.RoundTrip.rfadd ty d a b off
  | rcas ty d a b c off => exact Laws.RoundTrip.rcas ty d a b c off
  | rswap ty d a b off => exact Laws.RoundTrip.rswap ty d a b off
  | ldc d a off => exact Laws.RoundTrip.ldc d a off
  | stp d a off => exact Laws.RoundTrip.stp d a off
  | feset full a off => exact Laws.RoundTrip.feset full a off
  | fsig a b off => exact Laws.RoundTrip.fsig a b off
  | fwait d a en eq => exact Laws.RoundTrip.fwait d a en eq
  | wfw => exact Laws.RoundTrip.wfw
  | tspawn a b clusterRing => exact Laws.RoundTrip.tspawn a b clusterRing
  | tdec a => exact Laws.RoundTrip.tdec a
  | tcancel d a => exact Laws.RoundTrip.tcancel d a
  | gcset n a b c => exact Laws.RoundTrip.gcset n a b c
  | gchunk n d => exact Laws.RoundTrip.gchunk n d
  | bar a id => exact Laws.RoundTrip.bar a id
  | pbara id => exact Laws.RoundTrip.pbara id
  | pbarw d id => exact Laws.RoundTrip.pbarw d id
  | pbar d id => exact Laws.RoundTrip.pbar d id
  | scrub a off => exact Laws.RoundTrip.scrub a off
  | poison a off => exact Laws.RoundTrip.poison a off
  | flogrd d e w => exact Laws.RoundTrip.flogrd d e w
  | flogclr mask => exact Laws.RoundTrip.flogclr mask
  | fadd rm d a b => exact Laws.RoundTrip.fadd rm d a b
  | fsub rm d a b => exact Laws.RoundTrip.fsub rm d a b
  | fmul rm d a b => exact Laws.RoundTrip.fmul rm d a b
  | ffma rm d a b c => exact Laws.RoundTrip.ffma rm d a b c
  | fdiv rm d a b => exact Laws.RoundTrip.fdiv rm d a b
  | fsqrt rm d a => exact Laws.RoundTrip.fsqrt rm d a
  | fmin d a b => exact Laws.RoundTrip.fmin d a b
  | fmax d a b => exact Laws.RoundTrip.fmax d a b
  | fabs d a => exact Laws.RoundTrip.fabs d a
  | fneg d a => exact Laws.RoundTrip.fneg d a
  | fcvt src dst rm d a => exact Laws.RoundTrip.fcvt src dst rm d a
  | fclass d a => exact Laws.RoundTrip.fclass d a
  | fcmp k c a b => exact Laws.RoundTrip.fcmp k c a b
  | vadd ty rm k d a b => exact Laws.RoundTrip.vadd ty rm k d a b
  | vsub ty rm k d a b => exact Laws.RoundTrip.vsub ty rm k d a b
  | vmul ty rm k d a b => exact Laws.RoundTrip.vmul ty rm k d a b
  | vfma ty rm k d a b c => exact Laws.RoundTrip.vfma ty rm k d a b c
  | vmin ty k d a b => exact Laws.RoundTrip.vmin ty k d a b
  | vmax ty k d a b => exact Laws.RoundTrip.vmax ty k d a b
  | vabs ty k d a => exact Laws.RoundTrip.vabs ty k d a
  | vneg ty k d a => exact Laws.RoundTrip.vneg ty k d a
  | vrcp ty rm k d a => exact Laws.RoundTrip.vrcp ty rm k d a
  | vrsq ty rm k d a => exact Laws.RoundTrip.vrsq ty rm k d a
  | vexp2 ty rm k d a => exact Laws.RoundTrip.vexp2 ty rm k d a
  | vlog2 ty rm k d a => exact Laws.RoundTrip.vlog2 ty rm k d a
  | vcvt src dst rm k p d a => exact Laws.RoundTrip.vcvt src dst rm k p d a
  | vcvtMx src dst rm p d a b => exact Laws.RoundTrip.vcvtMx src dst rm p d a b
  | vdot ty rm k d a b c => exact Laws.RoundTrip.vdot ty rm k d a b c
  | vsum ty rm k d a => exact Laws.RoundTrip.vsum ty rm k d a
  | vrmax ty k d a => exact Laws.RoundTrip.vrmax ty k d a
  | viadd ty k d a b => exact Laws.RoundTrip.viadd ty k d a b
  | visub ty k d a b => exact Laws.RoundTrip.visub ty k d a b
  | vimul ty k d a b => exact Laws.RoundTrip.vimul ty k d a b
  | vand ty k d a b => exact Laws.RoundTrip.vand ty k d a b
  | vor ty k d a b => exact Laws.RoundTrip.vor ty k d a b
  | vxor ty k d a b => exact Laws.RoundTrip.vxor ty k d a b
  | vshl ty k d a b => exact Laws.RoundTrip.vshl ty k d a b
  | vshr ty k d a b => exact Laws.RoundTrip.vshr ty k d a b
  | vsra ty k d a b => exact Laws.RoundTrip.vsra ty k d a b
  | vcmp c ty s k d a b => exact Laws.RoundTrip.vcmp c ty s k d a b
  | vsel k d a b => exact Laws.RoundTrip.vsel k d a b
  | vperm ty k d a b => exact Laws.RoundTrip.vperm ty k d a b
  | vmovg ty e d a => exact Laws.RoundTrip.vmovg ty e d a
  | vmovl ty e d a => exact Laws.RoundTrip.vmovl ty e d a
  | vbcast ty e k d a => exact Laws.RoundTrip.vbcast ty e k d a
  | kand d a b => exact Laws.RoundTrip.kand d a b
  | kor d a b => exact Laws.RoundTrip.kor d a b
  | knot d a => exact Laws.RoundTrip.knot d a
  | kpop d a => exact Laws.RoundTrip.kpop d a
  | copy d dst src shp wf wn sf => exact Laws.RoundTrip.copy d dst src shp wf wn sf
  | copyp d dst src shp wf wn sf => exact Laws.RoundTrip.copyp d dst src shp wf wn sf
  | copym d dst src shp wf wn sf mask => exact Laws.RoundTrip.copym d dst src shp wf wn sf mask
  | copytTo d src shp wf wn sf t => exact Laws.RoundTrip.copytTo d src shp wf wn sf t
  | copytFrom d dst shp wf wn sf t => exact Laws.RoundTrip.copytFrom d dst shp wf wn sf t
  | copys d a => exact Laws.RoundTrip.copys d a
  | copyk d a => exact Laws.RoundTrip.copyk d a
  | mma ty t a b wf wn sf k => exact Laws.RoundTrip.mma ty t a b wf wn sf k
  | mmas ty n t a b md wf wn sf k => exact Laws.RoundTrip.mmas ty n t a b md wf wn sf k
  | tcfg t a => exact Laws.RoundTrip.tcfg t a
  | tzero t wf wn sf => exact Laws.RoundTrip.tzero t wf wn sf
  | tcvt dty rm t dst wf wn sf => exact Laws.RoundTrip.tcvt dty rm t dst wf wn sf
  | tsclRow t s b wf wn sf => exact Laws.RoundTrip.tsclRow t s b wf wn sf
  | tsclCol t s b wf wn sf => exact Laws.RoundTrip.tsclCol t s b wf wn sf
  | eret => exact Laws.RoundTrip.eret
  | yield => exact Laws.RoundTrip.yield
  | halt => exact Laws.RoundTrip.halt
  | pdrain => exact Laws.RoundTrip.pdrain
  | rdcnt d => exact Laws.RoundTrip.rdcnt d
  | trap code => exact Laws.RoundTrip.trap code
  | sysrd d r => exact Laws.RoundTrip.sysrd d r
  | syswr r a => exact Laws.RoundTrip.syswr r a
  | wake a => exact Laws.RoundTrip.wake a
  | ctxst a b => exact Laws.RoundTrip.ctxst a b
  | ctxld a b => exact Laws.RoundTrip.ctxld a b
  | tlbinv a b scope => exact Laws.RoundTrip.tlbinv a b scope
  | _ => exact fun _ _ _ henc => nomatch henc

/-- Settles O1: instruction by instruction, the decoder reads back the fields that the encoder has written. -/
theorem decodeAfterEncode : Obligations.DecodeAfterEncode := fun i h t hwf => roundTrip i hwf h t

end Sys2Proof

namespace Sys2Proof
open Sys2Proof.Claims

/-! ## Heads, tails and the successor of a head in a code line (R82, R84-R86) -/

theorem tailSum_eq_tailsBefore (l : List Parcel) : ∀ i, tailSum l i = tailsBefore l i
  | 0 => rfl
  | 1 => rfl
  | i + 2 => by rw [tailSum, tailsBefore, tailSum_eq_tailsBefore l (i + 1)]; rfl

theorem parcels_eq_foldr (l : List Parcel) (p n : Nat) :
    parcels l p n = (List.range n).foldr (fun k acc => parcel l (p + k) + 65536 * acc) 0 := by
  induction n generalizing p with
  | zero => rfl
  | succ n ih =>
    have hshift (k : Nat) : p + 1 + k = p + (k + 1) := by omega
    rw [parcels, ih, List.range_succ_eq_map, List.foldr_cons, List.foldr_map]
    simp only [hshift, Nat.succ_eq_add_one]
    rfl

theorem lineTail_eq (l : List Parcel) (i : Nat) :
    lineTail l i = (List.range (parcel l i / 128 % 4)).foldr
      (fun k acc => parcel l (32 - tailsBefore l i - parcel l i / 128 % 4 + k) + 65536 * acc) 0 := by
  rw [lineTail, tailSum_eq_tailsBefore]
  exact parcels_eq_foldr l _ _

/-- A parcel between the last head and the lowest tail is looked at by its distance from the head. -/
theorem any_between_iff (l : List Parcel) (h t : Nat) :
    ((List.range (31 - h - t)).any fun k => l.getD (h + 1 + k) 0 != 0) = true ↔ ∃ p, h < p ∧ p < 32 - t ∧ parcel l p ≠ 0 := by
  have hne (p : Nat) : (l.getD p 0 != 0) = true ↔ parcel l p ≠ 0 := by
    rw [bne_iff_ne, ne_eq, ← BitVec.toNat_inj]
    rfl
  simp only [List.any_eq_true, List.mem_range, hne]
  constructor
  · rintro ⟨k, hk, hp⟩
    exact ⟨h + 1 + k, by omega, by omega, hp⟩
  · rintro ⟨p, hlo, hhi, hp⟩
    refine ⟨p - h - 1, by omega, ?_⟩
    rwa [show h + 1 + (p - h - 1) = p by omega]

theorem lineMalformed_iff (l : List Parcel) :
    lineMalformed l = true ↔
      parcel l 0 % 32 = 0 ∨ 32 ≤ parcel l 0 ∨ 31 < parcel l 0 % 32 + tailsBefore l (parcel l 0 % 32 + 1) ∨
        ∃ p, parcel l 0 % 32 < p ∧ p < 32 - tailsBefore l (parcel l 0 % 32 + 1) ∧ parcel l p ≠ 0 := by
  have hhigh : ((l.getD 0 0).toNat / 32 != 0) = true ↔ 32 ≤ parcel l 0 := by
    change (parcel l 0 / 32 != 0) = true ↔ _
    rw [bne_iff_ne]
    omega
  rw [← any_between_iff, ← tailSum_eq_tailsBefore, lineMalformed, ← hhigh]
  simp only [Bool.or_eq_true, beq_iff_eq, decide_eq_true_eq, gt_iff_lt, or_assoc]
  rfl

/-- A PC by its line, its head and its lowest bit. -/
theorem toNat_pc (line : BitVec 58) (i : BitVec 5) : (line ++ i ++ (0 : BitVec 1) : Word).toNat = line.toNat * 64 + i.toNat * 2 := by
  have h5 := i.isLt
  have h58 := line.isLt
  simp only [BitVec.toNat_append, BitVec.ofNat_eq_ofNat, BitVec.toNat_ofNat]
  rw [← Nat.shiftLeft_add_eq_or_of_lt (by omega), ← Nat.shiftLeft_add_eq_or_of_lt (by omega)]
  simp only [Nat.shiftLeft_eq]
  omega

theorem succPc_eq (line : BitVec 58) (i : BitVec 5) {h : Nat} (hh : h ≤ 31) :
    succPc (line ++ i ++ (0 : BitVec 1)) h =
      if i.toNat < h then line ++ (i + 1) ++ (0 : BitVec 1) else (line + 1) ++ (1 : BitVec 5) ++ (0 : BitVec 1) := by
  have h5 := i.isLt
  have h58 := line.isLt
  have hpc := toNat_pc line i
  have hhead : (line.toNat * 64 + i.toNat * 2) / 2 % 32 = i.toNat := by omega
  rw [succPc, hpc, hhead]
  split_ifs with hi
  · refine BitVec.eq_of_toNat_eq ?_
    have hnext : (i + 1).toNat = i.toNat + 1 := by
      rw [BitVec.toNat_add]
      exact Nat.mod_eq_of_lt (by simp; omega)
    rw [toNat_pc, hnext, BitVec.toNat_add, hpc]
    simp
    omega
  · refine BitVec.eq_of_toNat_eq ?_
    have hnext : (line + 1).toNat = (line.toNat + 1) % 2 ^ 58 := BitVec.toNat_add ..
    rw [toNat_pc, hnext, BitVec.toNat_ofNat, show (1 : BitVec 5).toNat = 1 from rfl]
    omega

/-- Settles O3: the tail by the sum of the lengths before it, the malformed lines by the parcels between heads and tails, the successor by
the line and head that a PC holds. -/
theorem codeLine : Obligations.CodeLine := fun l =>
  ⟨lineTail_eq l, lineMalformed_iff l, fun line i _ hh => succPc_eq line i hh⟩

/-- Settles O4: each word is decoded. -/
theorem decodedWords : Obligations.DecodedWords := by
  unfold Obligations.DecodedWords
  decide

end Sys2Proof

namespace Sys2Proof.Machine
open Sys2Proof.Claims

/-! ## The traps of fetch and decode (R85, R94, R119, R185, R196) -/

section
variable {s : State}

theorem fetched_bounds (h : s.cur.fetchable s.pkg s.curTile = false) :
    s.fetched = if s.cur.skip = 0 then s.trap causeBounds (lineAddr s.cur.pc) else s.trapWalk causeBounds := by
  simp only [State.fetched, h, Bool.not_false, if_true]

theorem fetched_line {l : List Parcel} (h : s.cur.fetchable s.pkg s.curTile = true) (hl : s.cur.line s.cur.pc = some l) :
    s.fetched = s.issueFrom l := by
  simp only [State.fetched, h, hl, Bool.not_true, Bool.false_eq_true, if_false]

theorem issueFrom_malformed {l : List Parcel} (h : lineMalformed l = true) :
    s.issueFrom l = if s.cur.skip = 0 then s.trap causeLine 0 else s.trapWalk causeLine := by
  simp only [State.issueFrom, h, if_true]

theorem issueFrom_breaks {l : List Parcel} (h : lineMalformed l = false) (hb : s.cur.breaks = true) :
    s.issueFrom l = s.trap causeBreak 0 := by
  simp only [State.issueFrom, h, hb, Bool.false_eq_true, if_false, if_true]

/-! A sound line that no breakpoint stops: the issue clears BSKIP at BPC, and then the PC and the head are looked at. -/

theorem clearBskip_eq (s : State) :
    (if (s.cur.bskip && s.cur.pc == s.cur.bpc) = true then s.setCur { s.cur with bskip := false } else s) = atIssue s := by
  simp [atIssue]

section
variable {l : List Parcel} (h : lineMalformed l = false) (hb : s.cur.breaks = false)
include h hb

theorem issueFrom_misplaced (hpc : s.cur.pc.toNat % 2 = 1 ∨ s.cur.pc.toNat / 2 % 32 = 0) :
    s.issueFrom l = (atIssue s).trap causeAlign s.cur.pc.toNat := by
  simp only [State.issueFrom, h, hb, clearBskip_eq, Bool.false_eq_true, if_false]
  rw [if_pos hpc]

variable (hpc : ¬(s.cur.pc.toNat % 2 = 1 ∨ s.cur.pc.toNat / 2 % 32 = 0))
include hpc

theorem issueFrom_beyond (hbeyond : lineHeads l < s.cur.pc.toNat / 2 % 32) : s.issueFrom l = (atIssue s).trap causeIllegal 0 := by
  simp only [State.issueFrom, h, hb, clearBskip_eq, Bool.false_eq_true, if_false]
  rw [if_neg hpc, if_pos hbeyond]

theorem issueFrom_illegal (hwithin : s.cur.pc.toNat / 2 % 32 ≤ lineHeads l)
    (hdec : decode (lineHead l (s.cur.pc.toNat / 2 % 32)) (lineTail l (s.cur.pc.toNat / 2 % 32)) = none) :
    s.issueFrom l = (atIssue s).trap causeIllegal (atIssue s).headTail := by
  simp only [State.issueFrom, h, hb, clearBskip_eq, hdec, Bool.false_eq_true, if_false]
  rw [if_neg hpc, if_neg (not_lt.mpr hwithin)]

end
end

/-- Settles O6: each trap of R185's order is what its fetch comes to once those before it have passed. -/
theorem fetchTraps : Obligations.FetchTraps := by
  intro s th pc k trapWith
  refine ⟨fun hfetch => ?_, fun l hfetch hline => ?_⟩
  · have hb := fetched_bounds hfetch
    exact ⟨fun hskip => by rw [hb, if_pos hskip]; rfl, fun hskip => by rw [hb, if_neg hskip]; rfl⟩
  · have hissue := fetched_line hfetch hline
    refine ⟨fun hbad => ?_, fun hsound hbreaks => ?_, fun hsound hbreaks => ?_⟩
    · rw [hissue, issueFrom_malformed hbad]
      exact ⟨fun hskip => by rw [if_pos hskip]; rfl, fun hskip => by rw [if_neg hskip]; rfl⟩
    · rw [hissue, issueFrom_breaks hsound hbreaks]
      rfl
    · rw [hissue]
      refine ⟨issueFrom_misplaced hsound hbreaks, fun heven hk => ?_⟩
      have hpc : ¬(s.cur.pc.toNat % 2 = 1 ∨ s.cur.pc.toNat / 2 % 32 = 0) :=
        not_or.mpr ⟨Nat.mod_two_ne_one.mpr heven, hk⟩
      exact ⟨issueFrom_beyond hsound hbreaks hpc, issueFrom_illegal hsound hbreaks hpc⟩

end Sys2Proof.Machine

namespace Sys2Proof.Machine
open Sys2Proof.Claims

/-! ## The checks of an access at one place (R155, R156) -/

/-- The spaces that a row of Table 7.1 lists. -/
def rowSpaces : Row → Spaces
  | .scratch => onlyScratch
  | .scratchHbm => scratchHbm
  | .withMmio => loadStore
  | .flags => flagSpaces

/-- The place of an access relative to the base of what its capability's cursor moves in (R55). -/
def reachPlace (r : GReg) (disp : Int) : Int := ((r.low.toNat % 2 ^ reachWidth r : Nat) : Int) + disp

theorem eva_eq (r : GReg) (disp : Int) : r.eva disp = (BitVec.ofInt 64 ((r.low.toNat : Int) + disp)).toNat := by
  rw [BitVec.toNat_ofInt]
  rfl

theorem gaAddr_eva (r : GReg) (disp : Int) : gaAddr (r.eva disp) = (((r.low.toNat : Int) + disp) % 2 ^ 44).toNat := by
  simp only [gaAddr, bits, GReg.eva, wrapInt]
  omega

theorem offsetWidth_of_plain {r : GReg} (hw : wovenCap r = false) : r.kind.offsetWidth = reachWidth r := by
  rw [kind_of_plain hw, reachWidth]
  generalize space r = n
  match n with
  | 0 | 1 | 2 | _ + 3 => rfl

/-- The access lies outside the capability's bounds. -/
def outside (r : GReg) (disp : Int) (size : Nat) : Prop :=
  reachPlace r disp < (baseLen r).1 ∨ (baseLen r).1 + (baseLen r).2 < reachPlace r disp + size

theorem reach_outside {r : GReg} (hw : wovenCap r = false) {pkg size : Nat} {disp : Int} (h : outside r disp size) :
    r.reach pkg disp size = .bounds := by
  have hk : r.kind ≠ .woven := by rw [ne_eq, kind_eq_woven_iff, hw]; exact Bool.false_ne_true
  unfold outside reachPlace at h
  rw [← offsetWidth_of_plain hw, ← bounds_eq] at h
  unfold GReg.reach
  generalize r.kind = k at hk h
  cases k with
  | woven => exact absurd rfl hk
  | tile | hbm | mmio | bad => exact if_pos h

theorem reach_inside {r : GReg} (hw : wovenCap r = false) {pkg size : Nat} {disp : Int} (h : ¬outside r disp size) :
    r.reach pkg disp size =
      .ok (localise pkg (r.low.toNat / 2 ^ reachWidth r * 2 ^ reachWidth r + (reachPlace r disp).toNat)) := by
  have hk : r.kind ≠ .woven := by rw [ne_eq, kind_eq_woven_iff, hw]; exact Bool.false_ne_true
  unfold outside reachPlace at h
  unfold reachPlace
  rw [← offsetWidth_of_plain hw, ← bounds_eq] at h
  rw [← offsetWidth_of_plain hw]
  unfold GReg.reach
  generalize r.kind = k at hk h
  cases k with
  | woven => exact absurd rfl hk
  | tile | hbm | mmio | bad => exact if_neg h

theorem reachPlace_nonneg {r : GReg} {disp : Int} {size : Nat} (h : ¬outside r disp size) : 0 ≤ reachPlace r disp :=
  (Int.natCast_nonneg _).trans (not_lt.mp (not_or.mp h).1)

theorem localise_mod_of_dvd {n : Nat} (hn : n ∣ 2 ^ 44) (pkg x : Nat) : localise pkg x % 2 ^ 44 % n = x % n := by
  rw [Nat.mod_mod_of_dvd _ hn, localise_eq]
  split_ifs
  · obtain ⟨k, hk⟩ := hn
    rw [show 2 ^ 63 + x % 2 ^ 46 = n * (k * 2 ^ 19) + x % 2 ^ 46 by rw [← Nat.mul_assoc, ← hk]; norm_num, Nat.mul_add_mod,
      Nat.mod_mod_of_dvd _ (Dvd.intro _ hk.symm |>.trans (pow_dvd_pow 2 (by norm_num)))]
  · rfl

theorem place_aligned_of_dvd {r : GReg} {disp : Int} {n : Nat} (hn : n ∣ 2 ^ reachWidth r) (hpos : 0 ≤ reachPlace r disp)
    (h : (r.low.toNat / 2 ^ reachWidth r * 2 ^ reachWidth r + (reachPlace r disp).toNat) % n = 0) : reachPlace r disp % n = 0 := by
  rw [Nat.add_mod, Nat.mod_eq_zero_of_dvd (hn.mul_left _), Nat.zero_add, Nat.mod_mod] at h
  rw [← Int.toNat_of_nonneg hpos]
  exact_mod_cast h

theorem dvd_two_pow_reachWidth {n : Nat} (hn : n ∣ 2 ^ 32) (r : GReg) : n ∣ 2 ^ reachWidth r :=
  hn.trans (pow_dvd_pow 2 (by unfold reachWidth; split_ifs <;> norm_num))

section
variable {s : State} {a : GIx} {need size : Nat} {sp : Spaces} {row : Row} {disp : Int}

theorem first_addrOpnd (th : Thread) : (addrOpnd th a need sp size disp).first = (th.rd a).eva disp := rfl

theorem spaceOk_iff_spaceAllowed (hw : wovenCap (s.cur.rd a) = false) :
    (addrOpnd s.cur a need (rowSpaces row) size disp).spaceOk s.pkg = true ↔ spaceAllowed s row (s.cur.rd a) disp size := by
  have hreg : (addrOpnd s.cur a need (rowSpaces row) size disp).reg = s.cur.rd a := rfl
  have hsp : (addrOpnd s.cur a need (rowSpaces row) size disp).sp = rowSpaces row := rfl
  have helems : (addrOpnd s.cur a need (rowSpaces row) size disp).elems = [{ off := disp, size := size }] := rfl
  rw [Opnd.spaceOk, first_addrOpnd, gaAddr_eva, hreg, hsp, helems, kind_of_plain hw]
  unfold spaceAllowed
  dsimp only
  rw [← near_iff]
  generalize space (s.cur.rd a) = n
  match n with
  | 0 | 1 | 2 => cases row <;> simp [kindOfSpace, rowSpaces, onlyScratch, scratchHbm, loadStore, flagSpaces]
  | _ + 3 => cases row <;> simp [kindOfSpace]

/-! The checks of one operand in their order. -/

theorem checks_of_tagFault {o : Opnd} {poison : Option Nat} {x : Nat × Nat} (h : tagFault [o] = some x) :
    s.checks [o] poison = .error x := by
  simp only [State.checks, h]

theorem tagFault_cap {o : Opnd} (h : o.reg.tag = .cap) : tagFault [o] = none := by
  simp [tagFault, GReg.isPoison, GReg.isCap, h]

theorem tagFault_data {o : Opnd} (h : o.reg.tag = .data) : tagFault [o] = some (causeNotCap, o.field) := by
  simp [tagFault, GReg.isPoison, GReg.isCap, h]

theorem tagFault_poison {o : Opnd} (h : o.reg.tag = .poison) : tagFault [o] = some (causePoison, classOf o.reg) := by
  simp [tagFault, GReg.isPoison, h, cls_of_poison]

theorem checks_ungranted {o : Opnd} (hcap : o.reg.tag = .cap) (hg : o.reg.grants o.need = false) :
    s.checks [o] none = .error (causePerm, o.first) := by
  simp [State.checks, tagFault_cap hcap, hg]

/-- What an operand meets of the first three checks: tag, rights, mode. -/
structure Entitled (s : State) (o : Opnd) : Prop where
  cap : o.reg.tag = .cap
  granted : o.reg.grants o.need = true
  mode : ¬(o.reg.kind = .mmio ∧ s.cur.priv = false)

theorem checks_user {o : Opnd} (hcap : o.reg.tag = .cap) (hg : o.reg.grants o.need = true)
    (hmode : o.reg.kind = .mmio ∧ s.cur.priv = false) : s.checks [o] none = .error (causePriv, s.headTail) := by
  simp [State.checks, tagFault_cap hcap, hg, hmode.1, hmode.2]

theorem Entitled.modeChecked {o : Opnd} (h : Entitled s o) : (!s.cur.priv && o.reg.kind == .mmio) = false := by
  rw [Bool.and_eq_false_imp]
  exact fun hp => beq_eq_false_iff_ne.mpr fun hk => h.mode ⟨hk, by simpa using hp⟩

theorem Entitled.checks_space {o : Opnd} (h : Entitled s o) (hs : o.spaceOk s.pkg = false) :
    s.checks [o] none = .error (causePerm, o.first) := by
  simp [State.checks, tagFault_cap h.cap, h.granted, h.modeChecked, hs]

theorem Entitled.checks_target {o : Opnd} {x : Nat × Nat} (h : Entitled s o) (hs : o.spaceOk s.pkg = true)
    (ht : targetsAll s.pkg [o] = .error x) : s.checks [o] none = .error x := by
  simp [State.checks, tagFault_cap h.cap, h.granted, h.modeChecked, hs, ht]

theorem Entitled.checks_align {o : Opnd} {rs : List (List (Elem × Nat × Bool))} {x : Nat} (h : Entitled s o)
    (hs : o.spaceOk s.pkg = true) (ht : targetsAll s.pkg [o] = .ok rs) (hx : misaligned [o] rs = some x) :
    s.checks [o] none = .error (causeAlign, x) := by
  simp [State.checks, tagFault_cap h.cap, h.granted, h.modeChecked, hs, ht, hx]

theorem targetsAll_bounds (th : Thread) {pkg : Nat} (h : (th.rd a).reach pkg disp size = .bounds) :
    targetsAll pkg [addrOpnd th a need sp size disp] = .error (causeBounds, (th.rd a).eva disp) := by
  simp only [targetsAll, addrOpnd, Opnd.targets, h]

theorem targetsAll_ok (th : Thread) {pkg ga : Nat} (h : (th.rd a).reach pkg disp size = .ok ga) :
    targetsAll pkg [addrOpnd th a need sp size disp] =
      .ok [[({ off := disp, size := size }, ga, ga % 2 ^ 44 % size != 0 % size)]] := by
  simp only [targetsAll, addrOpnd, Opnd.targets, h]

theorem misaligned_addrOpnd (th : Thread) {ga : Nat} (h : ga % 2 ^ 44 % size ≠ 0) :
    misaligned [addrOpnd th a need sp size disp] [[({ off := disp, size := size }, ga, ga % 2 ^ 44 % size != 0 % size)]] =
      some ((th.rd a).eva disp) := by
  have hodd : (ga % 2 ^ 44 % size != 0 % size) = true := by rw [Nat.zero_mod]; exact bne_iff_ne.mpr h
  rw [hodd]
  rfl

/-- An instruction that traps where its checks fail makes those of R156 in their order. -/
theorem checkTraps_of_checks {out : Host.Outcome State Fault Refusal} (hsize : size ∣ 2 ^ 32)
    (hout : ∀ c v, s.checks [addrOpnd s.cur a need (rowSpaces row) size disp] none = .error (c, v) → out = s.trap c v) :
    checkTraps s a need row disp size out := by
  refine ⟨fun htag => ?_, fun htag => ?_, fun htag hw => ⟨fun hg => ?_, fun hg => ⟨fun hmode => ?_, fun hmode => ?_⟩⟩⟩
  · exact hout _ _ (checks_of_tagFault (tagFault_data htag))
  · exact hout _ _ (checks_of_tagFault (tagFault_poison htag))
  · rw [← eva_eq]
    exact hout _ _ (checks_ungranted htag hg)
  · exact hout _ _ (checks_user htag hg (hmode.imp_left (kind_eq_mmio_iff _).mpr))
  rw [← eva_eq]
  have hent : Entitled s (addrOpnd s.cur a need (rowSpaces row) size disp) :=
    ⟨htag, hg, mt (And.imp_left (kind_eq_mmio_iff _).mp) hmode⟩
  refine ⟨fun hs => ?_, fun hs => ⟨fun hb => ?_, fun hb hal => ?_⟩⟩
  · rw [← spaceOk_iff_spaceAllowed hw (need := need), Bool.not_eq_true] at hs
    exact hout _ _ (hent.checks_space hs)
  · exact hout _ _ (hent.checks_target ((spaceOk_iff_spaceAllowed hw).mpr hs) (targetsAll_bounds _ (reach_outside hw hb)))
  · refine hout _ _ (hent.checks_align ((spaceOk_iff_spaceAllowed hw).mpr hs) (targetsAll_ok _ (reach_inside hw hb))
      (misaligned_addrOpnd _ fun h => hal ?_))
    rw [localise_mod_of_dvd (hsize.trans (pow_dvd_pow 2 (by norm_num)))] at h
    exact place_aligned_of_dvd (dvd_two_pow_reachWidth hsize _) (reachPlace_nonneg hb) h

end

/-! ## The instructions that make the checks -/

theorem blocking_of_error {s : State} {o : Opnd} {poison : Option Nat} {c v : Nat} (h : s.checks [o] poison = .error (c, v))
    (i : Instr) (need : Bool × Bool) (k : Nat) (opnd : Word) (ask : Nat → Flit) (fin : Thread → Thread) :
    s.blocking i o poison need k opnd ask fin = s.trap c v := by
  rw [State.blocking, h]

theorem posted_of_error {s : State} {o : Opnd} {poison : Option Nat} {c v : Nat} (h : s.checks [o] poison = .error (c, v))
    (opnd : Word) (msg : Nat → Flit) (fin : Thread → Thread) : s.posted o none poison opnd msg fin = s.trap c v := by
  rw [State.posted, Option.toList_none, h]

theorem synchronising_of_clear {s : State} (h : s.cur.afp = false) (act : Host.Outcome State Fault Refusal) :
    s.synchronising act = act := by
  rw [State.synchronising, h, if_neg Bool.false_ne_true]

theorem feAccess_of_error {s : State} {a : GIx} {off : BitVec 19} {c v : Nat} (hafp : s.cur.afp = false)
    (h : s.checks [feOpnd s.cur a off] none = .error (c, v)) (i : Instr) (full : Bool) (opnd : Word) (ask : Flit)
    (fin : Thread → Thread) : s.feAccess i a off full opnd ask fin = s.trap c v := by
  rw [State.feAccess, synchronising_of_clear hafp]
  dsimp only
  rw [h]
  exact blocking_of_error h ..

theorem fsig_of_error {s : State} {a : GIx} {off : BitVec 19} {c v : Nat}
    (h : s.checks [addrOpnd s.cur a permFL flagSpaces 8 (off19 off)] none = .error (c, v)) (b : GIx) :
    execFsig a b off s = s.trap c v := by
  rw [execFsig, h]

theorem off19_eq_toInt (off : BitVec 19) : off19 off = off.toInt := by
  rw [off19, sgn_eq_toInt, BitVec.ofNat_toNat, BitVec.setWidth_eq]

theorem off16_eq_toInt (off : BitVec 16) : off16 off = off.toInt := by
  rw [off16, sgn_eq_toInt, BitVec.ofNat_toNat, BitVec.setWidth_eq]

theorem atomWidth_dvd (ty : AtomTy) : atomWidth ty ∣ 2 ^ 32 := by
  cases ty <;> decide

section
variable (s : State) (a : GIx)

theorem checkTraps_postedAtomic (fn : AtomFn) (ty : AtomTy) (b : GIx) (off : BitVec 16) :
    checkTraps s a 4 .scratchHbm off.toInt (atomWidth ty) (s.postedAtomic fn ty a b 0 off) := by
  rw [← off16_eq_toInt]
  exact checkTraps_of_checks (atomWidth_dvd ty) fun c v h => by
    rw [State.postedAtomic]
    exact posted_of_error h ..

theorem checkTraps_returning (hafp : s.cur.afp = false) (i : Instr) (fn : AtomFn) (ty : AtomTy) (d b : GIx) (z : GReg) (off : BitVec 16) :
    checkTraps s a 7 .scratchHbm off.toInt (atomWidth ty) (s.returning i fn ty d a b z off) := by
  rw [← off16_eq_toInt]
  refine checkTraps_of_checks (atomWidth_dvd ty) fun c v h => ?_
  rw [State.returning, synchronising_of_clear hafp]
  exact blocking_of_error h ..

theorem checkTraps_feAccess (hafp : s.cur.afp = false) (i : Instr) (off : BitVec 19) (full : Bool) (opnd : Word) (ask : Flit)
    (fin : Thread → Thread) : checkTraps s a 16 .scratch off.toInt 8 (s.feAccess i a off full opnd ask fin) := by
  rw [← off19_eq_toInt]
  exact checkTraps_of_checks (by decide) fun c v h => feAccess_of_error hafp h ..

end

/-- Settles O43: every instruction of the list traps where the checks of its one operand fail. -/
theorem accessChecks : Obligations.AccessChecks := by
  intro s d a b c m off off16
  rw [← mOff_eq_dispM, ← off19_eq_toInt off]
  refine ⟨fun z sz => ?_, fun sz => ?_, fun sz => ?_, ?_, ?_, fun ty i hi => ?_, fun hafp ty i hi => ?_, fun hafp => ?_, fun full => ?_,
    ?_, ?_, ?_⟩
  · exact checkTraps_of_checks (size_dvd sz) fun c v h => blocking_of_error h ..
  · exact checkTraps_of_checks (size_dvd sz) fun c v h => show execSt sz d a m s = _ by
      rw [execSt]
      exact posted_of_error h ..
  · exact checkTraps_of_checks (size_dvd sz) fun c v h => show execPutf sz d a 0 m s = _ by
      rw [execPutf]
      exact posted_of_error h ..
  · exact checkTraps_of_checks (by decide) fun c v h => blocking_of_error h ..
  · exact checkTraps_of_checks (by decide) fun c v h => show execStcap d a m s = _ by
      rw [execStcap]
      exact posted_of_error h ..
  · simp only [List.mem_cons, List.not_mem_nil, or_false] at hi
    obtain rfl | rfl | rfl | rfl | rfl | rfl := hi <;> exact checkTraps_postedAtomic s a _ ty b off16
  · simp only [List.mem_cons, List.not_mem_nil, or_false] at hi
    obtain rfl | rfl | rfl := hi <;> exact checkTraps_returning s a hafp _ _ ty d b _ off16
  · rw [off19_eq_toInt]
    exact ⟨checkTraps_feAccess s a hafp .., checkTraps_feAccess s a hafp ..⟩
  · exact checkTraps_of_checks (by decide) fun c v h => show execFeset full a off s = _ from posted_of_error h ..
  · exact checkTraps_of_checks (by decide) fun c v h => fsig_of_error h b
  · exact checkTraps_of_checks (by decide) fun c v h => blocking_of_error h ..
  · exact checkTraps_of_checks (by decide) fun c v h => show execPoison a off s = _ from posted_of_error h ..

end Sys2Proof.Machine

namespace Sys2Proof.Machine
open Sys2Proof.Claims

/-! ## What an access leaves of its own thread's turn (R18, R177, R210) -/

/-- The turn goes on: its tile, its thread and what the thread holds are the same. -/
structure SameTurn (s u : State) : Prop where
  pkg : u.pkg = s.pkg
  curTile : u.curTile = s.curTile
  curThr : u.curThr = s.curThr
  cur : u.cur = s.cur

section
variable {s u v : State}

theorem SameTurn.refl : SameTurn s s := ⟨rfl, rfl, rfl, rfl⟩

theorem SameTurn.trans (hu : SameTurn s u) (hv : SameTurn u v) : SameTurn s v :=
  ⟨hv.pkg.trans hu.pkg, hv.curTile.trans hu.curTile, hv.curThr.trans hu.curThr, hv.cur.trans hu.cur⟩

theorem SameTurn.of_tiles (ht : u.tiles = s.tiles) (hp : u.pkg = s.pkg) (hc : u.curTile = s.curTile) (hh : u.curThr = s.curThr) :
    SameTurn s u :=
  ⟨hp, hc, hh, by rw [State.cur, State.thr, State.tile, ht, hc, hh]; rfl⟩

theorem SameTurn.of_unseen (h : Unseen s.curTile s.curThr s u) : SameTurn s u :=
  ⟨h.pkg, h.curTile, h.curThr, by rw [State.cur, h.curTile, h.curThr, h.thr]; rfl⟩

theorem SameTurn.wait (h : SameTurn s u) (hw : s.cur.wait = .none) : u.cur.wait = .none := h.cur ▸ hw

end

/-! What touches only memory leaves the turn. -/

section
variable (s : State)

theorem sameTurn_mem (m : SMap Byte) : SameTurn s { s with mem := m } := .of_tiles rfl rfl rfl rfl
theorem sameTurn_evo (e : Evodon) : SameTurn s { s with evo := e } := .of_tiles rfl rfl rfl rfl
theorem sameTurn_keyOf (k : SMap Nat) : SameTurn s { s with keyOf := k } := .of_tiles rfl rfl rfl rfl
theorem sameTurn_errUnc (l : List Nat) : SameTurn s { s with errUnc := l } := .of_tiles rfl rfl rfl rfl
theorem sameTurn_errOne (l : List Nat) : SameTurn s { s with errOne := l } := .of_tiles rfl rfl rfl rfl
theorem sameTurn_errors (l m : List Nat) : SameTurn s { s with errUnc := l, errOne := m } := .of_tiles rfl rfl rfl rfl
theorem sameTurn_batch (l : Option (List (Nat × Nat × WaitMon × Option Nat))) : SameTurn s { s with batch := l } :=
  .of_tiles rfl rfl rfl rfl
theorem sameTurn_setPoisoned (a : Nat) (b : Bool) : SameTurn s (s.setPoisoned a b) := .of_tiles rfl rfl rfl rfl
theorem sameTurn_setTagAt (a : Nat) (b : Bool) : SameTurn s (s.setTagAt a b) := .of_tiles rfl rfl rfl rfl

end

section
variable {s v : State} (hv : SameTurn s v)
include hv

theorem SameTurn.setBytes (a : Nat) (bs : List Byte) : SameTurn s (v.setBytes a bs) := by
  obtain ⟨m, hm⟩ := setBytes_eq bs v a
  rw [hm]
  exact hv.trans (sameTurn_mem v m)

theorem SameTurn.setPoisoned (a : Nat) (b : Bool) : SameTurn s (v.setPoisoned a b) := hv.trans (sameTurn_setPoisoned v a b)

theorem SameTurn.setTagAt (a : Nat) (b : Bool) : SameTurn s (v.setTagAt a b) := hv.trans (sameTurn_setTagAt v a b)

theorem SameTurn.markPoison (a c : Nat) : SameTurn s (v.markPoison a c) := (hv.setBytes _ _).setPoisoned a true

theorem SameTurn.markBurst (a c n : Nat) : SameTurn s (v.markBurst a c n) := by
  induction n generalizing v with
  | zero => exact hv
  | succ n ih =>
    unfold State.markBurst
    exact ih (hv.markPoison (a + 8 * n) c)

theorem SameTurn.charge (k u a : Nat) : SameTurn s (v.charge k u a) := by
  obtain ⟨e, he, -⟩ := charge_frame v k u a
  rw [he]
  exact hv.trans (sameTurn_evo v e)

theorem SameTurn.detect (a : Nat) : SameTurn s (v.detect a) := by
  unfold State.detect
  split
  · exact (((hv.markPoison _ 1).markPoison _ 1).setTagAt a false).trans (sameTurn_errors _ _ _)
  split
  · split
    · exact (hv.markPoison a 1).trans (sameTurn_errUnc _ _)
    · exact (hv.markBurst _ 2 8).trans (sameTurn_errUnc _ _)
  split
  · exact SameTurn.charge (hv.trans (sameTurn_errOne v _)) _ _ a
  · exact hv

theorem SameTurn.rekey (key a : Nat) : SameTurn s (v.rekey key a) := by
  unfold State.rekey
  split
  · exact hv
  split
  · exact hv
  · exact (hv.setBytes _ _).trans (sameTurn_keyOf _ _)

theorem SameTurn.prewrite (key a : Nat) (whole : Bool) : SameTurn s (v.prewrite key a whole) := by
  refine SameTurn.setTagAt (SameTurn.rekey ?_ key a) a false
  split
  · exact hv.trans (sameTurn_errors v _ _)
  · exact hv.detect a

theorem SameTurn.put (key a n x mark : Nat) : SameTurn s (v.put key a n x mark) := by
  have hpre := hv.prewrite key a (n == 8)
  unfold State.put
  dsimp only
  split
  · exact hpre.markPoison a _
  split
  · exact hpre
  · exact hpre.setBytes a _

theorem SameTurn.setMasked (a mask : Nat) (bs : List Byte) : SameTurn s (v.setMasked a mask bs) := by
  induction bs generalizing v a mask with
  | nil => exact hv
  | cons b bs ih =>
    refine ih ?_ _ _
    split
    · exact hv.trans (sameTurn_mem v _)
    · exact hv

theorem SameTurn.putMasked (key a : Nat) (bs : List Byte) (mask mark : Nat) : SameTurn s (v.putMasked key a bs mask mark) := by
  have hpre := hv.prewrite key a (mask % 256 == 255)
  unfold State.putMasked
  split
  · exact hv
  dsimp only
  split
  · exact hpre.markPoison a _
  split
  · exact hpre
  · exact hpre.setMasked a mask _

theorem SameTurn.putWords (key a : Nat) (bs : List Byte) (mask : Nat) (marks : List Nat) (n : Nat) :
    SameTurn s (v.putWords key a bs mask marks n) := by
  induction n generalizing v a bs mask marks with
  | zero => exact hv
  | succ n ih => exact ih (hv.putMasked key a bs mask _) _ _ _ _

theorem SameTurn.collect : SameTurn s v.collect := hv.trans (sameTurn_batch v _)

end

/-! What wakes the waiters of a word leaves a turn whose thread does not wait. -/

section
variable {s v : State} (hw : s.cur.wait = .none) (hv : SameTurn s v)
include hw hv

theorem SameTurn.touch (a : Nat) : SameTurn s (v.touch a) := hv.trans (.of_unseen (Unseen.touch (hv.wait hw) .refl a))

theorem SameTurn.wakeBy (t h : Nat) (m : WaitMon) (cls : Option Nat) : SameTurn s (v.wakeBy t h m cls) := by
  by_cases hself : v.curTile = t ∧ v.curThr = h
  · obtain ⟨rfl, rfl⟩ := hself
    have hwait : (v.thr v.curTile v.curThr).wait = .none := hv.wait hw
    simp only [State.wakeBy, hwait]
    exact hv
  · exact hv.trans (.of_unseen (Unseen.wakeBy .refl hself m cls))

theorem SameTurn.wakeAll : SameTurn s v.wakeAll := by
  unfold State.wakeAll
  dsimp only
  generalize List.filter _ (v.batch.getD []) = l
  have hstart : SameTurn s ({ v with batch := none } : State) := hv.trans (sameTurn_batch v none)
  generalize ({ v with batch := none } : State) = u at hstart
  induction l generalizing u with
  | nil => exact hstart
  | cons x l ih => exact ih _ (SameTurn.wakeBy hw hstart ..)

theorem SameTurn.together {act : State → State} (hact : ∀ u, SameTurn s u → SameTurn s (act u)) : SameTurn s (v.together act) := by
  unfold State.together
  split
  · exact hact v hv
  · exact (hact _ hv.collect).wakeAll hw

theorem SameTurn.look (a : Nat) : SameTurn s (v.look a) := by
  have hseen := hv.detect a
  unfold State.look
  dsimp only
  split <;> split
  · exact hseen
  · exact hseen.touch hw a
  · exact hseen.touch hw _
  · exact (hseen.touch hw a).touch hw _

theorem SameTurn.lookWords (a n : Nat) : SameTurn s (v.lookWords a n) := by
  induction n generalizing v a with
  | zero => exact hv
  | succ n ih => exact ih (hv.look hw a) _

theorem SameTurn.touchWords (a n : Nat) : SameTurn s (v.touchWords a n) := by
  induction n generalizing v a with
  | zero => exact hv
  | succ n ih => exact ih (hv.touch hw a) _

theorem SameTurn.touchMasked (a mask n : Nat) : SameTurn s (v.touchMasked a mask n) := by
  induction n generalizing v a mask with
  | zero => exact hv
  | succ n ih =>
    refine ih ?_ _ _
    split
    · exact hv
    · exact hv.touch hw a

theorem SameTurn.touchPair (u : State) (a : Nat) : SameTurn s (v.touchPair u a) := by
  unfold State.touchPair
  split
  · exact hv.touch hw _
  · exact hv

theorem SameTurn.touchPairs (u : State) (a mask n : Nat) : SameTurn s (v.touchPairs u a mask n) := by
  induction n generalizing v a mask with
  | zero => exact hv
  | succ n ih =>
    refine ih ?_ _ _
    split
    · exact hv
    · exact hv.touchPair hw u a

theorem SameTurn.store (key a n x mark : Nat) : SameTurn s (v.store key a n x mark) :=
  ((hv.put key a n x mark).touch hw a).touchPair hw v a

theorem SameTurn.storeCap (key a lo hi mark : Nat) (tagged : Bool) : SameTurn s (v.storeCap key a lo hi mark tagged) := by
  have hput := (hv.put key a 8 lo mark).put key (a + 8) 8 hi mark
  unfold State.storeCap
  refine SameTurn.touchWords hw ?_ a 2
  split
  · exact hput.setTagAt a true
  · exact hput

theorem SameTurn.signalAt (a n c o : Nat) : SameTurn s (v.signalAt a n c o) := by
  have hlook := hv.look hw (a / 8 * 8)
  unfold State.signalAt
  refine SameTurn.touch hw ?_ _
  split
  · exact hlook
  · exact (hlook.setTagAt _ false).setBytes _ _

end
end Sys2Proof.Machine

namespace Sys2Proof.Machine
open Sys2Proof.Claims

/-! ## A thread written twice -/

section
variable {α : Type} (d : α) (m : SMap α) (k : Nat)

theorem mdel_mdel_self : mdel (mdel m k) k = mdel m k := by
  induction m with
  | nil => rfl
  | cons x m ih =>
    obtain ⟨j, v⟩ := x
    by_cases h : j = k <;> simp [mdel, h, ih]

theorem mdel_mins_self (v : α) : mdel (mins m k v) k = mdel m k := by
  induction m with
  | nil => simp [mins, mdel]
  | cons x m ih =>
    obtain ⟨j, w⟩ := x
    by_cases hk : k < j
    · simp [mins, mdel, hk]
    · by_cases hj : j = k <;> simp [mins, mdel, hk, hj, ih]

theorem mset_mset_self [DecidableEq α] (v w : α) : mset d (mset d m k v) k w = mset d m k w := by
  have hdel : mdel (mset d m k v) k = mdel m k := by
    unfold mset mput
    split
    · exact mdel_mdel_self m k
    · rw [mdel_mins_self, mdel_mdel_self]
  simp only [mset, mput] at hdel ⊢
  rw [hdel]

end

theorem setThread_setThread (x : Tile) (h : Nat) (y z : Thread) : (x.setThread h y).setThread h z = x.setThread h z := by
  simp only [Tile.setThread, mset_mset_self]

theorem setThr_setThr (s : State) (t h : Nat) (x y : Thread) : (s.setThr t h x).setThr t h y = s.setThr t h y := by
  rw [State.setThr, setThr_tile_self, setThread_setThread]
  simp only [State.setThr, State.setTile, mset_mset_self]

theorem setCur_setCur (s : State) (x y : Thread) : (s.setCur x).setCur y = s.setCur y := setThr_setThr s _ _ x y

/-! ## An instruction that retires after its access -/

/-- The thread of an access as its last step finds it: the words that it has been served with are with it. -/
def State.servedWith (s : State) (l : List (Nat × Nat × Nat)) : Thread := { s.cur with served := l }

section
variable {s u : State}

theorem setCur_retired {t th : Thread} (hu : SameTurn s u)
    (hth : th = { t with pc := s.cur.succ, retired := s.cur.retired + 1, served := [], retryBanks := [], walkEnds := [] }) :
    u.setCur th = retireIn u s t := by
  rw [retireIn, State.setCur, hu.curTile, hu.curThr, hth]

theorem retire_eq {t : Thread} (hsucc : t.succ = s.cur.succ) (hret : t.retired = s.cur.retired) :
    t.retire = { t with pc := s.cur.succ, retired := s.cur.retired + 1, served := [], retryBanks := [], walkEnds := [] } := by
  rw [← hsucc, ← hret]
  rfl

end

/-! ## Own-tile accesses in one pass (R17-R19) -/

/-- The accesses of a blocking instruction performed in one pass: what they give, and the state after them. -/
def State.servePass (s : State) (ask : Nat → Flit) (tg : List (Elem × Nat)) : List (Nat × Nat × Nat) × State :=
  if tg.length ≤ 1 ∨ s.batch.isSome = true then s.performOwn ask tg
  else ((s.collect.performOwn ask tg).1, (s.collect.performOwn ask tg).2.wakeAll)

/-- The accesses of a posted instruction performed in one pass. -/
def State.storePass (s : State) (msg : Nat → Flit) (tg : List (Elem × Nat)) : State :=
  if tg.length ≤ 1 then s.performStores msg none tg else s.together fun s => s.performStores msg none tg

/-- The targets lie in the thread's own scratchpad, no bank refuses them, and one pass serves them all. -/
structure OnePass (s : State) (tg : List (Elem × Nat)) : Prop where
  own : ∀ x ∈ tg, s.ownGa x.2 = true
  hbm : ∀ x ∈ tg, s.hbmGa x.2 = false
  free : s.refusing (tg.map fun x => gaOff x.2) = []
  pass : passOf tg = tg

section
variable {s : State} {tg : List (Elem × Nat)} {o : Opnd} {poison : Option Nat}

theorem OnePass.todo (h : OnePass s tg) : (tg.filter fun x => s.ownGa x.2 && (([] : List (Nat × Nat × Nat)).lookup x.1.idx).isNone) = tg :=
  List.filter_eq_self.mpr fun x hx => by simp [h.own x hx]

theorem OnePass.far (h : OnePass s tg) {u : State} (hpkg : u.pkg = s.pkg) (htile : u.curTile = s.curTile) :
    (tg.filter fun x => !u.ownGa x.2) = [] := by
  refine List.filter_eq_nil_iff.mpr fun x hx => ?_
  have hown := h.own x hx
  rw [State.ownGa, ← hpkg, ← htile] at hown
  rw [State.ownGa, hown]
  exact Bool.false_ne_true

theorem OnePass.noHbm (h : OnePass s tg) : (tg.any fun x => s.hbmGa x.2) = false :=
  List.any_eq_false.mpr fun x hx => by simp [h.hbm x hx]

theorem blocking_pass (hchecks : s.checks [o] poison = .ok [tg]) (h : OnePass s tg) (hserved : s.cur.served = [])
    {i : Instr} {need : Bool × Bool} {k : Nat} {opnd : Word} {ask : Nat → Flit} {fin : Thread → Thread}
    (hsame : SameTurn s (s.servePass ask tg).2) :
    s.blocking i o poison need k opnd ask fin =
      .next ((s.servePass ask tg).2.setCur (fin (s.servedWith (s.servePass ask tg).1))) := by
  have hp : (if tg.length ≤ 1 ∨ s.batch.isSome = true then s.performOwn ask tg
      else ((s.collect.performOwn ask tg).1, (s.collect.performOwn ask tg).2.wakeAll)) = s.servePass ask tg := rfl
  generalize s.servePass ask tg = p at hp hsame ⊢
  have hfar (x : Thread) : (tg.filter fun y => !(p.2.setCur x).ownGa y.2) = [] := h.far hsame.pkg hsame.curTile
  unfold State.blocking
  rw [hchecks]
  simp only [List.headD_cons, h.noHbm, Bool.false_eq_true, if_false, hserved, h.todo, h.free, h.pass, ne_eq, not_true_eq_false,
    lt_irrefl, hp, hsame.cur, List.nil_append, hfar, List.isEmpty_nil, if_true, setCur_cur, setCur_setCur]
  rfl

theorem posted_pass (hchecks : s.checks [o] poison = .ok [tg]) (h : OnePass s tg) (hserved : s.cur.served = [])
    {opnd : Word} {msg : Nat → Flit} {fin : Thread → Thread} (hsame : SameTurn s (s.storePass msg tg)) :
    s.posted o none poison opnd msg fin = .next ((s.storePass msg tg).setCur (fin s.cur)) := by
  have hu : (if tg.length ≤ 1 then s.performStores msg none tg else s.together fun s => s.performStores msg none tg) =
      s.storePass msg tg := rfl
  generalize s.storePass msg tg = u at hu hsame ⊢
  unfold State.posted
  rw [Option.toList_none, hchecks]
  simp only [List.headD_cons, h.noHbm, Bool.false_eq_true, if_false, hserved, h.todo, h.free, h.pass, ne_eq, not_true_eq_false,
    lt_irrefl, hu, h.far (u := s) rfl rfl, h.far hsame.pkg hsame.curTile, List.map_nil, List.foldl_nil, false_and, State.sendStores, hsame.cur]

/-- An operation that writes nothing signals its flag (log 23). -/
theorem posted_flag {fo : Opnd} {e : Elem} {ga : Nat} (hchecks : s.checks [o, fo] poison = .ok [[], [(e, ga)]])
    (hown : s.ownGa ga = true) {opnd : Word} {msg : Nat → Flit} {fin : Thread → Thread} :
    s.posted o (some fo) poison opnd msg fin = .next ((s.flagOwn ga 1 {}).setCur (fin (s.flagOwn ga 1 {}).cur)) := by
  have hbanks : s.refusing [] = [] := rfl
  unfold State.posted
  rw [Option.toList_some, hchecks]
  simp [hown, hbanks, State.performStores, State.sendStores, passOf]

end
end Sys2Proof.Machine

namespace Sys2Proof.Machine
open Sys2Proof.Claims

/-! ## Operands that name the own tile (R55, R155, R156) -/

/-- Global address of one access of an operand. -/
def Opnd.gaOf (o : Opnd) (pkg : Nat) (e : Elem) : Nat :=
  match o.reg.reach pkg e.off e.size with
  | .ok ga => ga
  | _ => 0

/-- The operand's capability is that of a tile and grants what is asked; each access lies where it allows, aligned. -/
structure OnTile (s : State) (o : Opnd) : Prop where
  cap : o.reg.tag = .cap
  granted : o.reg.grants o.need = true
  kind : o.reg.kind = .tile
  scratch : o.sp.scratch = true
  lands : ∀ e ∈ o.elems, ∃ ga, o.reg.reach s.pkg e.off e.size = .ok ga ∧ ga % 2 ^ 44 % o.align = e.back % o.align

section
variable {s : State} {o : Opnd} {ops : List Opnd}

theorem targets_of_reach {es : List Elem}
    (h : ∀ e ∈ es, ∃ ga, o.reg.reach s.pkg e.off e.size = .ok ga ∧ ga % 2 ^ 44 % o.align = e.back % o.align) :
    o.targets s.pkg es = .ok (es.map fun e => (e, o.gaOf s.pkg e, false)) := by
  induction es with
  | nil => rfl
  | cons e es ih =>
    obtain ⟨ga, hreach, halign⟩ := h e List.mem_cons_self
    have hga : o.gaOf s.pkg e = ga := by rw [Opnd.gaOf, hreach]
    simp only [Opnd.targets, hreach, ih fun x hx => h x (List.mem_cons_of_mem _ hx), halign, bne_self_eq_false, List.map_cons, hga]

theorem tagFault_of_caps (h : ∀ o ∈ ops, o.reg.tag = .cap) : tagFault ops = none := by
  induction ops with
  | nil => rfl
  | cons o ops ih =>
    have hcap := h o List.mem_cons_self
    rw [tagFault, GReg.isPoison, GReg.isCap, hcap]
    exact ih fun x hx => h x (List.mem_cons_of_mem _ hx)

/-- The targets of operands that all name the tile. -/
def targetsOf (pkg : Nat) (ops : List Opnd) : List (List (Elem × Nat × Bool)) :=
  ops.map fun o => o.elems.map fun e => (e, o.gaOf pkg e, false)

theorem targetsAll_of_onTile (h : ∀ o ∈ ops, OnTile s o) : targetsAll s.pkg ops = .ok (targetsOf s.pkg ops) := by
  induction ops with
  | nil => rfl
  | cons o ops ih =>
    rw [targetsAll, targets_of_reach (h o List.mem_cons_self).lands, ih fun x hx => h x (List.mem_cons_of_mem _ hx)]
    rfl

theorem misaligned_targetsOf (pkg : Nat) (ops : List Opnd) : misaligned ops (targetsOf pkg ops) = none := by
  induction ops with
  | nil => rfl
  | cons o ops ih =>
    have hfind : (o.elems.map fun e => (e, o.gaOf pkg e, false)).find? (fun x => x.2.2) = none := by simp
    rw [targetsOf, List.map_cons, misaligned, hfind]
    exact ih

/-- Operands that name the tile pass every check. -/
theorem checks_of_onTile (h : ∀ o ∈ ops, OnTile s o) :
    s.checks ops none = .ok (ops.map fun o => o.elems.map fun e => (e, o.gaOf s.pkg e - e.back)) := by
  have hgrants : (ops.find? fun o => !o.reg.grants o.need) = none :=
    List.find?_eq_none.mpr fun o ho => by simp [(h o ho).granted]
  have hmmio : (ops.any fun o => o.reg.kind == .mmio) = false :=
    List.any_eq_false.mpr fun o ho => by simp [(h o ho).kind]
  have hspace : (ops.find? fun o => !o.spaceOk s.pkg) = none :=
    List.find?_eq_none.mpr fun o ho => by simp [Opnd.spaceOk, (h o ho).kind, (h o ho).scratch]
  simp only [State.checks, tagFault_of_caps fun o ho => (h o ho).cap, hgrants, hmmio, hspace, targetsAll_of_onTile h,
    misaligned_targetsOf, Bool.and_false, Bool.false_eq_true, if_false]
  simp [targetsOf, Function.comp_def]

end

/-! ## What an operation comes to at its home -/

/-- What reading a pair gives. -/
def pairDone (p : ((Nat × Nat) × (Nat × Nat)) × Bool) : Done := { words := [p.1.1, p.1.2], tag := p.2 }

section
variable (s : State) (a : Nat) {f : Flit}

theorem performFlit_load (hf : f.op = .load) :
    s.performFlit 0 a f = ({ words := [(s.look a).readAt 0 a f.size] }, s.look a) := by
  unfold State.performFlit
  rw [hf]

theorem performFlit_loadv (hf : f.op = .loadv) :
    s.performFlit 0 a f =
      ({ words := (List.range 8).map fun i => (s.together fun s => s.lookWords a 8).readAt 0 (a + 8 * i) 8 },
        s.together fun s => s.lookWords a 8) := by
  unfold State.performFlit
  rw [hf]

theorem performFlit_loadcap (hf : f.op = .loadcap) :
    s.performFlit 0 a f = (pairDone ((s.together fun s => s.lookWords a 2).readCap 0 a), s.together fun s => s.lookWords a 2) := by
  unfold State.performFlit
  rw [hf]
  rfl

theorem performFlit_store (hf : f.op = .store) :
    (s.performFlit 0 a f).2 = s.store 0 a f.size (leNat f.data) (firstMark f.psn) := by
  unfold State.performFlit
  rw [hf]

theorem performFlit_storev (hf : f.op = .storev) :
    (s.performFlit 0 a f).2 = s.together fun s =>
      ((s.putWords 0 a f.data f.bmask f.psn 8).touchMasked a f.bmask 8).touchPairs s a f.bmask 8 := by
  unfold State.performFlit
  rw [hf]

theorem performFlit_storecap (hf : f.op = .storecap) :
    (s.performFlit 0 a f).2 = s.together fun s =>
      s.storeCap 0 a (leNat (f.data.take 8)) (leNat ((f.data.drop 8).take 8)) (firstMark f.psn) (f.tags == 1) := by
  unfold State.performFlit
  rw [hf]

end

/-! ## Targets in the own scratchpad -/

section
variable {s : State} {α : Type} {l : List α} {el : α → Elem} {o : α → Nat}

theorem map_gaOff_targets (el : α → Elem) {ga : α → Nat} (h : ∀ x ∈ l, gaOff (ga x) = o x) :
    (l.map fun x => (el x, ga x)).map (fun x => gaOff x.2) = l.map o := by
  rw [List.map_map]
  exact List.map_congr_left h

/-- Accesses at offsets of the own tile that no bank refuses, those of one bank in one row. -/
theorem onePass_of_places (ht : s.curTile < 4096) (ho : ∀ x ∈ l, o x < 2 ^ 19) (hfree : s.refusing (l.map o) = [])
    (hrow : ∀ x ∈ l, ∀ y ∈ l, Config.bankOf (o x) = Config.bankOf (o y) → o x / 64 = o y / 64) :
    OnePass s (l.map fun x => (el x, gaSpad s.curTile (o x))) := by
  have hoff : ∀ x ∈ l, gaOff (gaSpad s.curTile (o x)) = o x := fun x hx => gaOff_gaSpad _ (ho x hx)
  refine ⟨fun y hy => ?_, fun y hy => ?_, ?_, ?_⟩
  · obtain ⟨x, hx, rfl⟩ := List.mem_map.mp hy
    simp [ownGa_gaSpad ht (ho x hx)]
  · obtain ⟨x, hx, rfl⟩ := List.mem_map.mp hy
    exact hbmGa_gaSpad ht (ho x hx) s
  · rw [map_gaOff_targets el hoff, hfree]
  · refine List.filter_eq_self.mpr fun y hy => ?_
    split
    · next z hz =>
      obtain ⟨x, hx, rfl⟩ := List.mem_map.mp hy
      obtain ⟨x', hx', rfl⟩ := List.mem_map.mp (List.mem_of_find?_eq_some hz)
      have hbank := List.find?_some hz
      simp only [hoff x hx, hoff x' hx', beq_iff_eq] at hbank ⊢
      exact hrow x' hx' x hx hbank
    · rfl

theorem onePass_of_place {e : Elem} {k : Nat} (ht : s.curTile < 4096) (hk : k < 2 ^ 19) (hfree : s.refusing [k] = []) :
    OnePass s [(e, gaSpad s.curTile k)] :=
  onePass_of_places (l := [()]) (el := fun _ => e) (o := fun _ => k) ht (fun _ _ => hk) hfree fun _ _ _ _ _ => rfl

theorem served_of_free {os : List Nat} (h : free s os) : s.cur.served = [] := h.1
theorem wait_of_free {os : List Nat} (h : free s os) : s.cur.wait = .none := h.2.1
theorem refusing_of_free {os : List Nat} (h : free s os) : s.refusing os = [] := h.2.2

/-- A blocking instruction of one access to the own tile. -/
theorem blocking_single {op : Opnd} {e : Elem} {k : Nat} {poison : Option Nat} {u : State} {dn : Done} {ask : Nat → Flit}
    (hchecks : s.checks [op] poison = .ok [[(e, gaSpad s.curTile k)]]) (ht : s.curTile < 4096) (hk : k < 2 ^ 19) (hfree : free s [k])
    (hperform : s.performFlit 0 (spad s.curTile k) (ask e.idx) = (dn, u)) (hsame : SameTurn s u)
    {i : Instr} {need : Bool × Bool} {n : Nat} {opnd : Word} {fin : Thread → Thread} :
    s.blocking i op poison need n opnd ask fin = .next (u.setCur (fin (s.servedWith (entries e.idx dn)))) := by
  have hserve : s.servePass ask [(e, gaSpad s.curTile k)] = (entries e.idx dn, u) := by
    simp [State.servePass, State.performOwn, gaOff_gaSpad _ hk, hperform]
  rw [blocking_pass hchecks (onePass_of_place ht hk (refusing_of_free hfree)) (served_of_free hfree) (by rw [hserve]; exact hsame), hserve]

/-- A posted instruction of one access to the own tile. -/
theorem posted_single {op : Opnd} {e : Elem} {k : Nat} {u : State} {msg : Nat → Flit}
    (hchecks : s.checks [op] none = .ok [[(e, gaSpad s.curTile k)]]) (ht : s.curTile < 4096) (hk : k < 2 ^ 19) (hfree : free s [k])
    (hperform : (s.performFlit 0 (spad s.curTile k) (msg e.idx)).2 = u) (hsame : SameTurn s u) {opnd : Word} {fin : Thread → Thread} :
    s.posted op none none opnd msg fin = .next (u.setCur (fin s.cur)) := by
  have hstays : u.ownGa (gaSpad s.curTile k) = true := by
    rw [ownGa_gaSpad ht hk, hsame.curTile, decide_eq_true rfl]
  rw [← hsame.cur]
  exact posted_own hchecks (hbmGa_gaSpad ht hk s) (by rw [gaOff_gaSpad _ hk]; exact hperform)
    (by rw [ownGa_gaSpad ht hk, decide_eq_true rfl]) hstays (served_of_free hfree) (by rw [gaOff_gaSpad _ hk]; exact (refusing_of_free hfree))

end
end Sys2Proof.Machine

namespace Sys2Proof.Machine
open Sys2Proof.Claims

/-! ## The thread after an access (R91, R160) -/

theorem wr_served (t : Thread) (l : List (Nat × Nat × Nat)) (r : GIx) (x : GReg) :
    ({ t with served := l } : Thread).wr r x = { t.wr r x with served := l } := by
  unfold Thread.wr
  split <;> rfl

theorem postInc_served (t : Thread) (l : List (Nat × Nat × Nat)) (a : GIx) (m : BitVec 20) :
    ({ t with served := l } : Thread).postInc a m = { t.postInc a m with served := l } := by
  unfold Thread.postInc
  split
  · exact wr_served t l a _
  · rfl

theorem postInc_wv (t : Thread) (d : VIx) (q : VReg) (a : GIx) (m : BitVec 20) : (t.wv d q).postInc a m = (t.postInc a m).wv d q := by
  simp only [Thread.postInc, Thread.wr]
  split
  · split <;> rfl
  · rfl

theorem withCursor_eva (r : GReg) (disp : Int) :
    r.withCursor (BitVec.ofNat 64 (r.eva disp)) = moved r (.ofInt 64 ((r.low.toNat : Int) + disp)) := by
  rw [eva_eq, BitVec.ofNat_toNat, BitVec.setWidth_eq, GReg.withCursor, movable_of_kind]
  rfl

theorem memOff_eq (m : BitVec 20) : memOff m = (m.setWidth 19).toInt := by
  rw [memOff, sgn_eq_toInt, BitVec.ofNat_toNat]

theorem postInc_eq_incM (s : State) (a : GIx) (m : BitVec 20) : s.cur.postInc a m = incM s a m := by
  rw [Thread.postInc, memPi_eq, memOff_eq]
  dsimp only
  rw [withCursor_eva]
  rfl

theorem incM_succ (s : State) (a : GIx) (m : BitVec 20) : (incM s a m).succ = s.cur.succ := by
  unfold incM
  split
  · exact wr_succ _ _ _
  · rfl

theorem incM_retired (s : State) (a : GIx) (m : BitVec 20) : (incM s a m).retired = s.cur.retired := by
  unfold incM
  split
  · exact Thread.wr_retired _ _ _
  · rfl

theorem postInc_servedWith (s : State) (l : List (Nat × Nat × Nat)) (a : GIx) (m : BitVec 20) :
    (s.servedWith l).postInc a m = { incM s a m with served := l } := by
  rw [State.servedWith, postInc_served, postInc_eq_incM]

section
variable {s u : State} {t : Thread}

/-- The access has been made, and the thread retires as t. -/
theorem setCur_retire_served (hu : SameTurn s u) (hsucc : t.succ = s.cur.succ) (hret : t.retired = s.cur.retired)
    (l : List (Nat × Nat × Nat)) : u.setCur ({ t with served := l } : Thread).retire = retireIn u s t :=
  setCur_retired hu (retire_eq (s := s) (t := { t with served := l }) hsucc hret)

theorem setCur_retire (hu : SameTurn s u) (hsucc : t.succ = s.cur.succ) (hret : t.retired = s.cur.retired) :
    u.setCur t.retire = retireIn u s t := setCur_retired hu (retire_eq hsucc hret)

theorem setCur_retire_incM_wr (hu : SameTurn s u) (a d : GIx) (m : BitVec 20) (l : List (Nat × Nat × Nat)) (v : GReg) :
    u.setCur (((s.servedWith l).postInc a m).wr d v).retire = retireIn u s ((incM s a m).wr d v) := by
  rw [postInc_servedWith, wr_served]
  exact setCur_retire_served hu ((wr_succ _ _ _).trans (incM_succ s a m)) ((Thread.wr_retired _ _ _).trans (incM_retired s a m)) l

theorem setCur_retire_incM_wv (hu : SameTurn s u) (a : GIx) (d : VIx) (m : BitVec 20) (l : List (Nat × Nat × Nat)) (q : VReg) :
    u.setCur (((s.servedWith l).postInc a m).wv d q).retire = retireIn u s ((incM s a m).wv d q) := by
  rw [postInc_servedWith]
  exact setCur_retire_served (t := (incM s a m).wv d q) hu (incM_succ s a m) (incM_retired s a m) l

theorem setCur_retire_wv (hu : SameTurn s u) (d : VIx) (l : List (Nat × Nat × Nat)) (q : VReg) :
    u.setCur ((s.servedWith l).wv d q).retire = retireIn u s (s.cur.wv d q) :=
  setCur_retire_served (t := s.cur.wv d q) hu rfl rfl l

theorem setCur_retire_incM (hu : SameTurn s u) (a : GIx) (m : BitVec 20) :
    u.setCur (s.cur.postInc a m).retire = retireIn u s (incM s a m) := by
  rw [postInc_eq_incM]
  exact setCur_retire hu (incM_succ s a m) (incM_retired s a m)

end

/-! ## What a register receives (R40, R160, R162) -/

theorem mark_of_poisoned {s : State} {a : Nat} (h : s.poisoned a = true) : s.mark a = (s.byte (a / 8 * 8)).toNat + 1 := by
  rw [State.mark, if_pos h]

theorem mark_of_clean {s : State} {a : Nat} (h : s.poisoned a = false) : s.mark a = 0 := by
  rw [State.mark, h, if_neg Bool.false_ne_true]

theorem markedReg_clean (v ga : Nat) : markedReg v 0 ga = dataReg (BitVec.ofNat 64 v) := rfl

theorem markedReg_byte (v : Nat) (b : Byte) (ga : Nat) :
    markedReg v (b.toNat + 1) ga = { tag := .poison, body := BitVec.ofNat 64 (ga / 8 * 8) ++ BitVec.ofNat 64 b.toNat } := by
  have hlt := b.isLt
  rw [markedReg, if_neg (Nat.succ_ne_zero _), if_neg (by omega), Nat.add_sub_cancel, Nat.mod_eq_of_lt hlt, poisonVal,
    Nat.mod_eq_of_lt hlt]

theorem leNat_lt (l : List Byte) : leNat l < 256 ^ l.length := by
  induction l with
  | nil => simp [leNat]
  | cons b l ih =>
    have := b.isLt
    rw [leNat, List.length_cons, Nat.pow_succ']
    omega

theorem val_lt (s : State) (a n : Nat) : s.val a n < 2 ^ (8 * n) := by
  have := leNat_lt (s.bytes a n)
  rwa [bytes_length, show 256 = 2 ^ 8 from rfl, ← Nat.pow_mul] at this

theorem ofNat_wrapInt (i : Int) : BitVec.ofNat 64 (wrapInt 64 i) = BitVec.ofInt 64 i := by
  rw [← BitVec.toNat_inj, BitVec.toNat_ofInt, BitVec.toNat_ofNat, wrapInt]
  omega

theorem markedReg_ldValue (s : State) (z : Bool) (sz : Fin 4) (a ga : Nat) :
    markedReg (ldValue z sz (s.val a (2 ^ sz.val))) (s.mark a) ga = loaded s z a (2 ^ sz.val) ga := by
  cases h : s.poisoned a
  · rw [mark_of_clean h, markedReg_clean, loaded, h, if_neg Bool.false_ne_true]
    cases z
    · rw [ldValue, if_neg Bool.false_ne_true, if_neg Bool.false_ne_true, ofNat_wrapInt, sgn_eq_toInt]
    · rw [ldValue, if_pos rfl, if_pos rfl, Nat.mod_eq_of_lt (val_lt s a _)]
  · rw [mark_of_poisoned h, markedReg_byte, loaded, h, if_pos rfl]

/-! ## LD at the own tile -/

theorem got_servedWith (s : State) (l : List (Nat × Nat × Nat)) (e : Nat) : (s.servedWith l).got e = (l.lookup e).getD (0, 0) := rfl

theorem Reaches.ga {s : State} {a : GIx} {need k n : Nat} {disp : Int} (h : Reaches s a need s.curTile k n disp) (hn : 0 < n) {rights : Nat}
    {sp : Spaces} : (addrOpnd s.cur a rights sp n disp).ga s.pkg = gaSpad s.curTile k := by
  simp only [Opnd.ga, addrOpnd, h.reach hn]

theorem ld_own {s : State} {z : Bool} {sz : Fin 4} {d a : GIx} {m : BitVec 20} {k : Nat}
    (h : Reaches s a permLD s.curTile k (2 ^ sz.val) (dispM m)) (hfree : free s [k]) :
    exec (.ld z sz d a m) s = .next (retireIn (s.look (spad s.curTile k)) s ((incM s a m).wr d
      (loaded (s.look (spad s.curTile k)) z (spad s.curTile k) (2 ^ sz.val) (gaSpad s.curTile k)))) := by
  have hlook : SameTurn s (s.look (spad s.curTile k)) := SameTurn.look (wait_of_free hfree) .refl _
  change execLd z sz d a m s = _
  rw [execLd, ldOpnd, mOff_eq_dispM, blocking_single (h.checks (size_dvd sz) rfl) h.tile_lt h.lt hfree
    (performFlit_load s _ (f := { op := .load, size := 2 ^ sz.val }) rfl) hlook]
  refine congrArg Host.Outcome.next ?_
  generalize hl : entries _ _ = l
  have hga : (ldOpnd (s.servedWith l) sz a m).ga s.pkg = gaSpad s.curTile k := by
    rw [ldOpnd, mOff_eq_dispM]
    exact h.ga (Nat.two_pow_pos _)
  rw [ldFin, setCur_retire_incM_wr hlook, hga, got_servedWith, ← hl, readAt_spad _ (isSpad_spad _ _), ← markedReg_ldValue]
  rfl

end Sys2Proof.Machine

namespace Sys2Proof.Machine
open Sys2Proof.Claims

/-! ## LDCAP at the own tile (R166) -/

theorem leNat_append (xs ys : List Byte) : leNat (xs ++ ys) = leNat xs + 256 ^ xs.length * leNat ys := by
  induction xs with
  | nil => simp [leNat]
  | cons x xs ih =>
    rw [List.cons_append, leNat, leNat, ih, List.length_cons, Nat.pow_succ']
    ring

theorem bytes_add (s : State) (a m n : Nat) : s.bytes a (m + n) = s.bytes a m ++ s.bytes (a + m) n := by
  induction m generalizing a with
  | zero => simp [State.bytes]
  | succ m ih => rw [Nat.succ_add, State.bytes, ih, State.bytes, List.cons_append, Nat.add_assoc, Nat.add_comm 1 m]

theorem val_add (s : State) (a m n : Nat) : s.val a (m + n) = s.val a m + 256 ^ m * s.val (a + m) n := by
  rw [State.val, bytes_add, leNat_append, bytes_length, State.val, State.val]

/-- What LDCAP gives gD for the pair at flat address p, whose global address is ga (R166, log 105). -/
def capLoaded (s : State) (p ga : Nat) : GReg :=
  if s.poisoned p then { tag := .poison, body := BitVec.ofNat 64 ga ++ BitVec.ofNat 64 (s.byte p).toNat }
  else if s.poisoned (p + 8) then { tag := .poison, body := BitVec.ofNat 64 (ga + 8) ++ BitVec.ofNat 64 (s.byte (p + 8)).toNat }
  else if s.tagAt p then { tag := .cap, body := BitVec.ofNat 128 (s.val p 16) }
  else dataReg (.ofNat 64 (s.val p 8))

theorem readCap_spad (s : State) {p : Nat} (hp : isSpad p = true) (hp8 : isSpad (p + 8) = true) :
    s.readCap 0 p = (((s.val p 8, s.mark p), (s.val (p + 8) 8, s.mark (p + 8))), s.mark p == 0 && s.mark (p + 8) == 0 && s.tagAt p) := by
  simp only [State.readCap, readAt_spad s hp, readAt_spad s hp8]

theorem append_ofNat (x y : Nat) (hy : y < 2 ^ 64) : BitVec.ofNat 64 x ++ BitVec.ofNat 64 y = BitVec.ofNat 128 (y + 2 ^ 64 * x) := by
  rw [← BitVec.toNat_inj, BitVec.toNat_append, ← Nat.shiftLeft_add_eq_or_of_lt (BitVec.isLt _), Nat.shiftLeft_eq]
  simp only [BitVec.toNat_ofNat]
  omega

theorem mark_of_poisoned_word {s : State} {p : Nat} (hp : p % 8 = 0) (h : s.poisoned p = true) : s.mark p = (s.byte p).toNat + 1 := by
  rw [mark_of_poisoned h, show p / 8 * 8 = p by omega]

theorem markedReg_word (v : Nat) (b : Byte) {ga : Nat} (hga : ga % 8 = 0) :
    markedReg v (b.toNat + 1) ga = { tag := .poison, body := BitVec.ofNat 64 ga ++ BitVec.ofNat 64 b.toNat } := by
  rw [markedReg_byte, show ga / 8 * 8 = ga by omega]

theorem capOf_eq_capLoaded (s : State) {p ga : Nat} (hp : p % 8 = 0) (hga : ga % 8 = 0) :
    capOf (s.val p 8, s.mark p) (s.val (p + 8) 8, s.mark (p + 8)) (s.mark p == 0 && s.mark (p + 8) == 0 && s.tagAt p) ga =
      capLoaded s p ga := by
  have hp8 : (p + 8) % 8 = 0 := by omega
  have hga8 : (ga + 8) % 8 = 0 := by omega
  unfold capOf capLoaded
  cases hlo : s.poisoned p
  · cases hhi : s.poisoned (p + 8)
    · cases htag : s.tagAt p
      · simp [mark_of_clean hlo, mark_of_clean hhi]
      · have hval : s.val p 16 = s.val p 8 + 2 ^ 64 * s.val (p + 8) 8 := val_add s p 8 8
        simp [mark_of_clean hlo, mark_of_clean hhi, capReg, append_ofNat _ _ (val_lt s p 8), hval]
    · simp [mark_of_clean hlo, mark_of_poisoned_word hp8 hhi, markedReg_word _ _ hga8]
  · simp [mark_of_poisoned_word hp hlo, markedReg_word _ _ hga]

theorem capOf_pairDone (s : State) (p : ((Nat × Nat) × (Nat × Nat)) × Bool) (ga : Nat) :
    capOf ((s.servedWith (entries 0 (pairDone p))).got 0) ((s.servedWith (entries 0 (pairDone p))).got 1)
      (((s.servedWith (entries 0 (pairDone p))).got 2).1 == 1) ga = capOf p.1.1 p.1.2 p.2 ga := by
  obtain ⟨⟨lo, hi⟩, tag⟩ := p
  cases tag <;> rfl

theorem gaSpad_mod (t : Nat) {k : Nat} (hk : k % 8 = 0) : gaSpad t k % 8 = 0 := by
  simp only [gaSpad]
  omega

theorem spad_mod (t : Nat) {k : Nat} (hk : k % 8 = 0) : spad t k % 8 = 0 := by
  simp only [spad, spadBase]
  omega

theorem ldcap_own {s : State} {d a : GIx} {m : BitVec 20} {k : Nat} (h : Reaches s a permLD s.curTile k 16 (dispM m))
    (hfree : free s [k]) :
    exec (.ldcap d a m) s = .next (retireIn (s.together fun v => v.lookWords (spad s.curTile k) 2) s ((incM s a m).wr d
      (capLoaded (s.together fun v => v.lookWords (spad s.curTile k) 2) (spad s.curTile k) (gaSpad s.curTile k)))) := by
  have hk : k < 2 ^ 19 := by have := h.within; omega
  have hk8 : k % 8 = 0 := by have := h.aligned; omega
  have hlook : SameTurn s (s.together fun v => v.lookWords (spad s.curTile k) 2) :=
    SameTurn.together (wait_of_free hfree) .refl fun u hu => hu.lookWords (wait_of_free hfree) _ _
  have hperform := performFlit_loadcap s (spad s.curTile k) (f := { op := .loadcap, size := 16 }) rfl
  generalize (s.together fun v => v.lookWords (spad s.curTile k) 2) = u at hlook hperform ⊢
  change execLdcap d a m s = _
  rw [execLdcap, ldcapOpnd, mOff_eq_dispM, blocking_single (h.checks (by decide) rfl) h.tile_lt hk hfree hperform hlook]
  refine congrArg Host.Outcome.next ?_
  have hga (l : List (Nat × Nat × Nat)) : (ldcapOpnd (s.servedWith l) a m).ga s.pkg = gaSpad s.curTile k := by
    rw [ldcapOpnd, mOff_eq_dispM]
    exact h.ga (by norm_num)
  rw [ldcapFin, setCur_retire_incM_wr hlook, hga, capOf_pairDone, readCap_spad u (isSpad_spad _ _) (isSpad_spad _ (k + 8)),
    capOf_eq_capLoaded u (spad_mod _ hk8) (gaSpad_mod _ hk8)]
end Sys2Proof.Machine

namespace Sys2Proof.Machine
open Sys2Proof.Claims

/-! ## ST and STCAP at the own tile (R161, R162, R166) -/

theorem natLe_leNat (bs : List Byte) : natLe bs.length (leNat bs) = bs := by
  induction bs with
  | nil => rfl
  | cons b bs ih =>
    have hb := b.isLt
    have hlow : BitVec.ofNat 8 (b.toNat + 256 * leNat bs) = b := by
      rw [← BitVec.toNat_inj, BitVec.toNat_ofNat]
      omega
    rw [List.length_cons, leNat, natLe, hlow, show (b.toNat + 256 * leNat bs) / 256 = leNat bs by omega, ih]

theorem natLe_leNat_natLe (n v : Nat) : natLe n (leNat (natLe n v)) = natLe n v := by
  have := natLe_leNat (natLe n v)
  rwa [natLe_length] at this

/-- A store takes only the bytes of its value that it writes. -/
theorem store_leNat (s : State) (key a n v mark : Nat) : s.store key a n (leNat (natLe n v)) mark = s.store key a n v mark := by
  rw [State.store, State.put, State.setVal, natLe_leNat_natLe]
  rfl

theorem firstMark_replicate (m : Nat) : firstMark [m] = m ∧ firstMark [m, m] = m := by
  by_cases h : m = 0 <;> simp [firstMark, h]

theorem mark_eq_markOf (r : GReg) : r.mark = markOf r := by
  by_cases h : r.tag = .poison
  · rw [markOf, if_pos h, ← cls_of_poison h, GReg.mark, GReg.isPoison, h, if_pos (by rfl)]
  · rw [markOf, if_neg h, GReg.mark, GReg.isPoison, if_neg (by simpa using h)]

theorem together_congr (s : State) {f g : State → State} (h : f s = g s) (hc : f s.collect = g s.collect) : s.together f = s.together g := by
  rw [State.together, State.together, h, hc]

/-- A store of the low n bytes of a register. -/
def regStoreFlit (n : Nat) (v : GReg) : Flit := { op := .store, size := n, data := dataOf n v.low.toNat, psn := [v.mark] }

theorem performFlit_regStoreFlit (s : State) (p n : Nat) (v : GReg) :
    (s.performFlit 0 p (regStoreFlit n v)).2 = s.store 0 p n v.low.toNat (markOf v) := by
  rw [performFlit_store s p rfl]
  simp only [regStoreFlit, dataOf, store_leNat, (firstMark_replicate _).1, mark_eq_markOf]

section
variable {s : State} {d a : GIx} {m : BitVec 20} {k : Nat}

theorem execSt_eq (sz : Fin 4) : execSt sz d a m s =
    s.posted (addrOpnd s.cur a permST loadStore (2 ^ sz.val) (dispM m)) none none ((incM s a m).rd d).low
      (fun _ => regStoreFlit (2 ^ sz.val) ((incM s a m).rd d)) fun th => (th.postInc a m).retire := by
  rw [execSt, mOff_eq_dispM, postInc_eq_incM]
  rfl

theorem st_own {sz : Fin 4} (h : Reaches s a permST s.curTile k (2 ^ sz.val) (dispM m)) (hfree : free s [k]) :
    exec (.st sz d a m) s = .next (retireIn (s.store 0 (spad s.curTile k) (2 ^ sz.val) ((incM s a m).rd d).low.toNat
      (markOf ((incM s a m).rd d))) s (incM s a m)) := by
  have hstore := SameTurn.store (wait_of_free hfree) (.refl (s := s)) 0 (spad s.curTile k) (2 ^ sz.val) ((incM s a m).rd d).low.toNat
    (markOf ((incM s a m).rd d))
  change execSt sz d a m s = _
  rw [execSt_eq, posted_single (h.checks (size_dvd sz) rfl) h.tile_lt h.lt hfree (performFlit_regStoreFlit s _ _ _) hstore,
    setCur_retire_incM hstore]

theorem natLe_append (m n v : Nat) : natLe (m + n) v = natLe m v ++ natLe n (v / 256 ^ m) := by
  induction m generalizing v with
  | zero => simp [natLe]
  | succ m ih => rw [Nat.succ_add, natLe, ih, natLe, List.cons_append, Nat.div_div_eq_div_mul, Nat.pow_succ']

theorem leNat_take_natLe (v : Nat) : leNat ((natLe 16 v).take 8) = v % 2 ^ 64 := by
  rw [natLe_append 8 8, List.take_left' (natLe_length 8 v), leNat_natLe]
  rfl

theorem leNat_drop_natLe (v : Nat) : leNat (((natLe 16 v).drop 8).take 8) = v / 2 ^ 64 % 2 ^ 64 := by
  rw [natLe_append 8 8, List.drop_left' (natLe_length 8 v), List.take_of_length_le (natLe_length 8 _).le, leNat_natLe]
  rfl

/-- Body of a register as a capability store writes it: that of a poisoned one is zero (R166). -/
def storedBody (r : GReg) : BitVec 128 := if r.tag = .poison then 0 else r.body

theorem storedBody_toNat (r : GReg) : (if r.isPoison then 0 else r.body.toNat) = (storedBody r).toNat := by
  by_cases h : r.tag = .poison
  · rw [storedBody, if_pos h, GReg.isPoison, h]
    rfl
  · rw [storedBody, if_neg h, GReg.isPoison, if_neg (by simpa using h)]

theorem boolNat_isCap (r : GReg) : (boolNat r.isCap == 1) = decide (r.tag = .cap) := by
  by_cases h : r.tag = .cap
  · rw [GReg.isCap, h]
    rfl
  · simp [GReg.isCap, h, boolNat]

theorem performFlit_capFlit (s : State) (p : Nat) (v : GReg) :
    (s.performFlit 0 p (capFlit v)).2 = s.together fun u => u.storeCap 0 p ((storedBody v).setWidth 64).toNat
      ((storedBody v).extractLsb' 64 64).toNat (markOf v) (v.tag = .cap) := by
  rw [performFlit_storecap s p rfl]
  simp only [capFlit, dataOf, leNat_take_natLe, leNat_drop_natLe, storedBody_toNat, (firstMark_replicate _).2, mark_eq_markOf,
    boolNat_isCap, BitVec.toNat_setWidth, BitVec.extractLsb'_toNat, Nat.shiftRight_eq_div_pow]

theorem stcap_own (h : Reaches s a permST s.curTile k 16 (dispM m)) (hfree : free s [k]) :
    exec (.stcap d a m) s = .next (retireIn (s.together fun u => u.storeCap 0 (spad s.curTile k)
      ((storedBody ((incM s a m).rd d)).setWidth 64).toNat ((storedBody ((incM s a m).rd d)).extractLsb' 64 64).toNat
      (markOf ((incM s a m).rd d)) (((incM s a m).rd d).tag = .cap)) s (incM s a m)) := by
  generalize hv : (incM s a m).rd d = v
  have hk : k < 2 ^ 19 := by have := h.within; omega
  have hstore := SameTurn.together (wait_of_free hfree) (.refl (s := s)) fun u hu => hu.storeCap (wait_of_free hfree) 0 (spad s.curTile k)
    ((storedBody v).setWidth 64).toNat ((storedBody v).extractLsb' 64 64).toNat (markOf v) (v.tag = .cap)
  change execStcap d a m s = _
  rw [execStcap, mOff_eq_dispM, postInc_eq_incM, hv]
  rw [posted_single (h.checks (by decide) rfl) h.tile_lt hk hfree (performFlit_capFlit s _ v) hstore, setCur_retire_incM hstore]

end
end Sys2Proof.Machine

namespace Sys2Proof.Machine
open Sys2Proof.Claims

/-! ## The 64-byte access of LDV and STV (R163) -/

section
variable {s : State} {a : GIx} {k : KIx} {m : BitVec 20} {need o : Nat}

theorem mem_lanes_iff {j : Nat} : j ∈ s.cur.lanes k ↔ j < 16 ∧ laneActive s k j := by
  rw [Thread.lanes, List.mem_filter, List.mem_range, active_iff]

theorem lanes_eq_nil (h : ¬someLane s k) : s.cur.lanes k = [] :=
  List.eq_nil_iff_forall_not_mem.mpr fun j hj => h ⟨j, mem_lanes_iff.mp hj⟩

theorem kind_of_namesTile {r : GReg} {pkg t : Nat} (h : r.namesTile pkg t = true) : r.kind = .tile := by
  simp only [GReg.namesTile, Bool.and_eq_true, beq_iff_eq] at h
  exact h.1.1

/-- The access of a row, from its lowest active lane to its highest. -/
def rowElem (m : BitVec 20) (lo hi : Nat) : Elem := { off := dispM m + 4 * lo, size := 4 * (hi + 1 - lo), back := 4 * lo }

theorem rowOpnd_elems (h : someLane s k) :
    ∃ lo hi, lo ≤ hi ∧ lo ∈ s.cur.lanes k ∧ hi ∈ s.cur.lanes k ∧ (rowOpnd s.cur a k m need).elems = [rowElem m lo hi] := by
  have hsorted : (s.cur.lanes k).Pairwise (· < ·) := List.pairwise_lt_range.filter _
  obtain ⟨j, hj⟩ := h
  have hmem : j ∈ s.cur.lanes k := mem_lanes_iff.mpr hj
  simp only [rowOpnd]
  cases hl : s.cur.lanes k with
  | nil => rw [hl] at hmem; cases hmem
  | cons lo ls =>
    have hlast : (lo :: ls).getLastD lo ∈ lo :: ls := by
      rw [List.getLastD_cons]
      exact List.getLastD_mem_cons
    refine ⟨lo, (lo :: ls).getLastD lo, ?_, List.mem_cons_self, hlast, ?_⟩
    · rw [hl] at hsorted
      obtain heq | hin := List.mem_cons.mp hlast
      · exact heq.ge
      · exact (List.rel_of_pairwise_cons hsorted hin).le
    · rw [rowElem, ← mOff_eq_dispM]

theorem checks_row (hnames : names s a (dispM m) o) (hrow : ownRow s a k need o) (hlane : someLane s k) :
    ∃ e, e.idx = 0 ∧ s.checks [rowOpnd s.cur a k m need] none = .ok [[(e, gaSpad s.curTile o)]] := by
  obtain ⟨hcap, htile, hgrants, hplain, halign, htop, hbounds⟩ := hrow
  obtain ⟨lo, hi, hle, hlo, hhi, helems⟩ := rowOpnd_elems (a := a) (m := m) (need := need) hlane
  obtain ⟨hlo16, hloactive⟩ := mem_lanes_iff.mp hlo
  obtain ⟨hhi16, hhiactive⟩ := mem_lanes_iff.mp hhi
  have hlower := (hbounds lo hlo16 hloactive).1
  have hupper := (hbounds hi hhi16 hhiactive).2
  have hreach : (s.cur.rd a).reach s.pkg (rowElem m lo hi).off (rowElem m lo hi).size = .ok (gaSpad s.curTile (o + 4 * lo)) := by
    refine reach_of_names htile hplain hlower ?_ ?_ ?_ ?_
    · simp only [rowElem]; omega
    · simp only [rowElem]; omega
    · simp only [rowElem]; omega
    · simp only [rowElem, names] at hnames ⊢
      omega
  have hon : OnTile s (rowOpnd s.cur a k m need) := by
    refine ⟨hcap, hgrants, kind_of_namesTile htile, rfl, fun e he => ?_⟩
    rw [helems, List.mem_singleton] at he
    subst he
    refine ⟨_, hreach, ?_⟩
    simp only [gaSpad, rowOpnd, rowElem]
    omega
  have hga : (rowOpnd s.cur a k m need).gaOf s.pkg (rowElem m lo hi) = gaSpad s.curTile (o + 4 * lo) := by
    unfold Opnd.gaOf
    rw [show (rowOpnd s.cur a k m need).reg = s.cur.rd a from rfl, hreach]
  have hback : gaSpad s.curTile (o + 4 * lo) - (rowElem m lo hi).back = gaSpad s.curTile o := by
    simp only [gaSpad, rowElem]
    omega
  refine ⟨rowElem m lo hi, rfl, ?_⟩
  rw [checks_of_onTile fun x hx => by rwa [List.mem_singleton.mp hx], List.map_singleton, helems, List.map_singleton, hga, hback]

/-- A row of no active lane has no access, so that only the capability is looked at. -/
theorem onTile_noRow (hcap : (s.cur.rd a).tag = .cap) (hgrants : (s.cur.rd a).grants need = true)
    (htile : (s.cur.rd a).namesTile s.pkg s.curTile = true) (hlane : ¬someLane s k) :
    OnTile s (rowOpnd s.cur a k m need) ∧ (rowOpnd s.cur a k m need).elems = [] := by
  have helems : (rowOpnd s.cur a k m need).elems = [] := by simp only [rowOpnd, lanes_eq_nil hlane]
  exact ⟨⟨hcap, hgrants, kind_of_namesTile htile, rfl, fun e he => by rw [helems] at he; cases he⟩, helems⟩

end

theorem tile_lt_of_namesTile {r : GReg} {pkg t : Nat} (h : r.namesTile pkg t = true) : t < 4096 := by
  simp only [GReg.namesTile, Bool.and_eq_true, beq_iff_eq, gaTile, bits] at h
  omega

/-! ## STV at the own tile -/

section
variable (s : State) (d : VIx) (k : KIx)

theorem foldl_add_filter (p : Nat → Bool) (f : Nat → Nat) (l : List Nat) (n : Nat) :
    (l.filter p).foldl (fun n j => n + f j) n = n + (l.map fun j => if p j then f j else 0).sum := by
  induction l generalizing n with
  | nil => rfl
  | cons j l ih =>
    by_cases h : p j <;> simp [h, ih, Nat.add_assoc]

theorem active_eq (j : Nat) : s.cur.active k j = (s.cur.rk k).getLsbD j := Bool.eq_iff_iff.mpr (active_iff s k j)

theorem laneMask_lanes : laneMask (s.cur.lanes k) = byteMask s k := by
  rw [laneMask, Thread.lanes, foldl_add_filter, Nat.zero_add, byteMask]
  simp only [active_eq]

theorem markOf_eq (v : VReg) (j : Nat) : v.markOf j = if vBad v j then vElt v 32 j % 256 + 1 else 0 := by
  rw [VReg.markOf, VReg.cls, bad_eq, elt_eq]

theorem rowFlit_psn (op : Op) : (rowFlit op s.cur d k).psn = (List.range 8).map (rowMark s d k) := by
  refine List.map_congr_left fun i _ => ?_
  simp only [rowMark, active_eq, markOf_eq, ite_and, ite_not]

theorem performFlit_rowFlit (p : Nat) : (s.performFlit 0 p (rowFlit .storev s.cur d k)).2 = rowStored s d k p := by
  have hmask : (rowFlit .storev s.cur d k).bmask = byteMask s k := laneMask_lanes s k
  rw [performFlit_storev s p rfl, hmask, rowFlit_psn]
  exact together_congr s rfl rfl

theorem sameTurn_rowStored (hwait : s.cur.wait = .none) (p : Nat) : SameTurn s (rowStored s d k p) :=
  SameTurn.together hwait .refl fun _ hu =>
    ((hu.putWords 0 p _ _ _ 8).touchMasked hwait p _ 8).touchPairs hwait _ p _ 8

variable {s d k}

theorem stv_own {a : GIx} {m : BitVec 20} {o : Nat} (hnames : names s a (dispM m) o) (hrow : ownRow s a k permST o)
    (hfree : free s [o]) (hlane : someLane s k) :
    exec (.stv d a k m) s = .next (retireIn (rowStored s d k (spad s.curTile o)) s (incM s a m)) := by
  obtain ⟨e, -, hchecks⟩ := checks_row hnames hrow hlane
  have hstore := sameTurn_rowStored s d k (wait_of_free hfree) (spad s.curTile o)
  obtain ⟨-, htile, -, -, -, htop, -⟩ := hrow
  change execStv d a k m s = _
  rw [execStv, posted_single hchecks (tile_lt_of_namesTile htile) (by omega) hfree (performFlit_rowFlit s d k _) hstore,
    setCur_retire_incM hstore]

end
end Sys2Proof.Machine

namespace Sys2Proof.Machine
open Sys2Proof.Claims

/-! ## LDV at the own tile (R163) -/

/-- A lane as LDV receives it from the words of its row at flat address p, u being the state after the read. -/
def rowReceived (s u : State) (d : VIx) (k : KIx) (p j : Nat) : Nat × Bool :=
  if s.cur.active k j then
    if u.mark (p + 8 * (j / 2)) = 0 then (u.val (p + 8 * (j / 2)) 8 / 2 ^ (32 * (j % 2)) % 2 ^ 32, false)
    else poisonLane (u.mark (p + 8 * (j / 2)) - 1)
  else (s.cur.rv d).lane j

section
variable {s u : State} {d : VIx} {k : KIx} {p j : Nat}

theorem rowReceived_inactive (h : ¬laneActive s k j) : rowReceived s u d k p j = (s.cur.rv d).lane j :=
  if_neg (mt (active_iff s k j).mp h)

theorem rowReceived_poisoned (h : laneActive s k j) {b : Byte} (hm : u.mark (p + 8 * (j / 2)) = b.toNat + 1) :
    rowReceived s u d k p j = poisonLane b.toNat := by
  rw [rowReceived, if_pos ((active_iff s k j).mpr h), hm, if_neg (Nat.succ_ne_zero _), Nat.add_sub_cancel]

theorem val_half (u : State) (p j : Nat) : u.val (p + 8 * (j / 2)) 8 / 2 ^ (32 * (j % 2)) % 2 ^ 32 = u.val (p + 4 * j) 4 := by
  have hlow := val_lt u (p + 8 * (j / 2)) 4
  have hhigh := val_lt u (p + 8 * (j / 2) + 4) 4
  have hval : u.val (p + 8 * (j / 2)) 8 = u.val (p + 8 * (j / 2)) 4 + 256 ^ 4 * u.val (p + 8 * (j / 2) + 4) 4 := val_add u _ 4 4
  rw [hval]
  obtain hj | hj := Nat.mod_two_eq_zero_or_one j
  · rw [hj, show p + 4 * j = p + 8 * (j / 2) by omega]
    omega
  · rw [hj, show p + 4 * j = p + 8 * (j / 2) + 4 by omega]
    omega

theorem rowReceived_clean (h : laneActive s k j) (hm : u.mark (p + 8 * (j / 2)) = 0) :
    rowReceived s u d k p j = (u.val (p + 4 * j) 4, false) := by
  rw [rowReceived, if_pos ((active_iff s k j).mpr h), if_pos hm, val_half]

theorem poisoned_lane_word (hp : p % 8 = 0) (u : State) (j : Nat) : u.poisoned (p + 8 * (j / 2)) = u.poisoned (p + 4 * j) := by
  rw [State.poisoned, State.poisoned, show (p + 8 * (j / 2)) / 8 = (p + 4 * j) / 8 by omega]

theorem rowReceived_lanes (hp : p % 8 = 0) (hj : j < 16) :
    (¬laneActive s k j → sameLane (mkVReg (rowReceived s u d k p)) (s.cur.rv d) j) ∧
    (laneActive s k j → ∀ c, (rowLane u p j).2 = some c → poisonedLane (mkVReg (rowReceived s u d k p)) j c) ∧
    (laneActive s k j → (rowLane u p j).2 = none →
      vBad (mkVReg (rowReceived s u d k p)) j = false ∧ vElt (mkVReg (rowReceived s u d k p)) 32 j = (rowLane u p j).1) := by
  refine ⟨fun h => sameLane_mkVReg hj (rowReceived_inactive h), fun h c hc => ?_, fun h hc => ?_⟩
  · simp only [rowLane] at hc
    split at hc
    · next hbad =>
      cases hc
      rw [← poisoned_lane_word hp] at hbad
      exact poisonedLane_mkVReg hj (BitVec.isLt _) (rowReceived_poisoned h (mark_of_poisoned_word (by omega) hbad))
    · cases hc
  · simp only [rowLane] at hc ⊢
    split at hc
    · cases hc
    · next hgood =>
      rw [← poisoned_lane_word hp, Bool.not_eq_true] at hgood
      have hclean := rowReceived_clean (d := d) h (mark_of_clean hgood)
      rw [vBad_mkVReg _ hj, vElt_mkVReg _ hj, hclean]
      exact ⟨rfl, Nat.mod_eq_of_lt (val_lt u _ 4)⟩

/-- What reading the eight words of a row gives. -/
def rowDone (u : State) (p : Nat) : Done := { words := (List.range 8).map fun i => u.readAt 0 (p + 8 * i) 8 }

theorem got_rowDone (s u : State) (p : Nat) {i : Nat} (hi : i < 8) :
    (s.servedWith (entries 0 (rowDone u p))).got i = u.readAt 0 (p + 8 * i) 8 := by
  rw [got_servedWith]
  interval_cases i <;> rfl

theorem mkVReg_congr {f g : Nat → Nat × Bool} (h : ∀ j, j < 16 → f j = g j) : mkVReg f = mkVReg g := by
  have hmap : (List.range 16).map f = (List.range 16).map g := List.map_congr_left fun j hj => h j (List.mem_range.mp hj)
  simp only [mkVReg, hmap]

theorem ldvFin_eq (hp : isSpad p = true) (a : GIx) (m : BitVec 20) :
    ldvFin d a k m (s.servedWith (entries 0 (rowDone u p))) =
      (((s.servedWith (entries 0 (rowDone u p))).postInc a m).wv d (mkVReg (rowReceived s u d k p))).retire := by
  have hlane : ∀ j, j < 16 → (if (s.servedWith (entries 0 (rowDone u p))).active k j then
      if ((s.servedWith (entries 0 (rowDone u p))).got (j / 2)).2 = 0 then
        (((s.servedWith (entries 0 (rowDone u p))).got (j / 2)).1 / 2 ^ (32 * (j % 2)) % 2 ^ 32, false)
      else poisonLane (((s.servedWith (entries 0 (rowDone u p))).got (j / 2)).2 - 1)
      else ((s.servedWith (entries 0 (rowDone u p))).rv d).lane j) = rowReceived s u d k p j := by
    intro j hj
    have hspad : isSpad (p + 8 * (j / 2)) = true := by
      simp only [isSpad, decide_eq_true_eq] at hp ⊢
      omega
    rw [got_rowDone s u p (by omega), readAt_spad u hspad]
    rfl
  rw [ldvFin, mkVReg_congr hlane]

theorem ldv_own {a : GIx} {m : BitVec 20} {o : Nat} (hnames : names s a (dispM m) o) (hrow : ownRow s a k permLD o)
    (hfree : free s [o]) (hlane : someLane s k) :
    exec (.ldv d a k m) s = .next (retireIn (s.together fun v => v.lookWords (spad s.curTile o) 8) s ((incM s a m).wv d
      (mkVReg (rowReceived s (s.together fun v => v.lookWords (spad s.curTile o) 8) d k (spad s.curTile o))))) := by
  obtain ⟨e, hidx, hchecks⟩ := checks_row hnames hrow hlane
  have hlook : SameTurn s (s.together fun v => v.lookWords (spad s.curTile o) 8) :=
    SameTurn.together (wait_of_free hfree) .refl fun u hu => hu.lookWords (wait_of_free hfree) _ _
  have hperform := performFlit_loadv s (spad s.curTile o) (f := { op := .loadv, size := 64 }) rfl
  obtain ⟨-, htile, -, -, -, htop, -⟩ := hrow
  generalize (s.together fun v => v.lookWords (spad s.curTile o) 8) = u at hlook hperform ⊢
  change execLdv d a k m s = _
  rw [execLdv, blocking_single hchecks (tile_lt_of_namesTile htile) (by omega) hfree hperform hlook, hidx]
  refine congrArg Host.Outcome.next ?_
  exact (congrArg u.setCur (ldvFin_eq (isSpad_spad _ _) a m)).trans (setCur_retire_incM_wv hlook _ _ _ _ _)

theorem checks_noRow {a : GIx} {m : BitVec 20} {need : Nat} (hcap : (s.cur.rd a).tag = .cap)
    (hgrants : (s.cur.rd a).grants need = true) (htile : (s.cur.rd a).namesTile s.pkg s.curTile = true) (hlane : ¬someLane s k) :
    s.checks [rowOpnd s.cur a k m need] none = .ok [[]] := by
  obtain ⟨hon, helems⟩ := onTile_noRow (m := m) hcap hgrants htile hlane
  rw [checks_of_onTile fun x hx => by rwa [List.mem_singleton.mp hx], List.map_singleton, helems]
  rfl

theorem onePass_nil (s : State) : OnePass s [] :=
  ⟨fun _ hx => absurd hx List.not_mem_nil, fun _ hx => absurd hx List.not_mem_nil, rfl, rfl⟩

/-- LDV with no active lane reads nothing. -/
theorem ldv_noLane {a : GIx} {m : BitVec 20} (hcap : (s.cur.rd a).tag = .cap) (hgrants : (s.cur.rd a).grants permLD = true)
    (htile : (s.cur.rd a).namesTile s.pkg s.curTile = true) (hserved : s.cur.served = []) (hlane : ¬someLane s k) :
    exec (.ldv d a k m) s = .next (retireIn s s ((incM s a m).wv d (mkVReg fun j => (s.cur.rv d).lane j))) := by
  have hpass : s.servePass (fun _ => { op := .loadv, size := 64 }) [] = ([], s) := rfl
  have hkept : (mkVReg fun j => if (s.servedWith []).active k j then
      if ((s.servedWith []).got (j / 2)).2 = 0 then (((s.servedWith []).got (j / 2)).1 / 2 ^ (32 * (j % 2)) % 2 ^ 32, false)
      else poisonLane (((s.servedWith []).got (j / 2)).2 - 1)
      else ((s.servedWith []).rv d).lane j) = mkVReg fun j => (s.cur.rv d).lane j :=
    mkVReg_congr fun j hj => if_neg fun h => hlane ⟨j, hj, (active_iff s k j).mp h⟩
  change execLdv d a k m s = _
  rw [execLdv, blocking_pass (checks_noRow hcap hgrants htile hlane) (onePass_nil s) hserved .refl, hpass, ldvFin, hkept,
    setCur_retire_incM_wv .refl]

end
end Sys2Proof.Machine

namespace Sys2Proof.Machine
open Sys2Proof.Claims

/-! ## Accesses element by element (R164, R165) -/

/-- The access of an element. -/
def eltElem (w : Nat) (off : Nat → Int) (e : Nat) : Elem := { idx := e, off := off e, size := w / 8 }

theorem eltWidth_eltBits (ew : EltW) : EltWidth (eltBits ew) := by
  cases ew
  · exact Or.inr (Or.inr rfl)
  · exact Or.inr (Or.inl rfl)
  · exact Or.inl rfl

theorem EltWidth.bytes_pos {w : Nat} (hw : EltWidth w) : 0 < w / 8 := by
  obtain rfl | rfl | rfl := hw <;> decide

theorem EltWidth.bits_of_bytes {w : Nat} (hw : EltWidth w) : 8 * (w / 8) = w := by
  obtain rfl | rfl | rfl := hw <;> rfl

section
variable {s : State} {a : GIx} {k : KIx} {w rights : Nat} {o : Nat → Nat} {off : Nat → Int}

theorem eltsOf_eq (off : Nat → Int) : eltsOf s.cur k w off = (activeElts s k w).map (eltElem w off) := by
  simp only [eltsOf, activeElts, laneIdx, active_eq]
  rfl

theorem mem_activeElts {e : Nat} : e ∈ activeElts s k w ↔ e < 512 / w ∧ laneActive s k (e * w / 32) := by
  rw [activeElts, List.mem_filter, List.mem_range, laneActive]

theorem gaSpad_aligned {t x n : Nat} (hn : n ∣ 2 ^ 32) (hx : x % n = 0) : gaSpad t x % 2 ^ 44 % n = 0 := by
  have h44 : n ∣ 2 ^ 44 := hn.trans (pow_dvd_pow 2 (by norm_num))
  obtain ⟨c, hc⟩ := hn
  rw [Nat.mod_mod_of_dvd _ h44, gaSpad, show 2 ^ 63 + tileY t * 2 ^ 38 + tileX t * 2 ^ 32 + x =
    x + n * (c * (2 ^ 31 + tileY t * 2 ^ 6 + tileX t)) by rw [← mul_assoc, ← hc]; ring, Nat.add_mul_mod_self_left, hx]

theorem ownElts_lt (hw : EltWidth w) (h : ownElts s a k w rights o) {e : Nat} (he : e ∈ activeElts s k w) : o e < 2 ^ 19 := by
  obtain ⟨-, -, hown, -⟩ := h
  obtain ⟨-, -, -, -, -, -, htop, -⟩ := hown e he
  have := hw.bytes_pos
  omega

/-- The checks find the target of every active element. -/
theorem checks_elts {op : Opnd} (hw : EltWidth w) (h : ownElts s a k w rights o)
    (hnames : ∀ e ∈ activeElts s k w, names s a (off e) (o e)) (hreg : op.reg = s.cur.rd a) (hneed : op.need = rights)
    (hsp : op.sp.scratch = true) (halign : op.align = w / 8) (helems : op.elems = (activeElts s k w).map (eltElem w off)) :
    s.checks [op] none = .ok [(activeElts s k w).map fun e => (eltElem w off e, gaSpad s.curTile (o e))] := by
  obtain ⟨hcap, hgrants, hown, -, -, htile, -⟩ := h
  have hreach : ∀ e ∈ activeElts s k w, op.reg.reach s.pkg (off e) (w / 8) = .ok (gaSpad s.curTile (o e)) := fun e he => by
    rw [hreg]
    exact (reaches_of_own (hnames e he) (hown e he)).reach hw.bytes_pos
  have hon : OnTile s op := by
    refine ⟨hreg ▸ hcap, by rw [hreg, hneed]; exact hgrants, by rw [hreg]; exact kind_of_namesTile htile, hsp, fun x hx => ?_⟩
    rw [helems] at hx
    obtain ⟨e, he, rfl⟩ := List.mem_map.mp hx
    refine ⟨_, hreach e he, ?_⟩
    obtain ⟨-, -, -, -, -, -, -, haligned⟩ := hown e he
    rw [halign, gaSpad_aligned (by obtain rfl | rfl | rfl := hw <;> decide) haligned]
    exact (Nat.zero_mod _).symm
  rw [checks_of_onTile fun x hx => by rwa [List.mem_singleton.mp hx], List.map_singleton, helems, List.map_map]
  refine congrArg (fun l => Except.ok [l]) (List.map_congr_left fun e he => ?_)
  have hga : op.gaOf s.pkg (eltElem w off e) = gaSpad s.curTile (o e) := by
    have := hreach e he
    unfold Opnd.gaOf
    rw [show (eltElem w off e).off = off e from rfl, show (eltElem w off e).size = w / 8 from rfl, this]
  rw [Function.comp_apply, hga]
  rfl

theorem onePass_elts (hw : EltWidth w) (h : ownElts s a k w rights o) :
    OnePass s ((activeElts s k w).map fun e => (eltElem w off e, gaSpad s.curTile (o e))) := by
  have hlt : ∀ e ∈ activeElts s k w, o e < 2 ^ 19 := fun e he => ownElts_lt hw h he
  obtain ⟨-, -, -, -, hrow, htile, -, -, hbanks⟩ := h
  exact onePass_of_places (tile_lt_of_namesTile htile) hlt hbanks hrow

end
end Sys2Proof.Machine

namespace Sys2Proof.Machine
open Sys2Proof.Claims

/-! ## LDVS and VGATH at the own tile (R160, R164, R165) -/

section
variable {s : State} {w : Nat} {o : Nat → Nat} {off : Nat → Int}

/-- An element as a read without a stored error gives it: its number, value and mark. -/
def eltRead (s : State) (w : Nat) (o : Nat → Nat) (e : Nat) : Nat × Nat × Nat :=
  (e, s.val (spad s.curTile (o e)) (w / 8), s.mark (spad s.curTile (o e)))

/-- Reads without a stored error leave the state. -/
theorem performOwn_elts {l : List Nat} (hlt : ∀ e ∈ l, o e < 2 ^ 19) (herr : ∀ e ∈ l, noErr s (spad s.curTile (o e))) :
    s.performOwn (fun _ => { op := .load, size := w / 8 }) (l.map fun e => (eltElem w off e, gaSpad s.curTile (o e))) =
      (l.map (eltRead s w o), s) := by
  induction l with
  | nil => rfl
  | cons e l ih =>
    have hspad := isSpad_spad s.curTile (o e)
    have hperform : s.performFlit 0 (spad s.curTile (o e)) { op := .load, size := w / 8 } =
        ({ words := [(s.val (spad s.curTile (o e)) (w / 8), s.mark (spad s.curTile (o e)))] }, s) := by
      rw [performFlit_load s _ rfl, look_of_noErr hspad (herr e List.mem_cons_self), readAt_spad s hspad]
    rw [List.map_cons, State.performOwn, gaOff_gaSpad _ (hlt e List.mem_cons_self), hperform,
      ih (fun x hx => hlt x (List.mem_cons_of_mem _ hx)) fun x hx => herr x (List.mem_cons_of_mem _ hx)]
    rfl

theorem eltRead_collect (s : State) (w : Nat) (o : Nat → Nat) : eltRead s.collect w o = eltRead s w o := by
  funext e
  have hval : s.collect.val (spad s.curTile (o e)) (w / 8) = s.val (spad s.curTile (o e)) (w / 8) :=
    val_of_mem (s := s) (u := s.collect) rfl _ _
  exact congrArg (fun v => (e, v, s.mark (spad s.curTile (o e)))) hval

theorem wakeAll_collect (h : s.batch.isSome = false) : s.collect.wakeAll = s := by
  have hnone : s.batch = none := by simpa using h
  have hwake : s.collect.wakeAll = { s with batch := none } := rfl
  rw [hwake, ← hnone]

theorem servePass_elts {l : List Nat} (hlt : ∀ e ∈ l, o e < 2 ^ 19) (herr : ∀ e ∈ l, noErr s (spad s.curTile (o e))) :
    s.servePass (fun _ => { op := .load, size := w / 8 }) (l.map fun e => (eltElem w off e, gaSpad s.curTile (o e))) =
      (l.map (eltRead s w o), s) := by
  have hcollect := performOwn_elts (s := s.collect) (w := w) (off := off) hlt herr
  rw [State.servePass, performOwn_elts hlt herr]
  split
  · rfl
  · next hmany =>
    have hbatch : s.batch.isSome = false := by simpa using (not_or.mp hmany).2
    rw [show s.collect.curTile = s.curTile from rfl] at hcollect
    rw [hcollect, eltRead_collect, wakeAll_collect hbatch]

theorem got_elts {l : List Nat} {e : Nat} (he : e ∈ l) :
    (s.servedWith (l.map (eltRead s w o))).got e = (s.val (spad s.curTile (o e)) (w / 8), s.mark (spad s.curTile (o e))) := by
  have hlookup : (l.map (eltRead s w o)).lookup e = some (s.val (spad s.curTile (o e)) (w / 8), s.mark (spad s.curTile (o e))) := by
    induction l with
    | nil => cases he
    | cons x l ih =>
      by_cases hx : e = x
      · subst hx
        simp [eltRead]
      · have := ih ((List.mem_cons.mp he).resolve_left hx)
        have hne : (e == x) = false := beq_eq_false_iff_ne.mpr hx
        simpa [eltRead, List.lookup_cons, hne] using this
  rw [got_servedWith, hlookup]
  rfl

/-- Marks of the elements of a lane. -/
def laneMarks (s : State) (w : Nat) (o : Nat → Nat) (j : Nat) : List Nat :=
  (List.range (32 / w)).map fun i => s.mark (spad s.curTile (o (j * (32 / w) + i)))

/-- A lane as an element-wise load receives it. -/
def eltReceived (s : State) (d : VIx) (k : KIx) (w : Nat) (o : Nat → Nat) (j : Nat) : Nat × Bool :=
  if s.cur.active k j then
    if firstMark (laneMarks s w o j) = 0 then (laneOf w (fun e => s.val (spad s.curTile (o e)) (w / 8)) j, false)
    else poisonLane (firstMark (laneMarks s w o j) - 1)
  else (s.cur.rv d).lane j

variable {d : VIx} {k : KIx}

theorem loadElts_eq (hw : EltWidth w) :
    (s.servedWith ((activeElts s k w).map (eltRead s w o))).loadElts w d k =
      (s.servedWith ((activeElts s k w).map (eltRead s w o))).wv d (mkVReg (eltReceived s d k w o)) := by
  generalize hth : s.servedWith ((activeElts s k w).map (eltRead s w o)) = th
  have hactive : th.active k = s.cur.active k := by rw [← hth]; rfl
  have hrv : th.rv d = s.cur.rv d := by rw [← hth]; rfl
  unfold Thread.loadElts
  refine congrArg (th.wv d) (mkVReg_congr fun j hj => ?_)
  rw [hactive, hrv, eltReceived]
  cases hon : s.cur.active k j
  · rfl
  have hgot : ∀ i ∈ List.range (32 / w), th.got (j * (32 / w) + i) =
      (s.val (spad s.curTile (o (j * (32 / w) + i))) (w / 8), s.mark (spad s.curTile (o (j * (32 / w) + i)))) := by
    intro i hi
    rw [List.mem_range] at hi
    have hlane : (j * (32 / w) + i) * w / 32 = j := (lane_eq_iff hw _ _).mpr ⟨Nat.le_add_right _ _, Nat.add_lt_add_left hi _⟩
    rw [← hth]
    refine got_elts (mem_activeElts.mpr ⟨?_, by rw [hlane]; exact (active_iff s k j).mp hon⟩)
    obtain rfl | rfl | rfl := hw <;> omega
  have hmarks : ((List.range (32 / w)).map fun i => j * (32 / w) + i).map (fun e => (th.got e).2) = laneMarks s w o j := by
    rw [List.map_map]
    exact List.map_congr_left fun i hi => congrArg Prod.snd (hgot i hi)
  have hvals : packElts w (((List.range (32 / w)).map fun i => j * (32 / w) + i).map fun e => (th.got e).1) =
      laneOf w (fun e => s.val (spad s.curTile (o e)) (w / 8)) j := by
    rw [List.map_map, laneOf]
    exact congrArg (packElts w) (List.map_congr_left fun i hi => congrArg Prod.fst (hgot i hi))
  simp only [hmarks, hvals]

theorem firstMark_range {f : Nat → Nat} {n i : Nat} (hi : i < n) (hf : f i ≠ 0) (hbefore : ∀ i', i' < i → f i' = 0) :
    firstMark ((List.range n).map f) = f i := by
  have hfind : ((List.range n).map f).find? (fun m => m != 0) = some (f i) := by
    rw [List.find?_map]
    have : (List.range n).find? ((fun m => m != 0) ∘ f) = some i := by
      rw [List.find?_range_eq_some]
      exact ⟨bne_iff_ne.mpr hf, List.mem_range.mpr hi, fun j hj => by simp [hbefore j hj]⟩
    rw [this]
    rfl
  rw [firstMark, hfind, Option.getD_some]

theorem firstMark_of_clean {l : List Nat} (h : ∀ m ∈ l, m = 0) : firstMark l = 0 := by
  have hfind : l.find? (fun m => m != 0) = none := List.find?_eq_none.mpr fun m hm => by simp [h m hm]
  rw [firstMark, hfind, Option.getD_none]

theorem eltsLoaded_mkVReg (hw : EltWidth w) : eltsLoaded s d k w o (mkVReg (eltReceived s d k w o)) := by
  have helt (j : Nat) {i : Nat} (hi : i < 32 / w) : (j * (32 / w) + i) * w / 32 = j :=
    (lane_eq_iff hw _ _).mpr ⟨Nat.le_add_right _ _, Nat.add_lt_add_left hi _⟩
  refine fun j hj => ⟨fun h => sameLane_mkVReg hj (if_neg (mt (active_iff s k j).mp h)), fun h hclean => ?_, fun h e he hbad hbefore => ?_⟩
  · have hmark : firstMark (laneMarks s w o j) = 0 := firstMark_of_clean fun m hm => by
      obtain ⟨i, hi, rfl⟩ := List.mem_map.mp hm
      exact mark_of_clean (hclean _ (helt j (List.mem_range.mp hi)))
    have hreceived : eltReceived s d k w o j = (laneOf w (fun e => s.val (spad s.curTile (o e)) (w / 8)) j, false) := by
      rw [eltReceived, if_pos ((active_iff s k j).mpr h), if_pos hmark]
    refine ⟨by rw [vBad_mkVReg _ hj, hreceived], fun e he => ?_⟩
    subst he
    rw [vElt_mkVReg_laneOf hw (f := fun e => s.val (spad s.curTile (o e)) (w / 8)) hj (congrArg Prod.fst hreceived)]
    refine Nat.mod_eq_of_lt ?_
    have := val_lt s (spad s.curTile (o e)) (w / 8)
    rwa [hw.bits_of_bytes] at this
  · obtain ⟨hlo, hhi⟩ := (lane_eq_iff hw e j).mp he
    obtain ⟨i, rfl⟩ := Nat.exists_eq_add_of_le hlo
    have hi : i < 32 / w := Nat.lt_of_add_lt_add_left hhi
    have hmark : firstMark (laneMarks s w o j) = (s.byte (spad s.curTile (o (j * (32 / w) + i)) / 8 * 8)).toNat + 1 := by
      rw [← mark_of_poisoned hbad]
      refine firstMark_range (f := fun i => s.mark (spad s.curTile (o (j * (32 / w) + i)))) hi ?_ fun i' hi' => ?_
      · rw [mark_of_poisoned hbad]
        exact Nat.succ_ne_zero _
      · exact mark_of_clean (hbefore _ (Nat.add_lt_add_left hi' _) (helt j (hi'.trans hi)))
    refine poisonedLane_mkVReg hj (BitVec.isLt _) ?_
    rw [eltReceived, if_pos ((active_iff s k j).mpr h), hmark, if_neg (Nat.succ_ne_zero _), Nat.add_sub_cancel]

/-- An element-wise load from the own tile, whatever else its last step writes. -/
theorem blocking_elts {a : GIx} {op : Opnd} (hw : EltWidth w) (h : ownElts s a k w permLD o)
    (hchecks : s.checks [op] none = .ok [(activeElts s k w).map fun e => (eltElem w off e, gaSpad s.curTile (o e))])
    {i : Instr} {need : Bool × Bool} {n : Nat} {opnd : Word} {fin : Thread → Thread} :
    s.blocking i op none need n opnd (fun _ => { op := .load, size := w / 8 }) fin =
      .next (s.setCur (fin (s.servedWith ((activeElts s k w).map (eltRead s w o))))) := by
  have ⟨_, _, _, herr, _, _, hserved, _, _⟩ := h
  have hserve := servePass_elts (w := w) (off := off) (fun e he => ownElts_lt hw h he) herr
  rw [blocking_pass hchecks (onePass_elts hw h) hserved (by rw [hserve]; exact .refl), hserve]

theorem strideOpnd_elems {ew : EltW} {a b : GIx} {m : BitVec 20} {need : Nat} : (strideOpnd s.cur ew a b k m need).elems =
    (activeElts s k (eltBits ew)).map (eltElem (eltBits ew) fun e => dispM m + e * (s.cur.rd b).low.toInt) := by
  simp only [strideOpnd, eltsOf_eq, mOff_eq_dispM]

theorem stridePoison_none {b : GIx} (hb : (s.cur.rd b).tag ≠ .poison) : stridePoison s.cur b = none := by
  rw [stridePoison, GReg.isPoison, if_neg (by simpa using hb)]

theorem ldvs_own {ew : EltW} {a b : GIx} {m : BitVec 20} (hb : (s.cur.rd b).tag ≠ .poison) (h : ownElts s a k (eltBits ew) permLD o)
    (hnames : ∀ e ∈ activeElts s k (eltBits ew), names s a (dispM m + e * (s.cur.rd b).low.toInt) (o e)) :
    exec (.ldvs ew d a b k m) s = .next (retireIn s s ((incM s a m).wv d (mkVReg (eltReceived s d k (eltBits ew) o)))) := by
  have hw := eltWidth_eltBits ew
  have hchecks := checks_elts (op := strideOpnd s.cur ew a b k m permLD) hw h hnames rfl rfl rfl rfl strideOpnd_elems
  change execLdvs ew d a b k m s = _
  rw [execLdvs, stridePoison_none hb, blocking_elts hw h hchecks, ldvsFin, loadElts_eq hw, postInc_wv, setCur_retire_incM_wv .refl]

/-- No active offset lane is poisoned. -/
theorem offsetPoison_none {b : VIx} (hb : ∀ j, j < 16 → laneActive s k j → vBad (s.cur.rv b) j = false) : offsetPoison s.cur b k = none := by
  have hfind : (s.cur.lanes k).find? (fun j => (s.cur.rv b).bad j) = none := List.find?_eq_none.mpr fun j hj => by
    obtain ⟨hj16, hon⟩ := mem_lanes_iff.mp hj
    rw [bad_eq, hb j hj16 hon]
    exact Bool.false_ne_true
  rw [offsetPoison, hfind, Option.map_none]

theorem gatherOpnd_elems {a : GIx} {b : VIx} {disp : BitVec 19} {need : Nat} : (gatherOpnd s.cur a b k disp need).elems =
    (activeElts s k 32).map (eltElem 32 fun e => disp.toInt + (BitVec.ofNat 32 (vElt (s.cur.rv b) 32 e)).toInt) := by
  simp only [gatherOpnd, eltsOf_eq, off19_eq_toInt, sgn_eq_toInt, elt_eq]

theorem vgath_own {a : GIx} {b : VIx} {disp : BitVec 19} (hb : ∀ j, j < 16 → laneActive s k j → vBad (s.cur.rv b) j = false)
    (h : ownElts s a k 32 permLD o)
    (hnames : ∀ e ∈ activeElts s k 32, names s a (disp.toInt + (BitVec.ofNat 32 (vElt (s.cur.rv b) 32 e)).toInt) (o e)) :
    exec (.vgath d a b k disp) s = .next (retireIn s s (s.cur.wv d (mkVReg (eltReceived s d k 32 o)))) := by
  have hw : EltWidth 32 := Or.inr (Or.inr rfl)
  change execVgath d a b k disp s = _
  rw [execVgath, offsetPoison_none hb]
  have hchecks := checks_elts (op := gatherOpnd s.cur a b k disp permLD) hw h hnames rfl rfl rfl rfl gatherOpnd_elems
  have hload := blocking_elts hw h hchecks (i := .vgath d a b k disp) (need := (false, true)) (n := 1) (opnd := 0) (fin := vgathFin d k)
  rw [vgathFin, loadElts_eq hw, setCur_retire_wv .refl] at hload
  exact hload

end
end Sys2Proof.Machine

namespace Sys2Proof.Machine
open Sys2Proof.Claims

/-! ## STVS and VSCAT at the own tile (R164, R165) -/

/-- The mark of an element as a store carries it (R161). -/
def eltMark (v : VReg) (w e : Nat) : Nat := if vBad v (e * w / 32) then vElt v 32 (e * w / 32) % 256 + 1 else 0

/-- Elements of a register stored one after another at offsets of a tile. -/
def storeElts (t w : Nat) (o : Nat → Nat) (v : VReg) (l : List Nat) (u : State) : State :=
  l.foldl (fun u e => u.store 0 (spad t (o e)) (w / 8) (vElt v w e) (eltMark v w e)) u

theorem performFlit_eltFlit (u : State) (p : Nat) (v : VReg) (w e : Nat) :
    (u.performFlit 0 p (eltFlit v w e)).2 = u.store 0 p (w / 8) (vElt v w e) (eltMark v w e) := by
  rw [performFlit_store u p rfl]
  simp only [eltFlit, dataOf, store_leNat, (firstMark_replicate _).1, markOf_eq, elt_eq, laneIdx, eltMark]

section
variable {s : State} {w : Nat} {o : Nat → Nat} {off : Nat → Int} {d : VIx} {k : KIx}

theorem SameTurn.storeElts {u : State} (hwait : s.cur.wait = .none) (hu : SameTurn s u) (t : Nat) (v : VReg) (l : List Nat) :
    SameTurn s (storeElts t w o v l u) := by
  induction l generalizing u with
  | nil => exact hu
  | cons e l ih => exact ih (hu.store hwait 0 _ _ _ _)

theorem performStores_elts {u : State} (hwait : s.cur.wait = .none) (hu : SameTurn s u) (v : VReg) {l : List Nat}
    (hlt : ∀ e ∈ l, o e < 2 ^ 19) :
    u.performStores (eltFlit v w) none (l.map fun e => (eltElem w off e, gaSpad s.curTile (o e))) = storeElts s.curTile w o v l u := by
  induction l generalizing u with
  | nil => rfl
  | cons e l ih =>
    have hstore := hu.store hwait 0 (spad s.curTile (o e)) (w / 8) (vElt v w e) (eltMark v w e)
    rw [List.map_cons, State.performStores, gaOff_gaSpad _ (hlt e List.mem_cons_self), hu.curTile,
      show (eltElem w off e).idx = e from rfl, performFlit_eltFlit, ih hstore fun x hx => hlt x (List.mem_cons_of_mem _ hx)]
    rfl

theorem eltsStored_eq : eltsStored s d k w o =
    if (activeElts s k w).length ≤ 1 then storeElts s.curTile w o (s.cur.rv d) (activeElts s k w) s
    else s.together (storeElts s.curTile w o (s.cur.rv d) (activeElts s k w)) := rfl

theorem sameTurn_eltsStored (hwait : s.cur.wait = .none) : SameTurn s (eltsStored s d k w o) := by
  rw [eltsStored_eq]
  split
  · exact SameTurn.storeElts hwait .refl _ _ _
  · exact SameTurn.together hwait .refl fun u hu => hu.storeElts hwait _ _ _

theorem storePass_elts (hwait : s.cur.wait = .none) (hlt : ∀ e ∈ activeElts s k w, o e < 2 ^ 19) :
    s.storePass (eltFlit (s.cur.rv d) w) ((activeElts s k w).map fun e => (eltElem w off e, gaSpad s.curTile (o e))) =
      eltsStored s d k w o := by
  rw [State.storePass, eltsStored_eq, List.length_map]
  split
  · exact performStores_elts hwait .refl _ hlt
  · exact together_congr s (performStores_elts hwait .refl _ hlt) (performStores_elts hwait (SameTurn.collect .refl) _ hlt)

/-- An element-wise store to the own tile. -/
theorem posted_elts {a : GIx} {op : Opnd} (hw : EltWidth w) (h : ownElts s a k w permST o)
    (hchecks : s.checks [op] none = .ok [(activeElts s k w).map fun e => (eltElem w off e, gaSpad s.curTile (o e))])
    {opnd : Word} {fin : Thread → Thread} :
    s.posted op none none opnd (eltFlit (s.cur.rv d) w) fin = .next ((eltsStored s d k w o).setCur (fin s.cur)) := by
  have ⟨_, _, _, _, _, _, hserved, hwait, _⟩ := h
  have hstore := storePass_elts (off := off) (d := d) hwait fun e he => ownElts_lt hw h he
  rw [posted_pass hchecks (onePass_elts hw h) hserved (by rw [hstore]; exact sameTurn_eltsStored hwait), hstore]

theorem stvs_own {ew : EltW} {a b : GIx} {m : BitVec 20} (hb : (s.cur.rd b).tag ≠ .poison) (h : ownElts s a k (eltBits ew) permST o)
    (hnames : ∀ e ∈ activeElts s k (eltBits ew), names s a (dispM m + e * (s.cur.rd b).low.toInt) (o e)) :
    exec (.stvs ew d a b k m) s = .next (retireIn (eltsStored s d k (eltBits ew) o) s (incM s a m)) := by
  have hw := eltWidth_eltBits ew
  have ⟨_, _, _, _, _, _, _, hwait, _⟩ := h
  have hchecks := checks_elts (op := strideOpnd s.cur ew a b k m permST) hw h hnames rfl rfl rfl rfl strideOpnd_elems
  change execStvs ew d a b k m s = _
  rw [execStvs, stridePoison_none hb, posted_elts hw h hchecks, setCur_retire_incM (sameTurn_eltsStored hwait)]

theorem vscat_own {a : GIx} {b : VIx} {disp : BitVec 19} (hb : ∀ j, j < 16 → laneActive s k j → vBad (s.cur.rv b) j = false)
    (h : ownElts s a k 32 permST o)
    (hnames : ∀ e ∈ activeElts s k 32, names s a (disp.toInt + (BitVec.ofNat 32 (vElt (s.cur.rv b) 32 e)).toInt) (o e)) :
    exec (.vscat d a b k disp) s = .next (retireIn (eltsStored s d k 32 o) s s.cur) := by
  have hw : EltWidth 32 := Or.inr (Or.inr rfl)
  have ⟨_, _, _, _, _, _, _, hwait, _⟩ := h
  have hchecks := checks_elts (op := gatherOpnd s.cur a b k disp permST) hw h hnames rfl rfl rfl rfl gatherOpnd_elems
  change execVscat d a b k disp s = _
  rw [execVscat, offsetPoison_none hb, posted_elts hw h hchecks, setCur_retire (sameTurn_eltsStored hwait) rfl rfl]

/-! ## Row stores with no active lane (R163, R168, log 23) -/

variable {a : GIx} {m : BitVec 20}

theorem stv_noLane (hcap : (s.cur.rd a).tag = .cap) (hgrants : (s.cur.rd a).grants permST = true)
    (htile : (s.cur.rd a).namesTile s.pkg s.curTile = true) (hserved : s.cur.served = []) (hlane : ¬someLane s k) :
    exec (.stv d a k m) s = .next (retireIn s s (incM s a m)) := by
  have hpass : s.storePass (fun _ => rowFlit .storev s.cur d k) [] = s := rfl
  change execStv d a k m s = _
  rw [execStv, posted_pass (checks_noRow hcap hgrants htile hlane) (onePass_nil s) hserved .refl, hpass, setCur_retire_incM .refl]

theorem flagOwn_gaSpad {t f n : Nat} {dn : Done} (ht : s.curTile = t) (hlt : t < 4096) (hf : f < 2 ^ 19) :
    s.flagOwn (gaSpad t f) n dn = s.signalAt (spad t f) n (dn.sig - 1) t := by
  subst ht
  simp only [State.flagOwn, homeOf_gaSpad hlt hf, if_true, gaOff_gaSpad _ hf]
  rfl

theorem Reaches.onTile {need n x : Nat} {disp : Int} {sp : Spaces} (h : Reaches s a need s.curTile x n disp) (hn : n ∣ 2 ^ 32)
    (hsp : sp.scratch = true) : OnTile s (addrOpnd s.cur a need sp n disp) ∧
      (addrOpnd s.cur a need sp n disp).gaOf s.pkg { off := disp, size := n } = gaSpad s.curTile x := by
  have hreach := h.reach (Nat.pos_of_dvd_of_pos hn (by norm_num))
  refine ⟨⟨h.cap, h.grants, h.kind, hsp, fun e he => ?_⟩, ?_⟩
  · obtain rfl := List.mem_singleton.mp he
    exact ⟨_, hreach, (gaSpad_aligned hn h.aligned).trans (Nat.zero_mod _).symm⟩
  · unfold Opnd.gaOf
    rw [show (addrOpnd s.cur a need sp n disp).reg = s.cur.rd a from rfl, hreach]

/-- The checks of a row of no active lane and of a flag of the own tile. -/
theorem checks_noRow_flag {c : GIx} {f : Nat} (hcap : (s.cur.rd a).tag = .cap) (hgrants : (s.cur.rd a).grants permST = true)
    (htile : (s.cur.rd a).namesTile s.pkg s.curTile = true) (hlane : ¬someLane s k) (h : Reaches s c permFL s.curTile f 8 0) :
    s.checks [rowOpnd s.cur a k m permST, addrOpnd s.cur c permFL flagSpaces 8 0] none =
      .ok [[], [({ off := 0, size := 8 }, gaSpad s.curTile f)]] := by
  obtain ⟨hrow, helems⟩ := onTile_noRow (m := m) hcap hgrants htile hlane
  obtain ⟨hflag, hga⟩ := h.onTile (sp := flagSpaces) (by decide) rfl
  have hall : ∀ x ∈ [rowOpnd s.cur a k m permST, addrOpnd s.cur c permFL flagSpaces 8 0], OnTile s x := by
    simp only [List.mem_cons, List.not_mem_nil, or_false, forall_eq_or_imp, forall_eq]
    exact ⟨hrow, hflag⟩
  rw [checks_of_onTile hall, List.map_cons, List.map_singleton, helems, show (addrOpnd s.cur c permFL flagSpaces 8 0).elems =
    [{ off := 0, size := 8 }] from rfl, List.map_singleton, hga]
  rfl

/-- PUTVF with no active lane writes nothing and signals its flag. -/
theorem putvf_noLane {c : GIx} (hcap : (s.cur.rd a).tag = .cap) (hgrants : (s.cur.rd a).grants permST = true)
    (htile : (s.cur.rd a).namesTile s.pkg s.curTile = true) (hserved : s.cur.served = []) (hwait : s.cur.wait = .none)
    (hlane : ¬someLane s k) (hflag : flagReady s c) :
    ∃ s2, signalsFlag s c 0 s s2 ∧ exec (.putvf d a k c m) s = .next (retireIn s2 s (incM s a m)) := by
  change ∃ s2, _ ∧ execPutvf d a k c m s = _
  by_cases hc : c = 0
  · have hpass : s.storePass (fun _ => rowFlit .putv s.cur d k) [] = s := rfl
    refine ⟨s, ⟨fun _ => rfl, fun hne => absurd hc hne⟩, ?_⟩
    rw [execPutvf, hc, flagOpnd_zero, posted_pass (checks_noRow hcap hgrants htile hlane) (onePass_nil s) hserved .refl, hpass,
      setCur_retire_incM .refl]
  · obtain ⟨f, hnames, hown⟩ := hflag.resolve_left hc
    have hreach := reaches_of_own hnames hown
    have hf : f < 2 ^ 19 := by have := hreach.within; omega
    have ht := hreach.tile_lt
    have hsignal : SameTurn s (s.signalAt (spad s.curTile f) 1 (0 - 1) s.curTile) := SameTurn.signalAt hwait .refl _ _ _ _
    have hown' : s.ownGa (gaSpad s.curTile f) = true := by rw [ownGa_gaSpad ht hf, decide_eq_true rfl]
    refine ⟨_, ⟨fun h => absurd h hc, fun _ => ⟨f, hnames, hown, rfl⟩⟩, ?_⟩
    rw [execPutvf, flagOpnd_of_ne hc, posted_flag (checks_noRow_flag hcap hgrants htile hlane hreach) hown',
      flagOwn_gaSpad rfl ht hf, hsignal.cur, setCur_retire_incM hsignal]

end
end Sys2Proof.Machine

namespace Sys2Proof.Machine
open Sys2Proof.Claims

/-! ## Loads and stores at the own tile together (R91, R160-R166) -/

theorem loadsAtOwnTile : LoadsAtOwnTile := by
  intro s d a m o hnames
  refine ⟨fun z sz _ hown hfree => ld_own (reaches_of_own hnames hown) hfree, fun hown hfree => ?_⟩
  have htogether : (s.together fun v => v.lookWords (spad v.curTile o) 2) = s.together fun v => v.lookWords (spad s.curTile o) 2 :=
    together_congr s rfl rfl
  intro s1 p v
  have hs1 : s1 = s.together fun v => v.lookWords (spad s.curTile o) 2 := htogether
  rw [ldcap_own (reaches_of_own hnames hown) hfree, ← hs1]
  rfl

theorem vectorLoadsAtOwnTile : VectorLoadsAtOwnTile := by
  intro s d a k
  refine ⟨fun m o hnames hrow hfree hlane => ?_, fun m hcap hgrants htile hfree hlane => ?_, fun ew b m o hb h hnames => ?_,
    fun b off o hb h hnames => ?_⟩
  · intro s1
    have hs1 : s1 = s.together fun v => v.lookWords (spad s.curTile o) 8 := together_congr s rfl rfl
    have ⟨_, _, _, _, halign, _⟩ := hrow
    have hp : spad s.curTile o % 8 = 0 := spad_mod _ (by omega)
    refine ⟨mkVReg (rowReceived s s1 d k (spad s.curTile o)), ?_, fun j hj => rowReceived_lanes hp hj⟩
    rw [hs1]
    exact ldv_own hnames hrow hfree hlane
  · exact ⟨_, ldv_noLane hcap hgrants htile (served_of_free hfree) hlane, fun j hj => sameLane_mkVReg hj rfl⟩
  · exact ⟨_, ldvs_own hb h hnames, eltsLoaded_mkVReg (eltWidth_eltBits ew)⟩
  · exact ⟨_, vgath_own hb h hnames, eltsLoaded_mkVReg (Or.inr (Or.inr rfl))⟩

theorem storesAtOwnTile : StoresAtOwnTile := by
  intro s a k m o hnames hfree
  refine ⟨fun sz d hown => st_own (reaches_of_own hnames hown) hfree, fun d hown => ?_, fun d hrow hlane => stv_own hnames hrow hfree hlane⟩
  intro v body
  rw [stcap_own (reaches_of_own hnames hown) hfree]
  exact congrArg (fun u => Host.Outcome.next (retireIn u s (incM s a m))) (together_congr s rfl rfl)

theorem elementStoresAtOwnTile : ElementStoresAtOwnTile := by
  intro s d a k
  refine ⟨fun ew b m o hb h hnames => stvs_own hb h hnames, fun b off o hb h hnames => vscat_own hb h hnames,
    fun m hcap hgrants htile hfree hlane => ?_⟩
  obtain ⟨hserved, hwait, -⟩ := hfree
  exact ⟨stv_noLane hcap hgrants htile hserved hlane,
    fun c hflag => putvf_noLane hcap hgrants htile hserved hwait hlane hflag⟩

/-- Settles O27: each instruction's checks find its targets in the thread's own scratchpad, one pass performs them all, and what the
waking of waiters leaves of the thread retires with what the words read or the address register gives. -/
theorem ownTileAccesses : Obligations.OwnTileAccesses :=
  ⟨⟨loadsAtOwnTile, vectorLoadsAtOwnTile⟩, storesAtOwnTile, elementStoresAtOwnTile⟩

end Sys2Proof.Machine

namespace Sys2Proof.Machine
open Sys2Proof.Claims

/-! ## What an integer instruction writes (R104) -/

theorem int1_eq_writes (s : State) (d a : GIx) (f : Word → Word) :
    s.int1 d a f = writes s d (unary s a (f (s.cur.rd a).low)) := by
  rw [State.int1, unary, apply_ite (writes s d)]
  simp only [GReg.isPoison, beq_iff_eq, doneG_eq_writes]
  rfl

theorem int2_eq_writes (s : State) (d a b : GIx) (f : Word → Word → Word) :
    s.int2 d a b f = writes s d (binary s a b (f (s.cur.rd a).low (s.cur.rd b).low)) := by
  by_cases ha : (s.cur.rd a).tag = .poison
  · simp [State.int2, firstPoison, GReg.isPoison, ha, binary, doneG_eq_writes]
  by_cases hb : (s.cur.rd b).tag = .poison
  · simp [State.int2, firstPoison, GReg.isPoison, ha, hb, binary, unary, doneG_eq_writes]
  · simp [State.int2, firstPoison, GReg.isPoison, ha, hb, binary, unary, doneG_eq_writes, dataReg]

/-- An instruction that computes f of one register, f giving v there. -/
theorem exec_eq_writes_unary {i : Instr} {s : State} {d a : GIx} {v : Word} (f : Word → Word) (hexec : exec i s = s.int1 d a f)
    (hv : f (s.cur.rd a).low = v) : exec i s = writes s d (unary s a v) := by
  rw [hexec, int1_eq_writes, hv]

/-- Every instruction that i makes of registers writes g of its two operands, or the first of them that is poisoned. -/
def WritesBinary (i : GIx → GIx → GIx → Instr) (g : Word → Word → Word) : Prop :=
  ∀ (s : State) (d a b : GIx), exec (i d a b) s = writes s d (binary s a b (g (s.cur.rd a).low (s.cur.rd b).low))

theorem writesBinary_of_int2 {i : GIx → GIx → GIx → Instr} {f g : Word → Word → Word} (hfg : ∀ x y, f x y = g x y)
    (hexec : ∀ s d a b, exec (i d a b) s = s.int2 d a b f) : WritesBinary i g := by
  intro s d a b
  rw [hexec, int2_eq_writes, hfg]

/-! ## The values of Table 5.1 over exact integers (R105, R107) -/

theorem add_exact (x y : Word) : x + y = .ofInt 64 (x.toInt + y.toInt) := by
  rw [BitVec.ofInt_add, BitVec.ofInt_toInt, BitVec.ofInt_toInt]

theorem sub_exact (x y : Word) : x - y = .ofInt 64 (x.toInt - y.toInt) := by
  rw [Int.sub_eq_add_neg, BitVec.ofInt_add, BitVec.ofInt_neg, BitVec.ofInt_toInt, BitVec.ofInt_toInt, BitVec.sub_eq_add_neg]

theorem mul_exact (x y : Word) : x * y = .ofInt 64 (x.toInt * y.toInt) := by
  rw [BitVec.ofInt_mul, BitVec.ofInt_toInt, BitVec.ofInt_toInt]

theorem shiftLeft_exact (x : Word) (n : Nat) : x <<< n = .ofNat 64 (x.toNat * 2 ^ n) :=
  BitVec.eq_of_toNat_eq (by rw [BitVec.toNat_shiftLeft, BitVec.toNat_ofNat, Nat.shiftLeft_eq])

theorem shiftRight_exact (x : Word) (n : Nat) : x >>> n = .ofNat 64 (x.toNat / 2 ^ n) := by
  rw [← Nat.shiftRight_eq_div_pow, ← BitVec.toNat_ushiftRight, BitVec.ofNat_toNat, BitVec.setWidth_eq]

theorem sshiftRight_exact (x : Word) (n : Nat) : x.sshiftRight n = .ofInt 64 (x.toInt / 2 ^ n) := by
  rw [BitVec.sshiftRight, Int.shiftRight_eq_div_pow]
  norm_cast

theorem min_exact (x y : Word) : (if y.slt x then y else x) = .ofInt 64 (min x.toInt y.toInt) := by
  by_cases h : y.toInt < x.toInt
  · rw [if_pos (BitVec.slt_iff_toInt_lt.mpr h), min_eq_right h.le, BitVec.ofInt_toInt]
  · rw [if_neg (mt BitVec.slt_iff_toInt_lt.mp h), min_eq_left (not_lt.mp h), BitVec.ofInt_toInt]

theorem max_exact (x y : Word) : (if x.slt y then y else x) = .ofInt 64 (max x.toInt y.toInt) := by
  by_cases h : x.toInt < y.toInt
  · rw [if_pos (BitVec.slt_iff_toInt_lt.mpr h), max_eq_right h.le, BitVec.ofInt_toInt]
  · rw [if_neg (mt BitVec.slt_iff_toInt_lt.mp h), max_eq_left (not_lt.mp h), BitVec.ofInt_toInt]

theorem ofNat_toNat_word (x : Word) : BitVec.ofNat 64 x.toNat = x := by rw [BitVec.ofNat_toNat, BitVec.setWidth_eq]

theorem minu_exact (x y : Word) : (if y.ult x then y else x) = .ofNat 64 (min x.toNat y.toNat) := by
  by_cases h : y.toNat < x.toNat
  · rw [if_pos (BitVec.ult_iff_toNat_lt.mpr h), min_eq_right h.le, ofNat_toNat_word]
  · rw [if_neg (mt BitVec.ult_iff_toNat_lt.mp h), min_eq_left (not_lt.mp h), ofNat_toNat_word]

theorem maxu_exact (x y : Word) : (if x.ult y then y else x) = .ofNat 64 (max x.toNat y.toNat) := by
  by_cases h : x.toNat < y.toNat
  · rw [if_pos (BitVec.ult_iff_toNat_lt.mpr h), max_eq_right h.le, ofNat_toNat_word]
  · rw [if_neg (mt BitVec.ult_iff_toNat_lt.mp h), max_eq_left (not_lt.mp h), ofNat_toNat_word]

theorem divS_exact (x y : Word) : divS x y = if y = 0 then -1 else .ofInt 64 (x.toInt.tdiv y.toInt) := by
  rw [divS]
  rfl

theorem divU_exact (x y : Word) : divU x y = if y = 0 then -1 else .ofNat 64 (x.toNat / y.toNat) := by
  rw [divU]
  rfl

theorem integerTwoSource : IntegerTwoSource := by
  change ∀ p ∈ twoSource, WritesBinary p.1 p.2
  simp only [twoSource, List.forall_mem_cons, List.not_mem_nil, false_imp_iff, implies_true, and_true]
  exact ⟨writesBinary_of_int2 add_exact fun _ _ _ _ => rfl,
    writesBinary_of_int2 sub_exact fun _ _ _ _ => rfl,
    writesBinary_of_int2 (fun _ _ => rfl) fun _ _ _ _ => rfl,
    writesBinary_of_int2 (fun _ _ => rfl) fun _ _ _ _ => rfl,
    writesBinary_of_int2 (fun _ _ => rfl) fun _ _ _ _ => rfl,
    writesBinary_of_int2 (fun _ _ => rfl) fun _ _ _ _ => rfl,
    writesBinary_of_int2 (fun x y => shiftLeft_exact x (shamt y)) fun _ _ _ _ => rfl,
    writesBinary_of_int2 (fun x y => shiftRight_exact x (shamt y)) fun _ _ _ _ => rfl,
    writesBinary_of_int2 (fun x y => sshiftRight_exact x (shamt y)) fun _ _ _ _ => rfl,
    writesBinary_of_int2 min_exact fun _ _ _ _ => rfl,
    writesBinary_of_int2 max_exact fun _ _ _ _ => rfl,
    writesBinary_of_int2 minu_exact fun _ _ _ _ => rfl,
    writesBinary_of_int2 maxu_exact fun _ _ _ _ => rfl,
    writesBinary_of_int2 mul_exact fun _ _ _ _ => rfl,
    writesBinary_of_int2 (fun _ _ => rfl) fun _ _ _ _ => rfl,
    writesBinary_of_int2 (fun _ _ => rfl) fun _ _ _ _ => rfl,
    writesBinary_of_int2 divS_exact fun _ _ _ _ => rfl,
    writesBinary_of_int2 divU_exact fun _ _ _ _ => rfl,
    writesBinary_of_int2 (fun _ _ => rfl) fun _ _ _ _ => rfl,
    writesBinary_of_int2 (fun _ _ => rfl) fun _ _ _ _ => rfl⟩

/-! ## Counts by the bits they count (R108, Table 5.3) -/

theorem leading_clz64 (x : Word) : leading x (clz64 x.toNat) := by
  unfold leading clz64
  by_cases hx : x.toNat = 0
  · rw [if_pos hx]
    refine ⟨le_rfl, fun i _ _ => ?_, fun h => absurd h (lt_irrefl 64)⟩
    rw [BitVec.getLsbD, hx, Nat.zero_testBit]
  · rw [if_neg hx]
    have hlog : x.toNat.log2 < 64 := (Nat.log2_lt hx).mpr x.isLt
    refine ⟨by omega, fun i hi _ => ?_, fun _ => ?_⟩
    · exact Nat.testBit_lt_two_pow ((Nat.log2_lt hx).mp (by omega))
    · rw [BitVec.getLsbD, show 63 - (63 - x.toNat.log2) = x.toNat.log2 by omega]
      exact Nat.testBit_log2 hx

theorem ctzUpTo_spec (n x : Nat) :
    ctzUpTo n x ≤ n ∧ (∀ i, i < ctzUpTo n x → x.testBit i = false) ∧ (ctzUpTo n x < n → x.testBit (ctzUpTo n x) = true) := by
  induction n generalizing x with
  | zero => exact ⟨le_rfl, fun i hi => absurd hi (Nat.not_lt_zero i), fun h => absurd h (lt_irrefl 0)⟩
  | succ n ih =>
    obtain ⟨hle, hzeros, hone⟩ := ih (x / 2)
    rw [ctzUpTo]
    split_ifs with hodd
    · exact ⟨Nat.zero_le _, fun i hi => absurd hi (Nat.not_lt_zero i), fun _ => by rw [Nat.testBit_zero, decide_eq_true hodd]⟩
    · refine ⟨Nat.succ_le_succ hle, fun i hi => ?_, fun h => ?_⟩
      · cases i with
        | zero => rw [Nat.testBit_zero, decide_eq_false hodd]
        | succ i => rw [Nat.testBit_add_one, hzeros i (Nat.lt_of_succ_lt_succ hi)]
      · rw [Nat.testBit_add_one, hone (Nat.lt_of_succ_lt_succ h)]

theorem popUpTo_eq (n x : Nat) : popUpTo n x = ((List.range n).filter x.testBit).length := by
  induction n generalizing x with
  | zero => rfl
  | succ n ih =>
    have hhigh : x.testBit ∘ Nat.succ = (x / 2).testBit := funext fun i => Nat.testBit_succ x i
    rw [popUpTo, ih, List.range_succ_eq_map, List.filter_cons, List.filter_map, hhigh, Nat.testBit_zero]
    by_cases hodd : x % 2 = 1
    · rw [decide_eq_true hodd, if_pos rfl, List.length_cons, List.length_map, hodd, Nat.add_comm]
    · rw [decide_eq_false hodd, if_neg Bool.false_ne_true, List.length_map, Nat.mod_two_ne_one.mp hodd, Nat.zero_add]

/-! ## Extensions, fields and immediates (R108-R111) -/

theorem signExtend_exact (x : Word) (w : Fin 64) :
    (x.setWidth (w.val + 1)).signExtend 64 = .ofInt 64 (x.toInt.bmod (2 ^ (w.val + 1))) := by
  rw [BitVec.signExtend, BitVec.toInt_setWidth, BitVec.toInt_eq_toNat_bmod x, Int.bmod_bmod_of_dvd (pow_dvd_pow 2 (by omega))]

theorem zeroExtend_exact (x : Word) (w : Nat) : (x.setWidth w).setWidth 64 = .ofNat 64 (x.toNat % 2 ^ w) :=
  BitVec.eq_of_toNat_eq (by rw [BitVec.toNat_setWidth, BitVec.toNat_setWidth, BitVec.toNat_ofNat])

theorem fieldMask_bit (w pos : Nat) {i : Nat} (hi : i < 64) : (fieldMask w pos).getLsbD i = decide (pos ≤ i ∧ i < pos + w) := by
  rw [fieldMask, BitVec.getLsbD_ofNat, decide_eq_true hi, Bool.true_and, Nat.testBit_mul_two_pow, Nat.testBit_two_pow_sub_one,
    ← Bool.decide_and]
  exact decide_eq_decide.mpr (by omega)

theorem bfx_exact (x : Word) (w : Fin 64) (p : Nat) :
    (x >>> p) &&& fieldMask (w.val + 1) 0 = .ofNat 64 (x.toNat / 2 ^ p % 2 ^ (w.val + 1)) := by
  refine BitVec.eq_of_toNat_eq ?_
  have hmask : (fieldMask (w.val + 1) 0).toNat = 2 ^ (w.val + 1) - 1 := by
    have hle : 2 ^ (w.val + 1) ≤ 2 ^ 64 := Nat.pow_le_pow_right (by norm_num) (by omega)
    rw [fieldMask, Nat.pow_zero, Nat.mul_one, BitVec.toNat_ofNat, Nat.mod_eq_of_lt (by omega)]
  have hlt : x.toNat / 2 ^ p % 2 ^ (w.val + 1) < 2 ^ 64 :=
    (Nat.mod_le _ _).trans_lt ((Nat.div_le_self _ _).trans_lt x.isLt)
  rw [BitVec.toNat_and, hmask, Nat.and_two_pow_sub_one_eq_mod, BitVec.toNat_ushiftRight, Nat.shiftRight_eq_div_pow, BitVec.toNat_ofNat,
    Nat.mod_eq_of_lt hlt]

/-- The field of x put into old: bits [pos + w, pos] of the result are x's low ones. -/
theorem bfi_bit (x old : Word) (w pos i : Nat) (hi : i < 64) :
    ((old &&& ~~~fieldMask (w + 1) pos) ||| ((x <<< pos) &&& fieldMask (w + 1) pos)).getLsbD i =
      if pos ≤ i ∧ i ≤ pos + w then x.getLsbD (i - pos) else old.getLsbD i := by
  have hmask : (fieldMask (w + 1) pos).getLsbD i = decide (pos ≤ i ∧ i ≤ pos + w) :=
    (fieldMask_bit _ _ hi).trans (decide_eq_decide.mpr (by omega))
  rw [BitVec.getLsbD_or, BitVec.getLsbD_and, BitVec.getLsbD_and, BitVec.getLsbD_not, BitVec.getLsbD_shiftLeft, hmask, decide_eq_true hi]
  by_cases h : pos ≤ i ∧ i ≤ pos + w
  · rw [if_pos h, decide_eq_true h, decide_eq_false (Nat.not_lt.mpr h.1)]
    simp
  · rw [if_neg h, decide_eq_false h]
    simp

theorem addi_exact (x : Word) (m : BitVec 20) : x + imm20 m = .ofInt 64 (x.toInt + m.toInt) := by
  rw [BitVec.ofInt_add, BitVec.ofInt_toInt]
  rfl

theorem integerOneSource : IntegerOneSource := by
  intro s d a x
  exact ⟨⟨_, leading_clz64 x, int1_eq_writes s d a fun x => .ofNat 64 (clz64 x.toNat)⟩,
    ⟨_, ctzUpTo_spec 64 x.toNat, int1_eq_writes s d a fun x => .ofNat 64 (ctzUpTo 64 x.toNat)⟩,
    ⟨_, popUpTo_eq 64 x.toNat, int1_eq_writes s d a fun x => .ofNat 64 (popUpTo 64 x.toNat)⟩,
    fun w => exec_eq_writes_unary (fun x => (x.setWidth (w.val + 1)).signExtend 64) rfl (signExtend_exact x w),
    fun w => exec_eq_writes_unary (fun x => (x.setWidth (w.val + 1)).setWidth 64) rfl (zeroExtend_exact x (w.val + 1)),
    fun n => exec_eq_writes_unary (fun x => x <<< n.val) rfl (shiftLeft_exact x n.val),
    fun n => exec_eq_writes_unary (fun x => x >>> n.val) rfl (shiftRight_exact x n.val),
    fun n => exec_eq_writes_unary (fun x => x.sshiftRight n.val) rfl (sshiftRight_exact x n.val),
    fun w p => exec_eq_writes_unary (fun x => (x >>> p.val) &&& fieldMask (w.val + 1) 0) rfl (bfx_exact x w p.val),
    fun w p _ => ⟨_, fun i hi => bfi_bit x (s.cur.rd d).low w.val p.val i hi,
      int2_eq_writes s d a d fun x y => (y &&& ~~~fieldMask (w.val + 1) p.val) ||| ((x <<< p.val) &&& fieldMask (w.val + 1) p.val)⟩,
    fun m => exec_eq_writes_unary (fun x => x + imm20 m) rfl (addi_exact x m),
    fun m => int1_eq_writes s d a fun x => x &&& imm20 m,
    fun m => int1_eq_writes s d a fun x => x ||| imm20 m,
    fun m => int1_eq_writes s d a fun x => x ^^^ imm20 m⟩

/-- Settles O14: each operation on one or two registers passes a poisoned operand on or writes its function of them, and the function is
read over exact integers, or by its bits. -/
theorem integerResults : Obligations.IntegerResults := ⟨integerTwoSource, integerOneSource⟩

/-! ## Moves (R106, R111, R126, R194) -/

theorem moviShifted_exact (x : BitVec 48) : x.setWidth 64 <<< 16 = BitVec.ofNat 64 (x.toNat * 65536) := by
  rw [shiftLeft_exact, BitVec.toNat_setWidth, Nat.mod_eq_of_lt (by omega), show 65536 = 2 ^ 16 from rfl]

theorem execCapclr_eq (s : State) (d a : GIx) :
    exec (.capclr d a) s = writes s d (if (s.cur.rd a).tag = .cap then dataReg (s.cur.rd a).low else s.cur.rd a) := by
  change s.doneG d (if (s.cur.rd a).isCap = true then dataReg (s.cur.rd a).low else s.cur.rd a) = _
  simp only [doneG_eq_writes, GReg.isCap, beq_iff_eq]

/-- Settles O13: each writes the register that its entry names, CAPCLR by the tag of gA. -/
theorem moves : Obligations.Moves := by
  intro s d a x
  refine ⟨done_cur s, doneG_eq_writes s d _, doneG_eq_writes s d _, ?_, fun hcap => ?_, fun hcap => ?_⟩
  · rw [← moviShifted_exact]
    exact doneG_eq_writes s d _
  · rw [execCapclr_eq, if_pos hcap]
    rfl
  · rw [execCapclr_eq, if_neg hcap]

end Sys2Proof.Machine

namespace Sys2Proof.Machine
open Sys2Proof.Claims

/-! ## Annulled instructions (R15, R112, R114) -/

/-- The current thread once its instruction has retired and a walk stands at the n-th successor with k annulments to make. -/
def State.walker (s : State) (n k : Nat) : Thread := { s.cur.retire with pc := succN s.cur n, skip := k }

theorem setCur_walker (s : State) (n k : Nat) : s.setCur (s.walker n k) = skipsTo s (succN s.cur n) k := rfl

/-- The walk passes an instruction whose line it may read. -/
theorem walkSkips_passable {s : State} {n : Nat} (h : passable s s.cur (succN s.cur n)) (fuel k : Nat) :
    (s.walker n (k + 1)).walkSkips s.pkg s.curTile (fuel + 1) = (s.walker (n + 1) k).walkSkips s.pkg s.curTile fuel := by
  obtain ⟨l, hline, hsound, hallowed⟩ := h
  have hline' : (s.walker n (k + 1)).line (s.walker n (k + 1)).pc = some l := hline
  have hallowed' : lineAllowed (s.walker n (k + 1)).code s.pkg s.curTile (s.walker n (k + 1)).pc = true := hallowed
  have hskip : (s.walker n (k + 1)).skip ≠ 0 := Nat.succ_ne_zero k
  rw [Thread.walkSkips, if_neg hskip, hline']
  simp only [hallowed', hsound, Bool.not_true, Bool.or_self, Bool.false_eq_true, if_false]
  rfl

/-- The walk stands where it may not read the line. -/
theorem walkSkips_not_passable {s : State} {n : Nat} (h : ¬passable s s.cur (succN s.cur n)) (fuel k : Nat) :
    (s.walker n k).walkSkips s.pkg s.curTile fuel = s.walker n k := by
  cases fuel with
  | zero => rfl
  | succ fuel =>
    rw [Thread.walkSkips]
    split
    · rfl
    · split
      · rfl
      · next l hline =>
        refine if_pos ?_
        by_contra hno
        simp only [Bool.or_eq_true, Bool.not_eq_true', not_or, Bool.not_eq_true, Bool.not_eq_false] at hno
        exact h ⟨l, hline, hno.2, hno.1⟩

/-- A walk of k annulments with as many cycles stops after n of them, at the first line that it may not read. -/
theorem walkSkips_stops (s : State) (fuel : Nat) : ∀ i k, k ≤ fuel → ∃ n, n ≤ k ∧
    (s.walker i k).walkSkips s.pkg s.curTile fuel = s.walker (i + n) (k - n) ∧
    (∀ j, j < n → passable s s.cur (succN s.cur (i + j))) ∧ (n < k → ¬passable s s.cur (succN s.cur (i + n))) := by
  induction fuel with
  | zero =>
    intro i k hk
    obtain rfl := Nat.le_zero.mp hk
    exact ⟨0, le_rfl, rfl, fun j hj => absurd hj (Nat.not_lt_zero j), fun h => absurd h (lt_irrefl 0)⟩
  | succ fuel ih =>
    intro i k hk
    by_cases hpass : passable s s.cur (succN s.cur i)
    · cases k with
      | zero => exact ⟨0, le_rfl, rfl, fun j hj => absurd hj (Nat.not_lt_zero j), fun h => absurd h (lt_irrefl 0)⟩
      | succ k =>
        obtain ⟨n, hn, hwalk, hpassed, hstops⟩ := ih (i + 1) k (Nat.le_of_succ_le_succ hk)
        refine ⟨n + 1, Nat.succ_le_succ hn, ?_, fun j hj => ?_, fun h => ?_⟩
        · rw [walkSkips_passable hpass, hwalk, Nat.add_right_comm, Nat.add_assoc, Nat.add_sub_add_right]
        · cases j with
          | zero => exact hpass
          | succ j => rw [Nat.add_comm j, ← Nat.add_assoc]; exact hpassed j (Nat.lt_of_succ_lt_succ hj)
        · rw [Nat.add_comm n, ← Nat.add_assoc]
          exact hstops (Nat.lt_of_succ_lt_succ h)
    · exact ⟨0, Nat.zero_le k, walkSkips_not_passable hpass _ k, fun j hj => absurd hj (Nat.not_lt_zero j), fun _ => hpass⟩

/-- A compare-skip whose condition is c. -/
theorem skips_skipIf (s : State) {c : Bool} {p : Prop} (hc : c = true ↔ p) (k : Fin 4) : skips s p k (s.skipIf c k) := by
  rw [← hc]
  refine ⟨fun hno => ?_, fun hyes => ?_⟩
  · rw [State.skipIf, if_neg hno]
    rfl
  · rw [State.skipIf, if_pos hyes]
    cases hreplay : s.curT.replay
    · obtain ⟨n, hn, hwalk, hpassed, hstops⟩ := walkSkips_stops s 3 1 k (by omega)
      refine ⟨n, hn, ?_, fun h => absurd h Bool.false_ne_true, fun _ => ⟨fun j hj => ?_, fun h => ?_⟩⟩
      · rw [Nat.add_comm n 1, ← setCur_walker, ← hwalk]
        rfl
      · rw [Nat.add_comm j 1]; exact hpassed j hj
      · rw [Nat.add_comm n 1]; exact hstops h
    · exact ⟨0, Nat.zero_le _, rfl, fun _ => rfl, fun h => absurd h.symm Bool.false_ne_true⟩

/-! ## Operands of control (R113) -/

/-- An instruction whose operands steer control traps on the first that is poisoned. -/
def State.controlled (s : State) (l : List GReg) (go : Host.Outcome State Fault Refusal) : Host.Outcome State Fault Refusal :=
  match firstPoison l with
  | some p => s.trap causePoison p.cls
  | none => go

section
variable (s : State) {x y : GReg} (go : Host.Outcome State Fault Refusal)

theorem controlled_poison (h : x.tag = .poison) (l : List GReg) : s.controlled (x :: l) go = s.trap 0x08 (classOf x) := by
  rw [State.controlled, firstPoison_eq, List.find?_cons_of_pos (by simpa using h), ← cls_of_poison h]
  rfl

theorem controlled_clean (h : x.tag ≠ .poison) (l : List GReg) : s.controlled (x :: l) go = s.controlled l go := by
  rw [State.controlled, firstPoison_eq, List.find?_cons_of_neg (by simpa using h), ← firstPoison_eq, State.controlled]

theorem controlled_singleton : s.controlled [x] go = if x.isPoison then s.trap causePoison x.cls else go := by
  rw [State.controlled, firstPoison, firstPoison]
  cases x.isPoison <;> rfl

variable {go} {p : Prop} {k : Nat} (hgo : skips s p k go)
include hgo

/-- A compare-skip of one operand traps on it or decides. -/
theorem controlled_one : (x.tag = .poison → s.controlled [x] go = s.trap 0x08 (classOf x)) ∧
    (x.tag ≠ .poison → skips s p k (s.controlled [x] go)) := by
  refine ⟨fun hx => controlled_poison s go hx [], fun hx => ?_⟩
  rw [controlled_clean s go hx]
  exact hgo

/-- A compare-skip of two operands traps on the first, then on the second, or decides. -/
theorem controlled_two : (x.tag = .poison → s.controlled [x, y] go = s.trap 0x08 (classOf x)) ∧
    (x.tag ≠ .poison → y.tag = .poison → s.controlled [x, y] go = s.trap 0x08 (classOf y)) ∧
    (x.tag ≠ .poison → y.tag ≠ .poison → skips s p k (s.controlled [x, y] go)) := by
  obtain ⟨hpoison, hclean⟩ := controlled_one s (x := y) hgo
  refine ⟨fun hx => controlled_poison s go hx [y], fun hx => ?_, fun hx => ?_⟩
  all_goals rw [controlled_clean s go hx]
  · exact hpoison
  · exact hclean

end

/-! ## Conditions (Table 4.3) -/

theorem condHolds_iff (c : Cond) (x y : Word) : condHolds c x y = true ↔ integerCond c x y := by
  cases c with
  | eq => exact beq_iff_eq
  | ne => exact bne_iff_ne
  | lt => exact BitVec.slt_iff_toInt_lt
  | ge => rw [condHolds, integerCond, Bool.not_eq_true', ← Bool.not_eq_true, BitVec.slt_iff_toInt_lt, not_lt]
  | ltu => exact BitVec.ult_iff_toNat_lt
  | geu => rw [condHolds, integerCond, Bool.not_eq_true', ← Bool.not_eq_true, BitVec.ult_iff_toNat_lt, not_lt]

theorem tagCode_iff (r : GReg) (ne : Bool) (t : Fin 4) :
    ((Tag.code r.tag == t.val) != ne) = true ↔ if ne then tagNumber r ≠ t.val else tagNumber r = t.val := by
  have hcode : Tag.code r.tag = tagNumber r := rfl
  rw [hcode]
  cases ne <;> simp

/-! ## The compare-skips -/

section
variable (s : State) (k : Fin 4) (a b : GIx)

theorem exec_cmp (c : Cond) : exec (.cmp k c a b) s =
    s.controlled [s.cur.rd a, s.cur.rd b] (s.skipIf (condHolds c (s.cur.rd a).low (s.cur.rd b).low) k) := rfl

theorem exec_fcmp (c : FCond) : exec (.fcmp k c a b) s =
    s.controlled [s.cur.rd a, s.cur.rd b] (s.skipIf (fmtF32.cmp c (s.cur.rd a).f32 (s.cur.rd b).f32) k) := rfl

theorem exec_cmpi (c : Cond) (m : BitVec 20) :
    exec (.cmpi k c a m) s = s.controlled [s.cur.rd a] (s.skipIf (condHolds c (s.cur.rd a).low (imm m)) k) :=
  (controlled_singleton s _).symm

theorem exec_tstb (ne : Bool) (n : Fin 64) :
    exec (.tstb k ne a n) s = s.controlled [s.cur.rd a] (s.skipIf ((s.cur.rd a).low.getLsbD n.val == ne) k) :=
  (controlled_singleton s _).symm

end

/-- Settles O15: the operands are looked at in their order, and the walk over annulled instructions passes lines until it has made all its
annulments or may not read one. -/
theorem compareSkip : Obligations.CompareSkip := by
  intro s k a b x y
  refine ⟨fun c => ?_, fun c m => ?_, fun ne n => ?_, fun ne t => skips_skipIf s (tagCode_iff x ne t) k, fun c => ?_⟩
  · rw [exec_cmp]
    exact controlled_two s (skips_skipIf s (condHolds_iff c x.low y.low) k)
  · rw [exec_cmpi]
    exact controlled_one s (skips_skipIf s (condHolds_iff c x.low (imm m)) k)
  · rw [exec_tstb]
    exact controlled_one s (skips_skipIf s beq_iff_eq k)
  · rw [exec_fcmp]
    exact controlled_two s (skips_skipIf s Iff.rfl k)

end Sys2Proof.Machine

namespace Sys2Proof.Machine
open Sys2Proof.Claims

/-! ## Targets and links of jumps (R14, R116, R118) -/

theorem jumpTarget_eq (pc : Word) (off : BitVec 15) (h : Fin 32) :
    jumpTarget pc off h.val = (pc.extractLsb' 6 58 + off.signExtend 58) ++ (BitVec.ofNat 5 h.val) ++ (0 : BitVec 1) := by
  have hpc := pc.isLt
  have hline : pc.extractLsb' 6 58 = BitVec.ofInt 58 ((pc.toNat / 64 : Nat) : Int) := by
    refine BitVec.eq_of_toNat_eq ?_
    rw [BitVec.ofInt_natCast, BitVec.extractLsb'_toNat, Nat.shiftRight_eq_div_pow, BitVec.toNat_ofNat]
  have hsum : (pc.extractLsb' 6 58 + off.signExtend 58).toNat = wrapInt 58 ((pc.toNat / 64 : Nat) + sgn 15 off.toNat) := by
    rw [hline, BitVec.signExtend, ← BitVec.ofInt_add, BitVec.toNat_ofInt, sgn_eq_toInt, BitVec.ofNat_toNat, BitVec.setWidth_eq, wrapInt]
  have hhead : (BitVec.ofNat 5 h.val).toNat = h.val := Nat.mod_eq_of_lt h.isLt
  have hlt := (pc.extractLsb' 6 58 + off.signExtend 58).isLt
  refine BitVec.eq_of_toNat_eq ?_
  rw [toNat_pc, hhead, jumpTarget, ← hsum, BitVec.toNat_ofNat]
  omega

theorem want_eq (t : Thread) (off : Nat) : t.want off =
    { t with wanted := if (t.fbuf.lookup off).isSome ∨ t.wanted.contains off then t.wanted else t.wanted ++ [off] } := by
  simp only [Thread.want, Bool.or_eq_true]
  split_ifs <;> rfl

theorem setCur_jump (s : State) (t : Thread) (target : Word) : s.setCur (t.jump target) = jumps s t target := by
  rw [Thread.jump, want_eq]
  rfl

theorem jump_code (t : Thread) (target : Word) (c : Option Word) :
    ({ t.jump target with code := c } : Thread) = ({ t with code := c } : Thread).jump target := by
  rw [Thread.jump, Thread.jump, want_eq, want_eq]
  rfl

theorem withCursor_eq_moved (r : GReg) (c : Word) : r.withCursor c = moved r c := by
  rw [GReg.withCursor, movable_of_kind]
  rfl

/-- The link of a thread whose own line its code capability covers. -/
theorem link_eq_linkReg {s : State} {u : Word} (hcode : s.cur.code = some u) (hin : inLine s (some u) s.cur.pc) :
    s.cur.link = linkReg s u := by
  have htile : (capReg u s.cur.pc).kind = .tile := by
    simp only [inLine, lineAllowed, Bool.and_eq_true] at hin
    exact kind_of_namesTile hin.1.1.1
  have hmov : movable (capReg u s.cur.pc) = 19 := by rw [← movable_of_kind, htile]; rfl
  rw [Thread.link, hcode]
  change (capReg u s.cur.pc).withCursor s.cur.succ = _
  rw [withCursor_eq_moved, moved, hmov, capReg_low, capReg_upper]
  rfl

/-! ## J and JL (R116, R118) -/

/-- The current thread with the link in g15 where a jump writes one. -/
def linked (s : State) (u : Word) (link : Bool) : Thread := if link then s.cur.wr 15 (linkReg s u) else s.cur

section
variable {s : State} {u : Word} (hcode : s.cur.code = some u)
include hcode

theorem jumpLine_within (hin : inLine s (some u) s.cur.pc) {off : BitVec 15} {h : Fin 32} {target : Word}
    (htarget : jumpTarget s.cur.pc off h.val = target) (hok : inLine s (some u) target) (link : Bool) :
    s.jumpLine off h link = .next (jumps s (linked s u link) target) := by
  rw [State.jumpLine, htarget, hcode, link_eq_linkReg hcode hin, setCur_jump, if_neg (by simpa [inLine] using hok)]
  rfl

theorem jumpLine_outside {off : BitVec 15} {h : Fin 32} {target : Word}
    (htarget : jumpTarget s.cur.pc off h.val = target) (hno : ¬inLine s (some u) target) (link : Bool) :
    s.jumpLine off h link = s.trap 0x06 (target.toNat / 64 * 64) := by
  rw [State.jumpLine, htarget, hcode, if_pos (by simpa [inLine] using hno)]
  rfl

end

theorem jumpByLine : JumpByLine := by
  intro s off h u hcode hin target
  have htarget : jumpTarget s.cur.pc off h.val = target := jumpTarget_eq s.cur.pc off h
  exact ⟨fun hok => ⟨jumpLine_within hcode hin htarget hok false, jumpLine_within hcode hin htarget hok true⟩,
    fun hno => ⟨jumpLine_outside hcode htarget hno false, jumpLine_outside hcode htarget hno true⟩⟩

/-! ## JR and JLR (R117, R118, Table 5.6) -/

theorem grants_EX (r : GReg) : r.grants permEX = r.upper.getLsbD 58 := by
  have hand : r.perm &&& permEX = (r.perm.testBit 5).toNat * 2 ^ 5 := Nat.and_two_pow r.perm 5
  have hbit : r.upper.getLsbD 58 = r.perm.testBit 5 := by
    rw [GReg.upper, BitVec.getLsbD_extractLsb', ← getLsbD_perm r (i := 5) (by norm_num)]
    rfl
  rw [hbit, GReg.grants, hand]
  cases r.perm.testBit 5 <;> rfl

/-- A target between two heads, or at the header parcel of its line. -/
def misalignedPc (target : Word) : Prop := target.toNat % 2 = 1 ∨ target.toNat / 2 % 32 = 0

section
variable (t : Thread) (pkg tile : Nat) {r : GReg}

theorem jumpCheck_poison (h : r.tag = .poison) : jumpCheck t pkg tile r = some (causePoison, classOf r) := by
  simp [jumpCheck, GReg.isPoison, h, cls_of_poison]

theorem jumpCheck_no_EX (h : r.tag = .cap) (hex : r.upper.getLsbD 58 = false) :
    jumpCheck t pkg tile r = some (causePerm, r.low.toNat) := by
  have hgrants : r.grants permEX = false := (grants_EX r).trans hex
  simp [jumpCheck, GReg.isPoison, GReg.isCap, h, hgrants]

section
variable (h : r.tag = .cap) (hex : r.upper.getLsbD 58 = true)
include h hex

theorem jumpCheck_other_tile (hnames : r.namesTile pkg tile = false) : jumpCheck t pkg tile r = some (causePerm, r.low.toNat) := by
  have hgrants : r.grants permEX = true := (grants_EX r).trans hex
  simp [jumpCheck, GReg.isPoison, GReg.isCap, h, hgrants, hnames]

theorem jumpCheck_misaligned_cap (hnames : r.namesTile pkg tile = true) (hmis : misalignedPc r.low) :
    jumpCheck t pkg tile r = some (causeAlign, r.low.toNat) := by
  have hgrants : r.grants permEX = true := (grants_EX r).trans hex
  unfold misalignedPc at hmis
  simp [jumpCheck, GReg.isPoison, GReg.isCap, h, hgrants, hnames, hmis]

theorem jumpCheck_aligned_cap (hnames : r.namesTile pkg tile = true) (hmis : ¬misalignedPc r.low) : jumpCheck t pkg tile r =
    if lineAllowed (some r.upper) pkg tile r.low then none else some (causeBounds, lineAddr r.low) := by
  have hgrants : r.grants permEX = true := (grants_EX r).trans hex
  unfold misalignedPc at hmis
  simp [jumpCheck, GReg.isPoison, GReg.isCap, h, hgrants, hnames, hmis]

end

theorem jumpCheck_misaligned_data (h : r.tag = .data) (hmis : misalignedPc r.low) :
    jumpCheck t pkg tile r = some (causeAlign, r.low.toNat) := by
  unfold misalignedPc at hmis
  simp [jumpCheck, GReg.isPoison, GReg.isCap, h, hmis]

theorem jumpCheck_aligned_data (h : r.tag = .data) (hmis : ¬misalignedPc r.low) : jumpCheck t pkg tile r =
    if r.low.toNat / 2 ^ 19 = t.pc.toNat / 2 ^ 19 ∧ lineAllowed t.code pkg tile r.low = true then none
    else some (causeBounds, lineAddr r.low) := by
  unfold misalignedPc at hmis
  simp [jumpCheck, GReg.isPoison, GReg.isCap, h, hmis]

end

theorem jumpReg_trap {s : State} {a : GIx} {c v : Nat} (h : jumpCheck s.cur s.pkg s.curTile (s.cur.rd a) = some (c, v)) (link : Bool) :
    s.jumpReg a link = s.trap c v := by
  rw [State.jumpReg, h]

/-- The thread under the code capability that a jump through r leaves in force. -/
def Thread.under (t : Thread) (r : GReg) : Thread := if r.isCap then { t with code := some r.upper } else t

theorem under_cap (t : Thread) {r : GReg} (h : r.tag = .cap) : t.under r = { t with code := some r.upper } :=
  if_pos (by rw [GReg.isCap, h]; rfl)

theorem under_data (t : Thread) {r : GReg} (h : r.tag = .data) : t.under r = t :=
  if_neg (by rw [GReg.isCap, h]; decide)

/-- A jump that passes its checks. -/
theorem jumpReg_passed {s : State} {u : Word} (hcode : s.cur.code = some u) (hin : inLine s (some u) s.cur.pc) {a : GIx}
    (h : jumpCheck s.cur s.pkg s.curTile (s.cur.rd a) = none) (link : Bool) :
    s.jumpReg a link = .next (jumps s ((linked s u link).under (s.cur.rd a)) (s.cur.rd a).low) := by
  have hlinked : (if link then s.cur.wr 15 s.cur.link else s.cur) = linked s u link := by rw [link_eq_linkReg hcode hin]; rfl
  rw [State.jumpReg, h]
  dsimp only
  rw [hlinked, jump_code, ← setCur_jump, Thread.under]
  split <;> rfl

theorem jumpByRegister : JumpByRegister := by
  intro s a u o hcode hin r target misaligned ho
  obtain ⟨link, rfl⟩ : ∃ link, o = s.jumpReg a link := ho.elim (⟨false, ·⟩) (⟨true, ·⟩)
  refine ⟨fun h => jumpReg_trap (jumpCheck_poison _ _ _ h) link,
    fun h => ⟨fun hex => ?_, fun hex => ⟨fun hnames => ?_, fun hnames => ⟨fun hmis => ?_, fun hmis hno => ?_, fun hmis hok => ?_⟩⟩⟩,
    fun h => ⟨fun hmis => ?_, fun hmis hno => ?_, fun hmis hpage hok => ?_⟩⟩
  · exact jumpReg_trap (jumpCheck_no_EX _ _ _ h hex) link
  · exact jumpReg_trap (jumpCheck_other_tile _ _ _ h hex hnames) link
  · exact jumpReg_trap (jumpCheck_misaligned_cap _ _ _ h hex hnames hmis) link
  · exact jumpReg_trap ((jumpCheck_aligned_cap _ _ _ h hex hnames hmis).trans (if_neg hno)) link
  · have hpass := (jumpCheck_aligned_cap s.cur _ _ h hex hnames hmis).trans (if_pos hok)
    have hjump (link : Bool) := (jumpReg_passed hcode hin hpass link).trans
      (congrArg (fun t => Host.Outcome.next (jumps s t target)) (under_cap _ h))
    exact ⟨hjump false, hjump true⟩
  · exact jumpReg_trap (jumpCheck_misaligned_data _ _ _ h hmis) link
  · rw [← hcode] at hno
    exact jumpReg_trap ((jumpCheck_aligned_data _ _ _ h hmis).trans (if_neg hno)) link
  · rw [← hcode] at hok
    have hpass := (jumpCheck_aligned_data s.cur _ _ h hmis).trans (if_pos ⟨hpage, hok⟩)
    have hjump (link : Bool) := (jumpReg_passed hcode hin hpass link).trans
      (congrArg (fun t => Host.Outcome.next (jumps s t target)) (under_data _ h))
    exact ⟨hjump false, hjump true⟩

/-- Settles O16: the first check of a jump that fails names its trap; past them all the thread stands at the target, with a link made under
the code capability that it leaves. -/
theorem jumpsObligation : Obligations.Jumps := ⟨jumpByLine, jumpByRegister⟩

end Sys2Proof.Machine

namespace Sys2Proof.Machine
open Sys2Proof.Claims

/-! ## Fields and cursors of capabilities (R54, R121-R123) -/

/-- A capability instruction that writes q once its checks pass. -/
theorem capOp_writes (s : State) (d a : GIx) (others : List GIx) (mmio gr : Bool) (f : GReg → Except (Nat × Nat) GReg) {q : GReg}
    (hf : f (s.cur.rd a) = .ok q) : s.capOp d a others mmio gr f = guarded s a others mmio gr (writes s d q) := by
  rw [capOp_eq_guarded, hf]
  rfl

theorem capField_eq_selected (sel : CapSel) (r : GReg) : capField sel r = selected r sel := by
  cases sel with
  | cursor | upper => rfl
  | base | length => rw [capField, bounds_eq]; rfl
  | perm => rw [capField, perm_eq_field]; rfl
  | w => rw [capField, selected, ← wovenCap_eq]; cases wovenCap r <;> rfl

/-! ## Rights removed (R125) -/

theorem withPerm_upper_toNat (r : GReg) {p : Nat} (hp : p < 1024) :
    (r.withPerm p).upper.toNat = 2 ^ 53 * (2 ^ 10 * (r.upper.toNat / 2 ^ 63) + p) + r.upper.toNat % 2 ^ 53 := by
  have := r.upper.isLt
  rw [GReg.withPerm, capReg_upper, BitVec.toNat_ofNat]
  omega

/-- The bits of a body by its halves. -/
theorem body_bit_low (r : GReg) {i : Nat} (hi : i < 64) : r.body.getLsbD i = r.low.getLsbD i := by
  rw [GReg.low, BitVec.getLsbD_setWidth, decide_eq_true hi, Bool.true_and]

theorem body_bit_upper (r : GReg) {i : Nat} (hi : i < 64) : r.body.getLsbD (64 + i) = r.upper.toNat.testBit i := by
  rw [← BitVec.getLsbD, GReg.upper, BitVec.getLsbD_extractLsb', decide_eq_true hi, Bool.true_and]

/-- PERM replaced: its ten bits are p's, and every other bit of the body stays. -/
theorem withPerm_bit (r : GReg) {p i : Nat} (hp : p < 1024) (hi : i < 128) :
    (r.withPerm p).body.getLsbD i = if 117 ≤ i ∧ i < 127 then p.testBit (i - 117) else r.body.getLsbD i := by
  obtain hlow | ⟨j, rfl⟩ : i < 64 ∨ ∃ j, i = 64 + j := (Nat.lt_or_ge i 64).imp_right fun h => ⟨i - 64, by omega⟩
  · rw [if_neg (by omega), body_bit_low _ hlow, body_bit_low _ hlow, GReg.withPerm, capReg_low]
  have hj : j < 64 := by omega
  rw [body_bit_upper _ hj, body_bit_upper _ hj, withPerm_upper_toNat r hp,
    Nat.testBit_two_pow_mul_add _ (Nat.mod_lt _ (by norm_num))]
  obtain hbelow | ⟨k, rfl⟩ : j < 53 ∨ ∃ k, j = 53 + k := (Nat.lt_or_ge j 53).imp_right fun h => ⟨j - 53, by omega⟩
  · rw [if_pos hbelow, if_neg (by omega), Nat.testBit_mod_two_pow, decide_eq_true hbelow, Bool.true_and]
  rw [if_neg (by omega), Nat.testBit_two_pow_mul_add _ hp, Nat.add_sub_cancel_left, show 64 + (53 + k) - 117 = k by omega]
  by_cases hk : k < 10
  · rw [if_pos hk, if_pos (by omega)]
  · rw [if_neg hk, if_neg (by omega), Nat.testBit_div_two_pow, show k - 10 + 63 = 53 + k by omega]

theorem permKept_withPerm (r : GReg) (y : Word) : permKept r (r.withPerm (r.perm &&& (y.toNat % 1024))) y := by
  refine ⟨rfl, fun i hi => ?_⟩
  rw [withPerm_bit r ((Nat.and_le_left).trans_lt (perm_lt r)) hi]
  by_cases h : 117 ≤ i ∧ i < 127
  · have hsub : 117 + (i - 117) = i := by omega
    rw [if_pos h, Nat.testBit_and, show 1024 = 2 ^ 10 from rfl, Nat.testBit_mod_two_pow, decide_eq_true (by omega : i - 117 < 10),
      ← getLsbD_perm r (by omega), hsub, decide_eq_false (by omega)]
    rfl
  · rw [if_neg h, decide_eq_true (by omega), Bool.true_or, Bool.and_true]

theorem capabilityFieldsAndCursors : CapabilityFieldsAndCursors := by
  intro s d a b r y
  have hset : (.ok (r.withCursor y) : Except (Nat × Nat) GReg) = .ok (moved r y) := by rw [withCursor_eq_moved]
  have hadd : (.ok (r.withCursor (r.low + y)) : Except (Nat × Nat) GReg) = .ok (moved r (.ofNat 64 (r.low.toNat + y.toNat))) := by
    rw [withCursor_eq_moved, BitVec.ofNat_add, BitVec.ofNat_toNat, BitVec.ofNat_toNat, BitVec.setWidth_eq, BitVec.setWidth_eq]
  refine ⟨fun sel => ?_, capOp_writes s d a [b] true false (fun r => .ok (r.withCursor y)) hset,
    capOp_writes s d a [b] true false (fun r => .ok (r.withCursor (r.low + y))) hadd, _, permKept_withPerm r y,
    capOp_writes s d a [b] true true (fun r => .ok (r.withPerm (r.perm &&& (y.toNat % 1024)))) rfl⟩
  rw [← capField_eq_selected]
  exact capOp_writes s d a [] false false (fun r => .ok (dataReg (capField sel r))) rfl

/-! ## CAPCHK (R128, Table 5.11) -/

theorem grants_iff (r : GReg) (need : BitVec 10) :
    r.grants need.toNat = true ↔ ∀ i, i < 10 → need.getLsbD i = true → r.body.getLsbD (117 + i) = true := by
  rw [GReg.grants, beq_iff_eq]
  constructor
  · intro h i hi hneed
    rw [BitVec.getLsbD, ← h, Nat.testBit_and, Bool.and_eq_true] at hneed
    rw [getLsbD_perm r hi]
    exact hneed.1
  · intro h
    refine Nat.eq_of_testBit_eq fun i => ?_
    rw [Nat.testBit_and]
    cases hneed : need.toNat.testBit i
    · exact Bool.and_false _
    · have hi : i < 10 := BitVec.lt_of_getLsbD hneed
      rw [← getLsbD_perm r hi, h i hi hneed]
      rfl

theorem inReach_iff (r : GReg) (n : Nat) : inReach r n ↔ ¬outside r 0 n := by
  simp only [inReach, outside, reachPlace]
  omega

/-- The code of the bounds test (Table 5.11). -/
def reachCode : Reach → Nat
  | .ok _ => 0
  | .bounds => 5
  | .crosses => 6

section
variable {r y : GReg} {need : BitVec 10} {priv : Bool} {pkg : Nat}

theorem chkCode_data (h : r.tag = .data) : chkCode r y need.toNat priv pkg = 1 := by
  simp [chkCode, GReg.isCap, GReg.isPoison, h]

theorem chkCode_poison (h : r.tag = .poison ∨ (r.tag = .cap ∧ y.tag = .poison)) : chkCode r y need.toNat priv pkg = 2 := by
  obtain hr | ⟨hr, hy⟩ := h
  · simp [chkCode, GReg.isCap, GReg.isPoison, hr]
  · simp [chkCode, GReg.isCap, GReg.isPoison, hr, hy]

variable (hr : r.tag = .cap) (hy : y.tag ≠ .poison)
include hr hy

theorem chkCode_clean : chkCode r y need.toNat priv pkg =
    if !r.grants need.toNat then 3
    else if r.kind == .mmio && !priv then 4
    else if y.low.toNat = 0 then 0
    else reachCode (r.reach pkg 0 y.low.toNat) := by
  simp only [chkCode, GReg.isCap, GReg.isPoison, hr, beq_eq_false_iff_ne.mpr hy]
  rfl

theorem chkCode_right_missing (h : ∃ i, i < 10 ∧ need.getLsbD i = true ∧ r.body.getLsbD (117 + i) = false) :
    chkCode r y need.toNat priv pkg = 3 := by
  obtain ⟨i, hi, hneed, hno⟩ := h
  have hgrants : r.grants need.toNat = false := by
    rw [← Bool.not_eq_true, grants_iff]
    exact fun hall => Bool.false_ne_true (hno.symm.trans (hall i hi hneed))
  rw [chkCode_clean hr hy, hgrants]
  rfl

variable (hrights : ∀ i, i < 10 → need.getLsbD i = true → r.body.getLsbD (117 + i) = true)
include hrights

theorem chkCode_mmio (h : isMmio r = true ∧ priv = false) : chkCode r y need.toNat priv pkg = 4 := by
  rw [chkCode_clean hr hy, (grants_iff r need).mpr hrights, (kind_eq_mmio_iff r).mpr h.1, h.2]
  rfl

theorem chkCode_reach (h : ¬(isMmio r = true ∧ priv = false)) : chkCode r y need.toNat priv pkg =
    if y.low.toNat = 0 then 0 else reachCode (r.reach pkg 0 y.low.toNat) := by
  have hmmio : (r.kind == .mmio && !priv) = false := by
    rw [← Bool.not_eq_true, Bool.and_eq_true, beq_iff_eq, kind_eq_mmio_iff, Bool.not_eq_true']
    exact h
  rw [chkCode_clean hr hy, (grants_iff r need).mpr hrights, hmmio]
  rfl

end

theorem chkCode_le (r y : GReg) (need : Nat) (priv : Bool) (pkg : Nat) : chkCode r y need priv pkg ≤ 6 := by
  unfold chkCode
  dsimp only
  split_ifs
  case neg => split <;> decide
  all_goals decide

theorem capchk_gives {s : State} {d a b : GIx} {need : BitVec 10} {k : Nat}
    (h : chkCode (s.cur.rd a) (s.cur.rd b) need.toNat s.cur.priv s.pkg = k) :
    exec (.capchk d a b need) s = writes s d { tag := .data, body := BitVec.ofNat 128 k } := by
  have hk : k ≤ 6 := h ▸ chkCode_le _ _ _ _ _
  have hbody : (BitVec.ofNat 64 k).setWidth 128 = BitVec.ofNat 128 k := by
    refine BitVec.eq_of_toNat_eq ?_
    rw [BitVec.toNat_setWidth, BitVec.toNat_ofNat, BitVec.toNat_ofNat]
    omega
  change s.doneG d (dataReg (BitVec.ofNat 64 (chkCode (s.cur.rd a) (s.cur.rd b) need.toNat s.cur.priv s.pkg))) = _
  rw [h, dataReg, hbody, doneG_eq_writes]

theorem capabilityCheckCode : CapabilityCheckCode := by
  intro s d a b need r n gives
  refine ⟨fun h => capchk_gives (chkCode_data h), fun h => capchk_gives (chkCode_poison h), fun hr hy =>
    ⟨fun h => capchk_gives (chkCode_right_missing hr hy h), fun hrights => ⟨fun h => capchk_gives (chkCode_mmio hr hy hrights h),
      fun h => ?_⟩⟩⟩
  have hcode : chkCode r (s.cur.rd b) need.toNat s.cur.priv s.pkg = if n = 0 then 0 else reachCode (r.reach s.pkg 0 n) :=
    chkCode_reach hr hy hrights h
  have hreach {k : Nat} {q : Reach} (hn : 0 < n) (hq : r.reach s.pkg 0 n = q) (hk : reachCode q = k) : gives k := by
    refine capchk_gives (hcode.trans ?_)
    rw [if_neg hn.ne', hq, hk]
  exact ⟨fun hn => capchk_gives (hcode.trans (if_pos hn)),
    fun hn hw hin => hreach hn (reach_inside hw ((inReach_iff r n).mp hin)) rfl,
    fun hn hw hout => hreach hn (reach_outside hw (not_not.mp (mt (inReach_iff r n).mpr hout))) rfl,
    fun hn _ => ⟨fun hq => hreach hn hq rfl, fun hq => hreach hn hq rfl, fun g hq => hreach hn hq rfl⟩⟩

/-- Settles O17: the checks of R120 come before the field, the cursor or the rights, and CAPCHK gives the code of the first of its tests
that fails. -/
theorem capabilityRegisters : Obligations.CapabilityRegisters := ⟨capabilityFieldsAndCursors, capabilityCheckCode⟩

end Sys2Proof.Machine

namespace Sys2Proof.Machine
open Sys2Proof.Claims

/-! ## What a scalar float instruction writes (R131) -/

theorem f32_eq (r : GReg) : r.f32 = f32 r := by
  rw [GReg.f32, f32, BitVec.extractLsb'_toNat, low_toNat, Nat.shiftRight_zero, Nat.mod_mod_of_dvd _ (by decide)]

theorem fp1_eq_writes (s : State) (d a : GIx) (f : Nat → Nat) : s.fp1 d a f = writes s d (unary s a (low (f (f32 (s.cur.rd a))))) := by
  rw [← f32_eq]
  exact int1_eq_writes s d a fun x => low (f (x.toNat % 2 ^ 32))

theorem fp2_eq_writes (s : State) (d a b : GIx) (f : Nat → Nat → Nat) :
    s.fp2 d a b f = writes s d (binary s a b (low (f (f32 (s.cur.rd a)) (f32 (s.cur.rd b))))) := by
  rw [← f32_eq, ← f32_eq]
  exact int2_eq_writes s d a b fun x y => low (f (x.toNat % 2 ^ 32) (y.toNat % 2 ^ 32))

theorem ffma_eq_writes (s : State) (rm : Rm) (d a b c : GIx) : exec (.ffma rm d a b c) s =
    writes s d (ternary s a b c (low (f32Fma (s.srnd rm) (f32 (s.cur.rd a)) (f32 (s.cur.rd b)) (f32 (s.cur.rd c))))) := by
  change execFfma rm d a b c s = _
  rw [execFfma, firstPoison_eq, ternary]
  by_cases ha : (s.cur.rd a).tag = .poison
  · rw [if_pos ha, List.find?_cons_of_pos (by simpa using ha)]
    exact doneG_eq_writes s d _
  · rw [if_neg ha, List.find?_cons_of_neg (by simpa using ha), ← firstPoison_eq, f32_eq]
    exact fp2_eq_writes s d b c (f32Fma (s.srnd rm) (f32 (s.cur.rd a)))

/-- The rounding of a scalar instruction: RMODE where it asks for the dynamic mode, and no flush (R74-R76). -/
theorem srnd_fields (s : State) (rm : Rm) : (s.srnd rm).ovf = s.cur.ovf ∧ (s.srnd rm).ftz = false ∧ (rm ≠ .dyn → (s.srnd rm).mode = rm) ∧
    ((s.srnd rm).mode = .sr → (s.srnd rm).q = srDraw s.cur.seed s.cur.retired 0) :=
  ⟨rfl, rfl, fun h => if_neg h, fun h => if_pos h⟩

theorem scalarFloatArithmetic : ScalarFloatArithmetic := fun s rm d a b c =>
  ⟨fp2_eq_writes s d a b (f32Add (s.srnd rm)), fp2_eq_writes s d a b (f32Sub (s.srnd rm)), fp2_eq_writes s d a b (f32Mul (s.srnd rm)),
    fp2_eq_writes s d a b (f32Div (s.srnd rm)), fp2_eq_writes s d a b (fmtF32.minMax false), fp2_eq_writes s d a b (fmtF32.minMax true),
    ffma_eq_writes s rm d a b c, fp1_eq_writes s d a fun x => fmtF32.sqrt (s.srnd rm) (fmtF32.read x), srnd_fields s rm⟩

/-! ## Codes of F32 (R63, R64, R135, R136) -/

theorem isNanCode_iff (x : Nat) : fmtF32.isNanCode x = true ↔ isNan32 x := by
  rw [Fmt.isNanCode, decide_eq_true_iff]
  exact Iff.rfl

theorem f32_lt (r : GReg) : f32 r < 2 ^ 32 := (r.body.extractLsb' 0 32).isLt

theorem sign_eq {x : Nat} (hx : x < 2 ^ 32) : fmtF32.sign x = decide (2 ^ 31 ≤ x) := by
  rw [Fmt.sign, bit, beq_eq_decide]
  exact decide_eq_decide.mpr (by simp only [fmtF32]; omega)

theorem absCode_of_nan {x : Nat} (h : isNan32 x) : fmtF32.absCode x = 0x7FC00000 := if_pos ((isNanCode_iff x).mpr h)

theorem negCode_of_nan {x : Nat} (h : isNan32 x) : fmtF32.negCode x = 0x7FC00000 := if_pos ((isNanCode_iff x).mpr h)

theorem absCode_of_number {x : Nat} (h : ¬isNan32 x) : fmtF32.absCode x = x % 2 ^ 31 := if_neg (mt (isNanCode_iff x).mp h)

/-- The sign changes and no other bit (R135). -/
theorem negCode_of_number {x : Nat} (hx : x < 2 ^ 32) (h : ¬isNan32 x) : fmtF32.negCode x = x ^^^ 2 ^ 31 := by
  have hmod : (x ^^^ 2 ^ 31) % 2 ^ 31 = x % 2 ^ 31 := by rw [Nat.xor_mod_two_pow, Nat.mod_self, Nat.xor_zero]
  have hdiv : (x ^^^ 2 ^ 31) / 2 ^ 31 = (x / 2 ^ 31) ^^^ 1 := by rw [Nat.xor_div_two_pow, Nat.div_self (by decide)]
  have hsign : (x / 2 ^ 31) ^^^ 1 = boolNat (!decide (2 ^ 31 ≤ x)) := by
    obtain hpos | hneg := lt_or_ge x (2 ^ 31)
    · rw [Nat.div_eq_of_lt hpos, decide_eq_false (by omega)]
      rfl
    · rw [show x / 2 ^ 31 = 1 by omega, decide_eq_true hneg]
      rfl
  calc fmtF32.negCode x = x % 2 ^ 31 + boolNat (!decide (2 ^ 31 ≤ x)) * 2 ^ 31 := by
        rw [← sign_eq hx]
        exact if_neg (mt (isNanCode_iff x).mp h)
    _ = x ^^^ 2 ^ 31 := by rw [← hsign, ← hdiv, ← hmod, Nat.mod_add_div']

theorem classBit_eq {x : Nat} (hx : x < 2 ^ 32) : classBit x = class32 x := by
  have hmag : fmtF32.mag x = x % 2 ^ 31 := rfl
  have hinf : fmtF32.infc = some (x % 2 ^ 31) ↔ x % 2 ^ 31 = 0x7F800000 := eq_comm.trans Option.some_inj
  have hsub : fmtF32.isSubnormal x = true ↔ x % 2 ^ 31 ≠ 0 ∧ x % 2 ^ 31 < 0x800000 := by
    rw [Fmt.isSubnormal, Bool.and_eq_true, bne_iff_ne, decide_eq_true_iff, hmag]
    exact Iff.rfl
  have hnan : fmtF32.isNanCode x = true ↔ 0x7F800000 < x % 2 ^ 31 := isNanCode_iff x
  simp only [classBit, class32, hinf, hsub, hnan, hmag, sign_eq hx, decide_eq_true_iff]
  split_ifs <;> omega

theorem fclass_eq_writes (s : State) (d a : GIx) : exec (.fclass d a) s = writes s d (unary s a (low (2 ^ class32 (f32 (s.cur.rd a))))) := by
  rw [← classBit_eq (f32_lt _)]
  exact fp1_eq_writes s d a fun x => 2 ^ classBit x

/-! ## FCVT (R137, Table 6.4) -/

theorem fcvt_eq_writes (s : State) (src dst : ElemTy) (rm : Rm) (d a : GIx) : exec (.fcvt src dst rm d a) s =
    writes s d (unary s a (placed dst (convert src dst (s.srnd rm) ((s.cur.rd a).low.toNat % 2 ^ tyBits src)))) :=
  int1_eq_writes s d a fun x => placed dst (convert src dst (s.srnd rm) (x.toNat % 2 ^ tyBits src))

theorem placed_signed {t : ElemTy} (h : t = .i8 ∨ t = .i32 ∨ t = .i64) (c : Nat) :
    placed t c = (BitVec.ofNat (tyBits t) c).signExtend 64 := by
  rw [placed, if_pos (by obtain rfl | rfl | rfl := h <;> rfl), sgn_eq_toInt, BitVec.signExtend]

theorem placed_unsigned {t : ElemTy} (h8 : t ≠ .i8) (h32 : t ≠ .i32) (h64 : t ≠ .i64) (c : Nat) : placed t c = low (c % 2 ^ tyBits t) :=
  if_neg (by cases t <;> simp_all [tySigned])

theorem scalarFloatCodes : ScalarFloatCodes := by
  intro s d a x gives
  have hx : x < 2 ^ 32 := f32_lt _
  have habs : gives (.fabs d a) (low (fmtF32.absCode x)) := fp1_eq_writes s d a fmtF32.absCode
  have hneg : gives (.fneg d a) (low (fmtF32.negCode x)) := fp1_eq_writes s d a fmtF32.negCode
  refine ⟨fun h => ?_, fun h => ?_, fclass_eq_writes s d a, fun src dst rm _ => ⟨fun h => ?_, fun h8 h32 h64 => ?_⟩⟩
  · rw [absCode_of_nan h] at habs
    rw [negCode_of_nan h] at hneg
    exact ⟨habs, hneg⟩
  · rw [absCode_of_number h] at habs
    rw [negCode_of_number hx h] at hneg
    exact ⟨habs, hneg⟩
  · rw [← placed_signed h]
    exact fcvt_eq_writes s src dst rm d a
  · rw [← placed_unsigned h8 h32 h64]
    exact fcvt_eq_writes s src dst rm d a

/-- Settles O20: each passes on its first poisoned operand or writes the code that its function of the F32 operands gives; the sign
changes, the class and the placing of a converted code are read bit by bit. -/
theorem scalarFloat : Obligations.ScalarFloat := ⟨scalarFloatArithmetic, scalarFloatCodes⟩

end Sys2Proof.Machine

namespace Sys2Proof.Machine
open Sys2Proof.Claims

/-! ## Results written lane by lane (R139, R140) -/

theorem firstBadLane_eq (vs : List VReg) (j : Nat) : firstBadLane vs j = vs.findSome? fun v => v.laneClass j := by
  induction vs with
  | nil => rfl
  | cons v vs ih => cases h : v.bad j <;> simp [firstBadLane, VReg.laneClass, ih, h]

/-- Source fields, each with the element width it is read at. -/
def sourceRegs (s : State) (srcs : List (Nat × GIx)) : List VReg := srcs.map fun p => s.cur.vsrc p.1 p.2

theorem firstBadLane_sourceRegs (s : State) (srcs : List (Nat × GIx)) {j : Nat} (hj : j < 16) :
    firstBadLane (sourceRegs s srcs) j = ((srcs.map Prod.snd).filterMap fun a => srcBad s a j).head? := by
  rw [firstBadLane_eq, sourceRegs, List.head?_filterMap, List.findSome?_map, List.findSome?_map]
  exact congrArg (List.findSome? · srcs) (funext fun p => laneClass_vsrc s p.1 p.2 hj)

theorem firstClass_lt {s : State} {srcs : List GIx} {j c : Nat} (h : (srcs.filterMap fun a => srcBad s a j).head? = some c) : c < 256 := by
  obtain ⟨a, -, ha⟩ := List.mem_filterMap.mp (List.mem_of_head? h)
  exact srcBad_lt ha

theorem firstClass_none {s : State} {srcs : List GIx} {j : Nat} (h : ∀ a ∈ srcs, srcBad s a j = none) :
    (srcs.filterMap fun a => srcBad s a j).head? = none := by
  rw [List.head?_filterMap, List.findSome?_eq_none_iff]
  exact h

/-- A destination whose lanes F computes holds the elements f where each lane of F is made of them. -/
theorem elementwise_lanewise {s : State} {k : KIx} {d : VIx} {w : Nat} (hw : EltWidth w) {srcs : List (Nat × GIx)} {F f : Nat → Nat}
    (hF : ∀ e, e * w / 32 < 16 → (∀ a ∈ srcs.map Prod.snd, srcBad s a (e * w / 32) = none) →
      F (e * w / 32) / 2 ^ (w * (e % (32 / w))) % 2 ^ w = f e % 2 ^ w) :
    elementwise s k d w (srcs.map Prod.snd) (s.cur.lanewise k d (sourceRegs s srcs) F) f := by
  intro j hj
  have hfirst := firstBadLane_sourceRegs s srcs hj
  refine ⟨fun hout => sameLane_mkVReg hj (if_neg (mt (active_iff s k j).mp hout)), fun hin c hc => ?_, fun hin hclean => ?_⟩
  · refine poisonedLane_mkVReg hj (firstClass_lt hc) ?_
    rw [if_pos ((active_iff s k j).mpr hin), hfirst, hc]
  · refine ⟨?_, fun e he => ?_⟩
    · rw [Thread.lanewise, vBad_mkVReg _ hj, if_pos ((active_iff s k j).mpr hin), hfirst, firstClass_none hclean]
    · subst he
      rw [Thread.lanewise, vElt_of_lane hw, vElt_mkVReg _ hj, if_pos ((active_iff s k _).mpr hin), hfirst, firstClass_none hclean,
        div_mod_of_mod_32 _ (elt_in_lane hw e), hF e hj hclean]

theorem eltWidth_of_isF {ty : ElemTy} (h : ty.isF = true) : EltWidth ty.width := eltWidth_of_ne (by rintro rfl; cases h)

theorem eltWidth_of_isI {ty : ElemTy} (h : ty.isI = true) : EltWidth ty.width := eltWidth_of_ne (by rintro rfl; cases h)

/-- An instruction whose element e is f of element e of each source. -/
theorem givesV_velt {s : State} {ty : ElemTy} (hw : EltWidth ty.width) {k : KIx} {d : VIx} {i : Instr} (srcs : List GIx)
    (f : Nat → List Nat → Nat) {g : Nat → Nat} (hexec : exec i s = s.velt ty k d srcs f)
    (hg : ∀ e, f e (srcs.map fun a => srcElt s ty.width a e) % 2 ^ ty.width = g e % 2 ^ ty.width) :
    givesV s d i fun q => elementwise s k d ty.width srcs q g := by
  have hsrcs : (srcs.map fun a => (ty.width, a)).map Prod.snd = srcs := by rw [List.map_map]; exact List.map_id srcs
  have hregs : srcs.map (s.cur.vsrc ty.width) = sourceRegs s (srcs.map fun a => (ty.width, a)) := by rw [sourceRegs, List.map_map]; rfl
  refine givesV_of_done hexec ?_
  have hlanes := elementwise_lanewise (s := s) (k := k) (d := d) hw (srcs := srcs.map fun a => (ty.width, a)) (f := g)
    (F := laneOf ty.width fun e => f e ((srcs.map (s.cur.vsrc ty.width)).map fun v => v.elt ty.width e)) fun e he hclean => by
      rw [hsrcs] at hclean
      have helts : (srcs.map (s.cur.vsrc ty.width)).map (fun v => v.elt ty.width e) = srcs.map fun a => srcElt s ty.width a e := by
        rw [List.map_map]
        exact List.map_congr_left fun a ha => vsrc_elt hw he (hclean a ha)
      rw [laneOf_elt hw, helts, hg]
  rwa [hsrcs, ← hregs] at hlanes

/-! ## Integer elements (Table 6.7) -/

theorem srcElt_lt (s : State) (w : Nat) (a : GIx) (e : Nat) : srcElt s w a e < 2 ^ w := by
  rw [srcElt]
  split
  · exact ((s.cur.rv (vReg a.val)).val.extractLsb' (w * e) w).isLt
  · exact Nat.mod_lt _ (by positivity)

theorem sub_exact_mod {w x y : Nat} (hy : y < 2 ^ w) : (x + 2 ^ w - y) % 2 ^ w = (BitVec.ofInt w ((x : Int) - y)).toNat % 2 ^ w := by
  have hsum : ((x + 2 ^ w - y : Nat) : Int) = ((x : Int) - y) + (2 ^ w : Nat) := by omega
  rw [BitVec.toNat_mod_cancel, BitVec.toNat_ofInt, ← Int.add_emod_right, ← hsum, ← Int.natCast_emod, Int.toNat_natCast]

theorem wrapInt_eq (w : Nat) (i : Int) : wrapInt w i = (BitVec.ofInt w i).toNat := (BitVec.toNat_ofInt ..).symm

theorem sra_exact (w x n : Nat) : wrapInt w (sgn w x / 2 ^ n) = ((BitVec.ofNat w x).sshiftRight n).toNat := by
  rw [wrapInt_eq, sgn_eq_toInt, BitVec.sshiftRight, Int.shiftRight_eq_div_pow, Int.natCast_pow]
  rfl

theorem vectorInteger : VectorInteger := by
  intro s ty k d a b hI w x y gives
  have hw : EltWidth w := eltWidth_of_isI hI
  have hvint {i : Instr} (f : Nat → Nat → Nat → Nat) {g : Nat → Nat} (hexec : exec i s = s.vint ty k d a b f)
      (hg : ∀ e, f w (x e) (y e) % 2 ^ w = g e % 2 ^ w) : gives i g := givesV_velt hw [a, b] _ hexec hg
  exact ⟨hvint (fun _ x y => x + y) rfl fun _ => rfl, hvint (fun w x y => x + 2 ^ w - y) rfl fun e => sub_exact_mod (srcElt_lt s w b e),
    hvint (fun _ x y => x * y) rfl fun _ => rfl, hvint (fun _ x y => x &&& y) rfl fun _ => rfl, hvint (fun _ x y => x ||| y) rfl fun _ => rfl,
    hvint (fun _ x y => x ^^^ y) rfl fun _ => rfl, hvint (fun w x y => x * 2 ^ (y % w)) rfl fun _ => rfl,
    hvint (fun w x y => x / 2 ^ (y % w)) rfl fun _ => rfl,
    fun _ => hvint (fun w x y => wrapInt w (sgn w x / 2 ^ (y % w))) rfl fun e => by rw [sra_exact]⟩

/-! ## Float elements (R74, R143, R144) -/

/-- The rounding of a vector instruction at element e (R74-R76, R141). -/
theorem vrnd_fields (s : State) (rm : Rm) (e : Nat) : (s.vrnd rm e).ftz = s.cur.ftz ∧ (s.vrnd rm e).ovf = s.cur.ovf ∧
    ((s.vrnd rm e).mode = .sr → (s.vrnd rm e).q = srDraw s.cur.seed s.cur.retired e) :=
  ⟨Bool.true_and _, rfl, fun h => if_pos h⟩

theorem vectorFloat : VectorFloat := by
  intro s ty rm k d a b c hF f x y r gives
  have hw : EltWidth ty.width := eltWidth_of_isF hF
  have hvelt {i : Instr} (srcs : List GIx) (g : Nat → List Nat → Nat) (hexec : exec i s = s.velt ty k d srcs g) :
      gives i srcs fun e => g e (srcs.map fun a => srcElt s ty.width a e) := givesV_velt hw srcs g hexec fun _ => rfl
  have hone {i : Instr} (g : Nat → FVal → Nat) (hexec : exec i s = s.vfp1 ty k d a g) : gives i [a] fun e => g e (x e) :=
    hvelt [a] _ hexec
  have htwo {i : Instr} (g : Nat → FVal → FVal → Nat) (hexec : exec i s = s.vfp2 ty k d a b g) :
      gives i [a, b] fun e => g e (x e) (y e) := hvelt [a, b] _ hexec
  exact ⟨htwo (fun e x y => f.round (r e) (fsum (r e).mode [x, y]).exact) rfl,
    htwo (fun e x y => f.round (r e) (fsum (r e).mode [x, y.neg]).exact) rfl, htwo (fun e x y => f.round (r e) (fmulVal x y).exact) rfl,
    hvelt [a, b, c] (fun e xs =>
      let v := fun i => s.fin ty (xs.getD i 0)
      f.round (r e) (fsum (r e).mode [fmulVal (v 0) (v 1), v 2]).exact) rfl,
    hvelt [a, b] (fun _ xs => f.minMax false (f.flushIn s.cur.ftz (xs.getD 0 0)) (f.flushIn s.cur.ftz (xs.getD 1 0))) rfl,
    hvelt [a, b] (fun _ xs => f.minMax true (f.flushIn s.cur.ftz (xs.getD 0 0)) (f.flushIn s.cur.ftz (xs.getD 1 0))) rfl,
    hvelt [a] (fun _ xs => f.absCode (f.flushIn s.cur.ftz (xs.getD 0 0))) rfl,
    hvelt [a] (fun _ xs => f.negCode (f.flushIn s.cur.ftz (xs.getD 0 0))) rfl,
    hone (fun e => f.recip (r e)) rfl, hone (fun e => f.rsqrt (r e)) rfl, hone (fun e => f.exp2 (r e)) rfl, hone (fun e => f.log2 (r e)) rfl,
    vrnd_fields s rm⟩

/-- Settles O22: a lane is kept, poisoned by its first poisoned source or made of its elements, and each instruction names what an element
is of the elements of its sources. -/
theorem vectorArithmetic : Obligations.VectorArithmetic := ⟨vectorInteger, vectorFloat⟩

end Sys2Proof.Machine

namespace Sys2Proof.Machine
open Sys2Proof.Claims

/-! ## The lowest poisoned active lane of a source (R148, R150) -/

/-- The lowest lane of a register that is active and poisoned. -/
def State.badLane (s : State) (k : KIx) (v : VReg) : Option Nat := (List.range 16).find? fun j => s.cur.active k j && v.bad j

theorem bad_vsrc (s : State) (w : Nat) (a : GIx) {j : Nat} (hj : j < 16) : (s.cur.vsrc w a).bad j = (srcBad s a j).isSome := by
  rw [← laneClass_vsrc s w a hj, VReg.laneClass]
  split <;> simp_all

theorem cls_vsrc {s : State} (w : Nat) {a : GIx} {j c : Nat} (hj : j < 16) (h : srcBad s a j = some c) : (s.cur.vsrc w a).cls j = c := by
  rw [← laneClass_vsrc s w a hj, VReg.laneClass] at h
  split at h <;> simp_all

theorem badLane_vsrc_some {s : State} {k : KIx} (w : Nat) {a : GIx} {j c : Nat} (hj : j < 16) (hin : laneActive s k j)
    (hbad : srcBad s a j = some c) (hleast : ∀ j', j' < j → laneActive s k j' → srcBad s a j' = none) :
    s.badLane k (s.cur.vsrc w a) = some j := by
  refine List.find?_range_eq_some.mpr ⟨?_, List.mem_range.mpr hj, fun j' hj' => ?_⟩
  · rw [(active_iff s k j).mpr hin, bad_vsrc s w a hj, hbad]
    rfl
  · by_cases hin' : laneActive s k j'
    · rw [bad_vsrc s w a (hj'.trans hj), hleast j' hj' hin', Option.isSome_none, Bool.and_false]
      rfl
    · rw [Bool.eq_false_iff.mpr (mt (active_iff s k j').mp hin'), Bool.false_and]
      rfl

theorem badLane_vsrc_none (s : State) (k : KIx) (w : Nat) (a : GIx) :
    s.badLane k (s.cur.vsrc w a) = none ↔ ∀ j, j < 16 → laneActive s k j → srcBad s a j = none := by
  rw [State.badLane, List.find?_eq_none]
  refine ⟨fun h j hj hin => ?_, fun h j hj hbad => ?_⟩
  · have hclean := h j (List.mem_range.mpr hj)
    rwa [(active_iff s k j).mpr hin, bad_vsrc s w a hj, Bool.true_and, Bool.not_eq_true, Option.isSome_eq_false_iff, Option.isNone_iff_eq_none]
      at hclean
  · have hj := List.mem_range.mp hj
    obtain ⟨hin, hbad⟩ := Bool.and_eq_true_iff.mp hbad
    rw [bad_vsrc s w a hj, h j hj ((active_iff s k j).mp hin)] at hbad
    cases hbad

/-! ## Dot products (R147) -/

theorem elt_of_lane {w : Nat} (hw : EltWidth w) {i j : Nat} (hi : i < 32 / w) : (32 / w * j + i) * w / 32 = j :=
  (lane_eq_iff hw _ _).mpr (by rw [mul_comm]; omega)

/-- Element i of a clean lane. -/
theorem vsrc_elt_of_lane {s : State} {w : Nat} (hw : EltWidth w) {a : GIx} {i j : Nat} (hi : i < 32 / w) (hj : j < 16)
    (hclean : srcBad s a j = none) : (s.cur.vsrc w a).elt w (32 / w * j + i) = srcElt s w a (32 / w * j + i) :=
  vsrc_elt hw (by rwa [elt_of_lane hw hi]) (by rwa [elt_of_lane hw hi])

theorem vsrc_lane {s : State} {a : GIx} {j : Nat} (hj : j < 16) (hclean : srcBad s a j = none) :
    (s.cur.vsrc 32 a).elt 32 j = srcElt s 32 a j := by
  have hlane : j * 32 / 32 = j := Nat.mul_div_cancel j (by decide)
  exact vsrc_elt (.inr (.inr rfl)) (by rwa [hlane]) (by rwa [hlane])

theorem intOf_eq_ival {ty : ElemTy} (hI : ty.isI = true) {c : Nat} (hc : c < 2 ^ ty.width) : intOf ty c = ival ty c := by
  cases ty with
  | i8 | i32 => exact sgn_eq_toInt _ _
  | n8 | n32 => exact congrArg Nat.cast (Nat.mod_eq_of_lt hc)
  | _ => cases hI

theorem foldl_add_eq (l : List Int) (x : Int) : l.foldl (· + ·) x = x + l.sum := by
  rw [List.sum_eq_foldl, ← List.foldl_assoc (op := fun x y : Int => x + y), add_zero]

section
variable {s : State} {ty : ElemTy} {a b c : GIx} {j : Nat} (hj : j < 16)
variable (ha : srcBad s a j = none) (hb : srcBad s b j = none) (hc : srcBad s c j = none)
include hj ha hb hc

theorem dotLaneF_eq (hF : ty.isF = true) (rm : Rm) :
    dotLaneF s ty rm (s.cur.vsrc ty.width a) (s.cur.vsrc ty.width b) (s.cur.vsrc 32 c) j =
      fmtF32.round (s.vrnd rm j) (fsum (s.vrnd rm j).mode
        (((List.range (32 / ty.width)).map fun i => fmulVal (fval s ty a (32 / ty.width * j + i)) (fval s ty b (32 / ty.width * j + i))) ++
          [fval s .f32 c j])).exact := by
  have hw := eltWidth_of_isF hF
  have hprods : ((List.range (32 / ty.width)).map fun i => fmulVal (s.fin ty ((s.cur.vsrc ty.width a).elt ty.width (32 / ty.width * j + i)))
      (s.fin ty ((s.cur.vsrc ty.width b).elt ty.width (32 / ty.width * j + i)))) =
      (List.range (32 / ty.width)).map fun i => fmulVal (fval s ty a (32 / ty.width * j + i)) (fval s ty b (32 / ty.width * j + i)) :=
    List.map_congr_left fun i hi => by
      rw [vsrc_elt_of_lane hw (List.mem_range.mp hi) hj ha, vsrc_elt_of_lane hw (List.mem_range.mp hi) hj hb, fval, fval]
  simp only [dotLaneF, hprods, vsrc_lane hj hc]
  rfl

theorem dotLaneI_eq (hI : ty = .i8 ∨ ty = .n8) : dotLaneI ty (s.cur.vsrc ty.width a) (s.cur.vsrc ty.width b) (s.cur.vsrc 32 c) j =
    (BitVec.ofInt 32 ((BitVec.ofNat 32 (srcElt s 32 c j)).toInt + ((List.range 4).map fun i =>
      ival ty (srcElt s ty.width a (4 * j + i)) * ival ty (srcElt s ty.width b (4 * j + i))).sum)).toNat := by
  have hw : ty.width = 8 := by obtain rfl | rfl := hI <;> rfl
  have hval (c : GIx) (e : Nat) : intOf ty (srcElt s 8 c e) = ival ty (srcElt s 8 c e) :=
    intOf_eq_ival (by obtain rfl | rfl := hI <;> rfl) (hw ▸ srcElt_lt s 8 c e)
  have hprods : ((List.range 4).map fun i => intOf ty ((s.cur.vsrc 8 a).elt 8 (4 * j + i)) * intOf ty ((s.cur.vsrc 8 b).elt 8 (4 * j + i))) =
      (List.range 4).map fun i => ival ty (srcElt s 8 a (4 * j + i)) * ival ty (srcElt s 8 b (4 * j + i)) :=
    List.map_congr_left fun i hi => by
      rw [← hval, ← hval]
      congr 2
      · exact vsrc_elt_of_lane (.inl rfl) (List.mem_range.mp hi) hj ha
      · exact vsrc_elt_of_lane (.inl rfl) (List.mem_range.mp hi) hj hb
  rw [hw, dotLaneI, hprods, wrapInt_eq, vsrc_lane hj hc, foldl_add_eq, sgn_eq_toInt]

end

theorem givesV_vdot {s : State} {ty : ElemTy} {rm : Rm} {k : KIx} {d : VIx} {a b c : GIx} {f : Nat → Nat}
    (hf : ∀ j, j < 16 → srcBad s a j = none → srcBad s b j = none → srcBad s c j = none →
      (if ty.isF then dotLaneF s ty rm (s.cur.vsrc ty.width a) (s.cur.vsrc ty.width b) (s.cur.vsrc 32 c) j
        else dotLaneI ty (s.cur.vsrc ty.width a) (s.cur.vsrc ty.width b) (s.cur.vsrc 32 c) j) = f j) :
    givesV s d (.vdot ty rm k d a b c) fun q => elementwise s k d 32 [a, b, c] q f := by
  refine givesV_of_done rfl (elementwise_lanewise (srcs := [(ty.width, a), (ty.width, b), (32, c)]) (.inr (.inr rfl)) fun e he hclean => ?_)
  have hlane : e * 32 / 32 = e := Nat.mul_div_cancel e (by decide)
  simp only [List.map_cons, List.map_nil, List.forall_mem_cons, hlane] at he hclean ⊢
  obtain ⟨ha, hb, hc, -⟩ := hclean
  rw [hf e he ha hb hc, Nat.mod_one, Nat.mul_zero, Nat.pow_zero, Nat.div_one]

/-! ## Reductions (R79, R148) -/

theorem lanesVal_of_zeros {ls : List (Nat × Bool)} (h : ∀ l ∈ ls, l.1 = 0) : lanesVal ls = 0 := by
  induction ls with
  | nil => rfl
  | cons l ls ih =>
    obtain ⟨hl, hls⟩ := List.forall_mem_cons.mp h
    rw [lanesVal, hl, ih hls, Nat.zero_mod, Nat.mul_zero]

theorem toNat_ofNat_mod_two_pow {v w : Nat} (h : v ≤ w) (n : Nat) : (BitVec.ofNat w (n % 2 ^ v)).toNat = n % 2 ^ v := by
  rw [BitVec.toNat_ofNat]
  exact Nat.mod_eq_of_lt ((Nat.mod_lt n (by positivity)).trans_le (Nat.pow_le_pow_right (by decide) h))

/-- A register that holds n in lane 0 and zero elsewhere. -/
def rootReg (n : Nat) : VReg := mkVReg fun i => (if i = 0 then n else 0, false)

theorem rootReg_val (n : Nat) : (rootReg n).val.toNat = n % 2 ^ 32 := by
  have hlanes : lanesVal ((List.range 16).map fun i => ((if i = 0 then n else 0 : Nat), false)) = n % 2 ^ 32 := by
    rw [List.range_succ_eq_map, List.map_cons, List.map_map, lanesVal, lanesVal_of_zeros, if_pos rfl, Nat.mul_zero, Nat.add_zero]
    intro l hl
    obtain ⟨i, -, rfl⟩ := List.mem_map.mp hl
    rfl
  rw [rootReg, mkVReg, hlanes]
  exact toNat_ofNat_mod_two_pow (by decide) n

/-- A register with lane 0 poisoned and zero elsewhere. -/
def poisonedRoot (c : Nat) : VReg := mkVReg fun i => if i = 0 then poisonLane c else (0, false)

theorem poisonedRoot_lanes {c : Nat} (hc : c < 256) :
    poisonedLane (poisonedRoot c) 0 c ∧ ∀ j, 0 < j → j < 16 → vElt (poisonedRoot c) 32 j = 0 ∧ vBad (poisonedRoot c) j = false := by
  refine ⟨poisonedLane_mkVReg (by decide) hc rfl, fun j hpos hj => ?_⟩
  rw [poisonedRoot, vElt_mkVReg _ hj, vBad_mkVReg _ hj, if_neg hpos.ne']
  exact ⟨rfl, rfl⟩

theorem elt_lt_lanes {w e : Nat} (hw : EltWidth w) (he : e < 512 / w) : e * w / 32 < 16 := by
  obtain rfl | rfl | rfl := hw <;> omega

/-- The leaves of a reduction's tree: the elements of active lanes, the excluded value elsewhere. -/
def leaves (s : State) (ty : ElemTy) (k : KIx) (a : GIx) (excluded : Nat) : List Nat :=
  (List.range (512 / ty.width)).map fun e => if (s.cur.rk k).getLsbD (e * ty.width / 32) then fcode s ty a e else excluded

section
variable {s : State} {ty : ElemTy} {k : KIx} {d : VIx} {a : GIx} {excluded : Nat} {f : Nat → Nat → Nat → Nat}

theorem vreduce_poisoned {j c : Nat} (h : s.badLane k (s.cur.vsrc ty.width a) = some j) (hc : (s.cur.vsrc ty.width a).cls j = c) :
    s.vreduce ty k d a excluded f = s.doneV d (poisonedRoot c) := by
  rw [State.badLane] at h
  simp only [State.vreduce, h, hc]
  rfl

theorem vreduce_clean (hF : ty.isF = true) (hclean : ∀ j, j < 16 → laneActive s k j → srcBad s a j = none) :
    s.vreduce ty k d a excluded f = s.doneV d (rootReg (treeRoot f (Nat.log2 (512 / ty.width)) 0 (leaves s ty k a excluded))) := by
  have hnone := (badLane_vsrc_none s k ty.width a).mpr hclean
  have hleaves : ((List.range ty.count).map fun e =>
      if s.cur.active k (laneIdx ty.width e) then (fmtOf ty).flushIn s.cur.ftz ((s.cur.vsrc ty.width a).elt ty.width e) else excluded) =
      leaves s ty k a excluded := by
    refine List.map_congr_left fun e he => ?_
    rw [active_eq, laneIdx]
    split
    · next hin =>
      have hlane := elt_lt_lanes (eltWidth_of_isF hF) (List.mem_range.mp he)
      rw [vsrc_elt (eltWidth_of_isF hF) hlane (hclean _ hlane hin), fcode]
    · rfl
  rw [State.badLane] at hnone
  simp only [State.vreduce, hnone, hleaves]
  rfl

/-- A reduction gives the poison of the lowest poisoned active lane, or the root of the tree over the leaves. -/
theorem givesV_vreduce (hF : ty.isF = true) {i : Instr} (hexec : exec i s = s.vreduce ty k d a excluded f) : givesV s d i fun q =>
    (∀ j c, j < 16 → laneActive s k j → srcBad s a j = some c → (∀ j', j' < j → laneActive s k j' → srcBad s a j' = none) →
      poisonedLane q 0 c ∧ ∀ j', 0 < j' → j' < 16 → vElt q 32 j' = 0 ∧ vBad q j' = false) ∧
    ((∀ j, j < 16 → laneActive s k j → srcBad s a j = none) →
      q.pmask = 0 ∧ q.val.toNat = treeRoot f (Nat.log2 (512 / ty.width)) 0 (leaves s ty k a excluded) % 2 ^ 32) := by
  by_cases hclean : ∀ j, j < 16 → laneActive s k j → srcBad s a j = none
  · refine givesV_of_done (hexec.trans (vreduce_clean hF hclean)) ⟨fun j c hj hin hbad _ => ?_, fun _ => ⟨pmask_mkVReg fun _ => rfl, rootReg_val _⟩⟩
    cases hbad.symm.trans (hclean j hj hin)
  · cases hlow : s.badLane k (s.cur.vsrc ty.width a) with
    | none => exact absurd ((badLane_vsrc_none s k ty.width a).mp hlow) hclean
    | some l =>
      refine givesV_of_done (hexec.trans (vreduce_poisoned hlow rfl)) ⟨fun j c hj hin hbad hleast => ?_, fun h => absurd h hclean⟩
      obtain rfl : l = j := Option.some.inj (hlow.symm.trans (badLane_vsrc_some _ hj hin hbad hleast))
      rw [cls_vsrc _ hj hbad]
      exact poisonedRoot_lanes (srcBad_lt hbad)

end

theorem signed_of_isF {ty : ElemTy} (hF : ty.isF = true) (m : Nat) : (fmtOf ty).signed true m = 2 ^ (ty.width - 1) + m := by
  have hw : (fmtOf ty).width = ty.width := by
    cases ty with
    | f32 | bf16 | f16 => rfl
    | _ => cases hF
  rw [Fmt.signed, hw, boolNat, if_pos rfl, Nat.one_mul, Nat.add_comm]

theorem vectorReductions : VectorReductions := by
  intro s ty rm k d a b c w m f x y n inLane r
  refine ⟨fun hF => givesV_vdot fun j hj ha hb hc => ?_, fun hI => givesV_vdot fun j hj ha hb hc => ?_, fun hF i excluded node hi =>
    givesV_vreduce hF ?_⟩
  · rw [if_pos hF]
    exact dotLaneF_eq hj ha hb hc hF rm
  · rw [if_neg (by obtain rfl | rfl := hI <;> decide)]
    exact dotLaneI_eq hj ha hb hc hI
  · obtain ⟨rfl, rfl, rfl⟩ | ⟨rfl, rfl, rfl⟩ := hi
    · exact congrArg (s.vreduce ty k d a · _) (signed_of_isF hF 0)
    · exact congrArg (s.vreduce ty k d a · _) (signed_of_isF hF _)

/-! ## Compares (R150) -/

theorem isF_of_isI {ty : ElemTy} : ty.isI = true → ty.isF = false := by cases ty <;> decide

theorem isI_of_isF {ty : ElemTy} : ty.isF = true → ty.isI = false := by cases ty <;> decide

theorem wf_vcmp {c : Cond} {ty : ElemTy} {e : Fin 4} {k d : KIx} {a b : GIx} (h : (Instr.vcmp c ty e k d a b).wf = true) :
    EltWidth ty.width ∧ e.val < 32 / ty.width ∧ (ty.isI = true ∧ ty.isF = false ∨ ty.isF = true ∧ ty.isI = false) := by
  simp only [Instr.wf, Bool.and_eq_true, Bool.or_eq_true, decide_eq_true_iff] at h
  obtain ⟨hI | ⟨hF, -⟩, he⟩ := h
  · exact ⟨eltWidth_of_isI hI, he, .inl ⟨hI, isF_of_isI hI⟩⟩
  · exact ⟨eltWidth_of_isF hF, he, .inr ⟨hF, isI_of_isF hF⟩⟩

theorem vcondInt_iff {ty : ElemTy} (hI : ty.isI = true) (c : Cond) {x y : Nat} (hx : x < 2 ^ ty.width) (hy : y < 2 ^ ty.width) :
    vcondInt ty c x y = true ↔ elementCond ty c x y := by
  cases c with
  | eq => exact beq_iff_eq
  | ne => exact bne_iff_ne
  | lt => rw [vcondInt, elementCond, decide_eq_true_iff, eltInt, eltInt, intOf_eq_ival hI hx, intOf_eq_ival hI hy]
  | ge => rw [vcondInt, elementCond, decide_eq_true_iff, eltInt, eltInt, intOf_eq_ival hI hx, intOf_eq_ival hI hy]
  | ltu => exact decide_eq_true_iff
  | geu => exact decide_eq_true_iff

theorem boolNat_mod_two (b : Bool) : boolNat b % 2 = 1 ↔ b = true := by cases b <;> decide

/-- The mask register with the bits that p gives. -/
def maskOf (p : Nat → Bool) : BitVec 16 := BitVec.ofNat 16 (packElts 1 ((List.range 16).map fun j => boolNat (p j)))

theorem maskOf_bit (p : Nat → Bool) {j : Nat} (hj : j < 16) : (maskOf p).getLsbD j = p j := by
  have hbit := packElts_elt 1 ((List.range 16).map fun j => boolNat (p j)) j (by simpa using hj)
  rw [List.getElem_map, List.getElem_range, Nat.one_mul, Nat.pow_one] at hbit
  rw [maskOf, BitVec.getLsbD_ofNat, decide_eq_true hj, Bool.true_and, Nat.testBit_eq_decide_div_mod_eq, hbit, Bool.eq_iff_iff,
    decide_eq_true_iff, boolNat_mod_two]

theorem done_wk (s : State) (d : KIx) (m : BitVec 16) : s.done (s.cur.wk d m) = .next (atRetire s (s.cur.wk d m)) := by
  unfold Thread.wk
  split <;> rfl

/-- VCMP's condition on lane j of two registers. -/
def vcmpHolds (s : State) (c : Cond) (ty : ElemTy) (e : Nat) (va vb : VReg) (j : Nat) : Bool :=
  let f := fmtOf ty
  let x := va.elt ty.width (j * (32 / ty.width) + e)
  let y := vb.elt ty.width (j * (32 / ty.width) + e)
  if ty.isF then f.cmp (fcondOf c) (f.flushIn s.cur.ftz x) (f.flushIn s.cur.ftz y) else vcondInt ty c x y

section
variable {s : State} {c : Cond} {ty : ElemTy} {e : Fin 4} {k d : KIx} {a b : GIx}

theorem exec_vcmp_poison_a {j : Nat} (h : s.badLane k (s.cur.vsrc ty.width a) = some j) :
    exec (.vcmp c ty e k d a b) s = s.trap 0x08 ((s.cur.vsrc ty.width a).cls j) := by
  change execVcmp c ty e k d a b s = _
  rw [State.badLane] at h
  simp only [execVcmp, h]
  rfl

theorem exec_vcmp_poison_b {j : Nat} (ha : s.badLane k (s.cur.vsrc ty.width a) = none) (h : s.badLane k (s.cur.vsrc ty.width b) = some j) :
    exec (.vcmp c ty e k d a b) s = s.trap 0x08 ((s.cur.vsrc ty.width b).cls j) := by
  change execVcmp c ty e k d a b s = _
  rw [State.badLane] at ha h
  simp only [execVcmp, ha, h]
  rfl

theorem exec_vcmp_clean (ha : s.badLane k (s.cur.vsrc ty.width a) = none) (hb : s.badLane k (s.cur.vsrc ty.width b) = none) :
    exec (.vcmp c ty e k d a b) s = .next (atRetire s (s.cur.wk d (maskOf fun j => s.cur.active k j &&
      vcmpHolds s c ty e (s.cur.vsrc ty.width a) (s.cur.vsrc ty.width b) j))) := by
  change execVcmp c ty e k d a b s = _
  rw [State.badLane] at ha hb
  simp only [execVcmp, ha, hb]
  exact done_wk s d _

theorem vcmpHolds_iff (hwf : (Instr.vcmp c ty e k d a b).wf = true) {j : Nat} (hj : j < 16) (ha : srcBad s a j = none)
    (hb : srcBad s b j = none) : vcmpHolds s c ty e (s.cur.vsrc ty.width a) (s.cur.vsrc ty.width b) j = true ↔
      (ty.isI = true → elementCond ty c (srcElt s ty.width a (j * (32 / ty.width) + e)) (srcElt s ty.width b (j * (32 / ty.width) + e))) ∧
      (ty.isF = true → (fmtOf ty).cmp (fcondOf c) (fcode s ty a (j * (32 / ty.width) + e)) (fcode s ty b (j * (32 / ty.width) + e)) = true) := by
  obtain ⟨hw, he, hty⟩ := wf_vcmp hwf
  unfold vcmpHolds
  rw [mul_comm j, vsrc_elt_of_lane hw he hj ha, vsrc_elt_of_lane hw he hj hb]
  obtain ⟨hI, hF⟩ | ⟨hF, hI⟩ := hty
  · simp only [hI, hF, Bool.false_eq_true, if_false, vcondInt_iff hI c (srcElt_lt s _ a _) (srcElt_lt s _ b _), forall_const, false_imp_iff,
      and_true]
  · simp only [hI, hF, Bool.false_eq_true, if_true, forall_const, false_imp_iff, true_and, fcode]

end

theorem vectorCompare : VectorCompare := by
  intro s c ty e k d a b hwf w i at' first clean
  refine ⟨fun j cl h => ?_, fun j cl ha h => ?_, fun ha hb => ⟨_, exec_vcmp_clean ((badLane_vsrc_none s k w a).mpr ha)
    ((badLane_vsrc_none s k w b).mpr hb), fun j hj => ?_⟩⟩
  · obtain ⟨hj, hin, hbad, hleast⟩ := h
    exact (exec_vcmp_poison_a (badLane_vsrc_some w hj hin hbad hleast)).trans (by rw [cls_vsrc w hj hbad])
  · obtain ⟨hj, hin, hbad, hleast⟩ := h
    exact (exec_vcmp_poison_b ((badLane_vsrc_none s k w a).mpr ha) (badLane_vsrc_some w hj hin hbad hleast)).trans (by rw [cls_vsrc w hj hbad])
  · rw [maskOf_bit _ hj, Bool.and_eq_true, active_iff]
    exact and_congr_right fun hin => vcmpHolds_iff hwf hj (ha j hj hin) (hb j hj hin)

/-! ## Mask registers (R46, R154) -/

theorem maskCount_eq (x : BitVec 16) : maskCount x = ((List.range 16).filter fun j => x.getLsbD j).length := by
  have hbit : bit x.toNat = x.getLsbD := funext fun j => by rw [bit, BitVec.getLsbD, Nat.testBit_eq_decide_div_mod_eq, beq_eq_decide]
  rw [maskCount, hbit]

theorem maskInstructions : MaskInstructions := fun s g d a b =>
  ⟨done_wk s d _, done_wk s d _, done_wk s d _, by rw [← maskCount_eq]; exact doneG_eq_writes s g _⟩

/-- Settles O23: the products of a lane with its addend, the leaves of a tree with the lowest poisoned active lane before them, the same lane
for the trap of a compare, and the bits of a mask. -/
theorem vectorFolds : Obligations.VectorFolds := ⟨vectorReductions, vectorCompare, maskInstructions⟩

end Sys2Proof.Machine

namespace Sys2Proof.Machine
open Sys2Proof.Claims

/-! ## Lanes that move as they are (R151) -/

/-- An element of a lane that moves as it is. -/
theorem vElt_of_sameLane {w : Nat} (hw : EltWidth w) {q v : VReg} {e : Nat} (h : sameLane q v (e * w / 32)) : vElt q w e = vElt v w e := by
  rw [vElt_of_lane hw, vElt_of_lane hw, h.1]

/-- A lane made of the elements f. -/
theorem cleanLane_mkVReg {w : Nat} (hw : EltWidth w) {g : Nat → Nat × Bool} {f : Nat → Nat} {j : Nat} (hj : j < 16)
    (hg : g j = (laneOf w f j, false)) : vBad (mkVReg g) j = false ∧ ∀ e, e * w / 32 = j → vElt (mkVReg g) w e = f e % 2 ^ w := by
  refine ⟨by rw [vBad_mkVReg _ hj, hg], fun e he => ?_⟩
  subst he
  exact vElt_mkVReg_laneOf hw hj (by rw [hg])

/-- A general register broadcast as a source carries its poison to each lane (R45). -/
theorem poisonedLane_vsrc {s : State} (w : Nat) {a : GIx} (ha : 8 ≤ a.val) {j c : Nat} (hj : j < 16) (h : srcBad s a j = some c) :
    poisonedLane (s.cur.vsrc w a) j c := by
  have hc := srcBad_lt h
  rw [srcBad, if_neg ha.not_gt] at h
  split at h
  · next hp =>
    cases h
    rw [vsrc_poison _ _ ha.not_gt hp]
    exact poisonedLane_mkVReg hj hc rfl
  · cases h

/-- What VSEL leaves in its destination. -/
def State.selected (s : State) (k : KIx) (a b : GIx) : VReg :=
  mkVReg fun j => if s.cur.active k j then (s.cur.vsrc 32 a).lane j else (s.cur.vsrc 32 b).lane j

theorem selected_lane (s : State) (k : KIx) (a b : GIx) {j : Nat} (hj : j < 16) :
    sameLane (s.selected k a b) (s.cur.vsrc 32 (if (s.cur.rk k).getLsbD j then a else b)) j := by
  refine sameLane_mkVReg hj ?_
  rw [active_eq]
  split <;> rfl

/-! ## Elements picked by an index (R152) -/

/-- The top bit of a w-bit code. -/
theorem bit_top {w x : Nat} (hw : 0 < w) (hx : x < 2 ^ w) : bit x (w - 1) = true ↔ 2 ^ (w - 1) ≤ x := by
  have hpos : 0 < 2 ^ (w - 1) := by positivity
  have hlt : x / 2 ^ (w - 1) < 2 := by
    rw [Nat.div_lt_iff_lt_mul hpos, mul_comm, ← pow_succ, Nat.sub_add_cancel hw]
    exact hx
  rw [bit, beq_iff_eq, Nat.mod_eq_of_lt hlt, ← Nat.one_le_div_iff hpos]
  omega

/-- The elements of lane j at width w, from the lowest. -/
def laneElts (w j : Nat) : List Nat := (List.range (32 / w)).map fun i => j * (32 / w) + i

section
variable {w : Nat} (hw : EltWidth w) {j : Nat} {p : Nat → Bool}
include hw

theorem find?_laneElts_some {e : Nat} (he : e * w / 32 = j) (hp : p e = true) (hleast : ∀ e', e' < e → e' * w / 32 = j → p e' = false) :
    (laneElts w j).find? p = some e := by
  rw [laneElts, ← List.range'_eq_map_range, List.find?_range'_eq_some, List.mem_range'_1]
  refine ⟨hp, (lane_eq_iff hw e j).mp he, fun e' hlo hlt => ?_⟩
  have hhi := ((lane_eq_iff hw e j).mp he).2
  rw [hleast e' hlt ((lane_eq_iff hw e' j).mpr ⟨hlo, hlt.trans hhi⟩)]
  rfl

theorem find?_laneElts_none (h : ∀ e, e * w / 32 = j → p e = false) : (laneElts w j).find? p = none := by
  rw [laneElts, ← List.range'_eq_map_range, List.find?_eq_none]
  intro e he
  rw [h e ((lane_eq_iff hw e j).mpr (List.mem_range'_1.mp he))]
  exact Bool.false_ne_true

end

/-- An element of VPERM reads a poisoned source: its index has its top bit clear and the lane that it names is poisoned. -/
def permBad (s : State) (w : Nat) (a b : GIx) (e : Nat) : Bool :=
  !bit ((s.cur.vsrc w b).elt w e) (w - 1) && (s.cur.vsrc w a).bad (laneIdx w ((s.cur.vsrc w b).elt w e % (512 / w)))

/-- An element of VPERM: zero where its index has its top bit set. -/
def permElt (s : State) (w : Nat) (a b : GIx) (e : Nat) : Nat :=
  if bit ((s.cur.vsrc w b).elt w e) (w - 1) then 0 else (s.cur.vsrc w a).elt w ((s.cur.vsrc w b).elt w e % (512 / w))

/-- A lane of VPERM. -/
def permLane (s : State) (w : Nat) (k : KIx) (d : VIx) (a b : GIx) (j : Nat) : Nat × Bool :=
  if !s.cur.active k j then (s.cur.rv d).lane j
  else if (s.cur.vsrc w b).bad j then poisonLane ((s.cur.vsrc w b).cls j)
  else
    match (laneElts w j).find? (permBad s w a b) with
    | some e => poisonLane ((s.cur.vsrc w a).cls (laneIdx w ((s.cur.vsrc w b).elt w e % (512 / w))))
    | none => (laneOf w (permElt s w a b) j, false)

theorem exec_vperm (s : State) (ty : ElemTy) (k : KIx) (d : VIx) (a b : GIx) :
    exec (.vperm ty k d a b) s = s.doneV d (mkVReg (permLane s ty.width k d a b)) := rfl

section
variable {s : State} {w : Nat} {k : KIx} {d : VIx} {a b : GIx} {j : Nat}

theorem permLane_inactive (h : ¬laneActive s k j) : permLane s w k d a b j = (s.cur.rv d).lane j := by
  rw [permLane, Bool.eq_false_iff.mpr (mt (active_iff s k j).mp h)]
  rfl

variable (hin : laneActive s k j) (hj : j < 16)
include hin hj

theorem permLane_poisoned_index {c : Nat} (h : srcBad s b j = some c) : permLane s w k d a b j = poisonLane c := by
  rw [permLane, (active_iff s k j).mpr hin, bad_vsrc s w b hj, h, cls_vsrc w hj h]
  rfl

variable (hclean : srcBad s b j = none)
include hclean

theorem permLane_clean_index : permLane s w k d a b j =
    match (laneElts w j).find? (permBad s w a b) with
    | some e => poisonLane ((s.cur.vsrc w a).cls (laneIdx w ((s.cur.vsrc w b).elt w e % (512 / w))))
    | none => (laneOf w (permElt s w a b) j, false) := by
  rw [permLane, (active_iff s k j).mpr hin, bad_vsrc s w b hj, hclean]
  rfl

end

section
variable {s : State} {w : Nat} (hw : EltWidth w) {k : KIx} {d : VIx} {a b : GIx}
include hw

theorem perm_source_lt (x : Nat) : x % (512 / w) * w / 32 < 16 :=
  elt_lt_lanes hw (Nat.mod_lt _ (by obtain rfl | rfl | rfl := hw <;> decide))

theorem EltWidth.pos : 0 < w := by obtain rfl | rfl | rfl := hw <;> decide

section
variable {e : Nat} (he : e * w / 32 < 16) (hclean : srcBad s b (e * w / 32) = none)
include he hclean

theorem permBad_iff : permBad s w a b e = true ↔
    srcElt s w b e < 2 ^ (w - 1) ∧ srcBad s a (srcElt s w b e % (512 / w) * w / 32) ≠ none := by
  rw [permBad, vsrc_elt hw he hclean, laneIdx, bad_vsrc s w a (perm_source_lt hw _), Bool.and_eq_true, Bool.not_eq_true', ← Bool.not_eq_true,
    bit_top hw.pos (srcElt_lt s w b e), not_le, Option.isSome_iff_ne_none]

theorem permElt_eq (hsrc : srcElt s w b e < 2 ^ (w - 1) → srcBad s a (srcElt s w b e % (512 / w) * w / 32) = none) :
    permElt s w a b e = if 2 ^ (w - 1) ≤ srcElt s w b e then 0 else srcElt s w a (srcElt s w b e % (512 / w)) := by
  rw [permElt, vsrc_elt hw he hclean, if_congr (bit_top hw.pos (srcElt_lt s w b e)) rfl rfl]
  refine ite_congr rfl (fun _ => rfl) fun hlow => ?_
  exact vsrc_elt hw (perm_source_lt hw _) (hsrc (not_le.mp hlow))

end

variable {j : Nat} (hin : laneActive s k j) (hj : j < 16) (hclean : srcBad s b j = none)
include hin hj hclean

theorem permLane_poisoned_source {e c : Nat} (he : e * w / 32 = j) (hidx : srcElt s w b e < 2 ^ (w - 1))
    (hbad : srcBad s a (srcElt s w b e % (512 / w) * w / 32) = some c)
    (hleast : ∀ e', e' < e → e' * w / 32 = j → srcElt s w b e' < 2 ^ (w - 1) → srcBad s a (srcElt s w b e' % (512 / w) * w / 32) = none) :
    permLane s w k d a b j = poisonLane c := by
  subst he
  have hfind : (laneElts w (e * w / 32)).find? (permBad s w a b) = some e := by
    refine find?_laneElts_some hw rfl ((permBad_iff hw hj hclean).mpr ⟨hidx, by simp [hbad]⟩) fun e' hlt he' => ?_
    rw [Bool.eq_false_iff, ne_eq, permBad_iff hw (he' ▸ hj) (he' ▸ hclean)]
    exact fun h => h.2 (hleast e' hlt he' h.1)
  rw [permLane_clean_index hin hj hclean, hfind]
  exact congrArg poisonLane (by rw [vsrc_elt hw hj hclean]; exact cls_vsrc w (perm_source_lt hw _) hbad)

theorem permLane_moved
    (hsrc : ∀ e, e * w / 32 = j → srcElt s w b e < 2 ^ (w - 1) → srcBad s a (srcElt s w b e % (512 / w) * w / 32) = none) :
    permLane s w k d a b j = (laneOf w (permElt s w a b) j, false) := by
  have hfind : (laneElts w j).find? (permBad s w a b) = none := by
    refine find?_laneElts_none hw fun e he => ?_
    rw [Bool.eq_false_iff, ne_eq, permBad_iff hw (he ▸ hj) (he ▸ hclean)]
    exact fun h => h.2 (hsrc e he h.1)
  rw [permLane_clean_index hin hj hclean, hfind]

end

/-! ## Elements to and from a general register (R153) -/

/-- The word that VMOVG gives for the bits of an element. -/
theorem eltWord_eq {ty : ElemTy} (hty : ty.isF = true ∨ ty.isI = true) (x : Nat) :
    (if tySigned ty then BitVec.ofInt 64 (sgn ty.width x) else BitVec.ofNat 64 x) = BitVec.ofInt 64 (ival ty x) := by
  cases ty with
  | i8 | i32 => exact congrArg (BitVec.ofInt 64) (sgn_eq_toInt _ _)
  | i64 => simp [ElemTy.isF, ElemTy.isI] at hty
  | _ => exact (BitVec.ofInt_natCast 64 x).symm

section
variable {s : State} {ty : ElemTy} (hty : ty.isF = true ∨ ty.isI = true) {e : Fin 64} (he : e.val < 512 / ty.width) {g a : GIx}
include hty

theorem eltWidth_of_vector : EltWidth ty.width := hty.elim eltWidth_of_isF eltWidth_of_isI

include he

theorem exec_vmovg_poison {c : Nat} (h : srcBad s a (e * ty.width / 32) = some c) : exec (.vmovg ty e g a) s =
    writes s g { tag := .poison, body := BitVec.ofNat 64 s.curTile ++ BitVec.ofNat 64 (c % 256) } := by
  have hlane := elt_lt_lanes (eltWidth_of_vector hty) he
  refine (if_pos ?_).trans ?_
  · rw [laneIdx, bad_vsrc s _ a hlane, h]
    rfl
  · rw [laneIdx, cls_vsrc _ hlane h]
    exact doneG_eq_writes s g _

theorem exec_vmovg_clean (h : srcBad s a (e * ty.width / 32) = none) :
    exec (.vmovg ty e g a) s = writes s g (dataReg (BitVec.ofInt 64 (ival ty (srcElt s ty.width a e)))) := by
  have hlane := elt_lt_lanes (eltWidth_of_vector hty) he
  refine (if_neg ?_).trans ?_
  · rw [laneIdx, bad_vsrc s _ a hlane, h]
    exact Bool.false_ne_true
  · rw [vsrc_elt (eltWidth_of_vector hty) hlane h, eltWord_eq hty]
    exact doneG_eq_writes s g _

end

/-- A lane of VMOVL. -/
def insertLane (s : State) (w e : Nat) (d : VIx) (a : GIx) (j : Nat) : Nat × Bool :=
  if j ≠ laneIdx w e then (s.cur.rv d).lane j
  else if (s.cur.rd a).isPoison then poisonLane (s.cur.rd a).cls
  else if (s.cur.rv d).bad j && w < 32 then (s.cur.rv d).lane j
  else (laneOf w (fun i => if i = e then (s.cur.rd a).low.toNat else (s.cur.rv d).elt w i) j, false)

theorem exec_vmovl (s : State) (ty : ElemTy) (e : Fin 64) (d : VIx) (a : GIx) :
    exec (.vmovl ty e d a) s = s.doneV d (mkVReg (insertLane s ty.width e d a)) := rfl

theorem isPoison_iff (r : GReg) : r.isPoison = true ↔ r.tag = .poison := by rw [GReg.isPoison, beq_iff_eq]

theorem vElt_lt (v : VReg) (w e : Nat) : vElt v w e < 2 ^ w := (v.val.extractLsb' (w * e) w).isLt

section
variable {s : State} {w e : Nat} {d : VIx} {a : GIx}

theorem insertLane_other {j : Nat} (hj : j ≠ e * w / 32) : insertLane s w e d a j = (s.cur.rv d).lane j := if_pos hj

theorem insertLane_poison (h : (s.cur.rd a).tag = .poison) : insertLane s w e d a (e * w / 32) = poisonLane (classOf (s.cur.rd a)) := by
  rw [← cls_of_poison h]
  exact (if_neg (not_not.mpr rfl)).trans (if_pos ((isPoison_iff _).mpr h))

variable (h : (s.cur.rd a).tag ≠ .poison)
include h

theorem insertLane_kept (hbad : vBad (s.cur.rv d) (e * w / 32) = true) (hw : w < 32) :
    insertLane s w e d a (e * w / 32) = (s.cur.rv d).lane (e * w / 32) := by
  refine (if_neg (not_not.mpr rfl)).trans ((if_neg (mt (isPoison_iff _).mp h)).trans (if_pos ?_))
  rw [bad_eq, hbad, decide_eq_true hw]
  rfl

theorem insertLane_written (hclean : vBad (s.cur.rv d) (e * w / 32) = false ∨ w = 32) : insertLane s w e d a (e * w / 32) =
    (laneOf w (fun i => if i = e then (s.cur.rd a).low.toNat else vElt (s.cur.rv d) w i) (e * w / 32), false) := by
  simp only [← elt_eq]
  refine (if_neg (not_not.mpr rfl)).trans ((if_neg (mt (isPoison_iff _).mp h)).trans (if_neg ?_))
  rw [bad_eq, Bool.and_eq_true, decide_eq_true_iff]
  rintro ⟨hbad, hlt⟩
  obtain hgood | rfl := hclean
  · cases hgood.symm.trans hbad
  · exact lt_irrefl _ hlt

theorem insert_written (hw : EltWidth w) (he : e < 512 / w) (hclean : vBad (s.cur.rv d) (e * w / 32) = false ∨ w = 32) :
    vBad (mkVReg (insertLane s w e d a)) (e * w / 32) = false ∧
      vElt (mkVReg (insertLane s w e d a)) w e = (s.cur.rd a).low.toNat % 2 ^ w ∧
      ∀ e', e' < 512 / w → e' ≠ e → vElt (mkVReg (insertLane s w e d a)) w e' = vElt (s.cur.rv d) w e' := by
  have hlane := elt_lt_lanes hw he
  obtain ⟨hgood, helts⟩ := cleanLane_mkVReg hw hlane (insertLane_written h hclean)
  refine ⟨hgood, (helts e rfl).trans (by rw [if_pos rfl]), fun e' he' hne => ?_⟩
  by_cases hsame : e' * w / 32 = e * w / 32
  · rw [helts e' hsame, if_neg hne, Nat.mod_eq_of_lt (vElt_lt _ w e')]
  · exact vElt_of_sameLane hw (sameLane_mkVReg (elt_lt_lanes hw he') (insertLane_other hsame))

end

/-! ## One element to every lane (R153) -/

/-- A lane of VBCAST. -/
def broadcastLane (s : State) (w e : Nat) (k : KIx) (d : VIx) (a : GIx) (j : Nat) : Nat × Bool :=
  if !s.cur.active k j then (s.cur.rv d).lane j
  else if (s.cur.vsrc w a).bad (laneIdx w e) then poisonLane ((s.cur.vsrc w a).cls (laneIdx w e))
  else (laneOf w (fun _ => (s.cur.vsrc w a).elt w e) j, false)

theorem exec_vbcast (s : State) (ty : ElemTy) (e : Fin 64) (k : KIx) (d : VIx) (a : GIx) :
    exec (.vbcast ty e k d a) s = s.doneV d (mkVReg (broadcastLane s ty.width e k d a)) := rfl

section
variable {s : State} {w e : Nat} {k : KIx} {d : VIx} {a : GIx} {j : Nat}

theorem broadcastLane_inactive (h : ¬laneActive s k j) : broadcastLane s w e k d a j = (s.cur.rv d).lane j := by
  rw [broadcastLane, Bool.eq_false_iff.mpr (mt (active_iff s k j).mp h)]
  rfl

variable (hin : laneActive s k j) (hw : EltWidth w) (he : e < 512 / w)
include hin hw he

theorem broadcastLane_poison {c : Nat} (h : srcBad s a (e * w / 32) = some c) : broadcastLane s w e k d a j = poisonLane c := by
  rw [broadcastLane, (active_iff s k j).mpr hin, laneIdx, bad_vsrc s w a (elt_lt_lanes hw he), h, cls_vsrc w (elt_lt_lanes hw he) h]
  rfl

theorem broadcastLane_clean (h : srcBad s a (e * w / 32) = none) :
    broadcastLane s w e k d a j = (laneOf w (fun _ => srcElt s w a e) j, false) := by
  rw [broadcastLane, (active_iff s k j).mpr hin, laneIdx, bad_vsrc s w a (elt_lt_lanes hw he), h, vsrc_elt hw (elt_lt_lanes hw he) h]
  rfl

end

/-- Settles O21: each instruction says what a lane of its destination is, kept, moved, poisoned or made of elements, and the elements come
from the lanes that its indices name. -/
theorem vectorMoves : Obligations.VectorMoves := by
  intro s ty k d g a b e w n old
  refine ⟨givesV_of_done (q := s.selected k a b) rfl fun j hj => ?_, fun hty => ⟨givesV_of_done (exec_vperm s ty k d a b) fun j hj => ?_,
    fun he => ⟨fun c => exec_vmovg_poison hty he, exec_vmovg_clean hty he, givesV_of_done (exec_vmovl s ty e d a) ?_,
      givesV_of_done (exec_vbcast s ty e k d a) fun j hj => ?_⟩⟩⟩
  · have hlane := selected_lane s k a b hj
    refine ⟨fun hreg => vsrc_reg s.cur 32 hreg ▸ hlane, fun hreg => ⟨fun cl hbad => ?_, fun hclean => ?_⟩⟩
    · obtain ⟨hval, hpoison⟩ := poisonedLane_vsrc 32 hreg hj hbad
      exact ⟨hlane.1.trans hval, hlane.2.trans hpoison⟩
    · refine ⟨hlane.2.trans ?_, hlane.1.trans ?_⟩
      · rw [← bad_eq, bad_vsrc s 32 _ hj, hclean]
        rfl
      · rw [← elt_eq, vsrc_lane hj hclean]
  · have hw : EltWidth w := eltWidth_of_vector hty
    refine ⟨fun hout => sameLane_mkVReg hj (permLane_inactive hout),
      fun hin c hbad => poisonedLane_mkVReg hj (srcBad_lt hbad) (permLane_poisoned_index hin hj hbad),
      fun hin hindex => ⟨fun e' c he' hidx hbad hleast =>
        poisonedLane_mkVReg hj (srcBad_lt hbad) (permLane_poisoned_source hw hin hj hindex he' hidx hbad hleast), fun hsrc => ?_⟩⟩
    obtain ⟨hgood, helts⟩ := cleanLane_mkVReg hw hj (permLane_moved hw (d := d) hin hj hindex hsrc)
    refine ⟨hgood, fun e' he' => ?_⟩
    rw [helts e' he', permElt_eq hw (he' ▸ hj) (he' ▸ hindex) (hsrc e' he')]
    refine Nat.mod_eq_of_lt ?_
    split
    · exact Nat.two_pow_pos w
    · exact srcElt_lt s w a _
  · have hw : EltWidth w := eltWidth_of_vector hty
    have hlane : e * w / 32 < 16 := elt_lt_lanes hw he
    exact ⟨fun j hj hne => sameLane_mkVReg hj (insertLane_other hne),
      fun hp => poisonedLane_mkVReg hlane ((s.cur.rd a).body.extractLsb' 0 8).isLt (insertLane_poison hp),
      fun hp hbad hlt => sameLane_mkVReg hlane (insertLane_kept hp hbad hlt),
      fun hp hclean => insert_written hp hw he hclean⟩
  · have hw : EltWidth w := eltWidth_of_vector hty
    refine ⟨fun hout => sameLane_mkVReg hj (broadcastLane_inactive hout),
      fun hin c hbad => poisonedLane_mkVReg hj (srcBad_lt hbad) (broadcastLane_poison hin hw he hbad), fun hin hclean => ?_⟩
    obtain ⟨hgood, helts⟩ := cleanLane_mkVReg hw hj (broadcastLane_clean (d := d) hin hw he hclean)
    exact ⟨hgood, fun e' he' => (helts e' he').trans (Nat.mod_eq_of_lt (srcElt_lt s w a e))⟩

end Sys2Proof.Machine

namespace Sys2Proof.Machine
open Sys2Proof.Claims

/-! ## Vector moves complete (R151-R153) -/

theorem lane_32 (e : Nat) : e * 32 / 32 = e := Nat.mul_div_cancel e (by decide)

theorem vectorMovesComplete : VectorMovesComplete := by
  intro s ty k d g a b e w old
  obtain ⟨⟨qs, hsel, hexsel⟩, htyped⟩ := vectorMoves s ty k d g a b e
  refine ⟨⟨qs, hexsel, fun j hj => ⟨fun hin ha => ?_, fun hout hb => ?_⟩⟩, fun hty => ?_⟩
  · obtain ⟨hmoves, -⟩ := hsel j hj
    rw [laneActive] at hin
    rw [if_pos hin] at hmoves
    exact hmoves ha
  · obtain ⟨hmoves, -⟩ := hsel j hj
    rw [laneActive] at hout
    rw [if_neg hout] at hmoves
    exact hmoves hb
  obtain ⟨⟨qp, hperm, hexperm⟩, hindexed⟩ := htyped hty
  refine ⟨⟨qp, hexperm, fun j hj => (hperm j hj).1, fun hw _ j hj hin hindex hidx hsrc => ?_⟩, fun he => ?_⟩
  · have hw : ty.width = 32 := hw
    obtain ⟨-, hmoved⟩ := (hperm j hj).2.2 hin hindex
    simp only [hw, lane_32, forall_eq] at hmoved
    rw [(hmoved fun _ => hsrc).2, if_neg hidx.not_ge]
  obtain ⟨hpoison, hclean, ⟨ql, hmovl, hexmovl⟩, ⟨qb, hbcast, hexbcast⟩⟩ := hindexed he
  refine ⟨?_, ⟨ql, hexmovl, hmovl.1, fun hp hgood _ => (hmovl.2.2.2 hp (.inl hgood)).2.1⟩,
    ⟨qb, hexbcast, fun j hj => (hbcast j hj).1, fun hsrc _ j e' hj hin he' => ((hbcast j hj).2.2 hin hsrc).2 e' he'⟩⟩
  cases hsrc : srcBad s a (e * w / 32) with
  | none => exact ⟨_, hclean hsrc, fun _ _ => rfl⟩
  | some c => exact ⟨_, hpoison c hsrc, fun h => nomatch h⟩

/-! ## ERET, PDRAIN and TLBINV complete (R188, R201, R203) -/

theorem privileged_supervisor {s : State} (h : s.cur.priv = true) (act : Host.Outcome State Fault Refusal) : s.privileged act = act := if_pos h

theorem exec_eret {s : State} (hpriv : s.cur.priv = true) (hcap : s.cur.ecap.tag = .cap) : exec .eret s = .next (s.setCur s.cur.eret) :=
  (privileged_supervisor hpriv _).trans (if_neg (by simp [GReg.isCap, hcap]))

theorem drains_iff (h : Nat) (p : Posted) : drains h p = true ↔ awaited h p := by
  rw [drains, awaited]
  cases p.kind <;> simp

theorem exec_pdrain {s : State} (hpriv : s.cur.priv = true) (hnone : ∀ p ∈ s.curT.posted, ¬awaited s.curThr p) :
    exec .pdrain s = .next (atRetire s s.cur) := by
  refine (privileged_supervisor hpriv _).trans ((if_neg ?_).trans (done_cur s))
  rw [List.any_eq_true]
  rintro ⟨p, hp, hdrains⟩
  exact hnone p hp ((drains_iff s.curThr p).mp hdrains)

/-- What a step of a fold keeps, the fold keeps. -/
theorem foldl_keeps {α β γ : Type} {g : β → γ} {f : β → α → β} (hf : ∀ u x, g (f u x) = g u) (l : List α) (s : β) :
    g (l.foldl f s) = g s := by
  induction l generalizing s with
  | nil => rfl
  | cons x l ih => rw [List.foldl_cons, ih, hf]

theorem sendHome_invals (s : State) (src dst : Home) (f : Flit) : (s.sendHome src dst f).invals = s.invals :=
  foldl_keeps (g := State.invals) (fun u g => by unfold State.inject; split <;> rfl) _ s

theorem Unseen.cur_eq {s v : State} (h : Unseen s.curTile s.curThr s v) : v.cur = s.cur := by
  rw [State.cur, h.curTile, h.curThr, h.thr, State.cur]

/-- What a TLBINV without a flag leaves outstanding, and what it asks each port for. -/
def invalEntry (s : State) : Inval := { tag := s.tags + 1, ctx := s.curT.ctx, flag := 0, tile := s.curTile, left := s.presentPorts }
def invalRequest (s : State) (a : GIx) (scope : InvScope) : Flit :=
  { op := .tlbinv, ctx := s.curT.ctx, ga := (invRange scope (s.cur.rd a)).1, len := (invRange scope (s.cur.rd a)).2, scope := invCode scope,
    tag := s.tags + 1, src := .tile s.curTile, thr := s.curThr, size := s.curHead, opnd := s.cur.pc.toNat }

/-- The state in which the invalidation is outstanding and has been sent to every port. -/
def State.invalidating (s : State) (a : GIx) (scope : InvScope) : State :=
  s.presentPorts.foldl (fun u c => u.sendHome (.tile s.curTile) (.tile (clusterTile c 0)) (invalRequest s a scope))
    { s with tags := s.tags + 1, invals := s.invals ++ [invalEntry s] }

theorem invalidating_invals (s : State) (a : GIx) (scope : InvScope) : (s.invalidating a scope).invals = s.invals ++ [invalEntry s] :=
  foldl_keeps (g := State.invals) (fun u _ => sendHome_invals u _ _ _) s.presentPorts _

theorem unseen_invalidating (s : State) (a : GIx) (scope : InvScope) (t h : Nat) : Unseen t h s (s.invalidating a scope) :=
  Unseen.foldl (fun _ _ hu => hu.sendHome _ _ _) s.presentPorts ⟨rfl, rfl, rfl, rfl, rfl, rfl, rfl, rfl⟩

/-- The operand that a scope names passes: none for a context, an HBM capability else. -/
def invalOperand (r : GReg) (scope : InvScope) : Prop := scope = .context ∨ (r.tag = .cap ∧ wovenCap r = false ∧ space r = 1)

theorem invalOperand_tags {r : GReg} {scope : InvScope} (h : invalOperand r scope) (n : Nat) :
    copyTags ((if scope != .context then [(r, n, true)] else []) ++ []) = none := by
  obtain rfl | ⟨hcap, -⟩ := h
  · rfl
  · cases scope <;> simp [copyTags, GReg.isPoison, GReg.isCap, hcap]

theorem invalOperand_kind {r : GReg} {scope : InvScope} (h : invalOperand r scope) : (scope != .context && r.kind != .hbm) = false := by
  obtain rfl | ⟨-, hw, hspace⟩ := h
  · rfl
  · rw [kind_of_plain hw, hspace]
    exact Bool.and_false _

theorem checks_nil (s : State) : s.checks [] none = .ok [] := by
  simp [State.checks, tagFault, targetsAll, misaligned]

theorem exec_tlbinv {s : State} {a : GIx} {scope : InvScope} (hpriv : s.cur.priv = true) (hoff : s.evo.offlinePending = none)
    (hon : s.evo.onlinePending = none) (h : invalOperand (s.cur.rd a) scope) :
    exec (.tlbinv a 0 scope) s = .next (atRetire (s.invalidating a scope) (s.invalidating a scope).cur) := by
  have hflag : flagOpnd s.cur 0 = none := rfl
  have hfield : capArg s.cur (flagField 0) = [] := rfl
  refine (privileged_supervisor hpriv _).trans ?_
  simp only [hflag, hfield, invalOperand_tags h, invalOperand_kind h, Option.toList_none, checks_nil, hoff, hon]
  exact done_cur (s.invalidating a scope)

theorem atRetire_mem (s : State) (t : Thread) : (atRetire s t).mem = s.mem := rfl

theorem atRetire_invals (s : State) (t : Thread) : (atRetire s t).invals = s.invals := rfl

theorem privilegedFormsComplete : PrivilegedFormsComplete := by
  intro s hpriv
  refine ⟨fun hcap _ _ _ => ⟨_, exec_eret hpriv hcap, ?_⟩, fun hnone => ⟨_, exec_pdrain hpriv hnone, ?_⟩,
    fun a scope hoff hon h => ⟨_, exec_tlbinv hpriv hoff hon h, ?_⟩⟩
  · rw [setCur_cur]
    exact ⟨rfl, rfl, rfl, rfl, rfl, rfl⟩
  · rw [atRetire_cur]
    exact ⟨rfl, rfl, rfl⟩
  · have hunseen := unseen_invalidating s a scope s.curTile s.curThr
    rw [atRetire_cur, hunseen.cur_eq, atRetire_mem, atRetire_invals, invalidating_invals, List.length_append]
    exact ⟨rfl, rfl, hunseen.mem, rfl⟩

end Sys2Proof.Machine

namespace Sys2Proof.Machine
open Sys2Proof.Claims

/-! ## Crown barriers: who may use one, and what an arrival does (R293) -/

@[simp] theorem setCrown_crown_self (s : State) (b : Nat) (c : Crown) : (s.setCrown b c).crown b = c := mget_mset_self _ _ _ _

theorem crownOk_iff (s : State) (b : Nat) : s.crownOk b = true ↔ mayUse (s.crown b) s.curT.ctx s.curTile := by
  simp only [State.crownOk, Crown.holds, mayUse, Bool.and_eq_true, beq_iff_eq, decide_eq_true_eq, and_assoc]
  rfl

/-- The episode that an arrival of the current thread at barrier b belongs to. -/
def State.nextEpisode (s : State) (b : Nat) : Nat :=
  (s.crown b).episode + boolNat ((s.crown b).arrived.contains s.curTile || (s.crown b).flying.contains s.curTile) +
    mget 0 s.curT.crownHeld b + 1

theorem episode_lt_nextEpisode (s : State) (b : Nat) : (s.crown b).episode < s.nextEpisode b := by
  rw [State.nextEpisode]
  omega

/-- The counts of arrivals of a tile are no part of its threads. -/
theorem countArrivals_cur (s : State) (t : Nat) (c h : Tile → SMap Nat) :
    (s.updTile t fun y => { y with crownCnt := c y, crownHeld := h y }).cur = s.cur := updTile_thr _ _ _ _ rfl

theorem setCrown_mem (s : State) (b : Nat) (c : Crown) : (s.setCrown b c).mem = s.mem := rfl

theorem setCrown_cur (s : State) (b : Nat) (c : Crown) : (s.setCrown b c).cur = s.cur := rfl

/-- The thread with the episode of barrier b that it waits for. -/
def State.awaiting (s : State) (b : Nat) : Thread := { s.cur with crownDone := mset 0 s.cur.crownDone b (s.nextEpisode b) }

/-- An arrival counts at the tile and at the root; of the thread it changes the episode that it waits for. -/
theorem arrive_frame (s : State) (b : Nat) : (s.arrive b).mem = s.mem ∧ (s.arrive b).cur = s.awaiting b := by
  change (if _ then _ else if _ then _ else _ : State).mem = _ ∧ (if _ then _ else if _ then _ else _ : State).cur = _
  split_ifs
  · rw [State.updTile_mem, State.setCur_mem, countArrivals_cur _ _ _ Tile.crownHeld]
    exact ⟨rfl, setCur_cur s _⟩
  · rw [State.updTile_mem, State.setCur_mem, countArrivals_cur]
    exact ⟨rfl, setCur_cur s _⟩
  · rw [setCrown_mem, setCrown_cur, State.updTile_mem, State.setCur_mem, countArrivals_cur]
    exact ⟨rfl, setCur_cur s _⟩

theorem synchronising_clear {s : State} (h : s.cur.afp = false) (act : Host.Outcome State Fault Refusal) : s.synchronising act = act :=
  if_neg (by simp [h])

section
variable {s : State} {id : Fin 64} (huse : mayUse (s.crown id.val) s.curT.ctx s.curTile) (hpoison : (s.crown id.val).poison = 0)
variable (hstep : mget 0 s.cur.crownDone id.val ≤ (s.crown id.val).episode)
include huse hpoison hstep

theorem crown_in_step : (!s.crownOk id.val) = false ∧ ¬(s.crown id.val).poison ≠ 0 ∧ s.crownPending s.curTile s.curThr id.val = false :=
  ⟨by rw [(crownOk_iff s _).mpr huse]; rfl, not_not.mpr hpoison, decide_eq_false hstep.not_gt⟩

theorem exec_pbara : exec (.pbara id) s = .next (atRetire (s.arrive id.val) (s.arrive id.val).cur) := by
  obtain ⟨hok, hclean, hpending⟩ := crown_in_step huse hpoison hstep
  change execPbara id s = _
  simp only [execPbara, hok, hpending, if_neg hclean]
  exact done_cur _

variable (hafp : s.cur.afp = false)
include hafp

theorem exec_pbarw (d : GIx) : exec (.pbarw d id) s = .next (atRetire s (s.cur.wr d {})) := by
  obtain ⟨hok, hclean, hpending⟩ := crown_in_step huse hpoison hstep
  refine (synchronising_clear hafp _).trans ?_
  simp only [hok, hpending, if_neg hclean]
  exact doneG_eq_writes s d _

theorem exec_pbar {d : GIx} (hlimbo : s.cur.limbo ≠ some (s.cur.pc.toNat % 2 ^ 19, .crown (.pbar d id) id.val)) :
    exec (.pbar d id) s = (s.arrive id.val).park (.crown (.pbar d id) id.val) := by
  obtain ⟨hok, hclean, hpending⟩ := crown_in_step huse hpoison hstep
  have hreleased : s.cur.released (.crown (.pbar d id) id.val) = false := beq_eq_false_iff_ne.mpr hlimbo
  refine (synchronising_clear hafp _).trans ?_
  simp only [hok, hpending, hreleased, if_neg hclean]
  rfl

theorem crownUse_completes :
    (∃ t, exec (.pbara id) s = .next t ∧ t.cur.pc = s.cur.succ ∧ t.cur.retired = s.cur.retired + 1 ∧ t.mem = s.mem) ∧
    (∀ d, ∃ t, exec (.pbarw d id) s = .next t ∧ t = atRetire s (s.cur.wr d {})) ∧
    (∀ d, s.cur.limbo ≠ some (s.cur.pc.toNat % 2 ^ 19, .crown (.pbar d id) id.val) →
      ∃ t, exec (.pbar d id) s = .next t ∧ t.cur.run = .reissue ∧ t.cur.wait = .crown (.pbar d id) id.val ∧ t.cur.pc = s.cur.pc ∧
        (s.crown id.val).episode < mget 0 t.cur.crownDone id.val ∧ t.mem = s.mem) := by
  obtain ⟨hmem, hcur⟩ := arrive_frame s id.val
  refine ⟨⟨_, exec_pbara huse hpoison hstep, ?_⟩, fun d => ⟨_, exec_pbarw huse hpoison hstep hafp d, rfl⟩,
    fun d hlimbo => ⟨_, exec_pbar huse hpoison hstep hafp hlimbo, ?_⟩⟩
  · rw [atRetire_cur, atRetire_mem, hcur]
    exact ⟨rfl, rfl, hmem⟩
  · rw [setCur_cur, hcur]
    refine ⟨rfl, rfl, rfl, ?_, hmem⟩
    refine (episode_lt_nextEpisode s id.val).trans_eq ?_
    exact (mget_mset_self 0 s.cur.crownDone id.val (s.nextEpisode id.val)).symm

end

/-! ## Arrivals at the root and the release (R294) -/

theorem rootArrival_completes {s : State} {id : Fin 64} {t : Nat} (h : t ∈ (s.crown id.val).flying) :
    ∃ u, exec (.crownRootArrival t id) s = .next u ∧ t ∈ (u.crown id.val).arrived ∧ t ∉ (u.crown id.val).flying := by
  refine ⟨_, if_neg (by simpa using h), ?_⟩
  rw [setCrown_crown_self]
  exact ⟨(mem_nins _ _ _).mpr (.inl rfl), fun hin => ((mem_ndel _ _ _).mp hin).1 rfl⟩

theorem crownWake_crowns (s : State) (t h b : Nat) (v : GReg) : (s.crownWake t h b v).crowns = s.crowns := by
  unfold State.crownWake
  split
  · split <;> rfl
  · split <;> rfl
  · split <;> rfl
  · rfl

theorem crownRelease_crowns (s : State) (b : Nat) (p : State → Nat → Nat → Bool) (v : GReg) : (s.crownRelease b p v).crowns = s.crowns := by
  refine foldl_keeps (g := State.crowns) (fun u t => foldl_keeps (g := State.crowns) (fun w h => ?_) _ u) _ s
  split
  · exact crownWake_crowns _ _ _ _ _
  · rfl

/-- The arrival that a tile holds for the next episode is sent. -/
def State.sendHeld (s : State) (b t : Nat) : State :=
  let n := mget 0 (s.tile t).crownHeld b
  if n = 0 then s
  else
    let s := s.updTile t fun x => { x with crownHeld := mset 0 x.crownHeld b (n - 1) }
    s.setCrown b { s.crown b with flying := nins (s.crown b).flying t }

theorem sendHeld_crown (s : State) (b t : Nat) : ((s.sendHeld b t).crown b).episode = (s.crown b).episode ∧
    ((s.sendHeld b t).crown b).arrived = (s.crown b).arrived := by
  unfold State.sendHeld
  dsimp only
  split
  · exact ⟨rfl, rfl⟩
  · rw [setCrown_crown_self]
    exact ⟨rfl, rfl⟩

/-- A barrier with its next episode begun. -/
def Crown.nextBegun (c : Crown) : Crown := { c with episode := c.episode + 1, arrived := [], releasing := false }

/-- The state once barrier b has been released: its waiters wake, and held arrivals are sent. -/
def State.crownReleased (s : State) (b : Nat) : State :=
  (s.crown b).tiles.foldl (fun u t => u.sendHeld b t)
    ((s.setCrown b (s.crown b).nextBegun).crownRelease b (fun u t h => !u.crownPending t h b) (dataReg 0))

theorem crownReleased_crown (s : State) (b : Nat) : ((s.crownReleased b).crown b).episode = (s.crown b).episode + 1 ∧
    ((s.crownReleased b).crown b).arrived = [] := by
  have hwoken : ((s.setCrown b (s.crown b).nextBegun).crownRelease b (fun u t h => !u.crownPending t h b) (dataReg 0)).crown b =
      (s.crown b).nextBegun := by
    rw [State.crown, crownRelease_crowns]
    exact setCrown_crown_self _ _ _
  rw [State.crownReleased, foldl_keeps (g := fun u => (u.crown b).episode) fun u t => (sendHeld_crown u b t).1,
    foldl_keeps (g := fun u => (u.crown b).arrived) fun u t => (sendHeld_crown u b t).2, hwoken]
  exact ⟨rfl, rfl⟩

theorem exec_crownRelease {s : State} {id : Fin 64} (hreleasing : (s.crown id.val).releasing = true)
    (hbound : (s.crown id.val).bound = true) (hsaved : (s.crown id.val).saved = []) :
    exec (.crownRelease id) s = .next (s.crownReleased id.val) :=
  if_neg (by rw [hreleasing, hbound, Crown.frozen, hsaved]; decide)

/-! ## Binding and unbinding (R342, Table 17.9) -/

theorem crownFields_ofWord (v : Word) : crownFields (Crown.ofWord v.toNat) v := by
  simp only [crownFields, Crown.ofWord, bits_toNat]
  exact ⟨rfl, rfl, rfl, rfl, rfl, rfl⟩

theorem mayUse_of_mem_tiles {c : Crown} {t : Nat} (hx : c.x0 + c.w ≤ 64) (h : t ∈ c.tiles) : mayUse { c with bound := true } c.ctx t := by
  simp only [Crown.tiles, List.mem_flatMap, List.mem_map, List.mem_range] at h
  obtain ⟨j, hj, i, hi, rfl⟩ := h
  refine ⟨rfl, rfl, ?_⟩
  dsimp only
  omega

theorem bindable_of_held {s : State} {v : Word} (h : ∀ c', crownFields c' v → c'.x0 + c'.w ≤ 64 ∧ c'.y0 + c'.h ≤ 64 ∧
      ∀ t, mayUse { c' with bound := true } c'.ctx t → ∃ l, s.holder (clusterOf t) = some l ∧ l.ctx = c'.ctx) :
    s.bindable (Crown.ofWord v.toNat) .host = true := by
  obtain ⟨hx, hy, hheld⟩ := h _ (crownFields_ofWord v)
  have htiles : ∀ t ∈ (Crown.ofWord v.toNat).tiles,
      (match s.holder (clusterOf t) with | some l => l.ctx == (Crown.ofWord v.toNat).ctx | none => false) = true := fun t ht => by
    obtain ⟨l, hl, hctx⟩ := hheld t (mayUse_of_mem_tiles hx ht)
    rw [hl]
    exact beq_iff_eq.mpr hctx
  rw [State.bindable, decide_eq_true hx, decide_eq_true hy]
  exact List.all_eq_true.mpr htiles

theorem crownBind_completes {s : State} {id : Fin 64} {v : Word} (hv : v.getLsbD 63 = true)
    (h : ∀ c', crownFields c' v → c'.x0 + c'.w ≤ 64 ∧ c'.y0 + c'.h ≤ 64 ∧
      ∀ t, mayUse { c' with bound := true } c'.ctx t → ∃ l, s.holder (clusterOf t) = some l ∧ l.ctx = c'.ctx) :
    ∃ u, exec (.crownBind id v .host) s = .next u ∧ (u.crown id.val).bound = true ∧ crownFields (u.crown id.val) v := by
  refine ⟨_, if_neg (by rw [bit_toNat, hv, bindable_of_held h]; decide), ?_⟩
  rw [setCrown_crown_self]
  exact ⟨rfl, crownFields_ofWord v⟩

theorem crownUnbind_completes {s : State} {id : Fin 64} {v : Word} (hv : v.getLsbD 63 = false) :
    ∃ u, exec (.crownUnbind id v .host) s = .next u ∧ (u.crown id.val).bound = false := by
  refine ⟨_, if_neg (by rw [bit_toNat, hv]; decide), ?_⟩
  rw [setCrown_crown_self]
  rfl

theorem crownFormsComplete : CrownFormsComplete := fun s id =>
  ⟨fun hafp huse hpoison hstep => crownUse_completes huse hpoison hstep hafp, fun _ => rootArrival_completes,
    fun hreleasing hbound hsaved => ⟨_, exec_crownRelease hreleasing hbound hsaved, crownReleased_crown s id.val⟩,
    fun _ => crownBind_completes, fun _ => crownUnbind_completes⟩

/-- Settles O59: the moves by what their destinations are found to hold, the privileged forms and the crown forms by the state that
each leaves where nothing stops it. -/
theorem movesSystemAndCrownFormsComplete : Obligations.MovesSystemAndCrownFormsComplete :=
  ⟨vectorMovesComplete, privilegedFormsComplete, crownFormsComplete⟩

end Sys2Proof.Machine

namespace Sys2Proof.Machine
open Sys2Proof.Claims

/-! ## What waking the waiters of a word leaves of each tile (R174, R177, R178, R210) -/

/-- Of a tile only its threads, its monitors, what it has to send and what its engines wait for differ; no monitor is new, and no
thread has begun to wait for a word's FE. -/
structure WokenTile (x y : Tile) : Prop where
  rest : ∃ ths ms ia ib cq mq ps rs, y = { x with threads := ths, monitors := ms, injA := ia, injB := ib, copyq := cq, matq := mq,
                                                   posted := ps, retries := rs }
  monitors : ∀ f ∈ y.monitors, f ∈ x.monitors
  waits : ∀ h w, (y.thread h).wait = .fe w → (x.thread h).wait = .fe w

/-- The two states differ beside memory only, and each tile as waking leaves it. -/
structure Woken (s u : State) : Prop where
  beside : Beside s u
  tile : ∀ t, WokenTile (s.tile t) (u.tile t)

theorem WokenTile.refl (x : Tile) : WokenTile x x := ⟨⟨_, _, _, _, _, _, _, _, rfl⟩, fun _ hf => hf, fun _ _ hw => hw⟩

theorem WokenTile.trans {x y z : Tile} (hy : WokenTile x y) (hz : WokenTile y z) : WokenTile x z := by
  obtain ⟨_, _, _, _, _, _, _, _, rfl⟩ := hy.rest
  obtain ⟨_, _, _, _, _, _, _, _, rfl⟩ := hz.rest
  exact ⟨⟨_, _, _, _, _, _, _, _, rfl⟩, fun f hf => hy.monitors f (hz.monitors f hf), fun h w hw => hy.waits h w (hz.waits h w hw)⟩

section
variable {s u v : State}

theorem Woken.refl : Woken s s := ⟨.refl, fun _ => .refl _⟩

theorem Woken.trans (hu : Woken s u) (hv : Woken u v) : Woken s v :=
  ⟨hu.beside.trans hv.beside, fun t => (hu.tile t).trans (hv.tile t)⟩

theorem Woken.foldl {α : Type} {f : State → α → State} (hf : ∀ u x, Woken u (f u x)) (l : List α) : Woken s (l.foldl f s) := by
  induction l generalizing s with
  | nil => exact .refl
  | cons x l ih => exact (hf s x).trans ih

end

section
variable (s : State)

theorem woken_setTile {t : Nat} {x : Tile} (h : WokenTile (s.tile t) x) : Woken s (s.setTile t x) := by
  refine ⟨beside_setTile s t x, fun k => ?_⟩
  by_cases hk : k = t
  · subst hk
    rwa [setTile_tile_self]
  · rw [setTile_tile_other _ _ hk]
    exact .refl _

theorem woken_setThr {t h : Nat} {x : Thread} (hx : ∀ w, x.wait = .fe w → (s.thr t h).wait = .fe w) : Woken s (s.setThr t h x) := by
  refine woken_setTile s ⟨⟨_, _, _, _, _, _, _, _, rfl⟩, fun _ hf => hf, fun k w hw => ?_⟩
  by_cases hk : k = h
  · subst hk
    rw [setThread_thread_self] at hw
    exact hx w hw
  · rwa [setThread_thread_other _ _ hk] at hw

theorem woken_batch (l : Option (List (Nat × Nat × WaitMon × Option Nat))) : Woken s { s with batch := l } :=
  ⟨⟨s.tiles, s.routers, l, rfl⟩, fun _ => .refl _⟩

theorem woken_inject (src : Home) (f : Flit) : Woken s (s.inject src f) := by
  unfold State.inject
  split
  · refine woken_setTile s ?_
    split <;> exact ⟨⟨_, _, _, _, _, _, _, _, rfl⟩, fun _ hf => hf, fun _ _ hw => hw⟩
  · exact ⟨⟨s.tiles, _, s.batch, rfl⟩, fun _ => .refl _⟩

theorem woken_sendHome (src dst : Home) (f : Flit) : Woken s (s.sendHome src dst f) :=
  Woken.foldl (fun u g => woken_inject u src g) _

theorem woken_answer (src : Home) (f r : Flit) : Woken s (s.answer src f r) := woken_sendHome s _ _ _

theorem woken_filterMonitors (t : Nat) (p : Flit → Bool) :
    Woken s (s.setTile t { s.tile t with monitors := (s.tile t).monitors.filter p }) :=
  woken_setTile s ⟨⟨_, _, _, _, _, _, _, _, rfl⟩, fun _ hf => (List.mem_filter.mp hf).1, fun _ _ hw => hw⟩

theorem woken_fireArms (t a : Nat) : Woken s (s.fireArms t a) :=
  (woken_filterMonitors s t _).trans (Woken.foldl (fun u f => woken_answer u _ f _) _)

theorem woken_fwaitEnd (t h : Nat) (r : GReg) : Woken s (s.fwaitEnd t h r) := by
  unfold State.fwaitEnd
  split
  · refine ((Woken.foldl (fun u m => woken_sendHome u _ _ _) _).trans (woken_setTile _ ?_)).trans (woken_setThr _ fun w hw => ?_)
    · exact ⟨⟨_, _, _, _, _, _, _, _, rfl⟩, fun _ hf => hf, fun _ _ hw => hw⟩
    · cases hw
  · exact .refl

theorem woken_wakeBy (t h : Nat) (m : WaitMon) (cls : Option Nat) : Woken s (s.wakeBy t h m cls) := by
  unfold State.wakeBy
  split
  · split
    · split
      · exact .refl
      · exact woken_fwaitEnd s t h _
    · exact woken_fwaitEnd s t h _
  · exact .refl

theorem woken_wakeOwn (t a h : Nat) : Woken s (s.wakeOwn t a h) := by
  unfold State.wakeOwn
  split
  · split
    · exact .refl
    · dsimp only
      split
      · split
        · exact woken_wakeBy s t h _ _
        · exact woken_batch s _
      · exact .refl
  · exact .refl

theorem woken_engines {t : Nat} (cq : SMap CopyCmd) (mq : List MatCmd) :
    Woken s (s.setTile t { s.tile t with copyq := cq, matq := mq }) :=
  woken_setTile s ⟨⟨_, _, _, _, _, _, _, _, rfl⟩, fun _ hf => hf, fun _ _ hw => hw⟩

theorem woken_watchHead (t : Nat) : Woken s (s.watchHead t) := by
  unfold State.watchHead
  split
  · exact woken_engines s _ _
  · exact .refl

theorem woken_watchEngines (t a : Nat) : Woken s (s.watchEngines t a) := by
  unfold State.watchEngines
  split
  · exact .refl
  · dsimp only
    generalize hu : (if ((s.tile t).copyq.any fun x => x.2.wf != 0 && gaOff x.2.wf / 8 == a % 2 ^ 19 / 8) = true then _ else s) = u
    have hwoken : Woken s u := by
      subst hu
      split
      · exact woken_engines s _ _
      · exact .refl
    split
    · split
      · exact hwoken.trans (woken_watchHead u t)
      · exact hwoken
    · exact hwoken

theorem woken_touch (a : Nat) : Woken s (s.touch a) := by
  unfold State.touch
  split
  · exact ((woken_fireArms s _ a).trans (Woken.foldl (fun u h => woken_wakeOwn u _ a h) _)).trans (woken_watchEngines _ _ a)
  · exact .refl

theorem woken_wakeAll : Woken s s.wakeAll :=
  (woken_batch s none).trans (Woken.foldl (fun u _ => woken_wakeBy u _ _ _ _) _)

end

/-! ## FE of a word that nothing waits for (R173, R174) -/

theorem WokenTile.noFeWaiter {x y : Tile} (h : WokenTile x y) {w : Nat}
    (hx : (∀ f ∈ x.monitors, f.op ≠ .ldc ∧ f.op ≠ .stp) ∧ ∀ k, k < 8 → (x.thread k).wait ≠ .fe w) :
    (∀ f ∈ y.monitors, f.op ≠ .ldc ∧ f.op ≠ .stp) ∧ ∀ k, k < 8 → (y.thread k).wait ≠ .fe w :=
  ⟨fun f hf => hx.1 f (h.monitors f hf), fun k hk hw => hx.2 k hk (h.waits k w hw)⟩

theorem Woken.noFeWaiter {s u : State} (h : Woken s u) {a : Nat} (hno : noFeWaiter s a) : noFeWaiter u a :=
  (h.tile (spadTile a)).noFeWaiter hno

theorem noFeWaiter_of_tiles {s u : State} (h : u.tiles = s.tiles) {a : Nat} (hno : noFeWaiter s a) : noFeWaiter u a := by
  have htile (t : Nat) : u.tile t = s.tile t := by rw [State.tile, h, State.tile]
  simpa only [noFeWaiter, State.thr, htile] using hno

theorem takeFirst_eq_none {α : Type} {p : α → Bool} {l : List α} (h : ∀ x ∈ l, p x = false) : takeFirst p l = none := by
  induction l with
  | nil => rfl
  | cons x l ih =>
    rw [takeFirst, h x List.mem_cons_self, ih fun y hy => h y (List.mem_cons_of_mem _ hy)]
    rfl

theorem foldl_of_fixed {α β : Type} {f : β → α → β} {b : β} {l : List α} (h : ∀ x ∈ l, f b x = b) : l.foldl f b = b := by
  induction l with
  | nil => rfl
  | cons x l ih => rw [List.foldl_cons, h x List.mem_cons_self, ih fun y hy => h y (List.mem_cons_of_mem _ hy)]

theorem feStep_of_noFeWaiter {s : State} {a : Nat} (hno : noFeWaiter s a) (n : Nat) : s.feStep (spadTile a) a n = s := by
  cases n with
  | zero => rfl
  | succ n =>
    have hnone : takeFirst (fun f : Flit => f.ga % 2 ^ 19 / 8 == a % 2 ^ 19 / 8 && f.op == (if s.fe a then .ldc else .stp))
        (s.tile (spadTile a)).monitors = none := takeFirst_eq_none fun f hf => by
      obtain ⟨hldc, hstp⟩ := hno.1 f hf
      split <;> simp [hldc, hstp]
    simp only [State.feStep, hnone]

theorem wakeFe_of_noFeWaiter {s : State} {a : Nat} (hno : noFeWaiter s a) {h : Nat} (hh : h < 8) :
    s.wakeFe (spadTile a) (a % 2 ^ 19) h = s :=
  if_neg (by simpa using hno.2 h hh)

/-- With nothing waiting on the word, a change of its FE is all that happens. -/
theorem feTo_of_noFeWaiter {s : State} {a : Nat} (hno : noFeWaiter s a) (b : Bool) :
    s.feTo a b = if s.fe a = b then s else s.setFe a b := by
  have hset : noFeWaiter (s.setFe a b) a := noFeWaiter_of_tiles rfl hno
  have hwake : (List.range 8).foldl (fun s h => s.wakeFe (spadTile a) (a % 2 ^ 19) h) (s.setFe a b) = s.setFe a b :=
    foldl_of_fixed fun h hh => wakeFe_of_noFeWaiter hset (List.mem_range.mp hh)
  rw [State.feTo]
  split
  · rfl
  · show (List.range 8).foldl (fun s h => s.wakeFe (spadTile a) (a % 2 ^ 19) h) ((s.setFe a b).feStep (spadTile a) a 65) = _
    rw [feStep_of_noFeWaiter hset, hwake]

theorem fe_of_word {s : State} {a c : Nat} (h : c / 8 = a / 8) : s.fe c = s.fe a := by rw [State.fe, h, State.fe]

/-- Nothing differs but FE. -/
structure OnlyFe (s u : State) : Prop where
  eq : ∃ l, u = { s with full := l }

section
variable {s : State} {a : Nat} (hno : noFeWaiter s a) (b : Bool)
include hno

theorem feTo_onlyFe : OnlyFe s (s.feTo a b) := by
  rw [feTo_of_noFeWaiter hno]
  split
  · exact ⟨s.full, rfl⟩
  · exact ⟨_, rfl⟩

theorem feTo_fe (c : Nat) : (s.feTo a b).fe c = if c / 8 = a / 8 then b else s.fe c := by
  rw [feTo_of_noFeWaiter hno]
  split
  case isTrue h =>
    split
    case isTrue hc => rw [fe_of_word hc, h]
    case isFalse => rfl
  case isFalse => exact setFe_fe s a c b

end

/-! ## SCRUB (R308) -/

/-- The words from lo to hi are cleaned: zero, neither poisoned nor tagged; nothing else differs. -/
structure Cleaned (s u : State) (lo hi : Nat) : Prop where
  inside : ∀ c, lo ≤ c → c < hi → u.byte c = 0 ∧ u.poisoned c = false ∧ u.tagAt c = false
  outside : keepsOutside s u lo hi
  untagged : ∀ c, s.tagAt c = false → u.tagAt c = false
  fe : ∀ c, u.fe c = s.fe c

theorem natLe_zero (n : Nat) : natLe n 0 = List.replicate n 0 := by
  induction n with
  | zero => rfl
  | succ n ih => rw [natLe, Nat.zero_div, ih, List.replicate_succ]; rfl

theorem setVal_zero_byte (s : State) {a n c : Nat} (hlo : a ≤ c) (hhi : c < a + n) : (s.setVal a n 0).byte c = 0 := by
  obtain ⟨k, rfl⟩ := Nat.exists_eq_add_of_le hlo
  rw [State.setVal, setBytes_byte_in _ _ (by rw [natLe_length]; omega)]
  simp only [natLe_zero, List.getElem_replicate]

theorem cleaned_clean (s : State) {a : Nat} (ha : a % 8 = 0) : Cleaned s (s.clean a) a (a + 8) := by
  have htag (c : Nat) : (s.clean a).tagAt c = if c / 16 = a / 16 then false else s.tagAt c := by
    rw [State.clean, setVal_tagAt, setTagAt_tagAt]
    rfl
  have hpsn (c : Nat) : (s.clean a).poisoned c = if c / 8 = a / 8 then false else s.poisoned c := by
    rw [State.clean, setVal_poisoned, setTagAt_poisoned, setPoisoned_poisoned]
    rfl
  refine ⟨fun c hlo hhi => ⟨setVal_zero_byte _ hlo hhi, ?_, ?_⟩, fun c hc => ⟨setVal_byte_other _ 0 hc, fun hw => ?_, fun hw => ?_⟩,
    fun c hc => ?_, fun c => setVal_fe _ _ _ _ c⟩
  · rw [hpsn, if_pos (by omega)]
  · rw [htag, if_pos (by omega)]
  · rw [hpsn, if_neg (by omega)]
  · rw [htag, if_neg (by omega)]
  · rw [htag, hc, ite_self]

theorem cleanWords_succ (s : State) (a n : Nat) : s.cleanWords a (n + 1) = (s.clean a).cleanWords (a + 8) n := by
  conv_lhs => unfold State.cleanWords

theorem cleaned_cleanWords (s : State) {a : Nat} (ha : a % 8 = 0) (n : Nat) : Cleaned s (s.cleanWords a n) a (a + 8 * n) := by
  induction n generalizing s a with
  | zero => exact ⟨fun c hlo hhi => absurd hhi (by omega), fun _ _ => ⟨rfl, fun _ => rfl, fun _ => rfl⟩, fun _ hc => hc, fun _ => rfl⟩
  | succ n ih =>
    have hfirst := cleaned_clean s ha
    have hrest := ih (s.clean a) (a := a + 8) (by omega)
    rw [cleanWords_succ]
    refine ⟨fun c hlo hhi => ?_, ?_, fun c hc => hrest.untagged c (hfirst.untagged c hc), fun c => (hrest.fe c).trans (hfirst.fe c)⟩
    · by_cases hc : c < a + 8
      · obtain ⟨hbyte, hpsn, htag⟩ := hfirst.inside c hlo hc
        obtain ⟨hbyte', hpsn', -⟩ := hrest.outside c (Or.inl hc)
        exact ⟨hbyte'.trans hbyte, (hpsn' (by omega)).trans hpsn, hrest.untagged c htag⟩
      · exact hrest.inside c (by omega) (by omega)
    · exact keepsOutside_trans (keepsOutside_mono (Nat.le_refl a) (by omega) hfirst.outside)
        (keepsOutside_mono (by omega) (by omega) hrest.outside)

/-- The words from a on are full; of memory nothing else differs. -/
structure Filled (s u : State) (lo hi : Nat) : Prop where
  mem : u.mem = s.mem
  psn : u.psn = s.psn
  tagged : u.tagged = s.tagged
  fe : ∀ c, u.fe c = if lo ≤ c ∧ c < hi then true else s.fe c

theorem filled_fillWords {n : Nat} {s : State} {a : Nat} (ha : a % 8 = 0) (hno : ∀ i, i < n → noFeWaiter s (a + 8 * i)) :
    Filled s (s.fillWords a n) a (a + 8 * n) := by
  induction n generalizing s a with
  | zero => exact ⟨rfl, rfl, rfl, fun c => (if_neg (by omega)).symm⟩
  | succ n ih =>
    have htouch := woken_touch s a
    have hfirst : noFeWaiter (s.touch a) a := htouch.noFeWaiter (hno 0 (Nat.succ_pos n))
    have hfe := feTo_fe hfirst true
    obtain ⟨l, hl⟩ := feTo_onlyFe hfirst true
    have hrest := ih (s := (s.touch a).feTo a true) (a := a + 8) (by omega) fun i hi => by
      have hnext := htouch.noFeWaiter (hno (i + 1) (Nat.succ_lt_succ hi))
      rw [show a + 8 * (i + 1) = a + 8 + 8 * i by ring] at hnext
      rw [hl]
      exact noFeWaiter_of_tiles rfl hnext
    rw [State.fillWords]
    refine ⟨hrest.mem.trans ?_, hrest.psn.trans ?_, hrest.tagged.trans ?_, fun c => ?_⟩
    · rw [hl]
      exact htouch.beside.mem
    · rw [hl]
      exact htouch.beside.psn
    · rw [hl]
      exact htouch.beside.tagged
    · rw [hrest.fe, hfe, htouch.beside.fe]
      by_cases hlater : a + 8 ≤ c ∧ c < a + 8 + 8 * n
      · rw [if_pos hlater, if_pos (by omega)]
      · rw [if_neg hlater]
        by_cases hword : c / 8 = a / 8
        · rw [if_pos hword, if_pos (by omega)]
        · rw [if_neg hword, if_neg (by omega)]

theorem cleanWords_tiles (s : State) (a n : Nat) : (s.cleanWords a n).tiles = s.tiles := by
  induction n generalizing s a with
  | zero => rfl
  | succ n ih =>
    rw [cleanWords_succ, ih]
    obtain ⟨m, hm⟩ := setBytes_eq (natLe 8 0) (((s.forgetErr a).setPoisoned a false).setTagAt a false) a
    rw [State.clean, State.setVal, hm]
    rfl

/-- SCRUB of 64 bytes that no LDC or STP waits for cleans them and makes them full. -/
theorem scrub_filled {s : State} {a : Nat} (hspad : isSpad a = true) (ha : a % 64 = 0) (hno : ∀ i, i < 8 → noFeWaiter s (a + 8 * i)) :
    Filled (s.cleanWords a 8) (s.scrub 0 a) a (a + 64) := by
  rw [State.scrub]
  rw [if_pos hspad]
  exact filled_fillWords (by omega) fun i hi => noFeWaiter_of_tiles (cleanWords_tiles s a 8) (hno i hi)

theorem Filled.byte {s u : State} {lo hi : Nat} (h : Filled s u lo hi) (c : Nat) : u.byte c = s.byte c := by
  rw [State.byte, h.mem, State.byte]
theorem Filled.poisoned {s u : State} {lo hi : Nat} (h : Filled s u lo hi) (c : Nat) : u.poisoned c = s.poisoned c := by
  rw [State.poisoned, h.psn, State.poisoned]
theorem Filled.tagAt {s u : State} {lo hi : Nat} (h : Filled s u lo hi) (c : Nat) : u.tagAt c = s.tagAt c := by
  rw [State.tagAt, h.tagged, State.tagAt]

theorem metadataOperations : MetadataOperations := by
  intro s a hspad
  refine ⟨fun b hno c => ?_, fun ha hno => ?_, fun ha herr => ?_⟩
  · obtain ⟨l, hl⟩ := feTo_onlyFe hno b
    refine ⟨feTo_fe hno b c, ?_, ?_⟩
    · rw [hl]
      rfl
    · rw [hl]
      rfl
  · have hclean := cleaned_cleanWords s (a := a) (by omega) 8
    have hfill := scrub_filled hspad ha hno
    refine ⟨fun c hlo hhi => ?_, fun c hc => ?_⟩
    · obtain ⟨hbyte, hpsn, htag⟩ := hclean.inside c hlo hhi
      exact ⟨(hfill.byte c).trans hbyte, (hfill.poisoned c).trans hpsn, (hfill.tagAt c).trans htag,
        (hfill.fe c).trans (if_pos ⟨hlo, hhi⟩)⟩
    · obtain ⟨hbyte, hpsn, htag⟩ := hclean.outside c hc
      exact ⟨(hfill.byte c).trans hbyte, (hfill.poisoned c).trans (hpsn (by omega)), (hfill.tagAt c).trans (htag (by omega)),
        ((hfill.fe c).trans (if_neg (by omega))).trans (hclean.fe c)⟩
  · obtain ⟨-, -, -, hmarked, -⟩ := homeStore s a 8 0 9 hspad (by norm_num) (by omega) herr (by norm_num)
    have hword := hmarked (by norm_num)
    rwa [show a / 8 * 8 = a by omega] at hword

end Sys2Proof.Machine

namespace Sys2Proof.Machine
open Sys2Proof.Claims

/-! ## Signals at a flag word (R167, R208) -/

section
variable {s : State} {a : Nat} (hspad : isSpad a = true) (ha : a % 8 = 0) (herr : noErr s a)
include hspad ha herr

theorem signalAt_poisoned (hp : s.poisoned a = true) (n cls origin : Nat) : Beside s (s.signalAt a n cls origin) := by
  have hword : a / 8 * 8 = a := by omega
  rw [State.signalAt, hword, look_of_noErr hspad herr]
  rw [hp, if_pos rfl]
  exact beside_touch s a

theorem signalAt_clean (hp : s.poisoned a = false) (n cls origin : Nat) :
    Beside ((s.setTagAt a false).setVal a 8 (signalled (s.val a 8) n cls origin)) (s.signalAt a n cls origin) := by
  have hword : a / 8 * 8 = a := by omega
  rw [State.signalAt, hword, look_of_noErr hspad herr]
  rw [hp, if_neg Bool.false_ne_true]
  exact beside_touch _ a

end

theorem flagCls_eq (w : Nat) : flagCls w = w / 2 ^ 40 % 256 := rfl

theorem signalled_count {w n : Nat} (origin : Nat) (hw : w < 2 ^ 64) :
    signalled w n 0 origin < 2 ^ 64 ∧ signalled w n 0 origin % 2 ^ 40 = (w + n) % 2 ^ 40 ∧
      signalled w n 0 origin / 2 ^ 40 = w / 2 ^ 40 := by
  simp only [signalled, ne_eq, not_true_eq_false, if_false, mkFlag, flagCount, flagCls, flagOrigin, bits, Nat.reduceAdd, Nat.reduceSub,
    Nat.pow_zero, Nat.div_one]
  omega

theorem signalled_kept {w n cls : Nat} (origin : Nat) (hcls : cls ≠ 0) (hw : w / 2 ^ 40 % 256 ≠ 0) : signalled w n cls origin = w := by
  rw [signalled, if_pos hcls, flagCls_eq, if_neg hw]

theorem signalled_class {w n cls origin : Nat} (hcls : cls ≠ 0) (hcls' : cls < 256) (horigin : origin < 65536) (hw : w / 2 ^ 40 % 256 = 0) :
    signalled w n cls origin < 2 ^ 64 ∧ signalled w n cls origin % 2 ^ 40 = w % 2 ^ 40 ∧
      signalled w n cls origin / 2 ^ 40 % 256 = cls ∧ signalled w n cls origin / 2 ^ 48 = origin := by
  rw [signalled, if_pos hcls, flagCls_eq, if_pos hw]
  simp only [mkFlag, flagCount, bits, Nat.reduceAdd, Nat.reduceSub, Nat.pow_zero, Nat.div_one]
  omega

theorem flagSignals : FlagSignals := by
  intro s a n cls origin hspad ha herr hcls horigin w t u
  have hw : w < 2 ^ 64 := val_lt s a 8
  cases hp : s.poisoned a
  · have hsignal : Beside _ t := signalAt_clean hspad ha herr hp n cls origin
    have hu : u = signalled w n cls origin % 2 ^ 64 := (hsignal.val a 8).trans (val_setVal _ a 8 _)
    refine ⟨fun c hc => (hsignal.byte c).trans (setVal_byte_other _ _ hc), fun h => absurd h Bool.false_ne_true, fun _ => ⟨?_, fun h0 => ?_,
      fun h0 hkept => ?_, fun h0 hset => ?_⟩⟩
    · rw [hsignal.poisoned, setVal_poisoned, setTagAt_poisoned, hp]
    · subst h0
      obtain ⟨hlt, hcount, hrest⟩ := signalled_count (n := n) origin hw
      rw [hu, Nat.mod_eq_of_lt hlt]
      exact ⟨hcount, hrest⟩
    · rw [hu, signalled_kept origin h0 hkept, Nat.mod_eq_of_lt hw]
    · obtain ⟨hlt, hfields⟩ := signalled_class (n := n) h0 hcls horigin hset
      rw [hu, Nat.mod_eq_of_lt hlt]
      exact hfields
  · have hsignal : Beside s t := signalAt_poisoned hspad ha herr hp n cls origin
    exact ⟨fun c _ => hsignal.byte c, fun _ => ⟨hsignal.val a 8, (hsignal.poisoned a).trans hp⟩, fun h => absurd h.symm Bool.false_ne_true⟩

/-- Settles O26: a change of FE with nothing waiting is that bit alone, SCRUB cleans word by word and then fills, POISON is a marked
store, and a signal writes the flag word that R167 gives. -/
theorem homeMetadataOperations : Obligations.HomeMetadataOperations := ⟨metadataOperations, flagSignals⟩

end Sys2Proof.Machine

namespace Sys2Proof.Machine
open Sys2Proof.Claims

/-! ## FSIG at the own tile (R169) -/

theorem Reaches.lt_word {s : State} {a : GIx} {need t k : Nat} {disp : Int} (h : Reaches s a need t k 8 disp) : k < 2 ^ 19 := by
  have := h.within
  omega

theorem fsig_own {s : State} {a b : GIx} {off : BitVec 19} {o : Nat} (h : Reaches s a permFL s.curTile o 8 off.toInt)
    (hfree : free s [o]) :
    exec (.fsig a b off) s = .next (retireIn (s.signalAt (spad s.curTile o) ((s.cur.rd b).low.toNat % 2 ^ 40)
      (markOf (s.cur.rd b) - 1) s.curTile) s s.cur) := by
  have hk := h.lt_word
  have hsignal : SameTurn s (s.signalAt (spad s.curTile o) ((s.cur.rd b).low.toNat % 2 ^ 40) (markOf (s.cur.rd b) - 1) s.curTile) :=
    SameTurn.signalAt (wait_of_free hfree) .refl _ _ _ _
  change execFsig a b off s = _
  rw [execFsig, off19_eq_toInt, h.checks (by decide) rfl]
  simp only [ownGa_gaSpad h.tile_lt hk, gaOff_gaSpad _ hk, refusing_of_free hfree, flagOwn_gaSpad rfl h.tile_lt hk, mark_eq_markOf,
    decide_true, if_true, ne_eq, not_true_eq_false, if_false, Bool.not_true, Bool.false_and, Bool.false_eq_true]
  rw [hsignal.cur, setCur_retire hsignal rfl rfl]

/-! ## The monitors of an FWAIT on flags of the own tile (R176, R177) -/

/-- Monitor j on the flag at offset o j of the own tile. -/
def ownMonitor (s : State) (eq : BitVec 4) (o : Nat → Nat) (j : Nat) : WaitMon :=
  { idx := j, flag := gaSpad s.curTile (o j), threshold := (s.cur.rd (monThreshold j)).low.toNat, eq := eq.getLsbD j, own := true }

/-- The operand of monitor j. -/
def flagOperand (s : State) (j : Nat) : Opnd := addrOpnd s.cur (monFlag j) permFL flagSpaces 8 0

theorem mem_enabled_iff {en : BitVec 4} {j : Nat} : j ∈ enabled en ↔ j < 4 ∧ en.getLsbD j = true := by
  rw [enabled, List.mem_filter, List.mem_range]

/-- The first of the enabled monitors that p holds of. -/
theorem find_enabled_eq_some {en : BitVec 4} {p : Nat → Bool} {j : Nat} (hj : j < 4) (hen : en.getLsbD j = true) (hp : p j = true)
    (hfirst : ∀ i, i < j → en.getLsbD i = true → p i = false) : (enabled en).find? p = some j := by
  rw [enabled, List.find?_filter, List.find?_range_eq_some]
  refine ⟨by rw [hen, hp]; rfl, List.mem_range.mpr hj, fun i hi => ?_⟩
  cases h : en.getLsbD i
  · rfl
  · rw [hfirst i hi h]
    rfl

section
variable {s : State} {en eq : BitVec 4} {o : Nat → Nat}

theorem reaches_of_ownMonitors (h : ownMonitors s en o) {j : Nat} (hj : j ∈ enabled en) :
    Reaches s (monFlag j) permFL s.curTile (o j) 8 0 := by
  obtain ⟨hlt, hen⟩ := mem_enabled_iff.mp hj
  obtain ⟨hnames, hown, -, -⟩ := h j hlt hen
  exact reaches_of_own hnames hown

theorem checks_monitors (h : ownMonitors s en o) :
    s.checks ((enabled en).map (flagOperand s)) none =
      .ok ((enabled en).map fun j => [({ off := 0, size := 8 }, gaSpad s.curTile (o j))]) := by
  have hon (j : Nat) (hj : j ∈ enabled en) := (reaches_of_ownMonitors h hj).onTile (sp := flagSpaces) (by decide) rfl
  rw [checks_of_onTile fun x hx => by
    obtain ⟨j, hj, rfl⟩ := List.mem_map.mp hx
    exact (hon j hj).1, List.map_map]
  refine congrArg Except.ok (List.map_congr_left fun j hj => ?_)
  show [(_, (flagOperand s j).gaOf s.pkg { off := 0, size := 8 } - 0)] = _
  rw [flagOperand, (hon j hj).2]
  rfl

theorem checks_poisoned {ops : List Opnd} (h : ∀ x ∈ ops, x.reg.tag = .cap) (c : Nat) :
    s.checks ops (some c) = .error (causePoison, c) := by
  rw [State.checks, tagFault_of_caps h]

/-- The monitors that F makes of the targets of the enabled flags. -/
theorem monitors_of_targets {F : Nat × List (Elem × Nat) → Option WaitMon}
    (hF : ∀ j e ga, F (j, [(e, ga)]) = some { idx := j, flag := ga, threshold := (s.cur.rd (monThreshold j)).low.toNat,
                                              eq := eq.getLsbD j, own := s.ownGa ga })
    (l : List Nat) (h : ∀ j ∈ l, s.ownGa (gaSpad s.curTile (o j)) = true) (e : Elem) :
    (l.zip (l.map fun j => [(e, gaSpad s.curTile (o j))])).filterMap F = l.map (ownMonitor s eq o) := by
  induction l with
  | nil => rfl
  | cons j l ih =>
    rw [List.map_cons, List.zip_cons_cons, List.filterMap_cons, ih fun x hx => h x (List.mem_cons_of_mem _ hx), hF,
      h j List.mem_cons_self]
    rfl

theorem sendArms_own (l : List Nat) (t h : Nat) (poll : Bool) :
    s.sendArms t h poll (l.map (ownMonitor s eq o)) = (l.map (ownMonitor s eq o), s) := by
  have hall : ∀ (l : List WaitMon) (v : State), (∀ m ∈ l, m.own = true) → v.sendArms t h poll l = (l, v) := by
    intro l
    induction l with
    | nil => exact fun _ _ => rfl
    | cons m l ih =>
      intro v hl
      rw [State.sendArms]
      simp only [hl m List.mem_cons_self, if_true, ih v fun x hx => hl x (List.mem_cons_of_mem _ hx)]
  refine hall _ s fun m hm => ?_
  obtain ⟨j, -, rfl⟩ := List.mem_map.mp hm
  rfl

theorem unarmed_ownMonitors (s : State) (eq : BitVec 4) (o : Nat → Nat) (l : List Nat) :
    ((l.map (ownMonitor s eq o)).filter fun m => m.armed) = [] := by simp [ownMonitor]

/-- Mark of the flag as a class. -/
def markClass (m : Nat) : Option Nat := if m = 0 then none else some (m - 1)

theorem decideOwn_monitors (l : List Nat) (hlt : ∀ j ∈ l, o j < 2 ^ 19) :
    s.decideOwn (l.map (ownMonitor s eq o)) =
      (l.find? fun j => decided (s.flagAt (spad s.curTile (o j))) (eq.getLsbD j) (s.cur.rd (monThreshold j)).low.toNat).map fun j =>
        monResult (ownMonitor s eq o j) (markClass (s.flagAt (spad s.curTile (o j))).2) := by
  induction l with
  | nil => rfl
  | cons j l ih =>
    have hoff : gaOff (ownMonitor s eq o j).flag = o j := gaOff_gaSpad _ (hlt j List.mem_cons_self)
    rw [List.map_cons, State.decideOwn, hoff, ih fun x hx => hlt x (List.mem_cons_of_mem _ hx), List.find?_cons]
    show (if decided (s.flagAt (spad s.curTile (o j))) (eq.getLsbD j) (s.cur.rd (monThreshold j)).low.toNat = true then _ else _) = _
    cases decided (s.flagAt (spad s.curTile (o j))) (eq.getLsbD j) (s.cur.rd (monThreshold j)).low.toNat <;> rfl

end

/-! ## The flag as its monitor sees it (R177) -/

section
variable {s : State} {a : Nat} (ha : a % 8 = 0)
include ha

theorem flagAt_count : (s.flagAt a).1 = s.val a 8 % 2 ^ 40 := by
  rw [State.flagAt, show a / 8 * 8 = a by omega]
  split <;> simp [flagCount, bits]

theorem markClass_flagAt : markClass (s.flagAt a).2 = flagClass s a := by
  have hcls : flagCls (s.val a 8) = s.val a 8 / 2 ^ 40 % 256 := rfl
  rw [State.flagAt, flagClass, show a / 8 * 8 = a by omega, hcls]
  cases s.poisoned a
  · simp only [Bool.false_eq_true, if_false, markClass]
    by_cases h : s.val a 8 / 2 ^ 40 % 256 = 0
    · simp only [h, if_true]
    · simp only [h, if_false, Nat.add_one_ne_zero, Nat.add_sub_cancel]
  · simp [markClass]

end

theorem decided_iff {s : State} {eq : BitVec 4} {o : Nat → Nat} {j : Nat} (ho : o j % 8 = 0) :
    decided (s.flagAt (spad s.curTile (o j))) (eq.getLsbD j) (s.cur.rd (monThreshold j)).low.toNat = true ↔
      satisfied s eq o j ∨ (flagClass s (spad s.curTile (o j))).isSome = true := by
  have ha : spad s.curTile (o j) % 8 = 0 := spad_mod _ ho
  rw [decided, flagAt_count ha, ← markClass_flagAt ha, Bool.or_eq_true, or_comm]
  refine or_congr ?_ ?_
  · rw [meets, satisfied]
    cases eq.getLsbD j <;> simp
  · by_cases h : (s.flagAt (spad s.curTile (o j))).2 = 0 <;> simp [markClass, h]

theorem dataReg_ofNat {n : Nat} (h : n < 2 ^ 64) : dataReg (BitVec.ofNat 64 n) = { tag := .data, body := BitVec.ofNat 128 n } := by
  rw [dataReg, BitVec.setWidth_ofNat_of_le_of_lt (by norm_num) h]

/-- What a decided monitor gives gD (R177): the poison of its flag, or its index. -/
def monitorGives (flag idx : Nat) : Option Nat → GReg
  | some c => { tag := .poison, body := BitVec.ofNat 64 flag ++ BitVec.ofNat 64 c }
  | none => { tag := .data, body := BitVec.ofNat 128 idx }

theorem monResult_eq (m : WaitMon) {cls : Option Nat} (hidx : m.idx < 4) (hcls : ∀ c, cls = some c → c < 256) :
    monResult m cls = monitorGives m.flag m.idx cls := by
  cases cls with
  | none => exact dataReg_ofNat (by omega)
  | some c => rw [monResult, poisonVal, Nat.mod_eq_of_lt (hcls c rfl), monitorGives]

theorem flagClass_lt {s : State} {a c : Nat} (h : flagClass s a = some c) : c < 256 := by
  unfold flagClass at h
  split at h
  · cases h
    omega
  · split at h
    · cases h
    · cases h
      omega

/-! ## What FWAIT on own-tile flags comes to (R156, R177) -/

/-- The timeout of an FWAIT. -/
def timeoutOf (s : State) (a : GIx) : Option Nat := if a = 0 then none else some (s.cur.rd a).low.toNat

/-- An FWAIT that has its result, or waits, or finds nothing in a poll. -/
def fwaitOutcome (s : State) (d : GIx) (mons : List WaitMon) (timeout : Option Nat) (v : Option GReg) : Host.Outcome State Fault Refusal :=
  match v with
  | some v => .next ((s.setCur { s.cur with wait := .fwait d.val mons 0 timeout }).fwaitEnd s.curTile s.curThr v)
  | none => if timeout = some 0 then s.doneG d (dataReg 4) else s.park (.fwait d.val mons (s.curT.cycle + 6) timeout)

theorem firstPoison_eq_none {l : List GReg} (h : ∀ r ∈ l, r.tag ≠ .poison) : firstPoison l = none := by
  rw [firstPoison_eq, List.find?_eq_none]
  exact fun r hr => by simp [h r hr]

section
variable {s : State} {d a : GIx} {en eq : BitVec 4} {o : Nat → Nat} (hafp : s.cur.afp = false) (h : ownMonitors s en o)
include hafp h

theorem exec_fwait_poisonedTimeout (ha : a ≠ 0) (hp : (s.cur.rd a).tag = .poison) :
    exec (.fwait d a en eq) s = s.trap 0x08 (classOf (s.cur.rd a)) := by
  have hcaps : ∀ x ∈ (enabled en).map (flagOperand s), x.reg.tag = .cap := fun x hx => by
    obtain ⟨j, hj, rfl⟩ := List.mem_map.mp hx
    exact (reaches_of_ownMonitors h hj).cap
  have hfirst : firstPoison ((if a = 0 then [] else [s.cur.rd a]) ++ (enabled en).map fun j => s.cur.rd (fwaitThreshold j)) =
      some (s.cur.rd a) := by
    rw [if_neg ha, List.singleton_append, firstPoison, (isPoison_iff _).mpr hp, if_pos rfl]
  change execFwait d a en eq s = _
  rw [execFwait, synchronising_of_clear hafp]
  dsimp only
  rw [hfirst, Option.map_some]
  change (match s.checks ((enabled en).map (flagOperand s)) _ with | .error (c, v) => s.trap c v | .ok rs => _) = _
  rw [checks_poisoned hcaps, ← cls_of_poison hp]
  rfl

theorem exec_fwait_own (hp : (s.cur.rd a).tag ≠ .poison) :
    exec (.fwait d a en eq) s = fwaitOutcome s d ((enabled en).map (ownMonitor s eq o)) (timeoutOf s a)
      (s.decideOwn ((enabled en).map (ownMonitor s eq o))) := by
  have hnone : firstPoison ((if a = 0 then [] else [s.cur.rd a]) ++ (enabled en).map fun j => s.cur.rd (fwaitThreshold j)) = none := by
    refine firstPoison_eq_none fun r hr => ?_
    obtain hr | hr := List.mem_append.mp hr
    · split at hr
      · cases hr
      · rwa [List.mem_singleton.mp hr]
    · obtain ⟨j, hj, rfl⟩ := List.mem_map.mp hr
      obtain ⟨hlt, hen⟩ := mem_enabled_iff.mp hj
      obtain ⟨-, -, -, hclean⟩ := h j hlt hen
      exact hclean
  have hlt (j : Nat) (hj : j ∈ enabled en) : o j < 2 ^ 19 := (reaches_of_ownMonitors h hj).lt_word
  have hown (j : Nat) (hj : j ∈ enabled en) : s.ownGa (gaSpad s.curTile (o j)) = true := by
    rw [ownGa_gaSpad (reaches_of_ownMonitors h hj).tile_lt (hlt j hj), decide_eq_true rfl]
  have hlook : ((((enabled en).map (ownMonitor s eq o)).filter fun m => m.own).foldl
      (fun s m => s.look (spad s.curTile (gaOff m.flag))) s) = s := foldl_of_fixed fun m hm => by
    obtain ⟨j, hj, rfl⟩ := List.mem_map.mp (List.mem_filter.mp hm).1
    obtain ⟨hj4, hen⟩ := mem_enabled_iff.mp hj
    obtain ⟨-, -, herr, -⟩ := h j hj4 hen
    rw [ownMonitor, gaOff_gaSpad _ (hlt j hj), look_of_noErr (isSpad_spad _ _) herr]
  have hall : ((enabled en).map (ownMonitor s eq o)).all (fun m => m.own) = true := by simp [ownMonitor]
  change execFwait d a en eq s = _
  rw [execFwait, synchronising_of_clear hafp]
  dsimp only
  rw [hnone, Option.map_none]
  change (match s.checks ((enabled en).map (flagOperand s)) none with | .error (c, v) => s.trap c v | .ok rs => _) = _
  rw [checks_monitors h]
  dsimp only
  rw [monitors_of_targets (fun _ _ _ => rfl) _ hown, hlook]
  cases hv : s.decideOwn ((enabled en).map (ownMonitor s eq o)) with
  | some v =>
    simp only [sendArms_own]
    rfl
  | none =>
    simp only [sendArms_own, hall, Bool.and_true, fwaitOutcome]
    rw [timeoutOf]
    by_cases hpoll : (if a = 0 then none else some (s.cur.rd a).low.toNat) = some 0
    · simp [hpoll]
    · simp [hpoll]

end

/-- The end of an FWAIT that has armed nothing (R177). -/
theorem fwaitEnd_unarmed {s : State} {t h d start : Nat} {mons : List WaitMon} {timeout : Option Nat}
    (hwait : (s.thr t h).wait = .fwait d mons start timeout) (harmed : (mons.filter fun m => m.armed) = []) (v : GReg) :
    (s.fwaitEnd t h v).thr t h = { ((s.thr t h).wr (Fin.ofNat 16 d) v).retire with run := .rotation, wait := .none } := by
  simp only [State.fwaitEnd, hwait, harmed, List.foldl_nil, State.wakeRetired, State.updThr, setThr_thr_self]
  rw [updTile_thr _ _ _ _ rfl]

theorem Beside.cur_thr {s u : State} (h : Beside s u) : u.cur = u.thr s.curTile s.curThr := by
  obtain ⟨_, _, _, rfl⟩ := h
  rfl

theorem fwaitOutcome_decided {s : State} {d : GIx} {mons : List WaitMon} (harmed : (mons.filter fun m => m.armed) = [])
    (timeout : Option Nat) (v : GReg) :
    ∃ u, fwaitOutcome s d mons timeout (some v) = .next u ∧ u.mem = s.mem ∧ u.cur = waitEnded s d v := by
  have hcur : (s.setCur { s.cur with wait := .fwait d.val mons 0 timeout }).thr s.curTile s.curThr =
    { s.cur with wait := .fwait d.val mons 0 timeout } := setCur_cur s _
  have hend := fwaitEnd_unarmed (v := v) (by rw [hcur]) harmed
  have hbeside := beside_fwaitEnd (s.setCur { s.cur with wait := .fwait d.val mons 0 timeout }) s.curTile s.curThr v
  refine ⟨_, rfl, hbeside.mem, ?_⟩
  refine hbeside.cur_thr.trans (hend.trans ?_)
  rw [hcur, show Fin.ofNat 16 d.val = d from Fin.ofNat_val_eq_self d]
  by_cases hd : d = 0
  · simp only [Thread.wr, hd, if_true]
    rfl
  · simp only [Thread.wr, hd, if_false, waitEnded]
    rfl

/-- Settles O39: FSIG is a signal at its word; FWAIT passes the checks, and what its enabled monitors find, in index order, decides. -/
theorem flagsAtOwnTile : Obligations.FlagsAtOwnTile := by
  intro s d a b
  refine ⟨fun off o hnames hown hfree => fsig_own (reaches_of_own hnames hown) hfree,
    fun en eq o hafp hmons hrun hwait => ⟨fun hp ha => exec_fwait_poisonedTimeout hafp hmons ha hp, fun hp => ?_⟩⟩
  have hlt (j : Nat) (hj : j ∈ enabled en) : o j < 2 ^ 19 := (reaches_of_ownMonitors hmons hj).lt_word
  have hdecided (j : Nat) (hj : j ∈ enabled en) := decided_iff (s := s) (eq := eq) (o := o) (reaches_of_ownMonitors hmons hj).aligned
  rw [exec_fwait_own hafp hmons hp, decideOwn_monitors _ hlt]
  refine ⟨fun j ⟨hj, hen⟩ hdec hfirst => ?_, fun hnone => ?_⟩
  · have hmem : j ∈ enabled en := mem_enabled_iff.mpr ⟨hj, hen⟩
    rw [find_enabled_eq_some hj hen ((hdecided j hmem).mpr hdec) fun i hi heni =>
      Bool.eq_false_iff.mpr fun hd => hfirst i hi ⟨by omega, heni⟩
        ((hdecided i (mem_enabled_iff.mpr ⟨by omega, heni⟩)).mp hd), Option.map_some,
      markClass_flagAt (spad_mod _ (reaches_of_ownMonitors hmons hmem).aligned), monResult_eq _ hj fun c => flagClass_lt]
    exact fwaitOutcome_decided (unarmed_ownMonitors s eq o _) (timeoutOf s a) _
  · have hnone' : (enabled en).find? (fun j => decided (s.flagAt (spad s.curTile (o j))) (eq.getLsbD j)
        (s.cur.rd (monThreshold j)).low.toNat) = none := List.find?_eq_none.mpr fun j hj hd =>
      hnone j (mem_enabled_iff.mp hj) ((hdecided j hj).mp hd)
    rw [hnone', Option.map_none]
    refine ⟨fun ha hzero => ?_, fun hwaits => ?_⟩
    · have htimeout : timeoutOf s a = some 0 := by
        rw [timeoutOf, if_neg ha, hzero]
        rfl
      refine ⟨atRetire s (s.cur.wr d { tag := .data, body := 4 }), ?_, rfl, rfl⟩
      rw [fwaitOutcome, htimeout, if_pos rfl]
      exact congrArg Host.Outcome.next (setCur_retire .refl (wr_succ _ _ _) (Thread.wr_retired _ _ _))
    · have htimeout : timeoutOf s a ≠ some 0 := by
        rw [timeoutOf]
        split
        · exact nofun
        · intro hzero
          obtain ha | hlow := hwaits
          · contradiction
          · exact hlow (BitVec.eq_of_toNat_eq (Option.some.inj hzero))
      exact ⟨_, _, _, if_neg htimeout, rfl, setCur_cur s _⟩
end Sys2Proof.Machine

namespace Sys2Proof.Machine
open Sys2Proof.Claims

/-! ## A message of one flit to another tile (R24, R157, R158) -/

/-- The message that tile src sends to tile t for the address ga. -/
def State.messageTo (s : State) (src t ga : Nat) (f : Flit) : Flit :=
  place (tileX src) (.tile t) { f with tag := s.tags + 1, ctx := (s.tile src).ctx, src := .tile src, ga := ga % 2 ^ 46, dpkg := none }

/-- Its one flit, whatever its operation: storeFlit names no operation. -/
def State.flitTo (s : State) (src t ga : Nat) (f : Flit) : Flit := storeFlit (s.messageTo src t ga f)

theorem inject_planeA {f : Flit} (hplane : planeB f.op = false) (s : State) (src : Nat) :
    s.inject (.tile src) f = s.updTile src fun x => { x with injA := x.injA ++ [f] } := by
  simp only [State.inject, hplane, Bool.false_eq_true, if_false]

theorem post_to_tile {s : State} {src t ga : Nat} (hhome : homeOf s.pkg (tileY src) ga = (.tile t, none)) {f : Flit}
    (hplane : planeB f.op = false) (hlast : f.flast = 0) (kind : PostKind) (pc : Word) (head : Nat) (opnd : Word) :
    s.post src kind pc head opnd ga none f =
      s.posting src { tag := s.tags + 1, kind := kind, flit := s.messageTo src t ga f, addr := ga, pc := pc, head := head, opnd := opnd }
        (s.flitTo src t ga f) := by
  have hflits : flitsOf (s.messageTo src t ga f) = [s.flitTo src t ga f] := flitsOf_single hlast
  unfold State.post
  rw [hhome]
  change (flitsOf (s.messageTo src t ga f)).foldl (fun s g => s.inject (.tile src) g)
    (({ s with tags := s.tags + 1 } : State).updTile src fun x => { x with posted := x.posted ++
      [{ tag := s.tags + 1, kind := kind, flit := s.messageTo src t ga f, addr := ga, pc := pc, head := head, opnd := opnd }] }) = _
  rw [hflits]
  exact inject_planeA (f := s.flitTo src t ga f) hplane _ src

/-- What the queued message leaves asked, whatever its thread becomes. -/
theorem asked_posting (s : State) {t o ga : Nat} (hga : ga % 2 ^ 19 = o) (q : Posted) (f : Flit) (x : Thread) :
    asked s ((s.posting s.curTile q (s.flitTo s.curTile t ga f)).setCur x) t o (s.flitTo s.curTile t ga f) := by
  have htile := posting_tile s s.curTile q (s.flitTo s.curTile t ga f)
  obtain ⟨hinj, hposted⟩ := setThr_queues (s.posting s.curTile q (s.flitTo s.curTile t ga f)) s.curTile s.curThr x s.curTile
  refine ⟨?_, rfl, ?_, rfl, rfl, ?_, State.setCur_mem _ _⟩
  · rw [State.setCur, posting_curTile, posting_curThr, hinj, htile]
    exact List.mem_append_right _ (List.mem_singleton_self _)
  · show ga % 2 ^ 46 % 2 ^ 19 = o
    omega
  · rw [State.setCur, posting_curTile, posting_curThr, hposted, htile, List.length_append]
    rfl

theorem asked_of_setCur {s u : State} {x : Thread} {t o : Nat} {f : Flit} (h : asked (s.setCur x) u t o f) : asked s u t o f := by
  obtain ⟨hmem, hhome, hga, htag, hsrc, hlen, hsame⟩ := h
  exact ⟨hmem, hhome, hga, htag, hsrc, hlen.trans (by
    rw [State.curT, State.setCur_curTile, State.setCur, (setThr_queues s _ _ x _).2, State.curT]), hsame⟩

theorem cur_posting (s : State) (q : Posted) (g : Flit) : (s.posting s.curTile q g).cur = s.cur := posting_thr s _ q g _ _

/-! ## What is sent for an access to another tile -/

theorem gaSpad_offset (t : Nat) {k : Nat} (hk : k < 2 ^ 19) : gaSpad t k % 2 ^ 19 = k := by
  simp only [gaSpad]
  omega

/-- The message of an operation as its thread sends it. -/
def State.stamped (s : State) (f : Flit) (e flag : Nat) : Flit := { f with idx := e, flag := flag, thr := s.curThr, sup := s.cur.priv }

/-- A request to another tile is sent and its thread parks. -/
theorem request_asks {s : State} {e : Elem} {t o ga : Nat} (hhome : homeOf s.pkg (tileY s.curTile) ga = (.tile t, none))
    (hga : ga % 2 ^ 19 = o) {ask : Nat → Flit} (hplane : planeB (ask e.idx).op = false) (hlast : (ask e.idx).flast = 0) (i : Instr)
    (opnd : Word) :
    ∃ u, s.request i ask opnd [(e, ga, none)] = .next u ∧
      asked s u t o (s.flitTo s.curTile t ga (s.stamped (ask e.idx) e.idx (ask e.idx).flag)) ∧
      u.cur = { s.cur with run := .reissue, wait := .resp i [e.idx] } := by
  have hpost := post_to_tile (f := s.stamped (ask e.idx) e.idx (ask e.idx).flag) hhome hplane hlast (.request s.curThr) s.cur.pc s.curHead opnd
  have hrequest : s.request i ask opnd [(e, ga, none)] = State.park (s.post s.curTile (.request s.curThr) s.cur.pc s.curHead opnd
      ga none (s.stamped (ask e.idx) e.idx (ask e.idx).flag)) (.resp i [e.idx]) := rfl
  rw [hrequest, hpost, State.park, cur_posting]
  exact ⟨_, rfl, asked_posting s hga _ _ _, setCur_cur _ _⟩

theorem flitTo_setCur (s : State) (x : Thread) (t ga : Nat) (f : Flit) (e flag : Nat) :
    (s.setCur x).flitTo (s.setCur x).curTile t ga ((s.setCur x).stamped f e flag) =
      s.flitTo s.curTile t ga { s.stamped f e flag with sup := x.priv } := by
  simp only [State.stamped, setCur_cur, State.setCur_curTile, State.setCur_curThr, State.flitTo, State.messageTo, State.setCur_tags,
    setCur_tile_of_eq rfl]
  rfl

theorem ownGa_setCur (s : State) (x : Thread) (ga : Nat) : (s.setCur x).ownGa ga = s.ownGa ga := rfl

/-- A blocking operation of one access elsewhere goes on to its request. -/
theorem blocking_requests {s : State} {o : Opnd} {opnd : Word} {fin : Thread → Thread} {e : Elem} {ga : Nat}
    (hchecks : s.checks [o] none = .ok [[(e, ga)]]) (hown : s.ownGa ga = false) (hhbm : s.hbmGa ga = false) (i : Instr)
    (need : Bool × Bool) (n : Nat) (ask : Nat → Flit) :
    s.blocking i o none need n opnd ask fin = (s.setCur s.cur).request i ask opnd [(e, ga, none)] := by
  have hbanks : s.refusing [] = [] := rfl
  unfold State.blocking
  rw [hchecks]
  simp [hown, hhbm, hbanks, passOf, State.performOwn, ownGa_setCur]

section
variable {s : State} {o : Opnd} {opnd : Word} {fin : Thread → Thread} {e : Elem} {t k : Nat}
  (hchecks : s.checks [o] none = .ok [[(e, gaSpad t k)]]) (ht : t < 4096) (hk : k < 2 ^ 19) (hother : t ≠ s.curTile)
include hchecks ht hk hother

/-- A posted operation on another tile sends its message and goes on (R158). -/
theorem posted_asks (hroom : s.retryRoom s.curTile 1 = true) {msg : Nat → Flit} (hplane : planeB (msg e.idx).op = false)
    (hlast : (msg e.idx).flast = 0) :
    ∃ u, s.posted o none none opnd msg fin = .next u ∧
      asked s u t k (s.flitTo s.curTile t (gaSpad t k) (s.stamped (msg e.idx) e.idx 0)) ∧ u.cur = fin s.cur := by
  have hpost := post_to_tile (f := s.stamped (msg e.idx) e.idx 0) (homeOf_gaSpad ht hk s.pkg (tileY s.curTile)) hplane hlast
    (.posted s.curThr) s.cur.pc s.curHead opnd
  refine ⟨_, posted_far hchecks (hbmGa_gaSpad ht hk s) hpost (by rw [ownGa_gaSpad ht hk, decide_eq_false hother]) (by rw [hlast]; exact hroom),
    ?_, ?_⟩
  · rw [cur_posting]
    exact asked_posting s (gaSpad_offset t hk) _ _ _
  · rw [cur_posting, setCur_cur]

/-- A blocking operation on another tile sends its request and parks its thread (R157). -/
theorem blocking_asks {i : Instr} {need : Bool × Bool} {n : Nat} {ask : Nat → Flit}
    (hplane : planeB (ask e.idx).op = false) (hlast : (ask e.idx).flast = 0) :
    ∃ u, s.blocking i o none need n opnd ask fin = .next u ∧
      asked s u t k (s.flitTo s.curTile t (gaSpad t k) (s.stamped (ask e.idx) e.idx (ask e.idx).flag)) ∧
      u.cur = { s.cur with run := .reissue, wait := .resp i [e.idx] } := by
  have hown : s.ownGa (gaSpad t k) = false := by rw [ownGa_gaSpad ht hk, decide_eq_false hother]
  obtain ⟨u, hrequest, hasked, hcur⟩ := request_asks (s := s.setCur s.cur) (e := e) (homeOf_gaSpad ht hk _ _)
    (gaSpad_offset t hk) hplane hlast i opnd
  rw [setCur_cur] at hcur
  rw [flitTo_setCur] at hasked
  exact ⟨u, (blocking_requests hchecks hown (hbmGa_gaSpad ht hk s) i need n ask).trans hrequest, asked_of_setCur hasked, hcur⟩

end

/-! ## The operations one by one (R157, R158, R169, R198) -/

section
variable {s : State} {d a b : GIx} {t o : Nat}

theorem ld_far {z : Bool} {sz : Fin 4} {m : BitVec 20} (h : Reaches s a permLD t o (2 ^ sz.val) (dispM m)) (hother : t ≠ s.curTile) :
    ∃ u f, exec (.ld z sz d a m) s = .next u ∧ asked s u t o f ∧ f.op = .load ∧ f.size = 2 ^ sz.val ∧
      u.cur = { s.cur with run := .reissue, wait := .resp (.ld z sz d a m) [0] } := by
  have hchecks : s.checks [ldOpnd s.cur sz a m] none = .ok [[({ off := dispM m, size := 2 ^ sz.val }, gaSpad t o)]] := by
    rw [ldOpnd, mOff_eq_dispM]
    exact h.checks (size_dvd sz) rfl
  obtain ⟨u, hexec, hasked, hcur⟩ := blocking_asks (fin := ldFin s.pkg z sz d a m) (opnd := 0) (i := .ld z sz d a m)
    (ask := fun _ => { op := .load, size := 2 ^ sz.val }) (need := (false, true)) (n := 1) hchecks h.tile_lt h.lt hother rfl rfl
  exact ⟨u, _, hexec, hasked, rfl, rfl, hcur⟩

theorem st_far {sz : Fin 4} {m : BitVec 20} (h : Reaches s a permST t o (2 ^ sz.val) (dispM m)) (hother : t ≠ s.curTile)
    (hroom : s.retryRoom s.curTile 1 = true) :
    ∃ u f, exec (.st sz b a m) s = .next u ∧ asked s u t o f ∧ f.op = .store ∧ f.size = 2 ^ sz.val ∧
      f.data = natLe (2 ^ sz.val) ((incM s a m).rd b).low.toNat ∧ f.psn = [markOf ((incM s a m).rd b)] ∧ f.flag = 0 ∧
      u.cur = (atRetire s (incM s a m)).cur := by
  obtain ⟨u, hexec, hasked, hcur⟩ := posted_asks (fin := fun th => (th.postInc a m).retire) (opnd := ((incM s a m).rd b).low)
    (msg := fun _ => regStoreFlit (2 ^ sz.val) ((incM s a m).rd b)) (h.checks (size_dvd sz) (sp := loadStore) rfl) h.tile_lt h.lt hother hroom
    rfl rfl
  refine ⟨u, _, (execSt_eq (s := s) (d := b) sz).trans hexec, hasked, rfl, rfl, ?_, ?_, rfl, ?_⟩
  · have hsize : 2 ^ sz.val ≤ 2 ^ 3 := Nat.pow_le_pow_right (by norm_num) (by omega)
    exact List.take_of_length_le ((natLe_length _ _).le.trans (hsize.trans (by norm_num)))
  · exact congrArg (fun c => [c]) (mark_eq_markOf _)
  · rw [hcur, atRetire_cur, postInc_eq_incM]
    exact retire_eq (incM_succ s a m) (incM_retired s a m)

theorem Reaches.lt_atom {need : Nat} {ty : AtomTy} {disp : Int} (h : Reaches s a need t o (atomWidth ty) disp) : o < 2 ^ 19 := by
  have hpos : 0 < atomWidth ty := Nat.pos_of_dvd_of_pos (atomWidth_dvd ty) (by norm_num)
  have := h.within
  omega

theorem radd_far {ty : AtomTy} {off : BitVec 16} (h : Reaches s a permAT t o (atomWidth ty) off.toInt) (hother : t ≠ s.curTile)
    (hroom : s.retryRoom s.curTile 1 = true) :
    ∃ u f, exec (.radd ty a b 0 off) s = .next u ∧ asked s u t o f ∧ f.op = .atomic ∧ f.fn = .add ∧ f.aty = ty ∧
      f.opnd = (s.cur.rd b).low.toNat ∧ f.opndMark = markOf (s.cur.rd b) ∧ u.cur = (atRetire s s.cur).cur := by
  have hchecks : s.checks [addrOpnd s.cur a permAT scratchHbm (atomWidth ty) (off16 off)] none =
      .ok [[({ off := off.toInt, size := atomWidth ty }, gaSpad t o)]] := by
    rw [off16_eq_toInt]
    exact h.checks (atomWidth_dvd ty) rfl
  obtain ⟨u, hexec, hasked, hcur⟩ := posted_asks (fin := Thread.retire) (opnd := (s.cur.rd b).low)
    (msg := fun _ => { op := .atomic, size := atomWidth ty, fn := .add, aty := ty, opnd := (s.cur.rd b).low.toNat, opndMark := (s.cur.rd b).mark })
    hchecks h.tile_lt h.lt_atom hother hroom rfl rfl
  exact ⟨u, _, hexec, hasked, rfl, rfl, rfl, rfl, mark_eq_markOf _, hcur.trans ((retire_eq rfl rfl).trans (atRetire_cur s s.cur).symm)⟩

theorem rswap_far {ty : AtomTy} {off : BitVec 16} (hafp : s.cur.afp = false)
    (h : Reaches s a (permLD + permST + permAT) t o (atomWidth ty) off.toInt) (hother : t ≠ s.curTile) :
    ∃ u f, exec (.rswap ty d a b off) s = .next u ∧ asked s u t o f ∧ f.op = .atomicr ∧ f.fn = .swap ∧ f.aty = ty ∧
      f.opnd = (s.cur.rd b).low.toNat ∧ f.opndMark = markOf (s.cur.rd b) ∧
      u.cur = { s.cur with run := .reissue, wait := .resp (.rswap ty d a b off) [0] } := by
  have hchecks : s.checks [atomOpnd s.cur ty a off] none = .ok [[({ off := off.toInt, size := atomWidth ty }, gaSpad t o)]] := by
    rw [atomOpnd, off16_eq_toInt]
    exact h.checks (atomWidth_dvd ty) rfl
  obtain ⟨u, hexec, hasked, hcur⟩ := blocking_asks (fin := atomFin s.pkg ty d a off) (opnd := (s.cur.rd b).low) (i := .rswap ty d a b off)
    (ask := fun _ => { op := .atomicr, size := atomWidth ty, fn := .swap, aty := ty, opnd := (s.cur.rd b).low.toNat,
                       opndMark := (s.cur.rd b).mark, cmp := ({} : GReg).low.toNat, cmpMark := ({} : GReg).mark })
    (need := (true, true)) (n := 1) hchecks h.tile_lt h.lt_atom hother rfl rfl
  exact ⟨u, _, (synchronising_of_clear hafp _).trans hexec, hasked, rfl, rfl, rfl, rfl, mark_eq_markOf _, hcur⟩

theorem ldc_far {off : BitVec 19} (hafp : s.cur.afp = false) (h : Reaches s a permFE t o 8 off.toInt) (hother : t ≠ s.curTile) :
    ∃ u f, exec (.ldc d a off) s = .next u ∧ asked s u t o f ∧ f.op = .ldc ∧
      u.cur = { s.cur with run := .reissue, wait := .resp (.ldc d a off) [0] } := by
  have hk : o < 2 ^ 19 := h.lt_word
  have hown : s.ownGa (gaSpad t o) = false := by rw [ownGa_gaSpad h.tile_lt hk, decide_eq_false hother]
  have hchecks : s.checks [feOpnd s.cur a off] none = .ok [[({ off := off.toInt, size := 8 }, gaSpad t o)]] := by
    rw [feOpnd, off19_eq_toInt]
    exact h.checks (by decide) rfl
  obtain ⟨u, hexec, hasked, hcur⟩ := blocking_asks (fin := ldcFin s.pkg d a off) (opnd := 0) (i := .ldc d a off)
    (ask := fun _ => { op := .ldc, size := 8 }) (need := (false, false)) (n := 1) hchecks h.tile_lt hk hother rfl rfl
  refine ⟨u, _, ?_, hasked, rfl, hcur⟩
  change execLdc d a off s = _
  rw [execLdc, State.feAccess, synchronising_of_clear hafp]
  dsimp only
  rw [hchecks]
  simp only [hown, Bool.false_and, Bool.false_eq_true, if_false]
  exact hexec

/-- The address of the thread that a word names locally. -/
theorem localise_threadWord {v : Word} (hlocal : v.getLsbD 63 = true) (p : Nat) : localise p v.toNat = 2 ^ 63 + v.toNat % 2 ^ 46 := by
  rw [localise_eq, show gaLocal v.toNat = true from (bit_toNat v 63).trans hlocal]
  rfl

theorem homeOf_localWord {v p row : Nat} (hspace : gaSpace v = 0) : homeOf p row (2 ^ 63 + v % 2 ^ 46) = (.tile (gaTile v), none) := by
  have hlocal : gaLocal (2 ^ 63 + v % 2 ^ 46) = true := by
    simp only [gaLocal, bit, beq_iff_eq]
    omega
  have hspace' : gaSpace (2 ^ 63 + v % 2 ^ 46) = 0 := by
    simp only [gaSpace, bits] at hspace ⊢
    omega
  have htile : gaTile (2 ^ 63 + v % 2 ^ 46) = gaTile v := by
    simp only [gaTile, bits]
    omega
  rw [homeOf, hlocal, hspace', htile]
  rfl

theorem wake_far (hclean : (s.cur.rd b).tag ≠ .poison) (hlocal : (s.cur.rd b).low.getLsbD 63 = true)
    (hspace : gaSpace (s.cur.rd b).low.toNat = 0) (hthread : bits (s.cur.rd b).low.toNat 18 3 = 0)
    (htile : gaTile (s.cur.rd b).low.toNat = t) (hother : t ≠ s.curTile) (hroom : s.retryRoom s.curTile 1 = true) :
    ∃ u f, exec (.wake b) s = .next u ∧ asked s u t ((s.cur.rd b).low.toNat % 8) f ∧ f.op = .wake ∧
      f.thr = (s.cur.rd b).low.toNat % 8 ∧ f.sup = s.cur.priv ∧ u.cur = (atRetire s s.cur).cur := by
  have hhome := homeOf_localWord (p := s.pkg) (row := tileY s.curTile) hspace
  rw [htile] at hhome
  have hga : (2 ^ 63 + (s.cur.rd b).low.toNat % 2 ^ 46) % 2 ^ 19 = (s.cur.rd b).low.toNat % 8 := by
    simp only [bits] at hthread
    omega
  have hpoison : (s.cur.rd b).isPoison = false := by
    rw [GReg.isPoison]
    simpa using hclean
  change ∃ u f, execWake b s = .next u ∧ _
  unfold execWake
  dsimp only
  rw [localise_threadWord hlocal]
  generalize 2 ^ 63 + (s.cur.rd b).low.toNat % 2 ^ 46 = ga at hhome hga
  have hown : s.ownGa ga = false := by simp [State.ownGa, hhome, hother]
  have hpost := post_to_tile (f := { op := .wake, thr := (s.cur.rd b).low.toNat % 8, sup := s.cur.priv }) hhome rfl rfl (.posted s.curThr)
    s.cur.pc s.curHead (s.cur.rd b).low
  simp only [hpoison, hspace, hthread, hown, hroom, hpost, Bool.false_eq_true, if_false, ne_eq, not_true_eq_false, or_self, Bool.not_true]
  refine ⟨_, _, rfl, asked_posting s hga _ _ _, rfl, rfl, rfl, ?_⟩
  rw [setCur_cur, cur_posting]
  exact (retire_eq rfl rfl).trans (atRetire_cur s s.cur).symm

end

/-- Settles O44: each is one message to the tile that holds the word, posted or asked for. -/
theorem remoteAccesses : Obligations.RemoteAccesses := by
  intro s d a b t o hserved hroom
  refine ⟨fun z sz m hnames hfar => ld_far (reaches_of_far hnames hfar) hfar.1,
    fun sz m hnames hfar => st_far (reaches_of_far hnames hfar) hfar.1 hroom,
    fun ty off hnames hfar => radd_far (reaches_of_far hnames hfar) hfar.1 hroom,
    fun ty off hafp hnames hfar => rswap_far hafp (reaches_of_far hnames hfar) hfar.1,
    fun off hafp hnames hfar => ldc_far hafp (reaches_of_far hnames hfar) hfar.1,
    fun hclean hlocal hspace hthread htile hother => wake_far hclean hlocal ?_ ?_ ?_ hother hroom⟩
  · exact (bits_toNat _ 45 44).trans (congrArg BitVec.toNat hspace)
  · exact (bits_toNat _ 18 3).trans (congrArg BitVec.toNat hthread)
  · exact (bits_toNat _ 43 32).trans htile

end Sys2Proof.Machine

namespace Sys2Proof.Machine
open Sys2Proof.Claims

/-! ## What a change of FE, a SCRUB and an atomic leave of the turn (R170-R175, R308) -/

theorem sameTurn_fe (s : State) (a : Nat) (b : Bool) : SameTurn s (s.setFe a b) := .of_tiles rfl rfl rfl rfl

theorem SameTurn.cleanWords {s v : State} (hv : SameTurn s v) (a n : Nat) : SameTurn s (v.cleanWords a n) := by
  induction n generalizing v a with
  | zero => exact hv
  | succ n ih =>
    rw [cleanWords_succ]
    exact ih ((((hv.trans (sameTurn_errors v _ _)).setPoisoned a false).setTagAt a false).setBytes a _) _

section
variable {s v : State} (hw : s.cur.wait = .none) (hv : SameTurn s v)
include hw hv

theorem SameTurn.wakeFe (t a h : Nat) : SameTurn s (v.wakeFe t a h) := by
  unfold State.wakeFe
  split
  · next hwaits =>
    refine hv.trans (.of_unseen (Unseen.setThr .refl (fun hself => ?_) _))
    obtain ⟨rfl, rfl⟩ := hself
    have hidle : (v.thr v.curTile v.curThr).wait = .none := hv.wait hw
    rw [hidle] at hwaits
    cases hwaits
  · exact hv

theorem SameTurn.feStep (t a n : Nat) : SameTurn s (v.feStep t a n) := by
  induction n generalizing v with
  | zero => exact hv
  | succ n ih =>
    unfold State.feStep
    dsimp only
    split
    · exact hv
    · next f rest _ =>
      have hlist : SameTurn s (v.updTile t fun x => { x with monitors := rest }) := hv.trans (.of_unseen (Unseen.updTile .refl t rfl))
      split
      · exact ih (((hlist.look hw _).trans (sameTurn_fe _ _ _)).trans (.of_unseen (Unseen.answer .refl _ f _)) |>.touch hw _)
      · exact ih (((hlist.put 0 _ 8 _ _).trans (sameTurn_fe _ _ _)).trans (.of_unseen (Unseen.answer .refl _ f _)) |>.touch hw _)

theorem SameTurn.feTo (a : Nat) (b : Bool) : SameTurn s (v.feTo a b) := by
  unfold State.feTo
  split
  · exact hv
  · dsimp only
    have hstep := (hv.trans (sameTurn_fe v a b)).feStep hw (spadTile a) a 65
    generalize (v.setFe a b).feStep (spadTile a) a 65 = u at hstep
    generalize List.range 8 = l
    induction l generalizing u with
    | nil => exact hstep
    | cons h l ih => exact ih _ (hstep.wakeFe hw _ _ h)

theorem SameTurn.fillWords (a n : Nat) : SameTurn s (v.fillWords a n) := by
  induction n generalizing v a with
  | zero => exact hv
  | succ n ih => exact ih ((hv.touch hw a).feTo hw a true) _

theorem SameTurn.scrub (key a : Nat) : SameTurn s (v.scrub key a) := by
  have hclean := hv.cleanWords a 8
  unfold State.scrub
  dsimp only
  split
  · exact hclean.fillWords hw a 8
  · exact hclean.trans (sameTurn_keyOf _ _)

theorem SameTurn.atomic (key a : Nat) (fn : AtomFn) (ty : AtomTy) (y ym z zm : Nat) : SameTurn s (v.atomic key a fn ty y ym z zm).2 := by
  have hlook := hv.look hw a
  unfold State.atomic
  dsimp only
  split
  · split
    · exact hlook.store hw key a _ 0 _
    · exact hlook
  split
  · exact hlook
  split
  · exact hlook
  split
  · exact hlook.store hw key a _ 0 _
  · exact hlook.store hw key a _ _ 0

end

/-! ## What these operations come to at their home (R168-R175, R308, R309) -/

section
variable (s : State) (a : Nat) {f : Flit}

theorem performFlit_put (hf : f.op = .put) :
    s.performFlit 0 a f = ({ sig := firstMark f.psn }, s.store 0 a f.size (leNat f.data) (firstMark f.psn)) := by
  unfold State.performFlit
  rw [hf]

theorem performFlit_putv (hf : f.op = .putv) :
    s.performFlit 0 a f = ({ sig := firstMark f.psn }, s.together fun s =>
      ((s.putWords 0 a f.data f.bmask f.psn 8).touchMasked a f.bmask 8).touchPairs s a f.bmask 8) := by
  unfold State.performFlit
  rw [hf]

/-- What an atomic gives its issuer and its flag. -/
def atomDone (r : AtomAnswer) : Done := { words := [(r.old, r.mark)], sig := r.sig, carried := r.carried }

theorem performFlit_atomic (hf : f.op = .atomic ∨ f.op = .atomicr) :
    s.performFlit 0 a f = (atomDone (s.atomic 0 a f.fn f.aty f.opnd f.opndMark f.cmp f.cmpMark).1,
      (s.atomic 0 a f.fn f.aty f.opnd f.opndMark f.cmp f.cmpMark).2) := by
  unfold State.performFlit
  obtain hf | hf := hf <;> rw [hf] <;> rfl

theorem performFlit_ldc (hf : f.op = .ldc) :
    s.performFlit 0 a f = ({ words := [(s.look a).readAt 0 a 8] }, (s.look a).feTo a false) := by
  unfold State.performFlit
  rw [hf]

theorem performFlit_stp (hf : f.op = .stp) : s.performFlit 0 a f = ({}, ((s.put 0 a 8 f.opnd f.opndMark).feTo a true).touch a) := by
  unfold State.performFlit
  rw [hf]

theorem performFlit_feset (hf : f.op = .feset) : s.performFlit 0 a f = ({}, s.feTo a (f.opnd == 1)) := by
  unfold State.performFlit
  rw [hf]

theorem performFlit_scrub (hf : f.op = .scrub) : s.performFlit 0 a f = ({}, s.together fun s => s.scrub 0 a) := by
  unfold State.performFlit
  rw [hf]

theorem performFlit_poison (hf : f.op = .poison) : s.performFlit 0 a f = ({}, s.store 0 a 8 0 9) := by
  unfold State.performFlit
  rw [hf]

end

/-! ## Checks of an operand and a flag together (R156, R168) -/

/-- The checks pass: each of them finds nothing amiss, and the targets are what the operands name. -/
theorem checks_eq_ok {s : State} {ops : List Opnd} {rs : List (List (Elem × Nat))} :
    s.checks ops none = .ok rs ↔
      tagFault ops = none ∧ (ops.find? fun o => !o.reg.grants o.need) = none ∧ (!s.cur.priv && ops.any (fun o => o.reg.kind == .mmio)) = false ∧
        (ops.find? fun o => !o.spaceOk s.pkg) = none ∧
        ∃ ts, targetsAll s.pkg ops = .ok ts ∧ misaligned ops ts = none ∧ (ts.map fun r => r.map fun x => (x.1, x.2.1 - x.1.back)) = rs := by
  unfold State.checks
  constructor
  · intro h
    split at h
    · cases h
    next htag =>
    dsimp only at h
    split at h
    · cases h
    next hgrants =>
    split at h
    · cases h
    next hpriv =>
    split at h
    · cases h
    next hspace =>
    split at h
    · cases h
    next ts hts =>
    split at h
    · cases h
    next halign =>
    exact ⟨htag, hgrants, Bool.eq_false_iff.mpr hpriv, hspace, ts, hts, halign, Except.ok.inj h⟩
  · rintro ⟨htag, hgrants, hpriv, hspace, ts, hts, halign, rfl⟩
    simp only [htag, hgrants, hpriv, hspace, hts, halign, Bool.false_eq_true, if_false]

section
variable {s : State} {o fo : Opnd} {tg : List (Elem × Nat)}

/-- A flag operand of the own tile adds its target to what the checks of another operand find. -/
theorem checks_with_onTile (hone : s.checks [o] none = .ok [tg]) (hflag : OnTile s fo) :
    s.checks [o, fo] none = .ok [tg, fo.elems.map fun e => (e, fo.gaOf s.pkg e - e.back)] := by
  have hfo := checks_of_onTile (ops := [fo]) fun x hx => by rwa [List.mem_singleton.mp hx]
  obtain ⟨htag, hgrants, hpriv, hspace, ts, hts, halign, hrs⟩ := checks_eq_ok.mp hone
  obtain ⟨htag', hgrants', hpriv', hspace', ts', hts', halign', hrs'⟩ := checks_eq_ok.mp hfo
  obtain ⟨t1, rfl, rfl⟩ := List.map_eq_singleton_iff.mp hrs
  obtain ⟨t2, rfl, ht2⟩ := List.map_eq_singleton_iff.mp hrs'
  have halign1 : (t1.find? fun x => x.2.2) = none := by
    cases h : t1.find? fun x => x.2.2 with
    | none => rfl
    | some x => simp [misaligned, h] at halign
  have hts1 : o.targets s.pkg o.elems = .ok t1 := by
    cases h : o.targets s.pkg o.elems with
    | error x => simp [targetsAll, h] at hts
    | ok r => simpa [targetsAll, h] using hts
  refine checks_eq_ok.mpr ⟨?_, ?_, ?_, ?_, [t1, t2], ?_, ?_, ?_⟩
  · simp only [tagFault] at htag htag' ⊢
    split at htag
    · cases htag
    split at htag
    · cases htag
    simp_all
  · simp only [List.find?_eq_none, forall_eq, List.mem_cons, List.not_mem_nil, or_false, forall_eq_or_imp] at hgrants hgrants' ⊢
    exact ⟨hgrants, hgrants'⟩
  · rw [Bool.and_eq_false_iff] at hpriv hpriv' ⊢
    simp only [List.any_cons, List.any_nil, Bool.or_false, Bool.or_eq_false_iff] at hpriv hpriv' ⊢
    tauto
  · simp only [List.find?_eq_none, forall_eq, List.mem_cons, List.not_mem_nil, or_false, forall_eq_or_imp] at hspace hspace' ⊢
    exact ⟨hspace, hspace'⟩
  · simp only [targetsAll, hts1]
    simp only [targetsAll] at hts'
    split at hts'
    · cases hts'
    · simp_all
  · simp only [misaligned, halign1]
    exact halign'
  · simp [ht2]

end

/-! ## A posted operation at the own tile and the flag it names (R157, R168) -/

section
variable {s u : State} {o : Opnd} {e : Elem} {k : Nat} {c : GIx} {msg : Nat → Flit} {dn : Done}
  (hchecks : s.checks [o] none = .ok [[(e, gaSpad s.curTile k)]]) (ht : s.curTile < 4096) (hk : k < 2 ^ 19) (hfree : free s [k])
  (hperform : s.performFlit 0 (spad s.curTile k) (msg e.idx) = (dn, u)) (hsame : SameTurn s u)
include hchecks ht hk hfree hperform hsame

theorem posted_signals {f : Nat} (hflag : Reaches s c permFL s.curTile f 8 0) {opnd : Word} {fin : Thread → Thread} :
    s.posted o (some (addrOpnd s.cur c permFL flagSpaces 8 0)) none opnd msg fin =
      .next ((u.signalAt (spad s.curTile f) 1 (dn.sig - 1) s.curTile).setCur (fin s.cur)) := by
  obtain ⟨hon, hga⟩ := hflag.onTile (sp := flagSpaces) (by decide) rfl
  have hall : s.checks [o, addrOpnd s.cur c permFL flagSpaces 8 0] none =
      .ok [[(e, gaSpad s.curTile k)], [({ off := 0, size := 8 }, gaSpad s.curTile f)]] := by
    rw [checks_with_onTile hchecks hon]
    show Except.ok [_, [(_, (addrOpnd s.cur c permFL flagSpaces 8 0).gaOf s.pkg { off := 0, size := 8 } - 0)]] = _
    rw [hga]
    rfl
  have hownk : s.ownGa (gaSpad s.curTile k) = true := by rw [ownGa_gaSpad ht hk, decide_eq_true rfl]
  have hownf : s.ownGa (gaSpad s.curTile f) = true := by rw [ownGa_gaSpad ht hflag.lt_word, decide_eq_true rfl]
  have hsignal : SameTurn s (u.signalAt (spad s.curTile f) 1 (dn.sig - 1) s.curTile) := SameTurn.signalAt (wait_of_free hfree) hsame _ _ _ _
  have hstays : (u.signalAt (spad s.curTile f) 1 (dn.sig - 1) s.curTile).ownGa (gaSpad s.curTile k) = true := by
    rw [ownGa_gaSpad ht hk, hsignal.curTile, decide_eq_true rfl]
  have hflagOwn : u.flagOwn (gaSpad s.curTile f) 1 dn = u.signalAt (spad s.curTile f) 1 (dn.sig - 1) s.curTile :=
    flagOwn_gaSpad hsame.curTile ht hflag.lt_word
  unfold State.posted
  rw [Option.toList_some, hall]
  simp [hownk, hownf, hbmGa_gaSpad ht hk s, served_of_free hfree, gaOff_gaSpad _ hk, refusing_of_free hfree, hperform, hflagOwn, hstays,
    hsignal.cur, State.performStores, State.sendStores]

theorem posted_flagReady (hflag : flagReady s c) {opnd : Word} {fin : Thread → Thread} :
    ∃ s2, signalsFlag s c dn.sig u s2 ∧ SameTurn s s2 ∧
      s.posted o (flagOpnd s.cur c) none opnd msg fin = .next (s2.setCur (fin s.cur)) := by
  by_cases hc : c = 0
  · subst hc
    exact ⟨u, ⟨fun _ => rfl, fun hne => absurd rfl hne⟩, hsame,
      posted_single hchecks ht hk hfree (congrArg Prod.snd hperform) hsame⟩
  · obtain ⟨f, hnames, hown⟩ := hflag.resolve_left hc
    refine ⟨_, ⟨fun h => absurd h hc, fun _ => ⟨f, hnames, hown, rfl⟩⟩, SameTurn.signalAt (wait_of_free hfree) hsame _ _ _ _, ?_⟩
    rw [flagOpnd_of_ne hc]
    exact posted_signals hchecks ht hk hfree hperform hsame (reaches_of_own hnames hown)

end

/-! ## PUTF, PUTVF and the posted atomics (R168, R170) -/

/-- A put of the low n bytes of a register. -/
def regPutFlit (n : Nat) (v : GReg) : Flit := { op := .put, size := n, data := dataOf n v.low.toNat, psn := [v.mark] }

theorem performFlit_regPutFlit (s : State) (p n : Nat) (v : GReg) :
    s.performFlit 0 p (regPutFlit n v) = ({ sig := markOf v }, s.store 0 p n v.low.toNat (markOf v)) := by
  rw [performFlit_put s p rfl]
  simp only [regPutFlit, dataOf, store_leNat, (firstMark_replicate _).1, mark_eq_markOf]

/-- The messages of an atomic of the register y, and of a returning one with the register z. -/
def postedAtom (fn : AtomFn) (ty : AtomTy) (y : GReg) : Flit :=
  { op := .atomic, size := atomWidth ty, fn := fn, aty := ty, opnd := y.low.toNat, opndMark := y.mark }

def returningAtom (fn : AtomFn) (ty : AtomTy) (y z : GReg) : Flit :=
  { op := .atomicr, size := atomWidth ty, fn := fn, aty := ty, opnd := y.low.toNat, opndMark := y.mark, cmp := z.low.toNat, cmpMark := z.mark }

theorem performFlit_postedAtom (s : State) (p : Nat) (fn : AtomFn) (ty : AtomTy) (y : GReg) :
    s.performFlit 0 p (postedAtom fn ty y) = (atomDone (s.atomic 0 p fn ty y.low.toNat (markOf y) 0 0).1,
      (s.atomic 0 p fn ty y.low.toNat (markOf y) 0 0).2) := by
  rw [performFlit_atomic s p (.inl rfl), ← mark_eq_markOf]
  rfl

theorem performFlit_returningAtom (s : State) (p : Nat) (fn : AtomFn) (ty : AtomTy) (y z : GReg) :
    s.performFlit 0 p (returningAtom fn ty y z) = (atomDone (s.atomic 0 p fn ty y.low.toNat (markOf y) z.low.toNat (markOf z)).1,
      (s.atomic 0 p fn ty y.low.toNat (markOf y) z.low.toNat (markOf z)).2) := by
  rw [performFlit_atomic s p (.inr rfl), ← mark_eq_markOf, ← mark_eq_markOf]
  rfl

section
variable {s : State} {a c : GIx} {o : Nat}

theorem putf_own {sz : Fin 4} {d : GIx} {m : BitVec 20} (h : Reaches s a permST s.curTile o (2 ^ sz.val) (dispM m)) (hfree : free s [o])
    (hflag : flagReady s c) :
    ∃ s2, signalsFlag s c (markOf ((incM s a m).rd d)) (s.store 0 (spad s.curTile o) (2 ^ sz.val) ((incM s a m).rd d).low.toNat
        (markOf ((incM s a m).rd d))) s2 ∧ exec (.putf sz d a c m) s = .next (retireIn s2 s (incM s a m)) := by
  generalize hv : (incM s a m).rd d = v
  have hstore : SameTurn s (s.store 0 (spad s.curTile o) (2 ^ sz.val) v.low.toNat (markOf v)) :=
    SameTurn.store (wait_of_free hfree) .refl _ _ _ _ _
  obtain ⟨s2, hsignals, hsame, hposted⟩ := posted_flagReady (msg := fun _ => regPutFlit (2 ^ sz.val) v)
    (fin := fun th => (th.postInc a m).retire) (opnd := v.low)
    (h.checks (size_dvd sz) (sp := scratchHbm) rfl) h.tile_lt h.lt hfree (performFlit_regPutFlit s _ _ v) hstore hflag
  refine ⟨s2, hsignals, ?_⟩
  change execPutf sz d a c m s = _
  rw [execPutf, mOff_eq_dispM, postInc_eq_incM, hv]
  exact hposted.trans (congrArg Host.Outcome.next (setCur_retire_incM hsame a m))

theorem putvf_own {d : VIx} {k : KIx} {m : BitVec 20} (hnames : names s a (dispM m) o) (hrow : ownRow s a k permST o) (hfree : free s [o])
    (hlane : someLane s k) (hflag : flagReady s c) :
    ∃ s2, signalsFlag s c (rowSig s d k) (rowStored s d k (spad s.curTile o)) s2 ∧
      exec (.putvf d a k c m) s = .next (retireIn s2 s (incM s a m)) := by
  obtain ⟨e, -, hchecks⟩ := checks_row hnames hrow hlane
  obtain ⟨-, htile, -, -, -, htop, -⟩ := hrow
  have hperform : s.performFlit 0 (spad s.curTile o) (rowFlit .putv s.cur d k) =
      ({ sig := rowSig s d k }, rowStored s d k (spad s.curTile o)) := by
    have hmask : (rowFlit .putv s.cur d k).bmask = byteMask s k := laneMask_lanes s k
    rw [performFlit_putv s _ rfl, hmask, rowFlit_psn]
    exact congrArg (Prod.mk _) (together_congr s rfl rfl)
  obtain ⟨s2, hsignals, hsame, hposted⟩ := posted_flagReady (msg := fun _ => rowFlit .putv s.cur d k)
    (fin := fun th => (th.postInc a m).retire) (opnd := 0) hchecks (tile_lt_of_namesTile htile) (by omega) hfree hperform
    (sameTurn_rowStored s d k (wait_of_free hfree) _) hflag
  refine ⟨s2, hsignals, ?_⟩
  change execPutvf d a k c m s = _
  rw [execPutvf]
  exact hposted.trans (congrArg Host.Outcome.next (setCur_retire_incM hsame a m))

theorem postedAtomic_own {fn : AtomFn} {ty : AtomTy} {b : GIx} {off : BitVec 16} (h : Reaches s a permAT s.curTile o (atomWidth ty) off.toInt)
    (hfree : free s [o]) (hflag : flagReady s c) {r : AtomAnswer × State}
    (hr : s.atomic 0 (spad s.curTile o) fn ty (s.cur.rd b).low.toNat (markOf (s.cur.rd b)) 0 0 = r) :
    ∃ s2, signalsFlag s c r.1.sig r.2 s2 ∧ s.postedAtomic fn ty a b c off = .next (retireIn s2 s s.cur) := by
  have hperform := performFlit_postedAtom s (spad s.curTile o) fn ty (s.cur.rd b)
  have hatomic := SameTurn.atomic (wait_of_free hfree) .refl 0 (spad s.curTile o) fn ty (s.cur.rd b).low.toNat (markOf (s.cur.rd b)) 0 0
  rw [hr] at hperform hatomic
  obtain ⟨s2, hsignals, hsame, hposted⟩ := posted_flagReady (msg := fun _ => postedAtom fn ty (s.cur.rd b)) (fin := Thread.retire)
    (opnd := (s.cur.rd b).low) (h.checks (atomWidth_dvd ty) (sp := scratchHbm) rfl) h.tile_lt h.lt_atom hfree hperform hatomic hflag
  refine ⟨s2, hsignals, ?_⟩
  rw [State.postedAtomic, off16_eq_toInt]
  exact hposted.trans (congrArg Host.Outcome.next (setCur_retire hsame rfl rfl))

end

theorem putsAndPostedAtomicsAtOwnTile : PutsAndPostedAtomicsAtOwnTile := by
  intro s a c k o hfree hflag
  refine ⟨fun sz d m hnames hown => putf_own (reaches_of_own hnames hown) hfree hflag,
    fun d m hnames hrow hlane => putvf_own hnames hrow hfree hlane hflag, fun i fn ty b off hi hnames hown => ?_⟩
  intro r
  have hatomic := postedAtomic_own (b := b) (reaches_of_own hnames hown) hfree hflag (r := r) rfl
  obtain ⟨rfl, rfl⟩ | ⟨rfl, rfl⟩ | ⟨rfl, rfl⟩ | ⟨rfl, rfl⟩ | ⟨rfl, rfl⟩ | ⟨rfl, rfl⟩ := hi <;> exact hatomic

/-! ## Returning atomics (R171, R172) -/

/-- The old value that a returning atomic gives gD (R171). -/
def oldWord (ty : AtomTy) (x : Nat) : Word :=
  match ty with
  | .i32 => .ofInt 64 ((BitVec.ofNat 32 x).toInt)
  | .i64 => .ofNat 64 x
  | _ => .ofNat 64 (x % 2 ^ 32)

theorem ofNat_atomOld (ty : AtomTy) (x : Nat) : BitVec.ofNat 64 (atomOld ty x) = oldWord ty x := by
  cases ty with
  | i32 => exact (ofNat_wrapInt _).trans (congrArg _ (sgn_eq_toInt 32 x))
  | i64 => exact BitVec.eq_of_toNat_eq (by simp [atomOld, oldWord])
  | n32 => rfl
  | f32 => rfl
  | bf16x2 => rfl

theorem markedReg_atomOld (ty : AtomTy) (x m ga : Nat) :
    markedReg (atomOld ty x) m ga =
      if m = 0 then dataReg (oldWord ty x)
      else { tag := .poison, body := BitVec.ofNat 64 (if 256 < m then ga else ga / 8 * 8) ++ BitVec.ofNat 64 ((m - 1) % 256) } := by
  rw [markedReg, ofNat_atomOld, poisonVal, Nat.mod_mod]

section
variable {s : State} {d a b : GIx} {ty : AtomTy} {off : BitVec 16} {o : Nat}

theorem returning_pending (hafp : s.cur.afp = true) (i : Instr) (fn : AtomFn) (z : GReg) :
    s.returning i fn ty d a b z off = (s.setCur { s.cur with afp := false }).trap 0x0E (asyncEval s.curT) := by
  rw [State.returning, State.synchronising, hafp, if_pos rfl]
  rfl

theorem returning_own (hafp : s.cur.afp = false) (h : Reaches s a (permLD + permST + permAT) s.curTile o (atomWidth ty) off.toInt)
    (hfree : free s [o]) (i : Instr) {fn : AtomFn} {z : GReg} {r : AtomAnswer × State}
    (hr : s.atomic 0 (spad s.curTile o) fn ty (s.cur.rd b).low.toNat (markOf (s.cur.rd b)) z.low.toNat (markOf z) = r) :
    s.returning i fn ty d a b z off =
      .next (retireIn r.2 s (s.cur.wr d (markedReg (atomOld ty r.1.old) r.1.mark (gaSpad s.curTile o)))) := by
  have hperform := performFlit_returningAtom s (spad s.curTile o) fn ty (s.cur.rd b) z
  have hatomic := SameTurn.atomic (wait_of_free hfree) .refl 0 (spad s.curTile o) fn ty (s.cur.rd b).low.toNat (markOf (s.cur.rd b))
    z.low.toNat (markOf z)
  rw [hr] at hperform hatomic
  have hpos : 0 < atomWidth ty := Nat.pos_of_dvd_of_pos (atomWidth_dvd ty) (by norm_num)
  have hblocking := blocking_single (ask := fun _ => returningAtom fn ty (s.cur.rd b) z) (i := i) (need := (true, true)) (n := 1)
    (opnd := (s.cur.rd b).low) (fin := atomFin s.pkg ty d a off) (h.checks (atomWidth_dvd ty) (sp := scratchHbm) rfl) h.tile_lt h.lt_atom hfree
    hperform hatomic
  rw [State.returning, synchronising_of_clear hafp, atomOpnd, off16_eq_toInt]
  refine hblocking.trans (congrArg Host.Outcome.next ?_)
  generalize hl : entries _ _ = l
  have hga : (atomOpnd (s.servedWith l) ty a off).ga s.pkg = gaSpad s.curTile o := by
    rw [atomOpnd, off16_eq_toInt]
    exact h.ga hpos
  rw [atomFin, hga, got_servedWith, ← hl, State.servedWith, wr_served]
  exact setCur_retire_served hatomic (wr_succ _ _ _) (Thread.wr_retired _ _ _) _

end

theorem returningAtomicsAtOwnTile : ReturningAtomicsAtOwnTile := by
  intro s d a b c ty off o i fn z hi
  have hexec : exec i s = s.returning i fn ty d a b z off := by
    obtain ⟨rfl, rfl, rfl⟩ | ⟨rfl, rfl, rfl⟩ | ⟨rfl, rfl, rfl⟩ := hi <;> rfl
  rw [hexec]
  refine ⟨fun hafp => returning_pending hafp i fn z, fun hafp hnames hown hfree => ?_⟩
  generalize hr : s.atomic 0 (spad s.curTile o) fn ty (s.cur.rd b).low.toNat (markOf (s.cur.rd b)) z.low.toNat (markOf z) = r
  dsimp only
  rw [returning_own hafp (reaches_of_own hnames hown) hfree i hr, markedReg_atomOld]
  cases ty <;> rfl
end Sys2Proof.Machine

namespace Sys2Proof.Machine
open Sys2Proof.Claims

/-! ## LDC, STP, FESET, SCRUB and POISON at the own tile (R173-R175, R308, R309) -/

/-- What an LDC reads, as gD receives it. -/
theorem markedReg_loaded (s : State) (a ga : Nat) : markedReg (s.val a 8) (s.mark a) ga = loaded s true a 8 ga := by
  have hvalue := markedReg_ldValue s true 3 a ga
  have hword : 2 ^ (3 : Fin 4).val = 8 := rfl
  rwa [ldValue, if_pos rfl, hword, Nat.mod_eq_of_lt (val_lt s a 8)] at hvalue

section
variable {s : State} {d a : GIx} {off : BitVec 19} {o : Nat} (h : Reaches s a permFE s.curTile o 8 off.toInt)
include h

theorem checks_fe : s.checks [feOpnd s.cur a off] none = .ok [[({ off := off.toInt, size := 8 }, gaSpad s.curTile o)]] := by
  rw [feOpnd, off19_eq_toInt]
  exact h.checks (by norm_num) (sp := onlyScratch) rfl

section
variable (hafp : s.cur.afp = false) {i : Instr} {want : Bool} {opnd : Word} {ask : Flit} {fin : Thread → Thread}
include hafp

/-- FE allows the access: it is made. -/
theorem feAccess_allowed (hfe : s.fe (spad s.curTile o) = want) :
    s.feAccess i a off want opnd ask fin = s.blocking i (feOpnd s.cur a off) none (false, false) 1 opnd (fun _ => ask) fin := by
  have hne : (s.fe (spad s.curTile o) != want) = false := by rw [hfe, bne_self_eq_false]
  rw [State.feAccess, synchronising_of_clear hafp]
  dsimp only
  rw [checks_fe h]
  dsimp only
  rw [gaOff_gaSpad _ h.lt_word, hne, Bool.and_false, if_neg Bool.false_ne_true]

/-- FE does not allow the access: the thread waits for the word. -/
theorem feAccess_waits (hfe : s.fe (spad s.curTile o) ≠ want) :
    s.feAccess i a off want opnd ask fin = .next (s.setCur { s.cur with run := .reissue, wait := .fe o }) := by
  have hown : s.ownGa (gaSpad s.curTile o) = true := by rw [ownGa_gaSpad h.tile_lt h.lt_word, decide_eq_true rfl]
  have hne : (s.fe (spad s.curTile o) != want) = true := bne_iff_ne.mpr hfe
  have hword : o / 8 * 8 = o := by
    have := h.aligned
    omega
  rw [State.feAccess, synchronising_of_clear hafp]
  dsimp only
  rw [checks_fe h]
  dsimp only
  rw [gaOff_gaSpad _ h.lt_word, hown, hne, Bool.and_self, if_pos rfl, hword]
  rfl

end

variable (hfree : free s [o])
include hfree

theorem ldc_own (hafp : s.cur.afp = false) (hfull : s.fe (spad s.curTile o) = true) : exec (.ldc d a off) s =
    .next (retireIn ((s.look (spad s.curTile o)).feTo (spad s.curTile o) false) s
      (s.cur.wr d (loaded (s.look (spad s.curTile o)) true (spad s.curTile o) 8 (gaSpad s.curTile o)))) := by
  have hsame : SameTurn s ((s.look (spad s.curTile o)).feTo (spad s.curTile o) false) :=
    (SameTurn.look (wait_of_free hfree) .refl _).feTo (wait_of_free hfree) _ _
  change execLdc d a off s = _
  rw [execLdc, feAccess_allowed h hafp hfull, blocking_single (checks_fe h) h.tile_lt h.lt_word hfree
    (performFlit_ldc s _ (f := { op := .ldc, size := 8 }) rfl) hsame]
  refine congrArg Host.Outcome.next ?_
  generalize hl : entries _ _ = l
  have hga : (feOpnd (s.servedWith l) a off).ga s.pkg = gaSpad s.curTile o := by
    rw [feOpnd, off19_eq_toInt]
    exact h.ga (by norm_num)
  rw [ldcFin, hga, got_servedWith, ← hl, readAt_spad _ (isSpad_spad _ _), ← markedReg_loaded, State.servedWith, wr_served]
  exact setCur_retire_served hsame (wr_succ _ _ _) (Thread.wr_retired _ _ _) _

theorem stp_own (hafp : s.cur.afp = false) (hempty : s.fe (spad s.curTile o) = false) : exec (.stp d a off) s =
    .next (retireIn (((s.put 0 (spad s.curTile o) 8 (s.cur.rd d).low.toNat (markOf (s.cur.rd d))).feTo (spad s.curTile o) true).touch
      (spad s.curTile o)) s s.cur) := by
  have hwait := wait_of_free hfree
  have hsame : SameTurn s (((s.put 0 (spad s.curTile o) 8 (s.cur.rd d).low.toNat (markOf (s.cur.rd d))).feTo (spad s.curTile o) true).touch
      (spad s.curTile o)) := ((SameTurn.put .refl 0 _ 8 _ _).feTo hwait _ _).touch hwait _
  rw [← mark_eq_markOf] at hsame ⊢
  change execStp d a off s = _
  rw [execStp, feAccess_allowed h hafp hempty, blocking_single (checks_fe h) h.tile_lt h.lt_word hfree
    (performFlit_stp s _ (f := { op := .stp, size := 8, opnd := (s.cur.rd d).low.toNat, opndMark := (s.cur.rd d).mark }) rfl) hsame]
  exact congrArg Host.Outcome.next (setCur_retire_served (t := s.cur) hsame rfl rfl _)

theorem feset_own (b : Bool) : exec (.feset b a off) s = .next (retireIn (s.feTo (spad s.curTile o) b) s s.cur) := by
  have hsame : SameTurn s (s.feTo (spad s.curTile o) b) := SameTurn.feTo (wait_of_free hfree) .refl _ b
  have hperform : (s.performFlit 0 (spad s.curTile o) { op := .feset, size := 8, opnd := boolNat b }).2 = s.feTo (spad s.curTile o) b := by
    rw [performFlit_feset s _ rfl]
    cases b <;> rfl
  change execFeset b a off s = _
  rw [execFeset, posted_single (checks_fe h) h.tile_lt h.lt_word hfree hperform hsame]
  exact congrArg Host.Outcome.next (setCur_retire hsame rfl rfl)

end

section
variable {s : State} {a : GIx} {off : BitVec 19} {o : Nat}

theorem scrub_own {p : Nat} (h : Reaches s a (permST + permFE) s.curTile o 64 off.toInt) (hfree : free s [o]) (hp : spad s.curTile o = p) :
    exec (.scrub a off) s = .next (retireIn (s.together fun s => s.scrub 0 p) s s.cur) := by
  have hwait := wait_of_free hfree
  have hsame : SameTurn s (s.together fun s => s.scrub 0 p) := SameTurn.together hwait .refl fun _ hu => hu.scrub hwait 0 p
  have hlt : o < 2 ^ 19 := by
    have := h.within
    omega
  have hperform := performFlit_scrub s p (f := { op := .scrub, size := 64 }) rfl
  rw [← hp] at hperform hsame ⊢
  change execScrub a off s = _
  rw [execScrub, off19_eq_toInt, blocking_single (h.checks (by norm_num) rfl) h.tile_lt hlt hfree hperform hsame]
  exact congrArg Host.Outcome.next (setCur_retire_served (t := s.cur) hsame rfl rfl _)

theorem poison_own (h : Reaches s a permST s.curTile o 8 off.toInt) (hfree : free s [o]) :
    exec (.poison a off) s = .next (retireIn (s.store 0 (spad s.curTile o) 8 0 9) s s.cur) := by
  have hsame : SameTurn s (s.store 0 (spad s.curTile o) 8 0 9) := SameTurn.store (wait_of_free hfree) .refl _ _ _ _ _
  change execPoison a off s = _
  rw [execPoison, off19_eq_toInt, posted_single (h.checks (by norm_num) rfl) h.tile_lt h.lt_word hfree
    (congrArg Prod.snd (performFlit_poison s _ rfl)) hsame]
  exact congrArg Host.Outcome.next (setCur_retire hsame rfl rfl)

end

theorem fullEmptyAtOwnTile : FullEmptyAtOwnTile := by
  intro s d a off o hnames hfree p
  refine ⟨fun hown hafp => ?_, fun b hown => ?_, fun hown => ?_, fun hown => ?_⟩
  · have h : Reaches s a permFE s.curTile o 8 off.toInt := reaches_of_own hnames hown
    exact ⟨fun hfull => ldc_own h hfree hafp hfull, fun hempty => feAccess_waits h hafp (by rw [hempty]; decide),
      fun hempty => stp_own h hfree hafp hempty, fun hfull => feAccess_waits h hafp (by rw [hfull]; decide)⟩
  · exact feset_own (reaches_of_own hnames hown) hfree b
  · exact scrub_own (reaches_of_own hnames hown) hfree rfl
  · exact poison_own (reaches_of_own hnames hown) hfree

/-- Settles O28: each instruction passes its checks with one target in the own tile, is performed there as its home performs it, and
retires; LDC and STP first test FE, and a put or a posted atomic then signals the flag it names. -/
theorem ownTileAtomics : Obligations.OwnTileAtomics :=
  ⟨putsAndPostedAtomicsAtOwnTile, returningAtomicsAtOwnTile, fullEmptyAtOwnTile⟩

end Sys2Proof.Machine

namespace Sys2Proof.Machine
open Sys2Proof.Claims

/-! ## What operations on memory see of tiles and routers: nothing (R36, R157) -/

/-- A state with other tiles, routers and kept monitors. -/
def State.under (s : State) (ts : SMap Tile) (rs : SMap Router) (l : Option (List (Nat × Nat × WaitMon × Option Nat))) : State :=
  { s with tiles := ts, routers := rs, batch := l }

section
variable (s : State) (ts : SMap Tile) (rs : SMap Router) (l : Option (List (Nat × Nat × WaitMon × Option Nat)))

@[simp] theorem under_byte (a : Nat) : (s.under ts rs l).byte a = s.byte a := rfl
@[simp] theorem under_poisoned (a : Nat) : (s.under ts rs l).poisoned a = s.poisoned a := rfl
@[simp] theorem under_tagAt (a : Nat) : (s.under ts rs l).tagAt a = s.tagAt a := rfl
@[simp] theorem under_fe (a : Nat) : (s.under ts rs l).fe a = s.fe a := rfl
@[simp] theorem under_mark (a : Nat) : (s.under ts rs l).mark a = s.mark a := rfl
@[simp] theorem under_errUnc : (s.under ts rs l).errUnc = s.errUnc := rfl
@[simp] theorem under_errOne : (s.under ts rs l).errOne = s.errOne := rfl
@[simp] theorem under_errTag : (s.under ts rs l).errTag = s.errTag := rfl
@[simp] theorem under_keyOf : (s.under ts rs l).keyOf = s.keyOf := rfl
@[simp] theorem under_keys : (s.under ts rs l).keys = s.keys := rfl
@[simp] theorem under_keysOf (n : Nat) : (s.under ts rs l).keysOf n = s.keysOf n := rfl
@[simp] theorem under_slotLoad (n : Nat) : (s.under ts rs l).slotLoad n = s.slotLoad n := rfl
@[simp] theorem under_die (d : Nat) : (s.under ts rs l).die d = s.die d := rfl
@[simp] theorem under_ctxOf (c : Nat) : (s.under ts rs l).ctxOf c = s.ctxOf c := rfl
@[simp] theorem under_cluster (c : Nat) : (s.under ts rs l).cluster c = s.cluster c := rfl
@[simp] theorem under_setCluster (c : Nat) (x : Cluster) : (s.under ts rs l).setCluster c x = (s.setCluster c x).under ts rs l := rfl
@[simp] theorem under_setByte (a : Nat) (b : Byte) : (s.under ts rs l).setByte a b = (s.setByte a b).under ts rs l := rfl
@[simp] theorem under_setPoisoned (a : Nat) (b : Bool) : (s.under ts rs l).setPoisoned a b = (s.setPoisoned a b).under ts rs l := rfl
@[simp] theorem under_setTagAt (a : Nat) (b : Bool) : (s.under ts rs l).setTagAt a b = (s.setTagAt a b).under ts rs l := rfl
@[simp] theorem under_setFe (a : Nat) (b : Bool) : (s.under ts rs l).setFe a b = (s.setFe a b).under ts rs l := rfl
@[simp] theorem under_forgetErr (a : Nat) : (s.under ts rs l).forgetErr a = (s.forgetErr a).under ts rs l := rfl

@[simp] theorem under_bytes (a n : Nat) : (s.under ts rs l).bytes a n = s.bytes a n := by
  induction n generalizing a with
  | zero => rfl
  | succ n ih => simp only [State.bytes, under_byte, ih]

@[simp] theorem under_val (a n : Nat) : (s.under ts rs l).val a n = s.val a n := by simp only [State.val, under_bytes]

@[simp] theorem under_keyedByte (key a : Nat) : (s.under ts rs l).keyedByte key a = s.keyedByte key a := by
  simp only [State.keyedByte, State.cipher, under_byte, under_keyOf, under_poisoned, under_keysOf, under_bytes]

@[simp] theorem under_keyedBytes (key a n : Nat) : (s.under ts rs l).keyedBytes key a n = s.keyedBytes key a n := by
  induction n generalizing a with
  | zero => rfl
  | succ n ih => simp only [State.keyedBytes, under_keyedByte, ih]

@[simp] theorem under_readAt (key a n : Nat) : (s.under ts rs l).readAt key a n = s.readAt key a n := by
  simp only [State.readAt, under_keyedBytes, under_mark]

@[simp] theorem under_setBytes (a : Nat) (bs : List Byte) : (s.under ts rs l).setBytes a bs = (s.setBytes a bs).under ts rs l := by
  induction bs generalizing s a with
  | nil => rfl
  | cons b bs ih => exact ih (s.setByte a b) (a + 1)

@[simp] theorem under_setVal (a n v : Nat) : (s.under ts rs l).setVal a n v = (s.setVal a n v).under ts rs l := under_setBytes s ts rs l _ _

@[simp] theorem under_markPoison (a c : Nat) : (s.under ts rs l).markPoison a c = (s.markPoison a c).under ts rs l := by
  simp only [State.markPoison, under_setVal, under_setPoisoned]

@[simp] theorem under_markBurst (a c n : Nat) : (s.under ts rs l).markBurst a c n = (s.markBurst a c n).under ts rs l := by
  induction n generalizing s with
  | zero => unfold State.markBurst; rfl
  | succ n ih =>
    unfold State.markBurst
    rw [under_markPoison, ih]

theorem under_withEvo (e : Evodon) : ({ s.under ts rs l with evo := e } : State) = ({ s with evo := e } : State).under ts rs l := rfl

theorem under_withErrors (unc one : List Nat) :
    ({ s.under ts rs l with errUnc := unc, errOne := one } : State) = ({ s with errUnc := unc, errOne := one } : State).under ts rs l := rfl

theorem under_withErrUnc (unc : List Nat) : ({ s.under ts rs l with errUnc := unc } : State) = ({ s with errUnc := unc } : State).under ts rs l :=
  rfl

theorem under_withKeyOf (m : SMap Nat) : ({ s.under ts rs l with keyOf := m } : State) = ({ s with keyOf := m } : State).under ts rs l := rfl

theorem under_event (ty kind cls unit count addr : Nat) :
    (s.under ts rs l).event ty kind cls unit count addr = (s.event ty kind cls unit count addr).under ts rs l := rfl

@[simp] theorem under_evo : (s.under ts rs l).evo = s.evo := rfl

@[simp] theorem under_charge (k u a : Nat) : (s.under ts rs l).charge k u a = (s.charge k u a).under ts rs l := by
  unfold State.charge
  simp only [under_evo, under_withEvo, under_event]
  exact (apply_ite (fun v : State => v.under ts rs l) _ _ _).symm

@[simp] theorem under_detect (a : Nat) : (s.under ts rs l).detect a = (s.detect a).under ts rs l := by
  unfold State.detect
  simp only [under_errTag, under_errUnc, under_errOne, under_markPoison, under_setTagAt, under_markBurst]
  split
  · exact under_withErrors _ ts rs l _ _
  split
  · split
    · exact under_withErrUnc (s.markPoison a 1) ts rs l _
    · generalize s.markBurst (a / 64 * 64) 2 8 = v
      exact under_withErrUnc v ts rs l _
  by_cases hone : s.errOne.any (checkedWith a) = true
  · rw [if_pos hone]
    exact (if_pos hone).trans (under_charge { s with errOne := s.errOne.filter fun w => !checkedWith a w } ts rs l _ _ _)
  · rw [if_neg hone]
    exact if_neg hone

@[simp] theorem under_rekey (key a : Nat) : (s.under ts rs l).rekey key a = (s.rekey key a).under ts rs l := by
  unfold State.rekey
  simp only [under_keyOf, under_keyedBytes, under_setBytes]
  split
  · rfl
  split
  · rfl
  · exact under_withKeyOf _ ts rs l _

@[simp] theorem under_prewrite (key a : Nat) (whole : Bool) : (s.under ts rs l).prewrite key a whole = (s.prewrite key a whole).under ts rs l := by
  unfold State.prewrite
  rw [under_forgetErr, under_detect]
  split <;> rw [under_rekey, under_setTagAt]

@[simp] theorem under_put (key a n v m : Nat) : (s.under ts rs l).put key a n v m = (s.put key a n v m).under ts rs l := by
  unfold State.put
  simp only [under_prewrite, under_markPoison, under_poisoned, under_setVal]
  split
  · rfl
  split <;> rfl

@[simp] theorem under_setMasked (a mask : Nat) (bs : List Byte) :
    (s.under ts rs l).setMasked a mask bs = (s.setMasked a mask bs).under ts rs l := by
  induction bs generalizing s a mask with
  | nil => rfl
  | cons b bs ih =>
    rw [State.setMasked, State.setMasked, ← ih, under_setByte]
    split <;> rfl

@[simp] theorem under_putMasked (key a : Nat) (bs : List Byte) (mask mark : Nat) :
    (s.under ts rs l).putMasked key a bs mask mark = (s.putMasked key a bs mask mark).under ts rs l := by
  unfold State.putMasked
  simp only [under_prewrite, under_markPoison, under_poisoned, under_setMasked]
  split
  · rfl
  split
  · rfl
  split <;> rfl

@[simp] theorem under_putWords (key a : Nat) (bs : List Byte) (mask : Nat) (marks : List Nat) (n : Nat) :
    (s.under ts rs l).putWords key a bs mask marks n = (s.putWords key a bs mask marks n).under ts rs l := by
  induction n generalizing s a bs mask marks with
  | zero => rfl
  | succ n ih => rw [State.putWords, State.putWords, under_putMasked, ih]

@[simp] theorem under_clean (a : Nat) : (s.under ts rs l).clean a = (s.clean a).under ts rs l := by
  simp only [State.clean, under_forgetErr, under_setPoisoned, under_setTagAt, under_setVal]

@[simp] theorem under_cleanWords (a n : Nat) : (s.under ts rs l).cleanWords a n = (s.cleanWords a n).under ts rs l := by
  induction n generalizing s a with
  | zero => rfl
  | succ n ih => rw [cleanWords_succ, cleanWords_succ, under_clean, ih]

@[simp] theorem under_meet (a : Nat) : (s.under ts rs l).meet a = (s.meet a).under ts rs l := by
  unfold State.meet
  rw [apply_ite fun v : State => v.under ts rs l]
  rfl

@[simp] theorem under_putWord (key a w : Nat) : (s.under ts rs l).putWord key a w = (s.putWord key a w).under ts rs l := by
  unfold State.putWord
  dsimp only
  have hstart : (if isSpad a then (s.under ts rs l).forgetErr a else ((s.under ts rs l).meet a).detect a) =
      (if isSpad a then s.forgetErr a else (s.meet a).detect a).under ts rs l := by
    rw [under_forgetErr, under_meet, under_detect]
    split <;> rfl
  rw [hstart, under_rekey, under_setTagAt, under_poisoned, under_setVal]
  exact (apply_ite (fun v : State => v.under ts rs l) _ _ _).symm

@[simp] theorem under_leafCheck (ctx va : Nat) (need : Need) (level entry w : Nat) :
    (s.under ts rs l).leafCheck ctx va need level entry w = s.leafCheck ctx va need level entry w := rfl

theorem under_entryRead (a : Nat) :
    (s.under ts rs l).entryRead a = ((s.entryRead a).1, (s.entryRead a).2.under ts rs l) := by
  unfold State.entryRead
  simp only [under_meet, under_detect, under_keyedBytes, under_slotLoad, under_poisoned, under_byte]

theorem under_walkFrom (ctx va : Nat) (need : Need) (table fuel level : Nat) :
    (s.under ts rs l).walkFrom ctx va need table fuel level =
      ((s.walkFrom ctx va need table fuel level).1, (s.walkFrom ctx va need table fuel level).2.under ts rs l) := by
  induction fuel generalizing s table level with
  | zero => rfl
  | succ fuel ih =>
    rw [State.walkFrom, State.walkFrom]
    simp only [under_die, under_entryRead, under_leafCheck]
    split
    · rfl
    split
    · rfl
    split
    · rfl
    split
    · rfl
    split
    · rfl
    split
    · rfl
    split
    · rfl
    · exact ih _ _ _

theorem under_walk (ctx va : Nat) (need : Need) :
    (s.under ts rs l).walk ctx va need = ((s.walk ctx va need).1, (s.walk ctx va need).2.under ts rs l) := by
  rw [State.walk, State.walk, under_ctxOf]
  split
  · rfl
  split
  · rfl
  · exact under_walkFrom s ts rs l _ _ _ _ _ _

theorem under_vwrites (ctx va : Nat) (ws : List Nat) :
    (s.under ts rs l).vwrites ctx va ws = ((s.vwrites ctx va ws).1, (s.vwrites ctx va ws).2.under ts rs l) := by
  induction ws generalizing s va with
  | nil => rfl
  | cons w ws ih =>
    rw [State.vwrites, State.vwrites]
    simp only [under_walk, under_slotLoad, under_putWord, ih]
    split <;> rfl

end

/-! ## Two states alike but for what tiles and routers hold -/

/-- The two states differ beside memory only, and every tile is of the same context. -/
structure Alike (s u : State) : Prop where
  eq : ∃ ts rs l, u = s.under ts rs l
  ctx : ∀ t, (u.tile t).ctx = (s.tile t).ctx

section
variable {s u v : State}

theorem Alike.refl : Alike s s := ⟨⟨s.tiles, s.routers, s.batch, rfl⟩, fun _ => rfl⟩

theorem Alike.trans (hu : Alike s u) (hv : Alike u v) : Alike s v := by
  obtain ⟨⟨_, _, _, rfl⟩, hctx⟩ := hu
  obtain ⟨⟨ts, rs, l, rfl⟩, hctx'⟩ := hv
  exact ⟨⟨ts, rs, l, rfl⟩, fun t => (hctx' t).trans (hctx t)⟩

theorem Alike.symm (h : Alike s u) : Alike u s := by
  obtain ⟨⟨ts, rs, l, rfl⟩, hctx⟩ := h
  exact ⟨⟨s.tiles, s.routers, s.batch, rfl⟩, fun t => (hctx t).symm⟩

theorem Woken.alike (h : Woken s u) : Alike s u := by
  obtain ⟨ts, rs, l, hu⟩ := h.beside.eq
  refine ⟨⟨ts, rs, l, hu⟩, fun t => ?_⟩
  obtain ⟨_, _, _, _, _, _, _, _, ht⟩ := (h.tile t).rest
  rw [ht]

theorem Alike.beside (h : Alike s u) : Beside s u := by
  obtain ⟨ts, rs, l, hu⟩ := h.eq
  exact ⟨ts, rs, l, hu⟩

/-- An operation that neither sees nor touches tiles and routers. -/
def Apart (F : State → State) : Prop := ∀ s ts rs l, F (s.under ts rs l) = (F s).under ts rs l

theorem Apart.tile {F : State → State} (hF : Apart F) (s : State) (t : Nat) : (F s).tile t = s.tile t := by
  have h := hF s s.tiles s.routers s.batch
  change F s = _ at h
  rw [h]
  rfl

theorem Apart.alike {F : State → State} (hF : Apart F) (h : Alike s u) : Alike (F s) (F u) := by
  obtain ⟨⟨ts, rs, l, rfl⟩, hctx⟩ := h
  refine ⟨⟨ts, rs, l, hF s ts rs l⟩, fun t => ?_⟩
  rw [hF.tile, hF.tile]
  exact hctx t

end

end Sys2Proof.Machine

namespace Sys2Proof.Machine
open Sys2Proof.Claims

/-! ## Operations that wake waiters beside what they write (R157, R174, R177) -/

/-- Each tile is as waking leaves it, whatever memory holds. -/
structure Worked (s u : State) : Prop where
  tile : ∀ t, WokenTile (s.tile t) (u.tile t)

/-- G does to memory what F does, and to tiles what waking does. -/
structure Does (F G : State → State) : Prop where
  alike : ∀ s u, Alike s u → Alike (F s) (G u)
  worked : ∀ s, Worked s (G s)

section
variable {s u v : State} {F F' G G' : State → State}

theorem Worked.refl : Worked s s := ⟨fun _ => .refl _⟩
theorem Worked.trans (hu : Worked s u) (hv : Worked u v) : Worked s v := ⟨fun t => (hu.tile t).trans (hv.tile t)⟩
theorem Woken.worked (h : Woken s u) : Worked s u := ⟨h.tile⟩

theorem Does.comp (h : Does F G) (h' : Does F' G') : Does (fun s => F' (F s)) (fun s => G' (G s)) :=
  ⟨fun s u hsu => h'.alike _ _ (h.alike s u hsu), fun s => (h.worked s).trans (h'.worked _)⟩

theorem Does.self (h : Does F G) : Does G G :=
  ⟨fun s u hsu => (h.alike s s .refl).symm.trans (h.alike s u hsu), h.worked⟩

theorem Apart.does (hF : Apart F) : Does F F :=
  ⟨fun _ _ h => hF.alike h, fun s => ⟨fun t => by rw [hF.tile]; exact .refl _⟩⟩

theorem Does.waking (h : Does F G) (hG : ∀ s, Woken (G s) (G' s)) : Does F G' :=
  ⟨fun s u hsu => (h.alike s u hsu).trans (hG u).alike, fun s => (h.worked s).trans (hG s).worked⟩

theorem does_id : Does (fun s => s) (fun s => s) := ⟨fun _ _ h => h, fun _ => .refl⟩

theorem Does.congr (h : Does F G) (hF : ∀ s, F' s = F s) (hG : ∀ s, G' s = G s) : Does F' G' := by
  obtain rfl : F' = F := funext hF
  obtain rfl : G' = G := funext hG
  exact h

end

/-! ### Reads and writes of words -/

theorem does_detect (a : Nat) : Does (fun s => s.detect a) (fun s => s.detect a) := Apart.does fun s ts rs l => under_detect s ts rs l a
theorem does_put (key a n v m : Nat) : Does (fun s => s.put key a n v m) (fun s => s.put key a n v m) :=
  Apart.does fun s ts rs l => under_put s ts rs l key a n v m

theorem does_touch (a : Nat) : Does (fun s => s) (fun s => s.touch a) := does_id.waking fun s => woken_touch s a

theorem woken_look (s : State) (a : Nat) : Woken (s.detect a) (s.look a) := by
  unfold State.look
  dsimp only
  split <;> split
  · exact .refl
  · exact woken_touch _ _
  · exact woken_touch _ _
  · exact (woken_touch _ _).trans (woken_touch _ _)

theorem does_look (a : Nat) : Does (fun s => s.detect a) (fun s => s.look a) := (does_detect a).waking fun s => woken_look s a

theorem does_lookWords (a n : Nat) : Does (fun s => s.lookWords a n) (fun s => s.lookWords a n) := by
  induction n generalizing a with
  | zero => exact does_id
  | succ n ih => exact (does_look a).self.comp (ih (a + 8))

theorem woken_touchPair (s u : State) (a : Nat) : Woken s (s.touchPair u a) := by
  unfold State.touchPair
  split
  · exact woken_touch _ _
  · exact .refl

theorem woken_store (s : State) (key a n v m : Nat) : Woken (s.put key a n v m) (s.store key a n v m) :=
  (woken_touch _ a).trans (woken_touchPair _ s a)

theorem does_store (key a n v m : Nat) : Does (fun s => s.put key a n v m) (fun s => s.store key a n v m) :=
  (does_put key a n v m).waking fun s => woken_store s key a n v m

theorem woken_touchWords (s : State) (a n : Nat) : Woken s (s.touchWords a n) := by
  induction n generalizing s a with
  | zero => exact .refl
  | succ n ih => exact (woken_touch s a).trans (ih _ _)

theorem woken_touchMasked (s : State) (a mask n : Nat) : Woken s (s.touchMasked a mask n) := by
  induction n generalizing s a mask with
  | zero => exact .refl
  | succ n ih =>
    rw [State.touchMasked]
    split
    · exact ih _ _ _
    · exact (woken_touch s a).trans (ih _ _ _)

theorem woken_touchPairs (s u : State) (a mask n : Nat) : Woken s (s.touchPairs u a mask n) := by
  induction n generalizing s a mask with
  | zero => exact .refl
  | succ n ih =>
    rw [State.touchPairs]
    split
    · exact ih _ _ _
    · exact (woken_touchPair s u a).trans (ih _ _ _)

/-- The writes of one cycle do what the writes do. -/
theorem Does.together {F G : State → State} (h : Does F G) : Does F (fun s => s.together G) := by
  have hcollect : ∀ s : State, Woken s s.collect := fun s => woken_batch s _
  refine ⟨fun s u hsu => ?_, fun s => ?_⟩ <;> unfold State.together <;> split
  · exact h.alike s u hsu
  · exact (h.alike s _ (hsu.trans (hcollect u).alike)).trans (woken_wakeAll _).alike
  · exact h.worked s
  · exact ((hcollect s).worked.trans (h.worked _)).trans (woken_wakeAll _).worked

/-! ### Pairs, rows and atomics -/

/-- The words of a pair as a capability store leaves them. -/
def State.putCap (s : State) (key a lo hi mark : Nat) (tagged : Bool) : State :=
  let s := (s.put key a 8 lo mark).put key (a + 8) 8 hi mark
  if tagged && isSpad a && !s.poisoned a && !s.poisoned (a + 8) then s.setTagAt a true else s

theorem does_storeCap (key a lo hi mark : Nat) (tagged : Bool) :
    Does (fun s => s.putCap key a lo hi mark tagged) (fun s => s.storeCap key a lo hi mark tagged) := by
  refine Does.waking (Apart.does fun s ts rs l => ?_) fun s => woken_touchWords _ a 2
  unfold State.putCap
  simp only [under_put, under_poisoned, under_setTagAt]
  exact (apply_ite (fun v : State => v.under ts rs l) _ _ _).symm

theorem does_putWords (key a : Nat) (bs : List Byte) (mask : Nat) (marks : List Nat) (n : Nat) :
    Does (fun s => s.putWords key a bs mask marks n) (fun s => s.putWords key a bs mask marks n) :=
  Apart.does fun s ts rs l => under_putWords s ts rs l key a bs mask marks n

/-- A row written as a home writes it. -/
def State.storeRow (s : State) (key a : Nat) (f : Flit) : State :=
  ((s.putWords key a f.data f.bmask f.psn 8).touchMasked a f.bmask 8).touchPairs s a f.bmask 8

theorem does_storeRow (key a : Nat) (f : Flit) :
    Does (fun s => s.putWords key a f.data f.bmask f.psn 8) (fun s => s.together fun s => s.storeRow key a f) :=
  Does.together ((does_putWords key a f.data f.bmask f.psn 8).waking fun _ =>
    (woken_touchMasked _ _ _ _).trans (woken_touchPairs _ _ _ _ _))

section
variable {s u : State} (h : Alike s u)
include h

theorem Alike.readAt (key a n : Nat) : u.readAt key a n = s.readAt key a n := by
  obtain ⟨ts, rs, l, rfl⟩ := h.eq
  exact under_readAt s ts rs l key a n

theorem Alike.val (a n : Nat) : u.val a n = s.val a n := by
  obtain ⟨ts, rs, l, rfl⟩ := h.eq
  exact under_val s ts rs l a n

theorem Alike.atomic (key a : Nat) (fn : AtomFn) (ty : AtomTy) (y ym z zm : Nat) :
    (u.atomic key a fn ty y ym z zm).1 = (s.atomic key a fn ty y ym z zm).1 ∧
      Alike (s.atomic key a fn ty y ym z zm).2 (u.atomic key a fn ty y ym z zm).2 := by
  have hlook : Alike (s.look a) (u.look a) := (does_look a).self.alike _ _ h
  unfold State.atomic
  dsimp only
  rw [hlook.readAt]
  split
  · split
    · exact ⟨rfl, (does_store _ _ _ _ _).self.alike _ _ hlook⟩
    · exact ⟨rfl, hlook⟩
  split
  · exact ⟨rfl, hlook⟩
  split
  · exact ⟨rfl, hlook⟩
  split
  · exact ⟨rfl, (does_store _ _ _ _ _).self.alike _ _ hlook⟩
  · exact ⟨rfl, (does_store _ _ _ _ _).self.alike _ _ hlook⟩

end

theorem worked_atomic (s : State) (key a : Nat) (fn : AtomFn) (ty : AtomTy) (y ym z zm : Nat) :
    Worked s (s.atomic key a fn ty y ym z zm).2 := by
  have hlook : Worked s (s.look a) := (does_look a).worked s
  have hstore (x m : Nat) : Worked s ((s.look a).store key a (atomWidth ty) x m) := hlook.trans ((does_store _ _ _ _ _).worked _)
  unfold State.atomic
  dsimp only
  split
  · split
    · exact hstore _ _
    · exact hlook
  split
  · exact hlook
  split
  · exact hlook
  split
  · exact hstore _ _
  · exact hstore _ _

/-! ## Answers of a tile (R25, R157, R158) -/

theorem place_eq (c : Nat) (d : Home) (f : Flit) : ∃ e x y, place c d f = { f with home := d, exit := e, dx := x, dy := y } := by
  cases d with
  | tile t => exact ⟨_, _, _, rfl⟩
  | port p => exact ⟨_, _, _, rfl⟩
  | io i => exact ⟨_, _, _, rfl⟩

/-- The message by which a home answers f with r. -/
def replyTo (h : Home) (f r : Flit) : Flit :=
  place (homeCol h) f.src { r with ctx := f.ctx, ga := f.ga, tag := f.tag, thr := f.thr, idx := f.idx, gidx := f.gidx, ans := f.op, src := h }

theorem replyTo_eq (h : Home) (f r : Flit) : ∃ e x y, replyTo h f r =
    { r with ctx := f.ctx, ga := f.ga, tag := f.tag, thr := f.thr, idx := f.idx, gidx := f.gidx, ans := f.op, src := h, home := f.src, exit := e,
             dx := x, dy := y } := by
  obtain ⟨e, x, y, hplace⟩ := place_eq (homeCol h) f.src { r with
    ctx := f.ctx, ga := f.ga, tag := f.tag, thr := f.thr, idx := f.idx, gidx := f.gidx, ans := f.op, src := h }
  exact ⟨e, x, y, hplace⟩

theorem replyTo_op (h : Home) (f r : Flit) : (replyTo h f r).op = r.op := by
  obtain ⟨e, x, y, hreply⟩ := replyTo_eq h f r
  rw [hreply]

theorem replyTo_flast (h : Home) (f r : Flit) : (replyTo h f r).flast = r.flast := by
  obtain ⟨e, x, y, hreply⟩ := replyTo_eq h f r
  rw [hreply]

theorem answer_eq (s : State) (h : Home) (f r : Flit) :
    s.answer h f r = (flitsOf (replyTo h f r)).foldl (fun s g => s.inject h g) s := rfl

/-- g is the flit by which a home answers f with r. -/
structure Answers (h : Home) (f r g : Flit) : Prop where
  op : g.op = r.op
  home : g.home = f.src
  tag : g.tag = f.tag
  ans : g.ans = f.op
  src : g.src = h
  ctx : g.ctx = f.ctx
  idx : g.idx = f.idx
  data : g.data = r.data.take 32
  psn : g.psn = r.psn.take 4
  tags : g.tags = r.tags
  reason : g.reason = r.reason
  cls : g.cls = r.cls
  origin : g.origin = r.origin
  found : g.found = r.found
  opndMark : g.opndMark = r.opndMark

theorem answers_reply (h : Home) (f r : Flit) : Answers h f r (storeFlit (replyTo h f r)) := by
  obtain ⟨e, x, y, hreply⟩ := replyTo_eq h f r
  rw [hreply]
  exact ⟨rfl, rfl, rfl, rfl, rfl, rfl, rfl, rfl, rfl, rfl, rfl, rfl, rfl, rfl, rfl⟩

/-- The two flits are of one message. -/
structure SameHead (f g : Flit) : Prop where
  src : g.src = f.src
  tag : g.tag = f.tag
  op : g.op = f.op
  ctx : g.ctx = f.ctx
  idx : g.idx = f.idx

theorem SameHead.refl {f : Flit} : SameHead f f := ⟨rfl, rfl, rfl, rfl, rfl⟩

/-- What an answer of one flit leaves: that flit, last of those that the tile has to send on plane B. -/
theorem answer_single (s : State) (t : Nat) (f : Flit) {r : Flit} (hplane : planeB r.op = true) (hlast : r.flast = 0) :
    ∃ g, Answers (.tile t) f r g ∧ s.answer (.tile t) f r = s.updTile t fun x => { x with injB := x.injB ++ [g] } := by
  have hop : planeB (storeFlit (replyTo (.tile t) f r)).op = true := by
    rw [(answers_reply _ f r).op, hplane]
  refine ⟨_, answers_reply _ f r, ?_⟩
  rw [answer_eq, flitsOf_single ((replyTo_flast _ f r).trans hlast)]
  simp only [List.foldl_cons, List.foldl_nil, State.inject, hop, if_true]

theorem Answers.answersWith {s : State} {t : Nat} {f f' r g : Flit} {rest : List Flit} (h : Answers (.tile t) f' r g) (hhead : SameHead f f')
    (hej : (s.tile t).ejA = rest) {op : Op} (hop : r.op = op) :
    answersWith (s.updTile t fun x => { x with injB := x.injB ++ [g] }) t f rest op g := by
  rw [Claims.answersWith, updTile_tile_self]
  exact ⟨hej, List.getLast?_concat, h.op.trans hop, h.home.trans hhead.src, h.tag.trans hhead.tag, h.ans.trans hhead.op, h.src,
    h.ctx.trans hhead.ctx, h.idx.trans hhead.idx⟩

end Sys2Proof.Machine

namespace Sys2Proof.Machine
open Sys2Proof.Claims

/-! ## A tile takes a request (R16, R35, R36) -/

theorem alike_updTile (s : State) (t : Nat) {g : Tile → Tile} (hctx : (g (s.tile t)).ctx = (s.tile t).ctx) : Alike s (s.updTile t g) := by
  refine ⟨⟨_, s.routers, s.batch, rfl⟩, fun k => ?_⟩
  by_cases hk : k = t
  · subst hk
    rw [updTile_tile_self, hctx]
  · rw [updTile_tile_other _ _ hk]

/-- u is s but for the flits and the banks that tile t has taken. -/
structure Taken (s u : State) (t : Nat) (rest : List Flit) : Prop where
  alike : Alike s u
  tile : ∃ pa tk lt ws sl, u.tile t = { s.tile t with ejA := rest, passedA := pa, taken := tk, late := lt, waits := ws, slots := sl }

section
variable (x : Tile) (pkg t order id : Nat)

theorem grantAll_tile (l : List BankWait) : ∃ tk lt, (x.grantAll pkg t l).2 = { x with taken := tk, late := lt } := by
  induction l generalizing x with
  | nil => exact ⟨x.taken, x.late, rfl⟩
  | cons w l ih =>
    rw [Tile.grantAll]
    split
    · exact ih x
    · obtain ⟨tk, lt, hrest⟩ := ih (x.takeFor w)
      refine ⟨tk, lt, hrest.trans ?_⟩
      unfold Tile.takeFor
      split <;> rfl

theorem claimRows_tile (offs : List Nat) : ∃ tk lt ws, x.claimRows pkg t order id offs = { x with taken := tk, late := lt, waits := ws } := by
  unfold Tile.claimRows
  split
  · exact ⟨x.taken, x.late, x.waits, rfl⟩
  · obtain ⟨tk, lt, hgrant⟩ := grantAll_tile x pkg t ((rowSet offs).map (x.request order id))
    exact ⟨tk, lt, _, by dsimp only; rw [hgrant]⟩

end

section
variable {s u v : State} {t : Nat} {rest : List Flit}

theorem Taken.trans_updTile (h : Taken s u t rest) {g : Tile → Tile}
    (hg : ∃ pa tk lt ws sl, g (u.tile t) = { u.tile t with passedA := pa, taken := tk, late := lt, waits := ws, slots := sl }) :
    Taken s (u.updTile t g) t rest := by
  obtain ⟨_, _, _, _, _, htile⟩ := h.tile
  obtain ⟨_, _, _, _, _, hg⟩ := hg
  refine ⟨h.alike.trans (alike_updTile u t (by rw [hg])), ?_⟩
  rw [updTile_tile_self, hg, htile]
  exact ⟨_, _, _, _, _, rfl⟩

theorem Taken.askHome (h : Taken s u t rest) (id : Nat) (offs : List Nat) : Taken s (u.askHome (.tile t) id offs).2 t rest := by
  have hclaim : Taken s (u.updTile t fun x => x.claimRows u.pkg t orderFabric id offs) t rest := by
    obtain ⟨tk, lt, ws, hrows⟩ := claimRows_tile (u.tile t) u.pkg t orderFabric id offs
    exact h.trans_updTile ⟨_, tk, lt, ws, _, hrows⟩
  unfold State.askHome
  dsimp only
  split
  · exact h
  · unfold State.ask State.askEach
    dsimp only [List.foldl_cons, List.foldl_nil]
    split
    · exact hclaim.trans_updTile (g := fun x => x.served orderFabric id) ⟨_, _, _, _, _, rfl⟩
    · exact hclaim

theorem Taken.passA (s : State) (t : Nat) (rest : List Flit) : Taken s (s.updTile t fun x => x.passA rest) t rest :=
  ⟨alike_updTile s t rfl, by rw [updTile_tile_self]; exact ⟨_, _, _, _, _, rfl⟩⟩

end

/-! ## The step of a home, by what it finds -/

section
variable {s : State} {t : Nat} {f : Flit} {rest : List Flit}

theorem takeReq_tile (hej : (s.tile t).ejA = f :: rest) (hpassed : (s.tile t).passedA = false) :
    s.takeReq (.tile t) f.op = some (f, s.updTile t fun x => x.passA rest) := by
  simp [State.takeReq, hej, hpassed]

theorem tileRefusal_passA (s : State) (t : Nat) (f : Flit) (rest : List Flit) :
    (s.updTile t fun x => x.passA rest).tileRefusal t f = s.tileRefusal t f := by
  unfold State.tileRefusal
  rw [updTile_tile_self]
  rfl

theorem homeStep_refused {why : Reason} (hej : (s.tile t).ejA = f :: rest) (hpassed : (s.tile t).passedA = false)
    (hwhy : s.tileRefusal t f = some why) (act : Flit → State → State) :
    s.homeStep (.tile t) f.op act =
      .next ((s.updTile t fun x => x.passA rest).nakWith (.tile t) f why (reasonClass why) (f.flast != 0)) := by
  have hrefusal : (s.updTile t fun x => x.passA rest).refusal (.tile t) f = some why := (tileRefusal_passA s t f rest).trans hwhy
  unfold State.homeStep
  rw [takeReq_tile hej hpassed]
  dsimp only
  rw [hrefusal]

theorem tileRefusal_of_arrives (h : arrives s t f rest) : s.tileRefusal t f = none := by
  obtain ⟨-, -, hfenced, hdie, hregion, hhalt, hctx, -, -⟩ := h
  have hnone : (s.tile t).region.isNone = false := by rw [← Option.not_isSome, hregion]; rfl
  have hrunning : ((s.tile t).halt == .settled) = false := by simpa using hhalt
  simp only [State.tileRefusal, hfenced, hdie, hnone, hrunning, hctx, Bool.not_true, Bool.or_false, Bool.false_and, bne_self_eq_false,
    Bool.false_eq_true, if_false]

/-- A tile that takes a request performs it once it has the message whole and its banks. -/
theorem homeStep_whole (h : arrives s t f rest) {g : Flit} {u : State}
    (hwhole : (s.updTile t fun x => x.passA rest).gatherMsg (.tile t) f = .whole g u) (hflag : g.flag = 0)
    (hbanks : (s.askHome (.tile t) 0 (rowsAt g)).1 = true) (act : Flit → State → State) :
    s.homeStep (.tile t) f.op act = .next (act g (u.askHome (.tile t) 0 (rowsAt g)).2) := by
  have hrefusal : (s.updTile t fun x => x.passA rest).refusal (.tile t) f = none :=
    (tileRefusal_passA s t f rest).trans (tileRefusal_of_arrives h)
  obtain ⟨hej, hpassed, -⟩ := h
  have hroom : s.homeRoom (.tile t) g = true := by simp [State.homeRoom, hflag]
  unfold State.homeStep
  rw [takeReq_tile hej hpassed]
  dsimp only
  rw [hrefusal]
  dsimp only
  rw [hwhole]
  simp only [hroom, hbanks, Bool.not_true, Bool.false_eq_true, if_false, if_true]

/-- A request of one flit. -/
theorem homeStep_single (h : arrives s t f rest) (hlast : f.flast = 0) (hbanks : banksGiven s t f) (act : Flit → State → State) :
    ∃ u, Taken s u t rest ∧ s.homeStep (.tile t) f.op act = .next (act f u) := by
  have hflag : f.flag = 0 := by
    obtain ⟨-, -, -, -, -, -, -, hflag, -⟩ := h
    exact hflag
  have hwhole : (s.updTile t fun x => x.passA rest).gatherMsg (.tile t) f = .whole f (s.updTile t fun x => x.passA rest) := by
    rw [State.gatherMsg, if_pos hlast]
  exact ⟨_, (Taken.passA s t rest).askHome 0 _, homeStep_whole h hwhole hflag hbanks act⟩

/-- The message of two flits. -/
def wholeOf (g f : Flit) : Flit := { g with fidx := 0, data := g.data ++ f.data, psn := g.psn ++ f.psn }

/-- The second flit of a message of two. -/
theorem homeStep_second (h : arrives s t f rest) {g : Flit} (hsecond : secondPart s t g f) (act : Flit → State → State) :
    ∃ u, Taken s u t rest ∧ s.homeStep (.tile t) f.op act = .next (act (wholeOf g f) u) := by
  obtain ⟨hflast, hfidx, hglast, hgidx, hsrc, htag, hop, hctx, hidx, hflag, hslots, hbanks⟩ := hsecond
  have hsame : sameMessage f g = true := by simp [sameMessage, hsrc, htag, hop]
  have hslot : (s.updTile t fun x => x.passA rest).slotsAt (.tile t) = [{ flits := [g] }] := by
    rw [State.slotsAt, updTile_tile_self]
    exact hslots
  have hwhole : (s.updTile t fun x => x.passA rest).gatherMsg (.tile t) f =
      .whole (wholeOf g f) ((s.updTile t fun x => x.passA rest).setSlots (.tile t) []) := by
    rw [State.gatherMsg, hslot]
    simp [hflast, takeFirst, hsame, hgidx, hfidx, Slot.whole, wholeOf, List.range_succ]
  have hrows : rowsAt (wholeOf g f) = rowsAt g := rfl
  refine ⟨_, ?_, homeStep_whole h hwhole hflag (by rw [hrows]; exact hbanks) act⟩
  exact ((Taken.passA s t rest).trans_updTile (g := fun x => { x with slots := [] }) ⟨_, _, _, _, _, rfl⟩).askHome 0 _

theorem wholeOf_head {g : Flit} (h : secondPart s t g f) : SameHead f (wholeOf g f) := by
  obtain ⟨-, -, -, -, hsrc, htag, hop, hctx, hidx, -⟩ := h
  exact ⟨hsrc, htag, hop, hctx, hidx⟩

end
end Sys2Proof.Machine

namespace Sys2Proof.Machine
open Sys2Proof.Claims

/-! ## Requests refused, and parts of messages (R2, R36, R55, R300, R358, R396) -/

theorem Alike.mem {s u : State} (h : Alike s u) : u.mem = s.mem := h.beside.mem

theorem Alike.stalled {s u : State} (h : Alike s u) : u.stalled = s.stalled := by
  obtain ⟨⟨_, _, _, rfl⟩, -⟩ := h
  rfl

/-- A refusal by a tile. -/
theorem nakWith_answers {v : State} {t : Nat} {f f' : Flit} {rest : List Flit} (hej : (v.tile t).ejA = rest) (hhead : SameHead f f')
    {why : Reason} (hlink : why ≠ .link) (cls : Nat) (part : Bool) :
    ∃ g, answersWith (v.nakWith (.tile t) f' why cls part) t f rest .nak g ∧ g.reason = why ∧ g.cls = cls ∧ g.origin = t := by
  obtain ⟨g, hg, hanswer⟩ := answer_single v t f' (r := { f' with
    op := .nak, flast := 0, reason := why, cls := cls, origin := if why = .link then originOf f'.src else originOf (.tile t),
    sigref := false, crcBad := false, age := 0, dpkg := none, count := if part then f'.fidx + 1 else 0 }) rfl rfl
  refine ⟨g, ?_, hg.reason, hg.cls, hg.origin.trans (if_neg hlink)⟩
  rw [State.nakWith, hanswer]
  exact hg.answersWith hhead hej rfl

theorem alike_nakWith (v : State) (h : Home) (f : Flit) (why : Reason) (cls : Nat) (part : Bool) : Alike v (v.nakWith h f why cls part) :=
  (woken_answer v h f _).alike

/-- The event of a request is a step of its home, whatever it does where the request is taken; a store also waits for its channel. -/
theorem exec_requestEvent {t : Nat} {op : Op} {i : Instr} (h : requestEvent op (.tile t) = some i) :
    ∃ act, ∀ s : State, ((op = .push ∨ op = .tdec ∨ op = .tcancel) → 1 ∉ (s.cluster (clusterOf t)).mending) →
      (op = .withdraw → ¬((s.tile t).halt = .settled ∧ (s.tile t).fenced = false)) →
      exec i s = s.homeStep (.tile t) op act ∨ exec i s = s.orWait fun s => s.homeStep (.tile t) op act := by
  have hopen {s : State} {o : Host.Outcome State Fault Refusal} (hm : 1 ∉ (s.cluster (clusterOf t)).mending) :
      s.bankStep (.tile t) o = o := if_neg (by simpa using hm)
  cases op <;> simp only [requestEvent, Option.some.injEq, reduceCtorEq] at h <;> subst h
  case store =>
    exact ⟨fun f s => s.performAt (.tile t) f, fun s _ _ => .inr rfl⟩
  case push =>
    refine ⟨?_, fun s hm _ => .inl ?_⟩
    rotate_left
    · dsimp only [exec, execPush]
      exact hopen (hm (.inl rfl))
  case tdec =>
    refine ⟨?_, fun s hm _ => .inl ?_⟩
    rotate_left
    · dsimp only [exec, execTdecRequest]
      exact hopen (hm (.inr (.inl rfl)))
  case tcancel =>
    refine ⟨?_, fun s hm _ => .inl ?_⟩
    rotate_left
    · dsimp only [exec, execTcancelRequest]
      exact hopen (hm (.inr (.inr rfl)))
  case withdraw =>
    refine ⟨?_, fun s _ hw => .inl ?_⟩
    rotate_left
    · dsimp only [exec, execWithdraw]
      exact if_neg (hw rfl)
  all_goals
    refine ⟨?_, fun s _ _ => .inl ?_⟩
    rotate_left
    · dsimp only [exec]
      rfl

section
variable {s : State} {t : Nat} {f : Flit} {rest : List Flit} {i : Instr} (hev : requestEvent f.op (.tile t) = some i) (hopen : bankOpen s t f)
include hev hopen

/-- What a home's step comes to without performing the request is what the event comes to. -/
theorem exec_unperformed (hw : f.op = .withdraw → ¬((s.tile t).halt = .settled ∧ (s.tile t).fenced = false)) {Φ : State → State}
    (hstep : ∀ b act, ({ s with stalled := b } : State).homeStep (.tile t) f.op act = .next (Φ { s with stalled := b }))
    (hstalled : (Φ { s with stalled := false }).stalled = false) : ∃ b, exec i s = .next (Φ { s with stalled := b }) := by
  obtain ⟨act, hexec⟩ := exec_requestEvent hev
  obtain hexec | hexec := hexec s hopen hw
  · exact ⟨s.stalled, hexec.trans (hstep s.stalled act)⟩
  · refine ⟨false, hexec.trans ?_⟩
    rw [State.orWait, hstep false act]
    dsimp only
    rw [hstalled, if_neg Bool.false_ne_true]

variable (hej : (s.tile t).ejA = f :: rest) (hpassed : (s.tile t).passedA = false)
include hej hpassed

theorem refused_of {why : Reason} (hwhy : s.tileRefusal t f = some why) (hlink : why ≠ .link)
    (hw : f.op = .withdraw → ¬((s.tile t).halt = .settled ∧ (s.tile t).fenced = false)) :
    ∃ u g, exec i s = .next u ∧ answersWith u t f rest .nak g ∧ g.reason = why ∧ g.cls = reasonClass why ∧ g.origin = t ∧ u.mem = s.mem := by
  have hvalue (b : Bool) : Alike ({ s with stalled := b } : State) ((({ s with stalled := b } : State).updTile t fun x => x.passA rest).nakWith
      (.tile t) f why (reasonClass why) (f.flast != 0)) := (Taken.passA _ t rest).alike.trans (alike_nakWith ..)
  obtain ⟨b, hexec⟩ := exec_unperformed hev hopen hw (Φ := fun v => (v.updTile t fun x => x.passA rest).nakWith (.tile t) f why
    (reasonClass why) (f.flast != 0)) (fun b act => homeStep_refused (s := { s with stalled := b }) hej hpassed hwhy act) (hvalue false).stalled
  have hrest : ((({ s with stalled := b } : State).updTile t fun x => x.passA rest).tile t).ejA = rest := by
    rw [updTile_tile_self]
    rfl
  obtain ⟨g, hanswers, hreason, hcls, horigin⟩ := nakWith_answers hrest .refl hlink (reasonClass why) (f.flast != 0)
  exact ⟨_, g, hexec, hanswers, hreason, hcls, horigin, (hvalue b).mem⟩

end

/-- The first part of a message waits in a slot (R36). -/
theorem homeStep_firstPart {s : State} {t : Nat} {f : Flit} {rest : List Flit} (h : arrives s t f rest) (hlast : f.flast = 1)
    (hslots : (s.tile t).slots = []) (act : Flit → State → State) :
    s.homeStep (.tile t) f.op act = .next ((s.updTile t fun x => x.passA rest).setSlots (.tile t) [{ flits := [f] }]) := by
  have hrefusal : (s.updTile t fun x => x.passA rest).refusal (.tile t) f = none :=
    (tileRefusal_passA s t f rest).trans (tileRefusal_of_arrives h)
  have hslot : (s.updTile t fun x => x.passA rest).slotsAt (.tile t) = [] := by
    rw [State.slotsAt, updTile_tile_self]
    exact hslots
  obtain ⟨hej, hpassed, -⟩ := h
  have hgather : (s.updTile t fun x => x.passA rest).gatherMsg (.tile t) f =
      .waits ((s.updTile t fun x => x.passA rest).setSlots (.tile t) [{ flits := [f] }]) := by
    rw [State.gatherMsg, hslot]
    simp [hlast, takeFirst]
  unfold State.homeStep
  rw [takeReq_tile hej hpassed]
  dsimp only
  rw [hrefusal]
  dsimp only
  rw [hgather]

theorem withdraw_settled {s : State} {t : Nat} {f : Flit} {rest : List Flit} (hej : (s.tile t).ejA = f :: rest)
    (hpassed : (s.tile t).passedA = false) (hop : f.op = .withdraw) (hhalt : (s.tile t).halt = .settled) (hfenced : (s.tile t).fenced = false) :
    ∃ u g, exec (.withdraw (.tile t)) s = .next u ∧ answersWith u t f rest .nak g ∧ g.reason = .absent ∧ g.cls = 0x0B ∧ g.origin = t ∧
      u.mem = s.mem := by
  have hexec : exec (.withdraw (.tile t)) s =
      .next ((s.updTile t fun x => x.passA rest).nakWith (.tile t) { f with found := true } .absent (reasonClass .absent)) := by
    change execWithdraw (.tile t) s = _
    have htake := takeReq_tile hej hpassed
    rw [hop] at htake
    rw [execWithdraw]
    simp only [hhalt, hfenced, and_self, if_true, htake]
  have hrest : ((s.updTile t fun x => x.passA rest).tile t).ejA = rest := by
    rw [updTile_tile_self]
    rfl
  obtain ⟨g, hanswers, hreason, hcls, horigin⟩ := nakWith_answers (f := f) (f' := { f with found := true }) hrest ⟨rfl, rfl, rfl, rfl, rfl⟩
    (why := .absent) (by decide) (reasonClass .absent) false
  exact ⟨_, g, hexec, hanswers, hreason, hcls, horigin, ((Taken.passA s t rest).alike.trans (alike_nakWith ..)).mem⟩

/-! The refusal that the state of the tile gives. -/

section
variable {s : State} {t : Nat} {f : Flit}

theorem tileRefusal_fenced (h : (s.tile t).fenced = true ∨ s.diePresent (dieOf (clusterOf t)) = false) : s.tileRefusal t f = some .fenced := by
  unfold State.tileRefusal
  exact if_pos (by obtain h | h := h <;> simp [h])

variable (hfenced : (s.tile t).fenced = false) (hdie : s.diePresent (dieOf (clusterOf t)) = true)
include hfenced hdie

theorem tileRefusal_wiped (hregion : (s.tile t).region = none) (hwiped : (s.tile t).wiped = true) (hop : f.op = .arm ∨ f.op = .ldc ∨ f.op = .stp) :
    s.tileRefusal t f = some .fenced := by
  have hwaits : (f.op == .arm || f.op == .ldc || f.op == .stp) = true := by
    obtain hop | hop | hop := hop <;> rw [hop] <;> rfl
  simp only [State.tileRefusal, hfenced, hdie, hregion, hwiped, hwaits]
  rfl

theorem tileRefusal_absent (hwiped : ¬((s.tile t).region = none ∧ (s.tile t).wiped = true ∧ (f.op = .arm ∨ f.op = .ldc ∨ f.op = .stp)))
    (habsent : (s.tile t).region = none ∨ (s.tile t).halt = .settled) : s.tileRefusal t f = some .absent := by
  have hnot : ((s.tile t).region.isNone && (s.tile t).wiped && (f.op == .arm || f.op == .ldc || f.op == .stp)) = false := by
    rw [Bool.eq_false_iff]
    simpa [and_assoc, or_assoc] using hwiped
  have hgone : ((s.tile t).region.isNone || (s.tile t).halt == .settled) = true := by
    simpa using habsent
  simp only [State.tileRefusal, hfenced, hdie, hnot, hgone]
  rfl

theorem tileRefusal_cap (hregion : (s.tile t).region.isSome = true) (hhalt : (s.tile t).halt ≠ .settled) (hctx : (s.tile t).ctx ≠ f.ctx) :
    s.tileRefusal t f = some .cap := by
  have hnone : (s.tile t).region.isNone = false := by rw [← Option.not_isSome, hregion]; rfl
  have hrunning : ((s.tile t).halt == .settled) = false := by simpa using hhalt
  simp only [State.tileRefusal, hfenced, hdie, hnone, hrunning, Bool.not_true, Bool.or_false, Bool.false_and, Bool.false_eq_true, if_false,
    bne_iff_ne, ne_eq, hctx, not_false_eq_true, if_true]

end

theorem requestsRefused : RequestsRefused := by
  intro s t f rest i hej hpassed hev hopen x wiped gone refusedBy
  have hrefused {why : Reason} (hwhy : s.tileRefusal t f = some why) (hlink : why ≠ .link)
      (hw : f.op = .withdraw → ¬(x.halt = .settled ∧ x.fenced = false)) : refusedBy why (reasonClass why) :=
    refused_of hev hopen hej hpassed hwhy hlink hw
  refine ⟨fun hgone => ?_, fun hfenced hdie hwiped => ?_, fun hfenced hdie hwiped habsent => ?_, fun hfenced hdie hregion hhalt hctx => ?_,
    fun harrives hlast hslots => ?_⟩
  · refine hrefused (tileRefusal_fenced (hgone.imp_right And.left)) (by decide) ?_
    rintro hop ⟨hhalt, hfenced⟩
    obtain hyes | ⟨-, hno⟩ := hgone
    · rw [hyes] at hfenced
      cases hfenced
    · exact hno hop hhalt
  · obtain ⟨hregion, hwipe, hop⟩ := hwiped
    refine hrefused (tileRefusal_wiped hfenced (by simpa [gone] using hdie) hregion hwipe hop) (by decide) fun hw => ?_
    rw [hw] at hop
    simp at hop
  · by_cases hw : f.op = .withdraw ∧ x.halt = .settled
    · obtain ⟨hop, hhalt⟩ := hw
      rw [hop] at hev
      obtain rfl : Instr.withdraw (.tile t) = i := Option.some.inj hev
      exact withdraw_settled hej hpassed hop hhalt hfenced
    · exact hrefused (tileRefusal_absent hfenced (by simpa [gone] using hdie) hwiped habsent) (by decide) fun hop h => hw ⟨hop, h.1⟩
  · exact hrefused (tileRefusal_cap hfenced (by simpa [gone] using hdie) hregion hhalt hctx) (by decide) fun _ h => hhalt h.1
  · have hhalt : x.halt ≠ .settled := by
      obtain ⟨-, -, -, -, -, hhalt, -⟩ := harrives
      exact hhalt
    obtain ⟨b, hexec⟩ := exec_unperformed hev hopen (fun _ h => hhalt h.1)
      (Φ := fun v => (v.updTile t fun x => x.passA rest).setSlots (.tile t) [{ flits := [f] }])
      (fun b act => homeStep_firstPart (s := { s with stalled := b }) harrives hlast hslots act) rfl
    refine ⟨_, hexec, ?_, ?_, rfl⟩
    · rw [State.setSlots, updTile_tile_self]
    · rw [State.setSlots, updTile_tile_self, updTile_tile_self]
      rfl

end Sys2Proof.Machine

namespace Sys2Proof.Machine
open Sys2Proof.Claims

/-! ## What a performed request leaves (R157, R158) -/

/-- The words of the two states are the same: bytes, poison, tags and FE. -/
structure SameWords (w u : State) : Prop where
  mem : u.mem = w.mem
  psn : u.psn = w.psn
  tagged : u.tagged = w.tagged
  fe : ∀ c, u.fe c = w.fe c

section
variable {s u v w : State} {t : Nat} {f f' : Flit} {rest : List Flit}

theorem SameWords.trans (hu : SameWords s u) (hv : SameWords u v) : SameWords s v :=
  ⟨hv.mem.trans hu.mem, hv.psn.trans hu.psn, hv.tagged.trans hu.tagged, fun c => (hv.fe c).trans (hu.fe c)⟩

theorem Alike.sameWords (h : Alike s u) : SameWords s u :=
  ⟨h.beside.mem, h.beside.psn, h.beside.tagged, fun c => h.beside.fe c⟩

theorem sameWords_updTile (s : State) (t : Nat) (g : Tile → Tile) : SameWords s (s.updTile t g) := ⟨rfl, rfl, rfl, fun _ => rfl⟩

theorem Taken.ejA (h : Taken s u t rest) : (u.tile t).ejA = rest := by
  obtain ⟨_, _, _, _, _, htile⟩ := h.tile
  rw [htile]

theorem Worked.ejA (h : Worked u v) : (v.tile t).ejA = (u.tile t).ejA := by
  obtain ⟨_, _, _, _, _, _, _, _, htile⟩ := (h.tile t).rest
  rw [htile]

/-- An answer of one flit, after what the home has done. -/
theorem answered (hej : (v.tile t).ejA = rest) (hhead : SameHead f f') {r : Flit} (hplane : planeB r.op = true) (hlast : r.flast = 0) :
    ∃ g, Answers (.tile t) f' r g ∧ answersWith (v.answer (.tile t) f' r) t f rest r.op g ∧ SameWords v (v.answer (.tile t) f' r) := by
  obtain ⟨g, hg, hanswer⟩ := answer_single v t f' hplane hlast
  rw [hanswer]
  exact ⟨g, hg, hg.answersWith hhead hej rfl, sameWords_updTile v t _⟩

theorem performedAs_ack (hej : (v.tile t).ejA = rest) (hwords : SameWords w v) (hhead : SameHead f f') :
    performedAs t f rest w (.next (v.ackTo (.tile t) f')) := by
  obtain ⟨g, -, hanswers, hsame⟩ := answered hej hhead (r := { op := .ack, count := 1 }) rfl rfl
  exact ⟨_, g, rfl, hanswers, (hwords.trans hsame).mem, (hwords.trans hsame).psn, (hwords.trans hsame).tagged, (hwords.trans hsame).fe⟩

/-- The response with words and their marks. -/
def respFlit (words : List (Nat × Nat)) (tag : Nat) : Flit :=
  { op := .resp, data := words.flatMap fun w => natLe 8 w.1, psn := words.map fun w => w.2, tags := tag }

theorem length_flatMap_natLe (words : List (Nat × Nat)) : (words.flatMap fun w => natLe 8 w.1).length = 8 * words.length := by
  induction words with
  | nil => rfl
  | cons w ws ih =>
    rw [List.flatMap_cons, List.length_append, ih, natLe_length, List.length_cons]
    omega

theorem answeredWith_resp (hej : (v.tile t).ejA = rest) (hwords : SameWords w v) (hhead : SameHead f f') {words : List (Nat × Nat)}
    (hfew : words.length ≤ 4) (tag : Nat) : answeredWith t f rest w words tag (.next (v.answer (.tile t) f' (respFlit words tag))) := by
  obtain ⟨g, hg, hanswers, hsame⟩ := answered hej hhead (r := respFlit words tag) rfl rfl
  refine ⟨_, g, rfl, hanswers, hg.data.trans (List.take_of_length_le ?_), hg.psn.trans (List.take_of_length_le ?_), hg.tags,
    (hwords.trans hsame).mem, (hwords.trans hsame).psn, (hwords.trans hsame).tagged, (hwords.trans hsame).fe⟩
  · rw [respFlit, length_flatMap_natLe]
    omega
  · rw [respFlit, List.length_map]
    exact hfew

end

/-! ## A request as its tile performs it -/

theorem gaOff_eq (a : Nat) : gaOff a = a % 2 ^ 19 := by
  rw [gaOff, bits, Nat.pow_zero, Nat.div_one]

theorem performAt_tile (s : State) (t : Nat) (f : Flit) :
    s.performAt (.tile t) f = (s.performFlit 0 (spad t (f.ga % 2 ^ 19)) f).2.respond (.tile t) f (s.performFlit 0 (spad t (f.ga % 2 ^ 19)) f).1 := by
  rw [← gaOff_eq]
  rfl

/-- The operations that are acknowledged. -/
def acknowledged (op : Op) : Bool :=
  match op with
  | .load | .atomicr | .tcancel | .loadcap | .ldc | .loadv => false
  | _ => true

theorem respond_ack {f : Flit} (hop : acknowledged f.op = true) (hflag : f.flag = 0) (s : State) (h : Home) (d : Done) :
    s.respond h f d = s.ackTo h f := by
  have hhome : s.flagHome h f d = s.ackTo h f := if_pos hflag
  unfold State.respond
  split
  case h_7 => exact hhome
  all_goals
    next hf =>
    rw [hf] at hop
    exact absurd hop Bool.false_ne_true

theorem respond_words {f : Flit} (hop : f.op = .load ∨ f.op = .atomicr ∨ f.op = .tcancel ∨ f.op = .loadcap ∨ f.op = .ldc)
    (s : State) (h : Home) (d : Done) : s.respond h f d = s.answer h f (respFlit d.words (boolNat d.tag)) := by
  obtain hop | hop | hop | hop | hop := hop <;> simp only [State.respond, hop] <;> rfl

section
variable {u v w : State} {t : Nat} {f : Flit} {rest : List Flit}

theorem performedAs_performAt (hack : acknowledged f.op = true) (hflag : f.flag = 0) {d : Done}
    (hperform : u.performFlit 0 (spad t (f.ga % 2 ^ 19)) f = (d, v)) (hej : (v.tile t).ejA = rest) (hwords : SameWords w v) :
    performedAs t f rest w (.next (u.performAt (.tile t) f)) := by
  rw [performAt_tile, respond_ack hack hflag, hperform]
  exact performedAs_ack hej hwords .refl

theorem answeredWith_performAt (hop : f.op = .load ∨ f.op = .atomicr ∨ f.op = .tcancel ∨ f.op = .loadcap ∨ f.op = .ldc) {d : Done}
    (hperform : u.performFlit 0 (spad t (f.ga % 2 ^ 19)) f = (d, v)) (hej : (v.tile t).ejA = rest) (hwords : SameWords w v)
    (hfew : d.words.length ≤ 4) : answeredWith t f rest w d.words (boolNat d.tag) (.next (u.performAt (.tile t) f)) := by
  rw [performAt_tile, respond_words hop, hperform]
  exact answeredWith_resp hej hwords .refl hfew _

end

section
variable {s : State} {t : Nat} {f : Flit} {rest : List Flit} (harrives : arrives s t f rest)
include harrives

theorem flag_of_arrives : f.flag = 0 := by
  obtain ⟨-, -, -, -, -, -, -, hflag, -⟩ := harrives
  exact hflag

theorem tile_lt_of_arrives : t < 4096 := by
  obtain ⟨-, -, -, -, -, -, -, -, hlt⟩ := harrives
  exact hlt

variable (hlast : f.flast = 0) (hbanks : banksGiven s t f) {i : Instr} {op : Op} (hop : f.op = op)
include hlast hbanks hop

theorem exec_single {act : Flit → State → State} (hexec : exec i s = s.homeStep (.tile t) op act) :
    ∃ u, Taken s u t rest ∧ exec i s = .next (act f u) := by
  obtain ⟨u, htaken, hstep⟩ := homeStep_single harrives hlast hbanks act
  exact ⟨u, htaken, (hop ▸ hexec).trans hstep⟩

/-- An acknowledged request does at the tile what F does. -/
theorem performed_single {F : State → State} (hexec : exec i s = s.homeStep (.tile t) op fun f s => s.performAt (.tile t) f)
    (hack : acknowledged op = true) (hdoes : Does F fun s => (s.performFlit 0 (spad t (f.ga % 2 ^ 19)) f).2) {w : State}
    (hw : SameWords w (F s)) : performedAs t f rest w (exec i s) := by
  obtain ⟨u, htaken, hstep⟩ := exec_single harrives hlast hbanks hop hexec
  rw [hstep, performAt_tile, respond_ack (hop ▸ hack) (flag_of_arrives harrives)]
  exact performedAs_ack ((hdoes.worked u).ejA.trans htaken.ejA) (hw.trans (hdoes.alike s u htaken.alike).sameWords) .refl

end

/-! ## Loads, stores, puts and atomics at a tile (R157, R160-R172) -/

theorem wordMark_eq (s : State) (a : Nat) : wordMark s a = s.mark a := rfl

theorem orWait_of_next {s u : State} {act : State → Host.Outcome State Fault Refusal} (h : act { s with stalled := false } = .next u)
    (hu : u.stalled = false) : s.orWait act = .next u := by
  rw [State.orWait, h]
  dsimp only
  rw [hu, if_neg Bool.false_ne_true]

theorem withStalled_setBytes (s : State) (b : Bool) (a : Nat) (bs : List Byte) :
    ({ s with stalled := b } : State).setBytes a bs = { s.setBytes a bs with stalled := b } := by
  induction bs generalizing s a with
  | nil => rfl
  | cons x bs ih => exact ih (s.setByte a x) (a + 1)

theorem withStalled_put {s : State} {a : Nat} (hspad : isSpad a = true) (herr : noErr s a) (b : Bool) (n v m : Nat) :
    ({ s with stalled := b } : State).put 0 a n v m = { s.put 0 a n v m with stalled := b } := by
  have herr' : noErr { s with stalled := b } a := herr
  by_cases hm : m = 0
  · subst hm
    cases hp : s.poisoned a
    · rw [put_clean hspad herr hp, put_clean hspad herr' hp]
      exact withStalled_setBytes (s.setTagAt a false) b a _
    · rw [put_at_poison hspad herr hp, put_at_poison hspad herr' hp]
      rfl
  · rw [put_marked hspad herr hm, put_marked hspad herr' hm]
    exact congrArg (fun v : State => v.setPoisoned a true) (withStalled_setBytes (s.setTagAt a false) b _ _)

theorem lookWords_of_noErr {s : State} {a n : Nat} (hspad : isSpad a = true) (herr : ∀ k, k < n → noErr s (a + 8 * k)) : s.lookWords a n = s := by
  induction n generalizing a with
  | zero => rfl
  | succ n ih =>
    rw [State.lookWords, look_of_noErr hspad (herr 0 (by omega))]
    refine ih ?_ fun k hk => ?_
    · simp only [isSpad, decide_eq_true_eq] at hspad ⊢
      omega
    · have h := herr (k + 1) (by omega)
      rwa [show a + 8 * (k + 1) = a + 8 + 8 * k by omega] at h

/-- The words read in one cycle, none with a stored error. -/
theorem alike_lookTogether {s u : State} (h : Alike s u) {a n : Nat} (hspad : isSpad a = true) (herr : ∀ k, k < n → noErr s (a + 8 * k)) :
    Alike s (u.together fun u => u.lookWords a n) := by
  have halike := (does_lookWords a n).together.alike s u h
  rw [lookWords_of_noErr hspad herr] at halike
  exact halike

theorem askHome_granted (s : State) (t id : Nat) (offs : List Nat) :
    (s.askHome (.tile t) id offs).1 = (offs.isEmpty || ((s.tile t).claimRows s.pkg t orderFabric id offs).holds orderFabric id) := by
  unfold State.askHome State.ask State.askEach
  simp only [List.foldl_cons, List.foldl_nil, List.all_cons, List.all_nil, Bool.and_true, updTile_tile_self]
  cases offs.isEmpty
  · cases h : ((s.tile t).claimRows s.pkg t orderFabric id offs).holds orderFabric id <;> simp
  · simp

theorem banksGiven_withStalled {s : State} {t : Nat} {f : Flit} (h : banksGiven s t f) (b : Bool) : banksGiven { s with stalled := b } t f := by
  rw [banksGiven, askHome_granted] at h ⊢
  exact h

section
variable {s : State} {t : Nat} {f : Flit} {rest : List Flit} (harrives : arrives s t f rest) (hlast : f.flast = 0) (hbanks : banksGiven s t f)
include harrives hlast hbanks

theorem load_request (hop : f.op = .load) (herr : noErr s (spad t (f.ga % 2 ^ 19))) :
    answeredWith t f rest s [(s.val (spad t (f.ga % 2 ^ 19)) f.size, wordMark s (spad t (f.ga % 2 ^ 19)))] 0 (exec (.load (.tile t)) s) := by
  obtain ⟨u, htaken, hstep⟩ := exec_single harrives hlast hbanks hop (i := .load (.tile t)) (act := fun f s => s.performAt (.tile t) f) rfl
  have hdoes := (does_look (spad t (f.ga % 2 ^ 19))).self
  have hlook : Alike s (u.look (spad t (f.ga % 2 ^ 19))) := by
    have halike := hdoes.alike s u htaken.alike
    rwa [look_of_noErr (isSpad_spad _ _) herr] at halike
  rw [hstep, performAt_tile, respond_words (.inl hop), performFlit_load _ _ hop, hlook.readAt, readAt_spad _ (isSpad_spad _ _)]
  exact answeredWith_resp ((hdoes.worked u).ejA.trans htaken.ejA) hlook.sameWords .refl (by simp) 0

/-- A request that does what a store of one word does, awaiting its channel or not. -/
theorem put_request (hop : f.op = .put) : performedAs t f rest
    (s.store 0 (spad t (f.ga % 2 ^ 19)) f.size (leNat f.data) (firstMark f.psn)) (exec (.put (.tile t)) s) := by
  refine performed_single harrives hlast hbanks hop rfl rfl
    ((does_store 0 (spad t (f.ga % 2 ^ 19)) f.size (leNat f.data) (firstMark f.psn)).self.congr (fun _ => rfl) fun u => ?_) (Alike.refl.sameWords)
  rw [performFlit_put u _ hop]

theorem store_request (hop : f.op = .store) (herr : noErr s (spad t (f.ga % 2 ^ 19))) : performedAs t f rest
    (s.store 0 (spad t (f.ga % 2 ^ 19)) f.size (leNat f.data) (firstMark f.psn)) (exec (.store (.tile t)) s) := by
  have hspad := isSpad_spad t (f.ga % 2 ^ 19)
  obtain ⟨u, htaken, hstep⟩ := homeStep_single (s := { s with stalled := false }) harrives hlast
    (banksGiven_withStalled hbanks false) fun f s => s.performAt (.tile t) f
  have hdoes := does_store 0 (spad t (f.ga % 2 ^ 19)) f.size (leNat f.data) (firstMark f.psn)
  have hput := hdoes.alike _ u htaken.alike
  rw [withStalled_put hspad herr] at hput
  have hack : u.performAt (.tile t) f = (u.store 0 (spad t (f.ga % 2 ^ 19)) f.size (leNat f.data) (firstMark f.psn)).ackTo (.tile t) f := by
    rw [performAt_tile, respond_ack (by rw [hop]; rfl) (flag_of_arrives harrives), performFlit_store _ _ hop]
  rw [hack, hop] at hstep
  have hexec : exec (.store (.tile t)) s =
      .next ((u.store 0 (spad t (f.ga % 2 ^ 19)) f.size (leNat f.data) (firstMark f.psn)).ackTo (.tile t) f) := by
    refine orWait_of_next (act := fun s => s.homeStep (.tile t) .store fun f s => s.performAt (.tile t) f) hstep ?_
    exact ((woken_answer _ _ _ _).alike.stalled).trans hput.stalled
  rw [hexec]
  refine performedAs_ack ((hdoes.worked u).ejA.trans htaken.ejA) (SameWords.trans ?_ hput.sameWords) .refl
  exact (woken_store s _ _ _ _ _).alike.symm.sameWords.trans ⟨rfl, rfl, rfl, fun _ => rfl⟩

theorem atomic_request (hop : f.op = .atomic) {r : AtomAnswer × State}
    (hr : s.atomic 0 (spad t (f.ga % 2 ^ 19)) f.fn f.aty f.opnd f.opndMark f.cmp f.cmpMark = r) :
    performedAs t f rest r.2 (exec (.atomic (.tile t)) s) := by
  obtain ⟨u, htaken, hstep⟩ := exec_single harrives hlast hbanks hop (i := .atomic (.tile t)) (act := fun f s => s.performAt (.tile t) f) rfl
  obtain ⟨-, halike⟩ := htaken.alike.atomic 0 (spad t (f.ga % 2 ^ 19)) f.fn f.aty f.opnd f.opndMark f.cmp f.cmpMark
  have hworked := worked_atomic u 0 (spad t (f.ga % 2 ^ 19)) f.fn f.aty f.opnd f.opndMark f.cmp f.cmpMark
  have hperform := performFlit_atomic u (spad t (f.ga % 2 ^ 19)) (.inl hop)
  rw [hr] at halike
  generalize u.atomic 0 (spad t (f.ga % 2 ^ 19)) f.fn f.aty f.opnd f.opndMark f.cmp f.cmpMark = q at halike hworked hperform
  rw [hstep]
  exact performedAs_performAt (hop ▸ rfl) (flag_of_arrives harrives) hperform (hworked.ejA.trans htaken.ejA) halike.sameWords

theorem atomicr_request (hop : f.op = .atomicr) {r : AtomAnswer × State}
    (hr : s.atomic 0 (spad t (f.ga % 2 ^ 19)) f.fn f.aty f.opnd f.opndMark f.cmp f.cmpMark = r) :
    answeredWith t f rest r.2 [(r.1.old, r.1.mark)] 0 (exec (.atomicr (.tile t)) s) := by
  obtain ⟨u, htaken, hstep⟩ := exec_single harrives hlast hbanks hop (i := .atomicr (.tile t)) (act := fun f s => s.performAt (.tile t) f) rfl
  obtain ⟨hanswer, halike⟩ := htaken.alike.atomic 0 (spad t (f.ga % 2 ^ 19)) f.fn f.aty f.opnd f.opndMark f.cmp f.cmpMark
  have hworked := worked_atomic u 0 (spad t (f.ga % 2 ^ 19)) f.fn f.aty f.opnd f.opndMark f.cmp f.cmpMark
  have hperform := performFlit_atomic u (spad t (f.ga % 2 ^ 19)) (.inr hop)
  rw [hr] at hanswer halike
  generalize u.atomic 0 (spad t (f.ga % 2 ^ 19)) f.fn f.aty f.opnd f.opndMark f.cmp f.cmpMark = q at hanswer halike hworked hperform
  rw [hanswer] at hperform
  rw [hstep]
  exact answeredWith_performAt (.inr (.inl hop)) hperform (hworked.ejA.trans htaken.ejA) halike.sameWords (Nat.le_add_left 1 3)

theorem loadcap_request (hop : f.op = .loadcap) (herr : ∀ k, k < 2 → noErr s (spad t (f.ga % 2 ^ 19) + 8 * k))
    (hlo : s.poisoned (spad t (f.ga % 2 ^ 19)) = false) (hhi : s.poisoned (spad t (f.ga % 2 ^ 19) + 8) = false) :
    answeredWith t f rest s [(s.val (spad t (f.ga % 2 ^ 19)) 8, 0), (s.val (spad t (f.ga % 2 ^ 19) + 8) 8, 0)]
      (if s.tagAt (spad t (f.ga % 2 ^ 19)) then 1 else 0) (exec (.loadcap (.tile t)) s) := by
  obtain ⟨u, htaken, hstep⟩ := exec_single harrives hlast hbanks hop (i := .loadcap (.tile t)) (act := fun f s => s.performAt (.tile t) f) rfl
  have hspad := isSpad_spad t (f.ga % 2 ^ 19)
  have hspad' : isSpad (spad t (f.ga % 2 ^ 19) + 8) = true := by
    simp only [isSpad, decide_eq_true_eq] at hspad ⊢
    omega
  have hlook := alike_lookTogether htaken.alike hspad herr
  have hworked := ((does_lookWords (spad t (f.ga % 2 ^ 19)) 2).together).worked u
  have hperform := performFlit_loadcap u (spad t (f.ga % 2 ^ 19)) hop
  generalize (u.together fun u => u.lookWords (spad t (f.ga % 2 ^ 19)) 2) = v at hlook hworked hperform
  have hread : pairDone (v.readCap 0 (spad t (f.ga % 2 ^ 19))) =
      { words := [(s.val (spad t (f.ga % 2 ^ 19)) 8, 0), (s.val (spad t (f.ga % 2 ^ 19) + 8) 8, 0)], tag := s.tagAt (spad t (f.ga % 2 ^ 19)) } := by
    rw [State.readCap, hlook.readAt, hlook.readAt, readAt_spad _ hspad, readAt_spad _ hspad', mark_of_clean hlo, mark_of_clean hhi,
      hlook.beside.tagAt]
    rfl
  rw [hstep, performAt_tile, respond_words (.inr (.inr (.inr (.inl hop)))), hperform, hread]
  exact answeredWith_resp (hworked.ejA.trans htaken.ejA) hlook.sameWords .refl (by simp) _

theorem storecap_request (hop : f.op = .storecap) : performedAs t f rest (s.storeCap 0 (spad t (f.ga % 2 ^ 19)) (leNat (f.data.take 8))
    (leNat ((f.data.drop 8).take 8)) (firstMark f.psn) (f.tags == 1)) (exec (.storecap (.tile t)) s) := by
  have hdoes := does_storeCap 0 (spad t (f.ga % 2 ^ 19)) (leNat (f.data.take 8)) (leNat ((f.data.drop 8).take 8)) (firstMark f.psn) (f.tags == 1)
  refine performed_single harrives hlast hbanks hop rfl rfl (hdoes.together.congr (fun _ => rfl) fun u => ?_)
    ((hdoes.alike s s .refl).symm.sameWords)
  exact performFlit_storecap u _ hop

end

end Sys2Proof.Machine

namespace Sys2Proof.Machine
open Sys2Proof.Claims

/-! ## Rows (R24, R36, R162, R163) -/

/-- Part i of a message. -/
def partOf (i : Nat) (f : Flit) : Flit := { f with fidx := i, data := (f.data.drop (32 * i)).take 32, psn := (f.psn.drop (4 * i)).take 4 }

/-- An answer of two flits of plane B. -/
theorem answer_pair (s : State) (t : Nat) (f : Flit) {r : Flit} (hplane : planeB r.op = true) (hlast : r.flast = 1) :
    ((s.answer (.tile t) f r).tile t).injB =
        (s.tile t).injB ++ [partOf 0 (replyTo (.tile t) f r), partOf 1 (replyTo (.tile t) f r)] ∧
      (s.answer (.tile t) f r).mem = s.mem := by
  have hparts : List.range ((replyTo (.tile t) f r).flast + 1) = [0, 1] := by
    rw [replyTo_flast, hlast]
    rfl
  have hflits : flitsOf (replyTo (.tile t) f r) = [partOf 0 (replyTo (.tile t) f r), partOf 1 (replyTo (.tile t) f r)] := by
    rw [flitsOf, hparts]
    rfl
  have hop (i : Nat) : planeB (partOf i (replyTo (.tile t) f r)).op = true := by
    rw [show (partOf i (replyTo (.tile t) f r)).op = r.op from replyTo_op _ _ _, hplane]
  rw [answer_eq, hflits]
  simp only [List.foldl_cons, List.foldl_nil, State.inject, hop, if_true, updTile_tile_self, List.append_assoc, List.cons_append, List.nil_append]
  exact ⟨trivial, rfl⟩

theorem partOf_reply (i : Nat) (h : Home) (f r : Flit) : (partOf i (replyTo h f r)).op = r.op ∧ (partOf i (replyTo h f r)).tag = f.tag ∧
    (partOf i (replyTo h f r)).home = f.src ∧ (partOf i (replyTo h f r)).data = (r.data.drop (32 * i)).take 32 ∧
    (partOf i (replyTo h f r)).psn = (r.psn.drop (4 * i)).take 4 := by
  obtain ⟨e, x, y, hreply⟩ := replyTo_eq h f r
  rw [partOf, hreply]
  exact ⟨rfl, rfl, rfl, rfl, rfl⟩

theorem take_append_take {α : Type} {l : List α} {n : Nat} (h : l.length = n + n) : (l.drop 0).take n ++ (l.drop n).take n = l := by
  rw [List.drop_zero, List.take_of_length_le (l := l.drop n) (by rw [List.length_drop, h]; omega), List.take_append_drop]

/-- The response with a row of eight words. -/
def rowResp (words : List (Nat × Nat)) : Flit :=
  { op := .respv, flast := 1, data := words.flatMap fun w => natLe 8 w.1, psn := words.map fun w => w.2 }

/-- A row in two parts. -/
theorem rowResp_parts (t : Nat) (f : Flit) {words : List (Nat × Nat)} (hlength : words.length = 8) :
    (partOf 0 (replyTo (.tile t) f (rowResp words))).data ++ (partOf 1 (replyTo (.tile t) f (rowResp words))).data =
        (words.flatMap fun w => natLe 8 w.1) ∧
      (partOf 0 (replyTo (.tile t) f (rowResp words))).psn ++ (partOf 1 (replyTo (.tile t) f (rowResp words))).psn =
        words.map fun w => w.2 := by
  obtain ⟨-, -, -, hdata, hpsn⟩ := partOf_reply 0 (.tile t) f (rowResp words)
  obtain ⟨-, -, -, hdata', hpsn'⟩ := partOf_reply 1 (.tile t) f (rowResp words)
  rw [hdata, hdata', hpsn, hpsn']
  refine ⟨take_append_take ?_, take_append_take ?_⟩
  · rw [rowResp, length_flatMap_natLe, hlength]
  · rw [rowResp, List.length_map, hlength]

/-- The words of a row as a load reads them. -/
theorem row_read {s v : State} {a : Nat} (hspad : isSpad a = true) (h : Alike s v) :
    ((List.range 8).map fun i => v.readAt 0 (a + 8 * i) 8) = (List.range 8).map fun k => (s.val (a + 8 * k) 8, wordMark s (a + 8 * k)) := by
  refine List.map_congr_left fun k hk => ?_
  have hword : isSpad (a + 8 * k) = true := by
    simp only [isSpad, decide_eq_true_eq] at hspad ⊢
    omega
  rw [h.readAt, readAt_spad _ hword, wordMark_eq]

theorem respond_row {f : Flit} (hop : f.op = .loadv) (s : State) (h : Home) (d : Done) : s.respond h f d = s.answer h f (rowResp d.words) := by
  simp only [State.respond, hop]
  rfl

section
variable {s : State} {t : Nat} {f : Flit} {rest : List Flit} (harrives : arrives s t f rest)
include harrives

theorem loadv_request (hlast : f.flast = 0) (hbanks : banksGiven s t f) (hop : f.op = .loadv)
    (herr : ∀ k, k < 8 → noErr s (spad t (f.ga % 2 ^ 19) + 8 * k)) :
    ∃ (u : State) (g1 g2 : Flit) (pre : List Flit), exec (.loadv (.tile t)) s = .next u ∧ u.mem = s.mem ∧
      (u.tile t).injB = pre ++ [g1, g2] ∧ g1.op = .respv ∧ g2.op = .respv ∧
      g1.tag = f.tag ∧ g2.tag = f.tag ∧ g1.home = f.src ∧ g2.home = f.src ∧ g1.fidx = 0 ∧ g2.fidx = 1 ∧
      g1.data ++ g2.data = ((List.range 8).flatMap fun k => natLe 8 (s.val (spad t (f.ga % 2 ^ 19) + 8 * k) 8)) ∧
      g1.psn ++ g2.psn = ((List.range 8).map fun k => wordMark s (spad t (f.ga % 2 ^ 19) + 8 * k)) := by
  obtain ⟨u, htaken, hstep⟩ := exec_single harrives hlast hbanks hop (i := .loadv (.tile t)) (act := fun f s => s.performAt (.tile t) f) rfl
  have hspad := isSpad_spad t (f.ga % 2 ^ 19)
  have hlook := alike_lookTogether htaken.alike hspad herr
  have hperform := performFlit_loadv u (spad t (f.ga % 2 ^ 19)) hop
  generalize (u.together fun u => u.lookWords (spad t (f.ga % 2 ^ 19)) 8) = v at hlook hperform
  rw [row_read hspad hlook] at hperform
  rw [hstep, performAt_tile, hperform, respond_row hop]
  generalize spad t (f.ga % 2 ^ 19) = a
  generalize hwords : (List.range 8).map (fun k => (s.val (a + 8 * k) 8, wordMark s (a + 8 * k))) = words
  have hlength : words.length = 8 := by rw [← hwords, List.length_map, List.length_range]
  obtain ⟨hinj, hmem⟩ := answer_pair v t f (r := rowResp words) rfl rfl
  obtain ⟨hdata, hpsn⟩ := rowResp_parts t f hlength
  obtain ⟨hop1, htag1, hhome1, -, -⟩ := partOf_reply 0 (.tile t) f (rowResp words)
  obtain ⟨hop2, htag2, hhome2, -, -⟩ := partOf_reply 1 (.tile t) f (rowResp words)
  refine ⟨_, _, _, _, rfl, hmem.trans hlook.mem, hinj, hop1, hop2, htag1, htag2, hhome1, hhome2, rfl, rfl, hdata.trans ?_, hpsn.trans ?_⟩
  · rw [← hwords, List.flatMap_map]
  · rw [← hwords, List.map_map]
    rfl

/-- The second flit of an acknowledged message does at the tile what F does. -/
theorem performed_second {g : Flit} (hsecond : secondPart s t g f) {i : Instr} {op : Op} (hop : f.op = op) {F : State → State}
    (hexec : exec i s = s.homeStep (.tile t) op fun f s => s.performAt (.tile t) f) (hack : acknowledged op = true)
    (hdoes : Does F fun s => (s.performFlit 0 (spad t (g.ga % 2 ^ 19)) (wholeOf g f)).2) {w : State} (hw : SameWords w (F s)) :
    performedAs t f rest w (exec i s) := by
  obtain ⟨u, htaken, hstep⟩ := homeStep_second harrives hsecond fun f s => s.performAt (.tile t) f
  have hhead := wholeOf_head hsecond
  have hflag : (wholeOf g f).flag = 0 := by
    obtain ⟨-, -, -, -, -, -, -, -, -, hflag, -⟩ := hsecond
    exact hflag
  rw [hexec, ← hop, hstep, performAt_tile, respond_ack (by rw [hhead.op, hop]; exact hack) hflag]
  exact performedAs_ack ((hdoes.worked u).ejA.trans htaken.ejA) (hw.trans (hdoes.alike s u htaken.alike).sameWords) hhead

theorem row_request {g : Flit} (hsecond : secondPart s t g f) :
    (f.op = .storev → performedAs t f rest (s.putWords 0 (spad t (g.ga % 2 ^ 19)) (g.data ++ f.data) g.bmask (g.psn ++ f.psn) 8)
      (exec (.storev (.tile t)) s)) ∧
    (f.op = .putv → performedAs t f rest (s.putWords 0 (spad t (g.ga % 2 ^ 19)) (g.data ++ f.data) g.bmask (g.psn ++ f.psn) 8)
      (exec (.putv (.tile t)) s)) := by
  have hhead := wholeOf_head hsecond
  have hdoes := does_storeRow 0 (spad t (g.ga % 2 ^ 19)) (wholeOf g f)
  refine ⟨fun hop => ?_, fun hop => ?_⟩
  · exact performed_second harrives hsecond hop rfl rfl (hdoes.congr (fun _ => rfl) fun u => performFlit_storev u _ (hhead.op.trans hop))
      Alike.refl.sameWords
  · refine performed_second harrives hsecond hop rfl rfl (hdoes.congr (fun _ => rfl) fun u => ?_) Alike.refl.sameWords
    rw [performFlit_putv u _ (hhead.op.trans hop)]
    rfl

end

theorem dataRequests : DataRequests := by
  intro s t f rest harrives h a mark
  refine ⟨fun hlast hbanks herr _ => ⟨fun hop => ?_, fun hop => ?_, fun hop => ?_⟩, fun hlast hbanks herr => ?_,
    fun hlast hbanks _ hlo hhi => ⟨fun hop hclo hchi => ?_, fun hop => ?_⟩, fun hlast hbanks herr hop => ?_, fun g hsecond _ => ?_⟩
  · exact load_request harrives hlast hbanks hop herr
  · exact store_request harrives hlast hbanks hop herr
  · exact put_request harrives hlast hbanks hop
  · generalize hr : s.atomic 0 a f.fn f.aty f.opnd f.opndMark f.cmp f.cmpMark = r
    exact ⟨fun hop => atomic_request harrives hlast hbanks hop hr, fun hop => atomicr_request harrives hlast hbanks hop hr⟩
  · refine loadcap_request harrives hlast hbanks hop (fun k hk => ?_) hclo hchi
    obtain rfl | rfl : k = 0 ∨ k = 1 := by omega
    · exact hlo
    · exact hhi
  · exact storecap_request harrives hlast hbanks hop
  · exact loadv_request harrives hlast hbanks hop herr
  · exact row_request harrives hsecond

end Sys2Proof.Machine

namespace Sys2Proof.Machine
open Sys2Proof.Claims

/-! ## FE of a word at its home, with nothing waiting for it (R173, R174, R308) -/

theorem spadTile_spad (t : Nat) {o : Nat} (ho : o < 2 ^ 19) : spadTile (spad t o) = t := by
  rw [spadTile, spad]
  omega

section
variable {s u v w : State} {t : Nat} {rest : List Flit}

/-- What taking a flit leaves of the tile. -/
structure Untaken (x y : Tile) : Prop where
  monitors : y.monitors = x.monitors
  windows : y.windows = x.windows
  withdrawn : y.withdrawn = x.withdrawn
  injB : y.injB = x.injB
  threads : y.threads = x.threads
  settings : y.ctx = x.ctx ∧ y.region = x.region ∧ y.halt = x.halt

theorem Taken.untaken (h : Taken s u t rest) : Untaken (s.tile t) (u.tile t) := by
  obtain ⟨_, _, _, _, _, htile⟩ := h.tile
  rw [htile]
  exact ⟨rfl, rfl, rfl, rfl, rfl, rfl, rfl, rfl⟩

theorem Taken.noFeWaiter (h : Taken s u t rest) {a : Nat} (ha : spadTile a = t) (hno : noFeWaiter s a) : noFeWaiter u a := by
  rw [Claims.noFeWaiter, ha] at hno ⊢
  simpa only [h.untaken.monitors, State.thr, Tile.thread, h.untaken.threads] using hno

theorem Alike.noErr (h : Alike s u) {a : Nat} (herr : noErr s a) : noErr u a := by
  obtain ⟨⟨_, _, _, rfl⟩, -⟩ := h
  exact herr

theorem Alike.full (h : Alike s u) : u.full = s.full := by
  obtain ⟨⟨_, _, _, rfl⟩, -⟩ := h
  rfl

theorem SameWords.symm (h : SameWords s u) : SameWords u s := ⟨h.mem.symm, h.psn.symm, h.tagged.symm, fun c => (h.fe c).symm⟩

theorem SameWords.setFe (h : SameWords s u) (a : Nat) (b : Bool) : SameWords (s.setFe a b) (u.setFe a b) :=
  ⟨h.mem, h.psn, h.tagged, fun c => by rw [setFe_fe, setFe_fe, h.fe]⟩

theorem feTo_sameWords {a : Nat} (hno : Claims.noFeWaiter s a) (b : Bool) : SameWords (s.setFe a b) (s.feTo a b) := by
  have hfe := feTo_fe hno b
  obtain ⟨l, hl⟩ := feTo_onlyFe hno b
  rw [hl] at hfe ⊢
  exact ⟨rfl, rfl, rfl, fun c => (hfe c).trans (setFe_fe s a c b).symm⟩

theorem worked_of_tiles (h : u.tiles = s.tiles) : Worked s u :=
  ⟨fun t => by rw [State.tile, State.tile, h]; exact .refl _⟩

theorem feTo_worked {a : Nat} (hno : Claims.noFeWaiter s a) (b : Bool) : Worked s (s.feTo a b) := by
  obtain ⟨l, hl⟩ := feTo_onlyFe hno b
  rw [hl]
  exact ⟨fun _ => .refl _⟩

theorem Woken.sameWords (h : Woken s u) : SameWords s u := h.alike.sameWords

/-- What is done with nothing waiting for FE is done in the accesses of one cycle too. -/
theorem together_sameWords {G : State → State} (h : ∀ v, Woken u v → SameWords w (G v) ∧ Worked v (G v)) :
    SameWords w (u.together G) ∧ Worked u (u.together G) := by
  unfold State.together
  split
  · exact h u .refl
  · have hcollect : Woken u u.collect := woken_batch u _
    obtain ⟨hwords, hworked⟩ := h _ hcollect
    have hwake := woken_wakeAll (G u.collect)
    exact ⟨hwords.trans hwake.sameWords, (hcollect.worked.trans hworked).trans hwake.worked⟩

theorem fillWords_worked {n : Nat} {s : State} {a : Nat} (hno : ∀ i, i < n → Claims.noFeWaiter s (a + 8 * i)) : Worked s (s.fillWords a n) := by
  induction n generalizing s a with
  | zero => exact .refl
  | succ n ih =>
    have htouch := woken_touch s a
    have hfirst : Claims.noFeWaiter (s.touch a) a := htouch.noFeWaiter (hno 0 (Nat.succ_pos n))
    rw [State.fillWords]
    refine (htouch.worked.trans (feTo_worked hfirst true)).trans (ih fun i hi => ?_)
    have hnext := htouch.noFeWaiter (hno (i + 1) (Nat.succ_lt_succ hi))
    rw [show a + 8 * (i + 1) = a + 8 + 8 * i by ring] at hnext
    obtain ⟨l, hl⟩ := feTo_onlyFe hfirst true
    rw [hl]
    exact noFeWaiter_of_tiles rfl hnext

section
variable {a : Nat} (hspad : isSpad a = true)
include hspad

theorem scrub_worked (hno : ∀ i, i < 8 → Claims.noFeWaiter s (a + 8 * i)) : Worked s (s.scrub 0 a) := by
  have hclean : Worked s (s.cleanWords a 8) := worked_of_tiles (cleanWords_tiles s a 8)
  have hno' : ∀ i, i < 8 → Claims.noFeWaiter (s.cleanWords a 8) (a + 8 * i) := fun i hi => noFeWaiter_of_tiles (cleanWords_tiles s a 8) (hno i hi)
  rw [State.scrub]
  rw [if_pos hspad]
  exact hclean.trans (fillWords_worked hno')

variable (ha : a % 64 = 0)
include ha

theorem scrub_sameWords (hs : ∀ i, i < 8 → Claims.noFeWaiter s (a + 8 * i)) (hu : ∀ i, i < 8 → Claims.noFeWaiter u (a + 8 * i)) (h : Alike s u) :
    SameWords (s.scrub 0 a) (u.scrub 0 a) := by
  have hclean : SameWords (s.cleanWords a 8) (u.cleanWords a 8) :=
    (Apart.alike (F := fun s => s.cleanWords a 8) (fun s ts rs l => under_cleanWords s ts rs l a 8) h).sameWords
  have hfill := scrub_filled hspad ha hs
  have hfill' := scrub_filled hspad ha hu
  refine ⟨?_, ?_, ?_, fun c => ?_⟩
  · rw [hfill'.mem, hclean.mem, hfill.mem]
  · rw [hfill'.psn, hclean.psn, hfill.psn]
  · rw [hfill'.tagged, hclean.tagged, hfill.tagged]
  · rw [hfill'.fe, hfill.fe, hclean.fe]

end
end

/-! ## FESET, SCRUB and POISON (R175, R308, R309) -/

section
variable {s : State} {t : Nat} {f : Flit} {rest : List Flit} (harrives : arrives s t f rest) (hlast : f.flast = 0) (hbanks : banksGiven s t f)
include harrives hlast hbanks

theorem feset_request (hop : f.op = .feset) (hno : noFeWaiter s (spad t (f.ga % 2 ^ 19))) :
    performedAs t f rest (s.setFe (spad t (f.ga % 2 ^ 19)) (f.opnd == 1)) (exec (.fesetRequest (.tile t)) s) := by
  obtain ⟨u, htaken, hstep⟩ := exec_single harrives hlast hbanks hop (i := .fesetRequest (.tile t)) (act := fun f s => s.performAt (.tile t) f) rfl
  have hno' := htaken.noFeWaiter (spadTile_spad t (Nat.mod_lt _ (by norm_num))) hno
  rw [hstep]
  exact performedAs_performAt (hop ▸ rfl) (flag_of_arrives harrives) (performFlit_feset u _ hop) ((feTo_worked hno' _).ejA.trans htaken.ejA)
    ((htaken.alike.sameWords.setFe _ _).trans (feTo_sameWords hno' _))

theorem poison_request (hop : f.op = .poison) :
    performedAs t f rest (s.store 0 (spad t (f.ga % 2 ^ 19)) 8 0 9) (exec (.poisonRequest (.tile t)) s) := by
  refine performed_single harrives hlast hbanks hop rfl rfl ((does_store 0 (spad t (f.ga % 2 ^ 19)) 8 0 9).self.congr
    (fun _ => rfl) fun u => ?_) (Alike.refl.sameWords)
  rw [performFlit_poison u _ hop]

theorem scrub_request (hop : f.op = .scrub) (ha : f.ga % 64 = 0) (hno : ∀ k, k < 8 → noFeWaiter s (spad t (f.ga % 2 ^ 19) + 8 * k)) :
    performedAs t f rest (s.scrub 0 (spad t (f.ga % 2 ^ 19))) (exec (.scrubRequest (.tile t)) s) := by
  obtain ⟨u, htaken, hstep⟩ := exec_single harrives hlast hbanks hop (i := .scrubRequest (.tile t)) (act := fun f s => s.performAt (.tile t) f) rfl
  have hspad := isSpad_spad t (f.ga % 2 ^ 19)
  have hrow : spad t (f.ga % 2 ^ 19) % 64 = 0 := by
    rw [spad, spadBase]
    omega
  have hno' : ∀ k, k < 8 → noFeWaiter u (spad t (f.ga % 2 ^ 19) + 8 * k) := fun k hk => by
    refine htaken.noFeWaiter ?_ (hno k hk)
    rw [spad, Nat.add_assoc, ← spad]
    exact spadTile_spad t (by omega)
  obtain ⟨hwords, hworked⟩ := together_sameWords (u := u) (w := s.scrub 0 (spad t (f.ga % 2 ^ 19))) (G := fun s => s.scrub 0 (spad t (f.ga % 2 ^ 19)))
    fun v hv => ⟨scrub_sameWords hspad hrow hno (fun k hk => hv.noFeWaiter (hno' k hk)) (htaken.alike.trans hv.alike),
      scrub_worked hspad fun k hk => hv.noFeWaiter (hno' k hk)⟩
  rw [hstep]
  exact performedAs_performAt (hop ▸ rfl) (flag_of_arrives harrives) (performFlit_scrub u _ hop) (hworked.ejA.trans htaken.ejA) hwords

end
end Sys2Proof.Machine

namespace Sys2Proof.Machine
open Sys2Proof.Claims

/-! ## LDC and STP of another tile (R173, R174, R358) -/

/-- A request that waits is registered, or told that the table is full. -/
def waitsAt (s : State) (t : Nat) (f : Flit) (rest : List Flit) (i : Instr) : Prop :=
  ((s.tile t).monitors.length < 64 → ∃ u, exec i s = .next u ∧ (u.tile t).monitors = (s.tile t).monitors ++ [f] ∧
    (u.tile t).ejA = rest ∧ u.mem = s.mem ∧ u.full = s.full) ∧
  (64 ≤ (s.tile t).monitors.length → ∃ u g, exec i s = .next u ∧ answersWith u t f rest .notreg g ∧ u.mem = s.mem ∧
    (u.tile t).monitors = (s.tile t).monitors)

section
variable {s u : State} {t : Nat} {f : Flit} {rest : List Flit} {i : Instr}

theorem Taken.alike_answer (h : Taken s u t rest) (r : Flit) : Alike s (u.answer (.tile t) f r) :=
  h.alike.trans (woken_answer u _ f r).alike

/-- An answer of one flit by the tile, with nothing else done. -/
theorem Taken.answered (h : Taken s u t rest) {r : Flit} (hplane : planeB r.op = true) (hlast : r.flast = 0) :
    ∃ g, Answers (.tile t) f r g ∧ answersWith (u.answer (.tile t) f r) t f rest r.op g ∧ (u.answer (.tile t) f r).mem = s.mem ∧
      (u.answer (.tile t) f r).tile t = { u.tile t with injB := (u.tile t).injB ++ [g] } := by
  obtain ⟨g, hg, hanswer⟩ := answer_single u t f hplane hlast
  have hmem := (h.alike_answer (f := f) r).mem
  rw [hanswer] at hmem ⊢
  exact ⟨g, hg, hg.answersWith .refl h.ejA rfl, hmem, updTile_tile_self _ _ _⟩

theorem waits_register (h : Taken s u t rest) (hexec : exec i s = .next (u.register (.tile t) f)) : waitsAt s t f rest i := by
  have hmonitors := h.untaken.monitors
  have hroom : u.monitorRoom t = decide ((s.tile t).monitors.length < 64) := by rw [State.monitorRoom, hmonitors]
  refine ⟨fun hlt => ?_, fun hge => ?_⟩
  · have hregister : u.register (.tile t) f = u.updTile t fun x => { x with monitors := x.monitors ++ [f] } :=
      if_pos (by rw [hroom]; exact decide_eq_true hlt)
    rw [hregister] at hexec
    refine ⟨_, hexec, ?_, ?_, h.alike.mem, h.alike.full⟩
    · rw [updTile_tile_self, hmonitors]
    · rw [updTile_tile_self]
      exact h.ejA
  · have hregister : u.register (.tile t) f = u.answer (.tile t) f { op := .notreg } :=
      if_neg (by rw [hroom]; simpa using hge)
    rw [hregister] at hexec
    obtain ⟨g, -, hanswers, hmem, htile⟩ := h.answered (f := f) (r := { op := .notreg }) rfl rfl
    refine ⟨_, g, hexec, hanswers, hmem, ?_⟩
    rw [htile]
    exact hmonitors

theorem Worked.noFeWaiter (h : Worked s u) {a : Nat} (hno : Claims.noFeWaiter s a) : Claims.noFeWaiter u a :=
  (h.tile (spadTile a)).noFeWaiter hno

theorem Taken.withdrew (h : Taken s u t rest) : u.withdrew (.tile t) f = s.withdrew (.tile t) f := by
  rw [State.withdrew, State.withdrew, h.untaken.withdrawn]

theorem feRequest_withdrawn (h : Taken s u t rest) (hw : s.withdrew (.tile t) f = true) : ∃ g,
    answersWith (u.feRequest (.tile t) f) t f rest .removed g ∧
    (u.feRequest (.tile t) f).mem = s.mem ∧ (u.feRequest (.tile t) f).full = s.full ∧ (u.feRequest (.tile t) f).withdrew (.tile t) f = false := by
  have hfe : u.feRequest (.tile t) f = (u.updTile t fun x => { x with withdrawn := x.withdrawn.filter fun g => !sameRequest f g }).answer (.tile t) f
      { op := .removed } := if_pos (h.withdrew.trans hw)
  have halike := h.alike.trans (alike_updTile u t (g := fun x => { x with withdrawn := x.withdrawn.filter fun g => !sameRequest f g }) rfl)
  have hej : ((u.updTile t fun x => { x with withdrawn := x.withdrawn.filter fun g => !sameRequest f g }).tile t).ejA = rest := by
    rw [updTile_tile_self]
    exact h.ejA
  have hnone : (u.updTile t fun x => { x with withdrawn := x.withdrawn.filter fun g => !sameRequest f g }).withdrew (.tile t) f = false := by
    rw [State.withdrew, updTile_tile_self]
    simp [List.any_eq_false]
  rw [hfe]
  generalize (u.updTile t fun x => { x with withdrawn := x.withdrawn.filter fun g => !sameRequest f g }) = v at halike hej hnone
  obtain ⟨g, hg, hanswer⟩ := answer_single v t f (r := { op := .removed }) rfl rfl
  rw [hanswer]
  refine ⟨g, hg.answersWith .refl hej rfl, halike.mem, halike.full, ?_⟩
  rw [State.withdrew, updTile_tile_self]
  exact hnone

theorem feRequest_performed (h : Taken s u t rest) (hw : s.withdrew (.tile t) f = false)
    (hfe : s.fe (spad t (f.ga % 2 ^ 19)) = (f.op == .ldc)) : u.feRequest (.tile t) f = u.performAt (.tile t) f := by
  have hu : u.fe (flatOf (.tile t) f) = (f.op == .ldc) := by
    rw [flatOf, gaOff_eq, h.alike.beside.fe, hfe]
  rw [State.feRequest, h.withdrew, hw]
  simp only [Bool.false_eq_true, if_false, hu, if_true]

theorem feRequest_registered (h : Taken s u t rest) (hw : s.withdrew (.tile t) f = false)
    (hfe : s.fe (spad t (f.ga % 2 ^ 19)) ≠ (f.op == .ldc)) : u.feRequest (.tile t) f = u.register (.tile t) f := by
  have hu : u.fe (flatOf (.tile t) f) ≠ (f.op == .ldc) := by
    rw [flatOf, gaOff_eq, h.alike.beside.fe]
    exact hfe
  rw [State.feRequest, h.withdrew, hw]
  simp only [Bool.false_eq_true, if_false, hu]

end

section
variable {s : State} {t : Nat} {f : Flit} {rest : List Flit} (harrives : arrives s t f rest) (hlast : f.flast = 0) (hbanks : banksGiven s t f)
include harrives hlast hbanks

theorem withdrawn_request (hop : f.op = .ldc ∨ f.op = .stp) (hw : s.withdrew (.tile t) f = true) {i : Instr}
    (hev : requestEvent f.op (.tile t) = some i) : ∃ u g, exec i s = .next u ∧ answersWith u t f rest .removed g ∧ u.mem = s.mem ∧
      u.full = s.full ∧ u.withdrew (.tile t) f = false := by
  have hexec : ∃ u, Taken s u t rest ∧ exec i s = .next (u.feRequest (.tile t) f) := by
    obtain hop | hop := hop
    · obtain rfl : Instr.ldcRequest (.tile t) = i := by rw [hop] at hev; exact Option.some.inj hev
      exact exec_single harrives hlast hbanks hop (act := fun f s => s.feRequest (.tile t) f) rfl
    · obtain rfl : Instr.stpRequest (.tile t) = i := by rw [hop] at hev; exact Option.some.inj hev
      exact exec_single harrives hlast hbanks hop (act := fun f s => s.feRequest (.tile t) f) rfl
  obtain ⟨u, htaken, hstep⟩ := hexec
  obtain ⟨g, hanswers, hmem, hfull, hnone⟩ := feRequest_withdrawn htaken hw
  exact ⟨_, g, hstep, hanswers, hmem, hfull, hnone⟩

theorem ldc_request (hop : f.op = .ldc) (hw : s.withdrew (.tile t) f = false) (herr : noErr s (spad t (f.ga % 2 ^ 19)))
    (hno : noFeWaiter s (spad t (f.ga % 2 ^ 19))) :
    (s.fe (spad t (f.ga % 2 ^ 19)) = true → answeredWith t f rest (s.setFe (spad t (f.ga % 2 ^ 19)) false)
      [(s.val (spad t (f.ga % 2 ^ 19)) 8, wordMark s (spad t (f.ga % 2 ^ 19)))] 0 (exec (.ldcRequest (.tile t)) s)) ∧
    (s.fe (spad t (f.ga % 2 ^ 19)) = false → waitsAt s t f rest (.ldcRequest (.tile t))) := by
  obtain ⟨u, htaken, hstep⟩ := exec_single harrives hlast hbanks hop (i := .ldcRequest (.tile t)) (act := fun f s => s.feRequest (.tile t) f) rfl
  have hspad := isSpad_spad t (f.ga % 2 ^ 19)
  have hno' := htaken.noFeWaiter (spadTile_spad t (Nat.mod_lt _ (by norm_num))) hno
  refine ⟨fun hfe => ?_, fun hfe => ?_⟩
  · rw [feRequest_performed htaken hw (by rw [hfe, hop]; rfl)] at hstep
    have hperform := performFlit_ldc u (spad t (f.ga % 2 ^ 19)) hop
    rw [look_of_noErr hspad (htaken.alike.noErr herr), htaken.alike.readAt, readAt_spad _ hspad] at hperform
    rw [hstep]
    exact answeredWith_performAt (.inr (.inr (.inr (.inr hop)))) hperform ((feTo_worked hno' _).ejA.trans htaken.ejA)
      ((htaken.alike.sameWords.setFe _ _).trans (feTo_sameWords hno' _)) (Nat.le_add_left 1 3)
  · rw [feRequest_registered htaken hw (by rw [hfe, hop]; decide)] at hstep
    exact waits_register htaken hstep

theorem stp_request (hop : f.op = .stp) (hw : s.withdrew (.tile t) f = false) (hno : noFeWaiter s (spad t (f.ga % 2 ^ 19))) :
    (s.fe (spad t (f.ga % 2 ^ 19)) = false → performedAs t f rest ((s.store 0 (spad t (f.ga % 2 ^ 19)) 8 f.opnd f.opndMark).setFe
      (spad t (f.ga % 2 ^ 19)) true) (exec (.stpRequest (.tile t)) s)) ∧
    (s.fe (spad t (f.ga % 2 ^ 19)) = true → waitsAt s t f rest (.stpRequest (.tile t))) := by
  obtain ⟨u, htaken, hstep⟩ := exec_single harrives hlast hbanks hop (i := .stpRequest (.tile t)) (act := fun f s => s.feRequest (.tile t) f) rfl
  have hno' := htaken.noFeWaiter (spadTile_spad t (Nat.mod_lt _ (by norm_num))) hno
  refine ⟨fun hfe => ?_, fun hfe => ?_⟩
  · rw [feRequest_performed htaken hw (by rw [hfe, hop]; rfl)] at hstep
    have hperform := performFlit_stp u (spad t (f.ga % 2 ^ 19)) hop
    have hdoes := does_put 0 (spad t (f.ga % 2 ^ 19)) 8 f.opnd f.opndMark
    have hput := hdoes.alike s u htaken.alike
    have hworked := hdoes.worked u
    have hstored := (woken_store s 0 (spad t (f.ga % 2 ^ 19)) 8 f.opnd f.opndMark).sameWords.symm
    have hnone := hworked.noFeWaiter hno'
    generalize u.put 0 (spad t (f.ga % 2 ^ 19)) 8 f.opnd f.opndMark = q at *
    have htouch := woken_touch (q.feTo (spad t (f.ga % 2 ^ 19)) true) (spad t (f.ga % 2 ^ 19))
    have hwords := (hstored.trans hput.sameWords).setFe (spad t (f.ga % 2 ^ 19)) true
    rw [hstep]
    exact performedAs_performAt (hop ▸ rfl) (flag_of_arrives harrives) hperform
      (((hworked.trans (feTo_worked hnone true)).trans htouch.worked).ejA.trans htaken.ejA)
      ((hwords.trans (feTo_sameWords hnone true)).trans htouch.sameWords)
  · rw [feRequest_registered htaken hw (by rw [hfe, hop]; decide)] at hstep
    exact waits_register htaken hstep

end

/-! ## Monitors of another tile (R177, R178, R358) -/

/-- The condition of an arm on a flag word whose count is n. -/
def metBy (f : Flit) (n : Nat) : Prop := if f.cmp = 1 then n = f.opnd else f.opnd ≤ n

section
variable {s u : State} {t : Nat} {f : Flit} {rest : List Flit}

theorem flagAt_unmarked {a : Nat} (ha : a % 8 = 0) (hp : s.poisoned a = false) (hcls : s.val a 8 / 2 ^ 40 % 256 = 0) :
    s.flagAt a = (s.val a 8 % 2 ^ 40, 0) := by
  refine Prod.ext (flagAt_count ha) ?_
  have hflag : flagCls (s.val a 8) = 0 := hcls
  rw [State.flagAt, hp, show a / 8 * 8 = a by omega, hflag]
  rfl

theorem decided_unmarked (f : Flit) (n : Nat) : decided (n, 0) (f.cmp == 1) f.opnd = true ↔ metBy f n := by
  rw [decided, metBy, meets]
  by_cases h : f.cmp = 1 <;> simp [h]

theorem keepWithdrawal_of_withdrawn {x y : Tile} (h : y.withdrawn = x.withdrawn) (f : Flit) :
    (y.keepWithdrawal f).withdrawn = (x.keepWithdrawal f).withdrawn := by
  unfold Tile.keepWithdrawal
  simp only [apply_ite Tile.withdrawn, h]

variable (harrives : arrives s t f rest) (hlast : f.flast = 0) (hbanks : banksGiven s t f)
include harrives hlast hbanks

theorem arm_request (hop : f.op = .arm) (herr : noErr s (spad t (f.ga % 2 ^ 19))) (hga : f.ga % 8 = 0)
    (hp : s.poisoned (spad t (f.ga % 2 ^ 19)) = false) (hcls : s.val (spad t (f.ga % 2 ^ 19)) 8 / 2 ^ 40 % 256 = 0) :
    (metBy f (s.val (spad t (f.ga % 2 ^ 19)) 8 % 2 ^ 40) → ∃ u g, exec (.arm (.tile t)) s = .next u ∧ answersWith u t f rest .fire g ∧
      g.found = true ∧ g.opndMark = 0 ∧ u.mem = s.mem) ∧
    (¬metBy f (s.val (spad t (f.ga % 2 ^ 19)) 8 % 2 ^ 40) → f.once = true → ∃ u g, exec (.arm (.tile t)) s = .next u ∧
      answersWith u t f rest .fire g ∧ g.found = false ∧ u.mem = s.mem) ∧
    (¬metBy f (s.val (spad t (f.ga % 2 ^ 19)) 8 % 2 ^ 40) → f.once = false → waitsAt s t f rest (.arm (.tile t))) := by
  obtain ⟨u, htaken, hstep⟩ := exec_single harrives hlast hbanks hop (i := .arm (.tile t)) (act := fun f s =>
    if decided (s.armFlag (.tile t) f).1.1 (f.cmp == 1) f.opnd then
      (s.armFlag (.tile t) f).2.answer (.tile t) f (fireFlit (s.armFlag (.tile t) f).1.1 (s.armFlag (.tile t) f).1.2)
    else if f.once then (s.armFlag (.tile t) f).2.answer (.tile t) f { op := .fire }
    else (s.armFlag (.tile t) f).2.register (.tile t) f) rfl
  have hword : spad t (f.ga % 2 ^ 19) % 8 = 0 := spad_mod t (by omega)
  have hflag : u.flagAt (spad t (f.ga % 2 ^ 19)) = (s.val (spad t (f.ga % 2 ^ 19)) 8 % 2 ^ 40, 0) := by
    rw [flagAt_unmarked hword (by rw [htaken.alike.beside.poisoned, hp]) (by rw [htaken.alike.val, hcls]), htaken.alike.val]
  have harm : u.armFlag (.tile t) f = (((s.val (spad t (f.ga % 2 ^ 19)) 8 % 2 ^ 40, 0), u.flagFrom (spad t (f.ga % 2 ^ 19))), u) := by
    dsimp only [State.armFlag]
    rw [gaOff_eq, look_of_noErr (isSpad_spad t _) (htaken.alike.noErr herr), hflag]
  rw [harm] at hstep
  dsimp only at hstep
  generalize s.val (spad t (f.ga % 2 ^ 19)) 8 % 2 ^ 40 = n at *
  have hdecided := decided_unmarked f n
  refine ⟨fun hmet => ?_, fun hmet honce => ?_, fun hmet honce => ?_⟩
  · rw [if_pos (hdecided.mpr hmet)] at hstep
    obtain ⟨g, hg, hanswers, hmem, -⟩ := htaken.answered (f := f) (r := fireFlit (n, 0) (u.flagFrom (spad t (f.ga % 2 ^ 19)))) rfl rfl
    exact ⟨_, g, hstep, hanswers, hg.found, hg.opndMark, hmem⟩
  · rw [if_neg (mt hdecided.mp hmet), if_pos honce] at hstep
    obtain ⟨g, hg, hanswers, hmem, -⟩ := htaken.answered (f := f) (r := { op := .fire }) rfl rfl
    exact ⟨_, g, hstep, hanswers, hg.found, hmem⟩
  · rw [if_neg (mt hdecided.mp hmet), if_neg (by rw [honce]; exact Bool.false_ne_true)] at hstep
    exact waits_register htaken hstep

theorem disarm_request (hop : f.op = .disarm) : ∃ u, exec (.disarm (.tile t)) s = .next u ∧ u.mem = s.mem ∧
    (u.tile t).monitors = (s.tile t).monitors.filter fun g => !sameRequest f g := by
  obtain ⟨u, htaken, hstep⟩ := exec_single harrives hlast hbanks hop (i := .disarm (.tile t))
    (act := fun f s => s.updTile t fun x => { x with monitors := x.monitors.filter fun g => !sameRequest f g }) rfl
  refine ⟨_, hstep, htaken.alike.mem, ?_⟩
  rw [updTile_tile_self, htaken.untaken.monitors]

theorem withdraw_step (hop : f.op = .withdraw) : ∃ u, Taken s u t rest ∧ exec (.withdraw (.tile t)) s = .next
    (if (s.tile t).monitors.any (sameRequest f) then
      (u.updTile t fun x => { x with monitors := x.monitors.filter fun g => !sameRequest f g }).answer (.tile t) f { op := .removed }
    else u.updTile t fun x => x.keepWithdrawal f) := by
  have hrunning : ¬((s.tile t).halt = .settled ∧ (s.tile t).fenced = false) := by
    obtain ⟨-, -, -, -, -, hhalt, -⟩ := harrives
    exact fun h => hhalt h.1
  obtain ⟨u, htaken, hstep⟩ := exec_single harrives hlast hbanks hop (i := .withdraw (.tile t)) (act := fun f v =>
    if (v.tile t).monitors.any (sameRequest f) then
      (v.updTile t fun x => { x with monitors := x.monitors.filter fun g => !sameRequest f g }).answer (.tile t) f { op := .removed }
    else v.updTile t fun x => x.keepWithdrawal f) (if_neg hrunning)
  rw [htaken.untaken.monitors] at hstep
  exact ⟨u, htaken, hstep⟩

theorem withdraw_registered (hop : f.op = .withdraw) (hany : (s.tile t).monitors.any (sameRequest f) = true) :
    ∃ u g, exec (.withdraw (.tile t)) s = .next u ∧ u.mem = s.mem ∧ answersWith u t f rest .removed g ∧
      (u.tile t).monitors = (s.tile t).monitors.filter fun g => !sameRequest f g := by
  obtain ⟨u, htaken, hstep⟩ := withdraw_step harrives hlast hbanks hop
  rw [if_pos hany] at hstep
  have halike := htaken.alike.trans (alike_updTile u t (g := fun x => { x with monitors := x.monitors.filter fun g => !sameRequest f g }) rfl)
  have htile : (u.updTile t fun x => { x with monitors := x.monitors.filter fun g => !sameRequest f g }).tile t =
      { u.tile t with monitors := (s.tile t).monitors.filter fun g => !sameRequest f g } := by
    rw [updTile_tile_self, htaken.untaken.monitors]
  generalize (u.updTile t fun x => { x with monitors := x.monitors.filter fun g => !sameRequest f g }) = v at hstep halike htile
  obtain ⟨g, hg, hanswer⟩ := answer_single v t f (r := { op := .removed }) rfl rfl
  rw [hanswer] at hstep
  refine ⟨_, g, hstep, halike.mem, hg.answersWith .refl ?_ rfl, ?_⟩
  · rw [htile]
    exact htaken.ejA
  · rw [updTile_tile_self, htile]

theorem withdraw_early (hop : f.op = .withdraw) (hany : (s.tile t).monitors.any (sameRequest f) = false) :
    ∃ u, exec (.withdraw (.tile t)) s = .next u ∧ u.mem = s.mem ∧ (u.tile t).ejA = rest ∧ (u.tile t).injB = (s.tile t).injB ∧
      (u.tile t).monitors = (s.tile t).monitors ∧ (u.tile t).withdrawn = ((s.tile t).keepWithdrawal f).withdrawn := by
  obtain ⟨u, htaken, hstep⟩ := withdraw_step harrives hlast hbanks hop
  rw [if_neg (by rw [hany]; exact Bool.false_ne_true)] at hstep
  have hsame (x : Tile) : (x.keepWithdrawal f).ejA = x.ejA ∧ (x.keepWithdrawal f).injB = x.injB ∧ (x.keepWithdrawal f).monitors = x.monitors := by
    unfold Tile.keepWithdrawal
    dsimp only
    split <;> exact ⟨rfl, rfl, rfl⟩
  obtain ⟨hej, hinj, hmonitors⟩ := hsame (u.tile t)
  refine ⟨_, hstep, htaken.alike.mem, ?_⟩
  rw [updTile_tile_self]
  exact ⟨hej.trans htaken.ejA, hinj.trans htaken.untaken.injB, hmonitors.trans htaken.untaken.monitors,
    keepWithdrawal_of_withdrawn htaken.untaken.withdrawn f⟩

end

theorem syncRequests : SyncRequests := by
  intro s t f rest harrives hlast hbanks h a waits
  have hmine (g : Flit) : (!sameRequest f g) = decide ¬(g.src = f.src ∧ g.tag = f.tag) := by
    rw [sameRequest, Bool.eq_iff_iff]
    simp
  have hfilter : ((s.tile t).monitors.filter fun g => !sameRequest f g) =
      (s.tile t).monitors.filter fun g => ¬(g.src = f.src ∧ g.tag = f.tag) := List.filter_congr fun g _ => hmine g
  refine ⟨fun herr hno hga => ⟨fun hop hw i hev => ?_, fun hop hw => ?_, fun hop hw => ?_, fun hop => ?_, fun hop => ?_⟩,
    fun hop hga hno => ?_, fun hop herr hga hp hcls => ?_, fun hop => ?_, fun hop hany => ?_, fun hop hnone => ?_⟩
  · exact withdrawn_request harrives hlast hbanks hop hw hev
  · exact ldc_request harrives hlast hbanks hop hw herr hno
  · exact stp_request harrives hlast hbanks hop hw hno
  · exact feset_request harrives hlast hbanks hop hno
  · exact poison_request harrives hlast hbanks hop
  · exact scrub_request harrives hlast hbanks hop hga hno
  · exact arm_request harrives hlast hbanks hop herr hga hp hcls
  · rw [← hfilter]
    exact disarm_request harrives hlast hbanks hop
  · rw [← hfilter]
    refine withdraw_registered harrives hlast hbanks hop ?_
    obtain ⟨g, hg, hsrc, htag⟩ := hany
    exact List.any_eq_true.mpr ⟨g, hg, by simp [sameRequest, hsrc, htag]⟩
  · refine withdraw_early harrives hlast hbanks hop (List.any_eq_false.mpr fun g hg hsame => hnone g hg ?_)
    simpa [sameRequest] using hsame

end Sys2Proof.Machine

namespace Sys2Proof.Machine
open Sys2Proof.Claims

/-! ## Granules of a copy stream (R37, R243) -/

theorem bytes_of_byte {s : State} {l : List Byte} {a : Nat} (h : ∀ i, i < l.length → s.byte (a + i) = l.getD i 0) : s.bytes a l.length = l := by
  induction l generalizing a with
  | nil => rfl
  | cons b l ih =>
    rw [List.length_cons, State.bytes, ih fun i hi => ?_]
    · exact congrArg (fun c => c :: l) (h 0 (Nat.succ_pos _))
    · have hnext := h (i + 1) (Nat.succ_lt_succ hi)
      rwa [show a + (i + 1) = a + 1 + i by ring] at hnext

/-- A whole granule with no poison, written where no word is poisoned. -/
theorem putGranule_bytes {s : State} {a : Nat} {data : List Byte} (hspad : isSpad a = true) (ha : a % 8 = 0) (hlength : data.length = 32)
    (herr : ∀ k, k < 4 → noErr s (a + 8 * k)) (hclean : ∀ k, k < 4 → s.poisoned (a + 8 * k) = false) :
    (s.putWords 0 a data (2 ^ 32 - 1) [0, 0, 0, 0] 4).bytes a 32 = data ∧
      ∀ c, c < a ∨ a + 32 ≤ c → (s.putWords 0 a data (2 ^ 32 - 1) [0, 0, 0, 0] 4).byte c = s.byte c := by
  obtain ⟨hother, hrow⟩ := putWords_row (n := 4) (mask := 2 ^ 32 - 1) (bytes := data) (marks := [0, 0, 0, 0]) hspad ha (by omega) herr
  generalize s.putWords 0 a data (2 ^ 32 - 1) [0, 0, 0, 0] 4 = v at hother hrow
  refine ⟨?_, fun c hc => (hother.keeps c hc).1⟩
  have hbytes := bytes_of_byte (s := v) (l := data) (a := a) fun i hi => ?_
  · rwa [hlength] at hbytes
  have hword : i / 8 < 4 := by omega
  have hmask : (2 ^ 32 - 1) / 2 ^ (8 * (i / 8)) % 256 = 255 := by
    interval_cases i / 8 <;> rfl
  have hmark : ([0, 0, 0, 0] : List Nat).getD (i / 8) 0 = 0 := by
    interval_cases i / 8 <;> rfl
  have hbit : bit 255 (i % 8) = true := by
    have hlt : i % 8 < 8 := Nat.mod_lt _ (by norm_num)
    interval_cases i % 8 <;> rfl
  obtain ⟨-, -, -, hwritten⟩ := hrow (i / 8) hword
  obtain ⟨-, hbyte⟩ := hwritten (by rw [hmask]; decide) hmark (hclean _ hword)
  have hat := hbyte (i % 8) (Nat.mod_lt _ (by norm_num))
  rw [hmask, hbit, if_pos rfl, show a + 8 * (i / 8) + i % 8 = a + i by omega] at hat
  exact hat.trans (congrArg (fun k => data.getD k 0) (by omega))

/-- The window that the first granule of a stream opens. -/
def firstWindow (f : Flit) : Window := { src := f.src, tag := f.tag, done := 1, wpoff := f.wpoff, wpen := f.wpen }

theorem slide_of_gap {w : Window} (h : w.got.contains w.done = false) (n : Nat) : w.slide n = w := by
  cases n with
  | zero => rfl
  | succ n => rw [Window.slide, if_neg (by rw [h]; exact Bool.false_ne_true)]

theorem slide_first (f : Flit) (n : Nat) :
    Window.slide { src := f.src, tag := f.tag, got := [0], wpoff := f.wpoff, wpen := f.wpen } (n + 1) = firstWindow f := by
  rw [Window.slide]
  exact slide_of_gap (w := firstWindow f) rfl n

theorem take_first {f : Flit} (hlastg : f.lastg = false) (hgidx : f.gidx = 0) : Window.take { src := f.src, tag := f.tag } f = firstWindow f := by
  unfold Window.take
  simp only [hlastg, hgidx, Bool.false_eq_true, if_false, Nat.lt_irrefl]
  exact slide_first f 255

/-- Windows of other streams. -/
def otherStream (f : Flit) (w : Window) : Bool := !(w.src == f.src && w.tag == f.tag)

theorem otherStream_iff (f : Flit) (w : Window) : otherStream f w = true ↔ ¬(w.src = f.src ∧ w.tag = f.tag) := by
  simp only [otherStream, Bool.not_eq_true', Bool.and_eq_false_iff, beq_eq_false_iff_ne, not_and_or, ne_eq]

theorem filter_otherStream {f : Flit} {l : List Window} (h : ∀ w ∈ l, ¬(w.src = f.src ∧ w.tag = f.tag)) : l.filter (otherStream f) = l :=
  List.filter_eq_self.mpr fun w hw => (otherStream_iff f w).mpr (h w hw)

theorem find_window_none {f : Flit} {l : List Window} (h : ∀ w ∈ l, ¬(w.src = f.src ∧ w.tag = f.tag)) :
    l.find? (fun w => w.src == f.src && w.tag == f.tag) = none :=
  List.find?_eq_none.mpr fun w hw => by simpa using h w hw

theorem tileGranule_first {u v : State} {t : Nat} {f : Flit} (hnone : ∀ w ∈ (u.tile t).windows, ¬(w.src = f.src ∧ w.tag = f.tag))
    (hroom : (u.tile t).windows.length < 16) (hlastg : f.lastg = false) (hgidx : f.gidx = 0)
    (hv : (u.performFlit 0 (spad t (f.ga % 2 ^ 19)) f).2 = v) :
    u.tileGranule t f = (v.updTile t fun y => { y with
      windows := (v.tile t).windows.filter (otherStream f) ++ [firstWindow f] }).ackTo (.tile t) f := by
  have hfew : decide (16 ≤ (u.tile t).windows.length) = false := by simpa using hroom
  rw [← gaOff_eq] at hv
  unfold State.tileGranule
  dsimp only
  rw [find_window_none hnone, hv]
  simp only [Option.getD_none, hfew, Bool.and_false, hgidx, Nat.zero_add, Nat.reduceLeDiff, Bool.false_or, decide_false, Bool.false_eq_true, if_false,
    take_first hlastg hgidx]
  rfl

section
variable {s u v : State} {t : Nat} {f : Flit} {rest : List Flit}

theorem Alike.bytes (h : Alike s u) (a n : Nat) : u.bytes a n = s.bytes a n := by
  obtain ⟨ts, rs, l, rfl⟩ := h.eq
  exact under_bytes s ts rs l a n

theorem Worked.windows (h : Worked u v) : (v.tile t).windows = (u.tile t).windows := by
  obtain ⟨_, _, _, _, _, _, _, _, htile⟩ := (h.tile t).rest
  rw [htile]

/-- An acknowledgement, once the windows of the tile are as given. -/
theorem ack_windows (hej : (v.tile t).ejA = rest) (l : List Window) : ∃ g,
    answersWith ((v.updTile t fun y => { y with windows := l }).ackTo (.tile t) f) t f rest .ack g ∧
      Alike v ((v.updTile t fun y => { y with windows := l }).ackTo (.tile t) f) ∧
      (((v.updTile t fun y => { y with windows := l }).ackTo (.tile t) f).tile t).windows = l := by
  have halike : Alike v (v.updTile t fun y => { y with windows := l }) := alike_updTile v t rfl
  have hej' : ((v.updTile t fun y => { y with windows := l }).tile t).ejA = rest := by
    rw [updTile_tile_self]
    exact hej
  have hwindows : ((v.updTile t fun y => { y with windows := l }).tile t).windows = l := by
    rw [updTile_tile_self]
  generalize (v.updTile t fun y => { y with windows := l }) = w at *
  have hack := halike.trans (woken_answer w (.tile t) f { op := .ack, count := 1 }).alike
  obtain ⟨g, hg, hanswer⟩ := answer_single w t f (r := { op := .ack, count := 1 }) rfl rfl
  rw [State.ackTo]
  rw [hanswer] at hack ⊢
  refine ⟨g, hg.answersWith .refl hej' rfl, hack, ?_⟩
  rw [updTile_tile_self]
  exact hwindows

variable (harrives : arrives s t f rest) (hlast : f.flast = 0) (hbanks : banksGiven s t f)
include harrives hlast hbanks

theorem granule_request (hop : f.op = .granule) (hga : f.ga % 32 = 0) (herr : ∀ k, k < 4 → noErr s (spad t (f.ga % 2 ^ 19) + 8 * k))
    (hlength : f.data.length = 32) (hmask : f.bmask = 2 ^ 32 - 1) (hpsn : f.psn = [0, 0, 0, 0]) (hct : f.ct = false) (hlastg : f.lastg = false)
    (hgidx : f.gidx = 0) (hnone : ∀ w ∈ (s.tile t).windows, ¬(w.src = f.src ∧ w.tag = f.tag)) (hroom : (s.tile t).windows.length < 16)
    (hclean : ∀ k, k < 4 → s.poisoned (spad t (f.ga % 2 ^ 19) + 8 * k) = false) :
    ∃ (u : State) (g : Flit) (w : Window), exec (.granule (.tile t)) s = .next u ∧ answersWith u t f rest .ack g ∧
      u.bytes (spad t (f.ga % 2 ^ 19)) 32 = f.data ∧
      (∀ c, c < spad t (f.ga % 2 ^ 19) ∨ spad t (f.ga % 2 ^ 19) + 32 ≤ c → u.byte c = s.byte c) ∧
      (u.tile t).windows = (s.tile t).windows ++ [w] ∧ (w.src = f.src ∧ w.tag = f.tag) ∧ w.done = 1 ∧ w.got = [] := by
  obtain ⟨u, htaken, hstep⟩ := exec_single harrives hlast hbanks hop (i := .granule (.tile t)) (act := fun f s => s.tileGranule t f) rfl
  have hword : spad t (f.ga % 2 ^ 19) % 8 = 0 := spad_mod t (by omega)
  obtain ⟨hbytes, hothers⟩ := putGranule_bytes (isSpad_spad t (f.ga % 2 ^ 19)) hword hlength herr hclean
  have hdoes : Does (fun s => s.putWords 0 (spad t (f.ga % 2 ^ 19)) f.data (2 ^ 32 - 1) [0, 0, 0, 0] 4)
      (fun s => (s.performFlit 0 (spad t (f.ga % 2 ^ 19)) f).2) := by
    refine (Does.together ((does_putWords 0 (spad t (f.ga % 2 ^ 19)) f.data (2 ^ 32 - 1) [0, 0, 0, 0] 4).waking fun u =>
      (woken_touchMasked _ (spad t (f.ga % 2 ^ 19)) f.bmask 4).trans (woken_touchPairs _ u (spad t (f.ga % 2 ^ 19)) f.bmask 4))).congr
      (fun _ => rfl) fun u => ?_
    unfold State.performFlit State.putGranule
    rw [hop]
    simp only [hct, hmask, hpsn, Bool.false_eq_true, if_false]
  have hput := hdoes.alike s u htaken.alike
  have hworked := hdoes.worked u
  generalize hv : (u.performFlit 0 (spad t (f.ga % 2 ^ 19)) f).2 = v at hput hworked
  have hwindows : (v.tile t).windows = (s.tile t).windows := hworked.windows.trans htaken.untaken.windows
  rw [← htaken.untaken.windows] at hnone hroom
  rw [tileGranule_first hnone hroom hlastg hgidx hv, filter_otherStream (by rw [hworked.windows]; exact hnone), hwindows] at hstep
  obtain ⟨g, hanswers, halike, hopen⟩ := ack_windows (f := f) (hworked.ejA.trans htaken.ejA) ((s.tile t).windows ++ [firstWindow f])
  have hall := hput.trans halike
  refine ⟨_, g, firstWindow f, hstep, hanswers, ?_, fun c hc => ?_, hopen, ⟨rfl, rfl⟩, rfl, rfl⟩
  · rw [hall.bytes, hbytes]
  · rw [hall.beside.byte, hothers c hc]

end

/-! ## The end of a copy stream (R211, R245) -/

/-- The pointer word with the bytes of the stream so far. -/
def State.pointWord (s : State) (a b : Nat) : State := if s.poisoned a then s else (s.setTagAt a false).setVal a 8 (pointed (s.val a 8) b)

theorem does_pointerAt (a b origin : Nat) : Does (fun s => (s.look a).pointWord a b) (fun s => s.pointerAt a b 0 origin) := by
  have hpoint : Apart fun s => s.pointWord a b := fun s ts rs l => by
    unfold State.pointWord
    simp only [under_poisoned, under_setTagAt, under_val, under_setVal]
    exact (apply_ite (fun v : State => v.under ts rs l) _ _ _).symm
  exact ((does_look a).self.comp hpoint.does).waking fun s => woken_touch _ a

theorem pointed_fields {w : Nat} (b : Nat) (hw : w < 2 ^ 64) :
    pointed w b < 2 ^ 64 ∧ pointed w b % 2 ^ 40 = b % 2 ^ 40 ∧ pointed w b / 2 ^ 40 = w / 2 ^ 40 := by
  simp only [pointed, mkFlag, flagCls, flagOrigin, bits, Nat.reduceAdd, Nat.reduceSub]
  omega

theorem pointWord_val {s : State} {a : Nat} (hp : s.poisoned a = false) (b : Nat) :
    (s.pointWord a b).val a 8 % 2 ^ 40 = b % 2 ^ 40 ∧ (s.pointWord a b).val a 8 / 2 ^ 40 = s.val a 8 / 2 ^ 40 := by
  obtain ⟨hlt, hcount, hrest⟩ := pointed_fields b (val_lt s a 8)
  have hval : (s.pointWord a b).val a 8 = pointed (s.val a 8) b := by
    rw [State.pointWord, hp, if_neg Bool.false_ne_true, val_setVal]
    exact Nat.mod_eq_of_lt hlt
  rw [hval]
  exact ⟨hcount, hrest⟩

/-- The pointer written and the message acknowledged. -/
theorem pointerAt_ack {s v : State} {t a : Nat} {f : Flit} {rest : List Flit} (hspad : isSpad a = true) (herr : noErr s a)
    (hp : s.poisoned a = false) (halike : Alike s v) (hej : (v.tile t).ejA = rest) (b origin : Nat) :
    ∃ g, answersWith ((v.pointerAt a b 0 origin).ackTo (.tile t) f) t f rest .ack g ∧
      ((v.pointerAt a b 0 origin).ackTo (.tile t) f).val a 8 % 2 ^ 40 = b % 2 ^ 40 ∧
      ((v.pointerAt a b 0 origin).ackTo (.tile t) f).val a 8 / 2 ^ 40 = s.val a 8 / 2 ^ 40 ∧
      (((v.pointerAt a b 0 origin).ackTo (.tile t) f).tile t).windows = (v.tile t).windows := by
  have hpointed := (does_pointerAt a b origin).alike s v halike
  have hworked := (does_pointerAt a b origin).worked v
  rw [look_of_noErr hspad herr] at hpointed
  obtain ⟨hcount, hrest⟩ := pointWord_val hp b
  have hwindows := hworked.windows (t := t)
  have hej' := (hworked.ejA (t := t)).trans hej
  generalize v.pointerAt a b 0 origin = q at *
  obtain ⟨g, hg, hanswer⟩ := answer_single q t f (r := { op := .ack, count := 1 }) rfl rfl
  have hall := hpointed.trans (woken_answer q (.tile t) f { op := .ack, count := 1 }).alike
  rw [State.ackTo, hall.val, hanswer]
  refine ⟨g, hg.answersWith .refl hej' rfl, hcount, hrest, ?_⟩
  rw [updTile_tile_self]
  exact hwindows

section
variable {s : State} {t : Nat} {f : Flit} {rest : List Flit} (harrives : arrives s t f rest) (hlast : f.flast = 0) (hbanks : banksGiven s t f)
include harrives hlast hbanks

/-- What a tile does with an end message. -/
def State.endStream (s : State) (t : Nat) (f : Flit) (n : Nat) : State :=
  (if f.wpen then (s.updTile t fun x => { x with windows := x.windows.filter (otherStream f) }).pointerAt (spad t (f.wpoff / 8 * 8)) n f.cls f.origin
    else s.updTile t fun x => { x with windows := x.windows.filter (otherStream f) }).ackTo (.tile t) f

theorem streamend_step (hop : f.op = .streamend) (hnone : ∀ w ∈ (s.tile t).windows, ¬(w.src = f.src ∧ w.tag = f.tag)) :
    ∃ u, Taken s u t rest ∧ exec (.streamend (.tile t)) s = .next (u.endStream t f f.nb) := by
  obtain ⟨u, htaken, hstep⟩ := exec_single harrives hlast hbanks hop (i := .streamend (.tile t)) (act := fun f s => s.endStream t f
    (match (s.tile t).windows.find? (fun w => w.src == f.src && w.tag == f.tag) with
      | some w => w.bytes
      | none => f.nb)) rfl
  rw [find_window_none (by rw [htaken.untaken.windows]; exact hnone)] at hstep
  exact ⟨u, htaken, hstep⟩

theorem streamend_request (hop : f.op = .streamend) (hwpen : f.wpen = true) (hcls : f.cls = 0) (hword : f.wpoff % 8 = 0)
    (herr : noErr s (spad t f.wpoff)) (hp : s.poisoned (spad t f.wpoff) = false)
    (hnone : ∀ w ∈ (s.tile t).windows, ¬(w.src = f.src ∧ w.tag = f.tag)) :
    ∃ u g, exec (.streamend (.tile t)) s = .next u ∧ answersWith u t f rest .ack g ∧
      u.val (spad t f.wpoff) 8 % 2 ^ 40 = f.nb % 2 ^ 40 ∧ u.val (spad t f.wpoff) 8 / 2 ^ 40 = s.val (spad t f.wpoff) 8 / 2 ^ 40 ∧
      (u.tile t).windows = (s.tile t).windows := by
  obtain ⟨u, htaken, hstep⟩ := streamend_step harrives hlast hbanks hop hnone
  rw [← htaken.untaken.windows] at hnone
  rw [State.endStream, if_pos hwpen, hcls, show f.wpoff / 8 * 8 = f.wpoff by omega] at hstep
  have halike := htaken.alike.trans (alike_updTile u t (g := fun x => { x with windows := x.windows.filter (otherStream f) }) rfl)
  have htile : ((u.updTile t fun x => { x with windows := x.windows.filter (otherStream f) }).tile t) = u.tile t := by
    rw [updTile_tile_self, filter_otherStream hnone]
  obtain ⟨g, hanswers, hcount, hrest, hwindows⟩ := pointerAt_ack (f := f) (isSpad_spad t f.wpoff) herr hp halike
    ((congrArg Tile.ejA htile).trans htaken.ejA) f.nb f.origin
  exact ⟨_, g, hstep, hanswers, hcount, hrest, hwindows.trans (by rw [htile, htaken.untaken.windows])⟩

end

theorem streamRequests : StreamRequests := by
  intro s t f rest harrives hlast hbanks a mine
  refine ⟨fun hop hga herr hlength hmask hpsn hct hlastg hgidx hnone hroom hclean => ?_, fun hop hwpen hcls hword _ herr hp hnone => ?_⟩
  · exact granule_request harrives hlast hbanks hop hga herr hlength hmask hpsn hct hlastg hgidx hnone hroom hclean
  · exact streamend_request harrives hlast hbanks hop hwpen hcls hword herr hp hnone

end Sys2Proof.Machine

namespace Sys2Proof.Machine
open Sys2Proof.Claims

/-! ## Pushes from other tiles (R279, R399) -/

section
variable {s u v : State} {t : Nat} {f f' : Flit} {rest : List Flit}

theorem Alike.cluster (h : Alike s u) (c : Nat) : u.cluster c = s.cluster c := by
  obtain ⟨⟨_, _, _, rfl⟩, -⟩ := h
  rfl

/-- A request for the queue bank finds it open. -/
theorem bankStep_of_open (hop : f.op = .push ∨ f.op = .tdec ∨ f.op = .tcancel) (hopen : bankOpen s t f) (o : Host.Outcome State Fault Refusal) :
    s.bankStep (.tile t) o = o := if_neg (by simpa using hopen hop)

/-- The record that a push carries, as the bank takes it. -/
def pushedRec (f : Flit) : TaskRec :=
  recOf f.origin ((List.range 8).map fun i => (leNat ((f.data.drop (8 * i)).take 8), f.psn.getD i 0))

/-- What the home does with a push. -/
def State.pushAt (s : State) (t : Nat) (f : Flit) : State :=
  let p := s.push (clusterOf t) (pushRing t f.idx) (pushedRec f) none
  if p.1 then p.2.ackTo (.tile t) f else p.2.nakTo (.tile t) f .qfull

theorem pushedRec_fields {g f : Flit} (hg : g.data.length = 32) (hpsn : g.psn = [0, 0, 0, 0]) :
    (pushedRec (wholeOf g f)).ctrlMark = 0 ∧ (pushedRec (wholeOf g f)).entry = leNat (g.data.take 8) % 2 ^ 19 ∧
      (pushedRec (wholeOf g f)).prio = leNat (g.data.take 8) / 2 ^ 19 % 4 ∧
      (pushedRec (wholeOf g f)).taskid.toNat = leNat ((g.data.drop 8).take 8) := by
  have hword : (g.data ++ f.data).take 8 = g.data.take 8 := List.take_append_of_le_length (by omega)
  have hid : ((g.data ++ f.data).drop 8).take 8 = (g.data.drop 8).take 8 := by
    rw [List.drop_append_of_le_length (by omega), List.take_append_of_le_length (by rw [List.length_drop]; omega)]
  have hlt : leNat ((g.data.drop 8).take 8) < 2 ^ 64 := by
    have h := leNat_lt ((g.data.drop 8).take 8)
    rwa [List.length_take_of_le (by rw [List.length_drop]; omega)] at h
  have hctrl : (((List.range 8).map fun i => (leNat (((g.data ++ f.data).drop (8 * i)).take 8), (g.psn ++ f.psn).getD i 0)).headD (0, 0)) =
      (leNat (g.data.take 8), 0) := by
    rw [← hword, hpsn]
    rfl
  have htask : (((List.range 8).map fun i => (leNat (((g.data ++ f.data).drop (8 * i)).take 8), (g.psn ++ f.psn).getD i 0)).getD 1 (0, 0)) =
      (leNat ((g.data.drop 8).take 8), 0) := by
    rw [← hid, hpsn]
    rfl
  unfold pushedRec recOf wholeOf
  dsimp only
  rw [hctrl, htask]
  refine ⟨rfl, ?_, rfl, ?_⟩
  · rw [bits, Nat.pow_zero, Nat.div_one]
  · exact (BitVec.toNat_ofNat _ _).trans (Nat.mod_eq_of_lt hlt)

/-- A push that the bank has room for. -/
theorem push_room (s : State) {c : Nat} (ring : Nat) {r : TaskRec} (block : Option Nat) (hroom : (s.cluster c).bank.length < 1024)
    (hctrl : r.ctrlMark = 0) : (s.push c ring r block).1 = true ∧
      (s.push c ring r block).2.tiles = s.tiles ∧ (s.push c ring r block).2.mem = s.mem ∧
      ∃ x, ((s.push c ring r block).2.cluster c).bank = (s.cluster c).bank ++ [x] ∧
      x.ring = ring ∧ x.r = r ∧ x.level = r.prio ∧ x.block = block := by
  unfold State.push
  dsimp only
  rw [if_pos hroom, if_pos hctrl, setCluster_cluster_self]
  exact ⟨rfl, rfl, rfl, _, rfl, rfl, rfl, rfl, rfl⟩

/-- A push that neither the bank nor a cuff has room for. -/
theorem push_full (s : State) {c : Nat} (ring : Nat) (r : TaskRec) (block : Option Nat) (hfull : 1024 ≤ (s.cluster c).bank.length)
    (hcuff : (s.cluster c).cuff = none) : (s.push c ring r block).1 = false ∧ ((s.push c ring r block).2.cluster c).bank = (s.cluster c).bank ∧
      (s.push c ring r block).2.tiles = s.tiles ∧ (s.push c ring r block).2.mem = s.mem := by
  have hnone : ((s.setCluster c { s.cluster c with bankOrder := (s.cluster c).bankOrder + 1 }).cluster c).cuff = none := by
    rw [setCluster_cluster_self]
    exact hcuff
  unfold State.push
  dsimp only
  rw [if_neg (by omega)]
  unfold State.cuffWrite
  rw [hnone]
  dsimp only
  rw [setCluster_cluster_self]
  exact ⟨rfl, rfl, rfl, rfl⟩

variable (harrives : arrives s t f rest) (hopen : bankOpen s t f)
include harrives hopen

theorem push_step {g : Flit} (hsecond : secondPart s t g f) (hop : f.op = .push) :
    ∃ u, Taken s u t rest ∧ exec (.push (.tile t)) s = .next (u.pushAt t (wholeOf g f)) := by
  obtain ⟨u, htaken, hstep⟩ := homeStep_second harrives hsecond fun f s => s.pushAt t f
  rw [hop] at hstep
  exact ⟨u, htaken, (bankStep_of_open (.inl hop) hopen _).trans hstep⟩

theorem push_request {g : Flit} (hsecond : secondPart s t g f) (hop : f.op = .push) (hdata : g.data.length = 32) (hpsn : g.psn = [0, 0, 0, 0]) :
    ((s.cluster (clusterOf t)).bank.length < 1024 →
      ∃ (u : State) (k : Flit) (x : BankRec), exec (.push (.tile t)) s = .next u ∧ answersWith u t f rest .ack k ∧
      u.mem = s.mem ∧ (u.cluster (clusterOf t)).bank = (s.cluster (clusterOf t)).bank ++ [x] ∧
      x.ring = (if g.idx = 1 then 8 else inCluster t) ∧ x.r.entry = leNat (g.data.take 8) % 2 ^ 19 ∧
      x.r.prio = leNat (g.data.take 8) / 2 ^ 19 % 4 ∧ x.r.taskid.toNat = leNat ((g.data.drop 8).take 8) ∧ x.level = x.r.prio ∧ x.block = none) ∧
    (1024 ≤ (s.cluster (clusterOf t)).bank.length → (s.cluster (clusterOf t)).cuff = none →
      ∃ (u : State) (k : Flit), exec (.push (.tile t)) s = .next u ∧
      answersWith u t f rest .nak k ∧ k.reason = .qfull ∧ u.mem = s.mem ∧ (u.cluster (clusterOf t)).bank = (s.cluster (clusterOf t)).bank) := by
  obtain ⟨u, htaken, hstep⟩ := push_step harrives hopen hsecond hop
  have hhead := wholeOf_head hsecond
  have hcluster := htaken.alike.cluster (clusterOf t)
  obtain ⟨hctrl, hentry, hprio, htask⟩ := pushedRec_fields (f := f) hdata hpsn
  have hring : pushRing t (wholeOf g f).idx = if g.idx = 1 then 8 else inCluster t := rfl
  rw [State.pushAt, hring] at hstep
  generalize pushedRec (wholeOf g f) = r at *
  generalize wholeOf g f = m at *
  generalize (if g.idx = 1 then 8 else inCluster t) = ring at *
  refine ⟨fun hroom => ?_, fun hfull hcuff => ?_⟩
  · obtain ⟨hyes, htiles, hmem, x, hbank, hxring, hxr, hlevel, hblock⟩ := push_room u ring none (by rwa [hcluster]) hctrl
    have hej : ((u.push (clusterOf t) ring r none).2.tile t).ejA = rest := by
      rw [State.tile, htiles]
      exact htaken.ejA
    generalize u.push (clusterOf t) ring r none = p at *
    rw [hyes, if_pos rfl] at hstep
    obtain ⟨k, -, hanswers, hsame⟩ := answered hej hhead (r := { op := .ack, count := 1 }) rfl rfl
    have halike := (woken_answer p.2 (.tile t) m { op := .ack, count := 1 }).alike
    refine ⟨_, k, x, hstep, hanswers, hsame.mem.trans (hmem.trans htaken.alike.mem), ?_, hxring, ?_, ?_, ?_, ?_, hblock⟩
    · rw [State.ackTo, halike.cluster, hbank, hcluster]
    · rw [hxr, hentry]
    · rw [hxr, hprio]
    · rw [hxr, htask]
    · rw [hxr, hlevel]
  · obtain ⟨hno, hbank, htiles, hmem⟩ := push_full u ring r none (by rwa [hcluster]) (by rwa [hcluster])
    have hej : ((u.push (clusterOf t) ring r none).2.tile t).ejA = rest := by
      rw [State.tile, htiles]
      exact htaken.ejA
    generalize u.push (clusterOf t) ring r none = p at *
    rw [hno, if_neg Bool.false_ne_true] at hstep
    obtain ⟨k, hanswers, hreason, -⟩ := nakWith_answers hej hhead (why := .qfull) (by decide) (reasonClass .qfull) false
    have halike := alike_nakWith p.2 (.tile t) m .qfull (reasonClass .qfull) false
    refine ⟨_, k, hstep, hanswers, hreason, halike.mem.trans (hmem.trans htaken.alike.mem), ?_⟩
    rw [State.nakTo, halike.cluster, hbank, hcluster]

end
end Sys2Proof.Machine

namespace Sys2Proof.Machine
open Sys2Proof.Claims

/-! ## Decrements from other tiles (R278): what they do is the same whatever tiles hold -/

/-- F answers the same and does the same whatever tiles and routers hold, and leaves tiles as waking does. -/
structure Gives (F : State → Bool × State) : Prop where
  same : ∀ s u, Alike s u → (F u).1 = (F s).1 ∧ Alike (F s).2 (F u).2
  worked : ∀ s, Worked s (F s).2

section
variable {s u : State} {F F' : State → Bool × State} {G : State → State}

theorem gives_const (b : Bool) : Gives fun s => (b, s) := ⟨fun _ _ h => ⟨rfl, h⟩, fun _ => .refl⟩

theorem Gives.after (hF : Gives F) (hG : Does G G) : Gives fun s => F (G s) :=
  ⟨fun s u h => hF.same _ _ (hG.alike s u h), fun s => (hG.worked s).trans (hF.worked _)⟩

theorem Gives.ite {p : Prop} [Decidable p] (hF : Gives F) (hF' : Gives F') : Gives fun s => if p then F s else F' s := by
  by_cases hp : p
  · simpa only [hp, if_true] using hF
  · simpa only [hp, if_false] using hF'

theorem does_setCluster (c : Nat) (x : Cluster) : Does (fun s => s.setCluster c x) (fun s => s.setCluster c x) :=
  Apart.does fun s ts rs l => under_setCluster s ts rs l c x

theorem Alike.clusterCtx (h : Alike s u) (c : Nat) : u.clusterCtx c = s.clusterCtx c := h.ctx _

theorem Alike.vwrites (h : Alike s u) (ctx va : Nat) (ws : List Nat) :
    (u.vwrites ctx va ws).1 = (s.vwrites ctx va ws).1 ∧ Alike (s.vwrites ctx va ws).2 (u.vwrites ctx va ws).2 := by
  have hapart : Apart fun s => (s.vwrites ctx va ws).2 := fun s ts rs l => congrArg Prod.snd (under_vwrites s ts rs l ctx va ws)
  refine ⟨?_, hapart.alike h⟩
  obtain ⟨⟨ts, rs, l, rfl⟩, -⟩ := h
  rw [under_vwrites]

theorem worked_vwrites (s : State) (ctx va : Nat) (ws : List Nat) : Worked s (s.vwrites ctx va ws).2 :=
  (Apart.does (F := fun s => (s.vwrites ctx va ws).2) fun s ts rs l => congrArg Prod.snd (under_vwrites s ts rs l ctx va ws)).worked s

/-- The words of a cuff entry, written, and the entry counted. -/
def State.cuffEntry (s : State) (c ctx : Nat) (k : Cuff) (b : BankRec) : Bool × State :=
  let w := s.vwrites ctx (k.place k.entries.length) (recWords b.r ++ stampWords b)
  if !w.1 then (false, w.2) else (true, w.2.updCluster c fun x => { x with cuff := some { k with entries := k.entries ++ [b] } })

theorem gives_cuffEntry (c ctx : Nat) (k : Cuff) (b : BankRec) : Gives fun s => s.cuffEntry c ctx k b := by
  refine ⟨fun s u h => ?_, fun s => ?_⟩
  · obtain ⟨hfirst, hsecond⟩ := h.vwrites ctx (k.place k.entries.length) (recWords b.r ++ stampWords b)
    unfold State.cuffEntry
    dsimp only
    rw [hfirst]
    generalize s.vwrites ctx (k.place k.entries.length) (recWords b.r ++ stampWords b) = p at *
    generalize u.vwrites ctx (k.place k.entries.length) (recWords b.r ++ stampWords b) = q at *
    split
    · exact ⟨rfl, hsecond⟩
    · refine ⟨rfl, ?_⟩
      rw [State.updCluster, State.updCluster, hsecond.cluster]
      exact (does_setCluster c _).alike _ _ hsecond
  · have hworked := worked_vwrites s ctx (k.place k.entries.length) (recWords b.r ++ stampWords b)
    unfold State.cuffEntry
    dsimp only
    generalize s.vwrites ctx (k.place k.entries.length) (recWords b.r ++ stampWords b) = p at *
    split
    · exact hworked
    · exact hworked.trans ((does_setCluster c _).worked p.2)

theorem cuffWrite_none {c : Nat} (hcuff : (s.cluster c).cuff = none) (b : BankRec) : s.cuffWrite c b = (false, s) := by
  rw [State.cuffWrite, hcuff]

theorem cuffWrite_some {c : Nat} {k : Cuff} (hcuff : (s.cluster c).cuff = some k) (b : BankRec) :
    s.cuffWrite c b = if 2 ^ k.log2 ≤ k.entries.length then (false, s) else s.cuffEntry c (s.clusterCtx c) k b := by
  rw [State.cuffWrite, hcuff]
  rfl

theorem gives_cuffWrite (c : Nat) (b : BankRec) : Gives fun s => s.cuffWrite c b := by
  refine ⟨fun s u h => ?_, fun s => ?_⟩
  · cases hcuff : (s.cluster c).cuff with
    | none =>
      rw [cuffWrite_none hcuff, cuffWrite_none (by rw [h.cluster, hcuff])]
      exact ⟨rfl, h⟩
    | some k =>
      rw [cuffWrite_some hcuff, cuffWrite_some (k := k) (by rw [h.cluster, hcuff]), h.clusterCtx]
      exact ((gives_const false).ite (gives_cuffEntry c _ k b)).same s u h
  · cases hcuff : (s.cluster c).cuff with
    | none =>
      rw [cuffWrite_none hcuff]
      exact .refl
    | some k =>
      rw [cuffWrite_some hcuff]
      exact ((gives_const false).ite (gives_cuffEntry c _ k b)).worked s

/-- A record as the bank takes it. -/
def Cluster.offered (x : Cluster) (ring : Nat) (r : TaskRec) (block : Option Nat) : BankRec :=
  { r := r, ring := ring, level := if r.ctrlMark = 0 then r.prio else 0, stamp := x.counter, block := block, order := x.bankOrder,
    pushed := x.bankOrder }

theorem push_eq (s : State) (c ring : Nat) (r : TaskRec) (block : Option Nat) : s.push c ring r block =
    if (s.cluster c).bank.length < 1024 then
      (true, s.setCluster c { s.cluster c with
        bank := (s.cluster c).bank ++ [(s.cluster c).offered ring r block], bankOrder := (s.cluster c).bankOrder + 1 })
    else (s.setCluster c { s.cluster c with bankOrder := (s.cluster c).bankOrder + 1 }).cuffWrite c ((s.cluster c).offered ring r block) := rfl

/-- A record put in the bank where it has room, in the cuff otherwise. -/
theorem gives_push (c ring : Nat) (r : TaskRec) (block : Option Nat) : Gives fun s => s.push c ring r block := by
  have hoffered (x : Cluster) : Gives fun s => if x.bank.length < 1024
      then (true, s.setCluster c { x with bank := x.bank ++ [x.offered ring r block], bankOrder := x.bankOrder + 1 })
      else (s.setCluster c { x with bankOrder := x.bankOrder + 1 }).cuffWrite c (x.offered ring r block) :=
    ((gives_const true).after (does_setCluster c _)).ite ((gives_cuffWrite c _).after (does_setCluster c _))
  refine ⟨fun s u h => ?_, fun s => ?_⟩
  · rw [push_eq, push_eq, h.cluster]
    exact (hoffered (s.cluster c)).same s u h
  · rw [push_eq]
    exact (hoffered (s.cluster c)).worked s

theorem Alike.tagAt (h : Alike s u) (a : Nat) : u.tagAt a = s.tagAt a := h.beside.tagAt a

theorem Alike.readSlots (h : Alike s u) (a n : Nat) : u.readSlots a n = s.readSlots a n := by
  induction n generalizing a with
  | zero => rfl
  | succ n ih =>
    rw [State.readSlots, State.readSlots, h.readAt, h.readAt, h.tagAt, ih]

/-- The record of a block is read alike. -/
theorem Alike.readRec (h : Alike s u) (t a : Nat) : (u.readRec t a).1 = (s.readRec t a).1 ∧ Alike (s.readRec t a).2 (u.readRec t a).2 := by
  have hlook : Alike (s.lookWords a 8) (u.lookWords a 8) := (does_lookWords a 8).alike s u h
  refine ⟨?_, hlook⟩
  unfold State.readRec
  dsimp only
  rw [hlook.readAt, hlook.readAt, hlook.readSlots]

/-- The push of a block's record, and the outcome written as its STATE. -/
def State.blockPushed (s : State) (c ring a : Nat) (r : TaskRec) (block : Option Nat) : Bool × State :=
  let p := s.push c ring r block
  (p.1, p.2.store 0 a 8 (if p.1 then 2 else 1) 0)

theorem gives_blockPushed (c ring a : Nat) (r : TaskRec) (block : Option Nat) : Gives fun s => s.blockPushed c ring a r block := by
  have hpush := gives_push c ring r block
  have hstore (b : Bool) : Does (fun s => s.store 0 a 8 (if b then 2 else 1) 0) (fun s => s.store 0 a 8 (if b then 2 else 1) 0) :=
    (does_store 0 a 8 (if b then 2 else 1) 0).self
  refine ⟨fun s u h => ?_, fun s => ?_⟩
  · obtain ⟨hfirst, hsecond⟩ := hpush.same s u h
    unfold State.blockPushed
    dsimp only at hfirst hsecond ⊢
    rw [hfirst]
    exact ⟨rfl, (hstore _).alike _ _ hsecond⟩
  · exact (hpush.worked s).trans ((hstore _).worked _)

/-- The record of a block, its CTRL word poisoned where a mark is given. -/
def markRec (mark : Nat) (r : TaskRec) : TaskRec := if mark = 0 then r else { r with ctrlMark := mark }

theorem pushBlock_eq (s : State) (a mark : Nat) : s.pushBlock a mark =
    (s.readRec (spadTile a) (a + 64)).2.blockPushed (clusterOf (spadTile a)) (inCluster (spadTile a)) a
      (markRec mark (s.readRec (spadTile a) (a + 64)).1) (some (gaSpad (spadTile a) (a % 2 ^ 19))) := rfl

theorem gives_pushBlock (a mark : Nat) : Gives fun s => s.pushBlock a mark := by
  refine ⟨fun s u h => ?_, fun s => ?_⟩
  · obtain ⟨hfirst, hsecond⟩ := h.readRec (spadTile a) (a + 64)
    rw [pushBlock_eq, pushBlock_eq, hfirst]
    exact (gives_blockPushed _ _ a _ _).same _ _ hsecond
  · rw [pushBlock_eq]
    exact ((does_lookWords (a + 64) 8).worked s).trans ((gives_blockPushed _ _ a _ _).worked _)

/-- A decrement, once STATE and COUNT are read. -/
def State.decrement (s : State) (a : Nat) (redrive : Bool) (st n : Nat × Nat) : Bool × State :=
  if redrive then
    if st.2 ≠ 0 then (if n.2 = 0 then s.pushBlock a st.2 else (true, s))
    else if st.1 = 1 then s.pushBlock a 0
    else (true, s)
  else if st.2 ≠ 0 then
    if n.2 = 0 then
      if n.1 = 1 then (s.store 0 (a + 56) 8 ((n.1 + 2 ^ 64 - 1) % 2 ^ 64) 0).pushBlock a st.2
      else (true, s.store 0 (a + 56) 8 ((n.1 + 2 ^ 64 - 1) % 2 ^ 64) 0)
    else (true, s)
  else if st.1 = 1 then s.pushBlock a 0
  else if n.2 ≠ 0 then (if st.1 = 0 then s.pushBlock a n.2 else (true, s))
  else if n.1 = 1 ∧ st.1 = 0 then (s.store 0 (a + 56) 8 ((n.1 + 2 ^ 64 - 1) % 2 ^ 64) 0).pushBlock a 0
  else (true, s.store 0 (a + 56) 8 ((n.1 + 2 ^ 64 - 1) % 2 ^ 64) 0)

theorem gives_decrement (a : Nat) (redrive : Bool) (st n : Nat × Nat) : Gives fun s => s.decrement a redrive st n := by
  have hpush := gives_pushBlock a
  have hless := (does_store 0 (a + 56) 8 ((n.1 + 2 ^ 64 - 1) % 2 ^ 64) 0).self
  exact .ite (.ite (.ite (hpush _) (gives_const true)) (.ite (hpush _) (gives_const true)))
    (.ite (.ite (.ite ((hpush _).after hless) ((gives_const true).after hless)) (gives_const true))
      (.ite (hpush _) (.ite (.ite (hpush _) (gives_const true)) (.ite ((hpush _).after hless) ((gives_const true).after hless)))))

theorem tdec_eq (s : State) (a : Nat) (redrive : Bool) : s.tdec a redrive = ((s.look a).look (a + 56)).decrement a redrive
    (((s.look a).look (a + 56)).readAt 0 a 8) (((s.look a).look (a + 56)).readAt 0 (a + 56) 8) := rfl

theorem gives_tdec (a : Nat) (redrive : Bool) : Gives fun s => s.tdec a redrive := by
  have hlook : Does (fun s => (s.look a).look (a + 56)) (fun s => (s.look a).look (a + 56)) := (does_look a).self.comp (does_look (a + 56)).self
  refine ⟨fun s u h => ?_, fun s => ?_⟩
  · have hread : Alike ((s.look a).look (a + 56)) ((u.look a).look (a + 56)) := hlook.alike s u h
    rw [tdec_eq, tdec_eq, hread.readAt, hread.readAt]
    exact (gives_decrement a redrive _ _).same _ _ hread
  · rw [tdec_eq]
    exact (hlook.worked s).trans ((gives_decrement a redrive _ _).worked _)

end
end Sys2Proof.Machine

namespace Sys2Proof.Machine
open Sys2Proof.Claims

/-! ## TDEC, TCANCEL and WAKE from other tiles (R198, R278, R290) -/

/-- What the home does with a decrement. -/
def State.tdecAt (s : State) (t : Nat) (f : Flit) : State :=
  let p := s.tdec (spad t (gaOff f.ga)) f.once
  if p.1 then p.2.ackTo (.tile t) f else p.2.nakTo (.tile t) f .qfull

section
variable {s : State} {t : Nat} {f : Flit} {rest : List Flit} (harrives : arrives s t f rest) (hopen : bankOpen s t f) (hlast : f.flast = 0)
  (hbanks : banksGiven s t f)
include harrives hopen hlast hbanks

theorem bank_single (hop : f.op = .push ∨ f.op = .tdec ∨ f.op = .tcancel) {i : Instr} {act : Flit → State → State}
    (hexec : exec i s = s.bankStep (.tile t) (s.homeStep (.tile t) f.op act)) : ∃ u, Taken s u t rest ∧ exec i s = .next (act f u) :=
  exec_single harrives hlast hbanks rfl (hexec.trans (bankStep_of_open hop hopen _))

theorem tdec_request (hop : f.op = .tdec) {r : Bool × State} (hr : s.tdec (spad t (f.ga % 2 ^ 19)) f.once = r) :
    (r.1 = true → performedAs t f rest r.2 (exec (.tdecRequest (.tile t)) s)) ∧
    (r.1 = false → ∃ (u : State) (k : Flit), exec (.tdecRequest (.tile t)) s = .next u ∧ answersWith u t f rest .nak k ∧ k.reason = .qfull ∧
      u.mem = r.2.mem) := by
  obtain ⟨u, htaken, hstep⟩ := bank_single harrives hopen hlast hbanks (.inr (.inl hop)) (i := .tdecRequest (.tile t))
    (act := fun f s => s.tdecAt t f) (by rw [hop]; rfl)
  have hgives := gives_tdec (spad t (f.ga % 2 ^ 19)) f.once
  obtain ⟨hsame, halike⟩ := hgives.same s u htaken.alike
  have hworked := hgives.worked u
  rw [State.tdecAt, gaOff_eq] at hstep
  rw [hr] at hsame halike
  generalize u.tdec (spad t (f.ga % 2 ^ 19)) f.once = q at *
  have hej : (q.2.tile t).ejA = rest := hworked.ejA.trans htaken.ejA
  refine ⟨fun hyes => ?_, fun hno => ?_⟩
  · rw [hsame, hyes, if_pos rfl] at hstep
    rw [hstep]
    exact performedAs_ack hej halike.sameWords .refl
  · rw [hsame, hno, if_neg Bool.false_ne_true] at hstep
    obtain ⟨k, hanswers, hreason, -⟩ := nakWith_answers hej .refl (why := .qfull) (by decide) (reasonClass .qfull) false
    exact ⟨_, k, hstep, hanswers, hreason, (halike.trans (alike_nakWith ..)).mem⟩

end

/-! ### TCANCEL -/

/-- Table 12.4: what a cancellation answers for a block in state n. -/
def cancelStatus (n : Nat) : Nat := if n = 0 then 0 else if n ≤ 2 then 1 else if n = 3 then 2 else 3

/-- The records of a block leave the bank and the cuff. -/
def State.cancelRecords (s : State) (c ga : Nat) : State :=
  s.updCluster c fun x => { x with
    bank := x.bank.filter (fun b => b.block != some ga),
    cuff := match x.cuff with
      | some k => some { k with entries := k.entries.map fun b => if b.moved.block = some ga then { b with void := true } else b }
      | none => none }

section
variable {s : State} {a : Nat} (hspad : isSpad a = true) (herr : noErr s a) (hp : s.poisoned a = false)
include hspad herr hp

theorem store_clean_val {v : Nat} (hv : v < 2 ^ 64) : (s.store 0 a 8 v 0).val a 8 = v := by
  rw [(woken_store s 0 a 8 v 0).alike.val, put_clean hspad herr hp, val_setVal]
  exact Nat.mod_eq_of_lt hv

theorem tcancel_clean : s.tcancel a = if s.val a 8 = 0 then ((0, 0), s.store 0 a 8 4 0)
    else if s.val a 8 = 1 ∨ s.val a 8 = 2 then
      ((1, 0), (s.cancelRecords (clusterOf (spadTile a)) (gaSpad (spadTile a) (a % 2 ^ 19))).store 0 a 8 4 0)
    else if s.val a 8 = 3 then ((2, 0), s) else ((3, 0), s) := by
  unfold State.tcancel
  rw [look_of_noErr hspad herr]
  dsimp only
  rw [readAt_spad _ hspad, mark_of_clean hp]
  dsimp only
  rw [if_neg (not_not.mpr rfl)]
  rfl

theorem tcancel_outcome : (s.tcancel a).1 = (cancelStatus (s.val a 8), 0) ∧
    (s.tcancel a).2.val a 8 = (if s.val a 8 ≤ 2 then 4 else s.val a 8) ∧ Worked s (s.tcancel a).2 := by
  have hstored {v : State} (herr' : noErr v a) (hp' : v.poisoned a = false) (htiles : v.tiles = s.tiles) :
      (v.store 0 a 8 4 0).val a 8 = 4 ∧ Worked s (v.store 0 a 8 4 0) :=
    ⟨store_clean_val hspad herr' hp' (by norm_num), (worked_of_tiles htiles).trans ((does_store 0 a 8 4 0).worked v)⟩
  rw [tcancel_clean hspad herr hp]
  generalize gaSpad (spadTile a) (a % 2 ^ 19) = ga
  generalize hn : s.val a 8 = n
  obtain h | h | h | h : n = 0 ∨ (n = 1 ∨ n = 2) ∨ n = 3 ∨ 3 < n := by omega
  · have hstatus : cancelStatus n = 0 := if_pos h
    rw [hstatus, if_pos h, if_pos (by omega)]
    exact ⟨rfl, hstored herr hp rfl⟩
  · have hstatus : cancelStatus n = 1 := (if_neg (by omega)).trans (if_pos (by omega))
    rw [hstatus, if_neg (by omega), if_pos h, if_pos (by omega)]
    exact ⟨rfl, hstored (v := s.cancelRecords _ ga) herr hp rfl⟩
  · have hstatus : cancelStatus n = 2 := (if_neg (by omega)).trans ((if_neg (by omega)).trans (if_pos h))
    rw [hstatus, if_neg (by omega), if_neg (by omega), if_pos h, if_neg (by omega)]
    exact ⟨rfl, hn, .refl⟩
  · have hstatus : cancelStatus n = 3 := (if_neg (by omega)).trans ((if_neg (by omega)).trans (if_neg (by omega)))
    rw [hstatus, if_neg (by omega), if_neg (by omega), if_neg (by omega), if_neg (by omega)]
    exact ⟨rfl, hn, .refl⟩

end

theorem performFlit_tcancel (s : State) (a : Nat) {f : Flit} (hop : f.op = .tcancel) :
    s.performFlit 0 a f = ({ words := [(s.tcancel a).1] }, (s.tcancel a).2) := by
  unfold State.performFlit
  rw [hop]

section
variable {s : State} {t : Nat} {f : Flit} {rest : List Flit} (harrives : arrives s t f rest) (hlast : f.flast = 0) (hbanks : banksGiven s t f)
include harrives hlast hbanks

theorem tcancel_request (hopen : bankOpen s t f) (hop : f.op = .tcancel) (herr : noErr s (spad t (f.ga % 2 ^ 19)))
    (hp : s.poisoned (spad t (f.ga % 2 ^ 19)) = false) :
    ∃ (u : State) (k : Flit), exec (.tcancelRequest (.tile t)) s = .next u ∧ answersWith u t f rest .resp k ∧
      k.data = natLe 8 (cancelStatus (s.val (spad t (f.ga % 2 ^ 19)) 8)) ∧ k.psn = [0] ∧
      u.val (spad t (f.ga % 2 ^ 19)) 8 = if s.val (spad t (f.ga % 2 ^ 19)) 8 ≤ 2 then 4 else s.val (spad t (f.ga % 2 ^ 19)) 8 := by
  obtain ⟨u, htaken, hstep⟩ := bank_single harrives hopen hlast hbanks (.inr (.inr hop)) (i := .tcancelRequest (.tile t))
    (act := fun f s => s.performAt (.tile t) f) (by rw [hop]; rfl)
  obtain ⟨hstatus, hval, hworked⟩ := tcancel_outcome (isSpad_spad t (f.ga % 2 ^ 19)) (htaken.alike.noErr herr)
    (by rw [htaken.alike.beside.poisoned, hp])
  have hperform := performFlit_tcancel u (spad t (f.ga % 2 ^ 19)) hop
  rw [htaken.alike.val] at hstatus hval
  rw [hstatus] at hperform
  generalize u.tcancel (spad t (f.ga % 2 ^ 19)) = q at *
  generalize s.val (spad t (f.ga % 2 ^ 19)) 8 = n at *
  have hanswered := answeredWith_performAt (.inr (.inr (.inl hop))) hperform (hworked.ejA.trans htaken.ejA) (w := q.2) Alike.refl.sameWords
    (Nat.le_add_left 1 3)
  rw [← hstep] at hanswered
  obtain ⟨v, k, hnext, hanswers, hdata, hpsn, -, hmem, -⟩ := hanswered
  simp only [List.flatMap_cons, List.flatMap_nil, List.append_nil] at hdata
  exact ⟨v, k, hnext, hanswers, hdata, hpsn, (val_of_mem hmem _ _).trans hval⟩

end

/-! ### Wakes -/

/-- v is s but for the thread h of tile t, which is x. -/
structure ThreadSet (s v : State) (t h : Nat) (x : Thread) : Prop where
  thr : v.thr t h = x
  ejA : (v.tile t).ejA = (s.tile t).ejA
  mem : v.mem = s.mem

theorem threadSet_setThr (s : State) (t h : Nat) (x : Thread) : ThreadSet s (s.setThr t h x) t h x :=
  ⟨setThr_thr_self s t h x, by rw [setThr_tile_self]; rfl, rfl⟩

/-- The thread that a wake leaves where it neither halts nor yields. -/
def wokenRunning (x : Thread) (sup : Bool) : Thread :=
  if sup = true ∧ x.wait = .fault then { x with run := .rotation, wait := .none, walkEnds := [] } else { x with wakep := true }

section
variable {s : State} {t h : Nat} {sup : Bool}

theorem wakeThread_halted (hrun : (s.thr t h).run = .halted) : s.wakeThread t h sup = s := by
  unfold State.wakeThread
  dsimp only
  rw [hrun]

theorem wakeThread_yield (hrun : (s.thr t h).run = .yield) : s.wakeThread t h sup = s.resume t h := by
  unfold State.wakeThread
  dsimp only
  rw [hrun]

theorem wakeThread_running (hhalted : (s.thr t h).run ≠ .halted) (hyield : (s.thr t h).run ≠ .yield) :
    s.wakeThread t h sup = s.setThr t h (wokenRunning (s.thr t h) sup) := by
  unfold State.wakeThread
  dsimp only
  split
  · next hrun => exact absurd hrun hhalted
  · next hrun => exact absurd hrun hyield
  · rw [wokenRunning]
    by_cases hfault : sup = true ∧ (s.thr t h).wait = .fault
    · rw [if_pos (by simpa using hfault), if_pos hfault]
    · rw [if_neg (by simpa using hfault), if_neg hfault]

end

theorem woken_running {x : Thread} (sup : Bool) (hhalted : x.run ≠ .halted) (hyield : x.run ≠ .yield) : woken x sup = wokenRunning x sup := by
  unfold woken
  split
  · next hrun => exact absurd hrun hhalted
  · next hrun => exact absurd hrun hyield
  · rfl

/-- A wake changes its thread alone. -/
theorem wakeThread_woken (s : State) (t h : Nat) (sup : Bool) : ThreadSet s (s.wakeThread t h sup) t h (woken (s.thr t h) sup) := by
  by_cases hhalted : (s.thr t h).run = .halted
  · have hkept : woken (s.thr t h) sup = s.thr t h := by
      unfold woken
      rw [hhalted]
    rw [wakeThread_halted hhalted, hkept]
    exact ⟨rfl, rfl, rfl⟩
  by_cases hyield : (s.thr t h).run = .yield
  · have hresumed : woken (s.thr t h) sup = { s.thr t h with run := .rotation, wait := .none } := by
      unfold woken
      rw [hyield]
    rw [wakeThread_yield hyield, hresumed]
    exact threadSet_setThr ..
  · rw [wakeThread_running hhalted hyield, woken_running sup hhalted hyield]
    exact threadSet_setThr ..

section
variable {s : State} {t : Nat} {f : Flit} {rest : List Flit} (harrives : arrives s t f rest) (hlast : f.flast = 0) (hbanks : banksGiven s t f)
include harrives hlast hbanks

theorem wake_request (hop : f.op = .wake) : ∃ (u : State) (k : Flit), exec (.wakeRequest (.tile t)) s = .next u ∧
    answersWith u t f rest .ack k ∧ u.mem = s.mem ∧ u.thr t f.thr = woken (s.thr t f.thr) f.sup := by
  obtain ⟨u, htaken, hstep⟩ := exec_single harrives hlast hbanks hop (i := .wakeRequest (.tile t))
    (act := fun f s => (s.wakeThread t f.thr f.sup).ackTo (.tile t) f) rfl
  have hset := wakeThread_woken u t f.thr f.sup
  have hthr : u.thr t f.thr = s.thr t f.thr := by
    rw [State.thr, State.thr, Tile.thread, Tile.thread, htaken.untaken.threads]
  rw [hthr] at hset
  generalize u.wakeThread t f.thr f.sup = v at *
  obtain ⟨k, hk, hanswer⟩ := answer_single v t f (r := { op := .ack, count := 1 }) rfl rfl
  rw [State.ackTo, hanswer] at hstep
  refine ⟨_, k, hstep, hk.answersWith .refl (hset.ejA.trans htaken.ejA) rfl, hset.mem.trans htaken.alike.mem, ?_⟩
  rw [← hset.thr, State.thr, updTile_tile_self, State.thr]
  rfl

end

theorem taskRequests : TaskRequests := by
  intro s t f rest harrives hopen a c bank
  refine ⟨fun g hsecond hop hf hg hgpsn hfpsn => ?_, fun hlast hbanks hop hga => ?_, fun hlast hbanks hop hga herr hp => ?_,
    fun hlast hop hthr => ?_⟩
  · exact push_request harrives hopen hsecond hop hg hgpsn
  · generalize hr : s.tdec a f.once = r
    exact tdec_request harrives hopen hlast hbanks hop hr
  · exact tcancel_request harrives hlast hbanks hopen hop herr hp
  · refine wake_request harrives hlast ?_ hop
    have hrows : rowsAt f = [] := by
      unfold rowsAt
      rw [hop]
    rw [banksGiven, askHome_granted, hrows]
    rfl

end Sys2Proof.Machine

namespace Sys2Proof.Machine
open Sys2Proof.Claims

/-! ## Homes that are no tile: memory ports and I/O dies (R36, R323, R344) -/

/-- A home that is no tile. -/
def Aside (h : Home) : Prop := ∀ t, h ≠ .tile t

section
variable {s : State} {h : Home} {f : Flit} (haside : Aside h)
include haside

section
variable (hinbox : s.inbox h = [f]) (hready : s.ready h f = true)
include hinbox hready

theorem takeReq_aside : s.takeReq h f.op = some (f, s.setInbox h []) := by
  cases h with
  | tile t => exact absurd rfl (haside t)
  | port p => simp only [State.takeReq, hinbox, takeFirst, beq_self_eq_true, hready, Bool.and_self, if_true]
  | io d => simp only [State.takeReq, hinbox, takeFirst, beq_self_eq_true, hready, Bool.and_self, if_true]

/-- A request of one flit is performed at such a home as soon as it is taken. -/
theorem homeStep_aside (hlast : f.flast = 0) (hrefusal : (s.setInbox h []).refusal h f = none) (act : Flit → State → State) :
    s.homeStep h f.op act = .next (act f (s.setInbox h [])) := by
  have hwhole : (s.setInbox h []).gatherMsg h f = .whole f (s.setInbox h []) := if_pos hlast
  have hroom : s.homeRoom h f = true := by
    cases h with
    | tile t => exact absurd rfl (haside t)
    | port p => rfl
    | io d => rfl
  have hask (u : State) : u.askHome h 0 (rowsAt f) = (true, u) := by
    cases h with
    | tile t => exact absurd rfl (haside t)
    | port p => rfl
    | io d => rfl
  unfold State.homeStep
  rw [takeReq_aside haside hinbox hready]
  dsimp only
  rw [hrefusal]
  dsimp only
  rw [hwhole]
  dsimp only
  rw [hroom, hask, hask]
  rfl

theorem homeStep_aside_refused {why : Reason} (hlast : f.flast = 0) (hrefusal : (s.setInbox h []).refusal h f = some why)
    (act : Flit → State → State) : s.homeStep h f.op act = .next ((s.setInbox h []).nakWith h f why (reasonClass why) false) := by
  unfold State.homeStep
  rw [takeReq_aside haside hinbox hready]
  dsimp only
  rw [hrefusal, hlast]
  rfl

end

/-- The row and column of the router at which an answer enters. -/
def brimRow (h : Home) (g : Flit) : Nat := homeRow h * 64 + (match h with | .io _ => g.dx | h => homeCol h)

/-- An answer of one flit enters at the brim of a router. -/
theorem answer_brim (s : State) (f : Flit) {r : Flit} (hplane : planeB r.op = true) (hlast : r.flast = 0) :
    ∃ g, Answers h f r g ∧ s.answer h f r = s.setRouter (brimRow h g) { s.router (brimRow h g) with
      brimB := (s.router (brimRow h g)).brimB ++ [g] } := by
  have hop : planeB (storeFlit (replyTo h f r)).op = true := by
    rw [(answers_reply _ f r).op, hplane]
  refine ⟨_, answers_reply _ f r, ?_⟩
  rw [answer_eq, flitsOf_single ((replyTo_flast _ f r).trans hlast)]
  simp only [List.foldl_cons, List.foldl_nil]
  generalize storeFlit (replyTo h f r) = g at hop
  cases h with
  | tile t => exact absurd rfl (haside t)
  | port p => simp only [State.inject, hop, if_true]; rfl
  | io d => simp only [State.inject, hop, if_true]; rfl

/-- What such an answer leaves: its flit last at a router, and nothing else. -/
structure Brimmed (s u : State) (row : Nat) (g : Flit) : Prop where
  last : (u.router row).brimB.getLast? = some g
  alike : Alike s u
  tiles : u.tiles = s.tiles

theorem brimmed_answer (s : State) (f : Flit) {r : Flit} (hplane : planeB r.op = true) (hlast : r.flast = 0) :
    ∃ g, Answers h f r g ∧ Brimmed s (s.answer h f r) (brimRow h g) g := by
  obtain ⟨g, hg, hanswer⟩ := answer_brim haside s f hplane hlast
  refine ⟨g, hg, ?_⟩
  rw [hanswer]
  generalize brimRow h g = row
  refine ⟨?_, ⟨⟨s.tiles, _, s.batch, rfl⟩, fun _ => rfl⟩, rfl⟩
  rw [State.router, State.setRouter, mget_mset_self]
  exact List.getLast?_concat

end

theorem aside_port (p : Nat) : Aside (.port p) := fun _ h => by cases h
theorem aside_io (d : Nat) : Aside (.io d) := fun _ h => by cases h

theorem Alike.ports {s u : State} (h : Alike s u) : u.ports = s.ports := by
  obtain ⟨⟨_, _, _, rfl⟩, -⟩ := h
  rfl

theorem Alike.ioDie {s u : State} (h : Alike s u) (d : Nat) : u.ioDie d = s.ioDie d := by
  obtain ⟨⟨_, _, _, rfl⟩, -⟩ := h
  rfl

end Sys2Proof.Machine

namespace Sys2Proof.Machine
open Sys2Proof.Claims

/-! ## A word of HBM under the default key (R161, R207, R354) -/

theorem isSpad_hbm {a : Nat} (ha : a < 2 ^ 40) : isSpad a = false := by
  rw [isSpad, decide_eq_false_iff_not, spadBase]
  omega

theorem noErr_of_burst {s : State} {a : Nat} (herr : ∀ k, k < 8 → noErr s (a / 64 * 64 + 8 * k)) : noErr s a := by
  have hword := herr (a % 64 / 8) (by omega)
  rw [Claims.noErr] at hword ⊢
  rwa [show (a / 64 * 64 + 8 * (a % 64 / 8)) / 8 = a / 8 by omega, show (a / 64 * 64 + 8 * (a % 64 / 8)) / 16 = a / 16 by omega] at hword

section
variable {s : State} {a : Nat} (ha : a < 2 ^ 40) (herr : ∀ k, k < 8 → noErr s (a / 64 * 64 + 8 * k))
include ha herr

/-- A read of HBM whose burst holds no stored error finds none. -/
theorem detect_hbm : s.detect a = s := by
  obtain ⟨hunc, -, htag⟩ := noErr_of_burst herr
  have hone : s.errOne.any (checkedWith a) = false := List.any_eq_false.mpr fun w hw hchecked => by
    rw [checkedWith, isSpad_hbm ha, if_neg Bool.false_ne_true, beq_iff_eq] at hchecked
    obtain ⟨-, hfree, -⟩ := herr (w % 8) (Nat.mod_lt _ (by norm_num))
    rw [show (a / 64 * 64 + 8 * (w % 8)) / 8 = w by omega, List.contains_eq_mem, decide_eq_false_iff_not] at hfree
    exact hfree hw
  rw [State.detect, htag, hunc, hone]
  rfl

theorem look_hbm : s.look a = s := by
  have hspad := isSpad_hbm ha
  rw [State.look, detect_hbm ha herr, hspad]
  simp

variable (hkey : mget 0 s.keyOf (a / 64) = 0)
include hkey

theorem put_hbm (hp : s.poisoned a = false) (n v : Nat) : s.put 0 a n v 0 = (s.setTagAt a false).setVal a n v := by
  have hspad := isSpad_hbm ha
  have hprewrite : s.prewrite 0 a (n == 8) = s.setTagAt a false := by
    rw [State.prewrite, hspad, Bool.and_false, if_neg Bool.false_ne_true, detect_hbm ha herr, State.rekey,
      hspad, if_neg Bool.false_ne_true, if_pos hkey]
  rw [State.put, hprewrite, if_neg (not_not.mpr rfl), setTagAt_poisoned, hp, if_neg Bool.false_ne_true]

theorem store_hbm (hp : s.poisoned a = false) (n v : Nat) : s.store 0 a n v 0 = (s.setTagAt a false).setVal a n v := by
  obtain ⟨-, -, htag⟩ := noErr_of_burst herr
  rw [State.store, put_hbm ha herr hkey hp, State.touch, isSpad_hbm ha, if_neg Bool.false_ne_true, State.touchPair, htag, Bool.false_and,
    if_neg Bool.false_ne_true]

end

section
variable {s : State}

theorem keyedBytes_hbm {a n : Nat} (hkey : mget 0 s.keyOf (a / 64) = 0) (hfit : a % 64 + n ≤ 64) : s.keyedBytes 0 a n = s.bytes a n := by
  induction n generalizing a with
  | zero => rfl
  | succ n ih =>
    have hbyte : s.keyedByte 0 a = s.byte a := by
      rw [State.keyedByte]
      split
      · rfl
      · exact if_pos (.inl hkey)
    rw [State.keyedBytes, State.bytes, hbyte]
    cases n with
    | zero => rfl
    | succ n => rw [ih (by rwa [show (a + 1) / 64 = a / 64 by omega]) (by omega)]

theorem readAt_hbm {a n : Nat} (hkey : mget 0 s.keyOf (a / 64) = 0) (hfit : a % 8 + n ≤ 8) (hp : s.poisoned a = false) :
    s.readAt 0 a n = (s.val a n, 0) := by
  rw [State.readAt, keyedBytes_hbm hkey (by omega), State.mark, hp]
  rfl

end

/-! ## Loads and stores at a memory port (R157, R158, R344, R354) -/

/-- A memory port takes f, whose address lies in HBM under the default key with no stored error in its burst. -/
structure PortTakes (s : State) (p : Nat) (f : Flit) : Prop where
  inbox : s.inbox (.port p) = [f]
  ready : s.ready (.port p) f = true
  refusal : (s.setInbox (.port p) []).refusal (.port p) f = none
  last : f.flast = 0
  flag : f.flag = 0
  ga : f.ga < 2 ^ 40
  fits : f.ga % 8 + f.size ≤ 8
  errors : ∀ k, k < 8 → noErr s (f.ga / 64 * 64 + 8 * k)
  clean : s.poisoned f.ga = false
  key : s.slotLoad f.key = 0
  keyOf : mget 0 s.keyOf (f.ga / 64) = 0

section
variable {s : State} {p : Nat} {f : Flit}

theorem performAt_port (h : PortTakes s p f) : (s.setInbox (.port p) []).performAt (.port p) f =
    ((s.setInbox (.port p) []).performFlit 0 f.ga f).2.respond (.port p) f ((s.setInbox (.port p) []).performFlit 0 f.ga f).1 := by
  have hkey : (s.setInbox (.port p) []).homeKey (.port p) f = 0 := h.key
  have hga : flatOf (.port p) f = f.ga := Nat.mod_eq_of_lt (h.ga.trans (by norm_num))
  rw [State.performAt, hkey, hga]

theorem setInbox_ports (s : State) (p : Nat) (l : List Flit) : mget [] (s.setInbox (.port p) l).ports p = l := mget_mset_self _ _ _ _

theorem brimRow_port (p : Nat) (g : Flit) : brimRow (.port p) g = p % 64 * 64 + (if p < 64 then 0 else 63) := rfl

theorem port_load (h : PortTakes s p f) (hop : f.op = .load) : ∃ u, exec (.load (.port p)) s = .next u ∧ u.mem = s.mem ∧ mget [] u.ports p = [] ∧
    ∃ g, (u.router (p % 64 * 64 + (if p < 64 then 0 else 63))).brimB.getLast? = some g ∧ g.op = .resp ∧ g.tag = f.tag ∧ g.home = f.src ∧
      g.data = natLe 8 (s.val f.ga f.size) := by
  have hstep := homeStep_aside (aside_port p) h.inbox h.ready h.last h.refusal fun f s => s.performAt (.port p) f
  have hexec : exec (.load (.port p)) s = s.homeStep (.port p) f.op fun f s => s.performAt (.port p) f := by
    rw [hop]
    rfl
  have hlook : (s.setInbox (.port p) []).look f.ga = s.setInbox (.port p) [] := look_hbm h.ga h.errors
  have hread : (s.setInbox (.port p) []).readAt 0 f.ga f.size = (s.val f.ga f.size, 0) := by
    refine (readAt_hbm (s := s.setInbox (.port p) []) h.keyOf h.fits h.clean).trans ?_
    rw [val_of_mem (s := s) (u := s.setInbox (.port p) []) rfl]
  rw [performAt_port h, performFlit_load _ _ hop, respond_words (.inl hop), hlook, hread] at hstep
  have hports := setInbox_ports s p []
  have hmem : (s.setInbox (.port p) []).mem = s.mem := rfl
  generalize s.setInbox (.port p) [] = v at *
  generalize s.val f.ga f.size = n at *
  obtain ⟨g, hg, hbrim⟩ := brimmed_answer (aside_port p) v f (r := respFlit [(n, 0)] 0) rfl rfl
  rw [brimRow_port] at hbrim
  have hnext : exec (.load (.port p)) s = .next (v.answer (.port p) f (respFlit [(n, 0)] 0)) := hexec.trans hstep
  refine ⟨_, hnext, hbrim.alike.mem.trans hmem, ?_, g, hbrim.last, hg.op, hg.tag, hg.home, hg.data.trans ?_⟩
  · rw [hbrim.alike.ports, hports]
  · rw [respFlit]
    simp [natLe_length]

/-- What a store at a port leaves before it is acknowledged. -/
structure PortStored (s v : State) (p a n x : Nat) : Prop where
  ports : mget [] v.ports p = []
  val : v.val a n = x % 256 ^ n
  byte : ∀ c, c < a ∨ a + n ≤ c → v.byte c = s.byte c
  stalled : v.stalled = false

theorem portStored (s : State) (p a n x : Nat) :
    PortStored s (((({ s with stalled := false } : State).setInbox (.port p) []).setTagAt a false).setVal a n x) p a n x := by
  have hval := val_setVal ((({ s with stalled := false } : State).setInbox (.port p) []).setTagAt a false) a n x
  have hbyte (c : Nat) (hc : c < a ∨ a + n ≤ c) :=
    setVal_byte_other ((({ s with stalled := false } : State).setInbox (.port p) []).setTagAt a false) x hc
  have hports : mget [] (((({ s with stalled := false } : State).setInbox (.port p) []).setTagAt a false)).ports p = [] := setInbox_ports _ p []
  obtain ⟨m, hm⟩ := setBytes_eq (natLe n x) ((({ s with stalled := false } : State).setInbox (.port p) []).setTagAt a false) a
  rw [State.setVal] at *
  refine ⟨?_, hval, hbyte, ?_⟩
  · rw [hm]
    exact hports
  · rw [hm]
    rfl

theorem port_store (h : PortTakes s p f) (hop : f.op = .store) (hpsn : f.psn = [0]) : ∃ u, exec (.store (.port p)) s = .next u ∧
    mget [] u.ports p = [] ∧ u.val f.ga f.size = leNat f.data % 256 ^ f.size ∧
    ∀ c, c < f.ga ∨ f.ga + f.size ≤ c → u.byte c = s.byte c := by
  have hcalm : PortTakes { s with stalled := false } p f :=
    ⟨h.inbox, h.ready, h.refusal, h.last, h.flag, h.ga, h.fits, h.errors, h.clean, h.key, h.keyOf⟩
  have hstep := homeStep_aside (aside_port p) hcalm.inbox hcalm.ready hcalm.last hcalm.refusal fun f s => s.performAt (.port p) f
  rw [performAt_port hcalm, respond_ack (by rw [hop]; rfl) h.flag, performFlit_store _ _ hop, hpsn, hop] at hstep
  have herr : ∀ k, k < 8 → noErr (({ s with stalled := false } : State).setInbox (.port p) []) (f.ga / 64 * 64 + 8 * k) := h.errors
  have hkey : mget 0 (({ s with stalled := false } : State).setInbox (.port p) []).keyOf (f.ga / 64) = 0 := h.keyOf
  have hclean : (({ s with stalled := false } : State).setInbox (.port p) []).poisoned f.ga = false := h.clean
  have hmark : firstMark [0] = 0 := rfl
  rw [hmark, store_hbm h.ga herr hkey hclean] at hstep
  have hstored := portStored s p f.ga f.size (leNat f.data)
  generalize ((({ s with stalled := false } : State).setInbox (.port p) []).setTagAt f.ga false).setVal f.ga f.size (leNat f.data) = v at *
  obtain ⟨g, -, hbrim⟩ := brimmed_answer (aside_port p) v f (r := { op := .ack, count := 1 }) rfl rfl
  have hexec : exec (.store (.port p)) s = .next (v.ackTo (.port p) f) :=
    orWait_of_next (act := fun s => s.homeStep (.port p) .store fun f s => s.performAt (.port p) f) hstep
      (hbrim.alike.stalled.trans hstored.stalled)
  refine ⟨_, hexec, ?_, ?_, fun c hc => ?_⟩
  · rw [State.ackTo, hbrim.alike.ports, hstored.ports]
  · rw [State.ackTo, hbrim.alike.val, hstored.val]
  · rw [State.ackTo, hbrim.alike.beside.byte, hstored.byte c hc]

end
end Sys2Proof.Machine

namespace Sys2Proof.Machine
open Sys2Proof.Claims

/-! ## Registers that a request reaches (R323) -/

theorem gaAddr_eq (a : Nat) : gaAddr a = a % 2 ^ 44 := by
  rw [gaAddr, bits, Nat.pow_zero, Nat.div_one]

/-- The state with f taken from the queue of I/O die d. -/
def State.ioTaken (s : State) (d : Nat) : State := s.setInbox (.io d) []

section
variable (s : State) (d : Nat) (r : Reg)

theorem ioTaken_ioDie (c : Nat) : (s.ioTaken d).ioDie c = if c = d then { s.ioDie d with inq := [] } else s.ioDie c := by
  show mget {} (mset {} s.io d _) c = _
  rw [mget_mset]
  rfl

theorem regOpen_ioTaken (w : Bool) (who : Writer) : (s.ioTaken d).regOpen r w who = s.regOpen r w who := rfl

theorem regRead_ioTaken : (s.ioTaken d).regRead r = s.regRead r := by
  have hroute (c : Nat) : ((s.ioTaken d).ioDie c).route = (s.ioDie c).route ∧ ((s.ioTaken d).ioDie c).admitTab = (s.ioDie c).admitTab := by
    rw [ioTaken_ioDie]
    split
    · next h =>
      rw [h]
      exact ⟨rfl, rfl⟩
    · exact ⟨rfl, rfl⟩
  cases r
  case route c p => rw [State.regRead, State.regRead, (hroute c).1]
  case admitTab c i => rw [State.regRead, State.regRead, (hroute c).2]
  all_goals rfl

end

/-- I/O die d takes f, which names the register r. -/
structure IoTakes (s : State) (d : Nat) (f : Flit) (r : Reg) : Prop where
  inbox : (s.ioDie d).inq = [f]
  last : f.flast = 0
  flag : f.flag = 0
  reg : regOf f = some r

/-- A load is sized as its register takes it. -/
def sizedFor (r : Reg) (f : Flit) : Bool := f.size == 8 || (f.size == 4 && !r.ofSequencer)

section
variable {s : State} {d : Nat} {f : Flit} {r : Reg} (h : IoTakes s d f r)
include h

theorem ioRefusal_load (hop : f.op = .load) (hopen : s.regOpen r false (.device f.ctx) = true) :
    (s.ioTaken d).refusal (.io d) f = if sizedFor r f then none else some .cap := by
  show (s.ioTaken d).ioRefusal f = _
  unfold State.ioRefusal
  rw [h.reg]
  simp only [hop, regOpen_ioTaken, hopen, Bool.and_true]
  rfl

theorem ioRefusal_store (hop : f.op = .store) (hopen : s.regOpen r true (.device f.ctx) = false) :
    (s.ioTaken d).refusal (.io d) f = some .cap := by
  show (s.ioTaken d).ioRefusal f = _
  unfold State.ioRefusal
  rw [h.reg]
  simp only [hop, regOpen_ioTaken, hopen, Bool.and_false, Bool.false_eq_true, if_false]

theorem ioRefusal_arm (hop : f.op = .arm) {n : Nat} (hr : r = .lflag n) (hopen : s.regOpen r false (.device f.ctx) = true) :
    (s.ioTaken d).refusal (.io d) f = none := by
  subst hr
  show (s.ioTaken d).ioRefusal f = _
  unfold State.ioRefusal
  rw [h.reg]
  simp only [hop, regOpen_ioTaken, hopen, Bool.and_true, if_true]

theorem io_step (hrefusal : (s.ioTaken d).refusal (.io d) f = none) (act : Flit → State → State) :
    s.homeStep (.io d) f.op act = .next (act f (s.ioTaken d)) :=
  homeStep_aside (aside_io d) h.inbox rfl h.last hrefusal act

theorem io_refused (hrefusal : (s.ioTaken d).refusal (.io d) f = some .cap) (act : Flit → State → State) :
    s.homeStep (.io d) f.op act = .next ((s.ioTaken d).nakWith (.io d) f .cap (reasonClass .cap) false) :=
  homeStep_aside_refused (aside_io d) h.inbox rfl h.last hrefusal act

end

/-- A refusal by an I/O die. -/
theorem nak_brimmed (s : State) (d : Nat) (f : Flit) : ∃ g row, Brimmed s (s.nakWith (.io d) f .cap (reasonClass .cap) false) row g ∧
    g.op = .nak ∧ g.reason = .cap := by
  obtain ⟨g, hg, hbrim⟩ := brimmed_answer (aside_io d) s f (r := { f with
    op := .nak, flast := 0, reason := .cap, cls := reasonClass .cap, origin := originOf (.io d), sigref := false, crcBad := false, age := 0,
    dpkg := none, count := 0 }) rfl rfl
  exact ⟨g, _, hbrim, hg.op, hg.reason⟩

section
variable {s : State} {d : Nat} {f : Flit} {r : Reg} (h : IoTakes s d f r)
include h

theorem io_load_read (hop : f.op = .load) (hpass : ∀ c, r ≠ .trpass c) (hsized : sizedFor r f = true)
    (hopen : s.regOpen r false (.device f.ctx) = true) : ∃ u g row, exec (.load (.io d)) s = .next u ∧ (u.ioDie d).inq = [] ∧
      (u.router row).brimB.getLast? = some g ∧ g.op = .resp ∧ g.tag = f.tag ∧
      g.data = natLe 8 (halfRead (gaAddr f.ga) f.size (s.regRead r).toNat) ∧ u.mem = s.mem := by
  have hexec : exec (.load (.io d)) s = s.homeStep (.io d) f.op fun f s => s.ioLoad (.io d) f := by
    rw [hop]
    rfl
  have hstep := io_step h (by rw [ioRefusal_load h hop hopen, hsized, if_pos rfl]) fun f s => s.ioLoad (.io d) f
  have hread : (s.ioTaken d).readReg r = (s.regRead r, s.ioTaken d) := by
    rw [← regRead_ioTaken s d r]
    cases r
    case trpass c => exact absurd rfl (hpass c)
    all_goals rfl
  have hload : (s.ioTaken d).ioLoad (.io d) f = (s.ioTaken d).answer (.io d) f
      (respFlit [(halfRead (gaAddr f.ga) f.size (s.regRead r).toNat, 0)] 0) := by
    unfold State.ioLoad
    rw [h.reg]
    dsimp only
    rw [hread, respond_words (.inl hop)]
    rfl
  have hdie : ((s.ioTaken d).ioDie d).inq = [] := by rw [ioTaken_ioDie, if_pos rfl]
  have hmem : (s.ioTaken d).mem = s.mem := rfl
  rw [hload] at hstep
  generalize s.ioTaken d = v at *
  generalize halfRead (gaAddr f.ga) f.size (s.regRead r).toNat = n at *
  obtain ⟨g, hg, hbrim⟩ := brimmed_answer (aside_io d) v f (r := respFlit [(n, 0)] 0) rfl rfl
  refine ⟨_, g, _, hexec.trans hstep, ?_, hbrim.last, hg.op, hg.tag, hg.data.trans ?_, hbrim.alike.mem.trans hmem⟩
  · rw [hbrim.alike.ioDie, hdie]
  · rw [respFlit]
    simp [natLe_length]

theorem io_load_refused (hop : f.op = .load) (hsized : sizedFor r f = false) (hopen : s.regOpen r false (.device f.ctx) = true) :
    ∃ u g row, exec (.load (.io d)) s = .next u ∧ (u.router row).brimB.getLast? = some g ∧ g.op = .nak ∧ g.reason = .cap ∧ u.mem = s.mem := by
  have hexec : exec (.load (.io d)) s = s.homeStep (.io d) f.op fun f s => s.ioLoad (.io d) f := by
    rw [hop]
    rfl
  have hstep := io_refused h (by rw [ioRefusal_load h hop hopen, hsized, if_neg Bool.false_ne_true]) fun f s => s.ioLoad (.io d) f
  obtain ⟨g, row, hbrim, hnak, hreason⟩ := nak_brimmed (s.ioTaken d) d f
  exact ⟨_, g, row, hexec.trans hstep, hbrim.last, hnak, hreason, hbrim.alike.mem⟩

theorem io_store_refused (hop : f.op = .store) (hopen : s.regOpen r true (.device f.ctx) = false) :
    ∃ u g, exec (.store (.io d)) s = .next u ∧ (∃ row, (u.router row).brimB.getLast? = some g) ∧ g.op = .nak ∧ g.reason = .cap ∧ u.mem = s.mem := by
  have hcalm : IoTakes { s with stalled := false } d f r := ⟨h.inbox, h.last, h.flag, h.reg⟩
  have hstep := io_refused hcalm (ioRefusal_store hcalm hop hopen) fun f s => s.ioStore (.io d) f
  obtain ⟨g, row, hbrim, hnak, hreason⟩ := nak_brimmed (({ s with stalled := false } : State).ioTaken d) d f
  rw [hop] at hstep
  have hexec := orWait_of_next (s := s) (act := fun s => s.homeStep (.io d) .store fun f s => s.ioStore (.io d) f) hstep hbrim.alike.stalled
  exact ⟨_, g, hexec, ⟨row, hbrim.last⟩, hnak, hreason, hbrim.alike.mem⟩

/-- An arm on a launch flag that is not decided. -/
theorem io_arm (hop : f.op = .arm) (honce : f.once = false) {n : Nat} (hr : r = .lflag n) (hflag : launchFlag f.ga = some n)
    (hundecided : decided (s.lflagAt n) (f.cmp == 1) f.opnd = false) (hopen : s.regOpen r false (.device f.ctx) = true) :
    exec (.arm (.io d)) s = .next ((s.ioTaken d).register (.io d) f) := by
  have hexec : exec (.arm (.io d)) s = s.homeStep (.io d) f.op fun f s =>
      if decided (s.armFlag (.io d) f).1.1 (f.cmp == 1) f.opnd then
        (s.armFlag (.io d) f).2.answer (.io d) f (fireFlit (s.armFlag (.io d) f).1.1 (s.armFlag (.io d) f).1.2)
      else if f.once then (s.armFlag (.io d) f).2.answer (.io d) f { op := .fire }
      else (s.armFlag (.io d) f).2.register (.io d) f := by
    rw [hop]
    rfl
  have harm : (s.ioTaken d).armFlag (.io d) f = ((s.lflagAt n, flagOrigin (s.lflag n)), s.ioTaken d) := by
    unfold State.armFlag
    rw [hflag]
    rfl
  rw [hexec, io_step h (ioRefusal_arm h hop hr hopen)]
  rw [harm]
  dsimp only
  rw [hundecided, honce, if_neg Bool.false_ne_true, if_neg Bool.false_ne_true]

end
end Sys2Proof.Machine

namespace Sys2Proof.Machine
open Sys2Proof.Claims

section
variable (s : State) (d : Nat) (f : Flit)

/-- An arm that waits at an I/O die with room in its table. -/
theorem io_register (hroom : (s.ioDie d).monitors.length < 64) :
    (((s.ioTaken d).register (.io d) f).ioDie d).monitors = (s.ioDie d).monitors ++ [f] := by
  have hdie : (s.ioTaken d).ioDie d = { s.ioDie d with inq := [] } := by rw [ioTaken_ioDie, if_pos rfl]
  have hregister : (s.ioTaken d).register (.io d) f =
      (s.ioTaken d).setIo d { (s.ioTaken d).ioDie d with monitors := ((s.ioTaken d).ioDie d).monitors ++ [f] } :=
    if_pos (by rw [hdie]; exact hroom)
  rw [hregister, State.ioDie, State.setIo, mget_mset_self, hdie]

/-- An arm that finds the table full. -/
theorem io_register_full (hfull : 64 ≤ (s.ioDie d).monitors.length) : ∃ g, (((s.ioTaken d).register (.io d) f).ioDie d).monitors =
    (s.ioDie d).monitors ∧ (∃ row, (((s.ioTaken d).register (.io d) f).router row).brimB.getLast? = some g) ∧ g.op = .notreg ∧ g.tag = f.tag := by
  have hdie : (s.ioTaken d).ioDie d = { s.ioDie d with inq := [] } := by rw [ioTaken_ioDie, if_pos rfl]
  have hregister : (s.ioTaken d).register (.io d) f = (s.ioTaken d).answer (.io d) f { op := .notreg } :=
    if_neg (by rw [hdie]; exact Nat.not_lt.mpr hfull)
  obtain ⟨g, hg, hbrim⟩ := brimmed_answer (aside_io d) (s.ioTaken d) f (r := { op := .notreg }) rfl rfl
  rw [hregister]
  refine ⟨g, ?_, ⟨_, hbrim.last⟩, hg.op, hg.tag⟩
  rw [hbrim.alike.ioDie, hdie]

end

theorem halfRead_word (a v : Nat) : halfRead a 8 v = v := if_pos rfl

theorem halfRead_half (a v : Nat) : halfRead (gaAddr a) 4 v = v / 2 ^ (8 * (a % 8)) % 2 ^ 32 := by
  rw [halfRead, if_neg (by norm_num), gaAddr_eq, show a % 2 ^ 44 % 8 = a % 8 by omega]

theorem portAndRegisterRequests : PortAndRegisterRequests := by
  intro s f hlast hflag
  refine ⟨fun p hports hready hdie hguard hga hfits herr hclean hkey hkeys hkeyOf => ?_, fun d r hinq hreg hpass => ?_⟩
  · have htakes : PortTakes s p f := by
      refine ⟨hports, ?_, ?_, hlast, hflag, hga, hfits, herr, hclean, ?_, hkeyOf⟩
      · rw [State.ready, hready]
        rfl
      · show (s.setInbox (.port p) []).portRefusal f = none
        have hpresent : (s.setInbox (.port p) []).diePresent (dieOfStack (f.ga / 2 ^ 36 % 16)) = true := hdie
        rw [State.portRefusal, hpresent, hguard]
        rfl
      · rw [hkey, State.slotLoad, hkeys]
        rfl
    exact ⟨fun hop => port_load htakes hop, fun hop _ hpsn => port_store htakes hop hpsn⟩
  · have htakes : IoTakes s d f r := ⟨hinq, hlast, hflag, by rw [regOf, gaAddr_eq]; exact hreg⟩
    refine ⟨fun hop hopen hsize hga => ?_, fun hop hopen hsize hga => ?_, fun hop honce hmon hopen => ?_, fun hop hopen => ?_⟩
    · have hsized : sizedFor r f = true := by
        rw [sizedFor, hsize]
        rfl
      obtain ⟨u, g, row, hexec, hempty, hat, hgop, htag, hdata, hmem⟩ := io_load_read htakes hop hpass hsized hopen
      rw [hsize, halfRead_word] at hdata
      exact ⟨u, g, hexec, hempty, ⟨row, hat⟩, hgop, htag, hdata, hmem⟩
    · cases hseq : r.ofSequencer
      · have hsized : sizedFor r f = true := by
          rw [sizedFor, hsize, hseq]
          rfl
        obtain ⟨u, g, row, hexec, -, hat, hgop, -, hdata, hmem⟩ := io_load_read htakes hop hpass hsized hopen
        rw [hsize, halfRead_half] at hdata
        exact ⟨u, g, hexec, ⟨row, hat⟩, hmem, hgop, hdata⟩
      · have hsized : sizedFor r f = false := by
          rw [sizedFor, hsize, hseq]
          rfl
        obtain ⟨u, g, row, hexec, hat, hgop, hreason, hmem⟩ := io_load_refused htakes hop hsized hopen
        exact ⟨u, g, hexec, ⟨row, hat⟩, hmem, hgop, hreason⟩
    · obtain ⟨n, hr, hlaunch, hundecided⟩ := hmon
      have hexec := io_arm htakes hop honce hr hlaunch hundecided hopen
      refine ⟨fun hroom => ⟨_, hexec, io_register s d f hroom⟩, fun hfull => ?_⟩
      obtain ⟨g, hmonitors, hat, hgop, htag⟩ := io_register_full s d f hfull
      exact ⟨_, g, hexec, hmonitors, hat, hgop, htag⟩
    · exact io_store_refused htakes hop hopen

/-- Settles O49: what a home does with a request it takes is what the operation does to memory, whatever tiles and routers hold,
and waking leaves of a tile what the answer needs; the flit of the answer is then the last that the home has to send. -/
theorem homeRequests : Obligations.HomeRequests :=
  ⟨requestsRefused, dataRequests, syncRequests, streamRequests, taskRequests, portAndRegisterRequests⟩

end Sys2Proof.Machine
